-- ==== Sys2Proof/Word.lean ====
section
/-!
DEFINITION. The word types of the engine and the sparse map that every unbounded table of the model uses.
-/

namespace Sys2Proof

/-- A byte. -/
abbrev Byte := BitVec 8

/-- A 32-bit register word of the window (R455). -/
abbrev Word := BitVec 32

/-- A Lantern data word (chapter 12). -/
abbrev W64 := BitVec 64

/-- A 64-byte cache line; byte b lies in bits [8b+7:8b] (R28). -/
abbrev Line := BitVec 512

/-- An error pattern over the 80 symbols of one burst (R222): symbol p lies in bits [8p+7:8p], xored onto what was stored. -/
abbrev Burst := BitVec 640

/-- A table by number, as an association list with strictly rising keys. An unlisted key holds nothing. -/
abbrev SMap (α : Type) := List (Nat × α)

/-- What a table holds at key k. -/
def mget {α : Type} : SMap α → Nat → Option α
  | [], _ => none
  | (j, a) :: m, k => if j = k then some a else mget m k

/-- What a table holds at key k, or d. -/
def mgetD {α : Type} (m : SMap α) (k : Nat) (d : α) : α := (mget m k).getD d

/-- The table with a at key k; the keys stay strictly rising. -/
def mput {α : Type} : SMap α → Nat → α → SMap α
  | [], k, a => [(k, a)]
  | (j, b) :: m, k, a =>
    if k < j then (k, a) :: (j, b) :: m
    else if k = j then (k, a) :: m
    else (j, b) :: mput m k a

/-- The table with nothing at key k. -/
def mdel {α : Type} : SMap α → Nat → SMap α
  | [], _ => []
  | (j, b) :: m, k => if j = k then m else (j, b) :: mdel m k

end Sys2Proof
end

