-- ==== Sys2Proof/Syntax.lean ====
section
/-!
DEFINITION. The commands that the engine takes, and the types of their operands.
-/

namespace Sys2Proof

/-- The fields of the 128-bit fabric request word other than OPC, which the row fixes (Table 2.2). -/
structure ReqWord where
  addr : BitVec 46
  len : BitVec 6
  tag : BitVec 8
  tkt : BitVec 8
  dlv : Bool
  dl : BitVec 24
  size : BitVec 3
  aop : BitVec 4
  rsvd : BitVec 23
  deriving DecidableEq, Repr

/-- A logical rank of a port: channel (0 on a direct port), DIMM, package rank, logical rank (R147, R199). -/
structure RankId where
  ch : Fin 2
  dimm : Fin 2
  prank : Fin 2
  cid : Fin 8
  deriving DecidableEq, Repr

/-- A bank within one sub-channel of a port (R147). -/
structure BankId where
  dimm : Fin 2
  prank : Fin 2
  cid : Fin 8
  bg : Fin 8
  bank : Fin 4
  deriving DecidableEq, Repr

/-- What the sideband reads from one SPD slot (R142, R144): whether a DIMM answers, whether its data is readable, whether it is an
RDIMM, device width and density in Gb, package ranks, stack height, the highest data rate in MT/s, and DRAM-side DFE. -/
structure SpdSlot where
  present : Bool
  readable : Bool
  rdimm : Bool
  width : Nat
  density : Nat
  pranks : Nat
  height : Nat
  maxSpd : Nat
  dfe : Bool
  deriving DecidableEq, Repr

/-- One item of a field measurement (R213): the step, where it lies, its two results, and the eye that it saw (R220). -/
structure Meas where
  step : BitVec 4
  kind : Fin 3
  ch : Fin 2
  sub : Fin 2
  rank : Fin 4
  bit : BitVec 7
  r1 : Int
  r2 : Int
  width : BitVec 12
  height : BitVec 10
  resid : BitVec 12
  deriving DecidableEq, Repr

/-- What the 1 ms soak of one receive lane showed (R206). -/
structure SoakResult where
  locked : Bool
  uncorrectable : Nat
  symbols : Nat
  agree : Bool
  width : BitVec 12
  height : BitVec 10
  resid : BitVec 12
  deriving DecidableEq, Repr

/-- What one line of a stall refill met (R269): index 0 to 7 a data line of the bank, 8 the tag line. -/
structure RefillErr where
  idx : Fin 9
  failed : Bool
  err : Burst
  deriving DecidableEq, Repr

/-- What the ledger's SECDED found at a lookup (R299). -/
inductive EccEvent where
  | none | ce | ue
  deriving DecidableEq, Repr

/-- The fields of a ring header flit other than CLASS and OP, which the row fixes (Table 11.3). -/
structure RingHdr where
  src : BitVec 5
  dst : BitVec 5
  txn : BitVec 8
  rqs : BitVec 5
  rqt : BitVec 8
  laddr : BitVec 40
  state : BitVec 3
  sts : BitVec 4
  poison : Bool
  dirty : Bool
  fwd : Bool
  note : Bool
  nodata : Bool
  hold : BitVec 7
  arg : BitVec 8
  off : BitVec 6
  rsvdLo : BitVec 16
  be : BitVec 64
  rsvdHi : BitVec 320
  deriving DecidableEq, Repr

/-- Where a request for an engine state or a port transition comes from (chapter 15): a write of PWR_REQ or PP_REQ, the host
command ENGINE_POWER or PORT_POWER that a handle names, or the EPWR or PPWR instruction of a Lantern context. -/
inductive ReqSrc where
  | reg
  | handle (h : BitVec 12)
  | lant (c : Fin 4) (rd ra rb : BitVec 5) (sf : BitVec 1)
  deriving DecidableEq, Repr

/-- What a transition in preparation belongs to (R413). -/
inductive TransId where
  | engine
  | domain (d : Fin 50)
  | port (p : Fin 20)
  deriving DecidableEq, Repr

/-- The wake sources of Table 15.6. -/
inductive WakeSrc where
  | fabric | ring | register | alarm | wait | launch | reserveLow | doorbell
  deriving DecidableEq, Repr


/-- The commands of the engine: one constructor per row of spec/opcode_table.json (the docstring names the row, its rule and
what the row says of it). Operands are what the master, the buffer, the DRAM or the board supplies with the command. -/
inductive Instr where
  /-- ADD (R336). Lantern ADD adds two registers modulo 2^64. -/
  | add (c : Fin 4) (rd ra rb : BitVec 5) (sf : BitVec 1) (x : BitVec 4)
  /-- SUB (R336). Lantern SUB subtracts two registers modulo 2^64. -/
  | sub (c : Fin 4) (rd ra rb : BitVec 5) (sf : BitVec 1) (x : BitVec 4)
  /-- AND (R336). Lantern AND of two registers. -/
  | and (c : Fin 4) (rd ra rb : BitVec 5) (sf : BitVec 1) (x : BitVec 4)
  /-- OR (R336). Lantern OR of two registers. -/
  | or (c : Fin 4) (rd ra rb : BitVec 5) (sf : BitVec 1) (x : BitVec 4)
  /-- XOR (R336). Lantern XOR of two registers. -/
  | xor (c : Fin 4) (rd ra rb : BitVec 5) (sf : BitVec 1) (x : BitVec 4)
  /-- ANDN (R336). Lantern ANDN: ra and not rb. -/
  | andn (c : Fin 4) (rd ra rb : BitVec 5) (sf : BitVec 1) (x : BitVec 4)
  /-- SLL (R336). Lantern SLL shifts left, giving 0 for amounts of 64 or more. -/
  | sll (c : Fin 4) (rd ra rb : BitVec 5) (sf : BitVec 1) (x : BitVec 4)
  /-- SRL (R336). Lantern SRL shifts right with zero fill. -/
  | srl (c : Fin 4) (rd ra rb : BitVec 5) (sf : BitVec 1) (x : BitVec 4)
  /-- SRA (R336). Lantern SRA shifts right with sign fill. -/
  | sra (c : Fin 4) (rd ra rb : BitVec 5) (sf : BitVec 1) (x : BitVec 4)
  /-- SLT (R336). Lantern SLT sets 1 on signed less-than. -/
  | slt (c : Fin 4) (rd ra rb : BitVec 5) (sf : BitVec 1) (x : BitVec 4)
  /-- SLTU (R336). Lantern SLTU sets 1 on unsigned less-than. -/
  | sltu (c : Fin 4) (rd ra rb : BitVec 5) (sf : BitVec 1) (x : BitVec 4)
  /-- MIN (R336). Lantern MIN gives the signed lesser. -/
  | min (c : Fin 4) (rd ra rb : BitVec 5) (sf : BitVec 1) (x : BitVec 4)
  /-- MAX (R336). Lantern MAX gives the signed greater. -/
  | max (c : Fin 4) (rd ra rb : BitVec 5) (sf : BitVec 1) (x : BitVec 4)
  /-- MINU (R336). Lantern MINU gives the unsigned lesser. -/
  | minu (c : Fin 4) (rd ra rb : BitVec 5) (sf : BitVec 1) (x : BitVec 4)
  /-- MAXU (R336). Lantern MAXU gives the unsigned greater. -/
  | maxu (c : Fin 4) (rd ra rb : BitVec 5) (sf : BitVec 1) (x : BitVec 4)
  /-- NEG (R336). Lantern NEG negates a register modulo 2^64. -/
  | neg (c : Fin 4) (rd ra rb : BitVec 5) (sf : BitVec 1) (x : BitVec 4)
  /-- MUL (R336). Lantern MUL gives the low 64 bits of a product. -/
  | mul (c : Fin 4) (rd ra rb : BitVec 5) (sf : BitVec 1) (x : BitVec 4)
  /-- MULH (R336). Lantern MULH gives the high 64 bits of a signed product. -/
  | mulh (c : Fin 4) (rd ra rb : BitVec 5) (sf : BitVec 1) (x : BitVec 4)
  /-- MULHU (R336). Lantern MULHU gives the high 64 bits of an unsigned product. -/
  | mulhu (c : Fin 4) (rd ra rb : BitVec 5) (sf : BitVec 1) (x : BitVec 4)
  /-- DIV (R337). Lantern DIV divides signed, truncating, with the division-by-zero rule. -/
  | div (c : Fin 4) (rd ra rb : BitVec 5) (sf : BitVec 1) (x : BitVec 4)
  /-- DIVU (R337). Lantern DIVU divides unsigned with the division-by-zero rule. -/
  | divu (c : Fin 4) (rd ra rb : BitVec 5) (sf : BitVec 1) (x : BitVec 4)
  /-- REM (R337). Lantern REM gives the signed remainder. -/
  | rem (c : Fin 4) (rd ra rb : BitVec 5) (sf : BitVec 1) (x : BitVec 4)
  /-- REMU (R337). Lantern REMU gives the unsigned remainder. -/
  | remu (c : Fin 4) (rd ra rb : BitVec 5) (sf : BitVec 1) (x : BitVec 4)
  /-- CLZ (R336). Lantern CLZ counts leading zeros. -/
  | clz (c : Fin 4) (rd ra rb : BitVec 5) (sf : BitVec 1) (x : BitVec 4)
  /-- CTZ (R336). Lantern CTZ counts trailing zeros. -/
  | ctz (c : Fin 4) (rd ra rb : BitVec 5) (sf : BitVec 1) (x : BitVec 4)
  /-- POPC (R336). Lantern POPC counts ones. -/
  | popc (c : Fin 4) (rd ra rb : BitVec 5) (sf : BitVec 1) (x : BitVec 4)
  /-- SEXT (R336). Lantern SEXT sign-extends from the width that X selects. -/
  | sext (c : Fin 4) (rd ra rb : BitVec 5) (sf : BitVec 1) (x : BitVec 4)
  /-- ADC (R336). Lantern ADC adds with carry. -/
  | adc (c : Fin 4) (rd ra rb : BitVec 5) (sf : BitVec 1) (x : BitVec 4)
  /-- SBC (R336). Lantern SBC subtracts with borrow. -/
  | sbc (c : Fin 4) (rd ra rb : BitVec 5) (sf : BitVec 1) (x : BitVec 4)
  /-- ADDI (R338). Lantern ADDI adds a sign-extended immediate. -/
  | addi (c : Fin 4) (rd ra : BitVec 5) (imm : BitVec 16)
  /-- ANDI (R338). Lantern ANDI ands a zero-extended immediate. -/
  | andi (c : Fin 4) (rd ra : BitVec 5) (imm : BitVec 16)
  /-- ORI (R338). Lantern ORI ors a zero-extended immediate. -/
  | ori (c : Fin 4) (rd ra : BitVec 5) (imm : BitVec 16)
  /-- XORI (R338). Lantern XORI xors a zero-extended immediate. -/
  | xori (c : Fin 4) (rd ra : BitVec 5) (imm : BitVec 16)
  /-- SHI (R338). Lantern SHI shifts by an immediate amount of the kind it selects. -/
  | shi (c : Fin 4) (rd ra : BitVec 5) (imm : BitVec 16)
  /-- HSETZ (R338). Lantern HSETZ sets one 16-bit field of rd and clears the rest. -/
  | hsetz (c : Fin 4) (rd ra : BitVec 5) (imm : BitVec 16)
  /-- HINS (R338). Lantern HINS inserts a 16-bit immediate into rd. -/
  | hins (c : Fin 4) (rd ra : BitVec 5) (imm : BitVec 16)
  /-- SLTI (R338). Lantern SLTI compares signed with an immediate. -/
  | slti (c : Fin 4) (rd ra : BitVec 5) (imm : BitVec 16)
  /-- SLTIU (R338). Lantern SLTIU compares unsigned with an immediate. -/
  | sltiu (c : Fin 4) (rd ra : BitVec 5) (imm : BitVec 16)
  /-- CMPI (R338). Lantern CMPI sets the flags from ra minus an immediate. -/
  | cmpi (c : Fin 4) (rd ra : BitVec 5) (imm : BitVec 16)
  /-- BC (R339). Lantern BC branches when its flag condition holds. -/
  | bc (c : Fin 4) (cond : BitVec 4) (rsvd : BitVec 6) (off : BitVec 16)
  /-- BEQ (R339). Lantern BEQ branches on equality. -/
  | beq (c : Fin 4) (ra rb : BitVec 5) (off : BitVec 16)
  /-- BNE (R339). Lantern BNE branches on inequality. -/
  | bne (c : Fin 4) (ra rb : BitVec 5) (off : BitVec 16)
  /-- BLT (R339). Lantern BLT branches on signed less-than. -/
  | blt (c : Fin 4) (ra rb : BitVec 5) (off : BitVec 16)
  /-- BGE (R339). Lantern BGE branches on signed greater-or-equal. -/
  | bge (c : Fin 4) (ra rb : BitVec 5) (off : BitVec 16)
  /-- BLTU (R339). Lantern BLTU branches on unsigned less-than. -/
  | bltu (c : Fin 4) (ra rb : BitVec 5) (off : BitVec 16)
  /-- BGEU (R339). Lantern BGEU branches on unsigned greater-or-equal. -/
  | bgeu (c : Fin 4) (ra rb : BitVec 5) (off : BitVec 16)
  /-- JAL (R339). Lantern JAL jumps and links into g31. -/
  | jal (c : Fin 4) (off : BitVec 26)
  /-- JALR (R339). Lantern JALR jumps to a register target and links into rd. -/
  | jalr (c : Fin 4) (rd ra : BitVec 5) (imm : BitVec 16)
  /-- LBU (R340). Lantern LBU loads a zero-extended byte from data RAM. -/
  | lbu (c : Fin 4) (rd ra : BitVec 5) (imm : BitVec 16)
  /-- LHU (R340). Lantern LHU loads a zero-extended 16-bit value. -/
  | lhu (c : Fin 4) (rd ra : BitVec 5) (imm : BitVec 16)
  /-- LWU (R340). Lantern LWU loads a zero-extended 32-bit value. -/
  | lwu (c : Fin 4) (rd ra : BitVec 5) (imm : BitVec 16)
  /-- LD (R340). Lantern LD loads 64 bits from data RAM. -/
  | ld (c : Fin 4) (rd ra : BitVec 5) (imm : BitVec 16)
  /-- LB (R340). Lantern LB loads a sign-extended byte. -/
  | lb (c : Fin 4) (rd ra : BitVec 5) (imm : BitVec 16)
  /-- LH (R340). Lantern LH loads a sign-extended 16-bit value. -/
  | lh (c : Fin 4) (rd ra : BitVec 5) (imm : BitVec 16)
  /-- LW (R340). Lantern LW loads a sign-extended 32-bit value. -/
  | lw (c : Fin 4) (rd ra : BitVec 5) (imm : BitVec 16)
  /-- SB (R340). Lantern SB stores a byte to data RAM. -/
  | sb (c : Fin 4) (rd ra : BitVec 5) (imm : BitVec 16)
  /-- SH (R340). Lantern SH stores 16 bits to data RAM. -/
  | sh (c : Fin 4) (rd ra : BitVec 5) (imm : BitVec 16)
  /-- SW (R340). Lantern SW stores 32 bits to data RAM. -/
  | sw (c : Fin 4) (rd ra : BitVec 5) (imm : BitVec 16)
  /-- SD (R340). Lantern SD stores 64 bits to data RAM. -/
  | sd (c : Fin 4) (rd ra : BitVec 5) (imm : BitVec 16)
  /-- LDM (R342). Lantern LDM loads 8 bytes from an engine address, blocking. -/
  | ldm (c : Fin 4) (rd ra : BitVec 5) (imm : BitVec 16)
  /-- STM (R342). Lantern STM posts an 8-byte partial-line store. -/
  | stm (c : Fin 4) (rd ra : BitVec 5) (imm : BitVec 16)
  /-- LDLN (R342). Lantern LDLN posts a copy of a DRAM line into a data RAM line. -/
  | ldln (c : Fin 4) (rd ra rb : BitVec 5) (sf : BitVec 1) (x : BitVec 4)
  /-- STLN (R342). Lantern STLN posts a full-line store from data RAM. -/
  | stln (c : Fin 4) (rd ra rb : BitVec 5) (sf : BitVec 1) (x : BitVec 4)
  /-- ZLN (R342). Lantern ZLN posts a full-line store of zero. -/
  | zln (c : Fin 4) (rd ra rb : BitVec 5) (sf : BitVec 1) (x : BitVec 4)
  /-- LANT_LR (R342). Lantern LR loads 8 bytes and reserves the granule. -/
  | lantLr (c : Fin 4) (rd ra rb : BitVec 5) (sf : BitVec 1) (x : BitVec 4)
  /-- LANT_SC (R342). Lantern SC stores 8 bytes under the reservation rule. -/
  | lantSc (c : Fin 4) (rd ra rb : BitVec 5) (sf : BitVec 1) (x : BitVec 4)
  /-- LANT_AMO (R342). Lantern AMO performs an 8-byte atomic at home or far. -/
  | lantAmo (c : Fin 4) (rd ra rb : BitVec 5) (sf : BitVec 1) (x : BitVec 4)
  /-- SPUT (R344). Lantern SPUT pushes one item into a stall. -/
  | sput (c : Fin 4) (rd ra rb : BitVec 5) (sf : BitVec 1) (x : BitVec 4)
  /-- SGET (R344). Lantern SGET reads one stall word into data RAM. -/
  | sget (c : Fin 4) (rd ra rb : BitVec 5) (sf : BitVec 1) (x : BitVec 4)
  /-- STLY (R344). Lantern STLY fetches tallies of a stall. -/
  | stly (c : Fin 4) (rd ra rb : BitVec 5) (sf : BitVec 1) (x : BitVec 4)
  /-- SCMD (R344). Lantern SCMD issues the stall command X. -/
  | scmd (c : Fin 4) (rd ra rb : BitVec 5) (sf : BitVec 1) (x : BitVec 4)
  /-- RDTB (R345). Lantern RDTB reads the timebase count, optionally latching it. -/
  | rdtb (c : Fin 4) (rd ra rb : BitVec 5) (sf : BitVec 1) (x : BitVec 4)
  /-- WAIT (R345). Lantern WAIT blocks the context until the count reaches its target. -/
  | wait (c : Fin 4) (rd ra rb : BitVec 5) (sf : BitVec 1) (x : BitVec 4)
  /-- WAIT_RESUME (R137). A WAIT resumes at the first cycle at which the count reaches its target. -/
  | waitResume (c : Fin 4)
  /-- LAUNCH (R132). Lantern LAUNCH copies and checks a launch list and holds it as a pending launch. -/
  | launch (c : Fin 4) (rd ra rb : BitVec 5) (sf : BitVec 1) (x : BitVec 4)
  /-- LCANCEL (R345). Lantern LCANCEL cancels a pending launch. -/
  | lcancel (c : Fin 4) (rd ra rb : BitVec 5) (sf : BitVec 1) (x : BitVec 4)
  /-- BAR (R343). Lantern BAR executes an ORDER, VISIBLE or DURABLE barrier of the context. -/
  | bar (c : Fin 4) (rd ra rb : BitVec 5) (sf : BitVec 1) (x : BitVec 4)
  /-- IFLUSH (R346). Lantern IFLUSH invalidates the instruction cache or one line. -/
  | iflush (c : Fin 4) (rd ra rb : BitVec 5) (sf : BitVec 1) (x : BitVec 4)
  /-- HBIND (R346). Lantern HBIND binds a host command handle to context 0. -/
  | hbind (c : Fin 4) (rd ra rb : BitVec 5) (sf : BitVec 1) (x : BitVec 4)
  /-- HDONE (R346). Lantern HDONE completes a handle with a status and result after a VISIBLE wait. -/
  | hdone (c : Fin 4) (rd ra rb : BitVec 5) (sf : BitVec 1) (x : BitVec 4)
  /-- BRK (R346). Lantern BRK traps BREAK. -/
  | brk (c : Fin 4) (rd ra rb : BitVec 5) (sf : BitVec 1) (x : BitVec 4)
  /-- HALT (R346). Lantern HALT stops the context and raises LANT_DONE. -/
  | halt (c : Fin 4) (rd ra rb : BitVec 5) (sf : BitVec 1) (x : BitVec 4)
  /-- EQ_ENERGY_TOTAL (R391). Lantern EQ with X = 0 reads the energy meter total. -/
  | eqEnergyTotal (c : Fin 4) (rd ra rb : BitVec 5) (sf : BitVec 1)
  /-- EQ_USABLE_RESERVE (R391). Lantern EQ with X = 1 reads the usable reserve energy. -/
  | eqUsableReserve (c : Fin 4) (rd ra rb : BitVec 5) (sf : BitVec 1)
  /-- EQ_DOMAIN_LOW (R391). Lantern EQ with X = 2 reads slots 0–63 of the durable domain and latches the rest. -/
  | eqDomainLow (c : Fin 4) (rd ra rb : BitVec 5) (sf : BitVec 1)
  /-- EQ_DOMAIN_HIGH (R391). Lantern EQ with X = 3 reads slots 64–71 from the latch. -/
  | eqDomainHigh (c : Fin 4) (rd ra rb : BitVec 5) (sf : BitVec 1)
  /-- EQ_RETENTION (R391). Lantern EQ with X = 4 reads the retention time. -/
  | eqRetention (c : Fin 4) (rd ra rb : BitVec 5) (sf : BitVec 1)
  /-- EQ_ALLOWANCE (R391). Lantern EQ with X = 5 reads the power window allowance. -/
  | eqAllowance (c : Fin 4) (rd ra rb : BitVec 5) (sf : BitVec 1)
  /-- EQ_STAGE (R391). Lantern EQ with X = 6 reads the step-down stage. -/
  | eqStage (c : Fin 4) (rd ra rb : BitVec 5) (sf : BitVec 1)
  /-- MFS (R334). Lantern MFS reads a special register. -/
  | mfs (c : Fin 4) (rd ra : BitVec 5) (imm : BitVec 16)
  /-- MTS (R334). Lantern MTS writes a special register. -/
  | mts (c : Fin 4) (rd ra : BitVec 5) (imm : BitVec 16)
  /-- MRW (R347). Lantern MRW writes a DRAM mode register in a 40-tick pause. -/
  | mrw (c : Fin 4) (rd ra rb : BitVec 5) (sf : BitVec 1) (x : BitVec 4)
  /-- MRR (R347). Lantern MRR reads a DRAM mode register. -/
  | mrr (c : Fin 4) (rd ra rb : BitVec 5) (sf : BitVec 1) (x : BitVec 4)
  /-- REFC_REF_NOW (R347). Lantern REFC X = 0 issues the rank's next refresh now. -/
  | refcRefNow (c : Fin 4) (rd ra rb : BitVec 5) (sf : BitVec 1)
  /-- REFC_SR_ENTER (R347). Lantern REFC X = 1 puts the port into self-refresh. -/
  | refcSrEnter (c : Fin 4) (rd ra rb : BitVec 5) (sf : BitVec 1)
  /-- REFC_SR_EXIT (R347). Lantern REFC X = 2 takes the port out of self-refresh. -/
  | refcSrExit (c : Fin 4) (rd ra rb : BitVec 5) (sf : BitVec 1)
  /-- REFC_ZQ (R347). Lantern REFC X = 3 runs a ZQ calibration start and latch. -/
  | refcZq (c : Fin 4) (rd ra rb : BitVec 5) (sf : BitVec 1)
  /-- RREP_SOFT (R161). Lantern RREP with X[0] = 0 starts a soft post-package repair. -/
  | rrepSoft (c : Fin 4) (rd ra rb : BitVec 5) (sf : BitVec 1) (x : BitVec 3) (freeResource : Bool)
  /-- RREP_HARD (R161). Lantern RREP with X[0] = 1 records a hard repair as pending. -/
  | rrepHard (c : Fin 4) (rd ra rb : BitVec 5) (sf : BitVec 1) (x : BitVec 3)
  /-- TRSTEP (R347). Lantern TRSTEP runs one training step on a port in TRAIN or TEST. -/
  | trstep (c : Fin 4) (rd ra rb : BitVec 5) (sf : BitVec 1) (x : BitVec 4) (ok : Bool)
  /-- RD (R30). A fabric master's request word with opcode RD asks for LEN+1 lines and is answered with read beats in address order. -/
  | rd (fp : Fin 32) (w : ReqWord)
  /-- WR (R30). A fabric request word with opcode WR writes LEN+1 lines under byte enables and is answered with one response. -/
  | wr (fp : Fin 32) (w : ReqWord)
  /-- WRZ (R30). A fabric request word with opcode WRZ writes LEN+1 full lines of zero without write beats. -/
  | wrz (fp : Fin 32) (w : ReqWord)
  /-- LR (R65). A fabric LR reads one line and sets the master's reservation on its granule at the home. -/
  | lr (fp : Fin 32) (w : ReqWord)
  /-- SC (R78). A fabric SC stores one line only if the master's reservation holds at the ordering point, else completes EXCL_FAIL. -/
  | sc (fp : Fin 32) (w : ReqWord)
  /-- AMO (R31). A fabric AMO performs the atomic operation that AOP selects and returns the old value in one read beat. -/
  | amo (fp : Fin 32) (w : ReqWord)
  /-- ORDER (R69). A fabric ORDER barrier is answered OK once placed and orders later accesses of the port behind earlier ones. -/
  | order (fp : Fin 32) (w : ReqWord)
  /-- VISIBLE (R70). A fabric VISIBLE barrier is answered once every preceding access is performed and prior register writes have taken effect. -/
  | visible (fp : Fin 32) (w : ReqWord)
  /-- DURABLE (R71). A fabric DURABLE barrier waits as VISIBLE and then judges the port footprint against the durable domain. -/
  | durable (fp : Fin 32) (w : ReqWord)
  /-- STALL_PUT (R262). A producer pushes 1 to 512 items into a stall, which the engine packs into words under tally accounting. -/
  | stallPut (fp : Fin 32) (w : ReqWord)
  /-- STALL_WORD_READ (R265). A STALL_GET with VIEW = 0 reads up to 32 words of a stall with a tag beat, filling with idle words. -/
  | stallWordRead (fp : Fin 32) (w : ReqWord)
  /-- TALLY_FETCH (R270). A STALL_GET with VIEW = 1 grants the producer tallies and returns GRANT, OUT and FLAGS in one beat. -/
  | tallyFetch (fp : Fin 32) (w : ReqWord)
  /-- DROP (R276). The consumer's DROP discards the rest of the packet it is reading. -/
  | drop (fp : Fin 32) (w : ReqWord)
  /-- MARK (R277). The consumer's MARK sets the mark of a rewindable stall to the read position. -/
  | mark (fp : Fin 32) (w : ReqWord)
  /-- REWIND (R277). The consumer's REWIND sets the read position back to the mark once earlier words are written through. -/
  | rewind (fp : Fin 32) (w : ReqWord)
  /-- RELEASE (R277). The consumer's RELEASE frees every word before the read position of a rewindable stall. -/
  | release (fp : Fin 32) (w : ReqWord)
  /-- FLUSH (R274). The producer's FLUSH completes the stall's open partial word as a FRAG word. -/
  | flush (fp : Fin 32) (w : ReqWord)
  /-- REQ_RESERVED_OPCODE (R30). A request word with a reserved opcode is answered with one response FAIL_DECODE. -/
  | reqReservedOpcode (fp : Fin 32) (opc : BitVec 5) (w : ReqWord)
  /-- WRITE_DATA_BEAT (R40). A write-data beat arrives on WD and is assigned to the master's oldest write-carrying request and a PWB entry. -/
  | writeDataBeat (fp : Fin 32) (data : Line) (be : BitVec 64) (last : Bool)
  /-- READ_BEAT_ACCEPT (R49). The master accepts a read beat, freeing its read line, which the engine grants to the best waiting line. -/
  | readBeatAccept (fp : Fin 32)
  /-- RESPONSE_ACCEPT (R35). The master accepts a response, ending its request and returning its request tally. -/
  | responseAccept (fp : Fin 32)
  /-- URG_CHANGE (R43). A new URG level seen in two successive cycles raises the port's C0 and C1 requests by its steps. -/
  | urgChange (fp : Fin 32) (level : BitVec 2)
  /-- EXC (R77). The master's EXC input clears its reservation. -/
  | exc (fp : Fin 32)
  /-- FAB_CLK_MEASURE (R20). Every 10 µs the engine measures each CK_FAB_n and moves the port into or out of range. -/
  | fabClkMeasure (fp : Fin 32) (khz : Nat)
  /-- BURST_TIMEOUT (R52). A held write burst with no beat for BST_TMO ends FAIL_INCOMPLETE. -/
  | burstTimeout (fp : Fin 32)
  /-- FABRIC_PORT_BOUNDARY (R42). When no request is outstanding on a fabric port its staged fields apply and a cleared EN pulses TLY_CLR. -/
  | fabricPortBoundary (fp : Fin 32)
  /-- PWB_DRAIN (R62). A PWB line leaves in order-list order once earlier lines have passed the point of coherence and its queue has room. -/
  | pwbDrain (fp : Fin 32) (parityError : Bool)
  /-- QUEUE_ENTRY (R99). A sub-request waiting at address decode enters its port's command queue once enough entries are free. -/
  | queueEntry (p : Fin 20)
  /-- LINE_DATA_RETURN (R225). A line's read data returns from its port, is decoded and delivered as a good, poisoned or failed beat. -/
  | lineDataReturn (p : Fin 20) (id : Nat) (err : Burst)
  /-- FP_PROTO_CLEAR (R53). A write of FP_PROTO with bits [5:0] all set clears FP_PROTO_CNT. -/
  | fpProtoClear (fp : Fin 32) (v : BitVec 32)
  /-- FP_DUR_CLEAR (R72). FP_DUR_CTL.CLR clears the port footprint of store lines performed before the write. -/
  | fpDurClear (fp : Fin 32) (v : BitVec 32)
  /-- HOME_RSV_CLEAR (R80). HOME_RSV_CLR.ALL clears the reservation loss counters. -/
  | homeRsvClear (v : BitVec 32)
  /-- COMMAND_SLOT_SELECT (R95). At each command slot of a sub-channel the scheduler selects and issues at most one DRAM command. -/
  | commandSlotSelect (p : Fin 20) (sub : Fin 4) (off : BitVec 4)
  /-- REFRESH_DUE (R100). A rank's refresh interval begins, making a refresh due and postponing an unissued earlier one. -/
  | refreshDue (p : Fin 20) (rank : RankId)
  /-- ROW_TIMEOUT_CLOSE (R96). Under adaptive paging a row idle for PG_TMO ticks is closed in a free slot. -/
  | rowTimeoutClose (p : Fin 20) (sub : Fin 4) (bank : BankId) (off : BitVec 4)
  /-- HOT_RESTORE (R102). A DIMM at or below 85 °C for 1 s returns to the normal refresh interval. -/
  | hotRestore (p : Fin 20) (dimm : Fin 4)
  /-- TRAINING_PAUSE_START (R103). A due training pause begins at the first slot that meets the deadline, refresh and replay conditions. -/
  | trainingPauseStart (p : Fin 20)
  /-- PAUSE_FORCE (R103). A pause not placed within PWAIT ms is forced at the next slot meeting only the refresh and replay conditions. -/
  | pauseForce (p : Fin 20)
  /-- BR_MISS_CLEAR (R106). BR_MISS.CLR clears the record's miss count. -/
  | brMissClear (t : Fin 256) (v : BitVec 32)
  /-- SCH_MISS_LOG_CLEAR (R107). Writing 1 to SCH_MISS_LOG.VALID clears VALID, TKT and SUPP. -/
  | schMissLogClear (v : BitVec 32)
  /-- PS_CNT_CLEAR (R109). PS_CNT_CLR.ALL clears the port's scheduling counters. -/
  | psCntClear (p : Fin 20) (v : BitVec 32)
  /-- TB_COUNT_READ (R111). A read of TB_COUNT_LO latches bits [63:32] into TB_COUNT_HI. -/
  | tbCountRead
  /-- SOFT_STEP (R114). TB_STEP.GO = 0b01 starts a soft time step that holds DRAM work and loads TB_PRESET. -/
  | softStep
  /-- ARM_EPOCH_STEP (R114). TB_STEP.GO = 0b10 holds DRAM work and arms a time step from EPOCH. -/
  | armEpochStep
  /-- ABANDON_STEP (R114). TB_STEP.GO = 0b11 abandons an armed step without changing the count. -/
  | abandonStep
  /-- STEP_LOAD (R115). Once stamped commands have executed the step loads the count, shifts stored ticks and realigns serial ports. -/
  | stepLoad
  /-- STEP_ARM_TIMEOUT (R114). An EPOCH step not loaded within ARM_TMO is abandoned and ARM_TMO set. -/
  | stepArmTimeout
  /-- EPOCH_PULSE_IN (R117). A pulse on EPOCH_IN is captured and loads or checks the count at edge k + 2. -/
  | epochPulseIn (phase : BitVec 6) (width : Nat)
  /-- EPOCH_PULSE_OUT (R118). TB_EPULSE.GO drives an 8-tick EPOCH_OUT pulse when EOUT_EN = 1. -/
  | epochPulseOut (v : BitVec 32)
  /-- TIME_MARK_START (R122). A time-mark exchange starts on a native serial port every mark period, after lock and after a step. -/
  | timeMarkStart (p : Fin 20) (fine : BitVec 8)
  /-- TIME_MARK_ANSWER (R123). The SB3's mark answer arrives and the engine computes theta and aligns or realigns the port. -/
  | timeMarkAnswer (p : Fin 20) (t2 : BitVec 32) (t3 : BitVec 32) (fine : BitVec 8) (replayed : Bool)
  /-- LAUNCH_HOLD (R133). At T − SETUP each port action holds the banks of its first command and line 0 enters the queue. -/
  | launchHold (l : Fin 8)
  /-- LAUNCH_START (R133). At tick T every action of a pending launch starts. -/
  | launchStart (l : Fin 8)
  /-- REF_HOLD_END (R131). H ticks after T the REF_HOLD of a port ends. -/
  | refHoldEnd (p : Fin 20)
  /-- STREAM_LINE_ENTER (R133). Line i of a STREAM enters the port's command queue at T + i × P − PRE with its deadline. -/
  | streamLineEnter (p : Fin 20) (k : Nat)
  /-- STALL_SWITCH (R281). At the first cycle at or after T with no open packet, stall A's producers switch to stall B. -/
  | stallSwitch (a : BitVec 15)
  /-- LAUNCH_CANCEL (R135). TB_LCANCEL with GO = 1 cancels a pending launch. -/
  | launchCancel (v : BitVec 32)
  /-- LAUNCH_SELF_WAKE (R136). The engine wakes itself from a low-power state in time for a pending launch. -/
  | launchSelfWake
  /-- TB_ALARM_WRITE (R137). A write of TB_ALARM_LO, TB_ALARM_HI or EN 0 to 1 arms the alarm. -/
  | tbAlarmWrite (reg : Fin 3) (v : BitVec 32)
  /-- TB_ALARM_FIRE (R137). An armed alarm fires when the count reaches TB_ALARM, sets FIRED and may wake the engine. -/
  | tbAlarmFire
  /-- PWR_GOOD_RISE (R145). PWR_GOOD rises during a cold enable and the SPD read begins. -/
  | pwrGoodRise (p : Fin 20)
  /-- PWR_GOOD_TIMEOUT (R145). PWR_GOOD not high within 50 ms refuses the port with POP_ERR 0x8. -/
  | pwrGoodTimeout (p : Fin 20)
  /-- SPD_READ_DONE (R144). The SPD data of the slots is read and checked, choosing the speed or refusing the port. -/
  | spdReadDone (p : Fin 20) (spd : List SpdSlot)
  /-- INIT_DONE (R145). RCD and DRAM initialisation and hard repairs end and initial training starts. -/
  | initDone (p : Fin 20) (rfm : BitVec 20)
  /-- ZERO_FILL_DONE (R160). Zero-fill of a returning DIMM ends and the port enters SERVICE. -/
  | zeroFillDone (p : Fin 20)
  /-- ALERT (R153). ALERT_N low for 2 DRAM clocks in SERVICE stops issue and starts the replay procedure. -/
  | alert (p : Fin 20)
  /-- ALERT_RISE (R153). ALERT_N rises, the pulse is classed parity or write CRC and RECOV begins. -/
  | alertRise (p : Fin 20) (clocks : Nat)
  /-- ALERT_RECOVERY_DONE (R153). After RECOV the engine clears the RCD error, precharges all ranks and replays the noted commands. -/
  | alertRecoveryDone (p : Fin 20) (trainOk : Bool)
  /-- COMMAND_KNOWN_GOOD (R152). KG clocks after a command issued without alert it leaves the retry buffer and its read data is released. -/
  | commandKnownGood (p : Fin 20)
  /-- PWR_GOOD_LOST (R158). PWR_GOOD falling in SERVICE or SELF_REFRESH halts the port with HCAUSE 0b10. -/
  | pwrGoodLost (p : Fin 20)
  /-- AUTO_SELF_REFRESH (R159). After IDLE µs without work the port issues owed refreshes, PREab and SRE and enters SELF_REFRESH. -/
  | autoSelfRefresh (p : Fin 20)
  /-- SELF_REFRESH_EXIT (R159). A request or wake takes the port out of self-refresh with DCK restart, NOP and tXS. -/
  | selfRefreshExit (p : Fin 20)
  /-- ZQ_START (R151). Every DP_ZQ.PER ms each rank starts ZQ calibration. -/
  | zqStart (p : Fin 20) (rank : RankId)
  /-- ZQ_LATCH (R151). 1 µs after the start the ZQ calibration is latched. -/
  | zqLatch (p : Fin 20) (rank : RankId)
  /-- DIMM_TEMP_POLL (R157). Every TPOLL ms the engine polls each DIMM's thermal sensors and PMIC status. -/
  | dimmTempPoll (p : Fin 20) (t0 : Option (BitVec 8)) (t1 : Option (BitVec 8))
  /-- DP_CNT_CLEAR (R162). DP_CNT_CLR or SP_CNT_CLR clears the port's alert and refresh counters. -/
  | dpCntClear (p : Fin 20) (v : BitVec 32)
  /-- LINKUP (R170). LINKUP blocks are exchanged and each direction assigns logical lanes and the spare. -/
  | linkup (p : Fin 20) (rx : BitVec 9) (tx : BitVec 9)
  /-- LANE_LOCK_LOSS (R173). A receive lane that loses lock is declared faulty and taken over by the spare. -/
  | laneLockLoss (p : Fin 20) (lane : Fin 9)
  /-- LANE_WEAK (R173). A lane over the corrected-symbol or uncorrectable limit in 1 ms is declared weak or faulty. -/
  | laneWeak (p : Fin 20) (lane : Fin 9) (symbols : Nat) (uncorrectable : Nat)
  /-- SPARE_SWITCH (R171). At a codeword boundary the receiver switches a logical lane to or from the spare. -/
  | spareSwitch (p : Fin 20) (dir : Bool)
  /-- TAKEOVER_TIMEOUT (R174). A takeover not complete within TKO causes link loss. -/
  | takeoverTimeout (p : Fin 20) (dir : Bool)
  /-- RECAL_TURN (R172). A rolling recalibration turn places an active lane on the spare and recalibrates it. -/
  | recalTurn (p : Fin 20) (dir : Bool)
  /-- RECAL_RETURN (R210). After the measurement or HOLD the lane returns from the spare with the accepted settings. -/
  | recalReturn (p : Fin 20) (dir : Bool) (runs : List Meas)
  /-- RELINK (R188). After relock both sides exchange RESUME, replay and realign the port. -/
  | relink (p : Fin 20) (seq : BitVec 12)
  /-- LINK_TIMEOUT (R189). A port not realigned within SL_CTL.TMO ends its items FAIL_LINK and fails new sub-requests. -/
  | linkTimeout (p : Fin 20)
  /-- RATE_CHANGE (R176). A staged RATE change takes effect in an 800-tick pause with retune, relock and realignment. -/
  | rateChange (p : Fin 20)
  /-- PACKET_CRC_FAIL (R186). A packet that fails its CRC is discarded with its followers and a NAK is sent. -/
  | packetCrcFail (p : Fin 20)
  /-- NAK_REPEAT (R186). A NAK whose replay has not begun after 2 × rtt is repeated. -/
  | nakRepeat (p : Fin 20)
  /-- NAK (R186). A received NAK makes the transmitter replay from the named packet; the retry limit causes link loss. -/
  | nak (p : Fin 20) (ack : BitVec 12)
  /-- CREDIT_ACK (R183). A credit packet acknowledges packets and returns control credits. -/
  | creditAck (p : Fin 20) (ack : BitVec 12) (ctlcr : BitVec 4)
  /-- PACKET_RESERVED (R177). A reserved packet kind or code is acknowledged, discarded, counted and raises SER_PROTO. -/
  | packetReserved (p : Fin 20)
  /-- READ_DATA_PACKET (R128). A read data packet from the buffer is matched by stamp and sub-channel to its column command. -/
  | readDataPacket (p : Fin 20) (sub : Fin 4) (stamp : BitVec 28) (poison : Bool) (data : Line)
  /-- READ_DATA_LOST (R128). A column command whose data has not arrived within read latency plus a round trip is treated as lost. -/
  | readDataLost (p : Fin 20) (id : Nat)
  /-- REFUSE (R127). The SB3 refuses a stamped command and the engine re-stamps it and its blocked followers. -/
  | refuse (p : Fin 20) (code : BitVec 4) (sub : Fin 4) (stamp : BitVec 28)
  /-- CAP (R184). The buffer reports identity, version, latencies and population in a CAP packet. -/
  | cap (p : Fin 20) (index : BitVec 8) (content : BitVec 56)
  /-- ERR (R231). The buffer reports a corrected, uncorrectable or poisoned read in an ERR packet. -/
  | err (p : Fin 20) (kind : BitVec 2) (sub : Fin 4) (stamp : BitVec 28) (sym : BitVec 5)
  /-- ALERT_PACKET (R194). The buffer reports a parity or write-CRC alert with the earliest unconfirmed stamp and the engine replays the channel. -/
  | alertPacket (p : Fin 20) (channel : Bool) (crc : Bool) (stamp : BitVec 28)
  /-- TEMP (R193). The buffer reports DIMM temperatures. -/
  | temp (p : Fin 20) (t : BitVec 32) (valid : BitVec 4)
  /-- LANE_FAULT (R173). The buffer reports a faulty or weak lane and the engine starts the shadow on its spare. -/
  | laneFault (p : Fin 20) (lane : Fin 9) (weak : Bool)
  /-- REG_DATA (R205). The buffer returns a register value or training results. -/
  | regData (p : Fin 20) (reg : BitVec 16) (val : BitVec 32)
  /-- MRR_DATA (R184). The buffer returns the value of a stamped MRR. -/
  | mrrData (p : Fin 20) (stamp : BitVec 28) (val : BitVec 8) (sub : Fin 4)
  /-- PWR (R184). The buffer reports DIMMs whose power good fell and the port halts. -/
  | pwr (p : Fin 20) (dimms : BitVec 4)
  /-- RESUME (R188). A RESUME from the buffer names the next expected sequence number, lost reads and self-refresh state. -/
  | resume (p : Fin 20) (seq : BitVec 12) (lost : BitVec 16) (sr : Bool)
  /-- CODE_UPDATE (R230). Once no read is outstanding the engine sends a CODE packet with the new marks and resumes reads. -/
  | codeUpdate (p : Fin 20)
  /-- SL_CNT_CLEAR (R200). SL_CNT_CLR.ALL clears the link counters. -/
  | slCntClear (p : Fin 20) (v : BitVec 32)
  /-- LANE_SOAK (R206). A locked lane finishes its 1 ms soak and is judged healthy or not. -/
  | laneSoak (p : Fin 20) (lane : Fin 9) (r : SoakResult)
  /-- TRACKING_ROUND (R208). Every TR_CTL.PERIOD ms a tracking round falls due with one pause of each kind per rank. -/
  | trackingRound (p : Fin 20)
  /-- TRACK_READ_PAUSE (R208). A READ tracking pause measures read gate, read windows and host Vref. -/
  | trackReadPause (p : Fin 20) (ms : List Meas)
  /-- TRACK_WRITE_PAUSE (R209). A WRITE tracking pause saves the training line, probes the write window and restores the line. -/
  | trackWritePause (p : Fin 20) (ms : List Meas) (err0 : Burst) (err1 : Burst)
  /-- TRACK_OSC_PAUSE (R208). An OSC pause reads the DQS oscillator and moves the rank's write DQS delays. -/
  | trackOscPause (p : Fin 20) (ms : List Meas)
  /-- DRIFT_CLAMP (R211). Continuous adaptation reaching the drift limit is held, counted and brings the lane's turn forward. -/
  | driftClamp (p : Fin 20) (lane : Fin 9)
  /-- TR_CNT_CLEAR (R221). TR_CNT_CLR.ALL clears the training counters. -/
  | trCntClear (p : Fin 20) (v : BitVec 32)
  /-- GATHER_CLOSE (R232). A merge-buffer entry closes when its gather window passes and its line is issued. -/
  | gatherClose (p : Fin 20) (e : Fin 32)
  /-- RMW_READ_DONE (R233). The read of a read–modify–write returns and the merged line is written with the outcome of Table 9.4. -/
  | rmwReadDone (p : Fin 20) (e : Fin 32) (err : Burst)
  /-- SCRUB_VISIT (R235). A patrol visit falls due every I ticks and enters the queue at C7. -/
  | scrubVisit (p : Fin 20)
  /-- SCRUB_VISIT_DONE (R236). A visit's read returns and the line is written back, poisoned or left as the outcome requires. -/
  | scrubVisitDone (p : Fin 20) (err : Burst)
  /-- CE_WINDOW_EXPIRE (R238). A one-second correction window closes without reaching CE_TH. -/
  | ceWindowExpire (p : Fin 20)
  /-- CE_TH_RAISE (R238). A deferred ECC_CE_TH raise takes place one second after the previous one. -/
  | ceThRaise (p : Fin 20)
  /-- LOG_TAIL_WRITE (R239). A write of EL_PTR TAIL frees read log entries unless COUNT would exceed 32. -/
  | logTailWrite (k : Fin 21) (v : BitVec 32)
  /-- EL_LOST_CLEAR (R253). EL_CLR clears LOST of the selected logs. -/
  | elLostClear (v : BitVec 32)
  /-- EC_CNT_CLEAR (R252). EC_CNT_CLR.ALL clears the port's code counters. -/
  | ecCntClear (p : Fin 20) (v : BitVec 32)
  /-- REMAP_ADD (R242). RM_ADD with GO = 1 triggers a remap of the named row. -/
  | remapAdd (p : Fin 20) (v : BitVec 32)
  /-- REMAP_COPY_LINE (R243). One line of a row copy completes and the last makes the entry ACTIVE. -/
  | remapCopyLine (p : Fin 20) (err : Burst)
  /-- MARCH_START (R247). MT_GO.GO starts the march test of MT_CTL or refuses it. -/
  | marchStart
  /-- MARCH_ABORT (R249). MT_GO.ABORT aborts a running test and restores its groups. -/
  | marchAbort
  /-- MARCH_END (R249). A march test ends, remaps failing words and raises MARCH_DONE. -/
  | marchEnd (fails : List (BitVec 8 × BitVec 16))
  /-- SPAD_CLEAR (R471). SPAD_CLR.ALL clears the scratchpad parity error registers. -/
  | spadClear (v : BitVec 32)
  /-- STALL_ENABLE (R256). ST_OP ENABLE turns an OFF stall ON if it meets the enable conditions. -/
  | stallEnable
  /-- STALL_DISABLE (R255). ST_OP DISABLE resets the stall and turns it OFF. -/
  | stallDisable
  /-- STALL_RESET (R279). ST_OP RESET discards the stall's words, arms the reset word and enters RECOVER or ON. -/
  | stallReset
  /-- STALL_FLUSH_TIMER (R274). FLUSH µs after the last item the partial word completes as a FRAG word. -/
  | stallFlushTimer (st : BitVec 15)
  /-- PAIR_IDLE_RELEASE (R268). A stall idle for PAIR_IDLE µs gives its staging pair back. -/
  | pairIdleRelease (st : BitVec 15)
  /-- STALL_SPILL_DONE (R267). A fill bank's spill to the ring completes and waiting items proceed. -/
  | stallSpillDone (st : BitVec 15)
  /-- STALL_REFILL_DONE (R269). A refill of the drain bank from the ring completes with stored or error tags. -/
  | stallRefillDone (st : BitVec 15) (errs : List RefillErr)
  /-- STALL_FWAIT_RESUME (R271). A flush or EOP waiting for ring space completes once the consumer frees space. -/
  | stallFwaitResume (st : BitVec 15)
  /-- STALL_CLOSE_WORD (R264). A packet that must be closed gets a close word once space and pending items allow. -/
  | stallCloseWord (st : BitVec 15)
  /-- PIO_PUSH (R287). ST_PIO_PUSH with GO = 1 pushes one item into a stall or refuses it. -/
  | pioPush (v : BitVec 32)
  /-- PIO_POP (R287). ST_PIO_POP with GO = 1 reads one word of a stall or starts its refill. -/
  | pioPop (v : BitVec 32)
  /-- PIO_POP_DONE (R287). The refill of a pending PIO pop ends and ST_PIO_TAG and ST_PIO_W_n update. -/
  | pioPopDone
  /-- ST_ECNT_CLEAR (R285). ST_ECNT_CLR.ALL clears the global stall counters. -/
  | stEcntClear (v : BitVec 32)
  /-- ST_ERR_CLEAR (R286). ST_ERRCLR.ALL clears the selected stall's error counters. -/
  | stErrClear (v : BitVec 32)
  /-- RDS (R301). An agent's RDS asks for a readable copy and is granted E, C or S. -/
  | rds (h : RingHdr) (ecc : EccEvent)
  /-- RDU (R301). An agent's RDU asks for an exclusive copy with data. -/
  | rdu (h : RingHdr) (ecc : EccEvent)
  /-- UPG (R306). An agent's UPG makes its S or C copy exclusive, or is served as RDU after a note. -/
  | upg (h : RingHdr) (ecc : EccEvent)
  /-- WB (R306). An agent's WB writes back an M line, or is discarded after a void note. -/
  | wb (h : RingHdr) (d : Line)
  /-- RDO (R301). A ring RDO reads a line coherently without keeping a copy. -/
  | rdo (h : RingHdr) (ecc : EccEvent)
  /-- WRU (R301). A ring WRU writes a line coherently under byte enables. -/
  | wru (h : RingHdr) (d : Line) (ecc : EccEvent)
  /-- ATOM (R314). A ring ATOM executes an atomic at home or far and returns the old value. -/
  | atom (h : RingHdr) (d : Line) (ecc : EccEvent)
  /-- RING_BAR (R317). A ring BAR orders, makes visible or judges durability for its stop. -/
  | ringBar (h : RingHdr)
  /-- NRD (R319). A ring NRD reads memory without ledger lookup or snoop. -/
  | nrd (h : RingHdr)
  /-- NWR (R319). A ring NWR writes memory without ledger lookup or snoop. -/
  | nwr (h : RingHdr) (d : Line)
  /-- RING_REQ_RESERVED (R295). A malformed or disallowed REQ completes COMP FAIL_DECODE. -/
  | ringReqReserved (h : RingHdr) (op : BitVec 5)
  /-- ANS (R303). An agent's snoop answer arrives and the last answer decides the grant. -/
  | ans (h : RingHdr) (d : Option Line)
  /-- ACK (R300). An agent's ACK releases the line of its RDS, RDU or UPG. -/
  | ack (h : RingHdr)
  /-- SNOOP_TIMEOUT (R310). A snoop unanswered after HOME_TMO marks silent agents FAILED and ends requests per Table 11.9. -/
  | snoopTimeout (laddr : BitVec 40)
  /-- AGENT_READMIT (R313). Writing 1 to an agent's HOME_AGT_FAIL bit readmits it. -/
  | agentReadmit (v : BitVec 32)
  /-- HOME_CNT_CLEAR (R322). HOME_CNT_CLR.ALL clears the home counters. -/
  | homeCntClear (v : BitVec 32)
  /-- RING_DUR_CLEAR (R318). HOME_DUR_CTL.CLR clears the ring footprint. -/
  | ringDurClear (v : BitVec 32)
  /-- UNDEFINED_INSTRUCTION (R332). An undefined opcode or FN traps ILLEGAL. -/
  | undefinedInstruction (c : Fin 4) (w : BitVec 32)
  /-- IFETCH_MISS_DONE (R328). An instruction cache miss read returns and fills the line or traps FETCH. -/
  | ifetchMissDone (c : Fin 4) (err : Burst)
  /-- LDLN_DATA_ARRIVE (R342). An LDLN's line arrives and is written to data RAM, or marked failed. -/
  | ldlnDataArrive (c : Fin 4) (err : Burst)
  /-- POSTED_STORE_DONE (R341). A posted store completes and a failure sets MST.SF and FST. -/
  | postedStoreDone (c : Fin 4) (err : Burst)
  /-- START (R325). LCTX_CTL START sets a stopped or halted user context RUNNING. -/
  | start (c : Fin 4)
  /-- STOP (R325). LCTX_CTL STOP stops a user context at its next instruction boundary. -/
  | stop (c : Fin 4)
  /-- CONTEXT_RESET (R350). LCTX_CTL RESET resets a user context once its accesses end. -/
  | contextReset (c : Fin 4)
  /-- LN_IC_INVALIDATE (R328). LN_IC.INV invalidates every instruction cache line. -/
  | lnIcInvalidate (v : BitVec 32)
  /-- PROGRAM_RAM_WRITE (R324). A window write of program RAM stores a word or is rejected as protected. -/
  | programRamWrite (word : BitVec 16) (v : BitVec 32)
  /-- DATA_RAM_WRITE (R329). A window write of data RAM takes effect at once. -/
  | dataRamWrite (word : BitVec 15) (v : BitVec 32)
  /-- LANT_DUR_CLEAR (R343). LCTX_DUR_CTL.CLR clears the context footprint. -/
  | lantDurClear (c : Fin 4) (v : BitVec 32)
  /-- DOORBELL (R354). HC_QDB.RING binds the oldest unbound descriptor to a new handle or refuses the ring. -/
  | doorbell (q : Fin 4) (v : BitVec 32)
  /-- DESCRIPTOR_READ (R355). The engine reads a bound descriptor word and checks it before queuing the command. -/
  | descriptorRead (q : Fin 4)
  /-- NOP (R360). Host command NOP completes OK. -/
  | nop (h : BitVec 12)
  /-- TRAIN (R362). Host command TRAIN runs the named training steps on a port. -/
  | train (h : BitVec 12) (failed : BitVec 4)
  /-- RETRAIN_TRACK (R212). Host RETRAIN at level TRACK starts a tracking round at once. -/
  | retrainTrack (h : BitVec 12)
  /-- RETRAIN_CSCA (R212). Host RETRAIN at level CSCA runs steps 0x1 to 0x3 in one pause. -/
  | retrainCsca (h : BitVec 12) (failed : BitVec 4)
  /-- RETRAIN_FULL (R212). Host RETRAIN at level FULL reruns initial training on a port no set names. -/
  | retrainFull (h : BitVec 12) (failed : BitVec 4)
  /-- SCRUB (R361). Host command SCRUB visits each line of a range as a patrol visit. -/
  | scrub (h : BitVec 12) (errs : List (Nat × Burst))
  /-- MARCH (R362). Host command MARCH runs a march on a DRAM range or on-chip group. -/
  | march (h : BitVec 12) (fails : List Nat)
  /-- COPY (R361). Host command COPY copies a line range. -/
  | copy (h : BitVec 12) (errs : List (Nat × Burst))
  /-- FILL (R361). Host command FILL writes a 64-bit pattern over a line range. -/
  | fill (h : BitVec 12)
  /-- CHECKPOINT (R361). Host command CHECKPOINT spills staged words and writes stall state into an area. -/
  | checkpoint (h : BitVec 12)
  /-- WARM_VERIFY (R360). Host command WARM_VERIFY checks the resumed image and optionally every kept line. -/
  | warmVerify (h : BitVec 12) (errs : List (Nat × Burst))
  /-- ROW_REPAIR_SOFT (R161). Host ROW_REPAIR without HARD runs a soft repair of a remapped row. -/
  | rowRepairSoft (h : BitVec 12) (freeResource : Bool)
  /-- ROW_REPAIR_HARD (R161). Host ROW_REPAIR with HARD records a hard repair for the next cold enable. -/
  | rowRepairHard (h : BitVec 12)
  /-- LINK_LOOP (R191). Host command LINK_LOOP runs a loop test on serial lanes for a duration. -/
  | linkLoop (h : BitVec 12)
  /-- FENCE (R367). Host command FENCE sets the host fence of a fabric port. -/
  | fence (h : BitVec 12)
  /-- UNFENCE (R371). Host command UNFENCE clears the host fence of a fabric port. -/
  | unfence (h : BitVec 12)
  /-- LOAD_PROGRAM (R363). Host command LOAD_PROGRAM copies a program into a user context and optionally starts it. -/
  | loadProgram (h : BitVec 12) (errs : List (Nat × Burst))
  /-- FED_TIME_SET_ARM (R364). FED_TIME_SET in mode ARM programs the EPOCH step and returns e. -/
  | fedTimeSetArm (h : BitVec 12)
  /-- FED_TIME_SET_PULSE (R364). FED_TIME_SET in mode PULSE drives the leader's EPOCH pulse. -/
  | fedTimeSetPulse (h : BitVec 12)
  /-- FED_TIME_SET_TRIM (R364). FED_TIME_SET in mode TRIM writes FINE on every port in service. -/
  | fedTimeSetTrim (h : BitVec 12)
  /-- COMPLETION_PUSH (R357). Once all stores are performed and space is free the completion record is pushed. -/
  | completionPush (q : Fin 4)
  /-- ABORT (R365). HC_ABORT with GO = 1 aborts a handle or records why not. -/
  | abort (v : BitVec 32)
  /-- CFG_FENCE_REQUEST (R367). The configuration controller's fence request fences a fabric port. -/
  | cfgFenceRequest (fp : Fin 32)
  /-- CFG_FENCE_RELEASE (R371). The configuration controller ends its fence request. -/
  | cfgFenceRelease (fp : Fin 32)
  /-- FENCE_DRAINED (R369). A fenced port with no request outstanding sets DRAINED, pulses TLY_CLR and completes waiting FENCEs. -/
  | fenceDrained (fp : Fin 32)
  /-- FENCE_TIMEOUT (R370). A FENCE's TMO expires and remaining answers are dropped until the port is drained. -/
  | fenceTimeout (fp : Fin 32)
  /-- METER_INTERVAL (R374). Every 10 µs the meter adds each domain's energy and updates EN_POWER. -/
  | meterInterval (events : List (Fin 51 × Fin 3 × Nat))
  /-- ADC_SAMPLE (R380). Every 8 µs the converter samples a sense input and updates the gauges. -/
  | adcSample (code : BitVec 14)
  /-- BUS_TRIP (R382). SNS_VBUS falls below PF_TH and the bus comparator trips. -/
  | busTrip
  /-- BUS_CLEAR (R382). SNS_VBUS rises above PF_ON and the bus comparator clears. -/
  | busClear
  /-- RESERVE_LOW_TRIP (R382). SNS_VRSV falls below RSV_LOW, setting LOW and raising RSV_LOW. -/
  | reserveLowTrip
  /-- RESERVE_RELEASE (R382). SNS_VRSV rises 0.5 V above RSV_LOW and the reserve comparator releases. -/
  | reserveRelease
  /-- POWER_FAIL_CONFIRM (R392). A bus trip lasting 1 µs starts the power-fail sequence: freeze and stop admission. -/
  | powerFailConfirm
  /-- PF_FLUSH_DONE (R393). The last flushed write is known good and every rank enters self-refresh with shedding. -/
  | pfFlushDone
  /-- PF_COMMIT (R393). The descriptor and CRC are written, the commit flag is written last and the engine enters E4. -/
  | pfCommit
  /-- GAUGE_REBASE (R384). After 10 min at rest the count is re-based to the voltage estimate. -/
  | gaugeRebase
  /-- PACK_REMOVAL (R385). RSV_PRES_N high for 1 ms declares the pack lost and empties the domain. -/
  | packRemoval
  /-- PACK_RETURN (R385). After one second of presence and good voltage the pack returns. -/
  | packReturn
  /-- CHARGER_ADJUST (R387). Every 100 ms the charger setpoint is lowered or raised by headroom. -/
  | chargerAdjust
  /-- PLANNER_RUN (R388). The planner computes usable energy and rebuilds the durable domain. -/
  | plannerRun
  /-- BUS_RETURN_RESUME (R402). A bus above PF_ON for RET ms with AUTO = 1 starts a warm resume without power cycle. -/
  | busReturnResume
  /-- PLN_SLOTP_WRITE (R405). A write of PLN_SLOTP enters the shadow of the slot PLN_SEL selects. -/
  | plnSlotpWrite (v : BitVec 32)
  /-- BBR_WRITE (R406). A software write of the BBR is stored only while the image is not committed. -/
  | bbrWrite (word : BitVec 10) (v : BitVec 32)
  /-- ENERGY_READ_LATCH (R404). A read of EN_TOTAL_LO, EN_DOM_LO or PLN_EUSE_LO latches its HI half. -/
  | energyReadLatch (which : Fin 3)
  /-- VBAT_LOSS (R395). VBAT falling below 2.0 V clears BBR_STAT.VALID. -/
  | vbatLoss
  /-- IDLE_E1 (R412). After T1 µs without activity the engine enters E1. -/
  | idleE1
  /-- IDLE_E2 (R412). After T2 without activity the engine requests E2. -/
  | idleE2
  /-- WAKE_E0 (R415). A request for E0 wakes the engine. -/
  | wakeE0 (src : ReqSrc)
  /-- ENTER_E1 (R411). A request for E1 gates clocks to the idle units. -/
  | enterE1 (src : ReqSrc)
  /-- ENTER_E2 (R415). A request for E2 prepares, puts ports in self-refresh and lanes in L1. -/
  | enterE2 (src : ReqSrc)
  /-- ENTER_E3 (R416). A request for E3 drains fabric, ledger and stalls, sheds DIMMs and powers down. -/
  | enterE3 (src : ReqSrc)
  /-- ENTER_E4 (R418). A request for E4 runs the power-fail sequence with reason 0x2. -/
  | enterE4 (src : ReqSrc)
  /-- ENTRY_COMMIT (R413). Once no refuser remains the transition passes its commit point and runs to its end. -/
  | entryCommit (t : TransId)
  /-- STATE_REACHED (R415). The engine reaches the requested state, sets PWR_STAT and raises PWR_DONE. -/
  | stateReached
  /-- PREP_TIMEOUT (R413). A refuser still present after PREP µs refuses the transition and raises PWR_REFUSE. -/
  | prepTimeout (t : TransId)
  /-- WAKE_SOURCE (R420). An enabled wake source aborts a preparation or wakes the engine from E1 to E3. -/
  | wakeSource (w : WakeSrc)
  /-- E3_EXIT_DONE (R417). After the E3 exit restarts, relinks and wakes ports the engine is in E0. -/
  | e3ExitDone
  /-- DOMAIN_ON (R409). PWR_DREQ with ON = 1 switches a software domain on. -/
  | domainOn (v : BitVec 32)
  /-- DOMAIN_OFF (R409). PWR_DREQ with ON = 0 prepares and switches a software domain off. -/
  | domainOff (v : BitVec 32)
  /-- DOMAIN_ON_DONE (R408). A domain finishes switching on and its initialisation. -/
  | domainOnDone (d : Fin 50)
  /-- PORT_OFF (R422). Port transition 0x0 shuts the port down to OFF. -/
  | portOff (p : Fin 20) (src : ReqSrc)
  /-- PORT_ON (R422). Port transition 0x1 starts a cold enable. -/
  | portOn (p : Fin 20) (src : ReqSrc)
  /-- PORT_SELF_REFRESH (R422). Port transition 0x2 puts the port in self-refresh. -/
  | portSelfRefresh (p : Fin 20) (src : ReqSrc)
  /-- PORT_WAKE (R422). Port transition 0x3 takes the port out of self-refresh. -/
  | portWake (p : Fin 20) (src : ReqSrc)
  /-- PORT_RESET (R428). Port transition 0x4 ends the port's work FAIL_LINK and turns it OFF. -/
  | portReset (p : Fin 20) (src : ReqSrc)
  /-- SOFT_RESET (R427). RST_SOFT.GO fences ports, waits for drain and resets fabric, home trackers, handles and Lantern. -/
  | softReset
  /-- SOFT_RESET_TIMEOUT (R427). The soft reset drain limit expires and owed answers are dropped. -/
  | softResetTimeout
  /-- ENGINE_RESET (R426). The configuration controller asserts engine reset, discarding work in flight. -/
  | engineReset
  /-- ENGINE_RESET_RELEASE (R426). Release of engine reset runs the power-on steps while keeping count, energy and BBR. -/
  | engineResetRelease
  /-- POWER_ON_RESET (R425). The supply rising resets the engine, loads trims, marches and starts firmware. -/
  | powerOnReset
  /-- SUPPLY_FAILURE (R436). An engine rail outside its range with PD_AON powered puts the engine in E4. -/
  | supplyFailure
  /-- PWR_CNT_CLEAR (R431). PWR_CNT_CLR.ALL clears the refusal and supersession counters. -/
  | pwrCntClear (v : BitVec 32)
  /-- REGISTER_WRITE (R462). A write of a register with no row of its own is checked and stored in the register or shadow. -/
  | registerWrite (off : BitVec 22) (bytes : Fin 9) (v : BitVec 32)
  /-- GLOBAL_BOUNDARY (R460). A global boundary applies global shadows, runs the check groups and starts a CRC pass. -/
  | globalBoundary
  /-- PORT_BOUNDARY (R460). A port boundary applies the port block's shadows. -/
  | portBoundary (p : Fin 20)
  /-- STALL_PACKET_BOUNDARY (R257). At a stall's packet boundary its staged ST_CFG1 applies. -/
  | stallPacketBoundary (st : BitVec 15)
  /-- CFG_APPLY_HOLD (R461). CFG_APPLY.HOLD stops or releases the application of software shadows. -/
  | cfgApplyHold (v : BitVec 32)
  /-- CFG_COMMIT (R468). CFG_APPLY.COMMIT arms a commit of the next CRC pass as reference. -/
  | cfgCommit (v : BitVec 32)
  /-- CRC_PASS_END (R467). A configuration CRC pass ends and is compared, raising CFG_ALARM, or committed. -/
  | crcPassEnd
  /-- CFG_REJ_CLEAR (R470). CFG_REJ_CLR.ALL clears CFG_REJ. -/
  | cfgRejClear (v : BitVec 32)
  /-- INT_SET (R472). A write of INT_SET0 or INT_SET1 raises the causes it names. -/
  | intSet (hi : Bool) (v : BitVec 32)
  /-- INITIAL_TRAINING_DONE (R204). Initial training of a port in TRAIN ends: on a pass the timing registers load and the cold enable continues; on a failure the port is refused with POP_ERR 0x9. -/
  | initialTrainingDone (p : Fin 20) (failed : BitVec 4) (timing : List (BitVec 32))
  /-- LINK_UP_TIMEOUT (R198). A serial port in state LINK of a cold enable whose link has not come up within SL_CTL.TMO ms is refused with POP_ERR 0xA. -/
  | linkUpTimeout (p : Fin 20)
  /-- LANE_LOCK_ACQUIRED (R167). A receive lane reaches block lock after 64 valid headers, and then codeword lock, which starts its soak and updates SL_STAT.RXLOCK. -/
  | laneLockAcquired (p : Fin 20) (lane : Fin 9)
  /-- DATA (R301). A DATA message from an agent arrives at the home carrying a forwarded line for RDO, WRU, ATOM or a ledger eviction, or is discarded when no request awaits it. -/
  | data (h : RingHdr) (d : Line)
  /-- TS_CNT_CLEAR (R140). A write of TS_CNT_CLR.ALL = 1 clears TS_CNT0 and TS_CNT1 of the port. -/
  | tsCntClear (p : Fin 20) (v : BitVec 32)
  /-- LINK_LOOP_DONE (R360). The duration of a LINK_LOOP command runs out, and the loop test ends and completes its handle with the bit errors counted. -/
  | linkLoopDone (p : Fin 20) (bitErrors : BitVec 64)
  /-- PORT_STOPPING_DONE (R422). A port shutdown in STOPPING reaches its end: the domains switch off, the port is OFF, the transition completes and the planner runs. -/
  | portStoppingDone (p : Fin 20)
  deriving DecidableEq, Repr

end Sys2Proof
end

