-- ==== Sys2Proof/WellFormed.lean ====
section
/-!
DEFINITION. Well-formed commands: what a master, a buffer, a DRAM or the board can supply.
The meanings are total: an ill-formed command meets the checks that the spec gives, or changes nothing.
-/

namespace Sys2Proof

/-- Ports 4 to 19 are the serial ports S0 to S15 (R109). -/
def serialPort (p : Fin 20) : Bool := decide (4 ≤ p.val)

/-- A code of Table 8.3, or 0 for no step. -/
def stepOk (s : BitVec 4) : Bool := decide (s.toNat ≤ 0xC)

/-- A measurement is of a step of Table 8.3. -/
def measOk (m : Meas) : Bool := decide (1 ≤ m.step.toNat ∧ m.step.toNat ≤ 0xC)

/-- A DIMM has one or two package ranks. -/
def spdOk (d : SpdSlot) : Bool := !d.present || !d.readable || decide (1 ≤ d.pranks ∧ d.pranks ≤ 2)

/-- The operands of a command lie in the ranges that the spec gives them. -/
def wellFormed (i : Instr) : Bool :=
  match i with
  | .add _ _ _ _ _ _ => true
  | .sub _ _ _ _ _ _ => true
  | .and _ _ _ _ _ _ => true
  | .or _ _ _ _ _ _ => true
  | .xor _ _ _ _ _ _ => true
  | .andn _ _ _ _ _ _ => true
  | .sll _ _ _ _ _ _ => true
  | .srl _ _ _ _ _ _ => true
  | .sra _ _ _ _ _ _ => true
  | .slt _ _ _ _ _ _ => true
  | .sltu _ _ _ _ _ _ => true
  | .min _ _ _ _ _ _ => true
  | .max _ _ _ _ _ _ => true
  | .minu _ _ _ _ _ _ => true
  | .maxu _ _ _ _ _ _ => true
  | .neg _ _ _ _ _ _ => true
  | .mul _ _ _ _ _ _ => true
  | .mulh _ _ _ _ _ _ => true
  | .mulhu _ _ _ _ _ _ => true
  | .div _ _ _ _ _ _ => true
  | .divu _ _ _ _ _ _ => true
  | .rem _ _ _ _ _ _ => true
  | .remu _ _ _ _ _ _ => true
  | .clz _ _ _ _ _ _ => true
  | .ctz _ _ _ _ _ _ => true
  | .popc _ _ _ _ _ _ => true
  | .sext _ _ _ _ _ _ => true
  | .adc _ _ _ _ _ _ => true
  | .sbc _ _ _ _ _ _ => true
  | .addi _ _ _ _ => true
  | .andi _ _ _ _ => true
  | .ori _ _ _ _ => true
  | .xori _ _ _ _ => true
  | .shi _ _ _ _ => true
  | .hsetz _ _ _ _ => true
  | .hins _ _ _ _ => true
  | .slti _ _ _ _ => true
  | .sltiu _ _ _ _ => true
  | .cmpi _ _ _ _ => true
  | .bc _ _ _ _ => true
  | .beq _ _ _ _ => true
  | .bne _ _ _ _ => true
  | .blt _ _ _ _ => true
  | .bge _ _ _ _ => true
  | .bltu _ _ _ _ => true
  | .bgeu _ _ _ _ => true
  | .jal _ _ => true
  | .jalr _ _ _ _ => true
  | .lbu _ _ _ _ => true
  | .lhu _ _ _ _ => true
  | .lwu _ _ _ _ => true
  | .ld _ _ _ _ => true
  | .lb _ _ _ _ => true
  | .lh _ _ _ _ => true
  | .lw _ _ _ _ => true
  | .sb _ _ _ _ => true
  | .sh _ _ _ _ => true
  | .sw _ _ _ _ => true
  | .sd _ _ _ _ => true
  | .ldm _ _ _ _ => true
  | .stm _ _ _ _ => true
  | .ldln _ _ _ _ _ _ => true
  | .stln _ _ _ _ _ _ => true
  | .zln _ _ _ _ _ _ => true
  | .lantLr _ _ _ _ _ _ => true
  | .lantSc _ _ _ _ _ _ => true
  | .lantAmo _ _ _ _ _ _ => true
  | .sput _ _ _ _ _ _ => true
  | .sget _ _ _ _ _ _ => true
  | .stly _ _ _ _ _ _ => true
  | .scmd _ _ _ _ _ _ => true
  | .rdtb _ _ _ _ _ _ => true
  | .wait _ _ _ _ _ _ => true
  | .waitResume _ => true
  | .launch _ _ _ _ _ _ => true
  | .lcancel _ _ _ _ _ _ => true
  | .bar _ _ _ _ _ _ => true
  | .iflush _ _ _ _ _ _ => true
  | .hbind _ _ _ _ _ _ => true
  | .hdone _ _ _ _ _ _ => true
  | .brk _ _ _ _ _ _ => true
  | .halt _ _ _ _ _ _ => true
  | .eqEnergyTotal _ _ _ _ _ => true
  | .eqUsableReserve _ _ _ _ _ => true
  | .eqDomainLow _ _ _ _ _ => true
  | .eqDomainHigh _ _ _ _ _ => true
  | .eqRetention _ _ _ _ _ => true
  | .eqAllowance _ _ _ _ _ => true
  | .eqStage _ _ _ _ _ => true
  | .mfs _ _ _ _ => true
  | .mts _ _ _ _ => true
  | .mrw _ _ _ _ _ _ => true
  | .mrr _ _ _ _ _ _ => true
  | .refcRefNow _ _ _ _ _ => true
  | .refcSrEnter _ _ _ _ _ => true
  | .refcSrExit _ _ _ _ _ => true
  | .refcZq _ _ _ _ _ => true
  | .rrepSoft _ _ _ _ _ _ _ => true
  | .rrepHard _ _ _ _ _ _ => true
  | .trstep _ _ _ _ _ _ _ => true
  | .rd _ _ => true
  | .wr _ _ => true
  | .wrz _ _ => true
  | .lr _ _ => true
  | .sc _ _ => true
  | .amo _ _ => true
  | .order _ _ => true
  | .visible _ _ => true
  | .durable _ _ => true
  | .stallPut _ _ => true
  | .stallWordRead _ _ => true
  | .tallyFetch _ _ => true
  | .drop _ _ => true
  | .mark _ _ => true
  | .rewind _ _ => true
  | .release _ _ => true
  | .flush _ _ => true
  | .reqReservedOpcode _ opc _ => decide (0xB ≤ opc.toNat)
  | .writeDataBeat _ _ _ _ => true
  | .readBeatAccept _ => true
  | .responseAccept _ => true
  | .urgChange _ _ => true
  | .exc _ => true
  | .fabClkMeasure _ _ => true
  | .burstTimeout _ => true
  | .fabricPortBoundary _ => true
  | .pwbDrain _ _ => true
  | .queueEntry _ => true
  | .lineDataReturn _ _ _ => true
  | .fpProtoClear _ _ => true
  | .fpDurClear _ _ => true
  | .homeRsvClear _ => true
  | .commandSlotSelect _ _ _ => true
  | .refreshDue _ _ => true
  | .rowTimeoutClose _ _ _ _ => true
  | .hotRestore _ _ => true
  | .trainingPauseStart _ => true
  | .pauseForce _ => true
  | .brMissClear _ _ => true
  | .schMissLogClear _ => true
  | .psCntClear _ _ => true
  | .tbCountRead => true
  | .softStep => true
  | .armEpochStep => true
  | .abandonStep => true
  | .stepLoad => true
  | .stepArmTimeout => true
  | .epochPulseIn _ _ => true
  | .epochPulseOut _ => true
  | .timeMarkStart p _ => serialPort p
  | .timeMarkAnswer p _ _ _ _ => serialPort p
  | .launchHold _ => true
  | .launchStart _ => true
  | .refHoldEnd _ => true
  | .streamLineEnter _ _ => true
  | .stallSwitch _ => true
  | .launchCancel _ => true
  | .launchSelfWake => true
  | .tbAlarmWrite _ _ => true
  | .tbAlarmFire => true
  | .pwrGoodRise _ => true
  | .pwrGoodTimeout _ => true
  | .spdReadDone _ spd => decide (spd.length ≤ 4) && spd.all spdOk
  | .initDone _ _ => true
  | .zeroFillDone _ => true
  | .alert p => !serialPort p
  | .alertRise p _ => !serialPort p
  | .alertRecoveryDone _ _ => true
  | .commandKnownGood _ => true
  | .pwrGoodLost _ => true
  | .autoSelfRefresh _ => true
  | .selfRefreshExit _ => true
  | .zqStart _ _ => true
  | .zqLatch _ _ => true
  | .dimmTempPoll p _ _ => !serialPort p
  | .dpCntClear _ _ => true
  | .linkup p _ _ => serialPort p
  | .laneLockLoss p _ => serialPort p
  | .laneWeak p _ _ _ => serialPort p
  | .spareSwitch p _ => serialPort p
  | .takeoverTimeout p _ => serialPort p
  | .recalTurn p _ => serialPort p
  | .recalReturn p _ runs => serialPort p && runs.all measOk
  | .relink p _ => serialPort p
  | .linkTimeout p => serialPort p
  | .rateChange p => serialPort p
  | .packetCrcFail p => serialPort p
  | .nakRepeat p => serialPort p
  | .nak p _ => serialPort p
  | .creditAck p _ _ => serialPort p
  | .packetReserved p => serialPort p
  | .readDataPacket p _ _ _ _ => serialPort p
  | .readDataLost p _ => serialPort p
  | .refuse p _ _ _ => serialPort p
  | .cap p _ _ => serialPort p
  | .err p _ _ _ _ => serialPort p
  | .alertPacket p _ _ _ => serialPort p
  | .temp p _ _ => serialPort p
  | .laneFault p _ _ => serialPort p
  | .regData p _ _ => serialPort p
  | .mrrData p _ _ _ => serialPort p
  | .pwr p _ => serialPort p
  | .resume p _ _ _ => serialPort p
  | .codeUpdate p => serialPort p
  | .slCntClear p _ => serialPort p
  | .laneSoak p _ _ => serialPort p
  | .trackingRound _ => true
  | .trackReadPause _ ms => ms.all measOk
  | .trackWritePause _ ms _ _ => ms.all measOk
  | .trackOscPause _ ms => ms.all measOk
  | .driftClamp p _ => serialPort p
  | .trCntClear _ _ => true
  | .gatherClose _ _ => true
  | .rmwReadDone _ _ _ => true
  | .scrubVisit _ => true
  | .scrubVisitDone _ _ => true
  | .ceWindowExpire _ => true
  | .ceThRaise _ => true
  | .logTailWrite _ _ => true
  | .elLostClear _ => true
  | .ecCntClear _ _ => true
  | .remapAdd _ _ => true
  | .remapCopyLine _ _ => true
  | .marchStart => true
  | .marchAbort => true
  | .marchEnd fails => fails.all fun f => decide (f.1.toNat < 0x79)
  | .spadClear _ => true
  | .stallEnable => true
  | .stallDisable => true
  | .stallReset => true
  | .stallFlushTimer _ => true
  | .pairIdleRelease _ => true
  | .stallSpillDone _ => true
  | .stallRefillDone _ errs => decide (errs.map fun e => e.idx).Nodup
  | .stallFwaitResume _ => true
  | .stallCloseWord _ => true
  | .pioPush _ => true
  | .pioPop _ => true
  | .pioPopDone => true
  | .stEcntClear _ => true
  | .stErrClear _ => true
  | .rds _ _ => true
  | .rdu _ _ => true
  | .upg _ _ => true
  | .wb _ _ => true
  | .rdo _ _ => true
  | .wru _ _ _ => true
  | .atom _ _ _ => true
  | .ringBar _ => true
  | .nrd _ => true
  | .nwr _ _ => true
  | .ringReqReserved _ op => op == 0 || decide (10 < op.toNat)
  | .ans _ _ => true
  | .ack _ => true
  | .snoopTimeout _ => true
  | .agentReadmit _ => true
  | .homeCntClear _ => true
  | .ringDurClear _ => true
  | .undefinedInstruction _ _ => true
  | .ifetchMissDone _ _ => true
  | .ldlnDataArrive _ _ => true
  | .postedStoreDone _ _ => true
  | .start _ => true
  | .stop _ => true
  | .contextReset _ => true
  | .lnIcInvalidate _ => true
  | .programRamWrite _ _ => true
  | .dataRamWrite _ _ => true
  | .lantDurClear _ _ => true
  | .doorbell _ _ => true
  | .descriptorRead _ => true
  | .nop _ => true
  | .train _ failed => stepOk failed
  | .retrainTrack _ => true
  | .retrainCsca _ failed => stepOk failed
  | .retrainFull _ failed => stepOk failed
  | .scrub _ _ => true
  | .march _ fails => decide fails.Nodup
  | .copy _ _ => true
  | .fill _ => true
  | .checkpoint _ => true
  | .warmVerify _ _ => true
  | .rowRepairSoft _ _ => true
  | .rowRepairHard _ => true
  | .linkLoop _ => true
  | .fence _ => true
  | .unfence _ => true
  | .loadProgram _ _ => true
  | .fedTimeSetArm _ => true
  | .fedTimeSetPulse _ => true
  | .fedTimeSetTrim _ => true
  | .completionPush _ => true
  | .abort _ => true
  | .cfgFenceRequest _ => true
  | .cfgFenceRelease _ => true
  | .fenceDrained _ => true
  | .fenceTimeout _ => true
  | .meterInterval events => decide (events.map fun e => (e.1, e.2.1)).Nodup
  | .adcSample _ => true
  | .busTrip => true
  | .busClear => true
  | .reserveLowTrip => true
  | .reserveRelease => true
  | .powerFailConfirm => true
  | .pfFlushDone => true
  | .pfCommit => true
  | .gaugeRebase => true
  | .packRemoval => true
  | .packReturn => true
  | .chargerAdjust => true
  | .plannerRun => true
  | .busReturnResume => true
  | .plnSlotpWrite _ => true
  | .bbrWrite _ _ => true
  | .energyReadLatch _ => true
  | .vbatLoss => true
  | .idleE1 => true
  | .idleE2 => true
  | .wakeE0 _ => true
  | .enterE1 _ => true
  | .enterE2 _ => true
  | .enterE3 _ => true
  | .enterE4 _ => true
  | .entryCommit _ => true
  | .stateReached => true
  | .prepTimeout _ => true
  | .wakeSource _ => true
  | .e3ExitDone => true
  | .domainOn v => v.getLsbD 31 && v.getLsbD 6
  | .domainOff v => v.getLsbD 31 && !v.getLsbD 6
  | .domainOnDone _ => true
  | .portOff _ _ => true
  | .portOn _ _ => true
  | .portSelfRefresh _ _ => true
  | .portWake _ _ => true
  | .portReset _ _ => true
  | .softReset => true
  | .softResetTimeout => true
  | .engineReset => true
  | .engineResetRelease => true
  | .powerOnReset => true
  | .supplyFailure => true
  | .pwrCntClear _ => true
  | .registerWrite _ bytes _ => bytes != 0
  | .globalBoundary => true
  | .portBoundary _ => true
  | .stallPacketBoundary _ => true
  | .cfgApplyHold _ => true
  | .cfgCommit v => v.getLsbD 1
  | .crcPassEnd => true
  | .cfgRejClear _ => true
  | .intSet _ _ => true
  | .initialTrainingDone _ failed timing => stepOk failed && (failed != 0 || timing.length == 9)
  | .linkUpTimeout p => serialPort p
  | .laneLockAcquired p _ => serialPort p
  | .data _ _ => true
  | .tsCntClear _ _ => true
  | .linkLoopDone p _ => serialPort p
  | .portStoppingDone _ => true

end Sys2Proof
end

