-- ==== Sys2Proof/Decode.lean ====
section
/-!
DEFINITION. The words of the Lantern instructions (R332, R333, Tables 12.4 to 12.16): their formats, which words the tables define,
the word of a command and the command of a word. The opcode table gives its rows no bits, so `decodeTableWord` answers none.
-/

namespace Sys2Proof.Machine

/-! ### Formats (Table 12.4) -/

/-- Format R. -/
def encR (major : Nat) (rd ra rb : BitVec 5) (sf : BitVec 1) (x : BitVec 4) (fn : Nat) : Word :=
  BitVec.ofNat 6 major ++ rd ++ ra ++ rb ++ sf ++ x ++ BitVec.ofNat 6 fn
/-- Format I; a store's rs stands in rd's place. -/
def encI (major : Nat) (rd ra : BitVec 5) (imm : BitVec 16) : Word := BitVec.ofNat 6 major ++ rd ++ ra ++ imm
/-- Format B. -/
def encB (major : Nat) (ra rb : BitVec 5) (off : BitVec 16) : Word := BitVec.ofNat 6 major ++ ra ++ rb ++ off
/-- Format C. -/
def encC (major : Nat) (cond : BitVec 4) (rsvd : BitVec 6) (off : BitVec 16) : Word := BitVec.ofNat 6 major ++ cond ++ rsvd ++ off
/-- Format J. -/
def encJ (major : Nat) (off : BitVec 26) : Word := BitVec.ofNat 6 major ++ off

/-- Fields of a word by place. -/
def wMajor (w : Word) : Nat := (w.extractLsb' 26 6).toNat
def wFn (w : Word) : Nat := (w.extractLsb' 0 6).toNat
def wRd (w : Word) : BitVec 5 := w.extractLsb' 21 5
def wRa (w : Word) : BitVec 5 := w.extractLsb' 16 5
def wRb (w : Word) : BitVec 5 := w.extractLsb' 11 5
def wSf (w : Word) : BitVec 1 := w.extractLsb' 10 1
def wX (w : Word) : BitVec 4 := w.extractLsb' 6 4
def wImm (w : Word) : BitVec 16 := w.extractLsb' 0 16

/-! ### Defined words (R332) -/

/-- The tables of chapter 12 define the word's major opcode, its FN and the values of its encoding fields. -/
def wordDefined (w : Word) : Bool :=
  let fn := wFn w
  let x := (wX w).toNat
  match wMajor w with
  | 1 => fn ≤ 0x1C && !(fn = 0x1A && x % 4 = 3)
  | 6 => (w.extractLsb' 14 2).toNat ≠ 3
  | 0x10 => (w.extractLsb' 22 4).toNat ≠ 0xF
  | 0x2E => fn ≤ 5 && !(fn = 5 && 0xA ≤ x)
  | 0x30 => fn ≤ 3
  | 0x31 => fn ≤ 3
  | 0x32 => fn ≤ 6 && !(fn = 0 && x % 4 = 3) && !(fn = 6 && 7 ≤ x)
  | 0x33 => fn ≤ 6 && !(fn = 2 && 4 ≤ x) && !(fn = 4 && 5 ≤ x) && !(fn = 5 && (x = 0 || 0xD ≤ x)) && !(fn = 6 && 5 ≤ x)
  | 0x3C => (wImm w).toNat ≤ 6
  | 0x3D => [0, 2, 3].contains (wImm w).toNat
  | m => (2 ≤ m && m ≤ 0xB) || (0x11 ≤ m && m ≤ 0x18) || (0x20 ≤ m && m ≤ 0x26) || (0x28 ≤ m && m ≤ 0x2D)

end Sys2Proof.Machine

namespace Sys2Proof

open Machine

/-! ### From a word to the command -/

/-- Major 0x01 (Table 12.7). -/
def decodeAlu (c : Fin 4) (w : Word) : Option Instr :=
  match wFn w with
  | 0x00 => some (.add c (wRd w) (wRa w) (wRb w) (wSf w) (wX w))
  | 0x01 => some (.sub c (wRd w) (wRa w) (wRb w) (wSf w) (wX w))
  | 0x02 => some (.and c (wRd w) (wRa w) (wRb w) (wSf w) (wX w))
  | 0x03 => some (.or c (wRd w) (wRa w) (wRb w) (wSf w) (wX w))
  | 0x04 => some (.xor c (wRd w) (wRa w) (wRb w) (wSf w) (wX w))
  | 0x05 => some (.andn c (wRd w) (wRa w) (wRb w) (wSf w) (wX w))
  | 0x06 => some (.sll c (wRd w) (wRa w) (wRb w) (wSf w) (wX w))
  | 0x07 => some (.srl c (wRd w) (wRa w) (wRb w) (wSf w) (wX w))
  | 0x08 => some (.sra c (wRd w) (wRa w) (wRb w) (wSf w) (wX w))
  | 0x09 => some (.slt c (wRd w) (wRa w) (wRb w) (wSf w) (wX w))
  | 0x0A => some (.sltu c (wRd w) (wRa w) (wRb w) (wSf w) (wX w))
  | 0x0B => some (.min c (wRd w) (wRa w) (wRb w) (wSf w) (wX w))
  | 0x0C => some (.max c (wRd w) (wRa w) (wRb w) (wSf w) (wX w))
  | 0x0D => some (.minu c (wRd w) (wRa w) (wRb w) (wSf w) (wX w))
  | 0x0E => some (.maxu c (wRd w) (wRa w) (wRb w) (wSf w) (wX w))
  | 0x0F => some (.neg c (wRd w) (wRa w) (wRb w) (wSf w) (wX w))
  | 0x10 => some (.mul c (wRd w) (wRa w) (wRb w) (wSf w) (wX w))
  | 0x11 => some (.mulh c (wRd w) (wRa w) (wRb w) (wSf w) (wX w))
  | 0x12 => some (.mulhu c (wRd w) (wRa w) (wRb w) (wSf w) (wX w))
  | 0x13 => some (.div c (wRd w) (wRa w) (wRb w) (wSf w) (wX w))
  | 0x14 => some (.divu c (wRd w) (wRa w) (wRb w) (wSf w) (wX w))
  | 0x15 => some (.rem c (wRd w) (wRa w) (wRb w) (wSf w) (wX w))
  | 0x16 => some (.remu c (wRd w) (wRa w) (wRb w) (wSf w) (wX w))
  | 0x17 => some (.clz c (wRd w) (wRa w) (wRb w) (wSf w) (wX w))
  | 0x18 => some (.ctz c (wRd w) (wRa w) (wRb w) (wSf w) (wX w))
  | 0x19 => some (.popc c (wRd w) (wRa w) (wRb w) (wSf w) (wX w))
  | 0x1A => some (.sext c (wRd w) (wRa w) (wRb w) (wSf w) (wX w))
  | 0x1B => some (.adc c (wRd w) (wRa w) (wRb w) (wSf w) (wX w))
  | 0x1C => some (.sbc c (wRd w) (wRa w) (wRb w) (wSf w) (wX w))
  | _ => none

/-- Major 0x2E (Table 12.11). -/
def decodeMem (c : Fin 4) (w : Word) : Option Instr :=
  match wFn w with
  | 0x00 => some (.ldln c (wRd w) (wRa w) (wRb w) (wSf w) (wX w))
  | 0x01 => some (.stln c (wRd w) (wRa w) (wRb w) (wSf w) (wX w))
  | 0x02 => some (.zln c (wRd w) (wRa w) (wRb w) (wSf w) (wX w))
  | 0x03 => some (.lantLr c (wRd w) (wRa w) (wRb w) (wSf w) (wX w))
  | 0x04 => some (.lantSc c (wRd w) (wRa w) (wRb w) (wSf w) (wX w))
  | 0x05 => some (.lantAmo c (wRd w) (wRa w) (wRb w) (wSf w) (wX w))
  | _ => none

/-- Major 0x30 (Table 12.12). -/
def decodeStall (c : Fin 4) (w : Word) : Option Instr :=
  match wFn w with
  | 0x00 => some (.sput c (wRd w) (wRa w) (wRb w) (wSf w) (wX w))
  | 0x01 => some (.sget c (wRd w) (wRa w) (wRb w) (wSf w) (wX w))
  | 0x02 => some (.stly c (wRd w) (wRa w) (wRb w) (wSf w) (wX w))
  | 0x03 => some (.scmd c (wRd w) (wRa w) (wRb w) (wSf w) (wX w))
  | _ => none

/-- Major 0x31 (Table 12.13). -/
def decodeTime (c : Fin 4) (w : Word) : Option Instr :=
  match wFn w with
  | 0x00 => some (.rdtb c (wRd w) (wRa w) (wRb w) (wSf w) (wX w))
  | 0x01 => some (.wait c (wRd w) (wRa w) (wRb w) (wSf w) (wX w))
  | 0x02 => some (.launch c (wRd w) (wRa w) (wRb w) (wSf w) (wX w))
  | 0x03 => some (.lcancel c (wRd w) (wRa w) (wRb w) (wSf w) (wX w))
  | _ => none

/-- EQ, by its selector (Table 12.15). -/
def decodeEq (c : Fin 4) (w : Word) : Option Instr :=
  match (wX w).toNat with
  | 0 => some (.eqEnergyTotal c (wRd w) (wRa w) (wRb w) (wSf w))
  | 1 => some (.eqUsableReserve c (wRd w) (wRa w) (wRb w) (wSf w))
  | 2 => some (.eqDomainLow c (wRd w) (wRa w) (wRb w) (wSf w))
  | 3 => some (.eqDomainHigh c (wRd w) (wRa w) (wRb w) (wSf w))
  | 4 => some (.eqRetention c (wRd w) (wRa w) (wRb w) (wSf w))
  | 5 => some (.eqAllowance c (wRd w) (wRa w) (wRb w) (wSf w))
  | 6 => some (.eqStage c (wRd w) (wRa w) (wRb w) (wSf w))
  | _ => none

/-- Major 0x32 (Table 12.14). -/
def decodeSys (c : Fin 4) (w : Word) : Option Instr :=
  match wFn w with
  | 0x00 => some (.bar c (wRd w) (wRa w) (wRb w) (wSf w) (wX w))
  | 0x01 => some (.iflush c (wRd w) (wRa w) (wRb w) (wSf w) (wX w))
  | 0x02 => some (.hbind c (wRd w) (wRa w) (wRb w) (wSf w) (wX w))
  | 0x03 => some (.hdone c (wRd w) (wRa w) (wRb w) (wSf w) (wX w))
  | 0x04 => some (.brk c (wRd w) (wRa w) (wRb w) (wSf w) (wX w))
  | 0x05 => some (.halt c (wRd w) (wRa w) (wRb w) (wSf w) (wX w))
  | 0x06 => decodeEq c w
  | _ => none

/-- Major 0x33 (Table 12.16). RREP, PPWR, TRSTEP and EPWR name more than their word holds, and have no command here. -/
def decodeDram (c : Fin 4) (w : Word) : Option Instr :=
  match wFn w, (wX w).toNat with
  | 0, _ => some (.mrw c (wRd w) (wRa w) (wRb w) (wSf w) (wX w))
  | 1, _ => some (.mrr c (wRd w) (wRa w) (wRb w) (wSf w) (wX w))
  | 2, 0 => some (.refcRefNow c (wRd w) (wRa w) (wRb w) (wSf w))
  | 2, 1 => some (.refcSrEnter c (wRd w) (wRa w) (wRb w) (wSf w))
  | 2, 2 => some (.refcSrExit c (wRd w) (wRa w) (wRb w) (wSf w))
  | 2, 3 => some (.refcZq c (wRd w) (wRa w) (wRb w) (wSf w))
  | _, _ => none

/-- The command that context c issues for a defined word. -/
def decodeLant (c : Fin 4) (w : Word) : Option Instr :=
  if !wordDefined w then none else
  match wMajor w with
  | 0x01 => decodeAlu c w
  | 0x02 => some (.addi c (wRd w) (wRa w) (wImm w))
  | 0x03 => some (.andi c (wRd w) (wRa w) (wImm w))
  | 0x04 => some (.ori c (wRd w) (wRa w) (wImm w))
  | 0x05 => some (.xori c (wRd w) (wRa w) (wImm w))
  | 0x06 => some (.shi c (wRd w) (wRa w) (wImm w))
  | 0x07 => some (.hsetz c (wRd w) (wRa w) (wImm w))
  | 0x08 => some (.hins c (wRd w) (wRa w) (wImm w))
  | 0x09 => some (.slti c (wRd w) (wRa w) (wImm w))
  | 0x0A => some (.sltiu c (wRd w) (wRa w) (wImm w))
  | 0x0B => some (.cmpi c (wRd w) (wRa w) (wImm w))
  | 0x18 => some (.jalr c (wRd w) (wRa w) (wImm w))
  | 0x20 => some (.lbu c (wRd w) (wRa w) (wImm w))
  | 0x21 => some (.lhu c (wRd w) (wRa w) (wImm w))
  | 0x22 => some (.lwu c (wRd w) (wRa w) (wImm w))
  | 0x23 => some (.ld c (wRd w) (wRa w) (wImm w))
  | 0x24 => some (.lb c (wRd w) (wRa w) (wImm w))
  | 0x25 => some (.lh c (wRd w) (wRa w) (wImm w))
  | 0x26 => some (.lw c (wRd w) (wRa w) (wImm w))
  | 0x28 => some (.sb c (wRd w) (wRa w) (wImm w))
  | 0x29 => some (.sh c (wRd w) (wRa w) (wImm w))
  | 0x2A => some (.sw c (wRd w) (wRa w) (wImm w))
  | 0x2B => some (.sd c (wRd w) (wRa w) (wImm w))
  | 0x2C => some (.ldm c (wRd w) (wRa w) (wImm w))
  | 0x2D => some (.stm c (wRd w) (wRa w) (wImm w))
  | 0x3C => some (.mfs c (wRd w) (wRa w) (wImm w))
  | 0x3D => some (.mts c (wRd w) (wRa w) (wImm w))
  | 0x10 => some (.bc c (w.extractLsb' 22 4) (w.extractLsb' 16 6) (wImm w))
  | 0x11 => some (.beq c (wRd w) (wRa w) (wImm w))
  | 0x12 => some (.bne c (wRd w) (wRa w) (wImm w))
  | 0x13 => some (.blt c (wRd w) (wRa w) (wImm w))
  | 0x14 => some (.bge c (wRd w) (wRa w) (wImm w))
  | 0x15 => some (.bltu c (wRd w) (wRa w) (wImm w))
  | 0x16 => some (.bgeu c (wRd w) (wRa w) (wImm w))
  | 0x17 => some (.jal c (w.extractLsb' 0 26))
  | 0x2E => decodeMem c w
  | 0x30 => decodeStall c w
  | 0x31 => decodeTime c w
  | 0x32 => decodeSys c w
  | 0x33 => decodeDram c w
  | _ => none

/-! ### From the command to its word -/

/-- The context and the word of a Lantern command whose operands all stand in its word. (Log 41: DEDUCED.) -/
def encodeLant (i : Instr) : Option (Fin 4 × Word) :=
  match i with
  | .add c rd ra rb sf x => some (c, encR 1 rd ra rb sf x 0x00)
  | .sub c rd ra rb sf x => some (c, encR 1 rd ra rb sf x 0x01)
  | .and c rd ra rb sf x => some (c, encR 1 rd ra rb sf x 0x02)
  | .or c rd ra rb sf x => some (c, encR 1 rd ra rb sf x 0x03)
  | .xor c rd ra rb sf x => some (c, encR 1 rd ra rb sf x 0x04)
  | .andn c rd ra rb sf x => some (c, encR 1 rd ra rb sf x 0x05)
  | .sll c rd ra rb sf x => some (c, encR 1 rd ra rb sf x 0x06)
  | .srl c rd ra rb sf x => some (c, encR 1 rd ra rb sf x 0x07)
  | .sra c rd ra rb sf x => some (c, encR 1 rd ra rb sf x 0x08)
  | .slt c rd ra rb sf x => some (c, encR 1 rd ra rb sf x 0x09)
  | .sltu c rd ra rb sf x => some (c, encR 1 rd ra rb sf x 0x0A)
  | .min c rd ra rb sf x => some (c, encR 1 rd ra rb sf x 0x0B)
  | .max c rd ra rb sf x => some (c, encR 1 rd ra rb sf x 0x0C)
  | .minu c rd ra rb sf x => some (c, encR 1 rd ra rb sf x 0x0D)
  | .maxu c rd ra rb sf x => some (c, encR 1 rd ra rb sf x 0x0E)
  | .neg c rd ra rb sf x => some (c, encR 1 rd ra rb sf x 0x0F)
  | .mul c rd ra rb sf x => some (c, encR 1 rd ra rb sf x 0x10)
  | .mulh c rd ra rb sf x => some (c, encR 1 rd ra rb sf x 0x11)
  | .mulhu c rd ra rb sf x => some (c, encR 1 rd ra rb sf x 0x12)
  | .div c rd ra rb sf x => some (c, encR 1 rd ra rb sf x 0x13)
  | .divu c rd ra rb sf x => some (c, encR 1 rd ra rb sf x 0x14)
  | .rem c rd ra rb sf x => some (c, encR 1 rd ra rb sf x 0x15)
  | .remu c rd ra rb sf x => some (c, encR 1 rd ra rb sf x 0x16)
  | .clz c rd ra rb sf x => some (c, encR 1 rd ra rb sf x 0x17)
  | .ctz c rd ra rb sf x => some (c, encR 1 rd ra rb sf x 0x18)
  | .popc c rd ra rb sf x => some (c, encR 1 rd ra rb sf x 0x19)
  | .sext c rd ra rb sf x => some (c, encR 1 rd ra rb sf x 0x1A)
  | .adc c rd ra rb sf x => some (c, encR 1 rd ra rb sf x 0x1B)
  | .sbc c rd ra rb sf x => some (c, encR 1 rd ra rb sf x 0x1C)
  | .addi c rd ra imm => some (c, encI 0x02 rd ra imm)
  | .andi c rd ra imm => some (c, encI 0x03 rd ra imm)
  | .ori c rd ra imm => some (c, encI 0x04 rd ra imm)
  | .xori c rd ra imm => some (c, encI 0x05 rd ra imm)
  | .shi c rd ra imm => some (c, encI 0x06 rd ra imm)
  | .hsetz c rd ra imm => some (c, encI 0x07 rd ra imm)
  | .hins c rd ra imm => some (c, encI 0x08 rd ra imm)
  | .slti c rd ra imm => some (c, encI 0x09 rd ra imm)
  | .sltiu c rd ra imm => some (c, encI 0x0A rd ra imm)
  | .cmpi c rd ra imm => some (c, encI 0x0B rd ra imm)
  | .jalr c rd ra imm => some (c, encI 0x18 rd ra imm)
  | .lbu c rd ra imm => some (c, encI 0x20 rd ra imm)
  | .lhu c rd ra imm => some (c, encI 0x21 rd ra imm)
  | .lwu c rd ra imm => some (c, encI 0x22 rd ra imm)
  | .ld c rd ra imm => some (c, encI 0x23 rd ra imm)
  | .lb c rd ra imm => some (c, encI 0x24 rd ra imm)
  | .lh c rd ra imm => some (c, encI 0x25 rd ra imm)
  | .lw c rd ra imm => some (c, encI 0x26 rd ra imm)
  | .sb c rd ra imm => some (c, encI 0x28 rd ra imm)
  | .sh c rd ra imm => some (c, encI 0x29 rd ra imm)
  | .sw c rd ra imm => some (c, encI 0x2A rd ra imm)
  | .sd c rd ra imm => some (c, encI 0x2B rd ra imm)
  | .ldm c rd ra imm => some (c, encI 0x2C rd ra imm)
  | .stm c rd ra imm => some (c, encI 0x2D rd ra imm)
  | .mfs c rd ra imm => some (c, encI 0x3C rd ra imm)
  | .mts c rd ra imm => some (c, encI 0x3D rd ra imm)
  | .bc c cond rsvd off => some (c, encC 0x10 cond rsvd off)
  | .beq c ra rb off => some (c, encB 0x11 ra rb off)
  | .bne c ra rb off => some (c, encB 0x12 ra rb off)
  | .blt c ra rb off => some (c, encB 0x13 ra rb off)
  | .bge c ra rb off => some (c, encB 0x14 ra rb off)
  | .bltu c ra rb off => some (c, encB 0x15 ra rb off)
  | .bgeu c ra rb off => some (c, encB 0x16 ra rb off)
  | .jal c off => some (c, encJ 0x17 off)
  | .ldln c rd ra rb sf x => some (c, encR 0x2E rd ra rb sf x 0)
  | .stln c rd ra rb sf x => some (c, encR 0x2E rd ra rb sf x 1)
  | .zln c rd ra rb sf x => some (c, encR 0x2E rd ra rb sf x 2)
  | .lantLr c rd ra rb sf x => some (c, encR 0x2E rd ra rb sf x 3)
  | .lantSc c rd ra rb sf x => some (c, encR 0x2E rd ra rb sf x 4)
  | .lantAmo c rd ra rb sf x => some (c, encR 0x2E rd ra rb sf x 5)
  | .sput c rd ra rb sf x => some (c, encR 0x30 rd ra rb sf x 0)
  | .sget c rd ra rb sf x => some (c, encR 0x30 rd ra rb sf x 1)
  | .stly c rd ra rb sf x => some (c, encR 0x30 rd ra rb sf x 2)
  | .scmd c rd ra rb sf x => some (c, encR 0x30 rd ra rb sf x 3)
  | .rdtb c rd ra rb sf x => some (c, encR 0x31 rd ra rb sf x 0)
  | .wait c rd ra rb sf x => some (c, encR 0x31 rd ra rb sf x 1)
  | .launch c rd ra rb sf x => some (c, encR 0x31 rd ra rb sf x 2)
  | .lcancel c rd ra rb sf x => some (c, encR 0x31 rd ra rb sf x 3)
  | .bar c rd ra rb sf x => some (c, encR 0x32 rd ra rb sf x 0)
  | .iflush c rd ra rb sf x => some (c, encR 0x32 rd ra rb sf x 1)
  | .hbind c rd ra rb sf x => some (c, encR 0x32 rd ra rb sf x 2)
  | .hdone c rd ra rb sf x => some (c, encR 0x32 rd ra rb sf x 3)
  | .brk c rd ra rb sf x => some (c, encR 0x32 rd ra rb sf x 4)
  | .halt c rd ra rb sf x => some (c, encR 0x32 rd ra rb sf x 5)
  | .eqEnergyTotal c rd ra rb sf => some (c, encR 0x32 rd ra rb sf 0 6)
  | .eqUsableReserve c rd ra rb sf => some (c, encR 0x32 rd ra rb sf 1 6)
  | .eqDomainLow c rd ra rb sf => some (c, encR 0x32 rd ra rb sf 2 6)
  | .eqDomainHigh c rd ra rb sf => some (c, encR 0x32 rd ra rb sf 3 6)
  | .eqRetention c rd ra rb sf => some (c, encR 0x32 rd ra rb sf 4 6)
  | .eqAllowance c rd ra rb sf => some (c, encR 0x32 rd ra rb sf 5 6)
  | .eqStage c rd ra rb sf => some (c, encR 0x32 rd ra rb sf 6 6)
  | .mrw c rd ra rb sf x => some (c, encR 0x33 rd ra rb sf x 0)
  | .mrr c rd ra rb sf x => some (c, encR 0x33 rd ra rb sf x 1)
  | .refcRefNow c rd ra rb sf => some (c, encR 0x33 rd ra rb sf 0 2)
  | .refcSrEnter c rd ra rb sf => some (c, encR 0x33 rd ra rb sf 1 2)
  | .refcSrExit c rd ra rb sf => some (c, encR 0x33 rd ra rb sf 2 2)
  | .refcZq c rd ra rb sf => some (c, encR 0x33 rd ra rb sf 3 2)
  | _ => none

/-! ### The opcode table -/

/-- No row of the table has bits. (Log 9: DESIGN CHOICE.) -/
def decodeTableWord (_nbits _w : Nat) : Option Instr := none

end Sys2Proof
end

