-- ==== Sys2Proof/Config.lean ====
section
/-!
DEFINITION. What one part fixes and what the spec leaves open: constants without a body, so that no proof can see a value.
Each is named in a row of notes/assumptions.
-/

namespace Sys2Proof.Config

/-- A free number, by the count of free values drawn so far. (Log 4: DESIGN CHOICE.) -/
opaque freeNat : Nat → Nat

/-- A free line, by the count of free values drawn so far. -/
opaque freeLine : Nat → Line

/-- Whether the code accepts an error pattern beyond the guarantee of Table 9.2, and the pattern that it then removes: a
function of width (x8), mark and error pattern (R224). (Log 113: DEDUCED.) -/
opaque miss : Bool → Option Nat → Burst → Option Burst

/-- What erasure decoding of a marked x8 device adds to a line whose error lies outside the mark (Table 9.2, last row). -/
opaque erased : Nat → Burst → Line

/-- Words of an on-chip group that a start-up march finds failing (R250), by the draw of the reset and the group. -/
opaque bootFails : Nat → Nat → List Nat

/-- Energy coefficients in pJ (R374): static per 10 µs by domain; per event by domain and kind. -/
opaque staticCoef : Nat → Nat
opaque eventCoef : Nat → Nat → Nat

/-- Fused trim record of a port (R202, R203): whether its CRC matches, and its code by converter. -/
opaque fuseOk : Nat → Bool
opaque fusedTrim : Nat → Nat → BitVec 8

/-- A trained value in force of an item, by the draw of the enable and the item's key (R204, R213). (Log 111: DEDUCED.) -/
opaque trained : Nat → Nat → Int

/-- Move of the write DQS delays that an oscillator count implies against the base count (Table 8.4), by speed code. -/
opaque oscMove : Nat → Int → Int → Int

/-- What a buffer's identity packet says of it (R184, R198): 0 an SB3, 1 an SB2, 2 neither, 3 a version that is not supported. -/
opaque bufferKind : BitVec 56 → Fin 4

/-- The CRC-16 of a trim record's bytes, whose polynomial the spec does not give (R202, R398). (Log 71: DEDUCED.) -/
opaque crc16 : List Nat → BitVec 16

/-- Soft-repair programming time of a port's DIMMs, in edges (R161). -/
opaque repairTime : Nat → Nat

end Sys2Proof.Config
end

