-- ==== Sys2Proof/Machine/State.lean ====
section
/-!
DEFINITION. The state of the engine as plain data, the reasons a step can stop, and the state right after reset.
Every register word lies in `regs` (the value in force) and `shadow` (a staged value that software wrote and that waits for
its boundary, R460); a register that neither holds reads its reset word. Everything that is not a register has a field of
its own below. Numbered units (ports, stalls, contexts, handles) lie in sparse tables with one default each, so the state
after reset is short.
-/

namespace Sys2Proof.Machine

/-- Why the machine stops. -/
inductive Fault where
  /-- A command reached a unit that is not connected in this variant: a fabric port of R8 or a port pin or link of Table 0.2.
  Raised by the meanings of the commands that arrive at such a unit. Safe: R8 says that no such command can arrive. -/
  | notConnected
  deriving DecidableEq, Repr

/-- Why a command has no meaning in the model. -/
inductive Refusal where
  /-- The command of that mnemonic is not modelled yet; raised by `exec` alone. Safe. -/
  | notModelled (mnemonic : String)
  deriving DecidableEq, Repr

/-! ### Registers -/

/-- One register field: first address, distance between the copies of the register, reset word, lowest bit and width. -/
structure Fld where
  base : Nat
  stride : Nat
  rst : Nat
  lo : Nat
  w : Nat
  deriving DecidableEq, Repr

/-- A limit on one field of a written word (R462): lowest bit, width, least and greatest value, reason of Table 17.5. -/
structure FldCheck where
  lo : Nat
  w : Nat
  min : Nat
  max : Nat
  reason : Nat
  deriving DecidableEq, Repr

/-- One register of the window with its copies: addresses, reset word, the masks of its access types (Table 17.1), its limits. -/
structure RegDesc where
  base : Nat
  stride : Nat
  first : Nat
  count : Nat
  rst : Nat
  rs : Nat
  rw : Nat
  w1c : Nat
  wo : Nat
  checks : List FldCheck
  deriving DecidableEq, Repr

/-! ### Identity (chapters 0 and 17) -/

/-- The three variants of Table 0.1. -/
inductive Variant where
  | cx3f | cx3m | cx3d
  deriving DecidableEq, Repr

/-- What is fixed per part (R1, R469, R288). -/
structure Part where
  variant : Variant := .cx3f
  engine : Bool := false
  device : Fin 5 := 2
  stepping : BitVec 8 := 0
  ownStop : Fin 32 := 0
  otherStop : Fin 32 := 31
  deriving DecidableEq, Repr

/-! ### Requests (chapters 2 to 4) -/

/-- What a request is bound to when it is accepted (R81, R84, R85, R87). -/
structure ReqAttr where
  /-- the budget record that counts it; none where Table 4.2 says no record -/
  rcd : Option (BitVec 8) := none
  cls : Fin 8 := 7
  demoted : Bool := false
  /-- acceptance tick -/
  accept : Int := 0
  /-- deadline tick of DL, where the request carries one (R32) -/
  deadline : Option Int := none
  /-- base deadline of a C0 request (R85) -/
  base : Int := 0
  /-- latency target in ticks, 0 none -/
  tgt : Nat := 0
  /-- fabric port whose urgency moves it -/
  fp : Option (Fin 32) := none
  deriving DecidableEq, Repr

/-- The result of one line of a request. -/
structure LineRes where
  data : Line := 0
  bst : BitVec 2 := 0
  sts : BitVec 4 := 0
  deriving DecidableEq, Repr

/-- Where one line of a fabric request stands: not yet granted a read line or without its beat; granted and waiting for stores
or a barrier (R64, R65, R69); past the grant on its way to the point of coherence or the DRAM port; with its result; its beat
accepted by the master, or its PWB entry drained. -/
inductive LPhase where
  | idle | held | sent | done | gone
  deriving DecidableEq, Repr

/-- One line of a fabric request. -/
structure FLine where
  ph : LPhase := .idle
  /-- the line passed the point of coherence (R55) -/
  performed : Bool := false
  res : LineRes := {}
  deriving DecidableEq, Repr

/-- One write-data beat in its PWB entry (R61). -/
structure Beat where
  data : Line
  be : BitVec 64
  deriving DecidableEq, Repr

/-- An outstanding request of a fabric port (R33), in program order. -/
structure FabReq where
  id : Nat
  opc : BitVec 5
  w : ReqWord
  attr : ReqAttr
  /-- status of a request refused at acceptance (R34); it holds no line -/
  refused : Option (BitVec 4) := none
  /-- beats arrived, oldest first -/
  beats : List Beat := []
  lines : List FLine := []
  /-- the write burst ended before all its beats arrived (R52) -/
  cut : Bool := false
  /-- timebase edge of the last beat, or of acceptance (R52) -/
  lastBeat : Nat := 0
  /-- the response was offered, or the last beat was -/
  answered : Bool := false
  /-- the final answer has been transferred; the request stays until its last line has drained -/
  ended : Bool := false
  /-- items of a STALL_PUT beat already pushed; read beats already offered -/
  pushed : Nat := 0
  deriving DecidableEq, Repr

/-- A write-carrying request word whose beats the master still owes (R40, R34): an accepted request by its number, or none for
one whose beats are discarded. -/
structure BeatOwed where
  req : Option Nat
  left : Nat
  deriving DecidableEq, Repr

/-- A read beat offered on RD (Table 2.1). -/
structure RdBeat where
  req : Nat
  tag : BitVec 8
  data : Line
  bst : BitVec 2
  idx : BitVec 6
  last : Bool
  sts : BitVec 4
  deriving DecidableEq, Repr

/-- A response offered on RSP. -/
structure RspBeat where
  req : Nat
  tag : BitVec 8
  sts : BitVec 4
  deriving DecidableEq, Repr

/-- One fabric port: what FP_* registers do not hold (chapters 2, 3 and 13). -/
structure FabPort where
  /-- request and write-data tallies that the master holds (R39) -/
  reqTly : Nat := 0
  wdTly : Nat := 0
  /-- tallies granted since EN was set -/
  granted : Bool := false
  reqs : List FabReq := []
  owed : List BeatOwed := []
  rd : List RdBeat := []
  rsp : List RspBeat := []
  /-- free read lines are those of FP_ALLOC less these (R49) -/
  rdHeld : Nat := 0
  /-- level in force (R43) -/
  urg : BitVec 2 := 0
  /-- a measurement in range has been seen while CLK_OK = 0 (R20) -/
  clkOnce : Bool := false
  /-- TLY_CLR pulses driven (R42, R369) -/
  tlyClr : Nat := 0
  /-- FENCED output (R367) -/
  fenced : Bool := false
  /-- a host FENCE timed out: answers are dropped (R370) -/
  dropAns : Bool := false
  /-- handle slots of FENCE commands waiting for the drain, with their expiry edge (0 none) -/
  fenceWait : List (Nat × Nat) := []
  /-- handle slots of UNFENCE commands waiting for FENCED to fall -/
  unfenceWait : List Nat := []
  /-- a source cleared before the drain ended (R371) -/
  relHost : Bool := false
  relCfg : Bool := false
  /-- failures of posted lines not yet reported by a barrier, oldest first (R73) -/
  postFail : List (BitVec 4) := []
  deriving DecidableEq, Repr

/-- Who waits for a line at a DRAM port. -/
inductive Owner where
  /-- line k of a fabric request -/
  | fab (fp : Fin 32) (req : Nat) (line : Nat)
  /-- a request at the home, by its number -/
  | home (req : Nat)
  /-- a memory access of a Lantern context, by its number -/
  | lant (c : Fin 4) (acc : Nat)
  /-- a line of a launch stream of a port -/
  | stream (p id line : Nat)
  /-- a merge-buffer entry's read and write-back (R233) -/
  | rmw (e : Nat)
  /-- a patrol visit (R235) -/
  | scrub
  /-- the line of a row copy to or from slot s (R243, R161) -/
  | copy (slot : Nat) (col : Nat)
  /-- nobody waits -/
  | post
  deriving DecidableEq, Repr

/-- What a sub-request does at its DRAM port. -/
inductive SubKind where
  | read
  | write (data : Line) (be : BitVec 64) (poison : Bool)
  | rmw (entry : Nat)
  | visit
  | copy (slot : Nat) (col : Nat)
  | amo (aop : BitVec 4) (size : BitVec 3) (off : BitVec 6) (opd : Line)
  deriving DecidableEq, Repr

/-- A line-sized sub-request, waiting at address decode or in a port's command queue. -/
structure SubReq where
  id : Nat
  owner : Owner
  /-- local address on the port, line-aligned -/
  la : Nat
  kind : SubKind
  attr : ReqAttr := {}
  /-- counted as age-promoted (R89) -/
  promoted : Bool := false
  deriving DecidableEq, Repr

/-- Where a local address lies (R147, R199): SUB, DIMM, ranks, bank and row. -/
structure Loc where
  sub : Nat := 0
  dimm : Nat := 0
  prank : Nat := 0
  cid : Nat := 0
  bg : Nat := 0
  bank : Nat := 0
  row : Nat := 0
  col : Nat := 0
  deriving DecidableEq, Repr

/-- The DRAM commands of Tables 6.14 and 7.7. -/
inductive Op where
  | act | rd | rda | wr | wra | prePb | preSb | preAb | refAb | refSb | rfmAb | rfmSb | sre | srx | mrw | mrr | mpc | amo
  deriving DecidableEq, Repr

/-- A DRAM command that was issued: tick and DRAM-clock offset of its first cycle, what it does, and the request it serves. -/
structure Issued where
  seq : Nat
  clk : Nat
  off : Nat
  op : Op
  loc : Loc
  req : Option SubReq := none
  /-- its stamp on a serial port (R125) -/
  stamp : BitVec 28 := 0
  /-- already known good (R152) -/
  good : Bool := false
  /-- sent with the unblock flag (R127) -/
  unblk : Bool := false
  deriving DecidableEq, Repr

/-- A read column command whose data has not returned; the line as it stood when the command was issued. -/
structure Flight where
  id : Nat
  req : SubReq
  sub : Nat
  stamp : BitVec 28 := 0
  clk : Nat := 0
  data : Line := 0
  poison : Bool := false
  /-- released to its owner only when known good (R152) -/
  seq : Nat := 0
  /-- a later write to the line has executed (Table 5.3) -/
  overwritten : Bool := false
  /-- what the buffer's ERR packet said of it (R231): kind, symbol position, and how many symbols it corrected, which the packet
  does not carry -/
  err : Option (BitVec 2 × BitVec 5 × Nat) := none
  deriving DecidableEq, Repr

/-- Refresh state of one logical rank (R100, R101, R155, R156). -/
structure RankSt where
  /-- timebase edge at which the current interval began -/
  start : Nat := 0
  owed : Nat := 0
  pulled : Nat := 0
  /-- bank indices already refreshed of the set being issued (REFsb) -/
  part : List (Fin 4) := []
  /-- a refresh or RFM has taken its first step and holds its banks; it is an RFM -/
  begun : Bool := false
  rfmJob : Bool := false
  /-- bank index that the job in progress, or the last one, covers; none for every bank -/
  cover : Option (Fin 4) := none
  /-- the last refresh or RFM holds its banks until this DRAM clock -/
  busy : Nat := 0
  /-- mandatory refresh already counted -/
  forced : Bool := false
  zqStart : Option Nat := none
  zqLast : Nat := 0
  /-- RFM due for the bank index (R156) -/
  rfm : List Nat := []
  deriving DecidableEq, Repr

/-- One sub-channel of a port as the scheduler sees it. -/
structure SubCh where
  /-- open row of each bank, keyed by the bank's number -/
  openRows : SMap Nat := []
  /-- column hits in succession on the open row while another row waits (R97) -/
  hits : SMap Nat := []
  /-- edge of the last column command of each bank's open row (R96) -/
  lastCol : SMap Nat := []
  dirWrite : Bool := false
  drain : Bool := false
  /-- tick of the last column command of band 11 (Table 14.2, stage 4) -/
  lastC6 : Option Nat := none
  /-- column commands issued in CX2 mode, by which their read data is matched (R195) -/
  colSeq : Nat := 0
  /-- commands issued lately, latest first: enough for every timing window -/
  hist : List Issued := []
  deriving DecidableEq, Repr

/-- A training pause due or running on a port (R103). -/
structure Pause where
  kind : Nat
  /-- the rank that it serves; for a soft repair, the slot of the row's entry -/
  rank : Nat
  len : Nat
  due : Nat
  deriving DecidableEq, Repr

/-- The scheduler of one port (chapter 4). -/
structure Sched where
  /-- sub-requests that wait at address decode, oldest first (R99) -/
  wait : List SubReq := []
  queue : List SubReq := []
  subs : SMap SubCh := []
  ranks : SMap RankSt := []
  /-- rolling activate counts by bank (R156) -/
  raa : SMap Nat := []
  flight : List Flight := []
  /-- band 0: commands to be replayed, in order (R104) -/
  replay : List Issued := []
  /-- commands not yet known good (R152, R194) -/
  retry : List Issued := []
  pauses : List Pause := []
  /-- the pause that runs, with the edge at which it ends -/
  pause : Option (Pause × Nat) := none
  /-- no due refresh is placeable before this edge (REF_HOLD) -/
  refHold : Nat := 0
  /-- banks that a launch holds: sub-channel, bank number, launch number times 16 plus the index of its action -/
  launchHold : List (Nat × Nat × Nat) := []
  /-- doubled refresh: bit per DIMM, and the edge since which the DIMM has been cool -/
  cool : SMap Nat := []
  /-- overtemperature excursion reported (R157) -/
  hot : BitVec 4 := 0
  deriving DecidableEq, Repr

/-! ### Timebase (chapter 5) -/

/-- A time step in progress (R114). -/
inductive StepSt where
  | none | soft | armed | loaded
  deriving DecidableEq, Repr

/-- A launch action record (R131). -/
structure Act where
  act : BitVec 4
  port : BitVec 5
  off : BitVec 4
  w1 : W64
  w2 : W64
  w3 : W64
  /-- its hold has begun; it has started -/
  held : Bool := false
  started : Bool := false
  deriving DecidableEq, Repr

/-- A pending launch (R130). -/
structure Launch where
  t : BitVec 64
  acts : List Act
  deriving DecidableEq, Repr

/-- A timed read stream that runs on a port (R133). -/
structure Stream where
  id : Nat
  t : Int
  act : Act
  /-- next line to enter, next line to push, lines that completed early, and the bindings of the lines not pushed -/
  entered : Nat := 0
  pushed : Nat := 0
  done : SMap LineRes := []
  attrs : SMap ReqAttr := []
  deriving DecidableEq, Repr

/-- Time marks and lead of a serial port (R122 to R124). -/
structure Marks where
  /-- t1 of the exchange in flight, in fine units -/
  t1 : Option Int := none
  /-- edge at which the next exchange is due -/
  due : Nat := 0
  lead : Nat := 0
  /-- a smaller lead that waits for the port boundary -/
  leadNew : Option Nat := none
  realign : Bool := false
  /-- exchanges voided by a replay or a lane change (R182) -/
  void : Bool := false
  deriving DecidableEq, Repr

/-- The timebase and the launches (chapter 5). -/
structure Timebase where
  step : StepSt := .none
  /-- edge at which an armed step is abandoned -/
  armEnd : Nat := 0
  /-- EPOCH_IN is ignored until this edge (R117) -/
  epochBlind : Nat := 0
  /-- EPOCH_OUT is high until this edge, and how many pulses were driven (R118) -/
  epochOut : Nat := 0
  epochPulses : Nat := 0
  alarmArmed : Bool := false
  launches : SMap Launch := []
  /-- stall switches that wait for the end of a packet: stall A, stall B (R281) -/
  switches : List (Nat × Nat) := []
  /-- result e of the last FED_TIME_SET ARM, in 1/1024 tick (R364) -/
  fedE : Option Int := none
  /-- handle slot whose FED_TIME_SET ARM waits for the step, with its F -/
  fedArm : Option (Nat × Nat) := none
  /-- edge of the last GUARANTEE_MISS cause (R107) -/
  missLast : Option Nat := none
  deriving DecidableEq, Repr

/-! ### DRAM ports (chapters 6 to 9) -/

/-- What a port enable in progress has reached (R145, R197): none runs; cold; warm; or a cold one whose DIMMs are being
zero-filled (R160). -/
inductive Enable where
  | none | cold | warm | fill
  deriving DecidableEq, Repr

/-- The direct or serial port's own state (chapters 6 and 7), beyond its registers. -/
structure DramSt where
  enable : Enable := .none
  /-- edge at which PWR_EN rose -/
  pwrEn : Option Nat := none
  prEnBall : Bool := false
  drstN : Bool := false
  dck : Bool := false
  /-- speed chosen, its SPD data, by slot -/
  spd : List SpdSlot := []
  /-- self-refresh entered at edge -/
  srAt : Option Nat := none
  /-- self-refresh was commanded, not automatic (R159) -/
  srCmd : Bool := false
  /-- edge since which the port has been idle -/
  idleAt : Nat := 0
  /-- an alert is being handled: low since; rise edge; successive alerts (R153) -/
  alertAt : Option Nat := none
  alertRise : Option Nat := none
  /-- channel whose alert is being handled (R194); 0 on a direct port -/
  alertEnd : Nat := 0
  alerts : Nat := 0
  escalated : Bool := false
  /-- hard repairs pending, by row key (R161) -/
  hardPend : List Nat := []
  /-- soft repairs in force, by row key -/
  soft : List Nat := []
  /-- temperature last read, by DIMM, with the edge -/
  tempAt : SMap Nat := []
  /-- the returning DIMMs that must be zero-filled (R160) -/
  zeroFill : BitVec 4 := 0
  /-- sub-requests wait while this enable runs: it returns shed DIMMs (R417) -/
  holdReq : Bool := false
  /-- mode registers written by MRW, keyed by rank and register -/
  modeRegs : SMap (BitVec 8) := []
  deriving DecidableEq, Repr

/-- One physical lane of one direction. -/
structure Lane where
  blockLock : Bool := false
  cwLock : Bool := false
  bad : Bool := false
  weak : Bool := false
  healthy : Bool := false
  /-- equaliser state held for a rate (R207) -/
  held : List (BitVec 2) := []
  deriving DecidableEq, Repr

/-- One direction's use of the spare (R171 to R174). -/
inductive SpareUse where
  | idle
  | shadow (logical : Nat) (at_ : Nat)
  | stands (logical : Nat)
  | turn (logical : Nat) (at_ : Nat)
  | loop
  deriving DecidableEq, Repr

/-- A packet in the link retry buffer (R186), by what it carries. (Log 105: DESIGN CHOICE.) -/
inductive Packet where
  | command (words : List Issued)
  | writeData (slot : Nat) (data : Line) (poison : Bool)
  | mark (kind : BitVec 2) (step : Int)
  | control (code : BitVec 8) (arg : Nat)
  | credit (ack : BitVec 12) (nak : Bool)
  deriving DecidableEq, Repr

/-- The link of a serial port (chapter 7). -/
structure Link where
  rx : SMap Lane := []
  tx : SMap Lane := []
  spareRx : SpareUse := .idle
  spareTx : SpareUse := .idle
  /-- spare lane of each direction, if any -/
  spareRxLane : Option Nat := none
  spareTxLane : Option Nat := none
  /-- the spare was used for a faulty lane since the last relink -/
  usedRx : Bool := false
  usedTx : Bool := false
  /-- logical lane whose turn is next, and when, in each direction (R172) -/
  recalNext : Nat := 0
  recalDue : Nat := 0
  recalNextTx : Nat := 0
  recalDueTx : Nat := 0
  /-- port state at the link loss, by its code (R188) -/
  was : Nat := 6
  /-- a CODE packet waits for its acknowledgement (R230) -/
  codeSent : Bool := false
  txSeq : BitVec 12 := 0
  rxSeq : BitVec 12 := 0
  retry : List Packet := []
  /-- packets sent out, latest first: what the board sees -/
  sent : List Packet := []
  nakSent : Bool := false
  nakAt : Nat := 0
  nakSeq : BitVec 12 := 0
  naks : Nat := 0
  ctlCredit : Nat := 8
  lost : Bool := false
  lostAt : Nat := 0
  timedOut : Bool := false
  relinked : Bool := false
  /-- requests that were refused FAR or BADSTAMP once -/
  far : List Nat := []
  cap : SMap (BitVec 56) := []
  linkAt : Nat := 0
  rate : BitVec 2 := 0
  codeDue : Bool := false
  srSelf : Bool := false
  /-- a loop test: lanes, handle slot, end edge -/
  loop : Option (Nat × Option Nat × Nat) := none
  /-- data from MRR_DATA and REG_DATA packets -/
  regs : SMap (BitVec 32) := []
  deriving DecidableEq, Repr

/-- A quality record (R220). -/
structure Quality where
  width : BitVec 12 := 0
  height : BitVec 10 := 0
  resid : BitVec 12 := 0
  rej : Bool := false
  age : Nat := 0
  deriving DecidableEq, Repr

/-- One trained item: value in force, pending value, rejections in succession (R213 to R217). -/
structure Item where
  val : Int := 0
  pend : Option Int := none
  rejects : Nat := 0
  deriving DecidableEq, Repr

/-- Training of one port (chapter 8). -/
structure Train where
  active : SMap (BitVec 8) := []
  /-- overrides written, by converter: code and OVR (R203) -/
  ovr : SMap (BitVec 9) := []
  items : SMap Item := []
  quality : SMap Quality := []
  round : Nat := 0
  roundDue : Nat := 0
  roundOn : Bool := false
  left : Nat := 0
  /-- draws the trained values of the last enable, which the spec leaves to the part and the board -/
  seed : Nat := 0
  /-- draws of single steps that TRSTEP ran since, by step code (R347) -/
  seeds : SMap Nat := []
  /-- handle slots that wait for the round to end -/
  waiters : List Nat := []
  deriving DecidableEq, Repr

/-- One merge-buffer entry (R232). -/
structure Merge where
  la : Nat
  data : Line
  be : BitVec 64
  opened : Nat
  closed : Bool := false
  attr : ReqAttr := {}
  poison : Bool := false
  /-- the store lines merged into it -/
  owners : List Owner := []
  deriving DecidableEq, Repr

/-- A row-remap entry's state (Table of RM_ENT). -/
inductive RowSt where
  | copy | active | ret
  deriving DecidableEq, Repr

/-- A row-remap table entry (R241, R243). -/
structure Remap where
  key : Nat
  st : RowSt
  /-- lines copied so far -/
  copied : Nat := 0
  /-- a soft repair of the row has been accepted and has not begun to copy back (R161) -/
  soft : Bool := false
  /-- poison bits of the slot's lines where the slot lies in the scratchpad -/
  poison : List Nat := []
  deriving DecidableEq, Repr

/-- Protection of one port (chapter 9). -/
structure Protect where
  merge : SMap Merge := []
  remap : SMap Remap := []
  /-- row tracker, latest touched first: row key and the lines corrected in this pass (R242) -/
  tracker : List (Nat × List Nat) := []
  fullPass : Bool := false
  devCnt : SMap Nat := []
  scrubPos : Nat := 0
  scrubDue : Nat := 0
  scrubOwed : Nat := 0
  passAt : Nat := 0
  scrubOut : Bool := false
  /-- the visit's interval of this pass -/
  scrubI : Nat := 16
  scrubN : Nat := 0
  ceOpen : Option Nat := none
  ceCount : Nat := 0
  ceRaiseDue : Bool := false
  ceLast : Option Nat := none
  deriving DecidableEq, Repr

/-- One DRAM port, direct (index 0 to 3) or serial (index 4 to 19). -/
structure Port where
  sched : Sched := {}
  marks : Marks := {}
  dram : DramSt := {}
  link : Link := {}
  train : Train := {}
  prot : Protect := {}
  /-- launch streams that run, and the number of the next -/
  streams : List Stream := []
  nextStream : Nat := 0
  deriving DecidableEq, Repr

/-- An error log entry (Table 9.5). -/
structure LogEntry where
  w0 : Word
  w1 : Word
  w2 : Word
  w3 : Word
  deriving DecidableEq, Repr

/-- One error log (R239); HEAD, TAIL, COUNT and LOST are its EL_PTR word. -/
structure Log where
  slots : SMap LogEntry := []
  head : BitVec 6 := 0
  tail : BitVec 6 := 0
  lost : BitVec 8 := 0
  ceLast : Option Nat := none
  deriving DecidableEq, Repr

/-- Spare words of one on-chip memory group (R246). -/
structure SramGrp where
  spares : List Nat := []
  degraded : Bool := false
  lastErr : Option Nat := none
  deriving DecidableEq, Repr

/-- The march engine (R247 to R249). -/
structure March where
  running : Bool := false
  groups : List Nat := []
  alg : BitVec 2 := 0
  destr : Bool := false
  bgs : BitVec 4 := 0
  aborted : Bool := false
  byReg : Bool := true
  deriving DecidableEq, Repr

/-! ### Stalls (chapter 10) -/

/-- Stall states (Table 10.1). -/
inductive StallSt where
  | off | on | recover
  deriving DecidableEq, Repr

/-- A word of a stall with its tag (Table 10.6). -/
structure SWord where
  data : Line
  tag : BitVec 16
  deriving DecidableEq, Repr

/-- The open partial word of a stall: its items so far, their valid bytes, whether it holds the packet's first item,
and whether one of them met a parity error. -/
structure Partial where
  data : Line := 0
  items : Nat := 0
  vb : Nat := 0
  sop : Bool := false
  bad : Bool := false
  deriving DecidableEq, Repr

/-- An item that waits for ring space, a pair or the fill bank, with EOP, valid bytes less one, and a parity error met
on its way (R245). -/
structure SItem where
  data : BitVec 64
  eop : Bool
  lbytes : BitVec 3
  errp : Bool := false
  bad : Bool := false
  deriving DecidableEq, Repr

/-- A consumer's word read in progress (R265): who reads (`post` is the PIO window), words asked for, words fixed at the moment
of the read, words taken so far. -/
structure Reader where
  owner : Owner
  len : Nat
  n : Nat
  got : List SWord := []
  deriving DecidableEq, Repr

/-- One stall (R254). Word positions count from 0. A complete word that is not freed lies in staging (`staged`, by position) or
else in the ring. -/
structure Stall where
  st : StallSt := .off
  baseLo : Word := 0
  baseHi : Word := 0
  cfg0 : Word := 0
  cfg1 : Word := 0x10C1F700
  cfg1New : Option Word := none
  refused : Bool := false
  ovr : Bool := false
  skip : Bool := false
  redir : Option (BitVec 15) := none
  gout : Nat := 0
  o : Nat := 0
  staged : SMap SWord := []
  /-- block of eight positions that the drain bank holds -/
  drain : Option Nat := none
  /-- positions: next to pack, next to read (H), mark (M), release (P), words written to the ring (ring head) -/
  wpos : Nat := 0
  h : Nat := 0
  m : Nat := 0
  p : Nat := 0
  spilled : Nat := 0
  part : Option Partial := none
  /-- the packet open on the producer side: items sent, marked errored, cut at the limit, items dropped after the cut, items
  and slots lost to overrun -/
  pktOpen : Bool := false
  pktItems : Nat := 0
  pktErr : Bool := false
  pktCut : Bool := false
  pktDropped : Nat := 0
  pktOver : Nat := 0
  /-- a flush or EOP that waits for space: padding slots, EOP, FRAG (R271) -/
  wait : Option (Nat × Bool × Bool) := none
  /-- a close that waits for space or for items, true when a fence asked for it (R264) -/
  closeWait : Option Bool := none
  /-- items of the PIO window that wait behind it -/
  items : List SItem := []
  /-- a reset word is armed: items discarded and cause -/
  rstWord : Option (Nat × BitVec 8) := none
  fetchReset : Bool := false
  fetchOvr : Bool := false
  /-- quarter of the pair that it holds -/
  pair : Option (Fin 4) := none
  /-- its item has been counted as waiting for a pair -/
  pwaited : Bool := false
  lastItem : Nat := 0
  errOver : BitVec 16 := 0
  errCe : BitVec 16 := 0
  /-- the word last read ended no packet (R276) -/
  midPkt : Bool := false
  reader : Option Reader := none
  /-- control-class copy of the pointers (R279) -/
  gout2 : Nat := 0
  o2 : Nat := 0
  wpos2 : Nat := 0
  h2 : Nat := 0
  m2 : Nat := 0
  p2 : Nat := 0
  spilled2 : Nat := 0
  deriving DecidableEq, Repr

/-! ### Coherence home (chapter 11) -/

/-- What a request at the home asks for (Table 11.5). -/
inductive HKind where
  | rds | rdu | upg | wb | rdo | wru | atom
  | read | lr | write | sc | amo | evict
  deriving DecidableEq, Repr

/-- How far a request at the home has come. -/
inductive HPhase where
  | queued | snoop | mem | ack
  deriving DecidableEq, Repr

/-- A request at the home, in its line's order (R300). -/
structure HomeReq where
  id : Nat
  kind : HKind
  line : Nat
  /-- ring stop of the requester, or 31 for the home's own requesters -/
  stop : Nat := 31
  txn : BitVec 8 := 0
  owner : Owner := .post
  data : Line := 0
  be : BitVec 64 := 0
  poison : Bool := false
  aop : BitVec 4 := 0
  size : BitVec 3 := 0
  off : BitVec 6 := 0
  attr : ReqAttr := {}
  phase : HPhase := .queued
  /-- agents still to answer; their answers so far -/
  await : List Nat := []
  snoopAt : Nat := 0
  held : Bool := false
  fwdBy : Option Nat := none
  fwdDirty : Bool := false
  fwdState : BitVec 3 := 0
  fwdLine : Option (Line × Bool) := none
  timedOut : Bool := false
  suspect : Bool := false
  /-- the requester's own converted UPG (R306) -/
  asRdu : Bool := false
  /-- GNT sent, ACK awaited -/
  granted : Bool := false
  /-- the line has been released (R300) -/
  released : Bool := false
  /-- the memory read has been placed, and what it returned (R302) -/
  memAsked : Bool := false
  memRes : Option LineRes := none
  /-- the ANS carried the line for memory (Table 11.6, SNPS from M or MI_A) -/
  ansLine : Option (Line × Bool) := none
  /-- a non-coherent request (R319): outside the lines' order -/
  nc : Bool := false
  /-- the atomic's write-back has been placed -/
  wrote : Bool := false
  /-- earlier requests of the same ring stop that it must follow (R58, R69, R317) -/
  after : List Nat := []
  deriving DecidableEq, Repr

/-- A note of the home (R306): agent, line, true for a converted UPG. -/
structure Note where
  agent : Nat
  line : Nat
  upg : Bool
  deriving DecidableEq, Repr

/-- Masters that may hold a reservation (R54, R76). -/
inductive Master where
  | fab (fp : Fin 32) | stop (s : Fin 32) | lant (c : Fin 4)
  deriving DecidableEq, Repr

/-- A ring message sent by the home: class and name of Table 11.4. -/
structure RingOut where
  cls : BitVec 3
  op : BitVec 5
  dst : Nat
  txn : BitVec 8
  line : Nat
  state : BitVec 3 := 0
  sts : BitVec 4 := 0
  poison : Bool := false
  fwd : Bool := false
  nodata : Bool := false
  rqs : Nat := 31
  hold : BitVec 7 := 0
  data : Option Line := none
  deriving DecidableEq, Repr

/-- A ledger entry (R296): its set's age order is the order of the list. -/
structure LedEntry where
  line : Nat
  suspect : Bool := false
  deriving DecidableEq, Repr

/-- A store line that is performed and whose write is still to come: who waits for it, its footprint, its slot, and whether it alone
holds the slot's bit (R62, R72). -/
structure FootPend where
  owner : Owner
  off : Nat
  slot : Nat
  alone : Bool
  deriving DecidableEq, Repr

/-- The home (chapter 11). -/
structure Home where
  /-- the ledger: set index, entries of the set, least recently used first -/
  ledger : SMap (List LedEntry) := []
  reqs : List HomeReq := []
  notes : List Note := []
  /-- reservations, least recently set first: master and line address -/
  rsv : List (Master × Nat) := []
  out : List RingOut := []
  drain : Bool := false
  /-- SNPSET in progress: set index and agents still to answer (R299) -/
  snpset : Option (Nat × List Nat) := none
  /-- store lines of every master whose footprint bit a failure would take back (R62, R72) -/
  feet : List FootPend := []
  /-- when the SNPSET was sent (R310) -/
  snpsetAt : Nat := 0
  /-- ring barriers that wait: stop, transaction, kind, requests to wait for -/
  bars : List (Nat × BitVec 8 × BitVec 2 × List Nat) := []
  deriving DecidableEq, Repr

/-! ### Lantern (chapter 12) -/

/-- Context states (Table 12.2). -/
inductive CtxSt where
  | stopped | running | waiting | halted
  deriving DecidableEq, Repr

/-- What a waiting context waits for. -/
inductive CtxWait where
  | none
  /-- WAIT until the count reaches a target -/
  | count (t : BitVec 64)
  /-- a blocking memory access, by number, with its destination register and kind -/
  | mem (acc : Nat) (rd : BitVec 5)
  /-- a barrier of that kind, with its destination register -/
  | bar (kind : BitVec 2) (rd : BitVec 5)
  /-- HDONE that waits as VISIBLE, with its two operands -/
  | hdone (a b : W64)
  /-- a line of code from DRAM -/
  | fetch (line : Nat)
  /-- SGET: stall, destination register, absolute data RAM offset -/
  | stall (a : Nat) (rd : BitVec 5) (dat : Nat)
  deriving DecidableEq, Repr

/-- A memory access of a context that has not ended. -/
structure LAcc where
  num : Nat
  /-- 0 LDM, 1 LR, 2 SC, 3 AMO, 4 posted store, 5 LDLN, 6 fetch -/
  kind : Nat
  addr : Nat
  dat : Nat := 0
  performed : Bool := false
  /-- ended, with its status and data -/
  res : Option LineRes := none
  attr : ReqAttr := {}
  deriving DecidableEq, Repr

/-- One Lantern context. Its windows, PRIV, PC, traps and footprint registers are typed here. -/
structure Ctx where
  st : CtxSt := .stopped
  g : SMap W64 := []
  pc : W64 := 0
  flags : BitVec 6 := 0
  trapen : BitVec 2 := 0
  mst : BitVec 7 := 0
  tblat : W64 := 0
  /-- domain bits latched by EQ selector 2 for selector 3 -/
  eqHigh : W64 := 0
  handle : Option (BitVec 16) := none
  codep : BitVec 20 := 0
  trapCode : BitVec 8 := 0
  trapValid : Bool := false
  trapMstat : BitVec 4 := 0
  tpc : W64 := 0
  tinsn : Word := 0
  /-- the instruction in progress -/
  cur : Word := 0
  priv : Bool := false
  prgBase : BitVec 6 := 0x20
  prgSize : BitVec 6 := 0
  datBase : BitVec 7 := 0x40
  datSize : BitVec 7 := 0
  wait : CtxWait := .none
  acc : List LAcc := []
  /-- data RAM lines that a failed LDLN marked, by line number -/
  failedLines : List Nat := []
  stopReq : Bool := false
  resetReq : Bool := false
  /-- accesses numbered below it lie before an ORDER: they are performed before any later access (R343) -/
  ordNum : Nat := 0
  deriving DecidableEq, Repr

/-- Lantern's shared memories. -/
structure Lantern where
  ctx : SMap Ctx := []
  /-- program RAM and data RAM, by byte offset -/
  prog : SMap Byte := []
  data : SMap Byte := []
  /-- bytes whose parity is wrong -/
  progBad : List Nat := []
  dataBad : List Nat := []
  /-- instruction cache: lines by line address; at most 4 per set, least recently used first -/
  cache : SMap (List (Nat × Line)) := []
  lastIssue : Fin 4 := 3
  deriving DecidableEq, Repr

/-! ### Host commands (chapter 13) -/

/-- Handle states (Table 13.2). -/
inductive HandleSt where
  | free | bound | queued | running | done
  deriving DecidableEq, Repr

/-- A handle slot. -/
structure Handle where
  st : HandleSt := .free
  gen : BitVec 4 := 0
  queue : Fin 4 := 0
  opc : BitVec 8 := 0
  /-- the eight items of its descriptor -/
  items : List (BitVec 64) := []
  /-- order of binding -/
  order : Nat := 0
  abreq : Bool := false
  accept : Int := 0
  attr : ReqAttr := {}
  /-- its outcome, once the command has ended: status, detail, result -/
  out : Option (BitVec 8 × BitVec 8 × BitVec 64) := none
  /-- position of its record in the completion stall, once pushed -/
  recPos : Option Nat := none
  replay : Bool := false
  deriving DecidableEq, Repr

/-- One host queue (R352). -/
structure HQueue where
  stallOff : Bool := false
  /-- handle slots bound and not yet read, oldest first; 4096 for a word that is read and discarded (R365) -/
  bound : List Nat := []
  /-- handle slots whose record waits to be pushed, in order -/
  push : List Nat := []
  deriving DecidableEq, Repr

/-- Host commands. -/
structure HostIf where
  handles : SMap Handle := []
  queues : SMap HQueue := []
  nextOrder : Nat := 0
  /-- context 0 halted on a trap: no further command starts (R363) -/
  frozen : Bool := false
  deriving DecidableEq, Repr

/-! ### Energy, reserve and power (chapters 14 and 15) -/

/-- The power-fail sequence (R393): not running, flushing and entering self-refresh (steps 1 to 4), descriptor and commit. -/
inductive PfSt where
  | none | flush | commit
  deriving DecidableEq, Repr

/-- The meter, the window, the sensing, the gauges, the charger and the planner, beyond their registers. -/
structure Energy where
  /-- energy totals in pJ, by domain (R374) -/
  totals : SMap Nat := []
  /-- edge at which the last interval ended -/
  meterAt : Nat := 0
  /-- bucket content in units of 10 nJ, that is 1 mW for 10 µs (R376) -/
  bucket : Nat := 72000000000
  /-- intervals in succession over the allowance, and under its release margin (R377) -/
  above : Nat := 0
  under : Nat := 0
  /-- the excursion of R378 has been counted -/
  excursion : Bool := false
  /-- slot of the converter's sequence that is sampled next (R380) -/
  slot : Fin 10 := 0
  /-- high gain is in force; samples still to blank; samples in succession under 80 % (R381) -/
  high : Bool := false
  blank : Nat := 0
  lowRun : Nat := 0
  /-- last two unblanked current samples, in mA, latest first, and the time in µs that the integrator still bridges -/
  iLast : Rat := 0
  iPrev : Rat := 0
  iSeen : Bool := false
  /-- time in µs: since the previous current sample; since iLast was taken; between iPrev and iLast -/
  gap : Nat := 0
  age : Nat := 0
  iGap : Nat := 8
  /-- the charge count in mC, unclipped fraction kept (R383) -/
  qcnt : Rat := 0
  qv : Rat := 0
  vrsvSeen : Bool := false
  /-- a table was accepted (R383) -/
  tableOk : Bool := false
  /-- edge since which the rest timer runs (R384) -/
  restAt : Option Nat := none
  /-- GAUGE_DISAGREE may be raised again -/
  disArmed : Bool := true
  /-- the pack is lost and has not returned (R385) -/
  lost : Bool := false
  /-- since when the conditions of a return hold -/
  backAt : Option Nat := none
  /-- edge of the last headroom adjustment (R387) -/
  chgAt : Nat := 0
  /-- comparators tripped, and since when (R382, R392) -/
  busTrip : Bool := false
  busAt : Nat := 0
  rsvTrip : Bool := false
  /-- self-refresh power of each slot, in force and staged (R405) -/
  slotp : SMap Word := []
  slotpNew : SMap Word := []
  /-- eligible slots as the planner last judged them after a change (R388, R389) -/
  elig : List Nat := []
  /-- usable energy in mJ of the last planner run (R388) -/
  euse : Nat := 0
  pf : PfSt := .none
  pfReason : BitVec 4 := 0
  /-- handles whose ABORTED record found no space (R393) -/
  lostH : Nat := 0
  /-- the pack was lost during the sequence (R403) -/
  pfLost : Bool := false
  /-- the frozen domain of the sequence -/
  frozen : BitVec 73 := 0
  /-- stall states kept in the fail area by the last sequence (R393, R401) -/
  fstalls : SMap Stall := []
  /-- the bus has been above PF_ON since this edge, in E4 (R402) -/
  busBack : Option Nat := none
  deriving DecidableEq, Repr

/-- Where a request for a transition came from, once accepted. -/
inductive ReqOf where
  | reg | idle
  | handle (slot : Nat)
  | lant (c : Fin 4)
  deriving DecidableEq, Repr

/-- A transition of the engine: its target, its origin, the edge at which preparation began, whether it is past its commit
point, the entry steps taken, and whether a wake waits for its end (R413, R421). -/
structure EngTrans where
  tgt : BitVec 3
  src : ReqOf
  start : Nat
  run : Bool := false
  /-- entry steps taken before the commit point (R416) -/
  steps : Nat := 0
  wake : Bool := false
  deriving DecidableEq, Repr

/-- A port transition: code of Table 12.16, origin, start, past its commit point. -/
structure PortTrans where
  op : BitVec 3
  src : ReqOf
  start : Nat
  run : Bool := false
  deriving DecidableEq, Repr

/-- The transitions of one port (R423). -/
structure PortPwr where
  cur : Option PortTrans := none
  pend : Option PortTrans := none
  deriving DecidableEq, Repr

/-- A software-switched domain: on, preparation of a switch-off, or switching on until an edge, with a switch-off that waits
for it (R409). -/
inductive DomSt where
  | on
  | prep (start : Nat)
  | off
  | rising (at_ : Nat) (off : Bool)
  deriving DecidableEq, Repr

/-- The power controller (chapter 15). -/
structure Power where
  /-- engine state in force, 0 to 4 -/
  st : BitVec 3 := 0
  cur : Option EngTrans := none
  pend : Option EngTrans := none
  /-- an exit runs: from which state, since when -/
  exit : Option (BitVec 3 × Nat) := none
  ports : SMap PortPwr := []
  doms : SMap DomSt := []
  /-- edge of the last activity (R412) -/
  activeAt : Nat := 0
  /-- a soft reset runs, since when; one waits for the running transition -/
  soft : Option Nat := none
  /-- fabric ports that the soft reset fenced -/
  softPorts : List Nat := []
  softWait : Bool := false
  /-- engine reset is asserted; one waits for the power-fail sequence (R454) -/
  inReset : Bool := false
  resetWait : Bool := false
  /-- E4 was entered by command -/
  e4cmd : Bool := false
  /-- a supply of the engine is outside its range (R436) -/
  supplyBad : Bool := false
  /-- warm resume in progress: its first DIMM has not left self-refresh (R401) -/
  warm : Bool := false
  deriving DecidableEq, Repr

/-! ### Configuration (chapter 17) -/

/-- Boundaries, the CRC pass over the configuration and the commit (R460, R465 to R468). -/
structure CfgSt where
  /-- the pass that runs (CFG_CRC_STAT.BUSY) reads its first word at this edge; its result goes into CFG_CRC_REF -/
  crcAt : Nat := 0
  byCommit : Bool := false
  /-- edge of the last global boundary -/
  globalAt : Nat := 0
  /-- edge of the last write to a global-scope RS field that no boundary has met since -/
  kick : Option Nat := none
  /-- staged words that the engine wrote: HOLD does not stop them -/
  own : List Nat := []
  deriving DecidableEq, Repr

/-! ### The whole engine -/

/-- The state of the engine. (Log 116: DESIGN CHOICE.) -/
structure State where
  /-- commands that wait, first in, first out -/
  pending : List Instr := []
  part : Part := {}
  /-- timebase edges since the power-on reset -/
  clk : Nat := 0
  /-- the timebase count (R110) -/
  count : BitVec 64 := 0
  /-- how many free values have been drawn -/
  free : Nat := 0
  /-- next number for a request, a sub-request or an issued command -/
  nextId : Nat := 0
  /-- register words in force, by offset in the window -/
  regs : SMap Word := []
  /-- staged words that wait for their boundary, by offset -/
  shadow : SMap Word := []
  /-- values that firmware wrote into timing registers, their floors (R149), by offset -/
  floors : SMap Word := []
  fab : SMap FabPort := []
  ports : SMap Port := []
  tb : Timebase := {}
  /-- error logs 0 to 20 (R239) -/
  logs : SMap Log := []
  sram : SMap SramGrp := []
  march : March := {}
  stalls : SMap Stall := []
  home : Home := {}
  lant : Lantern := {}
  host : HostIf := {}
  en : Energy := {}
  pw : Power := {}
  cfg : CfgSt := {}
  /-- DRAM bytes: port index times 2^41 plus local byte address -/
  dram : SMap Byte := []
  /-- scratchpad bytes -/
  spad : SMap Byte := []
  /-- DRAM lines whose codeword carries poison, by the key of their first byte (R228) -/
  poison : List Nat := []
  /-- scratchpad lines that hold poison -/
  spadBad : List Nat := []
  /-- battery-backed words, by word number (Table 14.5) -/
  bbr : SMap Word := []
  deriving DecidableEq, Repr

/-- The engine right after a power-on reset (R425): every register at its reset value, nothing in flight, memory with nothing
listed, and Lantern context 0 started at offset 0 of its window (R324). Values that the spec does not give are named in
notes/assumptions. (Log 5: DESIGN CHOICE.) (Log 6: DESIGN CHOICE.) (Log 7: DEDUCED.) -/
def State.reset : State := { lant := { ctx := [(0, { st := .running })] } }

end Sys2Proof.Machine
end

