-- ==== Sys2Proof/Machine/RegMap.lean ====
section
/-!
DEFINITION. The register tables of the spec: one `Fld` per field (rule and chapter in its docstring), and one `RegDesc` per
register, as the tables of chapters 2 to 17 give them (Table 17.10 is the index). `rst` is the register's reset word.
-/

namespace Sys2Proof.Machine

/-- IS_CTL[0:0], RS (R48, 02). -/
def IS_CTL_EN : Fld := ⟨0x28000, 0x100, 0x8, 0, 1⟩
/-- IS_CTL[4:1], RS (R48, 02). -/
def IS_CTL_GRAN : Fld := ⟨0x28000, 0x100, 0x8, 1, 4⟩
/-- IS_CTL[7:5], RS (R48, 02). -/
def IS_CTL_NLOG : Fld := ⟨0x28000, 0x100, 0x8, 5, 3⟩
/-- IS_CTL[8:8], RS (R48, 02). -/
def IS_CTL_HASH : Fld := ⟨0x28000, 0x100, 0x8, 8, 1⟩
/-- IS_BASE[15:0], RS (R48, 02). -/
def IS_BASE_BASE_G : Fld := ⟨0x28004, 0x100, 0x0, 0, 16⟩
/-- IS_SIZE[16:0], RS (R48, 02). -/
def IS_SIZE_SIZE_G : Fld := ⟨0x28008, 0x100, 0x0, 0, 17⟩
/-- IS_MEM[4:0], RS (R48, 02). -/
def IS_MEM_PORT : Fld := ⟨0x28010, 0x100, 0x0, 0, 5⟩
/-- IS_MEM[26:16], RS (R48, 02). -/
def IS_MEM_LOFF_G : Fld := ⟨0x28010, 0x100, 0x0, 16, 11⟩
/-- FP_CTL[0:0], RS (R53, 02). -/
def FP_CTL_EN : Fld := ⟨0xC0000, 0x1000, 0x40FF02, 0, 1⟩
/-- FP_CTL[1:1], RS (R53, 02). -/
def FP_CTL_URG_EN : Fld := ⟨0xC0000, 0x1000, 0x40FF02, 1, 1⟩
/-- FP_CTL[7:4], RS (R53, 02). -/
def FP_CTL_BST_TMO : Fld := ⟨0xC0000, 0x1000, 0x40FF02, 4, 4⟩
/-- FP_CTL[15:8], RS (R53, 02). -/
def FP_CTL_REQ_TLY : Fld := ⟨0xC0000, 0x1000, 0x40FF02, 8, 8⟩
/-- FP_CTL[22:16], RS (R53, 02). -/
def FP_CTL_WD_TLY : Fld := ⟨0xC0000, 0x1000, 0x40FF02, 16, 7⟩
/-- FP_ALLOC[9:0], RS (R53, 02). -/
def FP_ALLOC_RDLINES : Fld := ⟨0xC0004, 0x1000, 0x80, 0, 10⟩
/-- FP_STATUS[0:0], RO (R53, 02). -/
def FP_STATUS_CLK_OK : Fld := ⟨0xC0008, 0x1000, 0x0, 0, 1⟩
/-- FP_STATUS[1:1], RO (R53, 02). -/
def FP_STATUS_FENCED : Fld := ⟨0xC0008, 0x1000, 0x0, 1, 1⟩
/-- FP_STATUS[2:2], RO (R53, 02). -/
def FP_STATUS_ENABLED : Fld := ⟨0xC0008, 0x1000, 0x0, 2, 1⟩
/-- FP_STATUS[3:3], RO (R53, 02). -/
def FP_STATUS_BURST_HELD : Fld := ⟨0xC0008, 0x1000, 0x0, 3, 1⟩
/-- FP_STATUS[16:8], RO (R53, 02). -/
def FP_STATUS_OUT : Fld := ⟨0xC0008, 0x1000, 0x0, 8, 9⟩
/-- FP_PROTO[0:0], W1C (R53, 02). -/
def FP_PROTO_TLY_OVR : Fld := ⟨0xC000C, 0x1000, 0x0, 0, 1⟩
/-- FP_PROTO[1:1], W1C (R53, 02). -/
def FP_PROTO_WD_OVR : Fld := ⟨0xC000C, 0x1000, 0x0, 1, 1⟩
/-- FP_PROTO[2:2], W1C (R53, 02). -/
def FP_PROTO_TAG_DUP : Fld := ⟨0xC000C, 0x1000, 0x0, 2, 1⟩
/-- FP_PROTO[3:3], W1C (R53, 02). -/
def FP_PROTO_WD_ORPHAN : Fld := ⟨0xC000C, 0x1000, 0x0, 3, 1⟩
/-- FP_PROTO[4:4], W1C (R53, 02). -/
def FP_PROTO_LAST_ERR : Fld := ⟨0xC000C, 0x1000, 0x0, 4, 1⟩
/-- FP_PROTO[5:5], W1C (R53, 02). -/
def FP_PROTO_BST_TMO : Fld := ⟨0xC000C, 0x1000, 0x0, 5, 1⟩
/-- FP_PROTO[15:8], RO (R53, 02). -/
def FP_PROTO_LAST_TAG : Fld := ⟨0xC000C, 0x1000, 0x0, 8, 8⟩
/-- FP_PROTO_CNT[31:0], RO (R53, 02). -/
def FP_PROTO_CNT_COUNT : Fld := ⟨0xC0010, 0x1000, 0x0, 0, 32⟩
/-- FP_DUR_FOOT0[31:0], RO (R74, 03). -/
def FP_DUR_FOOT0_SLOT : Fld := ⟨0xC0020, 0x1000, 0x0, 0, 32⟩
/-- FP_DUR_FOOT1[31:0], RO (R74, 03). -/
def FP_DUR_FOOT1_SLOT : Fld := ⟨0xC0024, 0x1000, 0x0, 0, 32⟩
/-- FP_DUR_FOOT2[7:0], RO (R74, 03). -/
def FP_DUR_FOOT2_SLOT : Fld := ⟨0xC0028, 0x1000, 0x0, 0, 8⟩
/-- FP_DUR_FOOT2[8:8], RO (R74, 03). -/
def FP_DUR_FOOT2_SPAD : Fld := ⟨0xC0028, 0x1000, 0x0, 8, 1⟩
/-- FP_DUR_CTL[0:0], WO (R74, 03). -/
def FP_DUR_CTL_CLR : Fld := ⟨0xC002C, 0x1000, 0x0, 0, 1⟩
/-- HOME_RSV_LOSS[7:0], RO (R80, 03). -/
def HOME_RSV_LOSS_STORE : Fld := ⟨0xA0F00, 0x0, 0x0, 0, 8⟩
/-- HOME_RSV_LOSS[15:8], RO (R80, 03). -/
def HOME_RSV_LOSS_EXC : Fld := ⟨0xA0F00, 0x0, 0x0, 8, 8⟩
/-- HOME_RSV_LOSS[23:16], RO (R80, 03). -/
def HOME_RSV_LOSS_EVICT : Fld := ⟨0xA0F00, 0x0, 0x0, 16, 8⟩
/-- HOME_RSV_LOSS[31:24], RO (R80, 03). -/
def HOME_RSV_LOSS_OTHER : Fld := ⟨0xA0F00, 0x0, 0x0, 24, 8⟩
/-- HOME_RSV_CLR[0:0], WO (R80, 03). -/
def HOME_RSV_CLR_ALL : Fld := ⟨0xA0F04, 0x0, 0x0, 0, 1⟩
/-- BR_CFG[2:0], RS (R82, 04). -/
def BR_CFG_CLASS : Fld := ⟨0x21000, 0x10, 0xFFF3, 0, 3⟩
/-- BR_CFG[15:4], RS (R82, 04). -/
def BR_CFG_LIMIT : Fld := ⟨0x21000, 0x10, 0xFFF3, 4, 12⟩
/-- BR_TGT[15:0], RS (R82, 04). -/
def BR_TGT_TGT : Fld := ⟨0x21004, 0x10, 0x0, 0, 16⟩
/-- BR_STAT[13:0], RO (R82, 04). -/
def BR_STAT_OUT : Fld := ⟨0x21008, 0x10, 0x0, 0, 14⟩
/-- BR_STAT[14:14], RO (R82, 04). -/
def BR_STAT_DEMOTING : Fld := ⟨0x21008, 0x10, 0x0, 14, 1⟩
/-- BR_MISS[15:0], RO (R82, 04). -/
def BR_MISS_MISS : Fld := ⟨0x2100C, 0x10, 0x0, 0, 16⟩
/-- BR_MISS[31:31], WO (R82, 04). -/
def BR_MISS_CLR : Fld := ⟨0x2100C, 0x10, 0x0, 31, 1⟩
/-- SCH_CTL[7:0], RS (R108, 04). -/
def SCH_CTL_AGE : Fld := ⟨0x20000, 0x0, 0x19004, 0, 8⟩
/-- SCH_CTL[19:8], RS (R108, 04). -/
def SCH_CTL_URG_STEP : Fld := ⟨0x20000, 0x0, 0x19004, 8, 12⟩
/-- SCH_MISS_CTL[15:0], RS (R108, 04). -/
def SCH_MISS_CTL_RATE : Fld := ⟨0x20004, 0x0, 0x3E8, 0, 16⟩
/-- SCH_MISS_LOG[7:0], RO (R108, 04). -/
def SCH_MISS_LOG_TKT : Fld := ⟨0x20008, 0x0, 0x0, 0, 8⟩
/-- SCH_MISS_LOG[8:8], W1C (R108, 04). -/
def SCH_MISS_LOG_VALID : Fld := ⟨0x20008, 0x0, 0x0, 8, 1⟩
/-- SCH_MISS_LOG[31:16], RO (R108, 04). -/
def SCH_MISS_LOG_SUPP : Fld := ⟨0x20008, 0x0, 0x0, 16, 16⟩
/-- SCH_SRC_TKT[7:0], RS (R108, 04). -/
def SCH_SRC_TKT_RING : Fld := ⟨0x2000C, 0x0, 0x0, 0, 8⟩
/-- SCH_SRC_TKT[15:8], RS (R108, 04). -/
def SCH_SRC_TKT_LANT1 : Fld := ⟨0x2000C, 0x0, 0x0, 8, 8⟩
/-- SCH_SRC_TKT[23:16], RS (R108, 04). -/
def SCH_SRC_TKT_LANT2 : Fld := ⟨0x2000C, 0x0, 0x0, 16, 8⟩
/-- SCH_SRC_TKT[31:24], RS (R108, 04). -/
def SCH_SRC_TKT_LANT3 : Fld := ⟨0x2000C, 0x0, 0x0, 24, 8⟩
/-- PS_CTL[1:0], RS (R109, 04). -/
def PS_CTL_PAGE : Fld := ⟨0x200100, 0x10000, 0x280840A2, 0, 2⟩
/-- PS_CTL[9:2], RS (R109, 04). -/
def PS_CTL_PG_TMO : Fld := ⟨0x200100, 0x10000, 0x280840A2, 2, 8⟩
/-- PS_CTL[14:10], RS (R109, 04). -/
def PS_CTL_ROW_CAP : Fld := ⟨0x200100, 0x10000, 0x280840A2, 10, 5⟩
/-- PS_CTL[22:15], RS (R109, 04). -/
def PS_CTL_HIT_SLACK : Fld := ⟨0x200100, 0x10000, 0x280840A2, 15, 8⟩
/-- PS_CTL[31:23], RS (R109, 04). -/
def PS_CTL_GUARD : Fld := ⟨0x200100, 0x10000, 0x280840A2, 23, 9⟩
/-- PS_WM[7:0], RS (R109, 04). -/
def PS_WM_HWM : Fld := ⟨0x200104, 0x10000, 0x201030, 0, 8⟩
/-- PS_WM[15:8], RS (R109, 04). -/
def PS_WM_LWM : Fld := ⟨0x200104, 0x10000, 0x201030, 8, 8⟩
/-- PS_WM[23:16], RS (R109, 04). -/
def PS_WM_RSV : Fld := ⟨0x200104, 0x10000, 0x201030, 16, 8⟩
/-- PS_SLOT[2:0], RS (R109, 04). -/
def PS_SLOT_POSTPONE : Fld := ⟨0x200108, 0x10000, 0xA54, 0, 3⟩
/-- PS_SLOT[5:3], RS (R109, 04). -/
def PS_SLOT_PULLIN : Fld := ⟨0x200108, 0x10000, 0xA54, 3, 3⟩
/-- PS_SLOT[7:6], RS (R109, 04). -/
def PS_SLOT_REFMODE : Fld := ⟨0x200108, 0x10000, 0xA54, 6, 2⟩
/-- PS_SLOT[15:8], RS (R109, 04). -/
def PS_SLOT_PWAIT : Fld := ⟨0x200108, 0x10000, 0xA54, 8, 8⟩
/-- PS_STAT[3:0], RO (R109, 04). -/
def PS_STAT_HOT : Fld := ⟨0x20010C, 0x10000, 0x0, 0, 4⟩
/-- PS_STAT[7:4], RO (R109, 04). -/
def PS_STAT_DRAIN : Fld := ⟨0x20010C, 0x10000, 0x0, 4, 4⟩
/-- PS_CNT0[15:0], RO (R109, 04). -/
def PS_CNT0_POSTPONED : Fld := ⟨0x200110, 0x10000, 0x0, 0, 16⟩
/-- PS_CNT0[31:16], RO (R109, 04). -/
def PS_CNT0_FORCED : Fld := ⟨0x200110, 0x10000, 0x0, 16, 16⟩
/-- PS_CNT1[15:0], RO (R109, 04). -/
def PS_CNT1_PFORCED : Fld := ⟨0x200114, 0x10000, 0x0, 0, 16⟩
/-- PS_CNT1[31:16], RO (R109, 04). -/
def PS_CNT1_PROMOTED : Fld := ⟨0x200114, 0x10000, 0x0, 16, 16⟩
/-- PS_CNT_CLR[0:0], WO (R109, 04). -/
def PS_CNT_CLR_ALL : Fld := ⟨0x200118, 0x10000, 0x0, 0, 1⟩
/-- TB_COUNT_LO[31:0], RO (R139, 05). -/
def TB_COUNT_LO_CNT : Fld := ⟨0x10000, 0x0, 0x0, 0, 32⟩
/-- TB_COUNT_HI[31:0], RO (R139, 05). -/
def TB_COUNT_HI_CNT : Fld := ⟨0x10004, 0x0, 0x0, 0, 32⟩
/-- TB_PRESET_LO[31:0], RW (R139, 05). -/
def TB_PRESET_LO_VAL : Fld := ⟨0x10008, 0x0, 0x0, 0, 32⟩
/-- TB_PRESET_HI[31:0], RW (R139, 05). -/
def TB_PRESET_HI_VAL : Fld := ⟨0x1000C, 0x0, 0x0, 0, 32⟩
/-- TB_STEP[1:0], WO (R139, 05). -/
def TB_STEP_GO : Fld := ⟨0x10010, 0x0, 0x0, 0, 2⟩
/-- TB_FED[0:0], RS (R139, 05). -/
def TB_FED_CHECK : Fld := ⟨0x10014, 0x0, 0x428, 0, 1⟩
/-- TB_FED[1:1], RS (R139, 05). -/
def TB_FED_EOUT_EN : Fld := ⟨0x10014, 0x0, 0x428, 1, 1⟩
/-- TB_FED[9:2], RS (R139, 05). -/
def TB_FED_ARM_TMO : Fld := ⟨0x10014, 0x0, 0x428, 2, 8⟩
/-- TB_FED[17:10], RS (R139, 05). -/
def TB_FED_CHK_TOL : Fld := ⟨0x10014, 0x0, 0x428, 10, 8⟩
/-- TB_EADJ[15:0], RS (R139, 05). -/
def TB_EADJ_ADJ : Fld := ⟨0x10018, 0x0, 0x0, 0, 16⟩
/-- TB_ECAP[5:0], RO (R139, 05). -/
def TB_ECAP_PHASE : Fld := ⟨0x1001C, 0x0, 0x0, 0, 6⟩
/-- TB_ECAP[6:6], W1C (R139, 05). -/
def TB_ECAP_VALID : Fld := ⟨0x1001C, 0x0, 0x0, 6, 1⟩
/-- TB_ECAP[31:16], RO (R139, 05). -/
def TB_ECAP_DIFF : Fld := ⟨0x1001C, 0x0, 0x0, 16, 16⟩
/-- TB_ECNT[31:0], RO (R139, 05). -/
def TB_ECNT_CNT : Fld := ⟨0x10020, 0x0, 0x0, 0, 32⟩
/-- TB_STAT[0:0], RO (R139, 05). -/
def TB_STAT_SET : Fld := ⟨0x10024, 0x0, 0x0, 0, 1⟩
/-- TB_STAT[1:1], RO (R139, 05). -/
def TB_STAT_ARMED : Fld := ⟨0x10024, 0x0, 0x0, 1, 1⟩
/-- TB_STAT[2:2], RO (R139, 05). -/
def TB_STAT_HOLD : Fld := ⟨0x10024, 0x0, 0x0, 2, 1⟩
/-- TB_STAT[3:3], RO (R139, 05). -/
def TB_STAT_COAST : Fld := ⟨0x10024, 0x0, 0x0, 3, 1⟩
/-- TB_STAT[4:4], W1C (R139, 05). -/
def TB_STAT_SLIP : Fld := ⟨0x10024, 0x0, 0x0, 4, 1⟩
/-- TB_STAT[5:5], W1C (R139, 05). -/
def TB_STAT_ARM_TMO : Fld := ⟨0x10024, 0x0, 0x0, 5, 1⟩
/-- TB_STAT[6:6], W1C (R139, 05). -/
def TB_STAT_STEP_REF : Fld := ⟨0x10024, 0x0, 0x0, 6, 1⟩
/-- TB_ALARM_LO[31:0], RW (R139, 05). -/
def TB_ALARM_LO_VAL : Fld := ⟨0x10028, 0x0, 0x0, 0, 32⟩
/-- TB_ALARM_HI[31:0], RW (R139, 05). -/
def TB_ALARM_HI_VAL : Fld := ⟨0x1002C, 0x0, 0x0, 0, 32⟩
/-- TB_ALARM_CTL[0:0], RW (R139, 05). -/
def TB_ALARM_CTL_EN : Fld := ⟨0x10030, 0x0, 0x0, 0, 1⟩
/-- TB_ALARM_CTL[1:1], W1C (R139, 05). -/
def TB_ALARM_CTL_FIRED : Fld := ⟨0x10030, 0x0, 0x0, 1, 1⟩
/-- TB_ALARM_CTL[2:2], RW (R139, 05). -/
def TB_ALARM_CTL_WAKE : Fld := ⟨0x10030, 0x0, 0x0, 2, 1⟩
/-- TB_LCTL[9:0], RS (R139, 05). -/
def TB_LCTL_SETUP : Fld := ⟨0x10034, 0x0, 0x40, 0, 10⟩
/-- TB_LSTAT[7:0], RO (R139, 05). -/
def TB_LSTAT_PEND : Fld := ⟨0x10038, 0x0, 0x0, 0, 8⟩
/-- TB_LSTAT[15:8], RO (R139, 05). -/
def TB_LSTAT_SLIPS : Fld := ⟨0x10038, 0x0, 0x0, 8, 8⟩
/-- TB_LSTAT[23:16], RO (R139, 05). -/
def TB_LSTAT_REFUSED : Fld := ⟨0x10038, 0x0, 0x0, 16, 8⟩
/-- TB_LCANCEL[2:0], WO (R139, 05). -/
def TB_LCANCEL_ID : Fld := ⟨0x1003C, 0x0, 0x0, 0, 3⟩
/-- TB_LCANCEL[3:3], WO (R139, 05). -/
def TB_LCANCEL_GO : Fld := ⟨0x1003C, 0x0, 0x0, 3, 1⟩
/-- TB_EPULSE[0:0], WO (R139, 05). -/
def TB_EPULSE_GO : Fld := ⟨0x10040, 0x0, 0x0, 0, 1⟩
/-- TS_CTL[7:0], RS (R140, 05). -/
def TS_CTL_MARGIN : Fld := ⟨0x200200, 0x10000, 0x60C10, 0, 8⟩
/-- TS_CTL[15:8], RS (R140, 05). -/
def TS_CTL_TOL : Fld := ⟨0x200200, 0x10000, 0x60C10, 8, 8⟩
/-- TS_CTL[19:16], RS (R140, 05). -/
def TS_CTL_PERIOD : Fld := ⟨0x200200, 0x10000, 0x60C10, 16, 4⟩
/-- TS_ASYM[15:0], RS (R140, 05). -/
def TS_ASYM_A : Fld := ⟨0x200204, 0x10000, 0x0, 0, 16⟩
/-- TS_MEAS[15:0], RO (R140, 05). -/
def TS_MEAS_RTT : Fld := ⟨0x200208, 0x10000, 0x0, 0, 16⟩
/-- TS_MEAS[23:16], RO (R140, 05). -/
def TS_MEAS_DFWD : Fld := ⟨0x200208, 0x10000, 0x0, 16, 8⟩
/-- TS_LEAD[9:0], RO (R140, 05). -/
def TS_LEAD_LEAD : Fld := ⟨0x20020C, 0x10000, 0x0, 0, 10⟩
/-- TS_THETA[15:0], RO (R140, 05). -/
def TS_THETA_THETA : Fld := ⟨0x200210, 0x10000, 0x0, 0, 16⟩
/-- TS_THETA[16:16], RO (R140, 05). -/
def TS_THETA_ALIGNED : Fld := ⟨0x200210, 0x10000, 0x0, 16, 1⟩
/-- TS_CNT0[15:0], RO (R140, 05). -/
def TS_CNT0_LATE : Fld := ⟨0x200214, 0x10000, 0x0, 0, 16⟩
/-- TS_CNT0[31:16], RO (R140, 05). -/
def TS_CNT0_RESTAMP : Fld := ⟨0x200214, 0x10000, 0x0, 16, 16⟩
/-- TS_CNT1[15:0], RO (R140, 05). -/
def TS_CNT1_REALIGN : Fld := ⟨0x200218, 0x10000, 0x0, 0, 16⟩
/-- TS_CNT1[31:16], RO (R140, 05). -/
def TS_CNT1_LINKFAIL : Fld := ⟨0x200218, 0x10000, 0x0, 16, 16⟩
/-- TS_CNT_CLR[0:0], WO (R140, 05). -/
def TS_CNT_CLR_ALL : Fld := ⟨0x20021C, 0x10000, 0x0, 0, 1⟩
/-- PT_FTRIM[10:0], RS (R140, 05). -/
def PT_FTRIM_FINE : Fld := ⟨0x200220, 0x10000, 0x0, 0, 11⟩
/-- DP_T0[7:0], RS (R149, 06). -/
def DP_T0_CL : Fld := ⟨0x200300, 0x10000, 0x0, 0, 8⟩
/-- DP_T0[15:8], RS (R149, 06). -/
def DP_T0_TRCD : Fld := ⟨0x200300, 0x10000, 0x0, 8, 8⟩
/-- DP_T0[23:16], RS (R149, 06). -/
def DP_T0_TRP : Fld := ⟨0x200300, 0x10000, 0x0, 16, 8⟩
/-- DP_T0[31:24], RS (R149, 06). -/
def DP_T0_TRTP : Fld := ⟨0x200300, 0x10000, 0x0, 24, 8⟩
/-- DP_T1[7:0], RS (R149, 06). -/
def DP_T1_TRAS : Fld := ⟨0x200304, 0x10000, 0x0, 0, 8⟩
/-- DP_T1[15:8], RS (R149, 06). -/
def DP_T1_TRC : Fld := ⟨0x200304, 0x10000, 0x0, 8, 8⟩
/-- DP_T1[23:16], RS (R149, 06). -/
def DP_T1_TWR : Fld := ⟨0x200304, 0x10000, 0x0, 16, 8⟩
/-- DP_T1[31:24], RS (R149, 06). -/
def DP_T1_TFAW : Fld := ⟨0x200304, 0x10000, 0x0, 24, 8⟩
/-- DP_T2[7:0], RS (R149, 06). -/
def DP_T2_TRRD_S : Fld := ⟨0x200308, 0x10000, 0x0, 0, 8⟩
/-- DP_T2[15:8], RS (R149, 06). -/
def DP_T2_TRRD_L : Fld := ⟨0x200308, 0x10000, 0x0, 8, 8⟩
/-- DP_T2[23:16], RS (R149, 06). -/
def DP_T2_TCCD_S : Fld := ⟨0x200308, 0x10000, 0x0, 16, 8⟩
/-- DP_T2[31:24], RS (R149, 06). -/
def DP_T2_TCCD_L : Fld := ⟨0x200308, 0x10000, 0x0, 24, 8⟩
/-- DP_T3[7:0], RS (R149, 06). -/
def DP_T3_TCCD_L_WR : Fld := ⟨0x20030C, 0x10000, 0x0, 0, 8⟩
/-- DP_T3[15:8], RS (R149, 06). -/
def DP_T3_TCCD_L_WR2 : Fld := ⟨0x20030C, 0x10000, 0x0, 8, 8⟩
/-- DP_T3[23:16], RS (R149, 06). -/
def DP_T3_TWTR_S : Fld := ⟨0x20030C, 0x10000, 0x0, 16, 8⟩
/-- DP_T3[31:24], RS (R149, 06). -/
def DP_T3_TWTR_L : Fld := ⟨0x20030C, 0x10000, 0x0, 24, 8⟩
/-- DP_T4[7:0], RS (R149, 06). -/
def DP_T4_TRRD_DLR : Fld := ⟨0x200310, 0x10000, 0x0, 0, 8⟩
/-- DP_T4[15:8], RS (R149, 06). -/
def DP_T4_TFAW_DLR : Fld := ⟨0x200310, 0x10000, 0x0, 8, 8⟩
/-- DP_T4[23:16], RS (R149, 06). -/
def DP_T4_TCCD_DLR : Fld := ⟨0x200310, 0x10000, 0x0, 16, 8⟩
/-- DP_T4[31:24], RS (R149, 06). -/
def DP_T4_TMRD : Fld := ⟨0x200310, 0x10000, 0x0, 24, 8⟩
/-- DP_T5[11:0], RS (R149, 06). -/
def DP_T5_TRFC1 : Fld := ⟨0x200314, 0x10000, 0x0, 0, 12⟩
/-- DP_T5[23:12], RS (R149, 06). -/
def DP_T5_TRFC2 : Fld := ⟨0x200314, 0x10000, 0x0, 12, 12⟩
/-- DP_T5[31:24], RS (R149, 06). -/
def DP_T5_TREFSBRD : Fld := ⟨0x200314, 0x10000, 0x0, 24, 8⟩
/-- DP_T6[11:0], RS (R149, 06). -/
def DP_T6_TRFCSB : Fld := ⟨0x200318, 0x10000, 0x0, 0, 12⟩
/-- DP_T6[23:12], RS (R149, 06). -/
def DP_T6_TRFC_DLR : Fld := ⟨0x200318, 0x10000, 0x0, 12, 12⟩
/-- DP_T7[15:0], RS (R149, 06). -/
def DP_T7_TREFI : Fld := ⟨0x20031C, 0x10000, 0x0, 0, 16⟩
/-- DP_T7[28:16], RS (R149, 06). -/
def DP_T7_TXS : Fld := ⟨0x20031C, 0x10000, 0x0, 16, 13⟩
/-- DP_T8[7:0], RS (R149, 06). -/
def DP_T8_TCKSRE : Fld := ⟨0x200320, 0x10000, 0x120000, 0, 8⟩
/-- DP_T8[15:8], RS (R149, 06). -/
def DP_T8_TCKSRX : Fld := ⟨0x200320, 0x10000, 0x120000, 8, 8⟩
/-- DP_T8[19:16], RS (R149, 06). -/
def DP_T8_RTW_PAD : Fld := ⟨0x200320, 0x10000, 0x120000, 16, 4⟩
/-- DP_T8[23:20], RS (R149, 06). -/
def DP_T8_RNK_PAD : Fld := ⟨0x200320, 0x10000, 0x120000, 20, 4⟩
/-- DP_CTL[0:0], RS (R162, 06). -/
def DP_CTL_CMD2N : Fld := ⟨0x200000, 0x10000, 0x11, 0, 1⟩
/-- DP_CTL[1:1], RS (R162, 06). -/
def DP_CTL_WCRC : Fld := ⟨0x200000, 0x10000, 0x11, 1, 1⟩
/-- DP_CTL[4:2], RS (R162, 06). -/
def DP_CTL_MAXSPD : Fld := ⟨0x200000, 0x10000, 0x11, 2, 3⟩
/-- DP_STAT[2:0], RO (R162, 06). -/
def DP_STAT_STATE : Fld := ⟨0x200004, 0x10000, 0x0, 0, 3⟩
/-- DP_STAT[6:3], RO (R162, 06). -/
def DP_STAT_POP_ERR : Fld := ⟨0x200004, 0x10000, 0x0, 3, 4⟩
/-- DP_STAT[7:7], RO (R162, 06). -/
def DP_STAT_POP_SLOT : Fld := ⟨0x200004, 0x10000, 0x0, 7, 1⟩
/-- DP_STAT[9:8], RO (R162, 06). -/
def DP_STAT_HCAUSE : Fld := ⟨0x200004, 0x10000, 0x0, 8, 2⟩
/-- DP_STAT[11:10], RO (R162, 06). -/
def DP_STAT_PRESENT : Fld := ⟨0x200004, 0x10000, 0x0, 10, 2⟩
/-- DP_STAT[14:12], RO (R162, 06). -/
def DP_STAT_SPEED : Fld := ⟨0x200004, 0x10000, 0x0, 12, 3⟩
/-- DP_POP[1:0], RO (R162, 06). -/
def DP_POP_WIDTH : Fld := ⟨0x200008, 0x10000, 0x0, 0, 2⟩
/-- DP_POP[4:2], RO (R162, 06). -/
def DP_POP_DENS : Fld := ⟨0x200008, 0x10000, 0x0, 2, 3⟩
/-- DP_POP[5:5], RO (R162, 06). -/
def DP_POP_PRANKS : Fld := ⟨0x200008, 0x10000, 0x0, 5, 1⟩
/-- DP_POP[7:6], RO (R162, 06). -/
def DP_POP_STACK : Fld := ⟨0x200008, 0x10000, 0x0, 6, 2⟩
/-- DP_POP[8:8], RO (R162, 06). -/
def DP_POP_DPC2 : Fld := ⟨0x200008, 0x10000, 0x0, 8, 1⟩
/-- DP_POP[19:9], RO (R162, 06). -/
def DP_POP_CAP_G : Fld := ⟨0x200008, 0x10000, 0x0, 9, 11⟩
/-- DP_MAP[3:0], RS (R162, 06). -/
def DP_MAP_SC_BIT : Fld := ⟨0x20000C, 0x10000, 0x18, 0, 4⟩
/-- DP_MAP[4:4], RS (R162, 06). -/
def DP_MAP_BG_HASH : Fld := ⟨0x20000C, 0x10000, 0x18, 4, 1⟩
/-- DP_ALERT[7:0], RS (R162, 06). -/
def DP_ALERT_KG : Fld := ⟨0x200330, 0x10000, 0x30A2040, 0, 8⟩
/-- DP_ALERT[15:8], RS (R162, 06). -/
def DP_ALERT_SPLIT : Fld := ⟨0x200330, 0x10000, 0x30A2040, 8, 8⟩
/-- DP_ALERT[23:16], RS (R162, 06). -/
def DP_ALERT_RECOV : Fld := ⟨0x200330, 0x10000, 0x30A2040, 16, 8⟩
/-- DP_ALERT[26:24], RS (R162, 06). -/
def DP_ALERT_RETRY : Fld := ⟨0x200330, 0x10000, 0x30A2040, 24, 3⟩
/-- DP_CNT0[15:0], RO (R162, 06). -/
def DP_CNT0_PAR : Fld := ⟨0x200334, 0x10000, 0x0, 0, 16⟩
/-- DP_CNT0[31:16], RO (R162, 06). -/
def DP_CNT0_CRC : Fld := ⟨0x200334, 0x10000, 0x0, 16, 16⟩
/-- DP_CNT1[15:0], RO (R162, 06). -/
def DP_CNT1_REPLAYED : Fld := ⟨0x200338, 0x10000, 0x0, 0, 16⟩
/-- DP_CNT1[31:16], RO (R162, 06). -/
def DP_CNT1_SRE : Fld := ⟨0x200338, 0x10000, 0x0, 16, 16⟩
/-- DP_CNT2[15:0], RO (R162, 06). -/
def DP_CNT2_RFM : Fld := ⟨0x20033C, 0x10000, 0x0, 0, 16⟩
/-- DP_CNT2[31:16], RO (R162, 06). -/
def DP_CNT2_SPURIOUS : Fld := ⟨0x20033C, 0x10000, 0x0, 16, 16⟩
/-- DP_CNT_CLR[0:0], WO (R162, 06). -/
def DP_CNT_CLR_ALL : Fld := ⟨0x200340, 0x10000, 0x0, 0, 1⟩
/-- DP_RFM[7:0], RO (R162, 06). -/
def DP_RFM_RAAIMT : Fld := ⟨0x200344, 0x10000, 0x0, 0, 8⟩
/-- DP_RFM[16:8], RO (R162, 06). -/
def DP_RFM_RAAMMT : Fld := ⟨0x200344, 0x10000, 0x0, 8, 9⟩
/-- DP_RFM[18:17], RO (R162, 06). -/
def DP_RFM_RAADEC : Fld := ⟨0x200344, 0x10000, 0x0, 17, 2⟩
/-- DP_RFM[19:19], RO (R162, 06). -/
def DP_RFM_REQ : Fld := ⟨0x200344, 0x10000, 0x0, 19, 1⟩
/-- DP_ZQ[7:0], RS (R162, 06). -/
def DP_ZQ_PER : Fld := ⟨0x200348, 0x10000, 0x80, 0, 8⟩
/-- DP_SR[15:0], RS (R162, 06). -/
def DP_SR_IDLE : Fld := ⟨0x200350, 0x10000, 0x1000A, 0, 16⟩
/-- DP_SR[16:16], RS (R162, 06). -/
def DP_SR_STOPCK : Fld := ⟨0x200350, 0x10000, 0x1000A, 16, 1⟩
/-- DP_PASR[1:0], RS (R162, 06). -/
def DP_PASR_KEEP : Fld := ⟨0x200354, 0x10000, 0x3, 0, 2⟩
/-- DP_PASR[3:2], RO (R162, 06). -/
def DP_PASR_SHED : Fld := ⟨0x200354, 0x10000, 0x3, 2, 2⟩
/-- DP_PASR[5:4], W1C (R162, 06). -/
def DP_PASR_LOST : Fld := ⟨0x200354, 0x10000, 0x3, 4, 2⟩
/-- DP_SB[3:0], RS (R162, 06). -/
def DP_SB_RATE : Fld := ⟨0x200400, 0x10000, 0x7D12, 0, 4⟩
/-- DP_SB[4:4], RS (R162, 06). -/
def DP_SB_PEC : Fld := ⟨0x200400, 0x10000, 0x7D12, 4, 1⟩
/-- DP_SB[15:8], RS (R162, 06). -/
def DP_SB_TPOLL : Fld := ⟨0x200400, 0x10000, 0x7D12, 8, 8⟩
/-- DP_TEMP[7:0], RO (R162, 06). -/
def DP_TEMP_T0 : Fld := ⟨0x200404, 0x10000, 0x0, 0, 8⟩
/-- DP_TEMP[15:8], RO (R162, 06). -/
def DP_TEMP_T1 : Fld := ⟨0x200404, 0x10000, 0x0, 8, 8⟩
/-- DP_TEMP[16:16], RO (R162, 06). -/
def DP_TEMP_V0 : Fld := ⟨0x200404, 0x10000, 0x0, 16, 1⟩
/-- DP_TEMP[17:17], RO (R162, 06). -/
def DP_TEMP_V1 : Fld := ⟨0x200404, 0x10000, 0x0, 17, 1⟩
/-- DP_PPR_CNT[7:0], RO (R162, 06). -/
def DP_PPR_CNT_SOFT : Fld := ⟨0x200500, 0x10000, 0x0, 0, 8⟩
/-- DP_PPR_CNT[15:8], RO (R162, 06). -/
def DP_PPR_CNT_HARD : Fld := ⟨0x200500, 0x10000, 0x0, 8, 8⟩
/-- DP_PPR_CNT[23:16], RO (R162, 06). -/
def DP_PPR_CNT_PEND : Fld := ⟨0x200500, 0x10000, 0x0, 16, 8⟩
/-- SP_CTL[0:0], RS (R200, 07). -/
def SP_CTL_MODE : Fld := ⟨0x200000, 0x10000, 0x6030, 0, 1⟩
/-- SP_CTL[2:1], RS (R200, 07). -/
def SP_CTL_RATE : Fld := ⟨0x200000, 0x10000, 0x6030, 1, 2⟩
/-- SP_CTL[6:4], RS (R200, 07). -/
def SP_CTL_MAXSPD : Fld := ⟨0x200000, 0x10000, 0x6030, 4, 3⟩
/-- SP_CTL[15:8], RS (R200, 07). -/
def SP_CTL_FAGAP : Fld := ⟨0x200000, 0x10000, 0x6030, 8, 8⟩
/-- SP_STAT[3:0], RO (R200, 07). -/
def SP_STAT_STATE : Fld := ⟨0x200004, 0x10000, 0x0, 0, 4⟩
/-- SP_STAT[7:4], RO (R200, 07). -/
def SP_STAT_POP_ERR : Fld := ⟨0x200004, 0x10000, 0x0, 4, 4⟩
/-- SP_STAT[8:8], RO (R200, 07). -/
def SP_STAT_POP_CH : Fld := ⟨0x200004, 0x10000, 0x0, 8, 1⟩
/-- SP_STAT[9:9], RO (R200, 07). -/
def SP_STAT_POP_SLOT : Fld := ⟨0x200004, 0x10000, 0x0, 9, 1⟩
/-- SP_STAT[11:10], RO (R200, 07). -/
def SP_STAT_HCAUSE : Fld := ⟨0x200004, 0x10000, 0x0, 10, 2⟩
/-- SP_STAT[15:12], RO (R200, 07). -/
def SP_STAT_PRESENT : Fld := ⟨0x200004, 0x10000, 0x0, 12, 4⟩
/-- SP_STAT[18:16], RO (R200, 07). -/
def SP_STAT_SPEED : Fld := ⟨0x200004, 0x10000, 0x0, 16, 3⟩
/-- SP_STAT[19:19], RO (R200, 07). -/
def SP_STAT_BUF : Fld := ⟨0x200004, 0x10000, 0x0, 19, 1⟩
/-- SP_POP[8:0], RO (R200, 07). -/
def SP_POP_LAY : Fld := ⟨0x200008, 0x10000, 0x0, 0, 9⟩
/-- SP_POP[9:9], RO (R200, 07). -/
def SP_POP_CH1 : Fld := ⟨0x200008, 0x10000, 0x0, 9, 1⟩
/-- SP_POP[21:10], RO (R200, 07). -/
def SP_POP_CAP_G : Fld := ⟨0x200008, 0x10000, 0x0, 10, 12⟩
/-- SP_MAP[3:0], RS (R200, 07). -/
def SP_MAP_SC_BIT : Fld := ⟨0x20000C, 0x10000, 0x198, 0, 4⟩
/-- SP_MAP[7:4], RS (R200, 07). -/
def SP_MAP_CH_BIT : Fld := ⟨0x20000C, 0x10000, 0x198, 4, 4⟩
/-- SP_MAP[8:8], RS (R200, 07). -/
def SP_MAP_BG_HASH : Fld := ⟨0x20000C, 0x10000, 0x198, 8, 1⟩
/-- SP_PASR[3:0], RS (R200, 07). -/
def SP_PASR_KEEP : Fld := ⟨0x200354, 0x10000, 0xF, 0, 4⟩
/-- SP_PASR[7:4], RO (R200, 07). -/
def SP_PASR_SHED : Fld := ⟨0x200354, 0x10000, 0xF, 4, 4⟩
/-- SP_PASR[11:8], W1C (R200, 07). -/
def SP_PASR_LOST : Fld := ⟨0x200354, 0x10000, 0xF, 8, 4⟩
/-- SP_TEMP[31:0], RO (R200, 07). -/
def SP_TEMP_T : Fld := ⟨0x200404, 0x10000, 0x0, 0, 32⟩
/-- SP_TEMPV[3:0], RO (R200, 07). -/
def SP_TEMPV_V : Fld := ⟨0x200408, 0x10000, 0x0, 0, 4⟩
/-- SL_CTL[10:0], RS (R200, 07). -/
def SL_CTL_RDWIN : Fld := ⟨0x200600, 0x10000, 0x280A0400, 0, 11⟩
/-- SL_CTL[23:16], RS (R200, 07). -/
def SL_CTL_TMO : Fld := ⟨0x200600, 0x10000, 0x280A0400, 16, 8⟩
/-- SL_CTL[27:24], RS (R200, 07). -/
def SL_CTL_RETRY : Fld := ⟨0x200600, 0x10000, 0x280A0400, 24, 4⟩
/-- SL_CTL[31:28], RS (R200, 07). -/
def SL_CTL_TKO : Fld := ⟨0x200600, 0x10000, 0x280A0400, 28, 4⟩
/-- SL_STAT[1:0], RO (R200, 07). -/
def SL_STAT_WIDTH : Fld := ⟨0x200604, 0x10000, 0xC0000000, 0, 2⟩
/-- SL_STAT[10:2], RO (R200, 07). -/
def SL_STAT_RXLOCK : Fld := ⟨0x200604, 0x10000, 0xC0000000, 2, 9⟩
/-- SL_STAT[19:11], RO (R200, 07). -/
def SL_STAT_RXBAD : Fld := ⟨0x200604, 0x10000, 0xC0000000, 11, 9⟩
/-- SL_STAT[28:20], RO (R200, 07). -/
def SL_STAT_TXBAD : Fld := ⟨0x200604, 0x10000, 0xC0000000, 20, 9⟩
/-- SL_STAT[29:29], RO (R200, 07). -/
def SL_STAT_SPARE : Fld := ⟨0x200604, 0x10000, 0xC0000000, 29, 1⟩
/-- SL_STAT[31:30], RO (R200, 07). -/
def SL_STAT_LSTATE : Fld := ⟨0x200604, 0x10000, 0xC0000000, 30, 2⟩
/-- SL_LANE_RX[31:0], RO (R200, 07). -/
def SL_LANE_RX_MAP : Fld := ⟨0x200608, 0x10000, 0xFFFFFFFF, 0, 32⟩
/-- SL_LANE_TX[31:0], RO (R200, 07). -/
def SL_LANE_TX_MAP : Fld := ⟨0x20060C, 0x10000, 0xFFFFFFFF, 0, 32⟩
/-- SL_TXEQ[3:0], RS (R200, 07). -/
def SL_TXEQ_PRE : Fld := ⟨0x200610, 0x10000, 0x72C4, 0, 4⟩
/-- SL_TXEQ[8:4], RS (R200, 07). -/
def SL_TXEQ_POST : Fld := ⟨0x200610, 0x10000, 0x72C4, 4, 5⟩
/-- SL_TXEQ[14:9], RO (R200, 07). -/
def SL_TXEQ_MAIN : Fld := ⟨0x200610, 0x10000, 0x72C4, 9, 6⟩
/-- SL_RECAL[0:0], RS (R200, 07). -/
def SL_RECAL_EN : Fld := ⟨0x200614, 0x10000, 0x146401, 0, 1⟩
/-- SL_RECAL[15:8], RS (R200, 07). -/
def SL_RECAL_CYCLE : Fld := ⟨0x200614, 0x10000, 0x146401, 8, 8⟩
/-- SL_RECAL[23:16], RS (R200, 07). -/
def SL_RECAL_HOLD : Fld := ⟨0x200614, 0x10000, 0x146401, 16, 8⟩
/-- SL_FAULT[7:0], RS (R200, 07). -/
def SL_FAULT_UNC : Fld := ⟨0x200618, 0x10000, 0x400004, 0, 8⟩
/-- SL_FAULT[23:8], RS (R200, 07). -/
def SL_FAULT_SYM : Fld := ⟨0x200618, 0x10000, 0x400004, 8, 16⟩
/-- SL_LOOP[1:0], RS (R200, 07). -/
def SL_LOOP_MODE : Fld := ⟨0x20061C, 0x10000, 0x0, 0, 2⟩
/-- SL_LOOP[10:2], RS (R200, 07). -/
def SL_LOOP_LANES : Fld := ⟨0x20061C, 0x10000, 0x0, 2, 9⟩
/-- SL_LOOP[12:11], RS (R200, 07). -/
def SL_LOOP_PAT : Fld := ⟨0x20061C, 0x10000, 0x0, 11, 2⟩
/-- SL_CNT0[15:0], RO (R200, 07). -/
def SL_CNT0_CRCERR : Fld := ⟨0x200620, 0x10000, 0x0, 0, 16⟩
/-- SL_CNT0[31:16], RO (R200, 07). -/
def SL_CNT0_RETRY : Fld := ⟨0x200620, 0x10000, 0x0, 16, 16⟩
/-- SL_CNT1[15:0], RO (R200, 07). -/
def SL_CNT1_UNCW : Fld := ⟨0x200624, 0x10000, 0x0, 0, 16⟩
/-- SL_CNT1[23:16], RO (R200, 07). -/
def SL_CNT1_TAKEOVER : Fld := ⟨0x200624, 0x10000, 0x0, 16, 8⟩
/-- SL_CNT1[31:24], RO (R200, 07). -/
def SL_CNT1_LINKLOSS : Fld := ⟨0x200624, 0x10000, 0x0, 24, 8⟩
/-- SL_CNT2[15:0], RO (R200, 07). -/
def SL_CNT2_LOOPERR : Fld := ⟨0x200628, 0x10000, 0x0, 0, 16⟩
/-- SL_CNT2[31:16], RO (R200, 07). -/
def SL_CNT2_PROTO : Fld := ⟨0x200628, 0x10000, 0x0, 16, 16⟩
/-- SL_CNT_CLR[0:0], WO (R200, 07). -/
def SL_CNT_CLR_ALL : Fld := ⟨0x20062C, 0x10000, 0x0, 0, 1⟩
/-- SL_BOARD[15:0], RS (R200, 07). -/
def SL_BOARD_SKEW : Fld := ⟨0x200630, 0x10000, 0x0, 0, 16⟩
/-- TR_CTL[0:0], RS (R221, 08). -/
def TR_CTL_EN : Fld := ⟨0x200700, 0x10000, 0x6D91, 0, 1⟩
/-- TR_CTL[1:1], RS (R221, 08). -/
def TR_CTL_PSHORT : Fld := ⟨0x200700, 0x10000, 0x6D91, 1, 1⟩
/-- TR_CTL[9:2], RS (R221, 08). -/
def TR_CTL_PERIOD : Fld := ⟨0x200700, 0x10000, 0x6D91, 2, 8⟩
/-- TR_CTL[12:10], RS (R221, 08). -/
def TR_CTL_TRIES : Fld := ⟨0x200700, 0x10000, 0x6D91, 10, 3⟩
/-- TR_CTL[16:13], RS (R221, 08). -/
def TR_CTL_REJMAX : Fld := ⟨0x200700, 0x10000, 0x6D91, 13, 4⟩
/-- TR_TOL[3:0], RS (R221, 08). -/
def TR_TOL_AGREE : Fld := ⟨0x200704, 0x10000, 0x10320592, 0, 4⟩
/-- TR_TOL[9:4], RS (R221, 08). -/
def TR_TOL_PLAUS : Fld := ⟨0x200704, 0x10000, 0x10320592, 4, 6⟩
/-- TR_TOL[13:10], RS (R221, 08). -/
def TR_TOL_VAGREE : Fld := ⟨0x200704, 0x10000, 0x10320592, 10, 4⟩
/-- TR_TOL[19:14], RS (R221, 08). -/
def TR_TOL_VPLAUS : Fld := ⟨0x200704, 0x10000, 0x10320592, 14, 6⟩
/-- TR_TOL[23:20], RS (R221, 08). -/
def TR_TOL_EQAGREE : Fld := ⟨0x200704, 0x10000, 0x10320592, 20, 4⟩
/-- TR_TOL[29:24], RS (R221, 08). -/
def TR_TOL_EQPLAUS : Fld := ⟨0x200704, 0x10000, 0x10320592, 24, 6⟩
/-- TR_STAT[0:0], RO (R221, 08). -/
def TR_STAT_ROUND : Fld := ⟨0x200708, 0x10000, 0x0, 0, 1⟩
/-- TR_STAT[1:1], RO (R221, 08). -/
def TR_STAT_FUSE_BAD : Fld := ⟨0x200708, 0x10000, 0x0, 1, 1⟩
/-- TR_STAT[5:2], RO (R221, 08). -/
def TR_STAT_FSTEP : Fld := ⟨0x200708, 0x10000, 0x0, 2, 4⟩
/-- TR_STAT[9:6], RO (R221, 08). -/
def TR_STAT_LSTEP : Fld := ⟨0x200708, 0x10000, 0x0, 6, 4⟩
/-- TR_STAT[10:10], W1C (R221, 08). -/
def TR_STAT_ALARM : Fld := ⟨0x200708, 0x10000, 0x0, 10, 1⟩
/-- TR_STAT[11:11], RO (R221, 08). -/
def TR_STAT_PEND : Fld := ⟨0x200708, 0x10000, 0x0, 11, 1⟩
/-- TR_CNT0[15:0], RO (R221, 08). -/
def TR_CNT0_ACCEPT : Fld := ⟨0x20070C, 0x10000, 0x0, 0, 16⟩
/-- TR_CNT0[31:16], RO (R221, 08). -/
def TR_CNT0_REJECT : Fld := ⟨0x20070C, 0x10000, 0x0, 16, 16⟩
/-- TR_CNT1[15:0], RO (R221, 08). -/
def TR_CNT1_ABORT : Fld := ⟨0x200710, 0x10000, 0x0, 0, 16⟩
/-- TR_CNT1[31:16], RO (R221, 08). -/
def TR_CNT1_CLAMP : Fld := ⟨0x200710, 0x10000, 0x0, 16, 16⟩
/-- TR_CNT_CLR[0:0], WO (R221, 08). -/
def TR_CNT_CLR_ALL : Fld := ⟨0x200714, 0x10000, 0x0, 0, 1⟩
/-- TR_QSEL[1:0], RW (R221, 08). -/
def TR_QSEL_KIND : Fld := ⟨0x200718, 0x10000, 0x0, 0, 2⟩
/-- TR_QSEL[4:2], RW (R221, 08). -/
def TR_QSEL_BYTE : Fld := ⟨0x200718, 0x10000, 0x0, 2, 3⟩
/-- TR_QSEL[6:5], RW (R221, 08). -/
def TR_QSEL_SUB : Fld := ⟨0x200718, 0x10000, 0x0, 5, 2⟩
/-- TR_QSEL[8:7], RW (R221, 08). -/
def TR_QSEL_RANK : Fld := ⟨0x200718, 0x10000, 0x0, 7, 2⟩
/-- TR_QSEL[12:9], RW (R221, 08). -/
def TR_QSEL_LANE : Fld := ⟨0x200718, 0x10000, 0x0, 9, 4⟩
/-- TR_QDAT0[11:0], RO (R221, 08). -/
def TR_QDAT0_WIDTH : Fld := ⟨0x20071C, 0x10000, 0x0, 0, 12⟩
/-- TR_QDAT0[21:12], RO (R221, 08). -/
def TR_QDAT0_HEIGHT : Fld := ⟨0x20071C, 0x10000, 0x0, 12, 10⟩
/-- TR_QDAT0[22:22], RO (R221, 08). -/
def TR_QDAT0_VALID : Fld := ⟨0x20071C, 0x10000, 0x0, 22, 1⟩
/-- TR_QDAT0[23:23], RO (R221, 08). -/
def TR_QDAT0_REJ : Fld := ⟨0x20071C, 0x10000, 0x0, 23, 1⟩
/-- TR_QDAT0[31:24], RO (R221, 08). -/
def TR_QDAT0_AGE : Fld := ⟨0x20071C, 0x10000, 0x0, 24, 8⟩
/-- TR_QDAT1[11:0], RO (R221, 08). -/
def TR_QDAT1_RESID : Fld := ⟨0x200720, 0x10000, 0x0, 0, 12⟩
/-- TR_TRIM_SEL[7:0], RW (R221, 08). -/
def TR_TRIM_SEL_IDX : Fld := ⟨0x200724, 0x10000, 0x0, 0, 8⟩
/-- TR_TRIM_DAT[7:0], RO (R221, 08). -/
def TR_TRIM_DAT_FUSED : Fld := ⟨0x200728, 0x10000, 0x800000, 0, 8⟩
/-- TR_TRIM_DAT[15:8], RO (R221, 08). -/
def TR_TRIM_DAT_ACTIVE : Fld := ⟨0x200728, 0x10000, 0x800000, 8, 8⟩
/-- TR_TRIM_DAT[23:16], RS (R221, 08). -/
def TR_TRIM_DAT_CODE : Fld := ⟨0x200728, 0x10000, 0x800000, 16, 8⟩
/-- TR_TRIM_DAT[24:24], RS (R221, 08). -/
def TR_TRIM_DAT_OVR : Fld := ⟨0x200728, 0x10000, 0x800000, 24, 1⟩
/-- TR_SLDRIFT[3:0], RS (R221, 08). -/
def TR_SLDRIFT_DRIFT : Fld := ⟨0x20072C, 0x10000, 0x4, 0, 4⟩
/-- EC_CTL[1:0], RS (R252, 09). -/
def EC_CTL_AUTO_MARK : Fld := ⟨0x200800, 0x10000, 0x1905041, 0, 2⟩
/-- EC_CTL[9:2], RS (R252, 09). -/
def EC_CTL_MARK_TH : Fld := ⟨0x200800, 0x10000, 0x1905041, 2, 8⟩
/-- EC_CTL[17:10], RS (R252, 09). -/
def EC_CTL_GATHER : Fld := ⟨0x200800, 0x10000, 0x1905041, 10, 8⟩
/-- EC_CTL[31:18], RS (R252, 09). -/
def EC_CTL_CE_TH : Fld := ⟨0x200800, 0x10000, 0x1905041, 18, 14⟩
/-- EC_MARK0[31:0], RS (R252, 09). -/
def EC_MARK0_DEV : Fld := ⟨0x200804, 0x10000, 0xFFFFFFFF, 0, 32⟩
/-- EC_MARK1[31:0], RS (R252, 09). -/
def EC_MARK1_DEV : Fld := ⟨0x200808, 0x10000, 0xFFFFFFFF, 0, 32⟩
/-- EC_CNT0[15:0], RO (R252, 09). -/
def EC_CNT0_CE : Fld := ⟨0x20080C, 0x10000, 0x0, 0, 16⟩
/-- EC_CNT0[31:16], RO (R252, 09). -/
def EC_CNT0_UE : Fld := ⟨0x20080C, 0x10000, 0x0, 16, 16⟩
/-- EC_CNT1[15:0], RO (R252, 09). -/
def EC_CNT1_POISON_RD : Fld := ⟨0x200810, 0x10000, 0x0, 0, 16⟩
/-- EC_CNT1[31:16], RO (R252, 09). -/
def EC_CNT1_POISON_WR : Fld := ⟨0x200810, 0x10000, 0x0, 16, 16⟩
/-- EC_CNT2[15:0], RO (R252, 09). -/
def EC_CNT2_SCRUB_WB : Fld := ⟨0x200814, 0x10000, 0x0, 0, 16⟩
/-- EC_CNT2[23:16], RO (R252, 09). -/
def EC_CNT2_MARKS : Fld := ⟨0x200814, 0x10000, 0x0, 16, 8⟩
/-- EC_DEVSEL[3:0], RW (R252, 09). -/
def EC_DEVSEL_K : Fld := ⟨0x200818, 0x10000, 0x0, 0, 4⟩
/-- EC_DEVSEL[7:4], RW (R252, 09). -/
def EC_DEVSEL_DEV : Fld := ⟨0x200818, 0x10000, 0x0, 4, 4⟩
/-- EC_DEVCNT[15:0], RO (R252, 09). -/
def EC_DEVCNT_COUNT : Fld := ⟨0x20081C, 0x10000, 0x0, 0, 16⟩
/-- EC_CNT_CLR[0:0], WO (R252, 09). -/
def EC_CNT_CLR_ALL : Fld := ⟨0x200820, 0x10000, 0x0, 0, 1⟩
/-- RM_CTL[1:0], RS (R252, 09). -/
def RM_CTL_LOC : Fld := ⟨0x200840, 0x10000, 0x980, 0, 2⟩
/-- RM_CTL[6:2], RS (R252, 09). -/
def RM_CTL_BANK : Fld := ⟨0x200840, 0x10000, 0x980, 2, 5⟩
/-- RM_CTL[7:7], RS (R252, 09). -/
def RM_CTL_AUTO_UE : Fld := ⟨0x200840, 0x10000, 0x980, 7, 1⟩
/-- RM_CTL[8:8], RS (R252, 09). -/
def RM_CTL_AUTO_CE : Fld := ⟨0x200840, 0x10000, 0x980, 8, 1⟩
/-- RM_CTL[12:9], RS (R252, 09). -/
def RM_CTL_ROW_CE : Fld := ⟨0x200840, 0x10000, 0x980, 9, 4⟩
/-- RM_STAT[6:0], RO (R252, 09). -/
def RM_STAT_USED : Fld := ⟨0x200844, 0x10000, 0x0, 0, 7⟩
/-- RM_STAT[7:7], RO (R252, 09). -/
def RM_STAT_COPY : Fld := ⟨0x200844, 0x10000, 0x0, 7, 1⟩
/-- RM_STAT[8:8], W1C (R252, 09). -/
def RM_STAT_FULL : Fld := ⟨0x200844, 0x10000, 0x0, 8, 1⟩
/-- RM_STAT[9:9], W1C (R252, 09). -/
def RM_STAT_ADD_REF : Fld := ⟨0x200844, 0x10000, 0x0, 9, 1⟩
/-- RM_ADD[1:0], WO (R252, 09). -/
def RM_ADD_SUB : Fld := ⟨0x200848, 0x10000, 0x0, 0, 2⟩
/-- RM_ADD[2:2], WO (R252, 09). -/
def RM_ADD_DIMM : Fld := ⟨0x200848, 0x10000, 0x0, 2, 1⟩
/-- RM_ADD[3:3], WO (R252, 09). -/
def RM_ADD_PRANK : Fld := ⟨0x200848, 0x10000, 0x0, 3, 1⟩
/-- RM_ADD[6:4], WO (R252, 09). -/
def RM_ADD_CID : Fld := ⟨0x200848, 0x10000, 0x0, 4, 3⟩
/-- RM_ADD[9:7], WO (R252, 09). -/
def RM_ADD_BG : Fld := ⟨0x200848, 0x10000, 0x0, 7, 3⟩
/-- RM_ADD[11:10], WO (R252, 09). -/
def RM_ADD_BANK : Fld := ⟨0x200848, 0x10000, 0x0, 10, 2⟩
/-- RM_ADD[29:12], WO (R252, 09). -/
def RM_ADD_ROW : Fld := ⟨0x200848, 0x10000, 0x0, 12, 18⟩
/-- RM_ADD[31:31], WO (R252, 09). -/
def RM_ADD_GO : Fld := ⟨0x200848, 0x10000, 0x0, 31, 1⟩
/-- RM_SEL[5:0], RW (R252, 09). -/
def RM_SEL_IDX : Fld := ⟨0x20084C, 0x10000, 0x0, 0, 6⟩
/-- RM_ENT[29:0], RO (R252, 09). -/
def RM_ENT_KEY : Fld := ⟨0x200850, 0x10000, 0x0, 0, 30⟩
/-- RM_ENT[31:30], RO (R252, 09). -/
def RM_ENT_STATE : Fld := ⟨0x200850, 0x10000, 0x0, 30, 2⟩
/-- SCR_CTL[0:0], RS (R253, 09). -/
def SCR_CTL_EN : Fld := ⟨0x60000, 0x0, 0x31, 0, 1⟩
/-- SCR_CTL[8:1], RS (R253, 09). -/
def SCR_CTL_PERIOD : Fld := ⟨0x60000, 0x0, 0x31, 1, 8⟩
/-- EL_CTL[15:0], RS (R253, 09). -/
def EL_CTL_CE_GAP : Fld := ⟨0x60010, 0x0, 0x3E8, 0, 16⟩
/-- EL_CLR[20:0], WO (R253, 09). -/
def EL_CLR_LOST : Fld := ⟨0x60014, 0x0, 0x0, 0, 21⟩
/-- MT_CTL[7:0], RW (R253, 09). -/
def MT_CTL_GROUP : Fld := ⟨0x60020, 0x0, 0x900, 0, 8⟩
/-- MT_CTL[9:8], RW (R253, 09). -/
def MT_CTL_ALG : Fld := ⟨0x60020, 0x0, 0x900, 8, 2⟩
/-- MT_CTL[10:10], RW (R253, 09). -/
def MT_CTL_MODE : Fld := ⟨0x60020, 0x0, 0x900, 10, 1⟩
/-- MT_CTL[14:11], RW (R253, 09). -/
def MT_CTL_BGS : Fld := ⟨0x60020, 0x0, 0x900, 11, 4⟩
/-- MT_GO[0:0], WO (R253, 09). -/
def MT_GO_GO : Fld := ⟨0x60024, 0x0, 0x0, 0, 1⟩
/-- MT_GO[1:1], WO (R253, 09). -/
def MT_GO_ABORT : Fld := ⟨0x60024, 0x0, 0x0, 1, 1⟩
/-- MT_STAT[0:0], RO (R253, 09). -/
def MT_STAT_BUSY : Fld := ⟨0x60028, 0x0, 0x0, 0, 1⟩
/-- MT_STAT[1:1], W1C (R253, 09). -/
def MT_STAT_DONE : Fld := ⟨0x60028, 0x0, 0x0, 1, 1⟩
/-- MT_STAT[2:2], W1C (R253, 09). -/
def MT_STAT_REFUSED : Fld := ⟨0x60028, 0x0, 0x0, 2, 1⟩
/-- MT_STAT[3:3], W1C (R253, 09). -/
def MT_STAT_ABORTED : Fld := ⟨0x60028, 0x0, 0x0, 3, 1⟩
/-- MT_STAT[15:8], RO (R253, 09). -/
def MT_STAT_GROUP : Fld := ⟨0x60028, 0x0, 0x0, 8, 8⟩
/-- MT_STAT[31:16], RO (R253, 09). -/
def MT_STAT_FAILS : Fld := ⟨0x60028, 0x0, 0x0, 16, 16⟩
/-- MT_FENCE[31:0], RW (R253, 09). -/
def MT_FENCE_BANKS : Fld := ⟨0x6002C, 0x0, 0x0, 0, 32⟩
/-- MT_BOOT[1:0], BB (R253, 09). -/
def MT_BOOT_ALG : Fld := ⟨0x60030, 0x0, 0x1, 0, 2⟩
/-- SR_SEL[7:0], RW (R253, 09). -/
def SR_SEL_GROUP : Fld := ⟨0x60034, 0x0, 0x0, 0, 8⟩
/-- SR_STAT[4:0], RO (R253, 09). -/
def SR_STAT_USED : Fld := ⟨0x60038, 0x0, 0x0, 0, 5⟩
/-- SR_STAT[5:5], RO (R253, 09). -/
def SR_STAT_DEGRADED : Fld := ⟨0x60038, 0x0, 0x0, 5, 1⟩
/-- SR_STAT[31:16], RO (R253, 09). -/
def SR_STAT_LAST : Fld := ⟨0x60038, 0x0, 0x0, 16, 16⟩
/-- SCR_PASS[15:0], RO (R253, 09). -/
def SCR_PASS_PASSES : Fld := ⟨0x60100, 0x4, 0x0, 0, 16⟩
/-- SCR_PASS[16:16], W1C (R253, 09). -/
def SCR_PASS_BEHIND : Fld := ⟨0x60100, 0x4, 0x0, 16, 1⟩
/-- SCR_PASS[30:24], RO (R253, 09). -/
def SCR_PASS_DONE : Fld := ⟨0x60100, 0x4, 0x0, 24, 7⟩
/-- EL_PTR[5:0], RO (R253, 09). -/
def EL_PTR_HEAD : Fld := ⟨0x60200, 0x4, 0x0, 0, 6⟩
/-- EL_PTR[13:8], RW (R253, 09). -/
def EL_PTR_TAIL : Fld := ⟨0x60200, 0x4, 0x0, 8, 6⟩
/-- EL_PTR[21:16], RO (R253, 09). -/
def EL_PTR_COUNT : Fld := ⟨0x60200, 0x4, 0x0, 16, 6⟩
/-- EL_PTR[31:24], RO (R253, 09). -/
def EL_PTR_LOST : Fld := ⟨0x60200, 0x4, 0x0, 24, 8⟩
/-- ST_GCTL[15:0], RS (R285, 10). -/
def ST_GCTL_PAIR_IDLE : Fld := ⟨0x380000, 0x0, 0x64, 0, 16⟩
/-- ST_GSTAT[13:0], RO (R285, 10). -/
def ST_GSTAT_PAIRS : Fld := ⟨0x380004, 0x0, 0x0, 0, 14⟩
/-- ST_GSTAT[29:16], RO (R285, 10). -/
def ST_GSTAT_FREE : Fld := ⟨0x380004, 0x0, 0x0, 16, 14⟩
/-- ST_ECNT[15:0], RO (R285, 10). -/
def ST_ECNT_MISMATCH : Fld := ⟨0x380008, 0x0, 0x0, 0, 16⟩
/-- ST_ECNT[31:16], RO (R285, 10). -/
def ST_ECNT_PWAIT : Fld := ⟨0x380008, 0x0, 0x0, 16, 16⟩
/-- ST_ECNT_CLR[0:0], WO (R285, 10). -/
def ST_ECNT_CLR_ALL : Fld := ⟨0x38000C, 0x0, 0x0, 0, 1⟩
/-- ST_GPEND[31:0], W1C (R285, 10). -/
def ST_GPEND_PEND : Fld := ⟨0x380800, 0x4, 0x0, 0, 32⟩
/-- ST_GLVL[31:0], RW (R285, 10). -/
def ST_GLVL_LEVEL : Fld := ⟨0x381000, 0x8, 0x0, 0, 32⟩
/-- ST_GOCC[31:0], RO (R285, 10). -/
def ST_GOCC_OCC : Fld := ⟨0x381004, 0x8, 0x0, 0, 32⟩
/-- ST_SEL[14:0], RW (R286, 10). -/
def ST_SEL_STALL : Fld := ⟨0x380010, 0x0, 0x0, 0, 15⟩
/-- ST_BASE_LO[31:12], RW, OFF only (R257) (R286, 10). -/
def ST_BASE_LO_BASE : Fld := ⟨0x380014, 0x0, 0x0, 12, 20⟩
/-- ST_BASE_HI[13:0], RW, OFF only (R286, 10). -/
def ST_BASE_HI_BASE : Fld := ⟨0x380018, 0x0, 0x0, 0, 14⟩
/-- ST_CFG0[4:0], RW, OFF only (R286, 10). -/
def ST_CFG0_SIZE : Fld := ⟨0x38001C, 0x0, 0x0, 0, 5⟩
/-- ST_CFG0[5:5], RW, OFF only (R286, 10). -/
def ST_CFG0_CTRL : Fld := ⟨0x38001C, 0x0, 0x0, 5, 1⟩
/-- ST_CFG0[6:6], RW, OFF only (R286, 10). -/
def ST_CFG0_REW : Fld := ⟨0x38001C, 0x0, 0x0, 6, 1⟩
/-- ST_CFG0[13:8], RW, OFF only (R286, 10). -/
def ST_CFG0_PROD : Fld := ⟨0x38001C, 0x0, 0x0, 8, 6⟩
/-- ST_CFG0[21:16], RW, OFF only (R286, 10). -/
def ST_CFG0_CONS : Fld := ⟨0x38001C, 0x0, 0x0, 16, 6⟩
/-- ST_CFG1[7:0], RS (R286, 10). -/
def ST_CFG1_TKT : Fld := ⟨0x380020, 0x0, 0x10C1F700, 0, 8⟩
/-- ST_CFG1[20:8], RS (R286, 10). -/
def ST_CFG1_MAXPKT : Fld := ⟨0x380020, 0x0, 0x10C1F700, 8, 13⟩
/-- ST_CFG1[24:21], RS (R286, 10). -/
def ST_CFG1_FLUSH : Fld := ⟨0x380020, 0x0, 0x10C1F700, 21, 4⟩
/-- ST_CFG1[29:25], RS (R286, 10). -/
def ST_CFG1_TGMAX : Fld := ⟨0x380020, 0x0, 0x10C1F700, 25, 5⟩
/-- ST_OP[1:0], WO (R286, 10). -/
def ST_OP_OP : Fld := ⟨0x380024, 0x0, 0x0, 0, 2⟩
/-- ST_STAT[1:0], RO (R286, 10). -/
def ST_STAT_STATE : Fld := ⟨0x380028, 0x0, 0x0, 0, 2⟩
/-- ST_STAT[2:2], RO (R286, 10). -/
def ST_STAT_PAIR : Fld := ⟨0x380028, 0x0, 0x0, 2, 1⟩
/-- ST_STAT[3:3], RO (R286, 10). -/
def ST_STAT_OPEN : Fld := ⟨0x380028, 0x0, 0x0, 3, 1⟩
/-- ST_STAT[4:4], RO (R286, 10). -/
def ST_STAT_SKIP : Fld := ⟨0x380028, 0x0, 0x0, 4, 1⟩
/-- ST_STAT[5:5], RO (R286, 10). -/
def ST_STAT_FWAIT : Fld := ⟨0x380028, 0x0, 0x0, 5, 1⟩
/-- ST_STAT[6:6], RO (R286, 10). -/
def ST_STAT_REDIR : Fld := ⟨0x380028, 0x0, 0x0, 6, 1⟩
/-- ST_STAT[7:7], W1C (R286, 10). -/
def ST_STAT_REFUSED : Fld := ⟨0x380028, 0x0, 0x0, 7, 1⟩
/-- ST_STAT[8:8], W1C (R286, 10). -/
def ST_STAT_OVR : Fld := ⟨0x380028, 0x0, 0x0, 8, 1⟩
/-- ST_REDIR[14:0], RO (R286, 10). -/
def ST_REDIR_STALL : Fld := ⟨0x38002C, 0x0, 0x0, 0, 15⟩
/-- ST_COUNT[30:0], RO (R286, 10). -/
def ST_COUNT_WORDS : Fld := ⟨0x380030, 0x0, 0x0, 0, 31⟩
/-- ST_ERRCNT[15:0], RO (R286, 10). -/
def ST_ERRCNT_OVERRUN : Fld := ⟨0x380034, 0x0, 0x0, 0, 16⟩
/-- ST_ERRCNT[31:16], RO (R286, 10). -/
def ST_ERRCNT_CE : Fld := ⟨0x380034, 0x0, 0x0, 16, 16⟩
/-- ST_ERRCLR[0:0], WO (R286, 10). -/
def ST_ERRCLR_ALL : Fld := ⟨0x38003C, 0x0, 0x0, 0, 1⟩
/-- ST_PIO_ITEM_LO[31:0], RW (R287, 10). -/
def ST_PIO_ITEM_LO_D : Fld := ⟨0x380100, 0x0, 0x0, 0, 32⟩
/-- ST_PIO_ITEM_HI[31:0], RW (R287, 10). -/
def ST_PIO_ITEM_HI_D : Fld := ⟨0x380104, 0x0, 0x0, 0, 32⟩
/-- ST_PIO_PUSH[14:0], WO (R287, 10). -/
def ST_PIO_PUSH_STALL : Fld := ⟨0x380108, 0x0, 0x70000, 0, 15⟩
/-- ST_PIO_PUSH[15:15], WO (R287, 10). -/
def ST_PIO_PUSH_EOP : Fld := ⟨0x380108, 0x0, 0x70000, 15, 1⟩
/-- ST_PIO_PUSH[18:16], WO (R287, 10). -/
def ST_PIO_PUSH_LBYTES : Fld := ⟨0x380108, 0x0, 0x70000, 16, 3⟩
/-- ST_PIO_PUSH[31:31], WO (R287, 10). -/
def ST_PIO_PUSH_GO : Fld := ⟨0x380108, 0x0, 0x70000, 31, 1⟩
/-- ST_PIO_STAT[0:0], W1C (R287, 10). -/
def ST_PIO_STAT_FULL : Fld := ⟨0x38010C, 0x0, 0x0, 0, 1⟩
/-- ST_PIO_STAT[1:1], W1C (R287, 10). -/
def ST_PIO_STAT_REFUSED : Fld := ⟨0x38010C, 0x0, 0x0, 1, 1⟩
/-- ST_PIO_STAT[2:2], RO (R287, 10). -/
def ST_PIO_STAT_POPBUSY : Fld := ⟨0x38010C, 0x0, 0x0, 2, 1⟩
/-- ST_PIO_POP[14:0], WO (R287, 10). -/
def ST_PIO_POP_STALL : Fld := ⟨0x380110, 0x0, 0x0, 0, 15⟩
/-- ST_PIO_POP[31:31], WO (R287, 10). -/
def ST_PIO_POP_GO : Fld := ⟨0x380110, 0x0, 0x0, 31, 1⟩
/-- ST_PIO_TAG[15:0], RO (R287, 10). -/
def ST_PIO_TAG_TAG : Fld := ⟨0x380114, 0x0, 0x0, 0, 16⟩
/-- ST_PIO_W[31:0], RO (R287, 10). -/
def ST_PIO_W_D : Fld := ⟨0x380120, 0x4, 0x0, 0, 32⟩
/-- HOME_CTL[0:0], RS (R322, 11). -/
def HOME_CTL_SPEC : Fld := ⟨0xA0000, 0x0, 0x3, 0, 1⟩
/-- HOME_CTL[1:1], RS (R322, 11). -/
def HOME_CTL_SUSPECT : Fld := ⟨0xA0000, 0x0, 0x3, 1, 1⟩
/-- HOME_TMO[9:0], RS (R322, 11). -/
def HOME_TMO_US : Fld := ⟨0xA0004, 0x0, 0x14, 0, 10⟩
/-- HOME_HOLD[6:0], RS (R322, 11). -/
def HOME_HOLD_UNITS : Fld := ⟨0xA0008, 0x0, 0x5, 0, 7⟩
/-- HOME_AGT_EN[23:0], RS (R322, 11). -/
def HOME_AGT_EN_EN : Fld := ⟨0xA000C, 0x0, 0x0, 0, 24⟩
/-- HOME_AGT_FAIL[23:0], W1C (R322, 11). -/
def HOME_AGT_FAIL_FAILED : Fld := ⟨0xA0010, 0x0, 0x0, 0, 24⟩
/-- HOME_STOP[4:0], RO (R322, 11). -/
def HOME_STOP_OWN : Fld := ⟨0xA0014, 0x0, 0x0, 0, 5⟩
/-- HOME_STOP[9:5], RO (R322, 11). -/
def HOME_STOP_OTHER : Fld := ⟨0xA0014, 0x0, 0x0, 5, 5⟩
/-- HOME_STAT[0:0], RO (R322, 11). -/
def HOME_STAT_SWEEP : Fld := ⟨0xA0018, 0x0, 0x0, 0, 1⟩
/-- HOME_STAT[1:1], RO (R322, 11). -/
def HOME_STAT_DRAIN : Fld := ⟨0xA0018, 0x0, 0x0, 1, 1⟩
/-- HOME_STAT[11:2], RO (R322, 11). -/
def HOME_STAT_TRK : Fld := ⟨0xA0018, 0x0, 0x0, 2, 10⟩
/-- HOME_STAT[21:12], RO (R322, 11). -/
def HOME_STAT_NOTES : Fld := ⟨0xA0018, 0x0, 0x0, 12, 10⟩
/-- HOME_LED_OCC[21:0], RO (R322, 11). -/
def HOME_LED_OCC_VALID : Fld := ⟨0xA001C, 0x0, 0x0, 0, 22⟩
/-- HOME_CNT0[31:0], RO (R322, 11). -/
def HOME_CNT0_SNOOPS : Fld := ⟨0xA0020, 0x0, 0x0, 0, 32⟩
/-- HOME_CNT1[15:0], RO (R322, 11). -/
def HOME_CNT1_EVICT : Fld := ⟨0xA0024, 0x0, 0x0, 0, 16⟩
/-- HOME_CNT1[31:16], RO (R322, 11). -/
def HOME_CNT1_FWD : Fld := ⟨0xA0024, 0x0, 0x0, 16, 16⟩
/-- HOME_CNT2[7:0], RO (R322, 11). -/
def HOME_CNT2_TMO : Fld := ⟨0xA0028, 0x0, 0x0, 0, 8⟩
/-- HOME_CNT2[15:8], RO (R322, 11). -/
def HOME_CNT2_LED_CE : Fld := ⟨0xA0028, 0x0, 0x0, 8, 8⟩
/-- HOME_CNT2[23:16], RO (R322, 11). -/
def HOME_CNT2_LED_UE : Fld := ⟨0xA0028, 0x0, 0x0, 16, 8⟩
/-- HOME_CNT2[31:24], RO (R322, 11). -/
def HOME_CNT2_PROTO : Fld := ⟨0xA0028, 0x0, 0x0, 24, 8⟩
/-- HOME_CNT_CLR[0:0], WO (R322, 11). -/
def HOME_CNT_CLR_ALL : Fld := ⟨0xA002C, 0x0, 0x0, 0, 1⟩
/-- HOME_SUSPECT[21:0], RO (R322, 11). -/
def HOME_SUSPECT_COUNT : Fld := ⟨0xA0030, 0x0, 0x0, 0, 22⟩
/-- FA_BASE[24:0], RS (R322, 11). -/
def FA_BASE_BASE : Fld := ⟨0xA0100, 0x8, 0x0, 0, 25⟩
/-- FA_BASE[31:31], RS (R322, 11). -/
def FA_BASE_EN : Fld := ⟨0xA0100, 0x8, 0x0, 31, 1⟩
/-- FA_SIZE[24:0], RS (R322, 11). -/
def FA_SIZE_SIZE : Fld := ⟨0xA0104, 0x8, 0x0, 0, 25⟩
/-- LN_IC[0:0], WO (R351, 12). -/
def LN_IC_INV : Fld := ⟨0x80000, 0x0, 0x0, 0, 1⟩
/-- LN_ICMISS[31:0], RO (R351, 12). -/
def LN_ICMISS_MISS : Fld := ⟨0x80004, 0x0, 0x0, 0, 32⟩
/-- LCTX_CTL[1:0], WO (R351, 12). -/
def LCTX_CTL_OP : Fld := ⟨0x80100, 0x100, 0x0, 0, 2⟩
/-- LCTX_CTL[2:2], RW (R351, 12). -/
def LCTX_CTL_PRIV : Fld := ⟨0x80100, 0x100, 0x0, 2, 1⟩
/-- LCTX_STAT[1:0], RO (R351, 12). -/
def LCTX_STAT_STATE : Fld := ⟨0x80104, 0x100, 0x0, 0, 2⟩
/-- LCTX_STAT[2:2], RO (R351, 12). -/
def LCTX_STAT_DRAM : Fld := ⟨0x80104, 0x100, 0x0, 2, 1⟩
/-- LCTX_STAT[3:3], RO (R351, 12). -/
def LCTX_STAT_HV : Fld := ⟨0x80104, 0x100, 0x0, 3, 1⟩
/-- LCTX_STAT[19:4], RO (R351, 12). -/
def LCTX_STAT_HANDLE : Fld := ⟨0x80104, 0x100, 0x0, 4, 16⟩
/-- LCTX_STAT[25:20], RO (R351, 12). -/
def LCTX_STAT_LDLN : Fld := ⟨0x80104, 0x100, 0x0, 20, 6⟩
/-- LCTX_PC_LO[31:0], RW while STOPPED or HALTED (R351, 12). -/
def LCTX_PC_LO_PC : Fld := ⟨0x80108, 0x100, 0x0, 0, 32⟩
/-- LCTX_PC_HI[31:0], RW while STOPPED or HALTED (R351, 12). -/
def LCTX_PC_HI_PC : Fld := ⟨0x8010C, 0x100, 0x0, 0, 32⟩
/-- LCTX_TRAP[7:0], RO (R351, 12). -/
def LCTX_TRAP_CODE : Fld := ⟨0x80110, 0x100, 0x0, 0, 8⟩
/-- LCTX_TRAP[8:8], RO (R351, 12). -/
def LCTX_TRAP_VALID : Fld := ⟨0x80110, 0x100, 0x0, 8, 1⟩
/-- LCTX_TRAP[15:12], RO (R351, 12). -/
def LCTX_TRAP_MSTAT : Fld := ⟨0x80110, 0x100, 0x0, 12, 4⟩
/-- LCTX_TPC_LO[31:0], RO (R351, 12). -/
def LCTX_TPC_LO_PC : Fld := ⟨0x80114, 0x100, 0x0, 0, 32⟩
/-- LCTX_TPC_HI[31:0], RO (R351, 12). -/
def LCTX_TPC_HI_PC : Fld := ⟨0x80118, 0x100, 0x0, 0, 32⟩
/-- LCTX_TINSN[31:0], RO (R351, 12). -/
def LCTX_TINSN_INSN : Fld := ⟨0x8011C, 0x100, 0x0, 0, 32⟩
/-- LCTX_PRG[5:0], RW, STOPPED only (R351, 12). -/
def LCTX_PRG_BASE : Fld := ⟨0x80120, 0x100, 0x20, 0, 6⟩
/-- LCTX_PRG[13:8], RW, STOPPED only (R351, 12). -/
def LCTX_PRG_SIZE : Fld := ⟨0x80120, 0x100, 0x20, 8, 6⟩
/-- LCTX_DAT[6:0], RW, STOPPED only (R351, 12). -/
def LCTX_DAT_BASE : Fld := ⟨0x80124, 0x100, 0x40, 0, 7⟩
/-- LCTX_DAT[14:8], RW, STOPPED only (R351, 12). -/
def LCTX_DAT_SIZE : Fld := ⟨0x80124, 0x100, 0x40, 8, 7⟩
/-- LCTX_GSEL[4:0], RW (R351, 12). -/
def LCTX_GSEL_G : Fld := ⟨0x80128, 0x100, 0x0, 0, 5⟩
/-- LCTX_GDAT_LO[31:0], RW while STOPPED or HALTED; reads zero otherwise (R351, 12). -/
def LCTX_GDAT_LO_D : Fld := ⟨0x8012C, 0x100, 0x0, 0, 32⟩
/-- LCTX_GDAT_HI[31:0], RW while STOPPED or HALTED; reads zero otherwise (R351, 12). -/
def LCTX_GDAT_HI_D : Fld := ⟨0x80130, 0x100, 0x0, 0, 32⟩
/-- LCTX_CODEP[19:0], RO (R351, 12). -/
def LCTX_CODEP_PORTS : Fld := ⟨0x80134, 0x100, 0x0, 0, 20⟩
/-- HC_STAT[12:0], RO (R372, 13). -/
def HC_STAT_OUT : Fld := ⟨0x90000, 0x0, 0x0, 0, 13⟩
/-- HC_STAT[13:13], RO (R372, 13). -/
def HC_STAT_FULL : Fld := ⟨0x90000, 0x0, 0x0, 13, 1⟩
/-- HC_ABORT[15:0], WO (R372, 13). -/
def HC_ABORT_HANDLE : Fld := ⟨0x90004, 0x0, 0x0, 0, 16⟩
/-- HC_ABORT[31:31], WO (R372, 13). -/
def HC_ABORT_GO : Fld := ⟨0x90004, 0x0, 0x0, 31, 1⟩
/-- HC_ABSTAT[1:0], RO (R372, 13). -/
def HC_ABSTAT_OUTCOME : Fld := ⟨0x90008, 0x0, 0x0, 0, 2⟩
/-- HC_ABSTAT[2:2], W1C (R372, 13). -/
def HC_ABSTAT_VALID : Fld := ⟨0x90008, 0x0, 0x0, 2, 1⟩
/-- HC_HSEL[11:0], RW (R372, 13). -/
def HC_HSEL_SLOT : Fld := ⟨0x9000C, 0x0, 0x0, 0, 12⟩
/-- HC_HSTATE[2:0], RO (R372, 13). -/
def HC_HSTATE_STATE : Fld := ⟨0x90010, 0x0, 0x0, 0, 3⟩
/-- HC_HSTATE[3:3], RO (R372, 13). -/
def HC_HSTATE_ABREQ : Fld := ⟨0x90010, 0x0, 0x0, 3, 1⟩
/-- HC_HSTATE[7:4], RO (R372, 13). -/
def HC_HSTATE_GEN : Fld := ⟨0x90010, 0x0, 0x0, 4, 4⟩
/-- HC_HSTATE[9:8], RO (R372, 13). -/
def HC_HSTATE_QUEUE : Fld := ⟨0x90010, 0x0, 0x0, 8, 2⟩
/-- HC_HSTATE[17:10], RO (R372, 13). -/
def HC_HSTATE_OPC : Fld := ⟨0x90010, 0x0, 0x0, 10, 8⟩
/-- HC_QCFG[0:0], RS (R372, 13). -/
def HC_QCFG_EN : Fld := ⟨0x90100, 0x20, 0x2000, 0, 1⟩
/-- HC_QCFG[13:1], RS (R372, 13). -/
def HC_QCFG_LIMIT : Fld := ⟨0x90100, 0x20, 0x2000, 1, 13⟩
/-- HC_QSTALL[14:0], RS (R372, 13). -/
def HC_QSTALL_CMD : Fld := ⟨0x90104, 0x20, 0x0, 0, 15⟩
/-- HC_QSTALL[30:16], RS (R372, 13). -/
def HC_QSTALL_CPL : Fld := ⟨0x90104, 0x20, 0x0, 16, 15⟩
/-- HC_QDB[0:0], WO (R372, 13). -/
def HC_QDB_RING : Fld := ⟨0x90108, 0x20, 0x0, 0, 1⟩
/-- HC_QHANDLE[15:0], RO (R372, 13). -/
def HC_QHANDLE_HANDLE : Fld := ⟨0x9010C, 0x20, 0x0, 0, 16⟩
/-- HC_QHANDLE[16:16], RO (R372, 13). -/
def HC_QHANDLE_V : Fld := ⟨0x9010C, 0x20, 0x0, 16, 1⟩
/-- HC_QHANDLE[18:17], RO (R372, 13). -/
def HC_QHANDLE_WHY : Fld := ⟨0x9010C, 0x20, 0x0, 17, 2⟩
/-- HC_QSTAT[12:0], RO (R372, 13). -/
def HC_QSTAT_OUT : Fld := ⟨0x90110, 0x20, 0x0, 0, 13⟩
/-- HC_QSTAT[13:13], RO (R372, 13). -/
def HC_QSTAT_CWAIT : Fld := ⟨0x90110, 0x20, 0x0, 13, 1⟩
/-- HC_QSTAT[14:14], RO (R372, 13). -/
def HC_QSTAT_REPLAY : Fld := ⟨0x90110, 0x20, 0x0, 14, 1⟩
/-- HC_QSTAT[15:15], RO (R372, 13). -/
def HC_QSTAT_STALLOFF : Fld := ⟨0x90110, 0x20, 0x0, 15, 1⟩
/-- HC_QSTAT[31:16], RO (R372, 13). -/
def HC_QSTAT_REFUSED : Fld := ⟨0x90110, 0x20, 0x0, 16, 16⟩
/-- FP_FENCE_STAT[0:0], RO (R373, 13). -/
def FP_FENCE_STAT_HOST : Fld := ⟨0xC0030, 0x1000, 0x0, 0, 1⟩
/-- FP_FENCE_STAT[1:1], RO (R373, 13). -/
def FP_FENCE_STAT_CFG : Fld := ⟨0xC0030, 0x1000, 0x0, 1, 1⟩
/-- FP_FENCE_STAT[2:2], RO (R373, 13). -/
def FP_FENCE_STAT_DRAINED : Fld := ⟨0xC0030, 0x1000, 0x0, 2, 1⟩
/-- FP_FENCE_STAT[31:16], RO (R373, 13). -/
def FP_FENCE_STAT_DISCARD : Fld := ⟨0xC0030, 0x1000, 0x0, 16, 16⟩
/-- EN_TOTAL_LO[31:0], RO (R404, 14). -/
def EN_TOTAL_LO_MJ : Fld := ⟨0x30000, 0x0, 0x0, 0, 32⟩
/-- EN_TOTAL_HI[31:0], RO (R404, 14). -/
def EN_TOTAL_HI_MJ : Fld := ⟨0x30004, 0x0, 0x0, 0, 32⟩
/-- EN_POWER[17:0], RO (R404, 14). -/
def EN_POWER_MW : Fld := ⟨0x30008, 0x0, 0x0, 0, 18⟩
/-- EN_DSEL[5:0], RW (R404, 14). -/
def EN_DSEL_DOM : Fld := ⟨0x3000C, 0x0, 0x0, 0, 6⟩
/-- EN_DOM_LO[31:0], RO (R404, 14). -/
def EN_DOM_LO_MJ : Fld := ⟨0x30010, 0x0, 0x0, 0, 32⟩
/-- EN_DOM_HI[31:0], RO (R404, 14). -/
def EN_DOM_HI_MJ : Fld := ⟨0x30014, 0x0, 0x0, 0, 32⟩
/-- PW_CTL[0:0], RS (R404, 14). -/
def PW_CTL_EN : Fld := ⟨0x30020, 0x0, 0x14415, 0, 1⟩
/-- PW_CTL[7:1], RS (R404, 14). -/
def PW_CTL_UP : Fld := ⟨0x30020, 0x0, 0x14415, 1, 7⟩
/-- PW_CTL[11:8], RS (R404, 14). -/
def PW_CTL_HYST : Fld := ⟨0x30020, 0x0, 0x14415, 8, 4⟩
/-- PW_CTL[19:12], RS (R404, 14). -/
def PW_CTL_IDLE : Fld := ⟨0x30020, 0x0, 0x14415, 12, 8⟩
/-- PW_LIM[7:0], RS (R404, 14). -/
def PW_LIM_PEAK : Fld := ⟨0x30024, 0x0, 0x1E5068, 0, 8⟩
/-- PW_LIM[15:8], RS (R404, 14). -/
def PW_LIM_SUS : Fld := ⟨0x30024, 0x0, 0x1E5068, 8, 8⟩
/-- PW_LIM[23:16], RS (R404, 14). -/
def PW_LIM_PDUR : Fld := ⟨0x30024, 0x0, 0x1E5068, 16, 8⟩
/-- PW_KEEP[19:0], RS (R404, 14). -/
def PW_KEEP_PORTS : Fld := ⟨0x30028, 0x0, 0x0, 0, 20⟩
/-- PW_STAT[2:0], RO (R404, 14). -/
def PW_STAT_STAGE : Fld := ⟨0x3002C, 0x0, 0x0, 0, 3⟩
/-- PW_STAT[3:3], RO (R404, 14). -/
def PW_STAT_EMPTY : Fld := ⟨0x3002C, 0x0, 0x0, 3, 1⟩
/-- PW_STAT[4:4], W1C (R404, 14). -/
def PW_STAT_OVER : Fld := ⟨0x3002C, 0x0, 0x0, 4, 1⟩
/-- PW_STAT[13:5], RO (R404, 14). -/
def PW_STAT_THR : Fld := ⟨0x3002C, 0x0, 0x0, 5, 9⟩
/-- PW_BUCKET[31:0], RO (R404, 14). -/
def PW_BUCKET_MJ : Fld := ⟨0x30030, 0x0, 0xAFC80, 0, 32⟩
/-- PW_CNT[15:0], RO (R404, 14). -/
def PW_CNT_STEPS : Fld := ⟨0x30034, 0x0, 0x0, 0, 16⟩
/-- PW_CNT[31:16], RO (R404, 14). -/
def PW_CNT_OVERS : Fld := ⟨0x30034, 0x0, 0x0, 16, 16⟩
/-- SN_VBUS[13:0], RO (R404, 14). -/
def SN_VBUS_CODE : Fld := ⟨0x30040, 0x0, 0x0, 0, 14⟩
/-- SN_VRSV[13:0], RO (R404, 14). -/
def SN_VRSV_CODE : Fld := ⟨0x30044, 0x0, 0x0, 0, 14⟩
/-- SN_IRSV[13:0], RO (R404, 14). -/
def SN_IRSV_CODE : Fld := ⟨0x30048, 0x0, 0x0, 0, 14⟩
/-- SN_IRSV[14:14], RO (R404, 14). -/
def SN_IRSV_GAIN : Fld := ⟨0x30048, 0x0, 0x0, 14, 1⟩
/-- SN_IRSV[15:15], RO (R404, 14). -/
def SN_IRSV_BLANK : Fld := ⟨0x30048, 0x0, 0x0, 15, 1⟩
/-- SN_IRSV[31:16], RO (R404, 14). -/
def SN_IRSV_I : Fld := ⟨0x30048, 0x0, 0x0, 16, 16⟩
/-- SN_CFG[15:0], RS (R404, 14). -/
def SN_CFG_SHUNT : Fld := ⟨0x3004C, 0x0, 0xA6403E8, 0, 16⟩
/-- SN_CFG[23:16], RS (R404, 14). -/
def SN_CFG_GHI : Fld := ⟨0x3004C, 0x0, 0xA6403E8, 16, 8⟩
/-- SN_CFG[31:24], RS (R404, 14). -/
def SN_CFG_GLO : Fld := ⟨0x3004C, 0x0, 0xA6403E8, 24, 8⟩
/-- SN_GAIN[1:0], RS (R404, 14). -/
def SN_GAIN_FORCE : Fld := ⟨0x30050, 0x0, 0x0, 0, 2⟩
/-- CMP_CTL[7:0], RS (R404, 14). -/
def CMP_CTL_PF_TH : Fld := ⟨0x30058, 0x0, 0x545048, 0, 8⟩
/-- CMP_CTL[15:8], RS (R404, 14). -/
def CMP_CTL_PF_ON : Fld := ⟨0x30058, 0x0, 0x545048, 8, 8⟩
/-- CMP_CTL[23:16], RS (R404, 14). -/
def CMP_CTL_RSV_LOW : Fld := ⟨0x30058, 0x0, 0x545048, 16, 8⟩
/-- PF_CTL[0:0], RS (R404, 14). -/
def PF_CTL_EN : Fld := ⟨0x3005C, 0x0, 0x6403, 0, 1⟩
/-- PF_CTL[1:1], RS (R404, 14). -/
def PF_CTL_AUTO : Fld := ⟨0x3005C, 0x0, 0x6403, 1, 1⟩
/-- PF_CTL[15:8], RS (R404, 14). -/
def PF_CTL_RET : Fld := ⟨0x3005C, 0x0, 0x6403, 8, 8⟩
/-- GA_QCNT[31:0], RO (R404, 14). -/
def GA_QCNT_MC : Fld := ⟨0x30060, 0x0, 0x0, 0, 32⟩
/-- GA_QV[31:0], RO (R404, 14). -/
def GA_QV_MC : Fld := ⟨0x30064, 0x0, 0x0, 0, 32⟩
/-- GA_Q[31:0], RO (R404, 14). -/
def GA_Q_MC : Fld := ⟨0x30068, 0x0, 0x0, 0, 32⟩
/-- GA_CTL[7:0], RS (R404, 14). -/
def GA_CTL_TOL : Fld := ⟨0x3006C, 0x0, 0x1F405, 0, 8⟩
/-- GA_CTL[23:8], RS (R404, 14). -/
def GA_CTL_REST_I : Fld := ⟨0x3006C, 0x0, 0x1F405, 8, 16⟩
/-- GA_CFG[6:0], RS (R404, 14). -/
def GA_CFG_EFF : Fld := ⟨0x30070, 0x0, 0x140005A, 0, 7⟩
/-- GA_CFG[19:8], RS (R404, 14). -/
def GA_CFG_RINT : Fld := ⟨0x30070, 0x0, 0x140005A, 8, 12⟩
/-- GA_CFG[27:20], RS (R404, 14). -/
def GA_CFG_STEP : Fld := ⟨0x30070, 0x0, 0x140005A, 20, 8⟩
/-- GA_STAT[0:0], RO (R404, 14). -/
def GA_STAT_PRESENT : Fld := ⟨0x30074, 0x0, 0x0, 0, 1⟩
/-- GA_STAT[1:1], W1C (R404, 14). -/
def GA_STAT_DISAGREE : Fld := ⟨0x30074, 0x0, 0x0, 1, 1⟩
/-- GA_STAT[2:2], W1C (R404, 14). -/
def GA_STAT_LOST : Fld := ⟨0x30074, 0x0, 0x0, 2, 1⟩
/-- GA_STAT[3:3], RO (R404, 14). -/
def GA_STAT_REST : Fld := ⟨0x30074, 0x0, 0x0, 3, 1⟩
/-- GA_STAT[4:4], W1C (R404, 14). -/
def GA_STAT_REBASED : Fld := ⟨0x30074, 0x0, 0x0, 4, 1⟩
/-- GA_STAT[5:5], W1C (R404, 14). -/
def GA_STAT_LOW : Fld := ⟨0x30074, 0x0, 0x0, 5, 1⟩
/-- GA_OCV[15:0], RS (R404, 14). -/
def GA_OCV_V : Fld := ⟨0x30200, 0x4, 0x0, 0, 16⟩
/-- GA_OCV[31:16], RS (R404, 14). -/
def GA_OCV_Q : Fld := ⟨0x30200, 0x4, 0x0, 16, 16⟩
/-- CH_CTL[15:0], RS (R404, 14). -/
def CH_CTL_SET : Fld := ⟨0x30090, 0x0, 0x0, 0, 16⟩
/-- CH_CTL[16:16], RS (R404, 14). -/
def CH_CTL_EN : Fld := ⟨0x30090, 0x0, 0x0, 16, 1⟩
/-- CH_CFG[15:0], RS (R404, 14). -/
def CH_CFG_FS : Fld := ⟨0x30094, 0x0, 0x142710, 0, 16⟩
/-- CH_CFG[23:16], RS (R404, 14). -/
def CH_CFG_HDR : Fld := ⟨0x30094, 0x0, 0x142710, 16, 8⟩
/-- CH_STAT[15:0], RO (R404, 14). -/
def CH_STAT_CMD : Fld := ⟨0x30098, 0x0, 0x0, 0, 16⟩
/-- CH_STAT[16:16], RO (R404, 14). -/
def CH_STAT_LIMITED : Fld := ⟨0x30098, 0x0, 0x0, 16, 1⟩
/-- CH_STAT[17:17], RO (R404, 14). -/
def CH_STAT_ON : Fld := ⟨0x30098, 0x0, 0x0, 17, 1⟩
/-- PLN_CTL[15:0], RS (R404, 14). -/
def PLN_CTL_HOLD : Fld := ⟨0x300C0, 0x0, 0x10A0E10, 0, 16⟩
/-- PLN_CTL[22:16], RS (R404, 14). -/
def PLN_CTL_ADD : Fld := ⟨0x300C0, 0x0, 0x10A0E10, 16, 7⟩
/-- PLN_CTL[23:23], RS (R404, 14). -/
def PLN_CTL_DRST_HOLD : Fld := ⟨0x300C0, 0x0, 0x10A0E10, 23, 1⟩
/-- PLN_CTL[24:24], RS (R404, 14). -/
def PLN_CTL_EN : Fld := ⟨0x300C0, 0x0, 0x10A0E10, 24, 1⟩
/-- PLN_FLUSH[15:0], RS (R404, 14). -/
def PLN_FLUSH_UJ : Fld := ⟨0x300C4, 0x0, 0x4EA, 0, 16⟩
/-- PLN_HOLDP[19:0], RS (R404, 14). -/
def PLN_HOLDP_MW : Fld := ⟨0x300C8, 0x0, 0x0, 0, 20⟩
/-- PLN_SEL[6:0], RW (R404, 14). -/
def PLN_SEL_SLOT : Fld := ⟨0x300CC, 0x0, 0x0, 0, 7⟩
/-- PLN_SLOTP[15:0], RS (R404, 14). -/
def PLN_SLOTP_MW : Fld := ⟨0x300D0, 0x0, 0x0, 0, 16⟩
/-- PLN_FAREA_LO[0:0], RS (R404, 14). -/
def PLN_FAREA_LO_EN : Fld := ⟨0x300D4, 0x0, 0x0, 0, 1⟩
/-- PLN_FAREA_LO[31:12], RS (R404, 14). -/
def PLN_FAREA_LO_BASE : Fld := ⟨0x300D4, 0x0, 0x0, 12, 20⟩
/-- PLN_FAREA_HI[13:0], RS (R404, 14). -/
def PLN_FAREA_HI_BASE : Fld := ⟨0x300D8, 0x0, 0x0, 0, 14⟩
/-- PLN_DOM0[31:0], RO (R404, 14). -/
def PLN_DOM0_SLOT : Fld := ⟨0x300E0, 0x0, 0x0, 0, 32⟩
/-- PLN_DOM1[31:0], RO (R404, 14). -/
def PLN_DOM1_SLOT : Fld := ⟨0x300E4, 0x0, 0x0, 0, 32⟩
/-- PLN_DOM2[31:0], RO (R404, 14). -/
def PLN_DOM2_SLOT : Fld := ⟨0x300E8, 0x0, 0x0, 0, 32⟩
/-- PLN_DROP0[31:0], W1C (R404, 14). -/
def PLN_DROP0_SLOT : Fld := ⟨0x300F0, 0x0, 0x0, 0, 32⟩
/-- PLN_DROP1[31:0], W1C (R404, 14). -/
def PLN_DROP1_SLOT : Fld := ⟨0x300F4, 0x0, 0x0, 0, 32⟩
/-- PLN_DROP2[31:0], W1C (R404, 14). -/
def PLN_DROP2_SLOT : Fld := ⟨0x300F8, 0x0, 0x0, 0, 32⟩
/-- PLN_EUSE_LO[31:0], RO (R404, 14). -/
def PLN_EUSE_LO_MJ : Fld := ⟨0x30100, 0x0, 0x0, 0, 32⟩
/-- PLN_EUSE_HI[31:0], RO (R404, 14). -/
def PLN_EUSE_HI_MJ : Fld := ⟨0x30104, 0x0, 0x0, 0, 32⟩
/-- PLN_RET[31:0], RO (R404, 14). -/
def PLN_RET_MS : Fld := ⟨0x30108, 0x0, 0x0, 0, 32⟩
/-- PWR_REQ[2:0], WO (R431, 15). -/
def PWR_REQ_TGT : Fld := ⟨0x40000, 0x0, 0x0, 0, 3⟩
/-- PWR_REQ[31:31], WO (R431, 15). -/
def PWR_REQ_GO : Fld := ⟨0x40000, 0x0, 0x0, 31, 1⟩
/-- PWR_STAT[2:0], RO (R431, 15). -/
def PWR_STAT_STATE : Fld := ⟨0x40004, 0x0, 0x0, 0, 3⟩
/-- PWR_STAT[3:3], RO (R431, 15). -/
def PWR_STAT_PREP : Fld := ⟨0x40004, 0x0, 0x0, 3, 1⟩
/-- PWR_STAT[4:4], RO (R431, 15). -/
def PWR_STAT_RUN : Fld := ⟨0x40004, 0x0, 0x0, 4, 1⟩
/-- PWR_STAT[7:5], RO (R431, 15). -/
def PWR_STAT_PEND : Fld := ⟨0x40004, 0x0, 0x0, 5, 3⟩
/-- PWR_STAT[8:8], RO (R431, 15). -/
def PWR_STAT_PENDV : Fld := ⟨0x40004, 0x0, 0x0, 8, 1⟩
/-- PWR_CTL[9:0], RS (R431, 15). -/
def PWR_CTL_PREP : Fld := ⟨0x40008, 0x0, 0x64, 0, 10⟩
/-- PWR_IDLE[11:0], RS (R431, 15). -/
def PWR_IDLE_T1 : Fld := ⟨0x4000C, 0x0, 0x2, 0, 12⟩
/-- PWR_IDLE[27:12], RS (R431, 15). -/
def PWR_IDLE_T2 : Fld := ⟨0x4000C, 0x0, 0x2, 12, 16⟩
/-- PWR_WAKE[0:0], RS (R431, 15). -/
def PWR_WAKE_FAB : Fld := ⟨0x40010, 0x0, 0x7, 0, 1⟩
/-- PWR_WAKE[1:1], RS (R431, 15). -/
def PWR_WAKE_RING : Fld := ⟨0x40010, 0x0, 0x7, 1, 1⟩
/-- PWR_WAKE[2:2], RS (R431, 15). -/
def PWR_WAKE_DB : Fld := ⟨0x40010, 0x0, 0x7, 2, 1⟩
/-- PWR_WAKE[3:3], RS (R431, 15). -/
def PWR_WAKE_RSV : Fld := ⟨0x40010, 0x0, 0x7, 3, 1⟩
/-- PWR_WCAUSE[7:0], W1C (R431, 15). -/
def PWR_WCAUSE_CAUSE : Fld := ⟨0x40014, 0x0, 0x0, 0, 8⟩
/-- PWR_WLAT1[19:0], RO (R431, 15). -/
def PWR_WLAT1_TICKS : Fld := ⟨0x40018, 0x0, 0x0, 0, 20⟩
/-- PWR_WLAT2[19:0], RO (R431, 15). -/
def PWR_WLAT2_TICKS : Fld := ⟨0x4001C, 0x0, 0x0, 0, 20⟩
/-- PWR_WLAT3[19:0], RO (R431, 15). -/
def PWR_WLAT3_TICKS : Fld := ⟨0x40020, 0x0, 0x0, 0, 20⟩
/-- PWR_REF[15:0], RO (R431, 15). -/
def PWR_REF_CNT : Fld := ⟨0x40024, 0x0, 0x0, 0, 16⟩
/-- PWR_REF[19:16], RO (R431, 15). -/
def PWR_REF_CODE : Fld := ⟨0x40024, 0x0, 0x0, 16, 4⟩
/-- PWR_REF[22:20], RO (R431, 15). -/
def PWR_REF_TGT : Fld := ⟨0x40024, 0x0, 0x0, 20, 3⟩
/-- PWR_REF[28:23], RO (R431, 15). -/
def PWR_REF_UNIT : Fld := ⟨0x40024, 0x0, 0x0, 23, 6⟩
/-- PWR_REF[29:29], RO (R431, 15). -/
def PWR_REF_ABORT : Fld := ⟨0x40024, 0x0, 0x0, 29, 1⟩
/-- PWR_CNT[15:0], RO (R431, 15). -/
def PWR_CNT_SUPERSEDED : Fld := ⟨0x40028, 0x0, 0x0, 0, 16⟩
/-- PWR_CNT[31:16], RO (R431, 15). -/
def PWR_CNT_REVERSAL : Fld := ⟨0x40028, 0x0, 0x0, 16, 16⟩
/-- PWR_CNT_CLR[0:0], WO (R431, 15). -/
def PWR_CNT_CLR_ALL : Fld := ⟨0x4002C, 0x0, 0x0, 0, 1⟩
/-- PWR_DON0[31:0], RO (R431, 15). -/
def PWR_DON0_ON : Fld := ⟨0x40030, 0x0, 0x0, 0, 32⟩
/-- PWR_DON1[17:0], RO (R431, 15). -/
def PWR_DON1_ON : Fld := ⟨0x40034, 0x0, 0x40000, 0, 18⟩
/-- PWR_DON1[18:18], RO (R431, 15). -/
def PWR_DON1_AON : Fld := ⟨0x40034, 0x0, 0x40000, 18, 1⟩
/-- PWR_DREQ[5:0], WO (R431, 15). -/
def PWR_DREQ_DOM : Fld := ⟨0x40038, 0x0, 0x0, 0, 6⟩
/-- PWR_DREQ[6:6], WO (R431, 15). -/
def PWR_DREQ_ON : Fld := ⟨0x40038, 0x0, 0x0, 6, 1⟩
/-- PWR_DREQ[31:31], WO (R431, 15). -/
def PWR_DREQ_GO : Fld := ⟨0x40038, 0x0, 0x0, 31, 1⟩
/-- PWR_RET_SPAD[31:0], RS (R431, 15). -/
def PWR_RET_SPAD_BANKS : Fld := ⟨0x4003C, 0x0, 0xFFFFFFFF, 0, 32⟩
/-- PWR_SPAD_LOST[31:0], W1C (R431, 15). -/
def PWR_SPAD_LOST_BANKS : Fld := ⟨0x40040, 0x0, 0x0, 0, 32⟩
/-- RST_SOFT[0:0], WO (R431, 15). -/
def RST_SOFT_GO : Fld := ⟨0x40050, 0x0, 0x0, 0, 1⟩
/-- RST_CTL[9:0], RS (R431, 15). -/
def RST_CTL_TMO : Fld := ⟨0x40054, 0x0, 0x64, 0, 10⟩
/-- RST_STAT[1:0], RO (R431, 15). -/
def RST_STAT_LAST : Fld := ⟨0x40058, 0x0, 0x0, 0, 2⟩
/-- RST_STAT[2:2], RO (R431, 15). -/
def RST_STAT_BUSY : Fld := ⟨0x40058, 0x0, 0x0, 2, 1⟩
/-- RST_STAT[31:16], RO (R431, 15). -/
def RST_STAT_DROPPED : Fld := ⟨0x40058, 0x0, 0x0, 16, 16⟩
/-- PP_REQ[2:0], WO (R432, 15). -/
def PP_REQ_OP : Fld := ⟨0x200900, 0x10000, 0x0, 0, 3⟩
/-- PP_REQ[31:31], WO (R432, 15). -/
def PP_REQ_GO : Fld := ⟨0x200900, 0x10000, 0x0, 31, 1⟩
/-- PP_STAT[2:0], RO (R432, 15). -/
def PP_STAT_PEND : Fld := ⟨0x200904, 0x10000, 0x0, 0, 3⟩
/-- PP_STAT[3:3], RO (R432, 15). -/
def PP_STAT_PENDV : Fld := ⟨0x200904, 0x10000, 0x0, 3, 1⟩
/-- PP_STAT[4:4], RO (R432, 15). -/
def PP_STAT_RUN : Fld := ⟨0x200904, 0x10000, 0x0, 4, 1⟩
/-- PP_STAT[15:8], RO (R432, 15). -/
def PP_STAT_REVERSALS : Fld := ⟨0x200904, 0x10000, 0x0, 8, 8⟩
/-- PP_WLAT[19:0], RO (R432, 15). -/
def PP_WLAT_TICKS : Fld := ⟨0x200908, 0x10000, 0x0, 0, 20⟩
/-- ENG_ID[3:0], RO (R469, 17). -/
def ENG_ID_VARIANT : Fld := ⟨0x0, 0x0, 0x0, 0, 4⟩
/-- ENG_ID[4:4], RO (R469, 17). -/
def ENG_ID_ENGINE : Fld := ⟨0x0, 0x0, 0x0, 4, 1⟩
/-- ENG_ID[11:8], RO (R469, 17). -/
def ENG_ID_DEVICE : Fld := ⟨0x0, 0x0, 0x0, 8, 4⟩
/-- ENG_ID[23:16], RO (R469, 17). -/
def ENG_ID_STEP : Fld := ⟨0x0, 0x0, 0x0, 16, 8⟩
/-- ENG_FW[15:0], RO (R469, 17). -/
def ENG_FW_MINOR : Fld := ⟨0x4, 0x0, 0x0, 0, 16⟩
/-- ENG_FW[31:16], RO (R469, 17). -/
def ENG_FW_MAJOR : Fld := ⟨0x4, 0x0, 0x0, 16, 16⟩
/-- ENG_CAP_PORT[19:0], RO (R469, 17). -/
def ENG_CAP_PORT_MASK : Fld := ⟨0x10, 0x0, 0x0, 0, 20⟩
/-- ENG_CAP_FAB[31:0], RO (R469, 17). -/
def ENG_CAP_FAB_MASK : Fld := ⟨0x14, 0x0, 0x0, 0, 32⟩
/-- ENG_CAP_STALL[16:0], RO (R469, 17). -/
def ENG_CAP_STALL_COUNT : Fld := ⟨0x18, 0x0, 0x0, 0, 17⟩
/-- ENG_CAP_STALL[24:17], RO (R469, 17). -/
def ENG_CAP_STALL_GROUPS : Fld := ⟨0x18, 0x0, 0x0, 17, 8⟩
/-- ENG_CAP_HOME[21:0], RO (R469, 17). -/
def ENG_CAP_HOME_ENTRIES : Fld := ⟨0x1C, 0x0, 0x0, 0, 22⟩
/-- ENG_CAP_LANT[2:0], RO (R469, 17). -/
def ENG_CAP_LANT_CTX : Fld := ⟨0x20, 0x0, 0x0, 0, 3⟩
/-- ENG_CAP_SPAD[5:0], RO (R469, 17). -/
def ENG_CAP_SPAD_BANKS : Fld := ⟨0x24, 0x0, 0x0, 0, 6⟩
/-- ENG_CAP_DRAM[15:0], RO (R469, 17). -/
def ENG_CAP_DRAM_MAX_G : Fld := ⟨0x28, 0x0, 0x0, 0, 16⟩
/-- CFG_APPLY[0:0], RW (R470, 17). -/
def CFG_APPLY_HOLD : Fld := ⟨0x200, 0x0, 0x0, 0, 1⟩
/-- CFG_APPLY[1:1], WO (R470, 17). -/
def CFG_APPLY_COMMIT : Fld := ⟨0x200, 0x0, 0x0, 1, 1⟩
/-- CFG_APPLY[8:8], RO (R470, 17). -/
def CFG_APPLY_PEND : Fld := ⟨0x200, 0x0, 0x0, 8, 1⟩
/-- CFG_RDSEL[0:0], RW (R470, 17). -/
def CFG_RDSEL_FORCE : Fld := ⟨0x204, 0x0, 0x0, 0, 1⟩
/-- CFG_CRC_CTL[0:0], RW (R470, 17). -/
def CFG_CRC_CTL_EN : Fld := ⟨0x208, 0x0, 0x0, 0, 1⟩
/-- CFG_CRC_REF[31:0], RW (R470, 17). -/
def CFG_CRC_REF_REF : Fld := ⟨0x20C, 0x0, 0x0, 0, 32⟩
/-- CFG_CRC_CUR[31:0], RO (R470, 17). -/
def CFG_CRC_CUR_CUR : Fld := ⟨0x210, 0x0, 0x0, 0, 32⟩
/-- CFG_CRC_STAT[0:0], W1C (R470, 17). -/
def CFG_CRC_STAT_ALARM : Fld := ⟨0x214, 0x0, 0x0, 0, 1⟩
/-- CFG_CRC_STAT[1:1], RO (R470, 17). -/
def CFG_CRC_STAT_ARMED : Fld := ⟨0x214, 0x0, 0x0, 1, 1⟩
/-- CFG_CRC_STAT[2:2], RO (R470, 17). -/
def CFG_CRC_STAT_BUSY : Fld := ⟨0x214, 0x0, 0x0, 2, 1⟩
/-- CFG_CRC_STAT[3:3], W1C (R470, 17). -/
def CFG_CRC_STAT_COMMITTED : Fld := ⟨0x214, 0x0, 0x0, 3, 1⟩
/-- CFG_CRC_STAT[31:16], RO (R470, 17). -/
def CFG_CRC_STAT_PASSES : Fld := ⟨0x214, 0x0, 0x0, 16, 16⟩
/-- CFG_CRC_LEN[15:0], RO (R470, 17). -/
def CFG_CRC_LEN_WORDS : Fld := ⟨0x218, 0x0, 0x0, 0, 16⟩
/-- CFG_REJ[21:0], RO (R470, 17). -/
def CFG_REJ_OFFSET : Fld := ⟨0x21C, 0x0, 0x0, 0, 22⟩
/-- CFG_REJ[25:22], RO (R470, 17). -/
def CFG_REJ_REASON : Fld := ⟨0x21C, 0x0, 0x0, 22, 4⟩
/-- CFG_REJ[31:26], RO (R470, 17). -/
def CFG_REJ_COUNT : Fld := ⟨0x21C, 0x0, 0x0, 26, 6⟩
/-- CFG_REJ_CLR[0:0], WO (R470, 17). -/
def CFG_REJ_CLR_ALL : Fld := ⟨0x220, 0x0, 0x0, 0, 1⟩
/-- SPAD_PERR[15:0], RO (R471, 17). -/
def SPAD_PERR_COUNT : Fld := ⟨0x3C0000, 0x0, 0x0, 0, 16⟩
/-- SPAD_PERR[20:16], RO (R471, 17). -/
def SPAD_PERR_BANK : Fld := ⟨0x3C0000, 0x0, 0x0, 16, 5⟩
/-- SPAD_PWORD[15:0], RO (R471, 17). -/
def SPAD_PWORD_WORD : Fld := ⟨0x3C0004, 0x0, 0x0, 0, 16⟩
/-- SPAD_CLR[0:0], WO (R471, 17). -/
def SPAD_CLR_ALL : Fld := ⟨0x3C0008, 0x0, 0x0, 0, 1⟩
/-- INT_STAT0[31:0], W1C (R473, 17). -/
def INT_STAT0_CAUSE : Fld := ⟨0x100, 0x0, 0x0, 0, 32⟩
/-- INT_STAT1[31:0], W1C (R473, 17). -/
def INT_STAT1_CAUSE : Fld := ⟨0x104, 0x0, 0x0, 0, 32⟩
/-- INT_EN0[31:0], RW (R473, 17). -/
def INT_EN0_EN : Fld := ⟨0x108, 0x0, 0x0, 0, 32⟩
/-- INT_EN1[31:0], RW (R473, 17). -/
def INT_EN1_EN : Fld := ⟨0x10C, 0x0, 0x0, 0, 32⟩
/-- INT_SET0[31:0], W1S (R473, 17). -/
def INT_SET0_SET : Fld := ⟨0x110, 0x0, 0x0, 0, 32⟩
/-- INT_SET1[31:0], W1S (R473, 17). -/
def INT_SET1_SET : Fld := ⟨0x114, 0x0, 0x0, 0, 32⟩
/-- INT_OUT[31:0], RO (R473, 17). -/
def INT_OUT_LEVEL : Fld := ⟨0x118, 0x0, 0x0, 0, 32⟩
/-- INT_PSEL[5:0], RW (R473, 17). -/
def INT_PSEL_CAUSE : Fld := ⟨0x11C, 0x0, 0x0, 0, 6⟩
/-- INT_PORTS[31:0], W1C (R473, 17). -/
def INT_PORTS_UNITS : Fld := ⟨0x120, 0x0, 0x0, 0, 32⟩
/-- INT_ROUTE[4:0], RW (R473, 17). -/
def INT_ROUTE_OUT0 : Fld := ⟨0x140, 0x4, 0x0, 0, 5⟩
/-- INT_ROUTE[12:8], RW (R473, 17). -/
def INT_ROUTE_OUT1 : Fld := ⟨0x140, 0x4, 0x0, 8, 5⟩
/-- INT_ROUTE[20:16], RW (R473, 17). -/
def INT_ROUTE_OUT2 : Fld := ⟨0x140, 0x4, 0x0, 16, 5⟩
/-- INT_ROUTE[28:24], RW (R473, 17). -/
def INT_ROUTE_OUT3 : Fld := ⟨0x140, 0x4, 0x0, 24, 5⟩
/-- HOME_DUR_FOOT0[31:0], RO (R318, 11). -/
def HOME_DUR_FOOT0_SLOT : Fld := ⟨0xA0040, 0x0, 0x0, 0, 32⟩
/-- HOME_DUR_FOOT1[31:0], RO (R318, 11). -/
def HOME_DUR_FOOT1_SLOT : Fld := ⟨0xA0044, 0x0, 0x0, 0, 32⟩
/-- HOME_DUR_FOOT2[7:0], RO (R318, 11). -/
def HOME_DUR_FOOT2_SLOT : Fld := ⟨0xA0048, 0x0, 0x0, 0, 8⟩
/-- HOME_DUR_FOOT2[8:8], RO (R318, 11). -/
def HOME_DUR_FOOT2_SPAD : Fld := ⟨0xA0048, 0x0, 0x0, 8, 1⟩
/-- HOME_DUR_CTL[0:0], WO (R318, 11). -/
def HOME_DUR_CTL_CLR : Fld := ⟨0xA004C, 0x0, 0x0, 0, 1⟩
/-- LCTX_DUR_FOOT0[31:0], RO (R343, 12). -/
def LCTX_DUR_FOOT0_SLOT : Fld := ⟨0x80140, 0x100, 0x0, 0, 32⟩
/-- LCTX_DUR_FOOT1[31:0], RO (R343, 12). -/
def LCTX_DUR_FOOT1_SLOT : Fld := ⟨0x80144, 0x100, 0x0, 0, 32⟩
/-- LCTX_DUR_FOOT2[7:0], RO (R343, 12). -/
def LCTX_DUR_FOOT2_SLOT : Fld := ⟨0x80148, 0x100, 0x0, 0, 8⟩
/-- LCTX_DUR_FOOT2[8:8], RO (R343, 12). -/
def LCTX_DUR_FOOT2_SPAD : Fld := ⟨0x80148, 0x100, 0x0, 8, 1⟩
/-- LCTX_DUR_CTL[0:0], WO (R343, 12). -/
def LCTX_DUR_CTL_CLR : Fld := ⟨0x8014C, 0x100, 0x0, 0, 1⟩

/-- Register descriptions, part 0. -/
def regTable0 : List RegDesc := [
  ⟨0x28000, 0x100, 0, 8, 0x8, 0x1FF, 0x0, 0x0, 0x0, [⟨1, 4, 0, 8, 1⟩, ⟨5, 3, 0, 4, 1⟩]⟩, -- IS_CTL
  ⟨0x28004, 0x100, 0, 8, 0x0, 0xFFFF, 0x0, 0x0, 0x0, []⟩, -- IS_BASE
  ⟨0x28008, 0x100, 0, 8, 0x0, 0x1FFFF, 0x0, 0x0, 0x0, [⟨0, 17, 0, 65532, 2⟩]⟩, -- IS_SIZE
  ⟨0x28010, 0x100, 0, 8, 0x0, 0x7FF001F, 0x0, 0x0, 0x0, []⟩, -- IS_MEM
  ⟨0xC0000, 0x1000, 0, 32, 0x40FF02, 0x7FFFF3, 0x0, 0x0, 0x0, [⟨16, 7, 1, 64, 1⟩]⟩, -- FP_CTL
  ⟨0xC0004, 0x1000, 0, 32, 0x80, 0x3FF, 0x0, 0x0, 0x0, [⟨0, 10, 8, 512, 1⟩]⟩, -- FP_ALLOC
  ⟨0xC0008, 0x1000, 0, 32, 0x0, 0x0, 0x0, 0x0, 0x0, []⟩, -- FP_STATUS
  ⟨0xC000C, 0x1000, 0, 32, 0x0, 0x0, 0x0, 0x3F, 0x0, []⟩, -- FP_PROTO
  ⟨0xC0010, 0x1000, 0, 32, 0x0, 0x0, 0x0, 0x0, 0x0, []⟩, -- FP_PROTO_CNT
  ⟨0xC0020, 0x1000, 0, 32, 0x0, 0x0, 0x0, 0x0, 0x0, []⟩, -- FP_DUR_FOOT0
  ⟨0xC0024, 0x1000, 0, 32, 0x0, 0x0, 0x0, 0x0, 0x0, []⟩, -- FP_DUR_FOOT1
  ⟨0xC0028, 0x1000, 0, 32, 0x0, 0x0, 0x0, 0x0, 0x0, []⟩, -- FP_DUR_FOOT2
  ⟨0xC002C, 0x1000, 0, 32, 0x0, 0x0, 0x0, 0x0, 0x1, []⟩, -- FP_DUR_CTL
  ⟨0xA0F00, 0x0, 0, 1, 0x0, 0x0, 0x0, 0x0, 0x0, []⟩, -- HOME_RSV_LOSS
  ⟨0xA0F04, 0x0, 0, 1, 0x0, 0x0, 0x0, 0x0, 0x1, []⟩, -- HOME_RSV_CLR
  ⟨0x21000, 0x10, 0, 256, 0xFFF3, 0xFFF7, 0x0, 0x0, 0x0, []⟩, -- BR_CFG
  ⟨0x21004, 0x10, 0, 256, 0x0, 0xFFFF, 0x0, 0x0, 0x0, []⟩, -- BR_TGT
  ⟨0x21008, 0x10, 0, 256, 0x0, 0x0, 0x0, 0x0, 0x0, []⟩, -- BR_STAT
  ⟨0x2100C, 0x10, 0, 256, 0x0, 0x0, 0x0, 0x0, 0x80000000, []⟩, -- BR_MISS
  ⟨0x20000, 0x0, 0, 1, 0x19004, 0xFFFFF, 0x0, 0x0, 0x0, [⟨0, 8, 1, 255, 1⟩]⟩, -- SCH_CTL
  ⟨0x20004, 0x0, 0, 1, 0x3E8, 0xFFFF, 0x0, 0x0, 0x0, []⟩, -- SCH_MISS_CTL
  ⟨0x20008, 0x0, 0, 1, 0x0, 0x0, 0x0, 0x100, 0x0, []⟩, -- SCH_MISS_LOG
  ⟨0x2000C, 0x0, 0, 1, 0x0, 0xFFFFFFFF, 0x0, 0x0, 0x0, []⟩, -- SCH_SRC_TKT
  ⟨0x200100, 0x10000, 0, 20, 0x280840A2, 0xFFFFFFFF, 0x0, 0x0, 0x0, [⟨0, 2, 0, 2, 1⟩, ⟨2, 8, 1, 255, 1⟩, ⟨10, 5, 1, 31, 1⟩]⟩, -- PS_CTL
  ⟨0x200104, 0x10000, 0, 20, 0x201030, 0xFFFFFF, 0x0, 0x0, 0x0, [⟨0, 8, 2, 255, 1⟩, ⟨16, 8, 0, 128, 1⟩]⟩, -- PS_WM
  ⟨0x200108, 0x10000, 0, 20, 0xA54, 0xFFFF, 0x0, 0x0, 0x0, [⟨0, 3, 0, 4, 1⟩, ⟨3, 3, 0, 4, 1⟩, ⟨6, 2, 0, 1, 1⟩, ⟨8, 8, 1, 255, 1⟩]⟩, -- PS_SLOT
  ⟨0x20010C, 0x10000, 0, 20, 0x0, 0x0, 0x0, 0x0, 0x0, []⟩, -- PS_STAT
  ⟨0x200110, 0x10000, 0, 20, 0x0, 0x0, 0x0, 0x0, 0x0, []⟩, -- PS_CNT0
  ⟨0x200114, 0x10000, 0, 20, 0x0, 0x0, 0x0, 0x0, 0x0, []⟩, -- PS_CNT1
  ⟨0x200118, 0x10000, 0, 20, 0x0, 0x0, 0x0, 0x0, 0x1, []⟩] -- PS_CNT_CLR

/-- Register descriptions, part 1. -/
def regTable1 : List RegDesc := [
  ⟨0x10000, 0x0, 0, 1, 0x0, 0x0, 0x0, 0x0, 0x0, []⟩, -- TB_COUNT_LO
  ⟨0x10004, 0x0, 0, 1, 0x0, 0x0, 0x0, 0x0, 0x0, []⟩, -- TB_COUNT_HI
  ⟨0x10008, 0x0, 0, 1, 0x0, 0x0, 0xFFFFFFFF, 0x0, 0x0, []⟩, -- TB_PRESET_LO
  ⟨0x1000C, 0x0, 0, 1, 0x0, 0x0, 0xFFFFFFFF, 0x0, 0x0, []⟩, -- TB_PRESET_HI
  ⟨0x10010, 0x0, 0, 1, 0x0, 0x0, 0x0, 0x0, 0x3, []⟩, -- TB_STEP
  ⟨0x10014, 0x0, 0, 1, 0x428, 0x3FFFF, 0x0, 0x0, 0x0, [⟨2, 8, 1, 255, 1⟩]⟩, -- TB_FED
  ⟨0x10018, 0x0, 0, 1, 0x0, 0xFFFF, 0x0, 0x0, 0x0, []⟩, -- TB_EADJ
  ⟨0x1001C, 0x0, 0, 1, 0x0, 0x0, 0x0, 0x40, 0x0, []⟩, -- TB_ECAP
  ⟨0x10020, 0x0, 0, 1, 0x0, 0x0, 0x0, 0x0, 0x0, []⟩, -- TB_ECNT
  ⟨0x10024, 0x0, 0, 1, 0x0, 0x0, 0x0, 0x70, 0x0, []⟩, -- TB_STAT
  ⟨0x10028, 0x0, 0, 1, 0x0, 0x0, 0xFFFFFFFF, 0x0, 0x0, []⟩, -- TB_ALARM_LO
  ⟨0x1002C, 0x0, 0, 1, 0x0, 0x0, 0xFFFFFFFF, 0x0, 0x0, []⟩, -- TB_ALARM_HI
  ⟨0x10030, 0x0, 0, 1, 0x0, 0x0, 0x5, 0x2, 0x0, []⟩, -- TB_ALARM_CTL
  ⟨0x10034, 0x0, 0, 1, 0x40, 0x3FF, 0x0, 0x0, 0x0, [⟨0, 10, 16, 1023, 1⟩]⟩, -- TB_LCTL
  ⟨0x10038, 0x0, 0, 1, 0x0, 0x0, 0x0, 0x0, 0x0, []⟩, -- TB_LSTAT
  ⟨0x1003C, 0x0, 0, 1, 0x0, 0x0, 0x0, 0x0, 0xF, []⟩, -- TB_LCANCEL
  ⟨0x10040, 0x0, 0, 1, 0x0, 0x0, 0x0, 0x0, 0x1, []⟩, -- TB_EPULSE
  ⟨0x200200, 0x10000, 0, 20, 0x60C10, 0xFFFFF, 0x0, 0x0, 0x0, [⟨8, 8, 1, 255, 1⟩, ⟨16, 4, 0, 10, 1⟩]⟩, -- TS_CTL
  ⟨0x200204, 0x10000, 0, 20, 0x0, 0xFFFF, 0x0, 0x0, 0x0, []⟩, -- TS_ASYM
  ⟨0x200208, 0x10000, 0, 20, 0x0, 0x0, 0x0, 0x0, 0x0, []⟩, -- TS_MEAS
  ⟨0x20020C, 0x10000, 0, 20, 0x0, 0x0, 0x0, 0x0, 0x0, []⟩, -- TS_LEAD
  ⟨0x200210, 0x10000, 0, 20, 0x0, 0x0, 0x0, 0x0, 0x0, []⟩, -- TS_THETA
  ⟨0x200214, 0x10000, 0, 20, 0x0, 0x0, 0x0, 0x0, 0x0, []⟩, -- TS_CNT0
  ⟨0x200218, 0x10000, 0, 20, 0x0, 0x0, 0x0, 0x0, 0x0, []⟩, -- TS_CNT1
  ⟨0x20021C, 0x10000, 0, 20, 0x0, 0x0, 0x0, 0x0, 0x1, []⟩, -- TS_CNT_CLR
  ⟨0x200220, 0x10000, 0, 20, 0x0, 0x7FF, 0x0, 0x0, 0x0, []⟩, -- PT_FTRIM
  ⟨0x200300, 0x10000, 0, 20, 0x0, 0xFFFFFFFF, 0x0, 0x0, 0x0, []⟩, -- DP_T0
  ⟨0x200304, 0x10000, 0, 20, 0x0, 0xFFFFFFFF, 0x0, 0x0, 0x0, []⟩, -- DP_T1
  ⟨0x200308, 0x10000, 0, 20, 0x0, 0xFFFFFFFF, 0x0, 0x0, 0x0, []⟩, -- DP_T2
  ⟨0x20030C, 0x10000, 0, 20, 0x0, 0xFFFFFFFF, 0x0, 0x0, 0x0, []⟩] -- DP_T3

/-- Register descriptions, part 2. -/
def regTable2 : List RegDesc := [
  ⟨0x200310, 0x10000, 0, 20, 0x0, 0xFFFFFFFF, 0x0, 0x0, 0x0, []⟩, -- DP_T4
  ⟨0x200314, 0x10000, 0, 20, 0x0, 0xFFFFFFFF, 0x0, 0x0, 0x0, []⟩, -- DP_T5
  ⟨0x200318, 0x10000, 0, 20, 0x0, 0xFFFFFF, 0x0, 0x0, 0x0, []⟩, -- DP_T6
  ⟨0x20031C, 0x10000, 0, 20, 0x0, 0x1FFFFFFF, 0x0, 0x0, 0x0, []⟩, -- DP_T7
  ⟨0x200320, 0x10000, 0, 20, 0x120000, 0xFFFFFF, 0x0, 0x0, 0x0, []⟩, -- DP_T8
  ⟨0x200000, 0x10000, 0, 4, 0x11, 0x1F, 0x0, 0x0, 0x0, [⟨2, 3, 0, 4, 1⟩]⟩, -- DP_CTL
  ⟨0x200004, 0x10000, 0, 4, 0x0, 0x0, 0x0, 0x0, 0x0, []⟩, -- DP_STAT
  ⟨0x200008, 0x10000, 0, 4, 0x0, 0x0, 0x0, 0x0, 0x0, []⟩, -- DP_POP
  ⟨0x20000C, 0x10000, 0, 4, 0x18, 0x1F, 0x0, 0x0, 0x0, [⟨0, 4, 6, 12, 1⟩]⟩, -- DP_MAP
  ⟨0x200330, 0x10000, 0, 20, 0x30A2040, 0x7FFFFFF, 0x0, 0x0, 0x0, [⟨8, 8, 1, 255, 1⟩, ⟨16, 8, 1, 255, 1⟩, ⟨24, 3, 1, 7, 1⟩]⟩, -- DP_ALERT
  ⟨0x200334, 0x10000, 0, 20, 0x0, 0x0, 0x0, 0x0, 0x0, []⟩, -- DP_CNT0
  ⟨0x200338, 0x10000, 0, 20, 0x0, 0x0, 0x0, 0x0, 0x0, []⟩, -- DP_CNT1
  ⟨0x20033C, 0x10000, 0, 20, 0x0, 0x0, 0x0, 0x0, 0x0, []⟩, -- DP_CNT2
  ⟨0x200340, 0x10000, 0, 20, 0x0, 0x0, 0x0, 0x0, 0x1, []⟩, -- DP_CNT_CLR
  ⟨0x200344, 0x10000, 0, 20, 0x0, 0x0, 0x0, 0x0, 0x0, []⟩, -- DP_RFM
  ⟨0x200348, 0x10000, 0, 20, 0x80, 0xFF, 0x0, 0x0, 0x0, []⟩, -- DP_ZQ
  ⟨0x200350, 0x10000, 0, 20, 0x1000A, 0x1FFFF, 0x0, 0x0, 0x0, []⟩, -- DP_SR
  ⟨0x200354, 0x10000, 0, 4, 0x3, 0x3, 0x0, 0x30, 0x0, []⟩, -- DP_PASR
  ⟨0x200400, 0x10000, 0, 4, 0x7D12, 0xFF1F, 0x0, 0x0, 0x0, [⟨0, 4, 0, 5, 1⟩, ⟨8, 8, 1, 255, 1⟩]⟩, -- DP_SB
  ⟨0x200404, 0x10000, 0, 4, 0x0, 0x0, 0x0, 0x0, 0x0, []⟩, -- DP_TEMP
  ⟨0x200500, 0x10000, 0, 20, 0x0, 0x0, 0x0, 0x0, 0x0, []⟩, -- DP_PPR_CNT
  ⟨0x200000, 0x10000, 4, 16, 0x6030, 0xFF77, 0x0, 0x0, 0x0, [⟨1, 2, 0, 2, 1⟩, ⟨4, 3, 0, 3, 1⟩, ⟨8, 8, 1, 255, 1⟩]⟩, -- SP_CTL
  ⟨0x200004, 0x10000, 4, 16, 0x0, 0x0, 0x0, 0x0, 0x0, []⟩, -- SP_STAT
  ⟨0x200008, 0x10000, 4, 16, 0x0, 0x0, 0x0, 0x0, 0x0, []⟩, -- SP_POP
  ⟨0x20000C, 0x10000, 4, 16, 0x198, 0x1FF, 0x0, 0x0, 0x0, [⟨0, 4, 6, 12, 1⟩, ⟨4, 4, 7, 13, 1⟩]⟩, -- SP_MAP
  ⟨0x200354, 0x10000, 4, 16, 0xF, 0xF, 0x0, 0xF00, 0x0, []⟩, -- SP_PASR
  ⟨0x200404, 0x10000, 4, 16, 0x0, 0x0, 0x0, 0x0, 0x0, []⟩, -- SP_TEMP
  ⟨0x200408, 0x10000, 4, 16, 0x0, 0x0, 0x0, 0x0, 0x0, []⟩, -- SP_TEMPV
  ⟨0x200600, 0x10000, 4, 16, 0x280A0400, 0xFFFF07FF, 0x0, 0x0, 0x0, [⟨0, 11, 1, 1024, 1⟩, ⟨16, 8, 1, 255, 1⟩, ⟨24, 4, 1, 15, 1⟩, ⟨28, 4, 1, 15, 1⟩]⟩, -- SL_CTL
  ⟨0x200604, 0x10000, 4, 16, 0xC0000000, 0x0, 0x0, 0x0, 0x0, []⟩] -- SL_STAT

/-- Register descriptions, part 3. -/
def regTable3 : List RegDesc := [
  ⟨0x200608, 0x10000, 4, 16, 0xFFFFFFFF, 0x0, 0x0, 0x0, 0x0, []⟩, -- SL_LANE_RX
  ⟨0x20060C, 0x10000, 4, 16, 0xFFFFFFFF, 0x0, 0x0, 0x0, 0x0, []⟩, -- SL_LANE_TX
  ⟨0x200610, 0x10000, 4, 16, 0x72C4, 0x1FF, 0x0, 0x0, 0x0, []⟩, -- SL_TXEQ
  ⟨0x200614, 0x10000, 4, 16, 0x146401, 0xFFFF01, 0x0, 0x0, 0x0, [⟨8, 8, 8, 255, 1⟩, ⟨16, 8, 1, 255, 1⟩]⟩, -- SL_RECAL
  ⟨0x200618, 0x10000, 4, 16, 0x400004, 0xFFFFFF, 0x0, 0x0, 0x0, [⟨0, 8, 1, 255, 1⟩]⟩, -- SL_FAULT
  ⟨0x20061C, 0x10000, 4, 16, 0x0, 0x1FFF, 0x0, 0x0, 0x0, [⟨11, 2, 0, 1, 1⟩]⟩, -- SL_LOOP
  ⟨0x200620, 0x10000, 4, 16, 0x0, 0x0, 0x0, 0x0, 0x0, []⟩, -- SL_CNT0
  ⟨0x200624, 0x10000, 4, 16, 0x0, 0x0, 0x0, 0x0, 0x0, []⟩, -- SL_CNT1
  ⟨0x200628, 0x10000, 4, 16, 0x0, 0x0, 0x0, 0x0, 0x0, []⟩, -- SL_CNT2
  ⟨0x20062C, 0x10000, 4, 16, 0x0, 0x0, 0x0, 0x0, 0x1, []⟩, -- SL_CNT_CLR
  ⟨0x200630, 0x10000, 4, 16, 0x0, 0xFFFF, 0x0, 0x0, 0x0, []⟩, -- SL_BOARD
  ⟨0x200700, 0x10000, 0, 20, 0x6D91, 0x1FFFF, 0x0, 0x0, 0x0, [⟨2, 8, 10, 255, 1⟩, ⟨10, 3, 1, 7, 1⟩, ⟨13, 4, 1, 15, 1⟩]⟩, -- TR_CTL
  ⟨0x200704, 0x10000, 0, 20, 0x10320592, 0x3FFFFFFF, 0x0, 0x0, 0x0, [⟨4, 6, 1, 50, 1⟩, ⟨14, 6, 1, 63, 1⟩, ⟨24, 6, 1, 63, 1⟩]⟩, -- TR_TOL
  ⟨0x200708, 0x10000, 0, 20, 0x0, 0x0, 0x0, 0x400, 0x0, []⟩, -- TR_STAT
  ⟨0x20070C, 0x10000, 0, 20, 0x0, 0x0, 0x0, 0x0, 0x0, []⟩, -- TR_CNT0
  ⟨0x200710, 0x10000, 0, 20, 0x0, 0x0, 0x0, 0x0, 0x0, []⟩, -- TR_CNT1
  ⟨0x200714, 0x10000, 0, 20, 0x0, 0x0, 0x0, 0x0, 0x1, []⟩, -- TR_CNT_CLR
  ⟨0x200718, 0x10000, 0, 20, 0x0, 0x0, 0x1FFF, 0x0, 0x0, []⟩, -- TR_QSEL
  ⟨0x20071C, 0x10000, 0, 20, 0x0, 0x0, 0x0, 0x0, 0x0, []⟩, -- TR_QDAT0
  ⟨0x200720, 0x10000, 0, 20, 0x0, 0x0, 0x0, 0x0, 0x0, []⟩, -- TR_QDAT1
  ⟨0x200724, 0x10000, 0, 20, 0x0, 0x0, 0xFF, 0x0, 0x0, []⟩, -- TR_TRIM_SEL
  ⟨0x200728, 0x10000, 0, 20, 0x800000, 0x1FF0000, 0x0, 0x0, 0x0, []⟩, -- TR_TRIM_DAT
  ⟨0x20072C, 0x10000, 0, 20, 0x4, 0xF, 0x0, 0x0, 0x0, [⟨0, 4, 1, 15, 1⟩]⟩, -- TR_SLDRIFT
  ⟨0x200800, 0x10000, 0, 20, 0x1905041, 0xFFFFFFFF, 0x0, 0x0, 0x0, [⟨0, 2, 0, 2, 1⟩, ⟨2, 8, 1, 255, 1⟩]⟩, -- EC_CTL
  ⟨0x200804, 0x10000, 0, 20, 0xFFFFFFFF, 0xFFFFFFFF, 0x0, 0x0, 0x0, []⟩, -- EC_MARK0
  ⟨0x200808, 0x10000, 0, 20, 0xFFFFFFFF, 0xFFFFFFFF, 0x0, 0x0, 0x0, []⟩, -- EC_MARK1
  ⟨0x20080C, 0x10000, 0, 20, 0x0, 0x0, 0x0, 0x0, 0x0, []⟩, -- EC_CNT0
  ⟨0x200810, 0x10000, 0, 20, 0x0, 0x0, 0x0, 0x0, 0x0, []⟩, -- EC_CNT1
  ⟨0x200814, 0x10000, 0, 20, 0x0, 0x0, 0x0, 0x0, 0x0, []⟩, -- EC_CNT2
  ⟨0x200818, 0x10000, 0, 20, 0x0, 0x0, 0xFF, 0x0, 0x0, []⟩] -- EC_DEVSEL

/-- Register descriptions, part 4. -/
def regTable4 : List RegDesc := [
  ⟨0x20081C, 0x10000, 0, 20, 0x0, 0x0, 0x0, 0x0, 0x0, []⟩, -- EC_DEVCNT
  ⟨0x200820, 0x10000, 0, 20, 0x0, 0x0, 0x0, 0x0, 0x1, []⟩, -- EC_CNT_CLR
  ⟨0x200840, 0x10000, 0, 20, 0x980, 0x1FFF, 0x0, 0x0, 0x0, [⟨0, 2, 0, 2, 1⟩, ⟨9, 4, 1, 15, 1⟩]⟩, -- RM_CTL
  ⟨0x200844, 0x10000, 0, 20, 0x0, 0x0, 0x0, 0x300, 0x0, []⟩, -- RM_STAT
  ⟨0x200848, 0x10000, 0, 20, 0x0, 0x0, 0x0, 0x0, 0xBFFFFFFF, []⟩, -- RM_ADD
  ⟨0x20084C, 0x10000, 0, 20, 0x0, 0x0, 0x3F, 0x0, 0x0, []⟩, -- RM_SEL
  ⟨0x200850, 0x10000, 0, 20, 0x0, 0x0, 0x0, 0x0, 0x0, []⟩, -- RM_ENT
  ⟨0x60000, 0x0, 0, 1, 0x31, 0x1FF, 0x0, 0x0, 0x0, [⟨1, 8, 1, 255, 1⟩]⟩, -- SCR_CTL
  ⟨0x60010, 0x0, 0, 1, 0x3E8, 0xFFFF, 0x0, 0x0, 0x0, []⟩, -- EL_CTL
  ⟨0x60014, 0x0, 0, 1, 0x0, 0x0, 0x0, 0x0, 0x1FFFFF, []⟩, -- EL_CLR
  ⟨0x60020, 0x0, 0, 1, 0x900, 0x0, 0x7FFF, 0x0, 0x0, []⟩, -- MT_CTL
  ⟨0x60024, 0x0, 0, 1, 0x0, 0x0, 0x0, 0x0, 0x3, []⟩, -- MT_GO
  ⟨0x60028, 0x0, 0, 1, 0x0, 0x0, 0x0, 0xE, 0x0, []⟩, -- MT_STAT
  ⟨0x6002C, 0x0, 0, 1, 0x0, 0x0, 0xFFFFFFFF, 0x0, 0x0, []⟩, -- MT_FENCE
  ⟨0x60030, 0x0, 0, 1, 0x1, 0x0, 0x3, 0x0, 0x0, []⟩, -- MT_BOOT
  ⟨0x60034, 0x0, 0, 1, 0x0, 0x0, 0xFF, 0x0, 0x0, []⟩, -- SR_SEL
  ⟨0x60038, 0x0, 0, 1, 0x0, 0x0, 0x0, 0x0, 0x0, []⟩, -- SR_STAT
  ⟨0x60100, 0x4, 0, 20, 0x0, 0x0, 0x0, 0x10000, 0x0, []⟩, -- SCR_PASS
  ⟨0x60200, 0x4, 0, 21, 0x0, 0x0, 0x3F00, 0x0, 0x0, []⟩, -- EL_PTR
  ⟨0x380000, 0x0, 0, 1, 0x64, 0xFFFF, 0x0, 0x0, 0x0, []⟩, -- ST_GCTL
  ⟨0x380004, 0x0, 0, 1, 0x0, 0x0, 0x0, 0x0, 0x0, []⟩, -- ST_GSTAT
  ⟨0x380008, 0x0, 0, 1, 0x0, 0x0, 0x0, 0x0, 0x0, []⟩, -- ST_ECNT
  ⟨0x38000C, 0x0, 0, 1, 0x0, 0x0, 0x0, 0x0, 0x1, []⟩, -- ST_ECNT_CLR
  ⟨0x380800, 0x4, 0, 4, 0x0, 0x0, 0x0, 0xFFFFFFFF, 0x0, []⟩, -- ST_GPEND
  ⟨0x381000, 0x8, 0, 128, 0x0, 0x0, 0xFFFFFFFF, 0x0, 0x0, []⟩, -- ST_GLVL
  ⟨0x381004, 0x8, 0, 128, 0x0, 0x0, 0x0, 0x0, 0x0, []⟩, -- ST_GOCC
  ⟨0x380010, 0x0, 0, 1, 0x0, 0x0, 0x7FFF, 0x0, 0x0, []⟩, -- ST_SEL
  ⟨0x380014, 0x0, 0, 1, 0x0, 0x0, 0xFFFFF000, 0x0, 0x0, []⟩, -- ST_BASE_LO
  ⟨0x380018, 0x0, 0, 1, 0x0, 0x0, 0x3FFF, 0x0, 0x0, []⟩, -- ST_BASE_HI
  ⟨0x38001C, 0x0, 0, 1, 0x0, 0x0, 0x3F3F7F, 0x0, 0x0, [⟨0, 5, 0, 24, 1⟩]⟩] -- ST_CFG0

/-- Register descriptions, part 5. -/
def regTable5 : List RegDesc := [
  ⟨0x380020, 0x0, 0, 1, 0x10C1F700, 0x3FFFFFFF, 0x0, 0x0, 0x0, [⟨25, 5, 0, 30, 1⟩]⟩, -- ST_CFG1
  ⟨0x380024, 0x0, 0, 1, 0x0, 0x0, 0x0, 0x0, 0x3, []⟩, -- ST_OP
  ⟨0x380028, 0x0, 0, 1, 0x0, 0x0, 0x0, 0x180, 0x0, []⟩, -- ST_STAT
  ⟨0x38002C, 0x0, 0, 1, 0x0, 0x0, 0x0, 0x0, 0x0, []⟩, -- ST_REDIR
  ⟨0x380030, 0x0, 0, 1, 0x0, 0x0, 0x0, 0x0, 0x0, []⟩, -- ST_COUNT
  ⟨0x380034, 0x0, 0, 1, 0x0, 0x0, 0x0, 0x0, 0x0, []⟩, -- ST_ERRCNT
  ⟨0x38003C, 0x0, 0, 1, 0x0, 0x0, 0x0, 0x0, 0x1, []⟩, -- ST_ERRCLR
  ⟨0x380100, 0x0, 0, 1, 0x0, 0x0, 0xFFFFFFFF, 0x0, 0x0, []⟩, -- ST_PIO_ITEM_LO
  ⟨0x380104, 0x0, 0, 1, 0x0, 0x0, 0xFFFFFFFF, 0x0, 0x0, []⟩, -- ST_PIO_ITEM_HI
  ⟨0x380108, 0x0, 0, 1, 0x70000, 0x0, 0x0, 0x0, 0x8007FFFF, []⟩, -- ST_PIO_PUSH
  ⟨0x38010C, 0x0, 0, 1, 0x0, 0x0, 0x0, 0x3, 0x0, []⟩, -- ST_PIO_STAT
  ⟨0x380110, 0x0, 0, 1, 0x0, 0x0, 0x0, 0x0, 0x80007FFF, []⟩, -- ST_PIO_POP
  ⟨0x380114, 0x0, 0, 1, 0x0, 0x0, 0x0, 0x0, 0x0, []⟩, -- ST_PIO_TAG
  ⟨0x380120, 0x4, 0, 16, 0x0, 0x0, 0x0, 0x0, 0x0, []⟩, -- ST_PIO_W
  ⟨0xA0000, 0x0, 0, 1, 0x3, 0x3, 0x0, 0x0, 0x0, []⟩, -- HOME_CTL
  ⟨0xA0004, 0x0, 0, 1, 0x14, 0x3FF, 0x0, 0x0, 0x0, [⟨0, 10, 2, 1023, 1⟩]⟩, -- HOME_TMO
  ⟨0xA0008, 0x0, 0, 1, 0x5, 0x7F, 0x0, 0x0, 0x0, []⟩, -- HOME_HOLD
  ⟨0xA000C, 0x0, 0, 1, 0x0, 0xFFFFFF, 0x0, 0x0, 0x0, []⟩, -- HOME_AGT_EN
  ⟨0xA0010, 0x0, 0, 1, 0x0, 0x0, 0x0, 0xFFFFFF, 0x0, []⟩, -- HOME_AGT_FAIL
  ⟨0xA0014, 0x0, 0, 1, 0x0, 0x0, 0x0, 0x0, 0x0, []⟩, -- HOME_STOP
  ⟨0xA0018, 0x0, 0, 1, 0x0, 0x0, 0x0, 0x0, 0x0, []⟩, -- HOME_STAT
  ⟨0xA001C, 0x0, 0, 1, 0x0, 0x0, 0x0, 0x0, 0x0, []⟩, -- HOME_LED_OCC
  ⟨0xA0020, 0x0, 0, 1, 0x0, 0x0, 0x0, 0x0, 0x0, []⟩, -- HOME_CNT0
  ⟨0xA0024, 0x0, 0, 1, 0x0, 0x0, 0x0, 0x0, 0x0, []⟩, -- HOME_CNT1
  ⟨0xA0028, 0x0, 0, 1, 0x0, 0x0, 0x0, 0x0, 0x0, []⟩, -- HOME_CNT2
  ⟨0xA002C, 0x0, 0, 1, 0x0, 0x0, 0x0, 0x0, 0x1, []⟩, -- HOME_CNT_CLR
  ⟨0xA0030, 0x0, 0, 1, 0x0, 0x0, 0x0, 0x0, 0x0, []⟩, -- HOME_SUSPECT
  ⟨0xA0100, 0x8, 0, 8, 0x0, 0x81FFFFFF, 0x0, 0x0, 0x0, []⟩, -- FA_BASE
  ⟨0xA0104, 0x8, 0, 8, 0x0, 0x1FFFFFF, 0x0, 0x0, 0x0, []⟩, -- FA_SIZE
  ⟨0x80000, 0x0, 0, 1, 0x0, 0x0, 0x0, 0x0, 0x1, []⟩] -- LN_IC

/-- Register descriptions, part 6. -/
def regTable6 : List RegDesc := [
  ⟨0x80004, 0x0, 0, 1, 0x0, 0x0, 0x0, 0x0, 0x0, []⟩, -- LN_ICMISS
  ⟨0x80100, 0x100, 0, 4, 0x0, 0x0, 0x4, 0x0, 0x3, []⟩, -- LCTX_CTL
  ⟨0x80104, 0x100, 0, 4, 0x0, 0x0, 0x0, 0x0, 0x0, []⟩, -- LCTX_STAT
  ⟨0x80108, 0x100, 0, 4, 0x0, 0x0, 0xFFFFFFFF, 0x0, 0x0, []⟩, -- LCTX_PC_LO
  ⟨0x8010C, 0x100, 0, 4, 0x0, 0x0, 0xFFFFFFFF, 0x0, 0x0, []⟩, -- LCTX_PC_HI
  ⟨0x80110, 0x100, 0, 4, 0x0, 0x0, 0x0, 0x0, 0x0, []⟩, -- LCTX_TRAP
  ⟨0x80114, 0x100, 0, 4, 0x0, 0x0, 0x0, 0x0, 0x0, []⟩, -- LCTX_TPC_LO
  ⟨0x80118, 0x100, 0, 4, 0x0, 0x0, 0x0, 0x0, 0x0, []⟩, -- LCTX_TPC_HI
  ⟨0x8011C, 0x100, 0, 4, 0x0, 0x0, 0x0, 0x0, 0x0, []⟩, -- LCTX_TINSN
  ⟨0x80120, 0x100, 0, 4, 0x20, 0x0, 0x3F3F, 0x0, 0x0, [⟨0, 6, 32, 63, 2⟩, ⟨8, 6, 0, 32, 2⟩]⟩, -- LCTX_PRG
  ⟨0x80124, 0x100, 0, 4, 0x40, 0x0, 0x7F7F, 0x0, 0x0, [⟨0, 7, 64, 127, 2⟩, ⟨8, 7, 0, 64, 2⟩]⟩, -- LCTX_DAT
  ⟨0x80128, 0x100, 0, 4, 0x0, 0x0, 0x1F, 0x0, 0x0, []⟩, -- LCTX_GSEL
  ⟨0x8012C, 0x100, 0, 4, 0x0, 0x0, 0xFFFFFFFF, 0x0, 0x0, []⟩, -- LCTX_GDAT_LO
  ⟨0x80130, 0x100, 0, 4, 0x0, 0x0, 0xFFFFFFFF, 0x0, 0x0, []⟩, -- LCTX_GDAT_HI
  ⟨0x80134, 0x100, 0, 4, 0x0, 0x0, 0x0, 0x0, 0x0, []⟩, -- LCTX_CODEP
  ⟨0x90000, 0x0, 0, 1, 0x0, 0x0, 0x0, 0x0, 0x0, []⟩, -- HC_STAT
  ⟨0x90004, 0x0, 0, 1, 0x0, 0x0, 0x0, 0x0, 0x8000FFFF, []⟩, -- HC_ABORT
  ⟨0x90008, 0x0, 0, 1, 0x0, 0x0, 0x0, 0x4, 0x0, []⟩, -- HC_ABSTAT
  ⟨0x9000C, 0x0, 0, 1, 0x0, 0x0, 0xFFF, 0x0, 0x0, []⟩, -- HC_HSEL
  ⟨0x90010, 0x0, 0, 1, 0x0, 0x0, 0x0, 0x0, 0x0, []⟩, -- HC_HSTATE
  ⟨0x90100, 0x20, 0, 4, 0x2000, 0x3FFF, 0x0, 0x0, 0x0, [⟨1, 13, 1, 4096, 1⟩]⟩, -- HC_QCFG
  ⟨0x90104, 0x20, 0, 4, 0x0, 0x7FFF7FFF, 0x0, 0x0, 0x0, []⟩, -- HC_QSTALL
  ⟨0x90108, 0x20, 0, 4, 0x0, 0x0, 0x0, 0x0, 0x1, []⟩, -- HC_QDB
  ⟨0x9010C, 0x20, 0, 4, 0x0, 0x0, 0x0, 0x0, 0x0, []⟩, -- HC_QHANDLE
  ⟨0x90110, 0x20, 0, 4, 0x0, 0x0, 0x0, 0x0, 0x0, []⟩, -- HC_QSTAT
  ⟨0xC0030, 0x1000, 0, 32, 0x0, 0x0, 0x0, 0x0, 0x0, []⟩, -- FP_FENCE_STAT
  ⟨0x30000, 0x0, 0, 1, 0x0, 0x0, 0x0, 0x0, 0x0, []⟩, -- EN_TOTAL_LO
  ⟨0x30004, 0x0, 0, 1, 0x0, 0x0, 0x0, 0x0, 0x0, []⟩, -- EN_TOTAL_HI
  ⟨0x30008, 0x0, 0, 1, 0x0, 0x0, 0x0, 0x0, 0x0, []⟩, -- EN_POWER
  ⟨0x3000C, 0x0, 0, 1, 0x0, 0x0, 0x3F, 0x0, 0x0, []⟩] -- EN_DSEL

/-- Register descriptions, part 7. -/
def regTable7 : List RegDesc := [
  ⟨0x30010, 0x0, 0, 1, 0x0, 0x0, 0x0, 0x0, 0x0, []⟩, -- EN_DOM_LO
  ⟨0x30014, 0x0, 0, 1, 0x0, 0x0, 0x0, 0x0, 0x0, []⟩, -- EN_DOM_HI
  ⟨0x30020, 0x0, 0, 1, 0x14415, 0xFFFFF, 0x0, 0x0, 0x0, [⟨1, 7, 1, 127, 1⟩, ⟨12, 8, 1, 255, 1⟩]⟩, -- PW_CTL
  ⟨0x30024, 0x0, 0, 1, 0x1E5068, 0xFFFFFF, 0x0, 0x0, 0x0, [⟨0, 8, 1, 104, 2⟩, ⟨8, 8, 1, 255, 2⟩, ⟨16, 8, 0, 30, 2⟩]⟩, -- PW_LIM
  ⟨0x30028, 0x0, 0, 1, 0x0, 0xFFFFF, 0x0, 0x0, 0x0, []⟩, -- PW_KEEP
  ⟨0x3002C, 0x0, 0, 1, 0x0, 0x0, 0x0, 0x10, 0x0, []⟩, -- PW_STAT
  ⟨0x30030, 0x0, 0, 1, 0xAFC80, 0x0, 0x0, 0x0, 0x0, []⟩, -- PW_BUCKET
  ⟨0x30034, 0x0, 0, 1, 0x0, 0x0, 0x0, 0x0, 0x0, []⟩, -- PW_CNT
  ⟨0x30040, 0x0, 0, 1, 0x0, 0x0, 0x0, 0x0, 0x0, []⟩, -- SN_VBUS
  ⟨0x30044, 0x0, 0, 1, 0x0, 0x0, 0x0, 0x0, 0x0, []⟩, -- SN_VRSV
  ⟨0x30048, 0x0, 0, 1, 0x0, 0x0, 0x0, 0x0, 0x0, []⟩, -- SN_IRSV
  ⟨0x3004C, 0x0, 0, 1, 0xA6403E8, 0xFFFFFFFF, 0x0, 0x0, 0x0, [⟨0, 16, 1, 65535, 1⟩, ⟨16, 8, 2, 255, 2⟩, ⟨24, 8, 1, 255, 1⟩]⟩, -- SN_CFG
  ⟨0x30050, 0x0, 0, 1, 0x0, 0x3, 0x0, 0x0, 0x0, [⟨0, 2, 0, 2, 1⟩]⟩, -- SN_GAIN
  ⟨0x30058, 0x0, 0, 1, 0x545048, 0xFFFFFF, 0x0, 0x0, 0x0, [⟨0, 8, 64, 160, 2⟩, ⟨8, 8, 64, 160, 2⟩, ⟨16, 8, 64, 160, 2⟩]⟩, -- CMP_CTL
  ⟨0x3005C, 0x0, 0, 1, 0x6403, 0xFF03, 0x0, 0x0, 0x0, [⟨8, 8, 1, 255, 1⟩]⟩, -- PF_CTL
  ⟨0x30060, 0x0, 0, 1, 0x0, 0x0, 0x0, 0x0, 0x0, []⟩, -- GA_QCNT
  ⟨0x30064, 0x0, 0, 1, 0x0, 0x0, 0x0, 0x0, 0x0, []⟩, -- GA_QV
  ⟨0x30068, 0x0, 0, 1, 0x0, 0x0, 0x0, 0x0, 0x0, []⟩, -- GA_Q
  ⟨0x3006C, 0x0, 0, 1, 0x1F405, 0xFFFFFF, 0x0, 0x0, 0x0, [⟨0, 8, 1, 100, 2⟩, ⟨8, 16, 1, 65535, 1⟩]⟩, -- GA_CTL
  ⟨0x30070, 0x0, 0, 1, 0x140005A, 0xFFFFF7F, 0x0, 0x0, 0x0, [⟨0, 7, 50, 100, 2⟩, ⟨20, 8, 1, 255, 1⟩]⟩, -- GA_CFG
  ⟨0x30074, 0x0, 0, 1, 0x0, 0x0, 0x0, 0x36, 0x0, []⟩, -- GA_STAT
  ⟨0x30200, 0x4, 0, 16, 0x0, 0xFFFFFFFF, 0x0, 0x0, 0x0, []⟩, -- GA_OCV
  ⟨0x30090, 0x0, 0, 1, 0x0, 0x1FFFF, 0x0, 0x0, 0x0, []⟩, -- CH_CTL
  ⟨0x30094, 0x0, 0, 1, 0x142710, 0xFFFFFF, 0x0, 0x0, 0x0, [⟨0, 16, 1, 65535, 1⟩]⟩, -- CH_CFG
  ⟨0x30098, 0x0, 0, 1, 0x0, 0x0, 0x0, 0x0, 0x0, []⟩, -- CH_STAT
  ⟨0x300C0, 0x0, 0, 1, 0x10A0E10, 0x1FFFFFF, 0x0, 0x0, 0x0, [⟨0, 16, 1, 65535, 1⟩, ⟨16, 7, 0, 100, 2⟩]⟩, -- PLN_CTL
  ⟨0x300C4, 0x0, 0, 1, 0x4EA, 0xFFFF, 0x0, 0x0, 0x0, [⟨0, 16, 1, 65535, 1⟩]⟩, -- PLN_FLUSH
  ⟨0x300C8, 0x0, 0, 1, 0x0, 0xFFFFF, 0x0, 0x0, 0x0, []⟩, -- PLN_HOLDP
  ⟨0x300CC, 0x0, 0, 1, 0x0, 0x0, 0x7F, 0x0, 0x0, []⟩, -- PLN_SEL
  ⟨0x300D0, 0x0, 0, 1, 0x0, 0xFFFF, 0x0, 0x0, 0x0, []⟩] -- PLN_SLOTP

/-- Register descriptions, part 8. -/
def regTable8 : List RegDesc := [
  ⟨0x300D4, 0x0, 0, 1, 0x0, 0xFFFFF001, 0x0, 0x0, 0x0, []⟩, -- PLN_FAREA_LO
  ⟨0x300D8, 0x0, 0, 1, 0x0, 0x3FFF, 0x0, 0x0, 0x0, []⟩, -- PLN_FAREA_HI
  ⟨0x300E0, 0x0, 0, 1, 0x0, 0x0, 0x0, 0x0, 0x0, []⟩, -- PLN_DOM0
  ⟨0x300E4, 0x0, 0, 1, 0x0, 0x0, 0x0, 0x0, 0x0, []⟩, -- PLN_DOM1
  ⟨0x300E8, 0x0, 0, 1, 0x0, 0x0, 0x0, 0x0, 0x0, []⟩, -- PLN_DOM2
  ⟨0x300F0, 0x0, 0, 1, 0x0, 0x0, 0x0, 0xFFFFFFFF, 0x0, []⟩, -- PLN_DROP0
  ⟨0x300F4, 0x0, 0, 1, 0x0, 0x0, 0x0, 0xFFFFFFFF, 0x0, []⟩, -- PLN_DROP1
  ⟨0x300F8, 0x0, 0, 1, 0x0, 0x0, 0x0, 0xFFFFFFFF, 0x0, []⟩, -- PLN_DROP2
  ⟨0x30100, 0x0, 0, 1, 0x0, 0x0, 0x0, 0x0, 0x0, []⟩, -- PLN_EUSE_LO
  ⟨0x30104, 0x0, 0, 1, 0x0, 0x0, 0x0, 0x0, 0x0, []⟩, -- PLN_EUSE_HI
  ⟨0x30108, 0x0, 0, 1, 0x0, 0x0, 0x0, 0x0, 0x0, []⟩, -- PLN_RET
  ⟨0x40000, 0x0, 0, 1, 0x0, 0x0, 0x0, 0x0, 0x80000007, []⟩, -- PWR_REQ
  ⟨0x40004, 0x0, 0, 1, 0x0, 0x0, 0x0, 0x0, 0x0, []⟩, -- PWR_STAT
  ⟨0x40008, 0x0, 0, 1, 0x64, 0x3FF, 0x0, 0x0, 0x0, [⟨0, 10, 1, 1023, 1⟩]⟩, -- PWR_CTL
  ⟨0x4000C, 0x0, 0, 1, 0x2, 0xFFFFFFF, 0x0, 0x0, 0x0, []⟩, -- PWR_IDLE
  ⟨0x40010, 0x0, 0, 1, 0x7, 0xF, 0x0, 0x0, 0x0, []⟩, -- PWR_WAKE
  ⟨0x40014, 0x0, 0, 1, 0x0, 0x0, 0x0, 0xFF, 0x0, []⟩, -- PWR_WCAUSE
  ⟨0x40018, 0x0, 0, 1, 0x0, 0x0, 0x0, 0x0, 0x0, []⟩, -- PWR_WLAT1
  ⟨0x4001C, 0x0, 0, 1, 0x0, 0x0, 0x0, 0x0, 0x0, []⟩, -- PWR_WLAT2
  ⟨0x40020, 0x0, 0, 1, 0x0, 0x0, 0x0, 0x0, 0x0, []⟩, -- PWR_WLAT3
  ⟨0x40024, 0x0, 0, 1, 0x0, 0x0, 0x0, 0x0, 0x0, []⟩, -- PWR_REF
  ⟨0x40028, 0x0, 0, 1, 0x0, 0x0, 0x0, 0x0, 0x0, []⟩, -- PWR_CNT
  ⟨0x4002C, 0x0, 0, 1, 0x0, 0x0, 0x0, 0x0, 0x1, []⟩, -- PWR_CNT_CLR
  ⟨0x40030, 0x0, 0, 1, 0x0, 0x0, 0x0, 0x0, 0x0, []⟩, -- PWR_DON0
  ⟨0x40034, 0x0, 0, 1, 0x40000, 0x0, 0x0, 0x0, 0x0, []⟩, -- PWR_DON1
  ⟨0x40038, 0x0, 0, 1, 0x0, 0x0, 0x0, 0x0, 0x8000007F, []⟩, -- PWR_DREQ
  ⟨0x4003C, 0x0, 0, 1, 0xFFFFFFFF, 0xFFFFFFFF, 0x0, 0x0, 0x0, []⟩, -- PWR_RET_SPAD
  ⟨0x40040, 0x0, 0, 1, 0x0, 0x0, 0x0, 0xFFFFFFFF, 0x0, []⟩, -- PWR_SPAD_LOST
  ⟨0x40050, 0x0, 0, 1, 0x0, 0x0, 0x0, 0x0, 0x1, []⟩, -- RST_SOFT
  ⟨0x40054, 0x0, 0, 1, 0x64, 0x3FF, 0x0, 0x0, 0x0, [⟨0, 10, 1, 1023, 1⟩]⟩] -- RST_CTL

/-- Register descriptions, part 9. -/
def regTable9 : List RegDesc := [
  ⟨0x40058, 0x0, 0, 1, 0x0, 0x0, 0x0, 0x0, 0x0, []⟩, -- RST_STAT
  ⟨0x200900, 0x10000, 0, 20, 0x0, 0x0, 0x0, 0x0, 0x80000007, []⟩, -- PP_REQ
  ⟨0x200904, 0x10000, 0, 20, 0x0, 0x0, 0x0, 0x0, 0x0, []⟩, -- PP_STAT
  ⟨0x200908, 0x10000, 0, 20, 0x0, 0x0, 0x0, 0x0, 0x0, []⟩, -- PP_WLAT
  ⟨0x0, 0x0, 0, 1, 0x0, 0x0, 0x0, 0x0, 0x0, []⟩, -- ENG_ID
  ⟨0x4, 0x0, 0, 1, 0x0, 0x0, 0x0, 0x0, 0x0, []⟩, -- ENG_FW
  ⟨0x10, 0x0, 0, 1, 0x0, 0x0, 0x0, 0x0, 0x0, []⟩, -- ENG_CAP_PORT
  ⟨0x14, 0x0, 0, 1, 0x0, 0x0, 0x0, 0x0, 0x0, []⟩, -- ENG_CAP_FAB
  ⟨0x18, 0x0, 0, 1, 0x0, 0x0, 0x0, 0x0, 0x0, []⟩, -- ENG_CAP_STALL
  ⟨0x1C, 0x0, 0, 1, 0x0, 0x0, 0x0, 0x0, 0x0, []⟩, -- ENG_CAP_HOME
  ⟨0x20, 0x0, 0, 1, 0x0, 0x0, 0x0, 0x0, 0x0, []⟩, -- ENG_CAP_LANT
  ⟨0x24, 0x0, 0, 1, 0x0, 0x0, 0x0, 0x0, 0x0, []⟩, -- ENG_CAP_SPAD
  ⟨0x28, 0x0, 0, 1, 0x0, 0x0, 0x0, 0x0, 0x0, []⟩, -- ENG_CAP_DRAM
  ⟨0x200, 0x0, 0, 1, 0x0, 0x0, 0x1, 0x0, 0x2, []⟩, -- CFG_APPLY
  ⟨0x204, 0x0, 0, 1, 0x0, 0x0, 0x1, 0x0, 0x0, []⟩, -- CFG_RDSEL
  ⟨0x208, 0x0, 0, 1, 0x0, 0x0, 0x1, 0x0, 0x0, []⟩, -- CFG_CRC_CTL
  ⟨0x20C, 0x0, 0, 1, 0x0, 0x0, 0xFFFFFFFF, 0x0, 0x0, []⟩, -- CFG_CRC_REF
  ⟨0x210, 0x0, 0, 1, 0x0, 0x0, 0x0, 0x0, 0x0, []⟩, -- CFG_CRC_CUR
  ⟨0x214, 0x0, 0, 1, 0x0, 0x0, 0x0, 0x9, 0x0, []⟩, -- CFG_CRC_STAT
  ⟨0x218, 0x0, 0, 1, 0x0, 0x0, 0x0, 0x0, 0x0, []⟩, -- CFG_CRC_LEN
  ⟨0x21C, 0x0, 0, 1, 0x0, 0x0, 0x0, 0x0, 0x0, []⟩, -- CFG_REJ
  ⟨0x220, 0x0, 0, 1, 0x0, 0x0, 0x0, 0x0, 0x1, []⟩, -- CFG_REJ_CLR
  ⟨0x3C0000, 0x0, 0, 1, 0x0, 0x0, 0x0, 0x0, 0x0, []⟩, -- SPAD_PERR
  ⟨0x3C0004, 0x0, 0, 1, 0x0, 0x0, 0x0, 0x0, 0x0, []⟩, -- SPAD_PWORD
  ⟨0x3C0008, 0x0, 0, 1, 0x0, 0x0, 0x0, 0x0, 0x1, []⟩, -- SPAD_CLR
  ⟨0x100, 0x0, 0, 1, 0x0, 0x0, 0x0, 0xFFFFFFFF, 0x0, []⟩, -- INT_STAT0
  ⟨0x104, 0x0, 0, 1, 0x0, 0x0, 0x0, 0xFFFFFFFF, 0x0, []⟩, -- INT_STAT1
  ⟨0x108, 0x0, 0, 1, 0x0, 0x0, 0xFFFFFFFF, 0x0, 0x0, []⟩, -- INT_EN0
  ⟨0x10C, 0x0, 0, 1, 0x0, 0x0, 0xFFFFFFFF, 0x0, 0x0, []⟩, -- INT_EN1
  ⟨0x110, 0x0, 0, 1, 0x0, 0x0, 0x0, 0x0, 0xFFFFFFFF, []⟩] -- INT_SET0

/-- Register descriptions, part 10. -/
def regTable10 : List RegDesc := [
  ⟨0x114, 0x0, 0, 1, 0x0, 0x0, 0x0, 0x0, 0xFFFFFFFF, []⟩, -- INT_SET1
  ⟨0x118, 0x0, 0, 1, 0x0, 0x0, 0x0, 0x0, 0x0, []⟩, -- INT_OUT
  ⟨0x11C, 0x0, 0, 1, 0x0, 0x0, 0x3F, 0x0, 0x0, []⟩, -- INT_PSEL
  ⟨0x120, 0x0, 0, 1, 0x0, 0x0, 0x0, 0xFFFFFFFF, 0x0, []⟩, -- INT_PORTS
  ⟨0x140, 0x4, 0, 16, 0x0, 0x0, 0x1F1F1F1F, 0x0, 0x0, []⟩, -- INT_ROUTE
  ⟨0xA0040, 0x0, 0, 1, 0x0, 0x0, 0x0, 0x0, 0x0, []⟩, -- HOME_DUR_FOOT0
  ⟨0xA0044, 0x0, 0, 1, 0x0, 0x0, 0x0, 0x0, 0x0, []⟩, -- HOME_DUR_FOOT1
  ⟨0xA0048, 0x0, 0, 1, 0x0, 0x0, 0x0, 0x0, 0x0, []⟩, -- HOME_DUR_FOOT2
  ⟨0xA004C, 0x0, 0, 1, 0x0, 0x0, 0x0, 0x0, 0x1, []⟩, -- HOME_DUR_CTL
  ⟨0x80140, 0x100, 0, 4, 0x0, 0x0, 0x0, 0x0, 0x0, []⟩, -- LCTX_DUR_FOOT0
  ⟨0x80144, 0x100, 0, 4, 0x0, 0x0, 0x0, 0x0, 0x0, []⟩, -- LCTX_DUR_FOOT1
  ⟨0x80148, 0x100, 0, 4, 0x0, 0x0, 0x0, 0x0, 0x0, []⟩, -- LCTX_DUR_FOOT2
  ⟨0x8014C, 0x100, 0, 4, 0x0, 0x0, 0x0, 0x0, 0x1, []⟩] -- LCTX_DUR_CTL

/-- IS_MEM_n_m for members m = 1 to 15 (member 0 stands in the table). -/
def isMemMembers : List RegDesc :=
  (List.range 15).map fun m => ⟨0x28014 + 4 * m, 0x100, 0, 8, 0, 0x7FF001F, 0, 0, 0, []⟩

/-- Every directly addressed register of the window (Table 17.10); IS_MEM appears once per member. -/
def regTable : List RegDesc :=
  regTable0 ++ regTable1 ++ regTable2 ++ regTable3 ++ regTable4 ++ regTable5 ++ regTable6 ++ regTable7 ++ regTable8 ++ regTable9 ++ regTable10 ++ isMemMembers

end Sys2Proof.Machine
end

