-- ==== Sys2Proof/Machine/Ops.lean ====
section
/-!
DEFINITION. The named operations over registers, interrupt causes, logs, ports and memory that the meanings share.
-/

namespace Sys2Proof.Machine

/-- What a command answers. -/
abbrev Out := Host.Outcome State Fault Refusal

/-! ### Numbers -/

/-- Field of w bits from bit lo. -/
def bits (v lo w : Nat) : Nat := (v >>> lo) % 2 ^ w

/-- v with the field of w bits from bit lo set to x. -/
def withBits (v lo w x : Nat) : Nat := v - (bits v lo w <<< lo) + ((x % 2 ^ w) <<< lo)

/-- A w-bit field read as a signed number. -/
def asSigned (w v : Nat) : Int := if v < 2 ^ (w - 1) then v else (v : Int) - 2 ^ w

/-- Timebase edges in a microsecond and a millisecond (400 MHz). -/
def edgesUs : Nat := 400
def edgesMs : Nat := 400000

/-- Change what a table holds at a key, where it holds something. -/
def mmod {α : Type} (m : SMap α) (k : Nat) (g : α → α) : SMap α :=
  match mget m k with
  | some x => mput m k (g x)
  | none => m

/-- Sorted insertion without repeats. -/
def insNat : List Nat → Nat → List Nat
  | [], x => [x]
  | y :: l, x => if x < y then x :: y :: l else if x = y then y :: l else y :: insNat l x

/-! ### Registers (R456) -/

/-- Address of copy i of a field's register. -/
def Fld.off (f : Fld) (i : Nat) : Nat := f.base + i * f.stride

/-- The word in force at an offset, given its reset word. -/
def regAt (s : State) (off rst : Nat) : Nat := ((mget s.regs off).map BitVec.toNat).getD rst

/-- Value in force of a field of copy i. -/
def fld (s : State) (f : Fld) (i : Nat := 0) : Nat := bits (regAt s (f.off i) f.rst) f.lo f.w

/-- The field as one bit. -/
def flg (s : State) (f : Fld) (i : Nat := 0) : Bool := fld s f i != 0

/-- Store a word in force. -/
def setWord (off v : Nat) (s : State) : State := { s with regs := mput s.regs off (BitVec.ofNat 32 v) }

/-- Set a field of copy i in force. -/
def setFld (f : Fld) (i v : Nat) (s : State) : State :=
  setWord (f.off i) (withBits (regAt s (f.off i) f.rst) f.lo f.w v) s

/-- Add to a counter field that saturates. -/
def addFld (f : Fld) (i n : Nat) (s : State) : State :=
  setFld f i (min (fld s f i + n) (2 ^ f.w - 1)) s

/-- The staged word at an offset: the shadow if one waits, else the value in force. -/
def stagedAt (s : State) (off rst : Nat) : Nat := ((mget s.shadow off).map BitVec.toNat).getD (regAt s off rst)

/-- Staged value of a field. -/
def staged (s : State) (f : Fld) (i : Nat := 0) : Nat := bits (stagedAt s (f.off i) f.rst) f.lo f.w

/-- The register at an offset, with the number of its copy (Table 17.10). -/
def regFind (off : Nat) : Option (RegDesc × Nat) :=
  regTable.findSome? fun d =>
    if d.stride = 0 then (if off = d.base then some (d, 0) else none)
    else if off < d.base || (off - d.base) % d.stride ≠ 0 then none
    else
      let i := (off - d.base) / d.stride
      if d.first ≤ i && i < d.first + d.count then some (d, i) else none

/-- The bits of the staged fields of the register at an offset. -/
def rsMask (off : Nat) : Nat :=
  match regFind off with
  | some (d, _) => d.rs
  | none => 0

/-- Bits of a mask from v, the others from w. -/
def overlay (mask v w : Nat) : Nat := (v &&& mask) + (w - (w &&& mask))

/-- A staged word comes into force at its boundary (R460). -/
def applyShadow (off : Nat) (s : State) : State :=
  match mget s.shadow off with
  | none => s
  | some w =>
    let rst := match regFind off with
      | some (d, _) => d.rst
      | none => 0
    { setWord off (overlay (rsMask off) w.toNat (regAt s off rst)) s with shadow := mdel s.shadow off }

/-- A staged word is discarded. -/
def dropShadow (off : Nat) (s : State) : State := { s with shadow := mdel s.shadow off }

/-! ### Interrupt causes (R472, Table 17.9) -/

/-- Raise cause c; u is the unit for a cause that has one. -/
def raise (c : Nat) (s : State) (u : Option Nat := none) : State :=
  let off := 0x100 + 4 * (c / 32)
  let s1 := setWord off (regAt s off 0 ||| 2 ^ (c % 32)) s
  match u with
  | none => s1
  | some n => if fld s1 INT_PSEL_CAUSE = c then setWord 0x120 (regAt s1 0x120 0 ||| 2 ^ n) s1 else s1

/-- Level of INT[31:0] (R473): causes latched, enabled and routed; low while engine reset is asserted. -/
def intLevel (s : State) : Nat :=
  if s.pw.inReset then 0 else
  (List.range 47).foldl (fun acc c =>
    let st := bits (regAt s (0x100 + 4 * (c / 32)) 0) (c % 32) 1
    let en := bits (regAt s (0x108 + 4 * (c / 32)) 0) (c % 32) 1
    let out := bits (regAt s (0x140 + 4 * (c / 4)) 0) (8 * (c % 4)) 5
    if st = 1 ∧ en = 1 then acc ||| 2 ^ out else acc) 0

/-! ### Identity (R2, R469) -/

/-- A port index is implemented in the variant. -/
def portImpl (v : Variant) (p : Nat) : Bool :=
  match v with
  | .cx3f => p < 20
  | .cx3m => p < 12
  | .cx3d => p < 4

/-- A fabric port is implemented (R8). -/
def fabImpl (v : Variant) (n : Nat) : Bool :=
  match v with
  | .cx3d => n < 16
  | _ => n < 32

def stallCount : Variant → Nat
  | .cx3f => 32768
  | .cx3m => 8192
  | .cx3d => 1024

def homeImpl (v : Variant) : Bool := v != .cx3d

def ledgerEntries : Variant → Nat
  | .cx3f => 2097152
  | .cx3m => 1048576
  | .cx3d => 0

def ctxCount : Variant → Nat
  | .cx3f => 4
  | .cx3m => 2
  | .cx3d => 1

def spadBanks : Variant → Nat
  | .cx3f => 32
  | .cx3m => 16
  | .cx3d => 8

def maxDramG : Variant → Nat
  | .cx3f => 36864
  | .cx3m => 20480
  | .cx3d => 4096

def variantCode : Variant → Nat
  | .cx3f => 1
  | .cx3m => 2
  | .cx3d => 3

/-! ### Units by number -/

def fabOf (s : State) (n : Nat) : FabPort := mgetD s.fab n {}
def setFab (n : Nat) (f : FabPort) (s : State) : State := { s with fab := mput s.fab n f }
def modFab (n : Nat) (g : FabPort → FabPort) (s : State) : State := setFab n (g (fabOf s n)) s

def portOf (s : State) (p : Nat) : Port := mgetD s.ports p {}
def setPort (p : Nat) (q : Port) (s : State) : State := { s with ports := mput s.ports p q }
def modPort (p : Nat) (g : Port → Port) (s : State) : State := setPort p (g (portOf s p)) s
def modSched (p : Nat) (g : Sched → Sched) (s : State) : State := modPort p (fun q => { q with sched := g q.sched }) s
def modDram (p : Nat) (g : DramSt → DramSt) (s : State) : State := modPort p (fun q => { q with dram := g q.dram }) s
def modLink (p : Nat) (g : Link → Link) (s : State) : State := modPort p (fun q => { q with link := g q.link }) s
def modTrain (p : Nat) (g : Train → Train) (s : State) : State := modPort p (fun q => { q with train := g q.train }) s
def modProt (p : Nat) (g : Protect → Protect) (s : State) : State := modPort p (fun q => { q with prot := g q.prot }) s
def modMarks (p : Nat) (g : Marks → Marks) (s : State) : State := modPort p (fun q => { q with marks := g q.marks }) s

/-- Draw the next free number. -/
def drawFree (s : State) : Nat × State := (Config.freeNat s.free, { s with free := s.free + 1 })

/-- Take the next request number. -/
def newId (s : State) : Nat × State := (s.nextId, { s with nextId := s.nextId + 1 })

/-- The tick: the count as a number (R110). -/
def tick (s : State) : Int := s.count.toNat

/-! ### Port states (Tables 6.2 and 7.11) -/

/-- States of a DRAM port. -/
inductive PState where
  | off | power | init | train | service | selfRefresh | halted | stopping | link | align | linkDown | test
  deriving DecidableEq, Repr

def serial (p : Nat) : Bool := 4 ≤ p

def pstateCode (p : Nat) : PState → Nat
  | .off => 0
  | .power => if serial p then 3 else 1
  | .init => if serial p then 4 else 2
  | .train => if serial p then 5 else 3
  | .service => if serial p then 6 else 4
  | .selfRefresh => if serial p then 7 else 5
  | .halted => if serial p then 8 else 6
  | .stopping => if serial p then 9 else 7
  | .link => 1
  | .align => 2
  | .linkDown => 10
  | .test => 11

def pstateOf (p code : Nat) : PState :=
  if serial p then
    match code with
    | 0 => .off | 1 => .link | 2 => .align | 3 => .power | 4 => .init | 5 => .train | 6 => .service
    | 7 => .selfRefresh | 8 => .halted | 9 => .stopping | 10 => .linkDown | _ => .test
  else
    match code with
    | 0 => .off | 1 => .power | 2 => .init | 3 => .train | 4 => .service | 5 => .selfRefresh | 6 => .halted | _ => .stopping

/-- State of port p (DP_STAT.STATE, SP_STAT.STATE). -/
def pstate (s : State) (p : Nat) : PState :=
  pstateOf p (if serial p then fld s SP_STAT_STATE p else fld s DP_STAT_STATE p)

def setPstate (p : Nat) (x : PState) (s : State) : State :=
  if serial p then setFld SP_STAT_STATE p (pstateCode p x) s else setFld DP_STAT_STATE p (pstateCode p x) s

/-- In service (R474). -/
def inService (s : State) (p : Nat) : Bool := pstate s p = .service || pstate s p = .selfRefresh

/-- (Log 101: DEDUCED.) -/
def popErr (s : State) (p : Nat) : Nat := if serial p then fld s SP_STAT_POP_ERR p else fld s DP_STAT_POP_ERR p
def setPopErr (p e : Nat) (s : State) : State :=
  if serial p then setFld SP_STAT_POP_ERR p e s else setFld DP_STAT_POP_ERR p e s

/-- Fitted DIMMs of the port, by DIMM number 0 to 3 (2c + d). -/
def present (s : State) (p : Nat) : Nat := if serial p then fld s SP_STAT_PRESENT p else fld s DP_STAT_PRESENT p

def keepSet (s : State) (p : Nat) : Nat := if serial p then fld s SP_PASR_KEEP p else fld s DP_PASR_KEEP p
def shedSet (s : State) (p : Nat) : Nat := if serial p then fld s SP_PASR_SHED p else fld s DP_PASR_SHED p
def setShed (p v : Nat) (s : State) : State :=
  if serial p then setFld SP_PASR_SHED p v s else setFld DP_PASR_SHED p v s
def setLost (p v : Nat) (s : State) : State :=
  if serial p then setFld SP_PASR_LOST p v s else setFld DP_PASR_LOST p v s
def lostSet (s : State) (p : Nat) : Nat := if serial p then fld s SP_PASR_LOST p else fld s DP_PASR_LOST p

/-- CX2 link mode (R164). -/
def cx2 (s : State) (p : Nat) : Bool := serial p && flg s SP_CTL_MODE p

/-- Number of sub-channels of a port in use. -/
def subCount (s : State) (p : Nat) : Nat := if serial p then (if flg s SP_POP_CH1 p then 4 else 2) else 2

/-- The population word: WIDTH, DENS, PRANKS, STACK and DPC2 in bits [8:0]. -/
def popWord (s : State) (p : Nat) : Nat := regAt s (0x200008 + p * 0x10000) 0

def isX8 (s : State) (p : Nat) : Bool := bits (popWord s p) 0 2 = 2
def rowsOf (s : State) (p : Nat) : Nat :=
  match bits (popWord s p) 2 3 with
  | 0 => 65536
  | 1 => 98304
  | 2 => 131072
  | _ => 262144
def pranks (s : State) (p : Nat) : Nat := bits (popWord s p) 5 1 + 1
def stackHeight (s : State) (p : Nat) : Nat := 2 ^ bits (popWord s p) 6 2
def dimmCount (s : State) (p : Nat) : Nat := bits (popWord s p) 8 1 + 1
def capG (s : State) (p : Nat) : Nat := if serial p then fld s SP_POP_CAP_G p else fld s DP_POP_CAP_G p
/-- C of R147: lines of a row. -/
def lineLog (s : State) (p : Nat) : Nat := if isX8 s p then 6 else 7

/-- Activity of the engine (R412): the idle timers restart, and E1 ends. -/
def active (s : State) : State :=
  let s1 := { s with pw := { s.pw with activeAt := s.clk, st := if s.pw.st = 1 then 0 else s.pw.st } }
  if s.pw.st = 1 then setFld PWR_STAT_STATE 0 0 s1 else s1

/-- Software shadows are applied now: no boundary lies in E2 to E4 or in the power-fail sequence, and HOLD stops it (R460). (Log 28: DEDUCED.) -/
def boundaryOpen (s : State) : Bool := s.pw.st.toNat < 2 && s.en.pf = .none && !s.pw.inReset
def applyOpen (s : State) : Bool := boundaryOpen s && !flg s CFG_APPLY_HOLD

/-! ### Domains (R407 to R409, Table 15.3) -/

/-- A software-switched domain has not been switched off, or is up again. -/
def softOn (s : State) (d : Nat) : Bool :=
  match mget s.pw.doms d with
  | none => true
  | some .on => true
  | some (.prep _) => true
  | _ => false

/-- The variant has the domain (R407). -/
def domImpl (v : Variant) (d : Nat) : Bool :=
  if d < 32 then portImpl v (4 + d % 16)
  else if d < 40 then true
  else if d = 41 then homeImpl v
  else if 44 ≤ d ∧ d ≤ 46 then v ≠ .cx3d
  else d ≤ 50

/-- Domain d is powered now; a domain that E3 retains counts as powered. -/
def domOn (s : State) (d : Nat) : Bool :=
  let deep := s.pw.st = 3
  let up (p : Nat) : Bool := pstate s p ≠ .off
  domImpl s.part.variant d &&
  (if d = 50 then true
   else if s.pw.st.toNat > 3 then false
   else if d < 16 then up (4 + d) && !(deep && cx2 s (4 + d))
   else if d < 32 then up (d - 12) && !deep
   else if d < 36 then up (d - 32) && !(deep && flg s PLN_CTL_DRST_HOLD)
   else if d < 40 then up (d - 36) && !deep
   else if d = 42 || d = 47 then true
   else if d = 49 then softOn s d && !(deep && fld s PWR_RET_SPAD_BANKS = 0)
   else if d = 40 then !deep
   else softOn s d && !deep)

/-- Staging pairs that can be allocated (R266). -/
def quarterPairs : Variant → Nat
  | .cx3d => 1024
  | _ => 2048
def quartersOn (s : State) : List Nat := (List.range 4).filter fun q => domImpl s.part.variant (43 + q) && softOn s (43 + q)
def pairCount (s : State) : Nat := quarterPairs s.part.variant * (quartersOn s).length

/-- Edges that a software-switched domain takes to switch on: 2 µs, and 131,072 or 65,536 CK_ENG cycles of clearing or check-bit
initialisation where Table 15.2 names them (1.2 GHz against 400 MHz, rounded up). -/
def riseEdges (v : Variant) (d : Nat) : Nat :=
  2 * edgesUs + (if d = 48 then 0 else if d = 41 && v = .cx3f then 43691 else 21846)

/-- C7 is deferred by the power window (R105, Table 14.2). -/
def c7Deferred (s : State) : Bool := fld s PW_STAT_STAGE ≥ 1

/-! ### Where a local address lies (R147, R199) -/

/-- n with bit b removed. -/
def dropBit (n b : Nat) : Nat := n % 2 ^ b + (n / 2 ^ (b + 1)) * 2 ^ b

/-- n with bit b inserted. -/
def putBit (n b x : Nat) : Nat := n % 2 ^ b + (n / 2 ^ b) * 2 ^ (b + 1) + (x % 2) * 2 ^ b

/-- Split of a local address; column counts lines within the row. -/
def locOf (s : State) (p la : Nat) : Loc :=
  let ch1 := serial p && flg s SP_POP_CH1 p
  let cb := fld s SP_MAP_CH_BIT p
  let ch := if ch1 then (la / 2 ^ cb) % 2 else 0
  let la1 := if ch1 then dropBit la cb else la
  let sb := if serial p then fld s SP_MAP_SC_BIT p else fld s DP_MAP_SC_BIT p
  let hash := if serial p then flg s SP_MAP_BG_HASH p else flg s DP_MAP_BG_HASH p
  let sc := (la1 / 2 ^ sb) % 2
  let line := dropBit la1 sb / 64
  let lc := lineLog s p
  let cLo := line % 4
  let bg := (line / 4) % 8
  let cHi := (line / 32) % 2 ^ (lc - 2)
  let bank := (line / 2 ^ (lc + 3)) % 4
  let rest := line / 2 ^ (lc + 5)
  let row := rest % rowsOf s p
  let r2 := rest / rowsOf s p
  let cid := r2 % stackHeight s p
  let r3 := r2 / stackHeight s p
  let prank := r3 % pranks s p
  let r4 := r3 / pranks s p
  { sub := 2 * ch + sc, dimm := r4 % dimmCount s p, prank := prank, cid := cid,
    bg := if hash then bg ^^^ (row % 8) else bg, bank := bank, row := row, col := cHi * 4 + cLo }

/-- The local address of a place: the inverse of `locOf`. -/
def laOf (s : State) (p : Nat) (l : Loc) : Nat :=
  let hash := if serial p then flg s SP_MAP_BG_HASH p else flg s DP_MAP_BG_HASH p
  let bg := if hash then l.bg ^^^ (l.row % 8) else l.bg
  let lc := lineLog s p
  let rest := ((l.dimm * pranks s p + l.prank) * stackHeight s p + l.cid) * rowsOf s p + l.row
  let line := l.col % 4 + 4 * bg + 32 * (l.col / 4) + 2 ^ (lc + 3) * l.bank + 2 ^ (lc + 5) * rest
  let sb := if serial p then fld s SP_MAP_SC_BIT p else fld s DP_MAP_SC_BIT p
  let a := putBit (line * 64) sb (l.sub % 2)
  if serial p && flg s SP_POP_CH1 p then putBit a (fld s SP_MAP_CH_BIT p) (l.sub / 2) else a

/-- Number of a bank within its sub-channel. -/
def bankNo (l : Loc) : Nat := (((l.dimm * 2 + l.prank) * 8 + l.cid) * 8 + l.bg) * 4 + l.bank

/-- Number of a logical rank of the port. -/
def rankNo (ch dimm prank cid : Nat) : Nat := ((ch * 2 + dimm) * 2 + prank) * 8 + cid
def rankOfLoc (l : Loc) : Nat := rankNo (l.sub / 2) l.dimm l.prank l.cid

/-- DIMM of the port, 2c + d. -/
def dimmOf (l : Loc) : Nat := 2 * (l.sub / 2) + l.dimm

/-- DIMM slot of the durability footprint (Table 3.4). -/
def dimmSlot (p dimm : Nat) : Nat := if serial p then 8 + 4 * (p - 4) + dimm else 2 * p + dimm

/-- Port and DIMM of a slot. -/
def slotPort (sl : Nat) : Nat := if sl < 8 then sl / 2 else 4 + (sl - 8) / 4
def slotDimm (sl : Nat) : Nat := if sl < 8 then sl % 2 else (sl - 8) % 4

/-- Mark entry of a place (R229). -/
def markEntry (l : Loc) : Nat := 4 * l.sub + 2 * l.dimm + l.prank

/-- Marked device of an entry, if any. -/
def markOf (s : State) (p k : Nat) : Option Nat :=
  let w := if k < 8 then fld s EC_MARK0_DEV p else fld s EC_MARK1_DEV p
  let d := bits w (4 * (k % 8)) 4
  if d = 15 then none else some d

/-- Row key, laid out as RM_ADD [29:0]. -/
def rowKey (l : Loc) : Nat :=
  l.sub + l.dimm * 4 + l.prank * 8 + l.cid * 16 + l.bg * 128 + l.bank * 1024 + l.row * 4096

/-- The place of column 0 of a row key. -/
def keyLoc (k : Nat) : Loc :=
  { sub := bits k 0 2, dimm := bits k 2 1, prank := bits k 3 1, cid := bits k 4 3, bg := bits k 7 3, bank := bits k 10 2,
    row := bits k 12 18, col := 0 }

/-! ### Error logs (R239, R240) -/

def logCount (l : Log) : Nat := (l.head.toNat + 64 - l.tail.toNat) % 64

/-- Write an entry into log k, or count it lost. -/
def logPush (k : Nat) (e : LogEntry) (s : State) : State :=
  let l := mgetD s.logs k {}
  let l1 := if logCount l ≥ 32 then { l with lost := if l.lost = 255 then 255 else l.lost + 1 }
    else { l with slots := mput l.slots (l.head.toNat % 32) e, head := l.head + 1 }
  { s with logs := mput s.logs k l1 }

/-- Time stamp of an entry: count [47:16]. -/
def whenWord (s : State) : Word := BitVec.ofNat 32 (s.count.toNat / 65536)

/-- An entry of the engine log. -/
def logEngine (typ w1 detail : Nat) (s : State) : State :=
  logPush 20 { w0 := BitVec.ofNat 32 (typ + 0x1F * 256 + 0xF * 1048576), w1 := BitVec.ofNat 32 w1,
               w2 := BitVec.ofNat 32 (detail * 16), w3 := whenWord s } s

/-- An entry of a port's log; la is the address where the type has one. -/
def logPort (p typ dev : Nat) (la : Option Nat) (detail : Nat) (s : State) : State :=
  let l := match la with
    | none => ({} : Loc)
    | some a => locOf s p a
  let a := la.getD 0
  logPush p { w0 := BitVec.ofNat 32 (typ + p * 256 + l.sub * 8192 + l.dimm * 32768 + l.prank * 65536 + l.cid * 131072 + dev * 1048576),
              w1 := BitVec.ofNat 32 (a / 64),
              w2 := BitVec.ofNat 32 (bits a 38 3 + (if la.isSome then 8 else 0) + detail * 16), w3 := whenWord s } s

/-- A CE entry, held back by EL_CTL.CE_GAP (R239). -/
def logCe (p dev la detail : Nat) (s : State) : State :=
  let l := mgetD s.logs p {}
  let gap := fld s EL_CTL_CE_GAP * edgesUs
  match l.ceLast with
  | some t => if s.clk < t + gap then s else
      logPort p 1 dev (some la) detail { s with logs := mput s.logs p { l with ceLast := some s.clk } }
  | none => logPort p 1 dev (some la) detail { s with logs := mput s.logs p { l with ceLast := some s.clk } }

/-- CFG_REJECT (R462, R464): log, count and raise. src is SOURCE, st the stall of the per-stall window. -/
def reject (off reason : Nat) (s : State) (src : Nat := 0) (st : Nat := 0) : State :=
  let s1 := logEngine 0x10 off (reason + src * 16 + st * 256) s
  let s2 := setFld CFG_REJ_OFFSET 0 off s1
  let s3 := setFld CFG_REJ_REASON 0 reason s2
  raise 45 (addFld CFG_REJ_COUNT 0 1 s3)

/-! ### Units of the window, and the configuration CRC (R5, R459, R465 to R468) -/

/-- One bit and one byte of the reflected CRC-32C (R466). -/
def crcBit (c : Nat) : Nat := if c % 2 = 1 then c / 2 ^^^ 0x82F63B78 else c / 2
def crcByte (c b : Nat) : Nat := crcBit (crcBit (crcBit (crcBit (crcBit (crcBit (crcBit (crcBit (c ^^^ b))))))))

/-- CRC-32C of bytes. -/
def crc32c (l : List Nat) : Nat := l.foldl crcByte 0xFFFFFFFF ^^^ 0xFFFFFFFF

/-- Bytes of a word, least significant first. -/
def leBytes (n v : Nat) : List Nat := (List.range n).map fun i => bits v (8 * i) 8

/-- The unit that a register of the window belongs to is implemented, and the register is one of its kind (R5, R140, R252, R459). -/
def unitThere (s : State) (off : Nat) : Bool :=
  let v := s.part.variant
  if 0x200000 ≤ off && off < 0x340000 then
    let p := (off - 0x200000) / 0x10000
    let o := off % 0x10000
    portImpl v p && !(0x200 ≤ o && o < 0x220 && !(serial p && !flg s SP_CTL_MODE p)) && !((o = 0x808 || o = 0x72C) && !serial p)
  else if 0xC0000 ≤ off && off < 0xE0000 then fabImpl v ((off - 0xC0000) / 0x1000)
  else if 0xA0000 ≤ off && off < 0xA1000 then homeImpl v
  else if 0x80100 ≤ off && off < 0x80500 then (off - 0x80100) / 0x100 < ctxCount v
  else if 0x60100 ≤ off && off < 0x60150 then portImpl v ((off - 0x60100) / 4)
  else if 0x60200 ≤ off && off < 0x60250 then portImpl v ((off - 0x60200) / 4)
  else if 0x380800 ≤ off && off < 0x380810 then (off - 0x380800) / 4 * 8192 < stallCount v
  else if 0x381000 ≤ off && off < 0x381400 then (off - 0x381000) / 8 * 256 < stallCount v
  else true

/-- Converters of a port (Table 8.2). -/
def converters (p : Nat) : Nat := if serial p then 81 else 132

/-- CODE and OVR of the converter that TR_TRIM_SEL selects, in their places of TR_TRIM_DAT; a reserved index reads zero (R203). -/
def overrideWord (s : State) (p : Nat) : Nat :=
  let k := fld s TR_TRIM_SEL_IDX p
  if converters p ≤ k then 0 else (mgetD (portOf s p).train.ovr k 0x80).toNat * 65536

/-- Group codes that Table 9.7 lists. -/
def groupListed (g : Nat) : Bool := g < 0x33 || (0x40 ≤ g && g ≤ 0x78)

/-- Groups of Table 9.7 that the variant implements. -/
def groupImpl (v : Variant) (g : Nat) : Bool :=
  if g < 0x20 then g < spadBanks v
  else if g < 0x30 then (match v with
    | .cx3d => g < 0x28
    | _ => true)
  else if g ≤ 0x32 then true
  else if g < 0x40 then false
  else if g < 0x60 then fabImpl v (g - 0x40)
  else if g < 0x74 then portImpl v (g - 0x60)
  else if g = 0x74 || g = 0x75 then true
  else g ≤ 0x78 && v ≠ .cx3d

/-- The staged fields in force of copy i of a register, where the CRC covers it (R466). PLN_SLOTP and the per-stall window are not
directly mapped (R286, R405). (Log 20: DEDUCED.) -/
def crcWord (s : State) (d : RegDesc) (i : Nat) : Option (Nat × Nat) :=
  let off := d.base + i * d.stride
  if d.rs = 0 || off < 0x300 || off = 0x300D0 || off = 0x380020 then none
  else if 0x200000 ≤ off && off < 0x340000 && !portImpl s.part.variant ((off - 0x200000) / 0x10000) then none
  else if d.base = 0x200728 then some (off, overrideWord s i)
  else if unitThere s off then some (off, regAt s off d.rst &&& d.rs)
  else if 0x200000 ≤ off then some (off, if d.base = 0x200808 then d.rs else 0)
  else none

/-- The message of a pass, as words (R466). -/
def crcMessage (s : State) : List Nat :=
  let regs : SMap Nat := (regTable.flatMap fun d => (List.range d.count).filterMap fun k => crcWord s d (d.first + k)).foldl
    (fun m e => mput m e.1 e.2) []
  regs.map (fun e => e.2)
    ++ (List.range (stallCount s.part.variant)).map (fun a => (mgetD s.stalls a {}).cfg1.toNat &&& 0x3FFFFFFF)
    ++ (List.range 72).map (fun i => (mgetD s.en.slotp i 0).toNat &&& 0xFFFF)

def crcOf (s : State) : Nat := crc32c ((crcMessage s).flatMap (leBytes 4))

/-- A boundary or an engine change brought values into force: a pass that runs starts again when they change its message (R467). -/
def crcRestart (s s1 : State) : State :=
  if flg s CFG_CRC_STAT_BUSY && crcMessage s ≠ crcMessage s1 then { s1 with cfg := { s1.cfg with crcAt := s1.clk } } else s1

/-- An engine change of the word at an offset, of the bits of a mask: shadow and value in force take it together, a pending software
value that differs is logged OVERRIDE, and the CRC reference follows (R465, R467, R468). src is the SOURCE of R464. -/
def engWord (off rst mask v src : Nat) (s : State) : State :=
  let cur := regAt s off rst
  let pend := stagedAt s off rst
  let lost := (pend ^^^ cur) &&& mask ≠ 0 && (pend ^^^ v) &&& mask ≠ 0
  let s1 := setWord off (overlay mask v cur) s
  let s2 := match mget s1.shadow off with
    | none => s1
    | some _ =>
      let w := overlay mask v pend
      if w = overlay mask v cur then { s1 with shadow := mdel s1.shadow off }
      else { s1 with shadow := mput s1.shadow off (BitVec.ofNat 32 w) }
  let s3 := if (cur ^^^ v) &&& mask = 0 then s2
    else crcRestart s (setFld CFG_CRC_REF_REF 0 (fld s CFG_CRC_REF_REF ^^^ crcOf s ^^^ crcOf s2) s2)
  if lost then reject off 0xB s3 src else s3

/-- An automatic engine change of a staged field of copy i. -/
def engFld (f : Fld) (i v : Nat) (s : State) (src : Nat := 3) : State :=
  engWord (f.off i) f.rst ((2 ^ f.w - 1) <<< f.lo) ((v % 2 ^ f.w) <<< f.lo) src s

/-- Marks of a port changed: the buffer of a native link is told by a CODE packet (R230). -/
def marksNew (p : Nat) (s : State) : State := if serial p && !cx2 s p then modLink p (fun k => { k with codeDue := true }) s else s

/-- A host command writes a staged field: the port boundary applies it, whatever HOLD is (R465). -/
def stageFld (f : Fld) (i v : Nat) (s : State) : State :=
  let off := f.off i
  let pend := staged s f i
  let s1 := { s with shadow := mput s.shadow off (BitVec.ofNat 32 (withBits (stagedAt s off f.rst) f.lo f.w v)),
                     cfg := { s.cfg with own := insNat s.cfg.own off } }
  if !s.cfg.own.contains off && pend ≠ fld s f i && pend ≠ v % 2 ^ f.w then reject off 0xB s1 2 else s1

/-! ### Memory lines -/

/-- Key of a DRAM byte: port and local byte address. -/
def dkey (p la : Nat) : Nat := p * 2 ^ 41 + la

/-- Store one byte; zero is what an unlisted address reads as. -/
def putByte (m : SMap Byte) (a : Nat) (b : Byte) : SMap Byte := if b = 0 then mdel m a else mput m a b

/-- Byte i of a line. -/
def lineByte (d : Line) (i : Nat) : Byte := d.extractLsb' (8 * i) 8

/-- The line at byte address a of a byte table. -/
def lineAt (m : SMap Byte) (a : Nat) : Line :=
  (List.range 64).foldr (fun i (acc : Line) => (acc <<< 8) ||| (mgetD m (a + i) 0).setWidth 512) 0

/-- Store the enabled bytes of a line, from byte i on. -/
def putLineFrom (d : Line) (be : BitVec 64) (a : Nat) : Nat → SMap Byte → SMap Byte
  | 0, m => m
  | n + 1, m =>
    let i := 63 - n
    putLineFrom d be a n (if be.getLsbD i then putByte m (a + i) (lineByte d i) else m)

/-- Store the enabled bytes of a line. -/
def putLine (m : SMap Byte) (a : Nat) (d : Line) (be : BitVec 64) : SMap Byte := putLineFrom d be a 64 m

/-- d with the enabled bytes of e over it. -/
def mergeLine (d e : Line) (be : BitVec 64) : Line :=
  (List.range 64).foldl (fun (acc : Line) i =>
    if be.getLsbD i then (acc &&& ~~~((255 : Line) <<< (8 * i))) ||| (e &&& ((255 : Line) <<< (8 * i))) else acc) d

def allBytes : BitVec 64 := BitVec.allOnes 64

/-! ### Row-remap placement (R241, R243) -/

/-- The remap slot of a row, if it holds an entry. -/
def remapOf (s : State) (p key : Nat) : Option (Nat × Remap) :=
  ((portOf s p).prot.remap.find? fun e => e.2.key = key)

/-- Byte offset of line col of a slot in the scratchpad (LOC = 0b01), or local address (LOC = 0b10). -/
def slotSpad (s : State) (p slot col : Nat) : Nat := fld s RM_CTL_BANK p * 524288 + slot * 8192 + col * 64
def slotLocal (s : State) (p slot col : Nat) : Nat := (capG s p - 1) * 2 ^ 30 + slot * 8192 + col * 64

/-- Where a DRAM line is held now: in its row, in a scratchpad slot, or in a DRAM slot. -/
inductive Place where
  | dram (la : Nat)
  | spad (off slot col : Nat)
  deriving DecidableEq, Repr

def placeOf (s : State) (p la : Nat) : Place :=
  let l := locOf s p la
  match remapOf s p (rowKey l) with
  | none => .dram la
  | some (slot, r) =>
    let served := match r.st with
      | .copy => l.col < r.copied
      | .active => true
      | .ret => r.copied ≤ l.col
    if !served then .dram la
    else if fld s RM_CTL_LOC p = 1 then .spad (slotSpad s p slot l.col) slot l.col
    else .dram (slotLocal s p slot l.col)

/-- A line of a DRAM port as stored: its data and whether it is poisoned. -/
def readStored (s : State) (p la : Nat) : Line × Bool :=
  match placeOf s p la with
  | .dram a => (lineAt s.dram (dkey p a), s.poison.contains (dkey p a))
  | .spad off slot col =>
    (lineAt s.spad off, match mget (portOf s p).prot.remap slot with
      | some r => r.poison.contains col
      | none => false)

/-- A rank of the place cannot hold poison: x8 with a marked device (R228). -/
def noPoison (s : State) (p la : Nat) : Bool := isX8 s p && (markOf s p (markEntry (locOf s p la))).isSome

/-- Set or clear the poison of a stored line. -/
def setPoison (p la : Nat) (b : Bool) (s : State) : State :=
  match placeOf s p la with
  | .dram a => { s with poison := if b then insNat s.poison (dkey p a) else s.poison.erase (dkey p a) }
  | .spad _ slot col =>
    modProt p (fun q => match mget q.remap slot with
      | some r => { q with remap := mput q.remap slot { r with poison := if b then insNat r.poison col else r.poison.erase col } }
      | none => q) s

/-- Store bytes of a line of a DRAM port. -/
def writeBytes (p la : Nat) (d : Line) (be : BitVec 64) (s : State) : State :=
  match placeOf s p la with
  | .dram a => { s with dram := putLine s.dram (dkey p a) d be }
  | .spad off _ _ => { s with spad := putLine s.spad off d be }

/-- Store a whole line with its poison state; a line that cannot hold poison is counted and logged POISON_LOST (R228). -/
def storeLine (p la : Nat) (d : Line) (poison : Bool) (origin : Nat) (s : State) : State :=
  let s1 := writeBytes p la d allBytes s
  if poison && noPoison s p la then
    setPoison p la false (logPort p 0x0F 15 (some la) (origin * 32) (addFld EC_CNT1_POISON_WR p 1 s1))
  else setPoison p la poison s1

/-- The contents of some DIMMs of a port are lost (R408, R160, R428): their bytes are memory that nothing has written. -/
def loseDimms (p : Nat) (gone : Nat → Bool) (s : State) : State :=
  let keep (k : Nat) : Bool := !(k / 2 ^ 41 = p && gone (dimmOf (locOf s p (k % 2 ^ 41))))
  { s with dram := s.dram.filter (fun e => keep e.1), poison := s.poison.filter keep }

/-- Zero-fill every line of one DIMM of a port with good check bytes (R160). -/
def zeroDimm (p dimm : Nat) (s : State) : State := loseDimms p (fun d => d = dimm) s

/-! ### Scratchpad (R45, R475) -/

def spadBase : Nat := 0x3FFF00000000

/-- A scratchpad bank serves accesses: powered, not fenced for a test, not a remap spare bank (R409, R248, R241). -/
def spadServes (s : State) (off : Nat) : Bool :=
  let bank := off / 524288
  let spare := (List.range 20).any fun p => fld s RM_CTL_LOC p = 1 && fld s RM_CTL_BANK p = bank
  let offDom : Bool := match mget s.pw.doms 49 with
    | some .off => true
    | _ => false
  !offDom && !spare && bits (fld s MT_FENCE_BANKS) bank 1 = 0

/-- A word moves to a spare (R246). -/
def sramRemap (g w : Nat) (s : State) : State :=
  let q := mgetD s.sram g {}
  if q.spares.contains w then s
  else if q.spares.length < 16 then
    logEngine 0x0B (g + w * 256) q.spares.length { s with sram := mput s.sram g { q with spares := q.spares ++ [w] } }
  else if q.degraded then s
  else raise 25 { s with sram := mput s.sram g { q with degraded := true } }

/-- An error of a word of an on-chip group: logged, and at the index of the group's last error the word moves to a spare (R245,
R246). -/
def sramError (typ g w : Nat) (s : State) : State :=
  let q := mgetD s.sram g {}
  let s1 := logEngine typ (g + w * 256) 0 { s with sram := mput s.sram g { q with lastErr := some w } }
  if q.lastErr = some w then sramRemap g w s1 else s1

/-- A scratchpad line met a parity error (R471): the first bad word of the line is counted and logged (SRAM_PAR). -/
def spadParity (off : Nat) (s : State) : State :=
  let bank := off / 524288
  let i := ((List.range 64).find? fun i => s.spadBad.contains (off + i)).getD 0
  let word := (off % 524288 + i) / 8
  sramError 8 bank word (setFld SPAD_PWORD_WORD 0 word (setFld SPAD_PERR_BANK 0 bank (addFld SPAD_PERR_COUNT 0 1 s)))

/-- Bytes of a scratchpad line whose parity is inverted. -/
def spadLineBad (s : State) (off : Nat) : Bool := (List.range 64).any fun i => s.spadBad.contains (off + i)

/-- Read a scratchpad line: data and status of the beat. -/
def spadRead (s : State) (off : Nat) : LineRes × State :=
  if spadLineBad s off then ({ data := lineAt s.spad off, bst := 1, sts := 1 }, spadParity off s)
  else ({ data := lineAt s.spad off }, s)

/-- Write bytes of a scratchpad line; poison stores them with inverted parity (R475). -/
def spadWrite (off : Nat) (d : Line) (be : BitVec 64) (poison : Bool) (s : State) : State :=
  let touched := (List.range 64).filter fun i => be.getLsbD i
  { s with
    spad := putLine s.spad off d be
    spadBad := touched.foldl (fun acc i => if poison then insNat acc (off + i) else acc.erase (off + i)) s.spadBad }

/-! ### Footprints (R72, R318, R343) -/

/-- The 73-bit domain or footprint in three words from an offset. -/
def foot3 (s : State) (off : Nat) : BitVec 73 :=
  BitVec.ofNat 73 (regAt s off 0 + regAt s (off + 4) 0 * 2 ^ 32 + regAt s (off + 8) 0 * 2 ^ 64)

def setFoot3 (off : Nat) (v : BitVec 73) (s : State) : State :=
  setWord off (v.toNat % 2 ^ 32) (setWord (off + 4) (bits v.toNat 32 32) (setWord (off + 8) (bits v.toNat 64 9) s))

/-- Add slot i (72 = scratchpad) to a footprint in registers. -/
def addFoot (off i : Nat) (s : State) : State := setFoot3 off (foot3 s off ||| BitVec.ofNat 73 (2 ^ i)) s

def fpFoot (n : Nat) : Nat := 0xC0020 + n * 0x1000
def ringFoot : Nat := 0xA0040
def ctxFoot (c : Nat) : Nat := 0x80140 + c * 0x100

/-- Slot of a local address. -/
def slotOf (s : State) (p la : Nat) : Nat := dimmSlot p (dimmOf (locOf s p la))

/-- The durable domain in force (R390). -/
def domainNow (s : State) : BitVec 73 := foot3 s 0x300E0

/-- Judgement of a DURABLE against the domain (R71): true gives OK. -/
def durableOk (s : State) (foot : BitVec 73) : Bool :=
  domainNow s != 0 && (foot &&& ~~~(domainNow s)) == 0

end Sys2Proof.Machine
end

