-- ==== Sys2Proof/Machine/Flags.lean ====
section
/-!
DEFINITION. What the decoder makes of a line, and the counters, log entries, causes and repairs that follow (chapter 9).
-/

namespace Sys2Proof.Machine

/-! ### The code (R222 to R226) -/

/-- Symbol positions that an error pattern hits. -/
def errSyms (e : Burst) : List Nat := (List.range 80).filter fun p => e.extractLsb' (8 * p) 8 != 0

/-- Device of a symbol position (Table 9.1). -/
def symDev (x8 : Bool) (p : Nat) : Nat := if x8 then p / 16 else p / 8

/-- The one device that holds every position of a list. -/
def oneDev (x8 : Bool) (l : List Nat) : Option Nat :=
  match l with
  | [] => none
  | p :: r => if r.all fun q => symDev x8 q = symDev x8 p then some (symDev x8 p) else none

/-- Table 9.2, column "Corrects". -/
def correctable (x8 : Bool) (mark : Option Nat) (l : List Nat) : Bool :=
  match x8, mark with
  | false, none => (oneDev false l).isSome || l.length ≤ 2
  | false, some m => (l.filter fun p => symDev false p != m).length ≤ 2
  | true, none => l.length ≤ 8
  | true, some m => l.all fun p => symDev true p = m

/-- Table 9.2, column "Always detects", for a pattern that is not correctable. -/
def detects (x8 : Bool) (mark : Option Nat) (l : List Nat) : Bool :=
  match x8, mark with
  | false, none => l.length ≤ 8
  | false, some m => (l.filter fun p => symDev false p != m).length ≤ 6
  | true, _ => false

/-- Outcome of a decode (R225): good; good, corrected; poisoned; poisoned, corrected; uncorrectable. A correction carries the
number of symbols and the device that it was confined to. -/
inductive Dec where
  | good
  | fixed (n : Nat) (dev : Option Nat)
  | poisoned
  | poisFixed (n : Nat) (dev : Option Nat)
  | bad
  deriving DecidableEq, Repr

/-- The data part of an error pattern. -/
def errData (e : Burst) : Line := e.extractLsb' 0 512

/-- The poison pattern: 0xA5 in each of the 16 check positions (R226). -/
def poisonPattern : Burst := BitVec.ofNat 640 (0xA5A5A5A5A5A5A5A5A5A5A5A5A5A5A5A5 <<< 512)

/-- Decode on an x8 rank with device m marked: erasure decoding always gives a good line, corrected where the burst differs from a good
line's (R225, Table 9.2). Poison is an error like any other there (R228). -/
def decodeErased (m : Nat) (data : Line) (poison : Bool) (e : Burst) : Dec × Line :=
  let e1 := if poison then e ^^^ poisonPattern else e
  let l := errSyms e1
  if l = [] then (.good, data)
  else if correctable true (some m) l then (.fixed l.length (some m), data)
  else (.fixed 16 (some m), data ^^^ Config.erased m e1)

/-- Decode a stored line with an error pattern over its burst (R225); the data as the decoder returns it. A pattern that
Table 9.2 neither corrects nor always detects is decided by the part (`Config.miss`). -/
def decodeBurst (x8 : Bool) (mark : Option Nat) (data : Line) (poison : Bool) (e : Burst) : Dec × Line :=
  match x8, mark with
  | true, some m => decodeErased m data poison e
  | _, _ =>
  let l := errSyms e
  let fix (n : Nat) (d : Option Nat) : Dec := if poison then .poisFixed n d else .fixed n d
  if l = [] then (if poison then .poisoned else .good, data)
  else if correctable x8 mark l then (fix l.length (oneDev x8 l), data)
  else if detects x8 mark l then (.bad, data ^^^ errData e)
  else match Config.miss x8 mark e with
    | none => (.bad, data ^^^ errData e)
    | some c => (fix (errSyms c).length (oneDev x8 (errSyms c)), data ^^^ errData e ^^^ errData c)

/-- Decode a line of a port that was stored as (data, poison). -/
def decodeLine (s : State) (p la : Nat) (data : Line) (poison : Bool) (e : Burst) : Dec × Line :=
  decodeBurst (isX8 s p) (markOf s p (markEntry (locOf s p la))) data poison e

/-! ### Counters, windows and logs (R238) -/

/-- ORIGIN codes of Table 9.6. -/
def orgDemand : Nat := 0
def orgRmw : Nat := 1
def orgScrub : Nat := 2
def orgRemap : Nat := 3
def orgTrain : Nat := 4
def orgCopy : Nat := 5
def orgPwb : Nat := 6

/-- Raise ECC_CE_TH now, or leave it due one second after the last (R238). -/
def ceThRaise (p : Nat) (s : State) : State :=
  let q := (portOf s p).prot
  match q.ceLast with
  | some t =>
    if s.clk < t + 1000 * edgesMs then modProt p (fun r => { r with ceRaiseDue := true }) s
    else raise 21 (modProt p (fun r => { r with ceRaiseDue := false, ceLast := some s.clk }) s) (some p)
  | none => raise 21 (modProt p (fun r => { r with ceRaiseDue := false, ceLast := some s.clk }) s) (some p)

/-- Count one correction in the one-second window (R238). -/
def ceWindow (p : Nat) (s : State) : State :=
  let q := (portOf s p).prot
  let th := fld s EC_CTL_CE_TH p
  let open1 := match q.ceOpen with
    | some t => if s.clk < t + 1000 * edgesMs then some t else none
    | none => none
  let n := match open1 with
    | some _ => q.ceCount + 1
    | none => 1
  let start := open1.getD s.clk
  if th ≠ 0 ∧ n ≥ th then ceThRaise p (modProt p (fun r => { r with ceOpen := none, ceCount := 0 }) s)
  else modProt p (fun r => { r with ceOpen := some start, ceCount := n }) s

/-- Device number for a log entry. -/
def devCode (d : Option Nat) : Nat := d.getD 15

/-! ### Row remap triggers (R242, R243) -/

def copyRunning (s : State) (p : Nat) : Bool := (portOf s p).prot.remap.any fun e => e.2.st = .copy || e.2.st = .ret

def remapFull (p la cause : Nat) (s : State) : State :=
  let s1 := logPort p 7 15 (some la) (cause * 64) s
  if fld s RM_CTL_LOC p = 0 then s1 else
  let s2 := setFld RM_STAT_FULL p 1 s1
  if (portOf s2 p).prot.fullPass then s2
  else raise 24 (modProt p (fun q => { q with fullPass := true }) s2) (some p)

/-- Lowest free slot. -/
def freeSlot (s : State) (p : Nat) : Option Nat :=
  (List.range 64).find? fun k => (mget (portOf s p).prot.remap k).isNone

/-- Keep RM_STAT.USED and COPY equal to the table. -/
def remapStat (p : Nat) (s : State) : State :=
  setFld RM_STAT_USED p (portOf s p).prot.remap.length
    (setFld RM_STAT_COPY p (if (portOf s p).prot.remap.any fun e => e.2.st = .copy then 1 else 0) s)

/-- Kinds of pauses: 0 to 3 as Table 8.4 orders a round; then command/address training, rate change, soft repair, and the mode-register
accesses of Lantern (R347). -/
def kindCa : Nat := 4
def kindRate : Nat := 5
def kindRepair : Nat := 6
def kindMode : Nat := 7

/-- A trigger for the row of a local address; cause as in Table 9.6 (0 uncorrectable, 1 corrections, 2 RM_ADD, 3 march). -/
def remapTrigger (p la cause : Nat) (s : State) : State :=
  let key := rowKey (locOf s p la)
  if (remapOf s p key).isSome then s
  else if copyRunning s p then s
  else if fld s RM_CTL_LOC p = 0 then remapFull p la cause s
  else match freeSlot s p with
    | none => remapFull p la cause s
    | some k =>
      let s1 := modProt p (fun q => { q with remap := mput q.remap k { key := key, st := .copy } }) s
      raise 23 (logPort p 6 15 (some la) (k + cause * 64) (remapStat p s1)) (some p)

/-- What a read's outcome counts and logs, whatever its origin (R238, R239, R242). `wb` counts a corrected write-back. -/
def noteDecode (p la : Nat) (d : Dec) (origin : Nat) (wb : Bool) (s : State) : State :=
  let fixed (n : Nat) (dev : Option Nat) : State :=
    let s1 := addFld EC_CNT0_CE p 1 s
    let s2 := if wb then addFld EC_CNT2_SCRUB_WB p 1 s1 else s1
    ceWindow p (logCe p (devCode dev) la (min n 31 + origin * 32) s2)
  match d with
  | .good => s
  | .poisoned => s
  | .fixed n dev => fixed n dev
  | .poisFixed n dev => fixed n dev
  | .bad =>
    let s1 := addFld EC_CNT0_UE p 1 s
    let s2 := raise 20 (logPort p 2 15 (some la) (origin * 32) s1) (some p)
    if flg s2 RM_CTL_AUTO_UE p then remapTrigger p la 0 s2 else s2

/-- A line that was stored poisoned (R225 outcomes 2 and 4). -/
def Dec.wasPoison (d : Dec) : Bool :=
  match d with
  | .poisoned => true
  | .poisFixed _ _ => true
  | _ => false

/-- A poisoned line returned to a request (R238); an uncorrectable one counts as such alone. (Log 78: DEDUCED.) -/
def notePoisonRead (p la : Nat) (d : Dec) (origin : Nat) (s : State) : State :=
  if d.wasPoison then logPort p 3 15 (some la) (origin * 32) (addFld EC_CNT1_POISON_RD p 1 s) else s

/-- A line stored poisoned: store it, count and log (R226, R228). -/
def storePoisoned (p la : Nat) (d : Line) (origin : Nat) (s : State) : State :=
  if noPoison s p la then storeLine p la d true origin s
  else storeLine p la d true origin (logPort p 4 15 (some la) (origin * 32) (addFld EC_CNT1_POISON_WR p 1 s))

/-- A poisoned or uncorrectable outcome. -/
def Dec.tainted : Dec → Bool
  | .poisoned => true
  | .poisFixed _ _ => true
  | .bad => true
  | _ => false

/-- Beat of a demand read with that outcome: data, RD_BST and line status (Table 2.5, R227). -/
def decBeat (d : Dec) (x : Line) : LineRes :=
  match d with
  | .good => { data := x }
  | .fixed _ _ => { data := x }
  | .poisoned => { data := x, bst := 1, sts := 1 }
  | .poisFixed _ _ => { data := x, bst := 1, sts := 1 }
  | .bad => { data := x, bst := 1, sts := 1 }

/-- The outcome of a flight: what the buffer's ERR packet reported (R231), else what the code makes of its burst. -/
def decodeFlight (s : State) (p : Nat) (f : Flight) (e : Burst) : Dec × Line :=
  match f.err with
  | none => decodeLine s p f.req.la f.data f.poison e
  | some (k, sym, n) =>
    let dev := if sym = 0x1F then none else some sym.toNat
    (match k with
     | 0 => if f.poison then .poisFixed n dev else .fixed n dev
     | 1 => .bad
     | _ => .poisoned, f.data)

/-! ### Status of a request from its lines (R37) -/

/-- A line status that is a failure. -/
def stsFails (t : BitVec 4) : Bool := t.toNat ≥ 2

/-- Status of a request whose lines, in address order, have these results. -/
def reqStatus (cut : Bool) (l : List LineRes) : BitVec 4 :=
  if cut then 6
  else match l.find? fun r => stsFails r.sts with
    | some r => r.sts
    | none => if l.any fun r => r.sts = 1 then 1 else 0

end Sys2Proof.Machine
end

