-- ==== Sys2Proof/Machine/Operands.lean ====
section
/-!
DEFINITION. The operand forms: where an address leads (chapter 2), what a request word must hold (Tables 2.2 to 2.4), and the
class, deadline and record that a request is bound to (chapter 4).
-/

namespace Sys2Proof.Machine

/-! ### Addresses (R45, R46) -/

/-- What an engine physical address names. -/
inductive Target where
  | dram (p la : Nat)
  | spad (off : Nat)
  /-- a scratchpad bank that the variant lacks (R6) -/
  | absent
  | nowhere
  deriving DecidableEq, Repr

/-- An address lies in interleave set n, which is enabled. -/
def inSet (s : State) (n a : Nat) : Bool :=
  flg s IS_CTL_EN n && fld s IS_BASE_BASE_G n * 2 ^ 30 ≤ a && a < (fld s IS_BASE_BASE_G n + fld s IS_SIZE_SIZE_G n) * 2 ^ 30

/-- PORT and LOFF_G of member m of set n. -/
def memberWord (s : State) (n m : Nat) : Nat := regAt s (0x28010 + n * 0x100 + 4 * m) 0

/-- The decode of R46 in set n. -/
def decodeSet (s : State) (n a : Nat) : Nat × Nat :=
  let off := a - fld s IS_BASE_BASE_G n * 2 ^ 30
  let g := 256 * 2 ^ fld s IS_CTL_GRAN n
  let k := fld s IS_CTL_NLOG n
  let chunk := off / g
  let low := chunk % 2 ^ k
  let up := chunk / 2 ^ k
  let low1 := if flg s IS_CTL_HASH n then low ^^^ (up % 2 ^ k) ^^^ ((up / 2 ^ k) % 2 ^ k) else low
  let w := memberWord s n low1
  (bits w 0 5, bits w 16 11 * 2 ^ 30 + up * g + off % g)

/-- Address decode (R17 stage 3, R33 steps 4 and 5). -/
def target (s : State) (a : Nat) : Target :=
  if spadBase ≤ a then
    let off := a - spadBase
    if off < 2 ^ 24 then (if off / 524288 < spadBanks s.part.variant then .spad off else .absent) else .nowhere
  else match (List.range 8).find? fun n => inSet s n a with
    | some n => let d := decodeSet s n a; .dram d.1 d.2
    | none => .nowhere

/-! ### The request word (R29 to R31) -/

/-- Bytes of a SIZE code. -/
def sizeBytes (z : Nat) : Nat := 2 ^ z

/-- SIZE and AOP name an atomic of Table 2.4. -/
def atomicOk (aop size : Nat) : Bool := aop < 10 && (size < 4 || (size = 4 && aop = 2))

/-- Fields common to every opcode: reserved bits zero, DL zero without DLV (R29). -/
def commonOk (w : ReqWord) : Bool := w.rsvd == 0 && (w.dlv || w.dl == 0)

/-- RD, WR and WRZ (Table 2.3): line-aligned, within 4 KiB, SIZE and AOP zero. -/
def rdOk (w : ReqWord) : Bool :=
  commonOk w && w.addr.toNat % 64 = 0 && w.addr.toNat % 4096 + 64 * (w.len.toNat + 1) ≤ 4096 && w.size == 0 && w.aop == 0

/-- LR and SC: one line, not in the scratchpad. -/
def lrOk (w : ReqWord) : Bool :=
  commonOk w && w.addr.toNat % 64 = 0 && w.len == 0 && w.size == 0 && w.aop == 0 && w.addr.toNat < spadBase

/-- AMO. -/
def amoOk (w : ReqWord) : Bool :=
  commonOk w && w.len == 0 && atomicOk w.aop.toNat w.size.toNat && w.addr.toNat % sizeBytes w.size.toNat = 0
    && w.addr.toNat < spadBase

/-- Barriers: ADDR, LEN, SIZE and AOP unused. -/
def barOk (w : ReqWord) : Bool := commonOk w && w.addr == 0 && w.len == 0 && w.size == 0 && w.aop == 0

/-- Operand, compare and new value of an atomic beat (R31). -/
def opField (d : Line) (pos n : Nat) : Nat := (d.toNat >>> (8 * pos)) % 2 ^ (8 * n)

/-- The atomic unit (R314): old value, new value of n bytes. -/
def atomicOp (aop n old opd new : Nat) : Nat :=
  match aop with
  | 0 => (old + opd) % 2 ^ (8 * n)
  | 1 => opd
  | 2 => if old = opd then new else old
  | 3 => old &&& opd
  | 4 => old ||| opd
  | 5 => old ^^^ opd
  | 6 => if asSigned (8 * n) old ≤ asSigned (8 * n) opd then old else opd
  | 7 => if asSigned (8 * n) old ≤ asSigned (8 * n) opd then opd else old
  | 8 => min old opd
  | _ => max old opd

/-- An atomic on a line: the line with the new value, and the answer with the old value in bytes 0 to n - 1 (R31). -/
def atomicLine (aop size off : Nat) (opd line : Line) : Line × Line :=
  let n := sizeBytes size
  let old := (line.toNat >>> (8 * off)) % 2 ^ (8 * n)
  let v := atomicOp aop n old (opField opd 0 n) (opField opd 32 n)
  (BitVec.ofNat 512 (withBits line.toNat (8 * off) (8 * n) v), BitVec.ofNat 512 old)

/-! ### Class, deadline and record (R81 to R88) -/

/-- The tick that DL names about an acceptance tick (R32). -/
def deadlineOf (acc : Int) (dl : Nat) : Int :=
  let d := ((dl : Int) - acc) % 16777216
  if d < 8388608 then acc + d else acc + d - 16777216

/-- A request accepted on record t, counted there: its binding and the state (R81, R82, R85, R87). -/
def bind (t : Nat) (dl : Option Int) (fp : Option (Fin 32)) (s : State) : ReqAttr × State :=
  let acc := tick s
  let tgt := fld s BR_TGT_TGT t
  let cls := fld s BR_CFG_CLASS t
  let base := match dl with
    | some d => d
    | none => if tgt ≠ 0 then acc + tgt else acc + fld s SCH_CTL_AGE * edgesUs
  ({ rcd := some (BitVec.ofNat 8 t), cls := Fin.ofNat 8 cls, demoted := fld s BR_STAT_OUT t ≥ fld s BR_CFG_LIMIT t + 1,
     accept := acc, deadline := dl, base := base, tgt := tgt, fp := fp },
   addFld BR_STAT_OUT t 1 s)

/-- A request with no record (Table 4.2). -/
def unbound (cls : Fin 8) (s : State) : ReqAttr := { cls := cls, accept := tick s, base := tick s }

/-- The record's count falls when the final answer has been transferred (R82). -/
def unbind (a : ReqAttr) (s : State) : State :=
  match a.rcd with
  | none => s
  | some t => setFld BR_STAT_OUT t.toNat (fld s BR_STAT_OUT t.toNat - 1) s

/-- Judge a counted request when its final answer is first offered (R106, R107). -/
def judge (a : ReqAttr) (s : State) : State :=
  match a.rcd with
  | none => s
  | some t =>
    let late : Bool := match a.deadline with
      | some d => tick s > d
      | none => false
    if !(late || (a.tgt ≠ 0 && tick s - a.accept > a.tgt)) then s else
    let s1 := addFld BR_MISS_MISS t.toNat 1 s
    let s2 := if flg s1 SCH_MISS_LOG_VALID then s1
      else setFld SCH_MISS_LOG_VALID 0 1 (setFld SCH_MISS_LOG_TKT 0 t.toNat s1)
    let quiet : Bool := match s2.tb.missLast with
      | some e => s2.clk < e + fld s2 SCH_MISS_CTL_RATE * edgesUs
      | none => false
    if quiet then addFld SCH_MISS_LOG_SUPP 0 1 s2
    else raise 2 { s2 with tb := { s2.tb with missLast := some s2.clk } }

/-- Class at which a request runs (R87). -/
def runClass (a : ReqAttr) : Nat := if a.demoted then 7 else a.cls.val

/-- Urgency level in force for a request (R43, R85). -/
def urgOf (s : State) (a : ReqAttr) : Nat :=
  match a.fp with
  | none => 0
  | some n =>
    let f := fabOf s n.val
    if a.demoted || !flg s FP_CTL_URG_EN n.val || f.fenced || !flg s FP_STATUS_CLK_OK n.val then 0 else f.urg.toNat

end Sys2Proof.Machine
end

