-- ==== Sys2Proof/Machine/Path.lean ====
section
/-!
DEFINITION. The way of a line from its master to its DRAM port and back: waiting at address decode, merge buffer, the home's
ordering point with its snoops and ledger, and the delivery of each line's result (chapters 2, 3, 9 and 11).
-/

namespace Sys2Proof.Machine

/-! ### Results of lines -/

def modReqs (l : List FabReq) (id : Nat) (g : FabReq → FabReq) : List FabReq := l.map fun r => if r.id = id then g r else r

def modLine (l : List FLine) (k : Nat) (g : FLine → FLine) : List FLine := l.modify k g

/-- Change line k of a fabric request. -/
def fabLine (n id k : Nat) (g : FLine → FLine) (s : State) : State :=
  modFab n (fun f => { f with reqs := modReqs f.reqs id fun r => { r with lines := modLine r.lines k g } }) s

def fabFind (s : State) (n id : Nat) : Option FabReq := (fabOf s n).reqs.find? fun r => r.id = id

/-- Opcodes of Table 2.3 that carry write beats. -/
def carriesBeats (opc : Nat) : Bool := opc = 1 || opc = 4 || opc = 5 || opc = 9

/-- A store line has passed the point of coherence (R55): it is performed, its data entry drains and its tally returns (R39). -/
def fabPerformed (n id k : Nat) (s : State) : State :=
  match fabFind s n id with
  | none => s
  | some r =>
    let was := ((r.lines[k]?).getD {}).performed
    let s1 := fabLine n id k (fun x => { x with performed := true }) s
    if was || !carriesBeats r.opc.toNat || (fabOf s n).fenced then s1
    else modFab n (fun f => { f with wdTly := f.wdTly + 1 }) s1

/-- A line of a fabric request has its result. A line of a store that was answered already and fails now waits for a barrier
(R62, R73). -/
def fabLineDone (n id k : Nat) (res : LineRes) (s : State) : State :=
  match fabFind s n id with
  | none => if stsFails res.sts then modFab n (fun f => { f with postFail := f.postFail ++ [res.sts] }) s else s
  | some r =>
    let s1 := fabLine n id k (fun x => { x with ph := .done, res := if r.answered then x.res else res }) (fabPerformed n id k s)
    if r.answered && stsFails res.sts then modFab n (fun f => { f with postFail := f.postFail ++ [res.sts] }) s1 else s1

def ctxOf (s : State) (c : Nat) : Ctx := mgetD s.lant.ctx c {}
def setCtx (c : Nat) (x : Ctx) (s : State) : State := { s with lant := { s.lant with ctx := mput s.lant.ctx c x } }
def modCtx (c : Nat) (g : Ctx → Ctx) (s : State) : State := setCtx c (g (ctxOf s c)) s

/-- An answer has been posted to a source other than a fabric port: judge it, and its record's count falls (R82, R106). -/
def answered (a : ReqAttr) (s : State) : State := unbind a (judge a s)

/-- An access of a Lantern context has its result. -/
def lantLineDone (c num : Nat) (res : LineRes) (s : State) : State :=
  let s0 := match (ctxOf s c).acc.find? fun a => a.num = num && a.res.isNone with
    | some a => answered a.attr s
    | none => s
  setLant s0
where
  setLant (s : State) : State := modCtx c (fun x => { x with acc := x.acc.map fun a => if a.num = num then { a with performed := true, res := some res } else a }) s

def lantPerformed (c num : Nat) (s : State) : State :=
  modCtx c (fun x => { x with acc := x.acc.map fun a => if a.num = num then { a with performed := true } else a }) s

/-! ### Footprints of a store line -/

/-- Footprint word that an owner's stores set; ring stops share one (R318). -/
def footOf (o : Owner) (ring : Bool) : Option Nat :=
  match o with
  | .fab n _ _ => some (fpFoot n.val)
  | .lant c _ => some (ctxFoot c.val)
  | _ => if ring then some ringFoot else none

def modFeet (g : List FootPend → List FootPend) (s : State) : State := { s with home := { s.home with feet := g s.home.feet } }

/-- Store lines that set a slot's bit hold it alone no more. -/
def footFirm (off slot : Nat) (s : State) : State :=
  modFeet (fun l => l.map fun e => if e.off = off && e.slot = slot then { e with alone := false } else e) (addFoot off slot s)

/-- A stall item's ring word sets the slot's bit (R72). -/
def setFoot (o : Owner) (slot : Nat) (s : State) : State :=
  match footOf o false with
  | none => s
  | some off => footFirm off slot s

/-- A store line is performed: it sets its slot's bit, for good unless its write fails (R62, R72). (Log 75: DEDUCED.) -/
def footPerform (key o : Owner) (ring : Bool) (slot : Nat) (s : State) : State :=
  match footOf o ring with
  | none => s
  | some off =>
    let was := (foot3 s off).getLsbD slot
    modFeet (fun l => l ++ [{ owner := key, off := off, slot := slot, alone := !was }]) (addFoot off slot s)

/-- The write of one such line has ended. A failed one sets no bit: its slot's bit goes unless another store line set it (R62, R72). -/
def footEnd (e : FootPend) (ok : Bool) (s : State) : State :=
  let same (x : FootPend) : Bool := x.off = e.off && x.slot = e.slot
  if ok then modFeet (fun l => l.map fun x => if same x then { x with alone := false } else x) s
  else if !e.alone then s
  else match s.home.feet.findIdx? same with
    | some k => modFeet (fun l => l.modify k fun x => { x with alone := true }) s
    | none => setFoot3 e.off (foot3 s e.off &&& ~~~(BitVec.ofNat 73 (2 ^ e.slot))) s

/-- The writes that wait under an owner have ended. -/
def footSettle (key : Owner) (ok : Bool) (s : State) : State :=
  let mine := s.home.feet.filter fun e => e.owner = key
  mine.foldl (fun t e => footEnd e ok t) (modFeet (fun l => l.filter fun e => e.owner ≠ key) s)

/-- A write of CLR, or a reset, clears a footprint of the store lines performed before it (R72). -/
def footClear (off : Nat) (s : State) : State := setFoot3 off 0 (modFeet (fun l => l.filter fun e => e.off ≠ off) s)

/-! ### Reservations (R76 to R78) -/

def modHome (g : Home → Home) (s : State) : State := { s with home := g s.home }

/-- Take a reservation: the master's older one goes; a full table evicts the entry set least recently. -/
def rsvTake (m : Master) (line : Nat) (s : State) : State :=
  let l := s.home.rsv.filter fun e => e.1 ≠ m
  let s1 := if l.length ≥ 256 then addFld HOME_RSV_LOSS_EVICT 0 1 s else s
  modHome (fun h => { h with rsv := (if l.length ≥ 256 then l.tail else l) ++ [(m, line)] }) s1

def rsvHolds (s : State) (m : Master) (line : Nat) : Bool := s.home.rsv.contains (m, line)

def rsvDrop (m : Master) (s : State) : State := modHome (fun h => { h with rsv := h.rsv.filter fun e => e.1 ≠ m }) s

/-- A master loses its reservation to a cause counted in f. -/
def rsvLose (m : Master) (f : Fld) (s : State) : State :=
  if s.home.rsv.any fun e => e.1 = m then rsvDrop m (addFld f 0 1 s) else s

/-- Every reservation on a line, but that of m, is lost to a store (Table 3.5). -/
def rsvStore (m : Option Master) (line : Nat) (s : State) : State :=
  let gone := s.home.rsv.filter fun e => e.2 = line && some e.1 ≠ m
  let s1 := addFld HOME_RSV_LOSS_STORE 0 gone.length s
  modHome (fun h => { h with rsv := h.rsv.filter fun e => !(e.2 = line && some e.1 ≠ m) }) s1

/-- Every reservation is lost (Table 3.5, OTHER). -/
def rsvLoseAll (s : State) : State :=
  modHome (fun h => { h with rsv := [] }) (addFld HOME_RSV_LOSS_OTHER 0 s.home.rsv.length s)

/-! ### Waiting at address decode, and the merge buffer (R66, R99, R232) -/

/-- Port states in which a sub-request fails at once (R410). -/
def portFails (s : State) (p : Nat) : Bool :=
  match pstate s p with
  | .off => true | .stopping => true | .test => true
  | .power => !(portOf s p).dram.holdReq | .init => !(portOf s p).dram.holdReq | .train => !(portOf s p).dram.holdReq
  | .link => !(portOf s p).dram.holdReq | .align => !(portOf s p).dram.holdReq
  | _ => false

/-- Place a sub-request at address decode. -/
def portAdd (p : Nat) (owner : Owner) (la : Nat) (kind : SubKind) (a : ReqAttr) (s : State) : State :=
  let i := newId s
  modDram p (fun d => { d with idleAt := s.clk })
    (modSched p (fun q => { q with wait := q.wait ++ [{ id := i.1, owner := owner, la := la, kind := kind, attr := a }] }) i.2)

def queueCap (p : Nat) : Nat := if serial p then 512 else 256

/-- Close merge-buffer entry e: its read-modify-write, or a full-line write, goes to the queue (R232). -/
def closeEntry (p e : Nat) (s : State) : State :=
  match mget (portOf s p).prot.merge e with
  | none => s
  | some m =>
    if m.closed then s else
    let kind : SubKind := if m.be = allBytes then .write m.data allBytes m.poison else .rmw e
    let i := newId s
    let r : SubReq := { id := i.1, owner := .rmw e, la := m.la, kind := kind, attr := m.attr }
    modSched p (fun q => { q with queue := q.queue ++ [r] })
      (modProt p (fun t => { t with merge := mput t.merge e { m with closed := true } }) i.2)

/-- Close every gathering entry of a port (pause, self-refresh, shutdown, flush). -/
def closeAll (p : Nat) (s : State) : State :=
  ((portOf s p).prot.merge.map fun e => e.1).foldl (fun t e => closeEntry p e t) s

/-- The better of two bindings: highest class, earliest deadline (Table 4.2). -/
def betterAttr (a b : ReqAttr) : ReqAttr :=
  { a with
    cls := if runClass b < runClass a then Fin.ofNat 8 (runClass b) else Fin.ofNat 8 (runClass a)
    demoted := false, accept := min a.accept b.accept, base := min a.base b.base
    deadline := match a.deadline, b.deadline with
      | some x, some y => some (min x y)
      | some x, none => some x
      | none, y => y
    rcd := none, tgt := 0 }

/-- Gathering entry of a line. -/
def gathering (s : State) (p la : Nat) : Option (Nat × Merge) :=
  (portOf s p).prot.merge.find? fun e => e.2.la = la && !e.2.closed && e.1 < 31

/-- Oldest gathering entry. -/
def oldestGather (s : State) (p : Nat) : Option Nat :=
  (((portOf s p).prot.merge.filter fun e => !e.2.closed && e.1 < 31).foldl (fun (acc : Option (Nat × Nat)) e =>
    match acc with
    | none => some (e.1, e.2.opened)
    | some b => if e.2.opened < b.2 then some (e.1, e.2.opened) else acc) none).map fun b => b.1

/-- A partial line joins or opens an entry; none when no entry is free (the oldest then closes, R232). (Log 76: DEDUCED.) -/
def mergeIn (p la : Nat) (d : Line) (be : BitVec 64) (poison : Bool) (a : ReqAttr) (o : Owner) (s : State) : Bool × State :=
  let after (e : Nat) (m : Merge) (t : State) : State :=
    if m.be = allBytes || fld t EC_CTL_GATHER p = 0 then closeEntry p e t else t
  match gathering s p la with
  | some (e, m) =>
    let m1 : Merge := { m with data := mergeLine m.data d be, be := m.be ||| be, poison := m.poison || poison,
                               attr := betterAttr m.attr a, owners := m.owners ++ [o] }
    (true, after e m1 (modProt p (fun t => { t with merge := mput t.merge e m1 }) s))
  | none =>
    match (List.range 31).find? fun e => (mget (portOf s p).prot.merge e).isNone with
    | some e =>
      let m : Merge := { la := la, data := mergeLine 0 d be, be := be, opened := s.clk, attr := a, poison := poison, owners := [o] }
      (true, after e m (modProt p (fun t => { t with merge := mput t.merge e m }) s))
    | none =>
      match oldestGather s p with
      | some e => (false, closeEntry p e s)
      | none => (false, s)

/-! ### The ledger (R296 to R298) -/

def ledgerBits (v : Variant) : Nat := if v = .cx3f then 17 else 16

/-- Set of a line address (address [45:6]). -/
def ledgerSet (v : Variant) (line : Nat) : Nat :=
  let k := ledgerBits v
  ((line % 2 ^ k) ^^^ ((line / 2 ^ k) % 2 ^ k) ^^^ (line / 2 ^ (2 * k))) % 2 ^ k

def ledgerWays (s : State) (line : Nat) : List LedEntry := mgetD s.home.ledger (ledgerSet s.part.variant line) []

def ledgerHit (s : State) (line : Nat) : Option LedEntry := (ledgerWays s line).find? fun e => e.line = line

def setWays (line : Nat) (w : List LedEntry) (s : State) : State :=
  let k := ledgerSet s.part.variant line
  modHome (fun h => { h with ledger := if w = [] then mdel h.ledger k else mput h.ledger k w }) s

/-- Make a line the most recently used of its set, with the given SUSPECT bit. -/
def ledgerTouch (line : Nat) (susp : Bool) (s : State) : State :=
  setWays line (((ledgerWays s line).filter fun e => e.line ≠ line) ++ [{ line := line, suspect := susp }]) s

def ledgerFree (line : Nat) (s : State) : State := setWays line ((ledgerWays s line).filter fun e => e.line ≠ line) s

/-! ### Ring messages (Tables 11.3 and 11.4) -/

def ringSend (m : RingOut) (s : State) : State := modHome (fun h => { h with out := m :: h.out }) s

def ringComp (stop : Nat) (txn : BitVec 8) (line : Nat) (sts : BitVec 4) (s : State) : State :=
  ringSend { cls := 3, op := 2, dst := stop, txn := txn, line := line, sts := sts } s

/-- Live agents (R288). -/
def liveAgents (s : State) : List Nat :=
  (List.range 24).filter fun a => bits (fld s HOME_AGT_EN_EN) a 1 = 1 && bits (fld s HOME_AGT_FAIL_FAILED) a 1 = 0

/-- Log an event of the home (R321). -/
def logHome (line stop event op : Nat) (more : Bool) (s : State) : State :=
  let a := line * 64
  let w1 := if event = 1 then line else (a / 64) % 2 ^ 32
  let det := bits a 41 5 + stop * 32 + (if more then 1024 else 0) + event * 2048 + op * 16384
  logPush 20 { w0 := BitVec.ofNat 32 (0x11 + 0x1F * 256 + 0xF * 1048576), w1 := BitVec.ofNat 32 w1,
               w2 := BitVec.ofNat 32 ((if event = 1 then 0 else bits a 38 3 + 8) + det * 16), w3 := whenWord s } s

/-- A discarded message (R295). -/
def homeProto (line stop op : Nat) (s : State) : State :=
  raise 31 (logHome line stop 2 op false (addFld HOME_CNT2_PROTO 0 1 s))

/-! ### Requests at the home -/

def homeFind (s : State) (id : Nat) : Option HomeReq := s.home.reqs.find? fun r => r.id = id
def homeDrop (id : Nat) (s : State) : State := modHome (fun h => { h with reqs := h.reqs.filter fun r => r.id ≠ id }) s
def homeMod (id : Nat) (g : HomeReq → HomeReq) (s : State) : State :=
  modHome (fun h => { h with reqs := h.reqs.map fun r => if r.id = id then g r else r }) s

def HKind.isStore : HKind → Bool
  | .wb => true | .wru => true | .atom => true | .write => true | .sc => true | .amo => true | _ => false
def HKind.isGrant : HKind → Bool
  | .rds => true | .rdu => true | .upg => true | _ => false
def HKind.isAtomic : HKind → Bool
  | .atom => true | .amo => true | _ => false

/-- OP of the ring request for the log; 0x1F for others (R321). -/
def HKind.op : HKind → Nat
  | .rds => 1 | .rdu => 2 | .upg => 3 | .wb => 4 | .rdo => 5 | .wru => 6 | .atom => 7 | _ => 31

/-- The master of a request at the home (R54). (Log 75: DEDUCED.) -/
def homeMaster (r : HomeReq) : Option Master :=
  match r.owner with
  | .fab n _ _ => some (.fab n)
  | .lant c _ => some (.lant c)
  | _ => if r.stop < 24 then some (.stop (Fin.ofNat 32 r.stop)) else none

/-- Hand a result to the requester: beats for its own masters, RDATA or COMP for a ring stop (Table 11.5); COMP where it failed (R303). -/
def homeAnswer (r : HomeReq) (res : LineRes) (s : State) : State :=
  match r.owner with
  | .fab n id k => fabLineDone n.val id k res s
  | .lant c a => lantLineDone c.val a res s
  | _ =>
    if 24 ≤ r.stop then s
    else answered r.attr (if stsFails res.sts then ringComp r.stop r.txn r.line res.sts s else match r.kind with
      | .rdo => ringSend { cls := 3, op := 3, dst := r.stop, txn := r.txn, line := r.line, sts := res.sts, poison := res.bst = 1,
                           data := some res.data } s
      | .atom => ringSend { cls := 3, op := 3, dst := r.stop, txn := r.txn, line := r.line, sts := res.sts, poison := res.bst = 1,
                            data := some res.data } s
      | _ => ringComp r.stop r.txn r.line res.sts s)

/-- A store line of the request is performed: footprint, PWB tally (R55, R72, R318). -/
def homeStored (r : HomeReq) (s : State) : State :=
  match target s (r.line * 64) with
  | .dram p la =>
    let s1 := footPerform (.home r.id) r.owner (r.stop < 24 && r.kind.isStore) (slotOf s p la) s
    match r.owner with
    | .fab n id k => fabPerformed n.val id k s1
    | .lant c a => lantPerformed c.val a s1
    | _ => s1
  | _ => s

/-- A Lantern context waits for it. -/
def Owner.isLant : Owner → Bool
  | .lant _ _ => true
  | _ => false

/-- The home releases the line (R300). A posted store of a Lantern context ends when its write has executed (R341). -/
def homeRelease (id : Nat) (s : State) : State :=
  match homeFind s id with
  | none => s
  | some r =>
    if r.released then s else
    let s1 := homeMod id (fun x => { x with released := true }) s
    match r.kind with
    | .write => if r.be = allBytes && !r.owner.isLant then homeAnswer r {} (homeStored r s1) else homeStored r s1
    | .wru => if r.be = allBytes then homeAnswer r {} (homeStored r s1) else homeStored r s1
    | .wb => homeAnswer r {} (homeStored r s1)
    | .sc => homeStored r s1
    | .atom => if r.wrote then homeStored r s1 else s1
    | .amo => if r.wrote then homeStored r s1 else s1
    | .read =>
      match r.owner with
      | .fab n fid k => fabPerformed n.val fid k s1
      | .lant c a => lantPerformed c.val a s1
      | _ => s1
    | _ => s1

/-- Send the grant of an RDS, RDU or UPG (R303): state, FWD, line. The ledger keeps the line; E or M ends reservations. -/
def homeGrant (r : HomeReq) (state : BitVec 3) (fwd : Bool) (line : Option (Line × Bool)) (s : State) : State :=
  let s1 := ledgerTouch r.line false s
  let s2 := if state = 3 || state = 4 then rsvStore none r.line s1 else s1
  let pois := match line with
    | some x => x.2
    | none => false
  let s3 := ringSend { cls := 3, op := 1, dst := r.stop, txn := r.txn, line := r.line, state := state, fwd := fwd, poison := pois,
                       sts := if pois then 1 else 0, hold := BitVec.ofNat 7 (fld s HOME_HOLD_UNITS), data := line.map fun x => x.1 } s2
  answered r.attr (homeMod r.id (fun x => { x with granted := true, phase := .ack }) s3)

/-- Where the line of a request lies. -/
def homePlace (s : State) (r : HomeReq) : Option (Nat × Nat) :=
  match target s (r.line * 64) with
  | .dram p la => some (p, la)
  | _ => none

/-- A failed or missing line: the request ends with a status. -/
def homeEnd (r : HomeReq) (sts : BitVec 4) (s : State) : State :=
  homeDrop r.id (homeAnswer r { bst := 2, sts := sts } s)

/-- Poison the memory line of a request (R311), which a port that serves nothing cannot do; a SUSPECT line is logged. -/
def homePoison (r : HomeReq) (s : State) : State :=
  match homePlace s r with
  | none => s
  | some (p, la) =>
    if portFails s p then s else
    let s1 := portAdd p .post la (.write 0 0 true) r.attr s
    if r.suspect && !r.timedOut then logHome r.line 31 3 r.kind.op false s1 else s1

/-- The snoop of a request timed out, or its entry is SUSPECT, and no live agent forwarded the line (R311). -/
def unsure (r : HomeReq) : Bool := (r.timedOut || r.suspect) && r.fwdBy.isNone

/-- What a request makes of the line that memory returned for it: poisoned where R311 does not trust it. -/
def trusted (r : HomeReq) (res : LineRes) : LineRes := if unsure r && !stsFails res.sts then { res with bst := 1, sts := 1 } else res

/-- Place the write of a request at its port (R300): whole or partial. -/
def homeWrite (r : HomeReq) (d : Line) (be : BitVec 64) (poison : Bool) (s : State) : State :=
  match homePlace s r with
  | none => homeEnd r 4 s
  | some (p, la) =>
    if portFails s p then homeEnd r 7 s
    else homeMod r.id (fun x => { x with phase := .mem, wrote := true }) (portAdd p (.home r.id) la (.write d be poison) r.attr s)

/-- Place the memory read of a request. -/
def homeAsk (r : HomeReq) (s : State) : State :=
  match homePlace s r with
  | none => homeEnd r 4 s
  | some (p, la) =>
    if portFails s p then homeEnd r 7 s
    else homeMod r.id (fun x => { x with memAsked := true }) (portAdd p (.home r.id) la .read r.attr s)

/-- Run an atomic on its line (R314): the answer goes out, the new line is written. -/
def homeAtomic (r : HomeReq) (line : Line) (pois : Bool) (s : State) : State :=
  let x := atomicLine r.aop.toNat r.size.toNat r.off.toNat r.data line
  if pois then homeDrop r.id (homeAnswer r { data := x.2, bst := 1, sts := 1 } s)
  else homeWrite r x.1 allBytes r.poison (homeAnswer r { data := x.2 } s)

/-- Use a line that memory returned for a request whose snoop, if any, has ended. -/
def homeUse (r : HomeReq) (mem : LineRes) (s : State) : State :=
  let res := trusted r mem
  match r.kind with
  | .rds => if stsFails res.sts then homeEnd r res.sts s
      else homeGrant r (if r.held then 2 else 3) false (some (res.data, res.bst = 1)) s
  | .rdu => if stsFails res.sts then homeEnd r res.sts s else homeGrant r 3 false (some (res.data, res.bst = 1)) s
  | .upg => if stsFails res.sts then homeEnd r res.sts s else homeGrant r 3 false (some (res.data, res.bst = 1)) s
  | .atom => if stsFails res.sts then homeEnd r res.sts s else homeAtomic r res.data (res.bst = 1) s
  | .amo => if stsFails res.sts then homeEnd r res.sts s else homeAtomic r res.data (res.bst = 1) s
  | _ => homeDrop r.id (homeAnswer r res s)

/-- A result from the port for a request at the home: a read's line, a write's outcome, a far atomic's old value. -/
def homeData (id : Nat) (res : LineRes) (s : State) : State :=
  match homeFind s id with
  | none => s
  | some r =>
    if r.kind.isAtomic && r.asRdu then
      -- a far atomic's old value (R316)
      homeDrop id (homeAnswer r res (if stsFails res.sts || res.bst = 1 then s else homeStored r s))
    else if r.wrote then
      -- the write has executed or failed; whole-line writes were answered at their release
      if r.kind.isAtomic then homeDrop id s
      else if r.released && (r.kind = .wb || r.be = allBytes) && r.kind ≠ .sc && !r.owner.isLant then
        (if stsFails res.sts then homeDrop id (homeAnswer { r with stop := 31 } res s) else homeDrop id s)
      else homeDrop id (homeAnswer r res s)
    else if r.phase = .snoop then homeMod id (fun x => { x with memRes := some res }) s
    else homeUse r res s

/-- A forward counts only from a live agent: one that failed since has forwarded nothing (R303). -/
def liveFwd (s : State) (r : HomeReq) : HomeReq :=
  match r.fwdBy with
  | some a => if bits (fld s HOME_AGT_FAIL_FAILED) a 1 = 1 then { r with fwdBy := none, fwdLine := none, fwdDirty := false, ansLine := none } else r
  | none => r

/-- Every answer is in (and the forwarded line, where the home takes it): decide (R301, R303, R311). -/
def homeDecide (q : HomeReq) (s : State) : State :=
  let r := liveFwd s q
  let fwd := r.fwdBy.isSome
  let bad := unsure r
  let s1 := if r.fwdBy.isSome then addFld HOME_CNT1_FWD 0 1 s else s
  let s2 := if !r.kind.isGrant && !r.held && (r.kind ≠ .wb) then ledgerFree r.line s1 else s1
  let mem (t : State) : State :=
    let t1 := homeMod r.id (fun _ => { r with phase := .mem }) t
    match r.memRes with
    | some res => homeUse { r with phase := .mem } res t1
    | none => if r.memAsked then t1 else homeAsk r t1
  match r.kind with
  | .rds =>
    if bad then homePoison r (mem s2)
    else if fwd then
      let s3 := match r.ansLine, homePlace s2 r with
        | some (d, po), some (p, la) => portAdd p .post la (.write d allBytes po) r.attr s2
        | _, _ => s2
      homeGrant r (if r.fwdState = 0 then 2 else 1) true none s3
    else mem s2
  | .rdu =>
    if bad then homePoison r (mem s2)
    else if fwd then homeGrant r (if r.fwdDirty then 4 else 3) true none s2 else mem s2
  | .upg =>
    if !r.asRdu then homeGrant r 3 false none s2
    else if bad then homePoison r (mem s2)
    else if fwd then homeGrant r (if r.fwdDirty then 4 else 3) true none s2 else mem s2
  | .atom =>
    if bad then homePoison r (mem s2)
    else match r.fwdLine with
      | some (d, po) => homeAtomic r d po s2
      | none => mem s2
  | .amo =>
    if bad then homePoison r (mem s2)
    else match r.fwdLine with
      | some (d, po) => homeAtomic r d po s2
      | none => mem s2
  | .evict =>
    let s3 := ledgerFree r.line s2
    if bad then homeDrop r.id (homePoison r s3)
    else match r.fwdLine, homePlace s3 r with
      | some (d, po), some (p, la) =>
        homeDrop r.id (portAdd p .post la (.write d allBytes po) r.attr s3)
      | _, _ => homeDrop r.id s3
  | .wb => homeWrite r r.data allBytes r.poison s2
  | .wru => writeBack r bad s2
  | .write => writeBack r bad s2
  | .sc =>
    if bad && r.timedOut then homeEnd r 8 s2 else writeBack r bad (rsvStore (homeMaster r) r.line s2)
  | _ =>
    if bad then homePoison r (mem s2)
    else match r.fwdLine with
      | some (d, po) => homeDrop r.id (homeAnswer r { data := d, bst := if po then 1 else 0, sts := if po then 1 else 0 } s2)
      | none => mem s2
where
  /-- A store: the forwarded dirty line goes under its bytes; a line without a live forward is poisoned first (Table 11.9). -/
  writeBack (r : HomeReq) (bad : Bool) (t : State) : State :=
    if r.be = allBytes then homeWrite r r.data allBytes r.poison t
    else if bad then homeWrite r r.data r.be r.poison (homePoison r t)
    else match r.fwdLine with
      | some (d, po) =>
        if r.fwdDirty then homeWrite r (mergeLine d r.data r.be) allBytes (po || r.poison) t else homeWrite r r.data r.be r.poison t
      | none => homeWrite r r.data r.be r.poison t

/-- Snoop of a request: OP of Table 11.4 and NODATA; none where it sends none. -/
def snoopOf (r : HomeReq) : Option (Nat × Bool) :=
  match r.kind with
  | .rds => some (1, false)
  | .rdu => some (3, false)
  | .upg => if r.asRdu then some (3, false) else some (3, true)
  | .wb => none
  | .rdo => some (2, false)
  | .read => some (2, false)
  | .lr => some (2, false)
  | .wru => some (3, r.be = allBytes)
  | .write => some (3, r.be = allBytes)
  | .sc => some (3, r.be = allBytes)
  | .atom => some (3, false)
  | .amo => some (3, false)
  | .evict => some (3, false)

def ownStop (s : State) : Nat := s.part.ownStop.val

/-- Send the snoop of a request and wait for every live agent (R302); with no live agent the decision follows at once. -/
def homeSnoop (r : HomeReq) (op : Nat) (nodata : Bool) (s : State) : State :=
  let live := liveAgents s
  let s1 := ringSend { cls := 1, op := BitVec.ofNat 5 op, dst := 31, txn := r.txn, line := r.line, nodata := nodata,
                       rqs := if r.kind.isGrant then r.stop else ownStop s } (addFld HOME_CNT0_SNOOPS 0 1 s)
  let r1 : HomeReq := { r with phase := .snoop, await := live, snoopAt := s.clk }
  let s2 := homeMod r.id (fun _ => r1) s1
  if live = [] then homeDecide r1 (homeMod r.id (fun _ => r1) s) else
  let needs := match r.kind with
    | .write => false | .wru => false | .sc => false | .evict => false | .wb => false
    | .upg => r.asRdu
    | _ => true
  if flg s HOME_CTL_SPEC && needs then homeAsk r1 s2 else s2

/-- The conditions of R315 for an atomic to run far. (Log 74: DEDUCED.) -/
def farOk (s : State) (r : HomeReq) : Bool :=
  let inFar := (List.range 8).any fun n =>
    let b := fld s FA_BASE_BASE n
    flg s FA_BASE_EN n && b * 2 ^ 21 ≤ r.line * 64 && r.line * 64 < (b + fld s FA_SIZE_SIZE n) * 2 ^ 21
  match homePlace s r with
  | none => false
  | some (p, la) =>
    inFar && !r.poison && (ledgerHit s r.line).isNone && serial p && !cx2 s p && pstate s p = .service &&
      (match remapOf s p (rowKey (locOf s p la)) with
       | some (_, e) => e.st ≠ .active
       | none => true)

/-- Least recently used way of a full set whose line has no request (R298). -/
def victim (s : State) (line : Nat) : Option Nat :=
  ((ledgerWays s line).find? fun e => !(s.home.reqs.any fun r => r.line = e.line && !r.released)).map fun e => e.line

/-- A non-coherent request goes to the scratchpad or its port without a lookup (R319). -/
def plainStart (r : HomeReq) (s : State) : State :=
  match target s (r.line * 64) with
  | .spad off =>
    if !spadServes s off then homeDrop r.id (ringComp r.stop r.txn r.line 4 s)
    else if r.kind = .rdo then
      let x := spadRead s off
      homeDrop r.id (ringSend { cls := 3, op := 3, dst := r.stop, txn := r.txn, line := r.line, sts := x.1.sts, poison := x.1.bst = 1,
                                data := some x.1.data } x.2)
    else homeDrop r.id (ringComp r.stop r.txn r.line 0 (addFoot ringFoot 72 (spadWrite off r.data r.be false s)))
  | .dram p la =>
    if portFails s p then homeDrop r.id (ringComp r.stop r.txn r.line 7 s)
    else portAdd p (.home r.id) la (if r.kind = .rdo then .read else .write r.data r.be false) r.attr
      (homeMod r.id (fun x => { x with phase := .mem, wrote := x.kind ≠ .rdo, memAsked := true }) s)
  | _ => homeDrop r.id (ringComp r.stop r.txn r.line 4 s)

/-- Serve the request at the head of its line (R300, R301). -/
def homeStart (r : HomeReq) (s : State) : State :=
  if r.nc then plainStart r s else
  let failed := r.stop < 24 && bits (fld s HOME_AGT_FAIL_FAILED) r.stop 1 = 1
  if failed then homeEnd r 8 s else
  let hit := ledgerHit s r.line
  let note := s.home.notes.find? fun n => n.agent = r.stop && n.line = r.line && n.upg = decide (r.kind = .upg)
  let dropNote (t : State) : State :=
    modHome (fun h => { h with notes := h.notes.filter fun n => !(n.agent = r.stop && n.line = r.line && n.upg = decide (r.kind = .upg)) }) t
  let susp := match hit with
    | some e => e.suspect
    | none => false
  let s1 := if hit.isSome then ledgerTouch r.line false s else s
  let r1 := { r with suspect := susp, phase := .mem }
  let s2 := homeMod r.id (fun _ => r1) s1
  let go (x : HomeReq) (t : State) : State :=
    match hit, snoopOf x with
    | some _, some (op, nd) => homeSnoop x op nd (homeMod x.id (fun _ => x) t)
    | _, _ => homeDecide x (homeMod x.id (fun _ => x) t)
  -- an allocation in a full set evicts a way first
  if r.kind.isGrant && hit.isNone && (ledgerWays s r.line).length ≥ 16 then
    match victim s r.line with
    | none => s
    | some v =>
      let i := newId s
      let e : HomeReq := { id := i.1, kind := .evict, line := v, phase := .snoop, attr := r.attr,
                           suspect := match ledgerHit s v with
                             | some w => w.suspect
                             | none => false }
      let s3 := addFld HOME_CNT1_EVICT 0 1 (modHome (fun h => { h with reqs := h.reqs ++ [e] }) i.2)
      homeSnoop e 3 false s3
  else match r.kind with
    | .wb =>
      match note with
      | some _ => homeDrop r.id (homeAnswer r {} (dropNote s))
      | none => go r1 (if hit.isNone then homeProto r.line r.stop 4 s2 else s2)
    | .upg =>
      match note with
      | some _ => go { r1 with asRdu := true } (dropNote s2)
      | none => if hit.isNone then go { r1 with asRdu := true } (homeProto r.line r.stop 3 s2) else go r1 s2
    | .lr => go r1 (match homeMaster r with
        | some m => rsvTake m r.line s2
        | none => s2)
    | .sc =>
      match homeMaster r with
      | none => homeEnd r 2 s2
      | some m =>
        if rsvHolds s m r.line then go r1 (rsvDrop m s2)
        else homeDrop r.id (homeAnswer r { bst := 2, sts := 2 } (rsvDrop m s2))
    | .amo => if farOk s r then far r1 s2 else go r1 (rsvStore (homeMaster r) r.line s2)
    | .atom => if farOk s r then far r1 s2 else go r1 (rsvStore (homeMaster r) r.line s2)
    | .write => go r1 (rsvStore (homeMaster r) r.line s2)
    | .wru => go r1 (rsvStore (homeMaster r) r.line s2)
    | _ => go r1 s2
where
  /-- A far atomic (R316): an AMO command word for the port. -/
  far (x : HomeReq) (t : State) : State :=
    let t1 := homeMod x.id (fun y => { y with asRdu := true }) (rsvStore (homeMaster x) x.line t)
    match homePlace t1 x with
    | none => t1
    | some (p, la) => portAdd p (.home x.id) la (.amo x.aop x.size x.off x.data) x.attr t1

/-- PD_HOME is on (R409). -/
def homeOn (s : State) : Bool :=
  homeImpl s.part.variant && (match mget s.pw.doms 41 with
    | none => true
    | some .on => true
    | some (.prep _) => true
    | _ => false)

/-- A request has not passed the ordering point yet (R300). -/
def stillOpen (s : State) (id : Nat) : Bool := s.home.reqs.any fun r => r.id = id && !r.released

/-- Trackers for the ring's requests, and those kept for ledger evictions (R291). -/
def ringTrackers : Nat := 496
def evictTrackers : Nat := 16

/-- Trackers in use: ring requests and ledger evictions (HOME_STAT.TRK). -/
def trackersUsed (s : State) : Nat :=
  min (s.home.reqs.filter fun q => q.stop < 24).length ringTrackers + min (s.home.reqs.filter fun q => q.kind = .evict).length evictTrackers

/-- A ring request has a tracker; one without waits on the ring. (Log 73: DEDUCED.) -/
def tracked (s : State) (r : HomeReq) : Bool :=
  r.stop ≥ 24 || (s.home.reqs.filter fun q => q.stop < 24 && q.id < r.id).length < ringTrackers

/-- Atomics that run in the atomic unit (R314). -/
def atomicsRunning (s : State) : Nat := (s.home.reqs.filter fun q => q.kind.isAtomic && q.phase ≠ .queued).length

/-- A grant that must allocate in a full set can evict: a way without requests, and a kept tracker; one eviction of a set at a time
(R298). -/
def canAllocate (s : State) (r : HomeReq) : Bool :=
  !(r.kind.isGrant && (ledgerHit s r.line).isNone && (ledgerWays s r.line).length ≥ 16) ||
    ((victim s r.line).isSome && (s.home.reqs.filter fun q => q.kind = .evict).length < evictTrackers &&
      !(s.home.reqs.any fun q => q.kind = .evict && ledgerSet s.part.variant q.line = ledgerSet s.part.variant r.line))

/-- The first request that waits at the head of its line and behind nothing of its stop; a non-coherent one waits in no line. -/
def startable (s : State) : Option HomeReq :=
  s.home.reqs.find? fun r => r.phase = .queued && !r.released && !(r.after.any (stillOpen s)) &&
    tracked s r && (r.nc || (homeOn s && s.home.snpset.isNone && canAllocate s r && (!r.kind.isAtomic || atomicsRunning s < 64) &&
      !(s.home.reqs.any fun q => q.line = r.line && !q.released && !q.nc && (q.phase ≠ .queued || q.id < r.id))))

/-- Start requests whose line is free, until none is left (R300, R309). -/
def homePump : Nat → State → State
  | 0, s => s
  | n + 1, s =>
    match startable s with
    | none => s
    | some r => homePump n (homeStart r s)

/-- The ring barriers whose earlier requests have passed the ordering point end; ORDER was answered when it came (R317). -/
def barPump (s : State) : State :=
  s.home.bars.foldl (fun t b =>
    if b.2.2.2.any (stillOpen t) then t else
    let u := modHome (fun h => { h with bars := h.bars.filter fun x => x ≠ b }) t
    if b.2.2.1 = 0 then u
    else ringComp b.1 b.2.1 0 (if b.2.2.1 = 2 && !durableOk t (foot3 t ringFoot) then 3 else 0) u) s

/-- Requests of a ring stop that a new one of the kind must follow: Table 3.1, and everything before a barrier. (Log 74: DEDUCED.) -/
def stopAfter (s : State) (stop : Nat) (kind : HKind) : List Nat :=
  ((s.home.reqs.filter fun r => r.stop = stop && !r.released &&
      (r.kind.isAtomic || kind.isAtomic || (r.kind.isStore && kind.isStore))).map fun r => r.id)
    ++ (s.home.bars.filter fun b => b.1 = stop).flatMap fun b => b.2.2.2

def homeRun (s : State) : State := barPump (homePump (2 * s.home.reqs.length + 2) s)

/-- A request arrives at the ordering point. -/
def homeSubmit (r : HomeReq) (s : State) : State :=
  let i := newId s
  homeRun (modHome (fun h => { h with reqs := h.reqs ++ [{ r with id := i.1 }] }) i.2)

/-! ### Line accesses of the engine's own masters -/

/-- Deliver a result that left a port to whoever waits for it. Copies, scrubs and merge entries are handled by their own rows. -/
def deliver (o : Owner) (res : LineRes) (s : State) : State :=
  let ok := !stsFails res.sts
  match o with
  | .fab n id k => fabLineDone n.val id k res (footSettle o ok s)
  | .lant c a => lantLineDone c.val a res (footSettle o ok s)
  | .home id => homeRun (footSettle o ok (homeData id res s))
  | .stream p id k =>
    let note (x : Stream) : Stream := if x.id = id then { x with done := mput x.done k res } else x
    modPort p (fun q => { q with streams := q.streams.map note }) s
  | _ => s

/-- A request that needs the home switches its domain on and waits: 2 µs, then one set per cycle (Table 15.2). -/
def homeWake (s : State) : State :=
  match mget s.pw.doms 41 with
  | some .off => { s with pw := { s.pw with doms := mput s.pw.doms 41 (.rising (s.clk + riseEdges s.part.variant 41) false) } }
  | _ => s

/-- What a line access of a fabric port or Lantern context asks for. -/
inductive LineOp where
  | read | lr
  | write (d : Line) (be : BitVec 64) (poison : Bool)
  | sc (d : Line) (be : BitVec 64) (poison : Bool)
  | amo (aop : BitVec 4) (size : BitVec 3) (off : BitVec 6) (opd : Line) (poison : Bool)
  deriving DecidableEq, Repr

def LineOp.kind : LineOp → HKind
  | .read => .read | .lr => .lr | .write _ _ _ => .write | .sc _ _ _ => .sc | .amo _ _ _ _ _ => .amo

/-- A line access of DRAM enters the ordering point, or, without a home, its port's address decode (R17, R55, R409). -/
def lineAccess (o : Owner) (addr : Nat) (op : LineOp) (a : ReqAttr) (s : State) : State :=
  let line := addr / 64
  let needsHome := match op with
    | .lr => true | .sc _ _ _ => true | .amo _ _ _ _ _ => true | _ => false
  if homeImpl s.part.variant && (homeOn s || needsHome) then
    let s1 := if homeOn s then s else homeWake s
    let base : HomeReq := { id := 0, kind := op.kind, line := line, owner := o, attr := a }
    homeSubmit (match op with
      | .write d be po => { base with data := d, be := be, poison := po }
      | .sc d be po => { base with data := d, be := be, poison := po }
      | .amo aop size off opd po => { base with aop := aop, size := size, off := off, data := opd, poison := po }
      | _ => base) s1
  else match target s addr with
    | .dram p la =>
      if portFails s p then deliver o { bst := 2, sts := 7 } s
      else match op with
        | .write d be po => portAdd p o la (.write d be po) a s
        | _ => portAdd p o la .read a s
    | _ => deliver o { bst := 2, sts := 4 } s

/-- A sub-request has entered its port's queue or merge buffer (R55, R300). -/
def entered (p : Nat) (r : SubReq) (s : State) : State :=
  match r.owner with
  | .home id => homeRun (homeRelease id s)
  | .fab n id k =>
    match r.kind with
    | .write _ be _ =>
      let s1 := fabPerformed n.val id k (footPerform r.owner r.owner false (slotOf s p r.la) s)
      if be = allBytes then fabLineDone n.val id k {} s1 else s1
    | _ => fabPerformed n.val id k s
  | .lant c a =>
    match r.kind with
    | .write _ _ _ => lantPerformed c.val a (footPerform r.owner r.owner false (slotOf s p r.la) s)
    | _ => lantPerformed c.val a s
  | _ => s

end Sys2Proof.Machine
end

