-- ==== Sys2Proof/Machine/PortOps.lean ====
section
/-!
DEFINITION. What a column command does when it is known good, and the order of a direct access behind it (R57, R152, R233).
Effects follow the order of issue, and no read data leaves before its command is known good, so taking each effect at that
moment is what every master observes.
-/

namespace Sys2Proof.Machine

/-- A packet goes out on a serial link and stays in the link retry buffer until it is acknowledged (R178, R186). -/
def sendPacket (p : Nat) (x : Packet) (s : State) : State :=
  if serial p && !(portOf s p).link.lost then
    let spent : Nat := match x with
      | .control _ _ => 1
      | _ => 0
    modLink p (fun k => { k with
      txSeq := k.txSeq + 1, retry := k.retry ++ [x], sent := x :: k.sent.take 255, ctlCredit := k.ctlCredit - spent }) s
  else s

/-- The flight of a port whose kind satisfies k, oldest first, and the state without it. -/
def takeFlight (p : Nat) (k : Flight → Bool) (s : State) : Option (Flight × State) :=
  match (portOf s p).sched.flight.find? k with
  | none => none
  | some f => some (f, modSched p (fun q => { q with flight := q.flight.filter fun x => x.id ≠ f.id }) s)

/-- A merge-buffer entry is done: its stores take its status, and it frees (R233). -/
def mergeDone (p e : Nat) (sts : BitVec 4) (s : State) : State :=
  match mget (portOf s p).prot.merge e with
  | none => s
  | some m =>
    let s1 := modDram p (fun d => { d with idleAt := s.clk }) (modProt p (fun t => { t with merge := mdel t.merge e }) s)
    m.owners.foldl (fun t o => deliver o { bst := if stsFails sts then 2 else 0, sts := sts } t) s1

/-- A read-modify-write ends with the burst error of its read (Table 9.4). -/
def rmwFinish (p e : Nat) (f : Flight) (err : Burst) (s : State) : State :=
  match mget (portOf s p).prot.merge e with
  | none => s
  | some m =>
    let d := decodeFlight s p f err
    let line := mergeLine d.2 m.data m.be
    let s2 := noteDecode p m.la d.1 orgRmw true s
    if d.1.tainted || m.poison then
      mergeDone p e (if d.1.tainted then 1 else 0) (storePoisoned p m.la line (if d.1.tainted then orgRmw else orgPwb) s2)
    else mergeDone p e 0 (storeLine p m.la line false orgRmw s2)

/-- Reads in flight that a store to their line has overtaken. -/
def markOver (p la : Nat) (s : State) : State :=
  modSched p (fun q => { q with flight := q.flight.map fun f => if f.req.la = la then { f with overwritten := true } else f }) s

/-- Data in flight to the owner of a column command. -/
def fly (p : Nat) (q : SubReq) (stamp : BitVec 28) (data : Line) (poison : Bool) (s : State) : State :=
  let i := newId s
  let f : Flight := { id := i.1, req := q, sub := (locOf s p q.la).sub, stamp := stamp, clk := s.clk, data := data, poison := poison }
  modSched p (fun x => { x with flight := x.flight ++ [f] }) i.2

/-- The effect of the column command of a sub-request. A write of no bytes with poison poisons the stored line (R311). -/
def colEffect (p : Nat) (q : SubReq) (stamp : BitVec 28) (s : State) : State :=
  let st := readStored s p q.la
  match q.kind with
  | .write d be po =>
    let s1 := markOver p q.la s
    let s2 := if be = 0 then storePoisoned p q.la st.1 orgDemand s1
      else if po then storePoisoned p q.la d orgPwb s1 else storeLine p q.la d false orgDemand s1
    (match q.owner with
    | .rmw e => mergeDone p e 0 s2
    | o => deliver o {} s2)
  | .amo aop size off opd =>
    let x := atomicLine aop.toNat size.toNat off.toNat opd st.1
    if st.2 && !noPoison s p q.la then fly p q stamp x.2 true s else fly p q stamp x.2 false (storeLine p q.la x.1 false orgDemand (markOver p q.la s))
  | _ => fly p q stamp st.1 st.2 s

/-- The oldest command of the retry buffer is good. -/
def goodOldest (p : Nat) (s : State) : State :=
  match (portOf s p).sched.retry with
  | [] => s
  | i :: l =>
    let s1 := modDram p (fun d => { d with alerts := 0, escalated := false }) (modSched p (fun q => { q with retry := l }) s)
    match i.req with
    | none => s1
    | some q => colEffect p q i.stamp s1

def goodAll (p : Nat) : Nat → State → State
  | 0, s => s
  | n + 1, s => goodAll p n (goodOldest p s)

/-- Everything that the port holds for a line executes, in order: an access that does not pass the queue follows it. -/
def syncLine (p la : Nat) (s : State) : State :=
  let open1 := (portOf s p).prot.merge.filter fun e => e.2.la = la && !e.2.closed
  let s1 := open1.foldl (fun t e => closeEntry p e.1 t) s
  let r := (portOf s1 p).sched.retry
  let s2 := if r.any fun i => (i.req.map fun q => q.la) = some la then goodAll p r.length s1 else s1
  let mine := (portOf s2 p).sched.queue.filter fun q => q.la = la
  let s3 := mine.foldl (fun t q => colEffect p q 0 (modSched p (fun x => { x with queue := x.queue.filter fun y => y.id ≠ q.id }) t)) s2
  let rm := (portOf s3 p).sched.flight.filterMap fun f => match f.req.kind with
    | .rmw e => if f.req.la = la then some (e, f) else none
    | _ => none
  rm.foldl (fun t x => rmwFinish p x.1 x.2 0 (modSched p (fun q => { q with flight := q.flight.filter fun f => f.id ≠ x.2.id }) t)) s3

/-- The line of a port as it stands now, behind everything that the port holds for it. -/
def readNow (p la : Nat) (s : State) : (Line × Bool) × State :=
  let s1 := syncLine p la s
  (readStored s1 p la, s1)

end Sys2Proof.Machine
end

