-- ==== Sys2Proof/Machine/Energy.lean ====
section
/-!
DEFINITION. The energy meter, the power window, the sensing of bus and reserve, the gauges, the charger, the planner and the
battery-backed words (chapter 14).
-/

namespace Sys2Proof.Machine

def modEn (g : Energy → Energy) (s : State) : State := { s with en := g s.en }

/-! ### The meter and the power window (R374 to R378) -/

/-- Show the totals: EN_TOTAL_LO and EN_DOM_LO as they stand (R374, R404). -/
def showEnergy (s : State) : State :=
  let mj := (s.en.totals.foldl (fun a e => a + e.2) 0) / 1000000000
  let dj := mgetD s.en.totals (fld s EN_DSEL_DOM) 0 / 1000000000
  setFld EN_TOTAL_LO_MJ 0 mj (setFld EN_DOM_LO_MJ 0 dj s)

/-- Count a stage entry or exit (R377). -/
def stageStep (n : Nat) (s : State) : State :=
  let s1 := addFld PW_CNT_STEPS 0 1 (setFld PW_STAT_STAGE 0 n s)
  let s2 := modEn (fun e => { e with above := 0, under := 0, excursion := e.excursion && n = 4 }) s1
  raise 35 (setFld PW_STAT_THR 0 (if n = 4 then 4 else 0) s2)

/-- UP intervals in succession over the allowance. -/
def stageUp (s : State) : State :=
  let n := fld s PW_STAT_STAGE
  if n < 4 then stageStep (n + 1) s
  else
    let s1 := modEn (fun e => { e with above := 0 }) s
    if fld s PW_STAT_THR < 256 then setFld PW_STAT_THR 0 (2 * fld s PW_STAT_THR) s1
    else if s.en.excursion then s1
    else raise 36 (addFld PW_CNT_OVERS 0 1 (setFld PW_STAT_OVER 0 1 (modEn (fun e => { e with excursion := true }) s1)))

/-- One millisecond under the release margin. -/
def stageDown (s : State) : State :=
  let n := fld s PW_STAT_STAGE
  if n = 0 then modEn (fun e => { e with under := 0 }) s
  else if n = 4 ∧ fld s PW_STAT_THR > 4 then setFld PW_STAT_THR 0 (fld s PW_STAT_THR / 2) (modEn (fun e => { e with under := 0 }) s)
  else stageStep (n - 1) s

/-- Allowance in force, in W (R376). (Log 35: DEDUCED.) -/
def allowance (s : State) : Nat :=
  if !flg s PW_CTL_EN || s.en.bucket > 0 then fld s PW_LIM_PEAK else fld s PW_LIM_SUS

/-- The window at the end of an interval of mean power p mW (R376, R377). (Log 92: DEDUCED.) -/
def window (p : Nat) (s : State) : State :=
  let a := allowance s * 1000
  let cap := (fld s PW_LIM_PEAK - fld s PW_LIM_SUS) * fld s PW_LIM_PDUR * 100000000
  let b := min cap (s.en.bucket + fld s PW_LIM_SUS * 1000 - p)
  let s1 := setFld PW_BUCKET_MJ 0 (b / 100000) (setFld PW_STAT_EMPTY 0 (if b = 0 then 1 else 0) s)
  let hot := p > a && flg s PW_CTL_EN
  let low := p + fld s PW_CTL_HYST * 1000 < a
  let s2 := modEn (fun e => { e with bucket := b, above := if hot then e.above + 1 else 0, under := if low then e.under + 1 else 0 }) s1
  if s2.en.above ≥ fld s PW_CTL_UP then stageUp s2
  else if s2.en.under ≥ 100 then stageDown s2
  else s2

/-- Stage 3 parks the lanes of idle serial ports in L1; below it they are in L0 (Table 14.2). -/
def parkPort (s : State) (p : Nat) : State :=
  let q := portOf s p
  let named := s.tb.launches.any fun e => e.2.acts.any fun a => a.port.toNat = p
  let idle := q.sched.queue = [] && q.sched.wait = [] && q.prot.merge = [] && !named
    && q.dram.idleAt + fld s PW_CTL_IDLE * edgesUs ≤ s.clk
  if !serial p || pstate s p ≠ .service || s.pw.st.toNat > 1 || q.link.lost then s
  else if fld s PW_STAT_STAGE < 3 then (if fld s SL_STAT_LSTATE p = 1 then setFld SL_STAT_LSTATE p 0 s else s)
  else if bits (fld s PW_KEEP_PORTS) p 1 = 0 && idle then setFld SL_STAT_LSTATE p 1 s else s

def parkPorts (s : State) : State := (s.ports.map fun e => e.1).foldl parkPort s

/-- Every 10 µs (R374, R375): each powered domain's static coefficient and its events' coefficients. -/
def execMeterInterval (events : List (Fin 51 × Fin 3 × Nat)) (s : State) : Out :=
  .next (
    if s.clk < s.en.meterAt + 4000 then s else
    let on := (List.range 51).filter (domOn s)
    let spent (d : Nat) : Nat :=
      Config.staticCoef d + (events.foldl (fun a e => if e.1.val = d then a + e.2.2 * Config.eventCoef d e.2.1.val else a) 0)
    let pj := on.foldl (fun a d => a + spent d) 0
    let s1 := modEn (fun e => { e with
      meterAt := e.meterAt + 4000
      totals := on.foldl (fun t d => mput t d (mgetD t d 0 + spent d)) e.totals }) s
    let mw := min (pj / 10000) (2 ^ 18 - 1)
    showEnergy (parkPorts <| window mw (setFld EN_POWER_MW 0 mw s1)))

/-- A read of a LO half latches its HI half (R404): EN_TOTAL, EN_DOM or PLN_EUSE. -/
def execEnergyReadLatch (which : Fin 3) (s : State) : Out :=
  .next (
    let s1 := showEnergy s
    match which with
    | 0 => setFld EN_TOTAL_HI_MJ 0 ((s.en.totals.foldl (fun a e => a + e.2) 0) / 1000000000 / 2 ^ 32) s1
    | 1 => setFld EN_DOM_HI_MJ 0 (mgetD s.en.totals (fld s EN_DSEL_DOM) 0 / 1000000000 / 2 ^ 32) s1
    | _ => setFld PLN_EUSE_HI_MJ 0 (s.en.euse / 2 ^ 32) s1)

/-! ### The planner (R388 to R391) -/

/-- Point k of the table: voltage in mV, charge in mC. -/
def ocvV (s : State) (k : Nat) : Rat := fld s GA_OCV_V k * 10
def ocvQ (s : State) (k : Nat) : Rat := fld s GA_OCV_Q k * 1000

/-- Linear interpolation of the table from x-points to y-points, clipped at both ends (R383). -/
def interpFrom (x y : Nat → Rat) (v : Rat) : Nat → Nat → Rat
  | 0, k => y k
  | n + 1, k =>
    if v ≤ x k then y k
    else if v < x (k + 1) then y k + (v - x k) * (y (k + 1) - y k) / (x (k + 1) - x k)
    else interpFrom x y v n (k + 1)

/-- Charge in mC of an open-circuit voltage in mV, and the voltage of a charge. -/
def chargeOf (s : State) (v : Rat) : Rat := interpFrom (ocvV s) (ocvQ s) v 15 0
def voltOf (s : State) (q : Rat) : Rat := interpFrom (ocvQ s) (ocvV s) q 15 0

/-- The pack is present and not lost (R388). -/
def packOk (s : State) : Bool := flg s GA_STAT_PRESENT && !s.en.lost

/-- Dmax in bytes (R388). -/
def flushBytes (s : State) : Nat :=
  let live := (List.range 20).filter fun p => portImpl s.part.variant p && inService s p
  let fabs := ((List.range 32).filter (fabImpl s.part.variant)).length
  1056 * pairCount s + 4096 * fabs + 2048 * live.length + (live.foldl (fun a p => a + 64 * queueCap p) 0)
    + 8192 * ((List.range 20).filter (copyRunning s)).length
    + (if flg s PLN_FAREA_LO_EN then 1048576 + 65536 else 0)

/-- Flush cost f in mJ. -/
def flushCost (s : State) : Nat := (flushBytes s * fld s PLN_FLUSH_UJ + 1048576000 - 1) / 1048576000

/-- Usable energy u in mJ (R388): charge in mC times volts. -/
def usable (s : State) : Rat :=
  let q := min s.en.qcnt s.en.qv
  let e : Rat :=
    if !flg s PLN_CTL_EN || !flg s PLN_CTL_DRST_HOLD || !packOk s || !s.en.tableOk then 0
    else q * ((voltOf s q + ocvV s 0) / 1000) / 2 * (fld s GA_CFG_EFF : Rat) / 100
  max 0 (e - flushCost s)

/-- A battery-backed word (R396), by word number. (Log 114: DESIGN CHOICE.) -/
def bbrWord (s : State) (k : Nat) : Nat := (mgetD s.bbr k 0).toNat

/-- The remap pool records a slot of a port (R399). -/
def poolHas (s : State) (p slot key : Nat) : Bool :=
  (List.range 184).any fun i => bbrWord s (0x270 + 2 * i) = key + 2 ^ 31 && bits (bbrWord s (0x271 + 2 * i)) 0 11 = p + 32 * slot

/-- Slot i may join the domain (R389). -/
def eligible (s : State) (i : Nat) : Bool :=
  let p := slotPort i
  let d := slotDimm i
  let active := (portOf s p).prot.remap.filter fun e => e.2.st = .active
  portImpl s.part.variant p && inService s p && bits (present s p) d 1 = 1 && bits (shedSet s p) d 1 = 0
    && bits (keepSet s p) d 1 = 1 && mgetD s.en.slotp i 0 != 0
    && !(fld s RM_CTL_LOC p = 1 && active.any fun e => dimmOf (keyLoc e.2.key) = d)
    && active.all fun e => poolHas s p e.1 e.2.key

/-- The walk of R390 over the slots: the new domain and its power in mW. -/
def planSlots (s : State) (u : Rat) : List Nat → BitVec 73 × Nat → BitVec 73 × Nat
  | [], acc => acc
  | i :: l, (dom, p) =>
    let m := if (domainNow s).getLsbD i then 100 else 100 + fld s PLN_CTL_ADD
    let w := (mgetD s.en.slotp i 0).toNat
    if eligible s i && u * 100 ≥ (fld s PLN_CTL_HOLD * m * (p + w) : Nat) then planSlots s u l (dom ||| BitVec.ofNat 73 (2 ^ i), p + w)
    else planSlots s u l (dom, p)

/-- Put a new domain in force: slots that leave it are noted and raise DUR_SHRINK (R390). -/
def setDomain (dom : BitVec 73) (s : State) : State :=
  let gone := domainNow s &&& ~~~dom
  let s1 := setFoot3 0x300E0 dom s
  if gone = 0 then s1 else raise 43 (setFoot3 0x300F0 (foot3 s1 0x300F0 ||| gone) s1)

/-- A run of the planner; the domain is frozen while the power-fail sequence runs (R388, R390, R393). -/
def plan (s : State) : State :=
  if s.en.pf ≠ .none || s.pw.st.toNat > 3 then s else
  let u := usable s
  let r := planSlots s u (List.range 72) (0, fld s PLN_HOLDP_MW)
  let ret : Nat := if r.1 = 0 then 0 else (u * 1000 / r.2).floor.toNat
  let eu := u.floor.toNat
  setFld PLN_RET_MS 0 (min ret (2 ^ 32 - 1)) (setFld PLN_EUSE_LO_MJ 0 eu (modEn (fun e => { e with euse := eu }) (setDomain r.1 s)))

/-- The eligible slots (R389). -/
def eligSlots (s : State) : List Nat := (List.range 72).filter (eligible s)

/-- The planner also runs after a change of an eligibility condition (R388). -/
def replan (s : State) : State :=
  let l := eligSlots s
  if l = s.en.elig then s else plan (modEn (fun e => { e with elig := l }) s)

/-- PLANNER_RUN, every 1 ms (R388). -/
def execPlannerRun (s : State) : Out := .next (plan s)

/-! ### The charger (R386, R387) -/

/-- Drive CHG_EN as R386 states. -/
def charger (s : State) : State :=
  let on := flg s CH_CTL_EN && flg s GA_STAT_PRESENT && !flg s GA_STAT_LOST && !s.en.busTrip && s.en.pf = .none
  setFld CH_STAT_ON 0 (if on then 1 else 0) s

/-- Duty of CHG_PWM, in 1/1,024 (R386). -/
def chargeDuty (s : State) : Nat := fld s CH_STAT_CMD * 1023 / fld s CH_CFG_FS

/-- Current that gauges and comparators use, in mA: the last unblanked sample, or the straight line through the last two
before the switch (R381). -/
def iNow (s : State) : Rat :=
  let e := s.en
  if flg s SN_IRSV_BLANK then e.iLast + (e.iLast - e.iPrev) * e.age / e.iGap else e.iLast

/-- Every 100 ms (R387). (Log 90: DEDUCED.) -/
def execChargerAdjust (s : State) : Out :=
  .next (
    if s.clk < s.en.chgAt + 100 * edgesMs then s else
    let s0 := modEn (fun e => { e with chgAt := s.clk }) s
    let set := fld s CH_CTL_SET
    let cmd := fld s CH_STAT_CMD
    let head : Int := ((fld s SN_VBUS_CODE : Int) - fld s SN_VRSV_CODE) * 5
    let hdr : Int := fld s CH_CFG_HDR * 100
    if head < hdr ∧ iNow s * 10 < (9 * cmd : Nat) then
      let duty := (fld s CH_CFG_FS + 1022) / 1023
      let s1 := setFld CH_STAT_CMD 0 (cmd - max (set / 16) duty) s0
      if flg s CH_STAT_LIMITED then s1 else raise 42 (setFld CH_STAT_LIMITED 0 1 s1)
    else if head ≥ hdr + 1000 ∧ cmd < set then
      let n := min set (cmd + set / 16)
      setFld CH_STAT_CMD 0 n (if n = set then setFld CH_STAT_LIMITED 0 0 s0 else s0)
    else s0)

/-! ### The gauges (R383 to R385) -/

/-- Show the gauges, and judge their difference (R384). -/
def gauges (s : State) : State :=
  let e := s.en
  let diff := |e.qcnt - e.qv|
  let tol := ocvQ s 15 * (fld s GA_CTL_TOL : Rat) / 100
  let s1 := setFld GA_QCNT_MC 0 e.qcnt.floor.toNat (setFld GA_QV_MC 0 e.qv.floor.toNat
    (setFld GA_Q_MC 0 (min e.qcnt e.qv).floor.toNat s))
  if diff > tol then
    let s2 := setFld GA_STAT_DISAGREE 0 1 s1
    if e.disArmed then raise 41 (modEn (fun x => { x with disArmed := false }) s2) else s2
  else if diff < tol / 2 then modEn (fun x => { x with disArmed := true }) s1
  else s1

/-- Take the voltage estimate afresh (R383). -/
def estimate (s : State) : State :=
  let v : Rat := fld s SN_VRSV_CODE * 5 - iNow s * (fld s GA_CFG_RINT : Rat) / 1000
  modEn (fun e => { e with qv := if e.tableOk then chargeOf s v else 0 }) s

/-- The rest timer (R384). -/
def restTimer (s : State) : State :=
  let rest := |iNow s| < (fld s GA_CTL_REST_I : Rat)
  setFld GA_STAT_REST 0 (if rest then 1 else 0)
    (modEn (fun e => { e with restAt := if rest then (match e.restAt with
      | some t => some t
      | none => some s.clk) else none }) s)

/-- The pack is declared lost (R385). The frozen domain of a power-fail sequence stands (Table 14.7). -/
def packLoss (s : State) : State :=
  let good := fld s SN_VRSV_CODE * 5 ≥ fld s GA_OCV_V * 10
  let s1 := modEn (fun e => { e with qcnt := 0, lost := true, backAt := if good then some s.clk else none,
                                     pfLost := e.pfLost || e.pf ≠ .none }) s
  let s2 := gauges (raise 40 (setFld GA_STAT_LOST 0 1 s1))
  let s3 := if s2.en.pf = .none then setDomain 0 s2 else s2
  plan (charger s3)

/-- RSV_PRES_N has been high for 1 ms. -/
def execPackRemoval (s : State) : Out :=
  .next (
    let s1 := setFld GA_STAT_PRESENT 0 0 s
    if s.en.lost then charger (modEn (fun e => { e with backAt := none }) s1)
    else modEn (fun e => { e with backAt := none }) (packLoss s1))

/-- One second of presence and good voltage has passed (R385). -/
def execPackReturn (s : State) : Out :=
  .next (
    if !s.en.lost && flg s GA_STAT_PRESENT then s else
    match s.en.backAt with
    | none => s
    | some t =>
      if s.clk < t + 1000 * edgesMs then s else
      let s1 := setFld GA_STAT_PRESENT 0 1 s
      plan (charger (gauges (modEn (fun e => { e with lost := false, backAt := none, qcnt := e.qv, restAt := some s.clk }) s1))))

/-- The rest timer reaches 10 minutes (R384): a re-base, then the planner. -/
def execGaugeRebase (s : State) : Out :=
  .next (
    match s.en.restAt with
    | none => s
    | some t =>
      if s.clk < t + 600000 * edgesMs then s else
      plan (gauges (setFld GA_STAT_REBASED 0 1 (modEn (fun e => { e with qcnt := e.qv, restAt := some s.clk }) s))))

/-! ### Sampling (R380, R381) -/

/-- Put a gain in force; the next four current samples are blanked. -/
def setGain (high : Bool) (s : State) : State :=
  if s.en.high = high then s
  else setFld SN_IRSV_GAIN 0 (if high then 1 else 0) (modEn (fun e => { e with high := high, blank := 4, lowRun := 0 }) s)

/-- One current sample. (Log 91: DEDUCED.) -/
def sampleCurrent (code : Nat) (s : State) : State :=
  let s0 := match fld s SN_GAIN_FORCE with
    | 1 => setGain true s
    | 2 => setGain false s
    | _ => s
  let high := s0.en.high
  let blank := 0 < s0.en.blank
  let g := if high then fld s SN_CFG_GHI else fld s SN_CFG_GLO
  let i : Rat := ((code : Int) - 8192) * 125000 / (g * fld s SN_CFG_SHUNT : Nat)
  let mag := ((code : Int) - 8192).natAbs
  let s1 := setFld SN_IRSV_CODE 0 code (setFld SN_IRSV_GAIN 0 (if high then 1 else 0) (setFld SN_IRSV_BLANK 0 (if blank then 1 else 0) s0))
  let s2 := if blank then modEn (fun e => { e with blank := e.blank - 1 }) s1
    else
      let s3 := setFld SN_IRSV_I 0 ((i / 10).floor % 65536).toNat
        (modEn (fun e => { e with iPrev := if e.iSeen then e.iLast else i, iLast := i, iGap := if e.iSeen then e.age else 8, age := 0 }) s1)
      if fld s SN_GAIN_FORCE ≠ 0 then s3
      else if high then (if mag ≥ 7782 then setGain false s3 else s3)
      else if mag * fld s SN_CFG_GHI * 10 < 8 * 8192 * fld s SN_CFG_GLO then
        (if s3.en.lowRun ≥ 63 then setGain true s3 else modEn (fun e => { e with lowRun := e.lowRun + 1 }) s3)
      else modEn (fun e => { e with lowRun := 0 }) s3
  let q := s2.en.qcnt + (if s2.en.iSeen then iNow s2 * s2.en.gap / 1000000 else 0)
  restTimer (gauges (estimate (modEn (fun e => { e with qcnt := max 0 (min q (ocvQ s 15)), gap := 0, iSeen := true }) s2)))

/-- One sample of the reserve voltage: the voltage-step loss and the conditions of a return (R385). -/
def sampleReserve (code : Nat) (s : State) : State :=
  let old := fld s SN_VRSV_CODE
  let fell := s.en.vrsvSeen && iNow s ≥ (fld s GA_CTL_REST_I : Rat) && old ≥ code + 20 * fld s GA_CFG_STEP
  let s1 := gauges (estimate (modEn (fun e => { e with vrsvSeen := true }) (setFld SN_VRSV_CODE 0 code s)))
  let s2 := if fell && !s1.en.lost && flg s1 GA_STAT_PRESENT then packLoss s1 else s1
  let good := code * 5 ≥ fld s GA_OCV_V * 10
  modEn (fun e => { e with backAt :=
    if !good then none
    else if s.en.lost || !flg s GA_STAT_PRESENT then (match e.backAt with
      | some t => some t
      | none => some s.clk)
    else e.backAt }) s2

/-- Every 8 µs, one sample in the converter's sequence. -/
def execAdcSample (code : BitVec 14) (s : State) : Out :=
  .next (
    let k := s.en.slot
    let s1 := modEn (fun e => { e with slot := e.slot + 1, gap := e.gap + 8, age := e.age + 8 }) s
    if k = 4 then setFld SN_VBUS_CODE 0 code.toNat s1
    else if k = 9 then sampleReserve code.toNat s1
    else sampleCurrent code.toNat s1)

/-! ### The comparators (R382) -/

/-- The bus comparator trips. -/
def execBusTrip (s : State) : Out :=
  .next (if s.en.busTrip then s else charger (modEn (fun e => { e with busTrip := true, busAt := s.clk, busBack := none }) s))

/-- The bus comparator clears; in E4 the return time begins (R402). -/
def execBusClear (s : State) : Out :=
  .next (if !s.en.busTrip then s else
    charger (modEn (fun e => { e with busTrip := false, busAt := s.clk, busBack := some s.clk }) s))

/-- The reserve comparator releases. -/
def execReserveRelease (s : State) : Out := .next (modEn (fun e => { e with rsvTrip := false }) s)

/-! ### Slot powers and battery-backed words (R395, R397, R405, R406) -/

/-- A write of PLN_SLOTP enters the shadow of the selected slot. -/
def execPlnSlotpWrite (v : BitVec 32) (s : State) : Out :=
  .next (
    let k := fld s PLN_SEL_SLOT
    if s.pw.inReset then s else if k ≥ 72 then reject 0x300D0 2 s
    else modEn (fun e => { e with slotpNew := mput e.slotpNew k (BitVec.ofNat 32 (v.toNat % 65536)) })
      { s with cfg := { s.cfg with kick := some s.clk } })

def setBbr (k v : Nat) (s : State) : State := { s with bbr := mput s.bbr k (BitVec.ofNat 32 v) }

/-- A word of the image is written: VBAT has stayed in range since (BBR_STAT.VALID, R395). -/
def setImage (k v : Nat) (s : State) : State := setBbr k v (setBbr 3 (withBits (bbrWord s 3) 0 1 1) s)

/-- BBR_COMMIT is written zero before any other word of the image changes outside a sequence (R397). -/
def bbrOpen (s : State) : State := if bbrWord s 0 = 0 then s else setBbr 0 0 s

/-- A software write of a battery-backed word: 0x040 to 0xF7F while the image is not committed (R406). -/
def execBbrWrite (word : BitVec 10) (v : BitVec 32) (s : State) : Out :=
  .next (
    let k := word.toNat
    if s.pw.inReset then s else if 0x10 ≤ k ∧ k < 0x3E0 ∧ bbrWord s 0 ≠ 0xC3A5 then setImage k v.toNat s
    else reject (0x50000 + 4 * k) 6 s)

/-- The first DIMM of a warm resume leaves self-refresh (R401 step 4). -/
def firstLeaves (s : State) : State :=
  if s.pw.warm then raise 44 (setBbr 0 0 { s with pw := { s.pw with warm := false } }) else s

/-- No DIMM of a warm resume leaves self-refresh before the planner can have run (R401 step 2). -/
def resumeMay (s : State) : Bool := s.en.iSeen && s.en.vrsvSeen

/-- VBAT falls below 2.0 V (R395). -/
def execVbatLoss (s : State) : Out :=
  .next (setBbr 3 (withBits (bbrWord s 3) 0 1 0) s)

end Sys2Proof.Machine
end

