-- ==== Sys2Proof/Machine/HostOps.lean ====
section
/-!
DEFINITION. Handles and host queues: lookup, completion, and what a stall reset does to them (chapter 13).
-/

namespace Sys2Proof.Machine

def handleOf (s : State) (k : Nat) : Handle := mgetD s.host.handles k {}
def setHandle (k : Nat) (h : Handle) (s : State) : State := { s with host := { s.host with handles := mput s.host.handles k h } }
def modHandle (k : Nat) (g : Handle → Handle) (s : State) : State := setHandle k (g (handleOf s k)) s
def queueOf (s : State) (q : Nat) : HQueue := mgetD s.host.queues q {}
def modQueue (q : Nat) (g : HQueue → HQueue) (s : State) : State :=
  { s with host := { s.host with queues := mput s.host.queues q (g (queueOf s q)) } }

/-- Stalls of a queue (HC_QSTALL). -/
def cmdStall (s : State) (q : Nat) : Nat := fld s HC_QSTALL_CMD q
def cplStall (s : State) (q : Nat) : Nat := fld s HC_QSTALL_CPL q

/-- The slot of a 16-bit handle whose command has not ended. -/
def liveSlot (s : State) (h : Nat) : Option Nat :=
  let k := h % 4096
  let x := handleOf s k
  if x.st ≠ .free && x.st ≠ .done && x.out.isNone && x.gen.toNat = h / 4096 then some k else none

def handleNum (s : State) (k : Nat) : Nat := k + (handleOf s k).gen.toNat * 4096

/-- Handles outstanding, all and of one queue (R356). -/
def outCount (s : State) : Nat := (s.host.handles.filter fun e => e.2.st ≠ .free).length
def outOf (s : State) (q : Nat) : Nat := (s.host.handles.filter fun e => e.2.st ≠ .free && e.2.queue.val = q).length

/-- Keep OUT and FULL of HC_STAT and HC_QSTAT. -/
def hostStat (s : State) : State :=
  let n := outCount s
  [0, 1, 2, 3].foldl (fun t q => setFld HC_QSTAT_OUT q (outOf s q) t)
    (setFld HC_STAT_OUT 0 n (setFld HC_STAT_FULL 0 (if n ≥ 4096 then 1 else 0) s))

/-- A command ends with status, detail and result: its record waits to be pushed (R356, R357). The word of a handle that is still BOUND
is read and discarded (R365). -/
def endHandle (k sts detail result : Nat) (s : State) : State :=
  let h := handleOf s k
  if h.st = .free || h.st = .done || h.out.isSome then s else
  modQueue h.queue.val (fun q => { q with push := q.push ++ [k], bound := q.bound.map fun b => if b = k then 4096 else b })
    (setHandle k { h with out := some (BitVec.ofNat 8 sts, BitVec.ofNat 8 detail, BitVec.ofNat 64 result), st := .running } s)

/-- The queues that a stall serves. -/
def queuesOf (s : State) (f : State → Nat → Nat) (a : Nat) : List Nat :=
  [0, 1, 2, 3].filter fun q => f s q = a && (flg s HC_QCFG_EN q || (queueOf s q).bound ≠ [] || 0 < outOf s q)

/-- What a stall's reset does to the handles of its queues (R366); off: the stall goes OFF (R352). -/
def hostStallReset (a : Nat) (off : Bool) (s : State) : State :=
  let s1 := (queuesOf s cmdStall a).foldl (fun t q =>
    let l := (queueOf t q).bound
    modQueue q (fun x => { x with bound := [], stallOff := x.stallOff || (off && flg t HC_QCFG_EN q) })
      (l.foldl (fun u k => endHandle k 6 0 0 u) t)) s
  (queuesOf s1 cplStall a).foldl (fun t q =>
    let lost := t.host.handles.filter fun e => e.2.st = .done && e.2.queue.val = q && e.2.recPos.isSome
    let sorted := lost.foldl (fun (acc : List (Nat × Nat)) e =>
      acc.filter (fun x => x.2 < (e.2.recPos.getD 0)) ++ [(e.1, e.2.recPos.getD 0)] ++ acc.filter (fun x => !(x.2 < (e.2.recPos.getD 0)))) []
    let t1 := lost.foldl (fun u e => modHandle e.1 (fun h => { h with recPos := none, replay := true }) u) t
    let t2 := modQueue q (fun x => { x with push := sorted.map (fun x => x.1) ++ x.push, stallOff := x.stallOff || (off && flg t HC_QCFG_EN q) }) t1
    let t3 := if off && flg t HC_QCFG_EN q then setFld HC_QSTAT_STALLOFF q 1 t2 else t2
    if lost = [] then t3 else setFld HC_QSTAT_REPLAY q 1 t3) (queuesOf s1 cmdStall a |>.foldl (fun t q =>
      if off && flg t HC_QCFG_EN q then setFld HC_QSTAT_STALLOFF q 1 t else t) s1)

/-- A handle is DONE until the consumer frees its record's word (R356). -/
def freeHandles (h : Nat → Nat) (s : State) : State :=
  let gone := s.host.handles.filter fun e => e.2.st = .done && (match e.2.recPos with
    | some r => r < h (cplStall s e.2.queue.val)
    | none => false)
  if gone = [] then s
  else hostStat (gone.foldl (fun t e => setHandle e.1 { gen := e.2.gen } t) s)

end Sys2Proof.Machine
end

