-- ==== Sys2Proof/Machine/StallOps.lean ====
section
/-!
DEFINITION. The stall manager: rings, packing, staging, tallies, reads and resets (chapter 10).
-/

namespace Sys2Proof.Machine

def stallOf (s : State) (a : Nat) : Stall := mgetD s.stalls a {}

/-! ### Geometry and configuration (R254, R258, R286) -/

def Stall.size (x : Stall) : Nat := 4096 * 2 ^ bits x.cfg0.toNat 0 5
def Stall.slots (x : Stall) : Nat := x.size / 8
def Stall.words (x : Stall) : Nat := x.size / 64
def Stall.base (x : Stall) : Nat := (x.baseLo.toNat / 4096) * 4096 + bits x.baseHi.toNat 0 14 * 2 ^ 32
def Stall.ctrl (x : Stall) : Bool := bits x.cfg0.toNat 5 1 = 1
def Stall.rew (x : Stall) : Bool := bits x.cfg0.toNat 6 1 = 1
def Stall.prod (x : Stall) : Nat := bits x.cfg0.toNat 8 6
def Stall.cons (x : Stall) : Nat := bits x.cfg0.toNat 16 6
def Stall.maxPkt (x : Stall) : Nat := bits x.cfg1.toNat 8 13
def Stall.flushExp (x : Stall) : Nat := bits x.cfg1.toNat 21 4
def Stall.tgMax (x : Stall) : Nat := bits x.cfg1.toNat 25 5
/-- The producer takes tallies (Table 10.2). -/
def Stall.tallied (x : Stall) : Bool := x.prod < 0x24
/-- Complete words not freed (ST_COUNT, R280). -/
def Stall.count (x : Stall) : Nat := x.wpos - (if x.rew then x.p else x.h)

/-- A fabric or Lantern unit of Table 10.2 is implemented. -/
def codeImpl (v : Variant) (c : Nat) : Bool :=
  if c < 0x20 then fabImpl v c else if c < 0x24 then c - 0x20 < ctxCount v else c < 0x26

/-! ### Updates, occupancy and errors (R279, R280, R284) -/

/-- STALL_ERR with a cause of Table 10.10. -/
def stallErr (cause a count : Nat) (s : State) : State :=
  raise 28 (logEngine 0x12 (a + cause * 32768) (min count 0xFFFFFFF) s)

/-- Words held by group g. -/
def groupOcc (s : State) (g : Nat) : Nat := s.stalls.foldl (fun n e => if e.1 / 256 = g then n + e.2.count else n) 0

/-- Both copies of the pointers. -/
def Stall.sync (x : Stall) : Stall :=
  { x with gout2 := x.gout, o2 := x.o, wpos2 := x.wpos, h2 := x.h, m2 := x.m, p2 := x.p, spilled2 := x.spilled }

def Stall.mismatch (x : Stall) : Bool :=
  x.ctrl && !(x.gout2 = x.gout && x.o2 = x.o && x.wpos2 = x.wpos && x.h2 = x.h && x.m2 = x.m && x.p2 = x.p && x.spilled2 = x.spilled)

/-- Store a stall; a group that crosses its level sets its pending bit (R280). -/
def putStall (a : Nat) (x : Stall) (s : State) : State :=
  let g := a / 256
  let before := groupOcc s g
  let s1 := { s with stalls := mput s.stalls a x.sync }
  let now := groupOcc s1 g
  if now = before then s1 else
  let s2 := setFld ST_GOCC_OCC g (min now (2 ^ 32 - 1)) s1
  let lvl := fld s ST_GLVL_LEVEL g
  if lvl = 0 ∨ lvl ≤ before ∨ now < lvl then s2 else
  let old := fld s2 ST_GPEND_PEND (g / 32)
  let s3 := setFld ST_GPEND_PEND (g / 32) (old ||| 2 ^ (g % 32)) s2
  if old.testBit (g % 32) then s3 else raise 27 s3

def modStall (a : Nat) (g : Stall → Stall) (s : State) : State := putStall a (g (stallOf s a)) s

/-! ### The ring in DRAM (R254, R267) -/

/-- Write bytes of the line at an engine address; a poisoned line stays poisoned unless it is written whole. -/
def ringWrite (addr : Nat) (d : Line) (be : BitVec 64) (s : State) : State :=
  match target s addr with
  | .dram p la =>
    let s := markOver p la (syncLine p la s)
    let old := readStored s p la
    if be = allBytes then storeLine p la d false orgRmw s
    else if old.2 then storePoisoned p la (mergeLine old.1 d be) orgRmw s
    else storeLine p la (mergeLine old.1 d be) false orgRmw s
  | _ => s

def Stall.wordAddr (x : Stall) (pos : Nat) : Nat := x.base + 64 * (pos % x.words)
def Stall.tagAddr (x : Stall) (pos : Nat) : Nat := x.base + x.size + 2 * (pos % x.words)

/-- The line at an engine address as stored. -/
def ringLine (s : State) (addr : Nat) : Line × Bool :=
  match target s addr with
  | .dram p la => readStored s p la
  | _ => (0, false)

/-- Tag of a position as the ring holds it. -/
def ringTag (s : State) (x : Stall) (pos : Nat) : BitVec 16 :=
  let t := x.tagAddr pos
  (ringLine s (t / 64 * 64)).1.extractLsb' (8 * (t % 64)) 16

/-- Tag of a complete word, wherever it lies. -/
def wordTag (s : State) (x : Stall) (pos : Nat) : BitVec 16 :=
  match mget x.staged pos with
  | some w => w.tag
  | none => ringTag s x pos

/-- Write one word and its tag to the ring. -/
def ringPut (x : Stall) (pos : Nat) (w : SWord) (s : State) : State :=
  let t := x.tagAddr pos
  ringWrite (t / 64 * 64) (BitVec.ofNat 512 (w.tag.toNat <<< (8 * (t % 64)))) (BitVec.ofNat 64 (3 <<< (t % 64)))
    (ringWrite (x.wordAddr pos) w.data allBytes s)

/-- Write words of staging to the ring. -/
def ringPutAll (x : Stall) (l : SMap SWord) (s : State) : State := l.foldl (fun t e => ringPut x e.1 e.2 t) s

/-- The ring's port takes no sub-request now. -/
def ringDown (s : State) (x : Stall) : Bool :=
  match target s x.base with
  | .dram p _ => portFails s p
  | _ => true

/-! ### Staging (R266 to R268) -/

/-- Words of the fill bank's full blocks, which wait for a swap or a spill. -/
def Stall.fullWords (x : Stall) : SMap SWord := x.staged.filter fun e => some (e.1 / 8) ≠ x.drain && e.1 / 8 < x.wpos / 8

/-- The fill bank is full and has neither swapped nor been spilled. -/
def Stall.fillFull (x : Stall) : Bool := !x.fullWords.isEmpty

/-- The full fill bank swaps roles with the drain bank when that is empty and the ring holds no unread word. -/
def Stall.trySwap (x : Stall) : Stall :=
  let drained := match x.drain with
    | none => true
    | some k => !(x.staged.any fun e => e.1 / 8 = k)
  let x1 := if drained then { x with drain := none } else x
  if x.rew || !drained || !x.fillFull then x1 else
  let k := x.wpos / 8 - 1
  if x.h ≥ 8 * k && x.staged.all fun e => k ≤ e.1 / 8 then { x1 with drain := some k } else x1

/-- Every complete word of staging goes to the ring, and staging is empty. (Log 80: DEDUCED.) -/
def spillAll (a : Nat) (s : State) : State :=
  let x := stallOf s a
  modStall a (fun y => { y with staged := [], drain := none, spilled := y.wpos }) (ringPutAll x x.staged s)

/-- Pairs of a quarter in use. -/
def pairsUsed (s : State) (q : Nat) : Nat := (s.stalls.filter fun e => (e.2.pair.map Fin.val) = some q).length

/-- The stall whose pair is taken when none is free: the least recently used without an open partial word. -/
def pairVictim (s : State) : Option Nat :=
  ((s.stalls.filter fun e => e.2.pair.isSome && e.2.part.isNone).foldl (fun (acc : Option (Nat × Nat)) e =>
    match acc with
    | none => some (e.1, e.2.lastItem)
    | some b => if e.2.lastItem < b.2 then some (e.1, e.2.lastItem) else acc) none).map fun b => b.1

/-- A pair can be given to the stall now. -/
def pairReady (s : State) (a : Nat) : Bool :=
  (stallOf s a).pair.isSome || (quartersOn s).any (fun q => pairsUsed s q < quarterPairs s.part.variant)
    || (!(quartersOn s).isEmpty && (pairVictim s).isSome)

/-- Give the stall a pair (R268). With every quarter off, PD_STG0 switches on and the stall waits (Table 15.2). (Log 81: DEDUCED.) -/
def takePair (a : Nat) (s : State) : State :=
  if (stallOf s a).pair.isSome then s
  else if quartersOn s = [] then
    match mget s.pw.doms 43 with
    | some .off => { s with pw := { s.pw with doms := mput s.pw.doms 43 (.rising (s.clk + riseEdges s.part.variant 43) false) } }
    | _ => s
  else match (quartersOn s).find? fun q => pairsUsed s q < quarterPairs s.part.variant with
    | some q => modStall a (fun x => { x with pair := some (Fin.ofNat 4 q) }) s
    | none =>
      match pairVictim s with
      | none => s
      | some v =>
        let q := (stallOf s v).pair
        modStall a (fun x => { x with pair := q }) (modStall v (fun x => { x with pair := none }) (spillAll v s))

/-! ### Words (R262, R263) -/

/-- The word of a tag and payload takes the next position. -/
def Stall.place (x : Stall) (w : SWord) : Stall :=
  Stall.trySwap { x with staged := mput x.staged x.wpos w, wpos := x.wpos + 1 }

/-- The open partial word completes with flags of Table 10.6 beyond VB and SOP. -/
def Stall.endWord (x : Stall) (flags : Nat) : Stall :=
  match x.part with
  | none => x
  | some q => Stall.place { x with part := none }
      { data := q.data, tag := BitVec.ofNat 16 (q.vb + (if q.sop then 128 else 0) + (if q.bad then 4096 else 0) + flags) }

def tagEop (t : BitVec 16) : Bool := t.getLsbD 8

/-- Free a word at H that a skip discards. -/
def Stall.skipWord (x : Stall) (eop : Bool) : Stall :=
  Stall.trySwap { x with h := x.h + 1, staged := mdel x.staged x.h, o := x.o - 8, skip := !eop, midPkt := !eop }

/-- A DROP skips the complete words of its packet (R276). -/
def skipRun (a : Nat) : Nat → State → State
  | 0, s => s
  | n + 1, s =>
    let x := stallOf s a
    if !x.skip || x.h ≥ x.wpos then s
    else skipRun a n (putStall a (x.skipWord (tagEop (wordTag s x x.h))) s)

def skipNow (a : Nat) (s : State) : State := skipRun a ((stallOf s a).wpos - (stallOf s a).h) s

/-- The packet has ended: an overrun in it is logged, and the producer side starts afresh. -/
def endPacket (a : Nat) (s : State) : State :=
  let x := stallOf s a
  let s1 := if x.pktOver = 0 then s else stallErr 1 a x.pktOver s
  modStall a (fun y => { y with pktOpen := false, pktItems := 0, pktErr := false, pktCut := false, pktDropped := 0, pktOver := 0 }) s1

/-- Slots free for padding or a close word (R271). -/
def Stall.fits (x : Stall) (r : Nat) : Bool := x.o + r + x.gout ≤ x.slots

/-- Complete the flush or EOP that waits, if its padding fits. -/
def resumeWait (a : Nat) (s : State) : State :=
  let x := stallOf s a
  match x.wait with
  | none => s
  | some (r, eop, frag) =>
    if !x.fits r then s else
    let fl := (if eop then 256 else 0) + (if frag then 1024 else 0) + (if eop && x.pktErr then 2048 else 0)
    let s1 := putStall a (Stall.endWord { x with wait := none, o := x.o + r } fl) s
    skipNow a (if eop && !x.pktCut then endPacket a s1 else s1)

/-- Close the open packet with ERR, by its partial word or a close word, when space allows (R264); true: a fence asked.
A cut packet has its EOP word, so only its OVERSIZE count is left to log (R275). (Log 82: DEDUCED.) -/
def tryClose (a : Nat) (s : State) : State :=
  let x := stallOf s a
  match x.closeWait with
  | none => s
  | some frag =>
    if x.wait.isSome then s else
    match x.part with
    | some q =>
      resumeWait a (putStall a { x with closeWait := none, pktErr := true, pktCut := false, wait := some (8 - q.items, true, frag) } s)
    | none =>
      if x.pktCut then
        let s1 := putStall a { x with closeWait := none } s
        endPacket a (if x.pktDropped = 0 then s1 else stallErr 5 a x.pktDropped s1)
      else if !x.fits 8 then s
      else skipNow a (endPacket a (putStall a (Stall.place { x with closeWait := none, o := x.o + 8 } { data := 0, tag := 0x900 }) s))

/-- Complete the partial word as FRAG (R274). -/
def flushPart (a : Nat) (s : State) : State :=
  let x := stallOf s a
  match x.part with
  | none => s
  | some q =>
    if x.wait.isSome then s
    else resumeWait a (putStall a { x with wait := some (8 - q.items, false, true) } s)

/-! ### Items (R271 to R275) -/

/-- The stall takes an item now; an item for a stall that is not ON is discarded at once. -/
def pushReady (s : State) (a : Nat) : Bool :=
  let x := stallOf s a
  x.st ≠ .on || (x.wait.isNone && x.closeWait.isNone && !x.fillFull && pairReady s a
    && (x.prod ≠ 0x24 || x.o + 1 + x.gout ≤ x.slots - 8))

/-- Padding that the producer pays at its EOP. -/
def Stall.payEop (x : Stall) : Stall :=
  let p := if x.tallied then (8 - x.pktItems % 8) % 8 else 0
  if x.gout < p then { x with ovr := true, fetchOvr := true, pktErr := true, pktOver := x.pktOver + (p - x.gout), gout := 0 }
  else { x with gout := x.gout - p }

/-- An item enters a stall that is ON and ready. (Log 84: DEDUCED.) -/
def pushItem (a : Nat) (it : SItem) (s : State) : State :=
  let s0 := takePair a s
  let x := stallOf s0 a
  let x1 := { x with pktOpen := true, pktItems := x.pktItems + 1, pktErr := x.pktErr || it.errp, lastItem := s.clk, pwaited := false }
  let paid := if x1.tallied then { x1 with gout := x1.gout - 1 } else x1
  if x1.pktCut then
    let x2 := { paid with pktDropped := paid.pktDropped + 1 }
    if it.eop then endPacket a (stallErr 5 a x2.pktDropped (putStall a x2.payEop s0)) else putStall a x2 s0
  else if x1.tallied && x1.gout = 0 then
    let x2 := { x1 with ovr := true, fetchOvr := true, pktErr := true, pktOver := x1.pktOver + 1,
                        errOver := if x1.errOver = 65535 then 65535 else x1.errOver + 1 }
    if !it.eop then
      if x2.pktItems > x2.maxPkt then
        let q := (x2.part).getD { sop := false }
        resumeWait a (putStall a { x2 with part := some q, pktCut := true, wait := some (8 - q.items, true, false) } s0)
      else putStall a x2 s0
    else match x2.part with
      | some q => resumeWait a (putStall a { x2.payEop with wait := some (8 - q.items, true, false) } s0)
      | none => tryClose a (putStall a { x2.payEop with closeWait := some false } s0)
  else
    let q := (paid.part).getD { sop := x1.pktItems = 1 }
    let n := q.items + 1
    let v : BitVec 64 := BitVec.ofNat 64 (it.data.toNat % 2 ^ (8 * (it.lbytes.toNat + 1)))
    let q1 : Partial := { data := q.data ||| ((v.setWidth 512) <<< (64 * q.items)), items := n,
                          vb := 8 * q.items + it.lbytes.toNat + 1, sop := q.sop,
                          bad := q.bad || it.bad }
    let x2 := { paid with part := some q1, o := paid.o + 1 }
    if it.eop then resumeWait a (putStall a { x2.payEop with wait := some (8 - n, true, false) } s0)
    else if x2.pktItems > x2.maxPkt then
      resumeWait a (putStall a { x2 with pktErr := true, pktCut := true, wait := some (8 - n, true, false) } s0)
    else if n = 8 then skipNow a (putStall a (x2.endWord 0) s0)
    else putStall a x2 s0

/-- Items in arrival order while the stall takes them; the items left. A stall that is not ON discards them (R279). -/
def pushItems (a : Nat) : List SItem → State → List SItem × State
  | [], s => ([], s)
  | it :: l, s =>
    if (stallOf s a).st ≠ .on then ([], stallErr 4 a (l.length + 1) s)
    else if pushReady s a then pushItems a l (pushItem a it s)
    else
      let x := stallOf s a
      let waits := x.wait.isNone && x.closeWait.isNone && !x.fillFull && !pairReady s a && !x.pwaited
      (it :: l, if waits then takePair a (addFld ST_ECNT_PWAIT 0 1 (modStall a (fun y => { y with pwaited := true }) s)) else s)

/-- The items of the PIO window that wait. -/
def pumpItems (a : Nat) (s : State) : State :=
  let r := pushItems a (stallOf s a).items s
  modStall a (fun x => { x with items := r.1 }) r.2

/-! ### Tallies, reads and consumer commands (R265, R270, R276, R277) -/

/-- Where pushes, fetches and flushes addressed to a stall go (R281). -/
def route (s : State) (a : Nat) : Nat :=
  match (stallOf s a).redir with
  | some b => b.toNat
  | none => a

/-- A tally fetch: its beat (Table 10.8) and the state. -/
def tallyFetch (a : Nat) (s : State) : Line × State :=
  let b := route s a
  let x := stallOf s b
  let g := min (x.slots - 8 - x.o - x.gout) (2 ^ (x.tgMax + 3))
  let fl := (if x.fetchReset then 1 else 0) + (if x.fetchOvr then 2 else 0) + (if a = b then 0 else 4)
  (BitVec.ofNat 512 (g + (x.gout + g) * 2 ^ 64 + fl * 2 ^ 128),
   putStall b { x with gout := x.gout + g, fetchReset := false, fetchOvr := false,
                       st := if x.st = .recover then .on else x.st } s)

/-- The word at H, which is staged, is taken; a rewindable stall frees it on RELEASE only. -/
def Stall.takeWord (x : Stall) (w : SWord) : Stall :=
  let kept := x.rew && x.spilled ≤ x.h
  Stall.trySwap { x with h := x.h + 1, staged := if kept then x.staged else mdel x.staged x.h,
                         o := if x.rew then x.o else x.o - 8, midPkt := !tagEop w.tag }

/-- The reader takes the words that staging holds. -/
def runReader (a : Nat) : Nat → State → State
  | 0, s => s
  | n + 1, s =>
    let x := stallOf s a
    match x.reader with
    | none => s
    | some r =>
      if r.got.length ≥ r.n then s else
      match mget x.staged x.h with
      | none => s
      | some w => runReader a n (putStall a { x.takeWord w with reader := some { r with got := r.got ++ [w] } } s)

/-- Payload of a reset word (Table 10.7). -/
def resetWord (d : Nat) (cause : BitVec 8) : SWord :=
  { data := BitVec.ofNat 512 (d % 2 ^ 64 + cause.toNat * 2 ^ 64), tag := 0x980 }

def idleWord : SWord := { data := 0, tag := 0x200 }

/-- A word read of len words starts (R265). -/
def startRead (a : Nat) (o : Owner) (len : Nat) (s : State) : State :=
  let x := stallOf s a
  let first := match x.rstWord with
    | some (d, c) => [resetWord d c]
    | none => []
  let n := min len (first.length + (x.wpos - x.h))
  runReader a n (takePair a (putStall a { x with rstWord := none, reader := some { owner := o, len := len, n := n, got := first } } s))

/-- The words of a finished read, filled with idle words; the reader is gone. -/
def readerWords (r : Reader) : List SWord := r.got ++ List.replicate (r.len - r.got.length) idleWord
def readerDone (s : State) (a : Nat) (o : Owner) : Option (List SWord) :=
  match (stallOf s a).reader with
  | some r => if r.owner = o && r.got.length ≥ r.n then some (readerWords r) else none
  | none => none
def dropReader (a : Nat) (s : State) : State := modStall a (fun x => { x with reader := none }) s

/-- DROP (R276). -/
def stallDrop (a : Nat) (s : State) : State :=
  if !(stallOf s a).midPkt || (stallOf s a).skip then s else skipNow a (modStall a (fun x => { x with skip := true }) s)

/-- MARK, REWIND and RELEASE (R277). -/
def stallMark (a : Nat) (s : State) : State := modStall a (fun x => { x with m := x.h }) s
def rewindReady (s : State) (a : Nat) : Bool := (stallOf s a).h ≤ (stallOf s a).spilled
def stallRewind (a : Nat) (s : State) : State := modStall a (fun x => { x with h := x.m }) s
def stallRelease (a : Nat) (s : State) : State :=
  modStall a (fun x => { x with o := x.o - 8 * (x.h - x.p), p := x.h, m := x.h }) s

/-! ### Reset (R279) -/

/-- Items of the words not freed, and of the open partial word. -/
def heldItems (s : State) (x : Stall) : Nat :=
  ((List.range x.count).foldl (fun n i => n + (bits (wordTag s x ((if x.rew then x.p else x.h) + i)).toNat 0 7 + 7) / 8) 0)
    + (match x.part with
      | some q => q.items
      | none => 0)

/-- A reset with a cause (0x1 RESET, 0x2 pointer mismatch, 0x3 DISABLE). (Log 83: DEDUCED.) -/
def resetStall (a : Nat) (cause : Nat) (s : State) : State :=
  let x := stallOf s a
  let d := heldItems s x
  let rw := resetWord d (BitVec.ofNat 8 cause)
  let rd := x.reader.map fun r => { r with n := min r.len (r.got.length + 1), got := if r.got.length < r.len then r.got ++ [rw] else r.got }
  let arm := if rd.isSome then none else some (d, BitVec.ofNat 8 cause)
  let next : StallSt := if cause = 3 then .off else if x.tallied then .recover else .on
  let keep : Stall := { baseLo := x.baseLo, baseHi := x.baseHi, cfg0 := x.cfg0, cfg1 := x.cfg1, cfg1New := x.cfg1New }
  let y : Stall := { keep with refused := x.refused, ovr := x.ovr, errOver := x.errOver, errCe := x.errCe, fetchOvr := x.fetchOvr,
                               fetchReset := true, reader := rd, rstWord := arm, st := next }
  let s1 := putStall a y (hostStallReset a (cause = 3) s)
  let s2 := if x.items = [] then s1 else stallErr 4 a x.items.length s1
  if cause = 2 then stallErr 2 a d (addFld ST_ECNT_MISMATCH 0 1 s2) else s2

/-- Compare the copies of a control-class stall's pointers before a use. -/
def checkStall (a : Nat) (s : State) : State := if (stallOf s a).mismatch then resetStall a 2 s else s

/-! ### Enable (R256) -/

/-- A range of engine addresses lies within one enabled set. -/
def oneSet (s : State) (lo n : Nat) : Bool := (List.range 8).any fun k => inSet s k lo && inSet s k (lo + n - 1)

def Stall.span (x : Stall) : Nat := x.size + x.size / 32

/-- The packet limit fits the ring (R275). -/
def Stall.pktFits (x : Stall) (maxPkt : Nat) : Bool := 64 * ((maxPkt + 1 + 7) / 8) ≤ x.size - 64

def enableOk (s : State) (a : Nat) : Bool :=
  let x := stallOf s a
  let others := s.stalls.filter fun e => e.1 ≠ a && e.2.st ≠ .off
  oneSet s x.base x.span
    && others.all (fun e => x.base + x.span ≤ e.2.base || e.2.base + e.2.span ≤ x.base)
    && codeImpl s.part.variant x.prod && codeImpl s.part.variant x.cons && x.pktFits x.maxPkt
    && (!x.rew || (others.filter fun e => e.2.rew).length < 256)
    && (!x.ctrl || (others.filter fun e => e.2.ctrl).length < 1024)

/-- ENABLE. -/
def enableStall (a : Nat) (s : State) : State :=
  let x := stallOf s a
  if x.st ≠ .off then s
  else if enableOk s a then
    putStall a { baseLo := x.baseLo, baseHi := x.baseHi, cfg0 := x.cfg0, cfg1 := x.cfg1, cfg1New := x.cfg1New, ovr := x.ovr,
                 errOver := x.errOver, errCe := x.errCe, fetchReset := x.fetchReset, fetchOvr := x.fetchOvr, st := .on } s
  else reject 0x380024 9 (modStall a (fun y => { y with refused := true }) s) 0 a

/-- A packet that a fence or a cut burst leaves open is closed; the close waits for space (R264, Table 10.9). -/
def closePacket (a : Nat) (fence : Bool) (s : State) : State :=
  let x := stallOf s a
  if !x.pktOpen || x.closeWait.isSome then (if fence then flushPart a s else s)
  else tryClose a (stallErr 7 a (x.pktItems - x.pktDropped - x.pktOver) (modStall a (fun y => { y with closeWait := some fence, pktErr := true }) s))

end Sys2Proof.Machine
end

