-- ==== Sys2Proof/Machine/FabOps.lean ====
section
/-!
DEFINITION. A fabric port: acceptance, order, forwarding, read lines, answers and tallies (chapters 2 and 3).
-/

namespace Sys2Proof.Machine

/-! ### Opcodes and status fields -/

/-- The opcode is answered on the read channel (Table 2.3). -/
def readChan (opc : Nat) : Bool := opc = 0 || opc = 3 || opc = 5 || opc = 0xA
def isBarrier (opc : Nat) : Bool := opc = 6 || opc = 7 || opc = 8
def isAtomicOpc (opc : Nat) : Bool := opc = 4 || opc = 5
/-- Store-class opcodes, which take a slot of the order list (R61). -/
def isStoreOpc (opc : Nat) : Bool := opc = 1 || opc = 2 || opc = 4 || opc = 5 || opc = 9 || opc = 0xB

/-- Fields of ADDR for the stall opcodes (Tables 10.3 to 10.5). -/
def stallNum (w : ReqWord) : Nat := bits w.addr.toNat 0 15
def putEop (w : ReqWord) : Bool := bits w.addr.toNat 15 1 = 1
def putNlast (w : ReqWord) : Nat := bits w.addr.toNat 16 3 + 1
def putLbytes (w : ReqWord) : Nat := bits w.addr.toNat 19 3
def putErrp (w : ReqWord) : Bool := bits w.addr.toNat 22 1 = 1
def getView (w : ReqWord) : Bool := bits w.addr.toNat 15 1 = 1
def cmdCode (w : ReqWord) : Nat := bits w.addr.toNat 15 4

/-- A request that is outstanding: accepted, and its answer not yet transferred (R33, R35). -/
def FabReq.live (r : FabReq) : Bool := r.refused.isNone && !r.ended

/-- A write burst that waits for beats (R51). -/
def FabReq.burstHeld (r : FabReq) : Bool := r.refused.isNone && carriesBeats r.opc.toNat && !r.cut && r.beats.length < r.lines.length

/-- Keep OUT and BURST_HELD of FP_STATUS (R51, R53). -/
def fabStat (n : Nat) (s : State) : State :=
  let f := fabOf s n
  let held := f.reqs.any FabReq.burstHeld
  setFld FP_STATUS_OUT n (f.reqs.filter FabReq.live).length (setFld FP_STATUS_BURST_HELD n (if held then 1 else 0) s)

/-- A violation of R44: bit, count and cause; a request word leaves its tag. -/
def proto (n : Nat) (f : Fld) (tag : Option Nat) (s : State) : State :=
  let s1 := addFld FP_PROTO_CNT_COUNT n 1 (setFld f n 1 s)
  raise 1 (match tag with
    | some t => setFld FP_PROTO_LAST_TAG n t s1
    | none => s1) (some n)

/-! ### Acceptance (R33, R34, R260) -/

/-- R260, step 3. -/
def stallFmt (opc : Nat) (w : ReqWord) : Bool :=
  let a := w.addr.toNat
  commonOk w && w.size == 0 && w.aop == 0 &&
  (if opc = 9 then a < 2 ^ 23 && (putEop w || putLbytes w = 7)
   else if opc = 0xA then a < 2 ^ 16 && (if getView w then w.len == 0 else 1 ≤ w.len.toNat && w.len.toNat ≤ 32)
   else a < 2 ^ 19 && 1 ≤ cmdCode w && cmdCode w ≤ 5 && w.len == 0)

/-- Step 3: the format of a word with opcode opc. -/
def fmtOk (opc : Nat) (w : ReqWord) : Bool :=
  match opc with
  | 0 => rdOk w
  | 1 => rdOk w
  | 2 => rdOk w
  | 3 => lrOk w
  | 4 => lrOk w
  | 5 => amoOk w
  | 6 => barOk w
  | 7 => barOk w
  | 8 => barOk w
  | 9 => stallFmt 9 w
  | 0xA => stallFmt 0xA w
  | 0xB => stallFmt 0xB w
  | _ => false

/-- The master is the unit that the opcode needs, the class of the stall fits, and the stall is not OFF (R260, step 5). -/
def stallMine (s : State) (code opc : Nat) (w : ReqWord) : Bool :=
  let x := stallOf s (stallNum w)
  let asProd := opc = 9 || (opc = 0xA && getView w) || (opc = 0xB && cmdCode w = 5)
  x.st ≠ .off && (if asProd then x.prod = code else x.cons = code)
    && (opc ≠ 0xB || (if cmdCode w = 1 then !x.rew else if cmdCode w = 5 then true else x.rew))

/-- Steps 3 to 5 of R33 for a master of code `code` of Table 10.2: the status that refuses the word, if any. -/
def refusal (s : State) (code opc : Nat) (w : ReqWord) : Option (BitVec 4) :=
  let stall := opc = 9 || opc = 0xA || opc = 0xB
  if !fmtOk opc w then some 4
  else if stall then
    (if stallNum w ≥ stallCount s.part.variant then some 9 else if stallMine s code opc w then none else some 4)
  else if isBarrier opc then none
  else if (opc = 3 || opc = 4 || opc = 5) && !homeImpl s.part.variant then some 9
  else match target s w.addr.toNat with
    | .dram _ _ => none
    | .spad off => if spadServes s off then none else some 4
    | .absent => some 9
    | .nowhere => some 4

/-- Lines of an accepted request. -/
def lineCount (opc : Nat) (w : ReqWord) : Nat := if isBarrier opc then 0 else w.len.toNat + 1

/-- A request word of opcode opc arrives on fabric port n (R33, R44). -/
def fabRequest (n opc : Nat) (w : ReqWord) (s : State) : State :=
  if s.pw.inReset || s.pw.st.toNat > 3 then s else
  let f := fabOf s n
  if f.reqTly = 0 then proto n FP_PROTO_TLY_OVR (some w.tag.toNat) s
  else if f.reqs.any fun r => r.live && r.w.tag = w.tag then proto n FP_PROTO_TAG_DUP (some w.tag.toNat) s
  else
    let s0 := modFab n (fun g => { g with reqTly := g.reqTly - 1 }) (active s)
    let i := newId s0
    let shut := f.fenced || !flg s FP_STATUS_CLK_OK n
    let sts : Option (BitVec 4) := if shut then some 5 else refusal s n opc w
    match sts with
    | some t =>
      let r : FabReq := { id := i.1, opc := BitVec.ofNat 5 opc, w := w, refused := some t,
                          attr := unbound (Fin.ofNat 8 (fld s BR_CFG_CLASS w.tkt.toNat)) s }
      let owes := carriesBeats opc && !f.fenced
      modFab n (fun g => { g with
        reqs := g.reqs ++ [r]
        owed := if owes then g.owed ++ [{ req := none, left := w.len.toNat + 1 }] else g.owed }) i.2
    | none =>
      let dl := if w.dlv then some (deadlineOf (tick s) w.dl.toNat) else none
      let b := bind w.tkt.toNat dl (some (Fin.ofNat 32 n)) i.2
      let r : FabReq := { id := i.1, opc := BitVec.ofNat 5 opc, w := w, attr := b.1, lastBeat := s.clk,
                          lines := List.replicate (lineCount opc w) {} }
      modFab n (fun g => { g with
        reqs := g.reqs ++ [r]
        owed := if carriesBeats opc then g.owed ++ [{ req := some i.1, left := w.len.toNat + 1 }] else g.owed }) b.2

/-! ### Program order (R58, R63 to R65, R69) -/

def FabReq.lineAddr (r : FabReq) (k : Nat) : Nat := (r.w.addr.toNat / 64 + k) * 64

/-- Every access of the request is performed (R55). -/
def FabReq.performed (r : FabReq) : Bool := r.refused.isSome || r.lines.all fun l => l.performed

/-- Requests before one in program order. -/
def earlier (l : List FabReq) (id : Nat) : List FabReq := l.takeWhile fun r => r.id ≠ id

/-- Requests up to the last barrier of a list. -/
def upToBarrier (l : List FabReq) : List FabReq := (l.reverse.dropWhile fun r => !(isBarrier r.opc.toNat && r.refused.isNone)).reverse

/-- An access of r may be performed as far as barriers and atomics go (Table 3.1). (Log 89: DEDUCED.) -/
def gateOpen (e : List FabReq) (r : FabReq) : Bool :=
  (upToBarrier e).all FabReq.performed && (e.filter fun q => isAtomicOpc q.opc.toNat).all FabReq.performed
    && (!isAtomicOpc r.opc.toNat || e.all FabReq.performed)

/-- What an earlier store that has not drained does to a line: nothing, part of it or all of it (with its data). A load of any line of a
held burst waits until the burst ends (R51). -/
inductive Cover where
  | none | part
  | all (d : Line)
  deriving DecidableEq, Repr

def FabReq.cover (r : FabReq) (addr : Nat) : Cover :=
  let first := r.lineAddr 0
  if r.refused.isSome || !(r.opc = 1 || r.opc = 2 || r.opc = 4 || r.opc = 5) || addr < first then .none
  else
    let k := (addr - first) / 64
    match r.lines[k]? with
    | none => .none
    | some l =>
      if r.burstHeld then .part
      else if l.performed then .none
      else if r.opc = 2 then .all 0
      else if r.opc = 1 then
        match r.beats[k]? with
        | none => .part
        | some b => if b.be = allBytes then .all b.data else if b.be = 0 then .none else .part
      else .part

/-- The youngest earlier store of the port that touches a line. -/
def youngest (e : List FabReq) (addr : Nat) : Cover :=
  e.foldl (fun acc r => match r.cover addr with
    | .none => acc
    | c => c) .none

/-! ### Results -/

/-- Set every line of a request done with these results, in order. -/
def setLines (n id : Nat) (l : List LineRes) (s : State) : State :=
  modFab n (fun f => { f with reqs := modReqs f.reqs id fun r =>
    { r with lines := l.map fun x => { ph := .done, performed := true, res := x } } }) s

/-- A load line that may pass: forwarded, served by the scratchpad, or on its way (R63 to R65, R55). -/
def loadLine (n : Nat) (e : List FabReq) (r : FabReq) (k : Nat) (s : State) : Option State :=
  if !gateOpen e r then none else
  let a := r.lineAddr k
  let ok (res : LineRes) (t : State) : State := fabLineDone n r.id k res t
  match youngest e a with
  | .part => none
  | .all d => if r.opc = 3 then none else some (ok { data := d } s)
  | .none =>
    match target s a with
    | .spad off =>
      if spadServes s off then (let x := spadRead s off; some (ok x.1 x.2)) else some (ok { bst := 2, sts := 4 } s)
    | .dram _ _ =>
      let s1 := fabLine n r.id k (fun l => { l with ph := .sent }) s
      some (lineAccess (.fab (Fin.ofNat 32 n) r.id k) a (if r.opc = 3 then .lr else .read) r.attr s1)
    | _ => some (ok { bst := 2, sts := 4 } s)

/-- The earlier requests of the port that name the same stall, or act through its route, are performed (R261). -/
def stallTurn (e : List FabReq) (a : Nat) : Bool :=
  (e.filter fun q => q.refused.isNone && (q.opc = 9 || q.opc = 0xA || q.opc = 0xB) && stallNum q.w = a).all FabReq.performed

/-- The tag beat and the words of a word read, as results (R265). -/
def wordLines (l : List SWord) : List LineRes :=
  let tags := (List.range l.length).foldl (fun acc i => acc ||| ((((l[i]?).getD idleWord).tag.setWidth 512) <<< (16 * i))) (0 : Line)
  { data := tags } :: l.map fun w => if w.tag.getLsbD 12 then { data := w.data, bst := 1, sts := 1 } else { data := w.data }

/-- A STALL_GET runs, or goes on: its results once its words are held (R265, R270). -/
def stallGet (n : Nat) (e : List FabReq) (r : FabReq) (s : State) : Option State :=
  let a := stallNum r.w
  let o : Owner := .fab (Fin.ofNat 32 n) r.id 0
  if r.performed || !gateOpen e r || !stallTurn e a then none
  else if getView r.w then
    let x := tallyFetch a (checkStall (route s a) s)
    some (setLines n r.id [{ data := x.1 }] x.2)
  else match (stallOf s a).reader with
    | none =>
      let s1 := checkStall a s
      some (startRead a o r.w.len.toNat s1)
    | some _ =>
      match readerDone s a o with
      | some l => some (setLines n r.id (wordLines l) (dropReader a s))
      | none => none

/-- A STALL_CMD runs in store order (R276, R277, R274). -/
def stallCmd (n : Nat) (e : List FabReq) (r : FabReq) (s : State) : Option State :=
  let a := stallNum r.w
  let fin (t : State) : State := setLines n r.id [{}] t
  if r.performed || !gateOpen e r || !stallTurn e a || !((e.filter fun q => isStoreOpc q.opc.toNat).all FabReq.performed) then none
  else
    let s1 := checkStall a s
    match cmdCode r.w with
    | 1 => some (fin (stallDrop a s1))
    | 2 => some (fin (stallMark a s1))
    | 3 => if rewindReady s1 a then some (fin (stallRewind a s1)) else none
    | 4 => some (fin (stallRelease a s1))
    | _ => some (fin (flushPart (route s1 a) s1))

/-! ### Answers (R36, R62, R69 to R73) -/

/-- A barrier's answer, once it may be given: behind a held burst, never before the burst ends (R73). (Log 86: DEDUCED.) -/
def barAnswer (n : Nat) (e : List FabReq) (r : FabReq) (s : State) : Option (BitVec 4 × State) :=
  if e.any FabReq.burstHeld then none
  else if r.opc = 6 then some (0, s)
  else if !e.all FabReq.performed then none
  else match (fabOf s n).postFail with
    | t :: l => some (t, modFab n (fun f => { f with postFail := l }) s)
    | [] => some (if r.opc = 8 && !durableOk s (foot3 s (fpFoot n)) then 3 else 0, s)

/-- A partial line of a WR or SC (R234). -/
def FabReq.partialLine (r : FabReq) (k : Nat) : Bool :=
  match r.beats[k]? with
  | some b => b.be != allBytes && b.be != 0
  | none => false

/-- Status of a request that is answered on the response channel, once it is known (R62, R37). -/
def rspReady (r : FabReq) : Option (BitVec 4) :=
  if r.cut then some 6
  else if r.opc = 0xB || r.opc = 2 then some (reqStatus false (r.lines.map fun l => l.res))
  else if r.beats.length < r.lines.length then none
  else if r.opc = 9 then some 0
  else
    let wait := (List.range r.lines.length).any fun k => (r.opc = 4 || r.partialLine k) && ((r.lines[k]?).getD {}).ph ≠ .done
    if wait then none else some (reqStatus false (r.lines.map fun l => l.res))

/-- Post the response of a request. -/
def respond (n : Nat) (r : FabReq) (sts : BitVec 4) (s : State) : State :=
  judge r.attr (modFab n (fun f => { f with
    rsp := f.rsp ++ [{ req := r.id, tag := r.w.tag, sts := sts }]
    reqs := modReqs f.reqs r.id fun q => { q with answered := true } }) s)

/-- Offer beat i of a request on RD. -/
def offer (n : Nat) (r : FabReq) (i : Nat) (takes : Bool) (s : State) : State :=
  let last := i + 1 = r.lines.length
  let x := ((r.lines[i]?).getD {}).res
  let sts := if last then reqStatus r.cut (r.lines.map fun l => l.res) else 0
  let b : RdBeat := { req := r.id, tag := r.w.tag, data := if x.bst = 2 then 0 else x.data, bst := x.bst, idx := BitVec.ofNat 6 i,
                      last := last, sts := sts }
  let s1 := modFab n (fun f => { f with
    rd := f.rd ++ [b]
    rdHeld := if takes then f.rdHeld + 1 else f.rdHeld
    reqs := modReqs f.reqs r.id fun q => { q with pushed := i + 1, answered := last } }) s
  if last then judge r.attr s1 else s1

/-- Offer the one beat of a refused request (R34). (Log 87: DEDUCED.) -/
def offerRefusal (n : Nat) (r : FabReq) (sts : BitVec 4) (s : State) : State :=
  modFab n (fun f => { f with
    rd := f.rd ++ [{ req := r.id, tag := r.w.tag, data := 0, bst := 2, idx := 0, last := true, sts := sts }]
    rdHeld := f.rdHeld + 1
    reqs := modReqs f.reqs r.id fun q => { q with answered := true } }) s

/-- Free read lines of a port (R49). -/
def freeLines (s : State) (n : Nat) : Nat := fld s FP_ALLOC_RDLINES n - (fabOf s n).rdHeld

/-- The next beat of a read-channel request that holds no read line yet is ready: an AMO result, a stall word, a refusal. -/
def FabReq.lateBeat (r : FabReq) : Bool :=
  !r.answered && readChan r.opc.toNat && (r.refused.isSome ||
    ((r.opc = 5 || r.opc = 0xA) && ((r.lines[r.pushed]?).map fun l => l.ph) = some .done))

/-- The request waits for a read line. -/
def FabReq.wantsLine (r : FabReq) : Bool :=
  r.lateBeat || (r.refused.isNone && (r.opc = 0 || r.opc = 3) && r.lines.any fun l => l.ph = .idle)

/-- The waiting request with the highest class, then the oldest. -/
def grantee (l : List FabReq) : Option FabReq :=
  (l.filter FabReq.wantsLine).foldl (fun (acc : Option FabReq) r =>
    match acc with
    | none => some r
    | some b => if runClass r.attr < runClass b.attr then some r else acc) none

/-- Grant one read line (R49). -/
def grant (n : Nat) (s : State) : Option State :=
  if freeLines s n = 0 then none else
  match grantee (fabOf s n).reqs with
  | none => none
  | some r =>
    match r.refused with
    | some t => some (offerRefusal n r t s)
    | none =>
      if r.lateBeat then some (offer n r r.pushed true s)
      else match r.lines.findIdx? fun l => l.ph = .idle with
        | none => none
        | some k => some (modFab n (fun f => { f with rdHeld := f.rdHeld + 1 }) (fabLine n r.id k (fun l => { l with ph := .held }) s))

/-- The final answer of a request has been transferred or dropped: its tally returns and its record's count falls (R39, R82). -/
def endReq (n id : Nat) (s : State) : State :=
  match fabFind s n id with
  | none => s
  | some r =>
    let s1 := modFab n (fun f => { f with
      reqs := if r.refused.isSome then f.reqs.filter fun q => q.id ≠ id else modReqs f.reqs id fun q => { q with ended := true }
      reqTly := if f.fenced then f.reqTly else f.reqTly + 1 }) s
    if r.refused.isSome then s1 else unbind r.attr s1

/-- The beat at the head of RD is taken. -/
def takeBeat (n : Nat) (s : State) : Option State :=
  match (fabOf s n).rd with
  | [] => none
  | b :: l =>
    let gone (r : FabReq) : FabReq := { r with lines := modLine r.lines b.idx.toNat fun x => { x with ph := .gone } }
    let s1 := modFab n (fun f => { f with rd := l, rdHeld := f.rdHeld - 1, reqs := modReqs f.reqs b.req gone }) s
    some (if b.last then endReq n b.req s1 else s1)

def takeRsp (n : Nat) (s : State) : Option State :=
  match (fabOf s n).rsp with
  | [] => none
  | b :: l => some (endReq n b.req (modFab n (fun f => { f with rsp := l }) s))

/-- Answers are dropped: the clock is gone under a configuration fence, or a FENCE timed out (R370). -/
def dropping (s : State) (n : Nat) : Bool :=
  let f := fabOf s n
  f.dropAns || (f.fenced && flg s FP_FENCE_STAT_CFG n && !flg s FP_STATUS_CLK_OK n)

/-- Drop one offered answer of a performed request. -/
def dropOne (n : Nat) (s : State) : Option State :=
  if !dropping s n then none else
  match takeRsp n s with
  | some t => some (addFld FP_FENCE_STAT_DISCARD n 1 t)
  | none =>
    match (fabOf s n).rd with
    | [] => none
    | b :: _ => (takeBeat n s).map fun t => if b.last then addFld FP_FENCE_STAT_DISCARD n 1 t else t

/-! ### The pump -/

/-- The first request, in program order, for which a step is possible. -/
def firstReq (g : List FabReq → FabReq → Option State) (l : List FabReq) : List FabReq → Option State
  | [] => none
  | r :: m =>
    match g (earlier l r.id) r with
    | some t => some t
    | none => firstReq g l m

/-- What one request can do now: run its stall operation, send a granted line, answer, offer its next beat, leave. -/
def reqStep (n : Nat) (s : State) (e : List FabReq) (r : FabReq) : Option State :=
  if r.refused.isSome then
    (if readChan r.opc.toNat || r.answered then none else some (respond n { r with attr := { r.attr with rcd := none } } (r.refused.getD 0) s))
  else if r.ended && r.performed && (!isBarrier r.opc.toNat || e.all FabReq.performed) then
    some (modFab n (fun f => { f with reqs := f.reqs.filter fun q => q.id ≠ r.id }) s)
  else
    let run := if r.opc = 0xA then stallGet n e r s else if r.opc = 0xB then stallCmd n e r s else none
    match run with
    | some t => some t
    | none =>
      let load := if r.opc = 0 || r.opc = 3 then
          (List.range r.lines.length).findSome? fun k => if ((r.lines[k]?).getD {}).ph = .held then loadLine n e r k s else none
        else none
      match load with
      | some t => some t
      | none =>
        if r.answered then none
        else if isBarrier r.opc.toNat then (barAnswer n e r s).map fun x => respond n r x.1 x.2
        else if !readChan r.opc.toNat then (rspReady r).map fun t => respond n r t s
        else if (r.opc = 0 || r.opc = 3) && ((r.lines[r.pushed]?).map fun l => l.ph) = some .done then some (offer n r r.pushed false s)
        else none

/-- One step of port n that needs nothing from outside; none when nothing is left to do. In E2 and E3 requests wait (R415). -/
def fabStep (n : Nat) (s : State) : Option State :=
  let f := fabOf s n
  if s.pw.st.toNat > 1 then none else
  match firstReq (reqStep n s) f.reqs f.reqs with
  | some t => some t
  | none =>
    match grant n s with
    | some t => some t
    | none => dropOne n s

def fabPump (n : Nat) : Nat → State → State
  | 0, s => s
  | k + 1, s =>
    match fabStep n s with
    | none => s
    | some t => fabPump n k t

/-- The packets that a fenced port left open as producer are closed once its pushed beats are in (Table 10.9). (Log 82: DEDUCED.) -/
def fenceClose (n : Nat) (s : State) : State :=
  let f := fabOf s n
  if !f.fenced || f.reqs.any fun r => r.opc = 9 && !r.performed then s
  else (s.stalls.filter fun e => e.2.prod = n && (e.2.pktOpen || e.2.part.isSome)).foldl (fun t e => closePacket (route t e.1) true t) s

/-- Bound on the steps of a port: each line, beat and answer takes a few. -/
def fabFuel (s : State) (n : Nat) : Nat :=
  let f := fabOf s n
  8 + f.rd.length + f.rsp.length + f.reqs.foldl (fun a r => a + 5 + 5 * r.lines.length) 0

/-- Everything that port n can do now. -/
def fabSettle (s : State) (n : Nat) : State := fenceClose n (fabStat n (fabPump n (fabFuel s n) s))

/-- Cut a burst (R52): arrived lines stay, the others are never written. (Log 88: DEDUCED.) -/
def cutBurst (n id : Nat) (s : State) : State :=
  modFab n (fun f => { f with reqs := modReqs f.reqs id fun r =>
    { r with cut := true, lines := r.lines.mapIdx fun k l => if k < r.beats.length then l else { l with ph := .done, performed := true } } }) s

/-- A cut STALL_PUT closes its packet once its arrived beats are in (R264). -/
def cutClose (n id : Nat) (s : State) : State :=
  match fabFind s n id with
  | none => s
  | some r => if r.opc = 9 && r.cut && r.performed then closePacket (route s (stallNum r.w)) false s else s

/-- Grant tallies afresh (R39). -/
def grantTallies (n : Nat) (s : State) : State :=
  modFab n (fun f => { f with reqTly := fld s FP_CTL_REQ_TLY n + 1, wdTly := fld s FP_CTL_WD_TLY n, granted := true }) s

/-- Pulse TLY_CLR: the master's counts are zero, and no tallies are granted (R42, R369). -/
def clearTallies (n : Nat) (s : State) : State :=
  modFab n (fun f => { f with reqTly := 0, wdTly := 0, granted := false, tlyClr := f.tlyClr + 1 }) s

end Sys2Proof.Machine
end

