-- ==== Sys2Proof/Machine/LantOps.lean ====
section
/-!
DEFINITION. The Lantern sequencer: windows, fetch, issue, traps, accesses and waits (chapter 12).
-/

namespace Sys2Proof.Machine

/-! ### Windows and registers (R323, R331) -/

def ctxImpl (s : State) (c : Nat) : Bool := c < ctxCount s.part.variant

def prgBase (s : State) (c : Nat) : Nat := if c = 0 then 0 else (ctxOf s c).prgBase.toNat * 4096
def prgSize (s : State) (c : Nat) : Nat := if c = 0 then 0x20000 else (ctxOf s c).prgSize.toNat * 4096
def datBase (s : State) (c : Nat) : Nat := if c = 0 then 0 else (ctxOf s c).datBase.toNat * 1024
def datSize (s : State) (c : Nat) : Nat := if c = 0 then 0x10000 else (ctxOf s c).datSize.toNat * 1024

/-- A general register; g0 reads zero. -/
def gpr (x : Ctx) (r : BitVec 5) : W64 := if r = 0 then 0 else mgetD x.g r.toNat 0
/-- Write a general register; a write to g0 is discarded. -/
def setGpr (r : BitVec 5) (v : W64) (x : Ctx) : Ctx := if r = 0 then x else { x with g := mput x.g r.toNat v }

/-- n bytes of a byte table from offset a, least significant byte first. -/
def bytesAt (m : SMap Byte) (a n : Nat) : Nat := (List.range n).foldl (fun v i => v + (mgetD m (a + i) 0).toNat * 2 ^ (8 * i)) 0

/-- Store n bytes of v from offset a. -/
def putBytes (m : SMap Byte) (a n v : Nat) : SMap Byte :=
  (List.range n).foldl (fun t i => putByte t (a + i) (BitVec.ofNat 8 (bits v (8 * i) 8))) m

def modLant (g : Lantern → Lantern) (s : State) : State := { s with lant := g s.lant }

/-! ### Traps (R349, Table 12.17b) -/

def trapIllegal : Nat := 1
def trapRsvd : Nat := 2
def trapPriv : Nat := 3
def trapFetch : Nat := 4
def trapFparity : Nat := 5
def trapAddr : Nat := 6
def trapAlign : Nat := 7
def trapDparity : Nat := 8
def trapMemfail : Nat := 9
def trapPoison : Nat := 10
def trapDz : Nat := 11
def trapBreak : Nat := 12
def trapHandle : Nat := 13
def trapCtxrst : Nat := 14

/-- A trap halts the context and records it; it is the context's exception (Table 3.5). -/
def trapCtx (c code : Nat) (insn : Word) (mstat : BitVec 4) (s : State) : State :=
  let s1 := modCtx c (fun x => { x with
    st := .halted, wait := .none, stopReq := false, trapCode := BitVec.ofNat 8 code, trapValid := true, trapMstat := mstat
    tpc := x.pc, tinsn := insn }) s
  raise 32 (rsvLose (.lant (Fin.ofNat 4 c)) HOME_RSV_LOSS_EXC s1)

/-- The instruction has completed: PC moves on, and a STOP takes effect (R325). -/
def retire (c : Nat) (pc : W64) (s : State) : State :=
  modCtx c (fun x => { x with pc := pc, wait := .none, st := if x.stopReq then .stopped else .running, stopReq := false }) s

/-- The next instruction's address. -/
def nextPc (s : State) (c : Nat) : W64 := (ctxOf s c).pc + 4

/-- Write rd and complete. -/
def retireWith (c : Nat) (rd : BitVec 5) (v : W64) (s : State) : State :=
  retire c (nextPc s c) (modCtx c (setGpr rd v) s)

/-! ### Data RAM (R329, R340, R341) -/

/-- A data RAM line is busy: an LDLN fills it (R342). -/
def lineBusy (x : Ctx) (line : Nat) : Bool := x.acc.any fun a => a.kind = 5 && a.dat = line

/-- What a touch of n bytes at window offset a meets: a trap code, or not ready. -/
inductive Touch where
  | ok | wait
  | trap (code : Nat)
  deriving DecidableEq, Repr

def touch (s : State) (c a n : Nat) (load : Bool) : Touch :=
  let x := ctxOf s c
  let abs := datBase s c + a
  if datSize s c < a + n then .trap trapAddr
  else if a % n ≠ 0 then .trap trapAlign
  else if lineBusy x (abs / 64) then .wait
  else if load && (List.range n).any fun i => s.lant.dataBad.contains (abs + i) then .trap trapDparity
  else if x.failedLines.contains (abs / 64) then .trap trapMemfail
  else .ok

/-- Store n bytes in data RAM at an absolute offset; good parity follows. -/
def putData (abs n v : Nat) (s : State) : State :=
  modLant (fun l => { l with data := putBytes l.data abs n v, dataBad := l.dataBad.filter fun k => !(abs ≤ k && k < abs + n) }) s

/-! ### Accesses of a context (R330, R341) -/

/-- Ticket and class of a context's access. -/
def lantBind (c : Nat) (s : State) : ReqAttr × State :=
  let bound : Option Nat := match (ctxOf s c).handle with
    | none => none
    | some h =>
      let x := handleOf s (h.toNat % 4096)
      match x.items with
      | i :: _ => some (bits i.toNat 16 8)
      | [] => none
  match c with
  | 1 => bind (fld s SCH_SRC_TKT_LANT1) none none s
  | 2 => bind (fld s SCH_SRC_TKT_LANT2) none none s
  | 3 => bind (fld s SCH_SRC_TKT_LANT3) none none s
  | _ => match bound with
    | some t => bind t none none s
    | none => (unbound 7 s, s)

/-- Every earlier access that R58 and the context's barriers put before a new one is performed. -/
def accReady (x : Ctx) (kind addr : Nat) : Bool :=
  let isStore := kind = 4
  let atomic := kind = 1 || kind = 2 || kind = 3
  x.acc.all fun a => a.performed ||
    !(a.num < x.ordNum || (atomic && kind ≠ 1) || (isStore && a.kind = 4) || (a.kind = 4 && a.addr / 64 = addr / 64) || a.kind = 2 || a.kind = 3)

/-- Start an access: its number in the context's list, its line operation. Scratchpad lines are served at once (R45). -/
def startAcc (c kind addr dat : Nat) (op : LineOp) (s : State) : State :=
  let b := lantBind c s
  let i := newId b.2
  let a : LAcc := { num := i.1, kind := kind, addr := addr, dat := dat, attr := b.1 }
  let s1 := modCtx c (fun x => { x with acc := x.acc ++ [a] }) i.2
  let fin (res : LineRes) (t : State) : State := lantLineDone c i.1 res t
  let bad (sts : BitVec 4) : State := fin { bst := 2, sts := sts } s1
  let homeOp := match op with
    | .lr => true
    | .sc _ _ _ => true
    | .amo _ _ _ _ _ => true
    | _ => false
  if homeOp && !homeImpl s.part.variant then bad 9
  else match target s1 addr with
    | .dram _ _ => lineAccess (.lant (Fin.ofNat 4 c) i.1) (addr / 64 * 64) op b.1 s1
    | .absent => if homeOp then bad 4 else bad 9
    | .nowhere => bad 4
    | .spad off =>
      if homeOp || !spadServes s1 off then bad 4
      else match op with
        | .write d be po => fin {} (addFoot (ctxFoot c) 72 (spadWrite (off / 64 * 64) d be po s1))
        | _ => (let r := spadRead s1 (off / 64 * 64); fin r.1 r.2)

/-! ### Fetch and issue (R326 to R328, R332, R348) -/

/-- What the context's next fetch gives. -/
inductive Fetch where
  | word (w : Word)
  | trap (code : Nat)
  | miss (line : Nat)
  deriving DecidableEq, Repr

def cacheSet (s : State) (line : Nat) : List (Nat × Line) := mgetD s.lant.cache (line % 128) []

def fetch (s : State) (c : Nat) : Fetch :=
  let pc := (ctxOf s c).pc.toNat
  if pc % 4 ≠ 0 then .trap trapFetch
  else if pc < 2 ^ 63 then
    let a := prgBase s c + pc
    if prgSize s c < pc + 4 then .trap trapFetch
    else if (List.range 4).any fun i => s.lant.progBad.contains (a + i) then .trap trapFparity
    else .word (BitVec.ofNat 32 (bytesAt s.lant.prog a 4))
  else if pc % 2 ^ 63 ≥ 2 ^ 46 then .trap trapFetch
  else
    let a := pc % 2 ^ 46
    match (cacheSet s (a / 64)).find? fun e => e.1 = a / 64 with
    | some e => .word (e.2.extractLsb' (8 * (a % 64)) 32)
    | none => .miss (a / 64)

/-- Put a line in the cache as the most recently used of its set; a full set loses its oldest. -/
def cachePut (line : Nat) (d : Line) (s : State) : State :=
  let l := (cacheSet s line).filter fun e => e.1 ≠ line
  modLant (fun x => { x with cache := mput x.cache (line % 128) ((if l.length ≥ 4 then l.tail else l) ++ [(line, d)]) }) s

/-- An issued instruction: code ports and cache order follow its fetch (R348). -/
def issued (c : Nat) (w : Word) (s : State) : State :=
  let pc := (ctxOf s c).pc.toNat
  let s1 := modLant (fun l => { l with lastIssue := Fin.ofNat 4 c }) (modCtx c (fun x => { x with cur := w }) s)
  if pc < 2 ^ 63 then modCtx c (fun x => { x with codep := 0 }) s1
  else
    let a := pc % 2 ^ 46
    let s2 := match (cacheSet s1 (a / 64)).find? fun e => e.1 = a / 64 with
      | some e => cachePut (a / 64) e.2 s1
      | none => s1
    match target s2 a with
    | .dram p _ => modCtx c (fun x => { x with codep := x.codep ||| BitVec.ofNat 20 (2 ^ p) }) s2
    | _ => s2

/-- Lantern's clock runs. -/
def lantClock (s : State) : Bool := s.pw.st.toNat < 2 && !s.pw.inReset

/-- Context c issues the instruction of word w, if that is its next one: the checks of R332 in order, then `body`, which answers
none while the instruction cannot issue yet. (Log 11: DESIGN CHOICE.) (Log 39: DEDUCED.) -/
def lantIssue (c : Nat) (w : Word) (undef rsvd priv : Bool) (body : State → Option State) (s : State) : State :=
  if !ctxImpl s c || (ctxOf s c).st ≠ .running || !lantClock s then s else
  match fetch s c with
  | .trap code => trapCtx c code 0 0 s
  | .miss line =>
    let s1 := addFld LN_ICMISS_MISS 0 1 (modCtx c (fun x => { x with st := .waiting, wait := .fetch line }) s)
    startAcc c 6 (line * 64) 0 .read s1
  | .word v =>
    if v ≠ w then s else
    let s1 := issued c w s
    if undef then trapCtx c trapIllegal w 0 s1
    else if rsvd then trapCtx c trapRsvd w 0 s1
    else if priv then trapCtx c trapPriv w 0 s1
    else match body s1 with
      | none => s
      | some t => t

/-! ### Ends of waits (R325, R341, R343, R346, R349, R350) -/

def mstSet (m : BitVec 7) (sts : BitVec 4) (bit : Nat) : BitVec 7 :=
  (if m.extractLsb' 0 4 = 0 && sts ≠ 0 then m ||| sts.setWidth 7 else m) ||| BitVec.ofNat 7 (2 ^ bit)

/-- A blocking access has its result (R341). -/
def memDone (c : Nat) (a : LAcc) (res : LineRes) (rd : BitVec 5) (s : State) : State :=
  let s1 := modCtx c (fun x => { x with acc := x.acc.filter fun b => b.num ≠ a.num }) s
  let x := ctxOf s1 c
  let pz (t : State) : State := if res.sts = 1 then modCtx c (fun y => { y with mst := y.mst ||| 64 }) t else t
  if stsFails res.sts && !(a.kind = 2 && res.sts = 2) then trapCtx c trapMemfail x.cur res.sts s1
  else if res.sts = 1 && a.kind ≠ 2 && x.trapen.getLsbD 1 then trapCtx c trapPoison x.cur 0 s1
  else if a.kind = 2 then retireWith c rd (res.sts.setWidth 64) (pz s1)
  else
    let v : W64 := if a.kind = 3 then res.data.extractLsb' 0 64 else res.data.extractLsb' (8 * (a.addr % 64)) 64
    retireWith c rd v (pz s1)

/-- VISIBLE, DURABLE or HDONE meets a failure of a posted access (R343, R346). -/
def postedFailed (x : Ctx) : Bool := x.mst.getLsbD 4 || x.mst.getLsbD 5

/-- A barrier whose conditions hold. -/
def barDone (c : Nat) (kind : BitVec 2) (rd : BitVec 5) (s : State) : State :=
  let x := ctxOf s c
  if kind ≠ 0 && postedFailed x then trapCtx c trapMemfail x.cur (x.mst.extractLsb' 0 4) s
  else retireWith c rd (if kind = 2 && !durableOk s (foot3 s (ctxFoot c)) then 3 else 0) s

/-- Status byte that HDONE may give (R363). -/
def hdoneOk (c sts : Nat) : Bool :=
  if c = 0 then (sts < 0x0A && sts ≠ 2) || (0x20 ≤ sts && sts ≤ 0x2E && sts ≠ 0x22) || (0x40 ≤ sts && sts < 0x80)
  else sts = 0 || (0x40 ≤ sts && sts < 0x80)

/-- HDONE whose conditions hold: complete the handle (R346). -/
def hdoneDone (c : Nat) (a b : W64) (s : State) : State :=
  let x := ctxOf s c
  let h := bits a.toNat 0 16
  let sts := bits a.toNat 16 8
  if postedFailed x then trapCtx c trapMemfail x.cur (x.mst.extractLsb' 0 4) s
  else match liveSlot s h with
    | none => trapCtx c trapHandle x.cur 0 s
    | some k =>
      let s1 := if hdoneOk c sts then endHandle k sts 0 b.toNat s else endHandle k 0x2D sts 0 s
      let unb (y : Ctx) : Ctx := if y.handle = some (BitVec.ofNat 16 h) then { y with handle := none } else y
      retire c (nextPc s c) (modCtx c unb s1)

/-- Write one stall word to data RAM and complete an SGET (R344). -/
def sgetDone (c a : Nat) (rd : BitVec 5) (dat : Nat) (w : SWord) (s : State) : State :=
  let s1 := putData dat 64 w.data.toNat (dropReader a s)
  let sts := if w.tag.getLsbD 12 then 1 else 0
  retireWith c rd (BitVec.ofNat 64 (w.tag.toNat + sts * 65536)) s1

/-- The reset of a context, once nothing of it is outstanding (R350). -/
def ctxResetNow (c : Nat) (s : State) : State :=
  let x := ctxOf s c
  let s1 := match x.handle with
    | some h => (match liveSlot s h.toNat with
      | some k => endHandle k 0x29 trapCtxrst 0 s
      | none => s)
    | none => s
  let kept : Ctx := { pc := x.pc, priv := x.priv, prgBase := x.prgBase, prgSize := x.prgSize, datBase := x.datBase, datSize := x.datSize }
  rsvLose (.lant (Fin.ofNat 4 c)) HOME_RSV_LOSS_OTHER (setCtx c { kept with trapCode := BitVec.ofNat 8 trapCtxrst } s1)

/-- What context c can do without a command: end a wait, complete a handle after a trap, stop, or reset. -/
def lantStep (c : Nat) (s : State) : Option State :=
  let x := ctxOf s c
  let o : Owner := .lant (Fin.ofNat 4 c) 0
  if x.resetReq then
    match x.wait with
    | .stall a _ _ =>
      (match readerDone s a o with
      | some _ => some (modCtx c (fun y => { y with wait := .none }) (dropReader a s))
      | none => none)
    | _ => if x.acc.all fun a => a.res.isSome then some (ctxResetNow c s) else none
  else match x.st with
    | .halted =>
      (match x.handle with
      | none => none
      | some h =>
        if x.acc ≠ [] then none else
        let s1 := modCtx c (fun y => { y with handle := none }) s
        let s2 := if c = 0 then { s1 with host := { s1.host with frozen := true } } else s1
        (match liveSlot s2 h.toNat with
        | some k => some (endHandle k 0x29 x.trapCode.toNat 0 s2)
        | none => some s2))
    | .running => if x.stopReq then some (modCtx c (fun y => { y with st := .stopped, stopReq := false }) s) else none
    | .stopped => none
    | .waiting =>
      (match x.wait with
      | .mem n rd =>
        (match x.acc.find? fun a => a.num = n with
        | some a => a.res.map fun r => memDone c a r rd s
        | none => none)
      | .bar kind rd => if x.acc = [] then some (barDone c kind rd s) else none
      | .hdone a b => if x.acc = [] then some (hdoneDone c a b s) else none
      | .stall a rd dat =>
        (match readerDone s a o with
        | some (w :: _) => some (sgetDone c a rd dat w s)
        | _ => none)
      | _ => none)

def lantPump (c : Nat) : Nat → State → State
  | 0, s => s
  | k + 1, s =>
    match lantStep c s with
    | none => s
    | some t => lantPump c k t

/-! ### Launch streams (R133, R282) -/

/-- The items of one line of a stream. -/
def streamItems (r : LineRes) : List SItem :=
  (List.range 8).map fun i =>
    { data := if r.bst = 2 then 0 else r.data.extractLsb' (64 * i) 64, eop := i = 7, lbytes := 7, errp := r.bst = 2, bad := r.bst = 1 }

/-- Push the next line of a stream of port p, if it has come and its stall takes it. -/
def streamPush (p : Nat) (x : Stream) (s : State) : State :=
  match mget x.done x.pushed with
  | none => s
  | some r =>
    let a := route s (bits x.act.w3.toNat 16 15)
    let s1 := checkStall a s
    let y := stallOf s1 a
    if y.st = .on && (y.items ≠ [] || y.o + 8 + y.gout > y.slots - 8) then s1 else
    let fin (z : Stream) : Stream :=
      if z.id = x.id then { z with pushed := z.pushed + 1, done := mdel z.done x.pushed, attrs := mdel z.attrs x.pushed } else z
    let keep (z : Stream) : Bool := z.pushed < bits z.act.w2.toNat 0 32
    let s2 := match mget x.attrs x.pushed with
      | some b => answered b s1
      | none => s1
    let s3 := modPort p (fun q => { q with streams := (q.streams.map fin).filter keep }) s2
    pumpItems a (modStall a (fun z => { z with items := z.items ++ streamItems r }) s3)

/-- Every stream pushes what it can. -/
def streamPump (s : State) (p : Nat) : State := (portOf s p).streams.foldl (fun t x => streamPush p x t) s

/-! ### Settling -/

/-- Everything that the planner, the fabric ports, contexts and handles can do now without a further command. A change of the domain comes
before a DURABLE of the same cycle (R403). (Log 10: DESIGN CHOICE.) -/
def settle (s : State) : State :=
  let s0 := replan s
  let s1 := (s0.fab.map fun e => e.1).foldl fabSettle s0
  let s2 := [0, 1, 2, 3].foldl (fun t c => lantPump c 4 t) ((s1.ports.map fun e => e.1).foldl streamPump s1)
  freeHandles (fun a => (stallOf s2 a).h) s2

/-- A command of port p has its effect only on an implemented port (R2, R5). -/
def onPort (p : Fin 20) (s : State) (f : State → State) : Out :=
  .next (if portImpl s.part.variant p.val then settle (f s) else s)

/-- An arrival at the pins or the link of port p; an absent port has none (Table 0.2). (Log 29: DEDUCED.) -/
def onPin (p : Fin 20) (s : State) (f : State → State) : Out :=
  if portImpl s.part.variant p.val then .next (settle (f s)) else .fault .notConnected

/-- A command of fabric port n; an absent port has none (R8). -/
def onFab (n : Fin 32) (s : State) (f : State → State) : Out :=
  if fabImpl s.part.variant n.val then .next (settle (f s)) else .fault .notConnected

/-- A register command or an internal event of fabric port n. -/
def onFabReg (n : Fin 32) (s : State) (f : State → State) : Out :=
  .next (if fabImpl s.part.variant n.val then settle (f s) else s)

end Sys2Proof.Machine
end

