-- ==== Sys2Proof/Machine/Fabric.lean ====
section
/-!
DEFINITION. Commands of the fabric ports: request words, write beats, answers taken, the clock, bursts, the port write buffer,
the port's boundary and its fence (chapters 2, 3 and 13).
-/

namespace Sys2Proof.Machine

/-! ### Request words (R30, R260) -/

/-- A word read or a tally fetch is one opcode; VIEW tells them apart (Table 10.4). -/
def withView (v : Bool) (w : ReqWord) : ReqWord :=
  { w with addr := BitVec.ofNat 46 (withBits w.addr.toNat 15 1 (if v then 1 else 0)) }

/-- The stall command that a word names (Table 10.5). -/
def withCmd (k : Nat) (w : ReqWord) : ReqWord := { w with addr := BitVec.ofNat 46 (withBits w.addr.toNat 15 4 k) }

/-- RD (R30). -/
def execRd (fp : Fin 32) (w : ReqWord) (s : State) : Out := onFab fp s (fabRequest fp.val 0 w)
/-- WR (R30). -/
def execWr (fp : Fin 32) (w : ReqWord) (s : State) : Out := onFab fp s (fabRequest fp.val 1 w)
/-- WRZ (R30). -/
def execWrz (fp : Fin 32) (w : ReqWord) (s : State) : Out := onFab fp s (fabRequest fp.val 2 w)
/-- LR (R30, R76). -/
def execLr (fp : Fin 32) (w : ReqWord) (s : State) : Out := onFab fp s (fabRequest fp.val 3 w)
/-- SC (R30, R77). -/
def execSc (fp : Fin 32) (w : ReqWord) (s : State) : Out := onFab fp s (fabRequest fp.val 4 w)
/-- AMO (R30, R31). -/
def execAmo (fp : Fin 32) (w : ReqWord) (s : State) : Out := onFab fp s (fabRequest fp.val 5 w)
/-- ORDER (R69). -/
def execOrder (fp : Fin 32) (w : ReqWord) (s : State) : Out := onFab fp s (fabRequest fp.val 6 w)
/-- VISIBLE (R70). -/
def execVisible (fp : Fin 32) (w : ReqWord) (s : State) : Out := onFab fp s (fabRequest fp.val 7 w)
/-- DURABLE (R71). -/
def execDurable (fp : Fin 32) (w : ReqWord) (s : State) : Out := onFab fp s (fabRequest fp.val 8 w)
/-- STALL_PUT (R262). -/
def execStallPut (fp : Fin 32) (w : ReqWord) (s : State) : Out := onFab fp s (fabRequest fp.val 9 w)
/-- STALL_GET with VIEW = 0 (R265). -/
def execStallWordRead (fp : Fin 32) (w : ReqWord) (s : State) : Out := onFab fp s (fabRequest fp.val 0xA (withView false w))
/-- STALL_GET with VIEW = 1 (R270). -/
def execTallyFetch (fp : Fin 32) (w : ReqWord) (s : State) : Out := onFab fp s (fabRequest fp.val 0xA (withView true w))
/-- STALL_CMD DROP (R276). -/
def execDrop (fp : Fin 32) (w : ReqWord) (s : State) : Out := onFab fp s (fabRequest fp.val 0xB (withCmd 1 w))
/-- STALL_CMD MARK (R277). -/
def execMark (fp : Fin 32) (w : ReqWord) (s : State) : Out := onFab fp s (fabRequest fp.val 0xB (withCmd 2 w))
/-- STALL_CMD REWIND (R277). -/
def execRewind (fp : Fin 32) (w : ReqWord) (s : State) : Out := onFab fp s (fabRequest fp.val 0xB (withCmd 3 w))
/-- STALL_CMD RELEASE (R277). -/
def execRelease (fp : Fin 32) (w : ReqWord) (s : State) : Out := onFab fp s (fabRequest fp.val 0xB (withCmd 4 w))
/-- STALL_CMD FLUSH (R274). -/
def execFlush (fp : Fin 32) (w : ReqWord) (s : State) : Out := onFab fp s (fabRequest fp.val 0xB (withCmd 5 w))

/-- A reserved opcode, or STALL_CMD with a reserved command; another opcode is a row of its own and changes nothing here. -/
def execReqReservedOpcode (fp : Fin 32) (opc : BitVec 5) (w : ReqWord) (s : State) : Out :=
  onFab fp s fun t => if opc.toNat ≥ 0xC || (opc = 0xB && !(1 ≤ cmdCode w && cmdCode w ≤ 5)) then fabRequest fp.val opc.toNat w t else t

/-! ### Write beats (R39, R40, R44, R368) -/

/-- One beat leaves the list of beats that the master owes. -/
def payBeat (n : Nat) (s : State) : State :=
  modFab n (fun f => { f with owed := match f.owed with
    | [] => []
    | o :: l => if o.left ≤ 1 then l else { o with left := o.left - 1 } :: l }) s

/-- A write beat arrives. -/
def writeBeat (n : Nat) (data : Line) (be : BitVec 64) (last : Bool) (s : State) : State :=
  let f := fabOf s n
  if f.fenced then modFab n (fun g => { g with wdTly := g.wdTly - 1 }) s
  else if f.wdTly = 0 then proto n FP_PROTO_WD_OVR none s
  else match f.owed with
    | [] => proto n FP_PROTO_WD_ORPHAN none s
    | o :: _ =>
      let s1 := if last = decide (o.left ≤ 1) then s else addFld FP_PROTO_CNT_COUNT n 1 (setFld FP_PROTO_LAST_ERR n 1 s)
      match o.req with
      | none => payBeat n s1
      | some id =>
        let add (r : FabReq) : FabReq := { r with beats := r.beats ++ [{ data := data, be := be }], lastBeat := s.clk }
        payBeat n (modFab n (fun g => { g with wdTly := g.wdTly - 1, reqs := modReqs g.reqs id add }) (active s1))

def execWriteDataBeat (fp : Fin 32) (data : Line) (be : BitVec 64) (last : Bool) (s : State) : Out :=
  onFab fp s fun t => if t.pw.inReset || t.pw.st.toNat > 3 then t else writeBeat fp.val data be last t

/-! ### Answers, sideband and clock (R20, R35, R43, R77) -/

/-- The master takes the read beat offered. -/
def execReadBeatAccept (fp : Fin 32) (s : State) : Out :=
  onFab fp s fun t => if flg t FP_STATUS_CLK_OK fp.val then (takeBeat fp.val t).getD t else t

/-- The master takes the response offered. -/
def execResponseAccept (fp : Fin 32) (s : State) : Out :=
  onFab fp s fun t => if flg t FP_STATUS_CLK_OK fp.val then (takeRsp fp.val t).getD t else t

/-- URG has held a level for two cycles (R43). -/
def execUrgChange (fp : Fin 32) (level : BitVec 2) (s : State) : Out :=
  onFab fp s fun t => modFab fp.val (fun f => { f with urg := level }) t

/-- EXC ends the master's reservation (Table 3.5). -/
def execExc (fp : Fin 32) (s : State) : Out := onFab fp s (rsvLose (.fab fp) HOME_RSV_LOSS_EXC)

/-- A measurement of CK_FAB in kHz, 0 for an absent clock (R20). -/
def clkMeasure (n khz : Nat) (s : State) : State :=
  let good : Bool := 245000 ≤ khz && khz ≤ 1020000
  let up := flg s FP_STATUS_CLK_OK n
  if up then (if good then s else raise 0 (setFld FP_STATUS_CLK_OK n 0 (modFab n (fun f => { f with clkOnce := false }) s)) (some n))
  else if !good then modFab n (fun f => { f with clkOnce := false }) s
  else if (fabOf s n).clkOnce then setFld FP_STATUS_CLK_OK n 1 (modFab n (fun f => { f with clkOnce := false }) s)
  else modFab n (fun f => { f with clkOnce := true }) s

def execFabClkMeasure (fp : Fin 32) (khz : Nat) (s : State) : Out := onFabReg fp s (clkMeasure fp.val khz)

/-! ### A burst that stops (R52) -/

/-- The oldest burst for which the timer has expired. -/
def burstDue (s : State) (n : Nat) : Option FabReq :=
  let t := fld s FP_CTL_BST_TMO n
  if t = 0 then none else
  (fabOf s n).reqs.find? fun r => r.burstHeld && r.lastBeat + 2 ^ (t - 1) * edgesUs ≤ s.clk

def execBurstTimeout (fp : Fin 32) (s : State) : Out :=
  onFabReg fp s fun t => match burstDue t fp.val with
    | none => t
    | some r =>
      let drop (o : BeatOwed) : BeatOwed := if o.req = some r.id then { o with req := none } else o
      cutClose fp.val r.id (setFld FP_PROTO_BST_TMO fp.val 1
        (modFab fp.val (fun f => { f with owed := f.owed.map drop }) (cutBurst fp.val r.id t)))

/-! ### The boundary (R42, R53) -/

/-- Sum of the read-line allocations with that of port n replaced by what is staged (R49). -/
def allocSum (s : State) (n : Nat) : Nat :=
  (List.range 32).foldl (fun a k => if fabImpl s.part.variant k then a + (if k = n then staged s FP_ALLOC_RDLINES k else fld s FP_ALLOC_RDLINES k) else a) 0

/-- The port's boundary is reached. -/
def fabBoundary (n : Nat) (s : State) : State :=
  let f := fabOf s n
  if !applyOpen s || f.reqs.any FabReq.live then s else
  let aOff := FP_ALLOC_RDLINES.off n
  let s1 := if (mget s.shadow aOff).isNone then s
    else if allocSum s n ≤ 4096 then applyShadow aOff s
    else reject aOff 4 (dropShadow aOff s)
  let s2 := crcRestart s (applyShadow (FP_CTL_EN.off n) s1)
  let was := flg s FP_CTL_EN n
  let now := flg s2 FP_CTL_EN n
  if now && !was then
    (let s3 := setFld FP_STATUS_ENABLED n 1 s2
     if f.fenced then s3 else grantTallies n s3)
  else if was && !now then setFld FP_STATUS_ENABLED n 0 (clearTallies n s2)
  else s2

def execFabricPortBoundary (fp : Fin 32) (s : State) : Out := onFabReg fp s (fabBoundary fp.val)

/-! ### The port write buffer drains (R62, R245, R261) -/

/-- The next store line of the port that may leave: its request and index. -/
def drainHead (s : State) (n : Nat) : Option (FabReq × Nat) :=
  let l := (fabOf s n).reqs
  match l.find? fun r => r.refused.isNone && isStoreOpc r.opc.toNat && !r.performed with
  | none => none
  | some r =>
    match r.lines.findIdx? fun x => !x.performed with
    | none => none
    | some k =>
      let has := r.opc = 2 || (r.beats[k]?).isSome
      if r.opc = 0xB || !has || ((r.lines[k]?).getD {}).ph ≠ .idle || !gateOpen (earlier l r.id) r then none else some (r, k)

/-- Items of beat k of a STALL_PUT. -/
def putItems (r : FabReq) (k : Nat) (d : Line) (bad : Bool) : List SItem :=
  let last := k + 1 = r.lines.length
  let n := if last then putNlast r.w else 8
  (List.range n).map fun i =>
    let fin := last && i + 1 = n
    { data := d.extractLsb' (64 * i) 64, eop := fin && putEop r.w, lbytes := if fin then BitVec.ofNat 3 (putLbytes r.w) else 7,
      errp := fin && putErrp r.w, bad := bad }

/-- Footprint bit of the ring word at a position (R72). -/
def ringFootBit (o : Owner) (x : Stall) (pos : Nat) (s : State) : State :=
  match target s (x.wordAddr pos) with
  | .dram p la => setFoot o (slotOf s p la) s
  | _ => s

/-- Push what is left of beat k of a STALL_PUT. -/
def drainPut (n : Nat) (r : FabReq) (k : Nat) (b : Beat) (bad : Bool) (s : State) : State :=
  let a := route s (stallNum r.w)
  let s0 := checkStall a s
  let x := stallOf s0 a
  let items := (putItems r k b.data bad).drop r.pushed
  let res := pushItems a items s0
  let y := stallOf res.2 a
  let o : Owner := .fab (Fin.ofNat 32 n) r.id k
  let s1 := if res.1.length = items.length then res.2 else ringFootBit o x x.wpos (if y.wpos = x.wpos then res.2 else ringFootBit o y y.wpos res.2)
  if res.1 = [] then cutClose n r.id (fabLineDone n r.id k {} (modFab n (fun f => { f with reqs := modReqs f.reqs r.id fun q => { q with pushed := 0 } }) s1))
  else modFab n (fun f => { f with reqs := modReqs f.reqs r.id fun q => { q with pushed := r.pushed + (items.length - res.1.length) } }) s1

/-- One line leaves the PWB; `bad`: its entry has a parity error. -/
def drainLine (n : Nat) (r : FabReq) (k : Nat) (bad : Bool) (s : State) : State :=
  let b := (r.beats[k]?).getD { data := 0, be := allBytes }
  let bad1 := bad && r.opc ≠ 2
  let s0 := if bad1 then (let x := drawFree s; sramError 8 (0x40 + n) (x.1 % 512) x.2) else s
  let o : Owner := .fab (Fin.ofNat 32 n) r.id k
  let a := r.lineAddr k
  let go (op : LineOp) : State := lineAccess o a op r.attr (fabLine n r.id k (fun l => { l with ph := .sent }) s0)
  if r.opc = 9 then drainPut n r k b bad1 s0
  else if r.opc = 5 then go (.amo r.w.aop r.w.size (BitVec.ofNat 6 (r.w.addr.toNat % 64)) b.data bad1)
  else if r.opc = 4 then go (.sc b.data b.be bad1)
  else if r.opc = 1 && b.be = 0 then fabLineDone n r.id k {} s0
  else match target s0 a with
    | .dram _ _ => go (.write b.data b.be bad1)
    | .spad off =>
      if spadServes s0 off then fabLineDone n r.id k {} (addFoot (fpFoot n) 72 (spadWrite off b.data b.be bad1 s0))
      else fabLineDone n r.id k { bst := 2, sts := 4 } s0
    | _ => fabLineDone n r.id k { bst := 2, sts := 4 } s0

def execPwbDrain (fp : Fin 32) (parityError : Bool) (s : State) : Out :=
  onFabReg fp s fun t => if t.pw.st.toNat > 1 || t.pw.inReset then t else
    match drainHead t fp.val with
    | none => t
    | some (r, k) => drainLine fp.val r k parityError t

/-! ### Writes of the port's registers -/

/-- A write of FP_PROTO (R53): W1C bits; all six set clear the count. -/
def writeProto (n : Nat) (v : Word) (s : State) : State :=
  let off := FP_PROTO_TLY_OVR.off n
  let clr := v.toNat % 64
  let old := regAt s off 0
  let s1 := setWord off (old - (old &&& clr)) s
  if clr = 63 then setFld FP_PROTO_CNT_COUNT n 0 s1 else s1

def execFpProtoClear (fp : Fin 32) (v : BitVec 32) (s : State) : Out := onFabReg fp s (fun t => if t.pw.inReset then t else writeProto fp.val v t)

/-- FP_DUR_CTL (R72). -/
def writeDurCtl (n : Nat) (v : Word) (s : State) : State := if v.getLsbD 0 then footClear (fpFoot n) s else s

def execFpDurClear (fp : Fin 32) (v : BitVec 32) (s : State) : Out := onFabReg fp s (fun t => if t.pw.inReset then t else writeDurCtl fp.val v t)

/-! ### Fences (R367 to R371) -/

/-- The fence takes hold: bursts end, the reservation is lost, open packets close (Table 13.6). -/
def takeFence (n : Nat) (s : State) : State :=
  if (fabOf s n).fenced then s else
  let ids := (fabOf s n).owed.filterMap fun o => o.req
  let s1 := modFab n (fun f => { f with fenced := true, owed := [], relHost := false, relCfg := false, dropAns := false }) s
  let s2 := setFld FP_STATUS_FENCED n 1 (setFld FP_FENCE_STAT_DRAINED n 0 (setFld FP_FENCE_STAT_DISCARD n 0 s1))
  let s3 := ids.foldl (fun t id => cutClose n id (cutBurst n id t)) s2
  rsvLose (.fab (Fin.ofNat 32 n)) HOME_RSV_LOSS_OTHER s3

/-- FENCED falls once both sources are clear and the port is drained; tallies are granted afresh (R371). -/
def releaseFence (n : Nat) (s : State) : State :=
  let f := fabOf s n
  if !f.fenced || !flg s FP_FENCE_STAT_DRAINED n then s else
  let s1 := if f.relHost then setFld FP_FENCE_STAT_HOST n 0 s else s
  let s2 := if f.relCfg then setFld FP_FENCE_STAT_CFG n 0 s1 else s1
  let s3 := modFab n (fun g => { g with relHost := false, relCfg := false }) s2
  if flg s3 FP_FENCE_STAT_HOST n || s.en.pf ≠ .none || s.pw.st.toNat > 3 then s3
  else if flg s3 FP_FENCE_STAT_CFG n then
    modFab n (fun g => { g with unfenceWait := [] }) (f.unfenceWait.foldl (fun t k => endHandle k 0 0 1 t) s3)
  else
    let s4 := f.unfenceWait.foldl (fun t k => endHandle k 0 0 0 t) s3
    let s5 := modFab n (fun g => { g with fenced := false, dropAns := false, unfenceWait := [] })
      (setFld FP_STATUS_FENCED n 0 (setFld FP_FENCE_STAT_DRAINED n 0 s4))
    if flg s5 FP_CTL_EN n then grantTallies n s5 else s5

/-- The port is drained: TLY_CLR pulses and the FENCEs that wait complete (R369, R370). -/
def drainedNow (n : Nat) (s : State) : State :=
  let f := fabOf s n
  if !f.fenced || flg s FP_FENCE_STAT_DRAINED n || f.reqs.any FabReq.live then s else
  let s1 := clearTallies n (setFld FP_FENCE_STAT_DRAINED n 1 s)
  let cnt := fld s1 FP_FENCE_STAT_DISCARD n
  let s2 := f.fenceWait.foldl (fun t e => endHandle e.1 (if f.dropAns && e.2 ≠ 0 && e.2 ≤ s.clk then 8 else 0) 0 cnt t) s1
  releaseFence n (modFab n (fun g => { g with fenceWait := [] }) s2)

/-- The configuration controller asks for a fence. -/
def execCfgFenceRequest (fp : Fin 32) (s : State) : Out :=
  onFab fp s fun t => if t.pw.inReset then t else
    modFab fp.val (fun f => { f with relCfg := false }) (setFld FP_FENCE_STAT_CFG fp.val 1 (takeFence fp.val t))

/-- The configuration controller ends its request. -/
def execCfgFenceRelease (fp : Fin 32) (s : State) : Out :=
  onFab fp s fun t => if !flg t FP_FENCE_STAT_CFG fp.val then t else releaseFence fp.val (modFab fp.val (fun f => { f with relCfg := true }) t)

def execFenceDrained (fp : Fin 32) (s : State) : Out := onFabReg fp s (drainedNow fp.val)

/-- The TMO of a waiting FENCE has expired (R370). -/
def execFenceTimeout (fp : Fin 32) (s : State) : Out :=
  onFabReg fp s fun t => if (fabOf t fp.val).fenceWait.any fun e => e.2 ≠ 0 && e.2 ≤ t.clk
    then modFab fp.val (fun f => { f with dropAns := true }) t else t

end Sys2Proof.Machine
end

