-- ==== Sys2Proof/Machine/Home.lean ====
section
/-!
DEFINITION. Commands of the ring stop and the home (chapter 11).
-/

namespace Sys2Proof.Machine

/-! ### Ring requests (R288, R294, R295) -/

/-- Header fields that no message of class REQ uses, and the reserved ones, are zero; ARG, OFF, BE and POISON where stated. -/
def hdrClean (h : RingHdr) (arg off be pois : Bool) : Bool :=
  h.rqs == 0 && h.rqt == 0 && h.state == 0 && h.sts == 0 && !h.dirty && !h.fwd && !h.note && !h.nodata && h.hold == 0
    && h.rsvdLo == 0 && h.rsvdHi == 0 && (arg || h.arg == 0) && (off || h.off == 0) && (be || h.be == 0) && (pois || !h.poison)

def stopOf (h : RingHdr) : Nat := h.src.toNat
def lineOfHdr (h : RingHdr) : Nat := h.laddr.toNat

def isAgent (s : State) (stop : Nat) : Bool := stop < 24 && bits (fld s HOME_AGT_EN_EN) stop 1 = 1

/-- The ring stop accepts REQ messages: not in E3 or E4, in reset, or during a soft reset (R416, R427, R455). -/
def ringOpen (s : State) : Bool :=
  let shut : Bool := match s.pw.cur with
    | some t => t.tgt = 3 && 0 < t.steps
    | none => false
  !shut && s.pw.st.toNat < 3 && !s.pw.inReset && s.pw.soft.isNone && s.en.pf = .none

/-- A stop marked FAILED (R310). -/
def failedAgent (s : State) (stop : Nat) : Bool := bits (fld s HOME_AGT_FAIL_FAILED) stop 1 = 1

/-- What the home makes of a REQ before it serves it; the status that refuses it, if any. -/
def ringRefuse (s : State) (h : RingHdr) (coherent agentOnly clean : Bool) : Option (BitVec 4) :=
  if coherent && !homeImpl s.part.variant then some 9
  else if !clean then some 4
  else if agentOnly && !isAgent s (stopOf h) then some 4
  else if failedAgent s (stopOf h) then some 8
  else match target s (lineOfHdr h * 64) with
    | .nowhere => some 4
    | .absent => if coherent then some 4 else some 9
    | .spad _ => if coherent then some 4 else none
    | .dram _ _ => none

/-- A ledger set whose lines are unknown is cleared (R299 step 3). -/
def clearSet (k : Nat) (s : State) : State :=
  raise 30 (logHome k 31 1 31 false (addFld HOME_CNT2_LED_UE 0 1 (modHome (fun m => { m with snpset := none, ledger := mdel m.ledger k }) s)))

/-- A ledger word with an error at the lookup: a single-bit error is corrected, a double-bit error takes the set (R299). -/
def ledgerEcc (line : Nat) (ecc : EccEvent) (s : State) : State :=
  match ecc with
  | .none => s
  | .ce => addFld HOME_CNT2_LED_CE 0 1 s
  | .ue =>
    let k := ledgerSet s.part.variant line
    let live := liveAgents s
    if live = [] then clearSet k s
    else modHome (fun m => { m with snpset := some (k, live), snpsetAt := s.clk })
      (ringSend { cls := 1, op := 4, dst := 31, txn := 0, line := k, rqs := ownStop s } (addFld HOME_CNT0_SNOOPS 0 1 s))

/-- A coherent or non-coherent REQ arrives. -/
def ringReq (h : RingHdr) (kind : HKind) (d : Line) (ecc : EccEvent) (coherent agentOnly clean : Bool) (s : State) : State :=
  if h.dst.toNat ≠ ownStop s || !ringOpen s then s else
  let s0 := active s
  match ringRefuse s0 h coherent agentOnly clean with
  | some sts => ringComp (stopOf h) h.txn (lineOfHdr h) sts s0
  | none =>
    let b := bind (fld s0 SCH_SRC_TKT_RING) none none s0
    let r : HomeReq := { id := 0, kind := kind, line := lineOfHdr h, stop := stopOf h, txn := h.txn, data := d,
                         be := if kind = .wb then allBytes else h.be, poison := h.poison, aop := h.arg.extractLsb' 0 4,
                         size := h.arg.extractLsb' 4 3, off := h.off, attr := b.1, after := stopAfter b.2 (stopOf h) kind }
    homeSubmit r (ledgerEcc (lineOfHdr h) ecc b.2)

/-- RDS (R301). -/
def execRds (h : RingHdr) (ecc : EccEvent) (s : State) : Out :=
  .next (settle (ringReq h .rds 0 ecc true true (hdrClean h false false false false) s))

/-- RDU (R301). -/
def execRdu (h : RingHdr) (ecc : EccEvent) (s : State) : Out :=
  .next (settle (ringReq h .rdu 0 ecc true true (hdrClean h false false false false) s))

/-- UPG (R301, R306). -/
def execUpg (h : RingHdr) (ecc : EccEvent) (s : State) : Out :=
  .next (settle (ringReq h .upg 0 ecc true true (hdrClean h false false false false) s))

/-- WB (R301, R306). -/
def execWb (h : RingHdr) (d : Line) (s : State) : Out :=
  .next (settle (ringReq h .wb d .none true true (hdrClean h false false false true) s))

/-- RDO (R301). -/
def execRdo (h : RingHdr) (ecc : EccEvent) (s : State) : Out :=
  .next (settle (ringReq h .rdo 0 ecc true false (hdrClean h false false false false) s))

/-- WRU (R301). -/
def execWru (h : RingHdr) (d : Line) (ecc : EccEvent) (s : State) : Out :=
  .next (settle (ringReq h .wru d ecc true false (hdrClean h false false true false) s))

/-- ATOM (R314): ARG names an atomic of Table 2.4, OFF is aligned to SIZE. -/
def execAtom (h : RingHdr) (d : Line) (ecc : EccEvent) (s : State) : Out :=
  let aop := bits h.arg.toNat 0 4
  let size := bits h.arg.toNat 4 3
  let ok := hdrClean h true true false false && atomicOk aop size && bits h.arg.toNat 7 1 = 0 && h.off.toNat % sizeBytes size = 0
  .next (settle (ringReq h .atom d ecc true false ok s))

/-- Requests of a stop that have not passed the ordering point. -/
def stopOpen (s : State) (stop : Nat) : List Nat := (s.home.reqs.filter fun r => r.stop = stop && !r.released).map fun r => r.id

/-- BAR (R317): ORDER at once, VISIBLE and DURABLE once the stop's earlier requests have passed the ordering point. -/
def execRingBar (h : RingHdr) (s : State) : Out :=
  .next (settle (
    if h.dst.toNat ≠ ownStop s || !ringOpen s then s else
    let s0 := active s
    let kind := h.arg.extractLsb' 0 2
    if !homeImpl s0.part.variant then ringComp (stopOf h) h.txn 0 9 s0
    else if !(hdrClean h true false false false && h.laddr == 0) || h.arg.toNat > 2 then ringComp (stopOf h) h.txn 0 4 s0
    else if failedAgent s0 (stopOf h) then ringComp (stopOf h) h.txn 0 8 s0
    else
      let s1 := if kind = 0 then ringComp (stopOf h) h.txn 0 0 s0 else s0
      barPump (modHome (fun m => { m with bars := m.bars ++ [(stopOf h, h.txn, kind, stopOpen s1 (stopOf h))] }) s1)))

/-- A non-coherent request goes on without a lookup, in its stop's order (R319). -/
def ringPlain (h : RingHdr) (kind : HKind) (d : Line) (be : BitVec 64) (clean : Bool) (s : State) : State :=
  if h.dst.toNat ≠ ownStop s || !ringOpen s then s else
  let s0 := active s
  match ringRefuse s0 h false false clean with
  | some sts => ringComp (stopOf h) h.txn (lineOfHdr h) sts s0
  | none =>
    let b := bind (fld s0 SCH_SRC_TKT_RING) none none s0
    let i := newId b.2
    let r : HomeReq := { id := i.1, kind := kind, line := lineOfHdr h, stop := stopOf h, txn := h.txn, data := d, be := be, attr := b.1,
                         nc := true, after := stopAfter b.2 (stopOf h) kind }
    let s1 := modHome (fun m => { m with reqs := m.reqs ++ [r] }) i.2
    if r.after.any (stillOpen s1) then s1 else plainStart r s1

/-- NRD (R319). -/
def execNrd (h : RingHdr) (s : State) : Out := .next (settle (ringPlain h .rdo 0 0 (hdrClean h false false false false) s))

/-- NWR (R319). -/
def execNwr (h : RingHdr) (d : Line) (s : State) : Out := .next (settle (ringPlain h .wru d h.be (hdrClean h false false true false) s))

/-- A REQ with a reserved OP is answered COMP FAIL_DECODE (R295); an OP of Table 11.4 is not this command's. -/
def execRingReqReserved (h : RingHdr) (op : BitVec 5) (s : State) : Out :=
  .next (settle (
    if h.dst.toNat ≠ ownStop s || !ringOpen s || (1 ≤ op.toNat && op.toNat ≤ 10) then s
    else ringComp (stopOf h) h.txn (lineOfHdr h) 4 (active s)))

/-! ### Answers (R303 to R307) -/

/-- Whether a request takes its forwarded line through the home (Table 11.5, RQS). -/
def takesLine (r : HomeReq) : Bool := !r.kind.isGrant

/-- The snoop has ended: every answer in, and the forwarded line where the home takes it. -/
def snoopDone (r : HomeReq) : Bool := r.await = [] && !(takesLine r && r.fwdBy.isSome && r.fwdLine.isNone)

/-- Decide a request if its snoop has ended, and serve what follows. -/
def homeCheck (id : Nat) (s : State) : State :=
  match homeFind s id with
  | none => s
  | some r => if r.phase = .snoop && snoopDone r then homeRun (homeDecide r s) else s

/-- The snooping request of a line that awaits a stop. -/
def awaiting (s : State) (line stop : Nat) : Option HomeReq :=
  s.home.reqs.find? fun r => r.line = line && r.phase = .snoop && r.await.contains stop

/-- The note of an overtaken WB or UPG (R306). -/
def takeNote (h : RingHdr) (s : State) : State :=
  if !h.note || s.home.notes.length ≥ 512 then s
  else modHome (fun m => { m with notes := m.notes ++ [{ agent := stopOf h, line := lineOfHdr h, upg := !h.dirty }] }) s

/-- Fields that no message but a REQ, a RSP or a SNP uses are zero, the reserved ones too (R294). -/
def replyClean (h : RingHdr) : Bool :=
  h.sts == 0 && !h.nodata && h.hold == 0 && h.arg == 0 && h.off == 0 && h.be == 0 && h.rsvdLo == 0 && h.rsvdHi == 0 && h.state.toNat ≤ 4

/-- An ANS is well formed (Table 11.3). -/
def ansClean (h : RingHdr) : Bool := replyClean h && h.rqs == 0 && h.rqt == 0

/-- A DAT is well formed. -/
def datClean (h : RingHdr) : Bool := replyClean h && !h.dirty && !h.fwd && !h.note

/-- An ACK is well formed. -/
def ackClean (h : RingHdr) : Bool := ansClean h && !h.dirty && !h.fwd && !h.note && h.state == 0 && !h.poison

/-- ANS (R303): the answer joins its request; the last one decides the grant. A malformed one is discarded (R295). -/
def execAns (h : RingHdr) (d : Option Line) (s : State) : Out :=
  .next (settle (
    if h.dst.toNat ≠ ownStop s || !homeImpl s.part.variant then s
    else if failedAgent s (stopOf h) then s
    else if !ansClean h then homeProto (lineOfHdr h) (stopOf h) 31 s
    else match s.home.snpset with
      | some (k, l) =>
        if h.laddr.toNat % 2 ^ 17 = k && l.contains (stopOf h) then
          let rest := l.erase (stopOf h)
          if rest = [] then homeRun (clearSet k s)
          else modHome (fun m => { m with snpset := some (k, rest) }) s
        else plain s
      | none => plain s))
where
  plain (s : State) : State :=
    match awaiting s (lineOfHdr h) (stopOf h) with
    | none => homeProto (lineOfHdr h) (stopOf h) 31 s
    | some r =>
      let s1 := takeNote h s
      let s2 := homeMod r.id (fun x => { x with
        await := x.await.erase (stopOf h)
        held := x.held || (h.state != 0 && stopOf h ≠ x.stop)
        fwdBy := if h.fwd then some (stopOf h) else x.fwdBy
        fwdDirty := x.fwdDirty || (h.fwd && h.dirty)
        fwdState := if h.fwd then (if h.note then 0 else 1) else x.fwdState
        ansLine := match d with
          | some l => if h.fwd && h.dirty then some (l, h.poison) else x.ansLine
          | none => x.ansLine }) s1
      homeCheck r.id s2

/-- DATA at the home (R303): the forwarded line of a request that names the home in RQS. -/
def execData (h : RingHdr) (d : Line) (s : State) : Out :=
  .next (settle (
    if h.dst.toNat ≠ ownStop s || !homeImpl s.part.variant then s
    else if failedAgent s (stopOf h) then s
    else match s.home.reqs.find? fun r => r.line = lineOfHdr h && r.phase = .snoop && takesLine r && r.fwdLine.isNone with
      | none => homeProto (lineOfHdr h) (stopOf h) 31 s
      | some r =>
        if !datClean h then homeProto (lineOfHdr h) (stopOf h) 31 s else
        homeCheck r.id (homeMod r.id (fun x => { x with fwdLine := some (d, h.poison) }) s)))

/-- ACK (R300): the grant is installed and the line released. -/
def execAck (h : RingHdr) (s : State) : Out :=
  .next (settle (
    if h.dst.toNat ≠ ownStop s || !homeImpl s.part.variant then s
    else if failedAgent s (stopOf h) then s
    else match s.home.reqs.find? fun r => r.line = lineOfHdr h && r.granted && r.stop = stopOf h with
      | none => homeProto (lineOfHdr h) (stopOf h) 31 s
      | some r => if ackClean h then homeRun (homeDrop r.id s) else homeProto (lineOfHdr h) (stopOf h) 31 s))

/-! ### Timeouts and failed agents (R310 to R313) -/

/-- Mark an agent FAILED: count, log, raise; its own requests end COMP FAIL_TIMEOUT and a grant already sent is void. -/
def failAgent (line op : Nat) (more : Bool) (s : State) (a : Nat) : State :=
  let s1 := setFld HOME_AGT_FAIL_FAILED 0 (fld s HOME_AGT_FAIL_FAILED ||| 2 ^ a) s
  let s2 := raise 29 (addFld HOME_CNT2_TMO 0 1 (logHome line a 0 op more s1))
  let own := s2.home.reqs.filter fun r => r.stop = a && !r.nc && !r.released
  let s3 := own.foldl (fun t r =>
    homeDrop r.id (if r.granted then ringComp a r.txn r.line 8 t else homeAnswer r { bst := 2, sts := 8 } t)) s2
  let bars := s3.home.bars.filter fun b => b.1 = a
  bars.foldl (fun t b => if b.2.2.1 = 0 then t else ringComp a b.2.1 0 8 t)
    (modHome (fun h => { h with bars := h.bars.filter fun b => b.1 ≠ a }) s3)

/-- The SUSPECT sweep (R312). (Log 73: DEDUCED.) -/
def suspectSweep (s : State) : State :=
  if !flg s HOME_CTL_SUSPECT then s
  else modHome (fun m => { m with ledger := m.ledger.map fun e => (e.1, e.2.map fun w => { w with suspect := true }) }) s

/-- The live agents among those still to answer fail (R310). -/
def failSilent (line op : Nat) (await : List Nat) (s : State) : State :=
  let miss := await.filter fun a => (liveAgents s).contains a
  if miss = [] then s else suspectSweep (miss.foldl (failAgent line op (1 < miss.length)) s)

/-- A SNPSET's timer expires: the silent agents fail, and the set is cleared. (Log 73: DEDUCED.) -/
def setTimeout (laddr : Nat) (s : State) : State :=
  match s.home.snpset with
  | some (k, l) => if k = laddr && s.home.snpsetAt + fld s HOME_TMO_US * edgesUs ≤ s.clk then homeRun (clearSet k (failSilent k 31 l s)) else s
  | none => s

/-- A snoop's timer expires (R310): the silent agents fail and the request ends as Table 11.9 states. -/
def execSnoopTimeout (laddr : BitVec 40) (s : State) : Out :=
  .next (settle (
    match s.home.reqs.find? fun r => r.line = laddr.toNat && r.phase = .snoop &&
        r.snoopAt + fld s HOME_TMO_US * edgesUs ≤ s.clk with
    | none => setTimeout laddr.toNat s
    | some r =>
      let s2 := failSilent r.line r.kind.op r.await s
      match homeFind s2 r.id with
      | none => homeRun s2
      | some q =>
        let q1 := { q with await := [], timedOut := true, fwdBy := if takesLine q && q.fwdLine.isNone then none else q.fwdBy }
        homeRun (homeDecide q1 (homeMod q.id (fun _ => q1) s2))))

/-- Writing 1 to bits of HOME_AGT_FAIL readmits the agents (R313). -/
def execAgentReadmit (v : BitVec 32) (s : State) : Out :=
  .next (if !homeImpl s.part.variant || s.pw.inReset then s
    else setFld HOME_AGT_FAIL_FAILED 0 (fld s HOME_AGT_FAIL_FAILED - (fld s HOME_AGT_FAIL_FAILED &&& v.toNat)) s)

/-- HOME_CNT_CLR.ALL (R322). -/
def execHomeCntClear (v : BitVec 32) (s : State) : Out :=
  .next (if !homeImpl s.part.variant || !v.getLsbD 0 || s.pw.inReset then s
    else setWord 0xA0020 0 (setWord 0xA0024 0 (setWord 0xA0028 0 s)))

/-- HOME_DUR_CTL.CLR (R318). -/
def execRingDurClear (v : BitVec 32) (s : State) : Out :=
  .next (if !homeImpl s.part.variant || !v.getLsbD 0 || s.pw.inReset then s else footClear ringFoot s)

/-- HOME_RSV_CLR.ALL (R80). -/
def execHomeRsvClear (v : BitVec 32) (s : State) : Out :=
  .next (if !homeImpl s.part.variant || !v.getLsbD 0 || s.pw.inReset then s else setWord 0xA0F00 0 s)

end Sys2Proof.Machine
end

