-- ==== Sys2Proof/Machine/Timing.lean ====
section
/-!
DEFINITION. DRAM timing, the bands of the scheduler and the selection of one command (chapters 4 and 6).
-/

namespace Sys2Proof.Machine

/-! ### Slots (R90, R113, R124) -/

def speedOf (s : State) (p : Nat) : Nat := if serial p then fld s SP_STAT_SPEED p else fld s DP_STAT_SPEED p

/-- DRAM clocks in a tick (Table 5.1). -/
def clocksPerTick (s : State) (p : Nat) : Nat := 6 + speedOf s p

/-- The lead of a port (R124). -/
def leadOf (s : State) (p : Nat) : Nat := if serial p && !cx2 s p then (portOf s p).marks.lead else 0

/-- The DRAM clock of offset off of the slot selected now, counted from the power-on reset. -/
def slotClk (s : State) (p off : Nat) : Nat := (s.clk + leadOf s p) * clocksPerTick s p + off

/-- "Now" of a selection (R90). -/
def selNow (s : State) (p : Nat) : Int := tick s + leadOf s p

def subOf (s : State) (p c : Nat) : SubCh := mgetD (portOf s p).sched.subs c {}
def modSub (p c : Nat) (g : SubCh → SubCh) (s : State) : State :=
  modSched p (fun q => { q with subs := mput q.subs c (g (mgetD q.subs c {})) }) s

/-- A logical rank within its sub-channel. (Log 93: DEDUCED.) -/
def rankKey (l : Loc) : Nat := 2 * rankOfLoc l + l.sub % 2
def rankSt (s : State) (p k : Nat) : RankSt := mgetD (portOf s p).sched.ranks k {}
def modRank (p k : Nat) (g : RankSt → RankSt) (s : State) : State :=
  modSched p (fun q => { q with ranks := mput q.ranks k (g (mgetD q.ranks k {})) }) s

/-- The ranks of one sub-channel. -/
def ranksOf (s : State) (p c : Nat) : List Loc :=
  (List.range (dimmCount s p)).flatMap fun d => (List.range (pranks s p)).flatMap fun r =>
    (List.range (stackHeight s p)).map fun k => { sub := c, dimm := d, prank := r, cid := k }

/-! ### Gaps between commands (R149, R150) -/

def samePkg (a b : Loc) : Bool := a.dimm = b.dimm && a.prank = b.prank
def sameRank (a b : Loc) : Bool := samePkg a b && a.cid = b.cid
def sameBank (a b : Loc) : Bool := sameRank a b && a.bg = b.bg && a.bank = b.bank

def Op.isRead : Op → Bool
  | .rd => true | .rda => true | .amo => true | _ => false
def Op.isWrite : Op → Bool
  | .wr => true | .wra => true | _ => false
def Op.isCol (o : Op) : Bool := o.isRead || o.isWrite
def Op.isPre : Op → Bool
  | .prePb => true | .preSb => true | .preAb => true | _ => false
def Op.isRef : Op → Bool
  | .refAb => true | .refSb => true | .rfmAb => true | .rfmSb => true | _ => false

/-- A precharge, refresh or RFM covers the bank of b. -/
def covers (o : Op) (a b : Loc) : Bool :=
  match o with
  | .prePb => sameBank a b
  | .preSb => sameRank a b && a.bank = b.bank
  | .refSb => sameRank a b && a.bank = b.bank
  | .rfmSb => sameRank a b && a.bank = b.bank
  | _ => sameRank a b

/-- Clocks that a command takes on the command bus (Table 6.14). -/
def busClocks (s : State) (p : Nat) (o : Op) : Nat :=
  let two := if serial p then bits (popWord s p) 8 1 = 1 else flg s DP_CTL_CMD2N p
  (if o.isCol || o = .act || o = .mrw || o = .mrr then 2 else 1) * (if two then 2 else 1)

/-- Least distance from an issued command h to a command x of the same sub-channel; part: x writes a partial line. (Log 94: DEDUCED.) -/
def gapOf (s : State) (p : Nat) (h : Op) (hl : Loc) (x : Op) (xl : Loc) (part : Bool) : Nat :=
  let cl := fld s DP_T0_CL p
  let cwl := cl - 2
  let bl := if !serial p && flg s DP_CTL_WCRC p then 9 else 8
  let trp := fld s DP_T0_TRP p
  let wrec := cwl + bl + fld s DP_T1_TWR p
  let pad := fld s DP_T8_RNK_PAD p
  let pkg := samePkg hl xl
  let rank := sameRank hl xl
  let bank := sameBank hl xl
  let bg := rank && hl.bg = xl.bg
  let mr := if h = .mrw && rank then fld s DP_T4_TMRD p else 0
  let far := if h = .amo then fld s SP_CTL_FAGAP p else 0
  let autoPre := if h = .rda then fld s DP_T0_TRTP p + trp else if h = .wra then wrec + trp else 0
  max mr (match x with
    | .act =>
      if h = .act then
        (if bank then fld s DP_T1_TRC p else if rank then (if bg then fld s DP_T2_TRRD_L p else fld s DP_T2_TRRD_S p)
         else if pkg then fld s DP_T4_TRRD_DLR p else 0)
      else if h.isPre then (if covers h hl xl then trp else 0)
      else if (h = .refSb || h = .rfmSb) && rank then fld s DP_T5_TREFSBRD p
      else if bank then autoPre else 0
    | .prePb => preGap s p h hl x xl wrec far
    | .preSb => preGap s p h hl x xl wrec far
    | .preAb => preGap s p h hl x xl wrec far
    | _ =>
      if x.isRead then
        (if h = .act then (if bank then fld s DP_T0_TRCD p else 0)
         else if h.isWrite || h = .amo then
           far + (if pkg then cwl + bl + (if bg then fld s DP_T3_TWTR_L p else fld s DP_T3_TWTR_S p) else cwl + bl + pad - cl)
         else if h.isRead then
           (if rank then (if bg then fld s DP_T2_TCCD_L p else fld s DP_T2_TCCD_S p)
            else if pkg then fld s DP_T4_TCCD_DLR p else 8 + pad)
         else 0)
      else if x.isWrite then
        (if h = .act then (if bank then fld s DP_T0_TRCD p else 0)
         else if h.isWrite || h = .amo then
           far + (if rank then (if bg then (if part then fld s DP_T3_TCCD_L_WR p else fld s DP_T3_TCCD_L_WR2 p) else fld s DP_T2_TCCD_S p)
                  else if pkg then fld s DP_T4_TCCD_DLR p else bl + pad)
         else if h.isRead then cl + 8 - cwl + fld s DP_T8_RTW_PAD p + (if pkg then 0 else pad)
         else 0)
      else if x.isRef || x = .sre then
        (if h.isPre then (if rank then trp else 0)
         else if h.isRef then (if pkg && !rank then fld s DP_T6_TRFC_DLR p else 0)
         else if rank then autoPre else 0)
      else 0)
where
  /-- Distance to a precharge. -/
  preGap (s : State) (p : Nat) (h : Op) (hl : Loc) (x : Op) (xl : Loc) (wrec far : Nat) : Nat :=
    if !covers x xl hl then 0
    else if h = .act then fld s DP_T1_TRAS p
    else if h = .amo then far + wrec
    else if h.isRead then fld s DP_T0_TRTP p
    else if h.isWrite then wrec else 0

/-- DRAM clock at which an issued command executes. -/
def Issued.at_ (n : Nat) (h : Issued) : Nat := h.clk * n + h.off

/-- Four activates within tFAW (R149). -/
def fawOk (s : State) (p : Nat) (hist : List Issued) (xl : Loc) (t : Nat) : Bool :=
  let n := clocksPerTick s p
  let acts := hist.filter fun h => h.op = .act
  let fourth (l : List Issued) (w : Nat) : Bool := match l[3]? with
    | some h => h.at_ n + w ≤ t
    | none => true
  fourth (acts.filter fun h => sameRank h.loc xl) (fld s DP_T1_TFAW p)
    && (stackHeight s p = 1 || fourth (acts.filter fun h => samePkg h.loc xl) (fld s DP_T4_TFAW_DLR p))

/-- A refresh or RFM holds the bank of l (R94, R100). -/
def bankHeld (s : State) (p : Nat) (l : Loc) (t : Nat) : Bool :=
  let r := rankSt s p (rankKey l)
  (r.begun || t < r.busy) && (match r.cover with
    | none => true
    | some b => b.val = l.bank)

/-- Rolling activate count of a bank (R156). -/
def raaKey (l : Loc) : Nat := l.sub * 4096 + bankNo l
def raaOf (s : State) (p : Nat) (l : Loc) : Nat := mgetD (portOf s p).sched.raa (raaKey l) 0
def raaFull (s : State) (p : Nat) (l : Loc) : Bool := flg s DP_RFM_REQ p && raaOf s p l + 1 > fld s DP_RFM_RAAMMT p

/-- Every timing constraint of a command is met at clock t. -/
def ready (s : State) (p c : Nat) (x : Op) (xl : Loc) (part : Bool) (t : Nat) : Bool :=
  let n := clocksPerTick s p
  let hist := (subOf s p c).hist
  (hist.all fun h => h.at_ n + max (busClocks s p h.op) (gapOf s p h.op h.loc x xl part) ≤ t)
    && (x ≠ .act || (fawOk s p hist xl t && !raaFull s p xl))
    && (!x.isRef || (rankSt s p (rankKey xl)).busy ≤ t)

/-! ### Bands (R85 to R94) -/

def openRow (s : State) (p : Nat) (l : Loc) : Option Nat := mget (subOf s p l.sub).openRows (bankNo l)

/-- The bands of one queued request: band, sort tick. -/
def effDeadline (s : State) (a : ReqAttr) : Int := a.base - urgOf s a * fld s SCH_CTL_URG_STEP

def ageTicks (s : State) : Int := fld s SCH_CTL_AGE * edgesUs

def promotes (s : State) (a : ReqAttr) (now : Int) : Bool := now - a.accept ≥ ageTicks s && !(runClass a = 7 && c7Deferred s)

def bandOf (s : State) (p : Nat) (a : ReqAttr) (now : Int) : Nat × Int :=
  let k := runClass a
  if k = 0 && effDeadline s a - now ≤ fld s PS_CTL_GUARD p then (2, effDeadline s a)
  else if promotes s a now then (3, a.accept)
  else if k = 0 then (4, effDeadline s a)
  else if k = 1 then (5, a.accept - urgOf s a * fld s SCH_CTL_URG_STEP)
  else (5 + k, a.accept)

/-- A queued request with its place, band and lift (R93). -/
structure Ranked where
  q : SubReq
  loc : Loc
  band : Nat
  tick : Int
  lifted : Bool
  eligible : Bool
  deriving DecidableEq, Repr

def sameRow (a b : Loc) : Bool := a.sub = b.sub && sameBank a b && a.row = b.row

/-- Reads in flight that must come back before their row is touched again: read-modify-writes, visits and copies. -/
def rowBusy (s : State) (p : Nat) (l : Loc) : Bool :=
  (portOf s p).sched.flight.any fun f => f.req.kind ≠ .read && (match f.req.kind with
    | .amo _ _ _ _ => false
    | _ => true) && sameRow (locOf s p f.req.la) l

/-- The queue of a port with bands and lifts. -/
def ranked (s : State) (p : Nat) : List Ranked :=
  let now := selNow s p
  let l := (portOf s p).sched.queue.map fun q => (q, locOf s p q.la, bandOf s p q.attr now)
  l.mapIdx fun i e =>
    let later := (l.drop (i + 1)).filter fun f => sameRow f.2.1 e.2.1
    let band := later.foldl (fun b f => min b f.2.2.1) e.2.2.1
    let tk := later.foldl (fun b f => min b f.2.2.2) e.2.2.2
    { q := e.1, loc := e.2.1, band := band, tick := tk, lifted := band < e.2.2.1,
      eligible := !((l.take i).any fun f => sameRow f.2.1 e.2.1) && !rowBusy s p e.2.1 }

/-- The request moves data to the DRAM. -/
def SubReq.isWrite (q : SubReq) : Bool :=
  match q.kind with
  | .write _ _ _ => true
  | .rmw _ => true
  | _ => false

/-! ### Candidates (R95) -/

inductive Pick where
  | req (q : SubReq)
  | replay (i : Issued)
  | job (rank : Nat)
  | close
  deriving DecidableEq, Repr

structure Cand where
  band : Nat
  tick : Int
  op : Op
  loc : Loc
  pick : Pick
  /-- direction of a candidate that has one: true for write -/
  wr : Option Bool := none
  hit : Bool := false
  deriving DecidableEq, Repr

/-- Another request waits for a different row of the bank. -/
def otherRow (l : List Ranked) (x : Loc) : Bool := l.any fun r => r.loc.sub = x.sub && sameBank r.loc x && r.loc.row ≠ x.row

/-- A launch holds the bank (R133). -/
def launchHeld (s : State) (p : Nat) (x : Loc) : Bool := (portOf s p).sched.launchHold.any fun h => h.1 = x.sub && h.2.1 = bankNo x

def colOp (s : State) (p : Nat) (l : List Ranked) (r : Ranked) : Op :=
  let wait := l.any fun o => o.q.id ≠ r.q.id && sameRow o.loc r.loc
  let auto := fld s PS_CTL_PAGE p = 0 && !wait
  match r.q.kind with
  | .write _ _ _ => if auto then .wra else .wr
  | .amo _ _ _ _ => .amo
  | _ => if auto then .rda else .rd

/-- The next DRAM command of an eligible request, if the bank rule lets it go (R94). -/
def candOf (s : State) (p : Nat) (t : Nat) (l : List Ranked) (r : Ranked) : Option Cand :=
  let rep := (portOf s p).sched.replay.any fun i => i.loc.sub = r.loc.sub && sameBank i.loc r.loc
  if !r.eligible || rep || bankHeld s p r.loc t then none else
  let mk (o : Op) (hit : Bool) : Cand := { band := r.band, tick := r.tick, op := o, loc := r.loc, pick := .req r.q, wr := some r.q.isWrite, hit := hit }
  let better := l.any fun o => o.band < r.band && o.loc.sub = r.loc.sub && sameBank o.loc r.loc && o.loc.row ≠ r.loc.row
  match openRow s p r.loc with
  | some row =>
    if row = r.loc.row then some (mk (colOp s p l r) true)
    else if better then none else some (mk .prePb false)
  | none => if better || launchHeld s p r.loc then none else some (mk .act false)

/-! ### Refresh jobs (R100, R101, R155, R156) -/

def fineMode (s : State) (p : Nat) : Bool := fld s PS_SLOT_REFMODE p = 1
/-- (Log 95: DEDUCED.) -/
def postponeOf (s : State) (p : Nat) : Nat := if cx2 s p then min 2 (fld s PS_SLOT_POSTPONE p) else fld s PS_SLOT_POSTPONE p

def coverOf (l : Loc) (b : Option (Fin 4)) : Loc := { l with bank := match b with
  | some k => k.val
  | none => 0 }

/-- A bank that a job covers. -/
def jobCovers (l : Loc) (b : Option (Fin 4)) (x : Loc) : Bool :=
  x.sub = l.sub && sameRank l x && (match b with
    | some k => x.bank = k.val
    | none => true)

/-- The job of a rank: RFM or not, bank index, mandatory. -/
def jobOf (s : State) (p : Nat) (l : Loc) (q : List Ranked) : Option (Bool × Option (Fin 4) × Bool) :=
  let r := rankSt s p (rankKey l)
  let must := r.owed > postponeOf s p
  let rfmMust (b : Option (Fin 4)) : Bool := q.any fun x => jobCovers l b x.loc && raaFull s p x.loc && (openRow s p x.loc).isNone
  if r.begun then some (r.rfmJob, r.cover, if r.rfmJob then rfmMust r.cover else must)
  else
    let waitsOn (b : Option (Fin 4)) : Bool := q.any fun x => 2 ≤ x.band && x.band ≤ 5 && jobCovers l b x.loc
    let left := ([0, 1, 2, 3] : List (Fin 4)).filter fun b => !r.part.contains b
    let refJob : Option (Bool × Option (Fin 4) × Bool) :=
      if r.owed = 0 then none
      else
        let bs : List (Option (Fin 4)) := if fineMode s p then left.map some else [none]
        if must then bs.head?.map fun b => (false, b, true)
        else if s.clk < (portOf s p).sched.refHold then none
        else (bs.find? fun b => !waitsOn b).map fun b => (false, b, false)
    match refJob with
    | some j => some j
    | none =>
      let bs : List (Option (Fin 4)) := if fineMode s p then r.rfm.map fun b => some (Fin.ofNat 4 b) else (if r.rfm = [] then [] else [none])
      match bs.find? rfmMust with
      | some b => some (true, b, true)
      | none => (bs.find? fun b => !waitsOn b).map fun b => (true, b, false)

/-- The next step of a rank's job. -/
def jobCand (s : State) (p t : Nat) (q : List Ranked) (l : Loc) : Option Cand :=
  match jobOf s p l q with
  | none => none
  | some (rfm, b, must) =>
    let opens := (subOf s p l.sub).openRows.any fun e => jobCovers l b { l with dimm := e.1 / 512 % 2, prank := e.1 / 256 % 2, cid := e.1 / 32 % 8, bg := e.1 / 4 % 8, bank := e.1 % 4 }
    let fine := b.isSome
    let o : Op := if opens then (if fine then .preSb else .preAb) else if rfm then (if fine then .rfmSb else .rfmAb) else if fine then .refSb else .refAb
    if !opens && t < (rankSt s p (rankKey l)).busy then none
    else some { band := if must then 1 else 6, tick := 0, op := o, loc := coverOf l b, pick := .job (rankKey l) }

/-! ### Replays (R104, R127, R153) -/

/-- The next step of the oldest replayed command of the sub-channel. -/
def replayCand (s : State) (p c : Nat) : Option Cand :=
  match (portOf s p).sched.replay.find? fun i => i.loc.sub = c with
  | none => none
  | some i =>
    let mk (o : Op) : Cand := { band := 0, tick := 0, op := o, loc := i.loc, pick := .replay i, wr := if i.op.isCol then some i.op.isWrite else none, hit := false }
    if !i.op.isCol then some (mk i.op)
    else match openRow s p i.loc with
      | some row => if row = i.loc.row then some (mk i.op) else some (mk .prePb)
      | none => some (mk .act)

/-! ### Direction (R98) -/

def writeLines (s : State) (p c : Nat) : Nat := ((portOf s p).sched.queue.filter fun q => q.isWrite && (locOf s p q.la).sub = c).length

/-- Drain mode after this look at the queue. -/
def drainNow (s : State) (p c : Nat) : Bool :=
  let n := writeLines s p c
  if (subOf s p c).drain then fld s PS_WM_LWM p < n else fld s PS_WM_HWM p ≤ n

def bestBand (l : List Cand) (wr : Bool) : Option Nat :=
  ((l.filter fun x => x.wr = some wr).map fun x => x.band).min?

/-- Direction of the slot. -/
def dirNow (s : State) (p c : Nat) (cands : List Cand) : Bool :=
  let r := bestBand cands false
  let w := bestBand cands true
  if drainNow s p c then !(cands.any fun x => x.wr = some false && (x.band = 0 || x.band = 2))
  else
    let cur := (subOf s p c).dirWrite
    let (kept, other) := if cur then (w, r) else (r, w)
    match kept, other with
    | some a, some b => if b < a then !cur else cur
    | none, some _ => !cur
    | _, none => cur

/-! ### The selection -/

/-- A pause runs on the port. -/
def pauseOn (s : State) (p : Nat) : Bool :=
  match (portOf s p).sched.pause with
  | some (_, e) => s.clk < e
  | none => false

/-- Read window of a serial port (R187). -/
def readWindow (s : State) (p : Nat) : Bool :=
  !serial p ||
    ((portOf s p).sched.flight.length + ((portOf s p).sched.retry.filter fun i => i.op.isRead && i.req.isSome).length < fld s SL_CTL_RDWIN p)

/-- A receive lane is missing: no read column command (R173). -/
def laneMissing (s : State) (p : Nat) : Bool :=
  serial p && ((portOf s p).link.rx.any fun e => e.2.bad && (match (portOf s p).link.spareRx with
    | .shadow _ _ => true
    | _ => false))

/-- The port may issue commands in this slot. -/
def mayIssue (s : State) (p : Nat) : Bool :=
  let q := portOf s p
  pstate s p = .service && !pauseOn s p && s.pw.st.toNat ≤ 1 && !s.pw.inReset && q.dram.alertAt.isNone && q.dram.alertRise.isNone
    && (if serial p then
          (cx2 s p || (flg s TS_THETA_ALIGNED p && !q.marks.realign)) && fld s SL_STAT_LSTATE p ≤ 1 && q.sched.retry.length < 1024
              && q.link.retry.length < 256
        else q.sched.retry.length < 64)

/-- Band 12 is deferred and band 11 throttled by the power window (R105, Table 14.2). -/
def windowOk (s : State) (p c : Nat) (l : List Ranked) (x : Cand) : Bool :=
  match x.pick with
  | .req q =>
    let lifted := l.any fun r => r.q.id = q.id && r.lifted
    (x.band ≠ 12 || lifted || !c7Deferred s) &&
      (x.band ≠ 11 || lifted || !x.op.isCol || fld s PW_STAT_STAGE < 4 || (match (subOf s p c).lastC6 with
        | some t => t + fld s PW_STAT_THR ≤ s.clk
        | none => true))
  | _ => true

/-- A read-type column command or a replay of one is let through. -/
def colOk (s : State) (p : Nat) (x : Cand) : Bool := !x.op.isRead || (readWindow s p && !laneMissing s p && !(portOf s p).link.codeDue)

/-- The precharges of banks that a launch holds (R133): behind mandatory refreshes, ahead of every request. -/
def holdCands (s : State) (p c : Nat) : List Cand :=
  ((portOf s p).sched.launchHold.filter fun h => h.1 = c).filterMap fun h =>
    let b := h.2.1
    let l : Loc := { sub := c, dimm := b / 512 % 2, prank := b / 256 % 2, cid := b / 32 % 8, bg := b / 4 % 8, bank := b % 4 }
    (openRow s p l).map fun r => { band := 1, tick := 1, op := .prePb, loc := { l with row := r }, pick := .close }

/-- The candidates of sub-channel c. -/
def candidates (s : State) (p c t : Nat) (l : List Ranked) : List Cand :=
  let mine := l.filter fun r => r.loc.sub = c
  let reqs := if flg s TB_STAT_HOLD then [] else (mine.filterMap fun r => candOf s p t l r).filter (windowOk s p c l)
  let jobs := if flg s TB_STAT_HOLD && serial p then [] else (ranksOf s p c).filterMap fun k => jobCand s p t l k
  (if flg s TB_STAT_HOLD then [] else (replayCand s p c).toList) ++ jobs ++ holdCands s p c ++ reqs

/-- Row hits in succession are not used up (R97). -/
def capLeft (s : State) (p : Nat) (l : List Ranked) (x : Loc) : Bool :=
  mgetD (subOf s p x.sub).hits (bankNo x) 0 < fld s PS_CTL_ROW_CAP p || !otherRow l x

def Cand.sortTick (s : State) (p : Nat) (l : List Ranked) (x : Cand) : Int :=
  if x.op.isCol && x.hit && capLeft s p l x.loc then x.tick - fld s PS_CTL_HIT_SLACK p else x.tick

/-- The selection of R95 at clock t: the command, and the direction of the slot. -/
def select (s : State) (p c t : Nat) : Option Cand × Bool :=
  let l := ranked s p
  let cands := candidates s p c t l
  let dir := dirNow s p c cands
  let partOf (x : Cand) : Bool := match x.pick with
    | .req q => (match q.kind with
      | .rmw _ => true
      | _ => false)
    | _ => false
  let kept := cands.filter fun x => ready s p c x.op x.loc (partOf x) t && (!x.op.isCol || x.wr = some dir) && colOk s p x
  (kept.foldl (fun (acc : Option Cand) x =>
    match acc with
    | none => some x
    | some b =>
      if x.band < b.band || (x.band = b.band && x.sortTick s p l < b.sortTick s p l) then some x else acc) none, dir)

/-! ### Issue -/

/-- The stamp of a command at the slot (R125). -/
def stampOf (s : State) (p off : Nat) : BitVec 28 :=
  if serial p && !cx2 s p then BitVec.ofNat 28 ((s.count.toNat + leadOf s p) % 2 ^ 24 + off * 2 ^ 24) else 0

/-- Rows that a command opens or closes. -/
def rowEffect (o : Op) (l : Loc) (x : SubCh) : SubCh :=
  let keyLoc (k : Nat) : Loc := { l with dimm := k / 512 % 2, prank := k / 256 % 2, cid := k / 32 % 8, bg := k / 4 % 8, bank := k % 4 }
  let gone (k : Nat) : Bool := o.isPre && covers o l (keyLoc k) || ((o = .rda || o = .wra) && k = bankNo l) || o = .sre
  let x1 := { x with openRows := x.openRows.filter (fun e => !gone e.1), hits := x.hits.filter (fun e => !gone e.1), lastCol := x.lastCol.filter (fun e => !gone e.1) }
  if o = .act then { x1 with openRows := mput x1.openRows (bankNo l) l.row, hits := mput x1.hits (bankNo l) 0 } else x1

/-- Issue a command at offset off: its history, its rows and its place in the retry buffer. -/
def issueOp (p c off : Nat) (o : Op) (l : Loc) (q : Option SubReq) (unblk : Bool) (s : State) : State :=
  let i := newId s
  let counted := cx2 s p && o.isCol
  let stamp := if counted then BitVec.ofNat 28 ((subOf s p c).colSeq % 65536) else stampOf s p off
  let h : Issued := { seq := i.1, clk := s.clk + leadOf s p, off := off, op := o, loc := l, req := q, stamp := stamp, unblk := unblk }
  let t := slotClk s p off
  let n := clocksPerTick s p
  let s1 := modSub p c (fun x => rowEffect o l { x with
    hist := h :: x.hist.filter (fun y => t < y.at_ n + 4096), colSeq := if counted then x.colSeq + 1 else x.colSeq }) i.2
  let s2 := modSched p (fun x => { x with retry := x.retry ++ [h] }) s1
  let s3 := if o = .act then modSched p (fun x => { x with raa := mput x.raa (raaKey l) (mgetD x.raa (raaKey l) 0 + 1) }) s2 else s2
  sendPacket p (.command [h]) s3

/-- A bank reached RAAIMT: its RFM is due (R156). -/
def rfmDue (p : Nat) (l : Loc) (s : State) : State :=
  if !flg s DP_RFM_REQ p || raaOf s p l < fld s DP_RFM_RAAIMT p then s
  else modRank p (rankKey l) (fun r => { r with rfm := insNat r.rfm l.bank }) s

/-- Take a refresh or RFM off the counts of the banks that it covers (R156). -/
def raaSub (p : Nat) (l : Loc) (b : Option (Fin 4)) (n : Nat) (s : State) : State :=
  let less (e : Nat × Nat) : Nat × Nat :=
    let y : Loc := { sub := e.1 / 4096, dimm := e.1 / 512 % 2, prank := e.1 / 256 % 2, cid := e.1 / 32 % 8, bg := e.1 / 4 % 8, bank := e.1 % 4 }
    if jobCovers l b y then (e.1, e.2 - n) else e
  modSched p (fun x => { x with raa := x.raa.map less }) s

/-- The oldest owed refresh becomes mandatory: counted once (R101). -/
def forcedCheck (p k : Nat) (s : State) : State :=
  let r := rankSt s p k
  if r.owed > postponeOf s p && !r.forced then addFld PS_CNT0_FORCED p 1 (modRank p k (fun x => { x with forced := true }) s) else s

/-- Issue a step of a refresh job. -/
def issueJob (p c off : Nat) (x : Cand) (k : Nat) (s : State) : State :=
  let t := slotClk s p off
  let l := ranked s p
  match jobOf s p { x.loc with bank := 0 } l with
  | none => s
  | some (rfm, b, _) =>
    let s1 := issueOp p c off x.op x.loc none false s
    if x.op.isPre then modRank p k (fun r => { r with begun := true, rfmJob := rfm, cover := b }) s1
    else
      let trfc := if b.isSome then fld s DP_T6_TRFCSB p else if fineMode s p then fld s DP_T5_TRFC2 p else fld s DP_T5_TRFC1 p
      let imt := fld s DP_RFM_RAAIMT p
      let dec := if rfm then imt * (fld s DP_RFM_RAADEC p + 1) else imt
      let done (r : RankSt) : RankSt :=
        if rfm then { r with rfm := match b with
          | some i => r.rfm.erase i.val
          | none => [] }
        else match b with
          | some i =>
            let part := r.part ++ [i]
            if part.length ≥ 4 then { r with part := [], owed := r.owed - 1, forced := false } else { r with part := part }
          | none => { r with owed := r.owed - 1, forced := false }
      let s2 := modRank p k (fun r => { done r with begun := false, rfmJob := rfm, cover := b, busy := t + trfc }) s1
      let s3 := raaSub p x.loc b dec s2
      if rfm then addFld DP_CNT2_RFM p 1 s3 else forcedCheck p k s3

/-- Issue a column command: its request leaves the queue, hits are counted. -/
def issueCol (p c off : Nat) (x : Cand) (q : SubReq) (unblk : Bool) (s : State) : State :=
  let l := ranked s p
  let waits := otherRow l x.loc
  let b := bankNo x.loc
  let s1 := modSub p c (fun y => { y with
    hits := if waits then mput y.hits b (mgetD y.hits b 0 + 1) else mput y.hits b 0
    lastCol := mput y.lastCol b (s.clk + leadOf s p)
    lastC6 := if x.band = 11 then some s.clk else y.lastC6 }) s
  issueOp p c off x.op x.loc (some q) unblk
    (modDram p (fun d => { d with idleAt := s.clk }) (modSched p (fun y => { y with queue := y.queue.filter fun z => z.id ≠ q.id }) s1))

/-- Age promotions are counted when first seen (R89). -/
def countPromoted (p : Nat) (s : State) : State :=
  let now := selNow s p
  let fresh := (portOf s p).sched.queue.filter fun q => !q.promoted && promotes s q.attr now && (bandOf s p q.attr now).1 = 3
  if fresh = [] then s
  else
    let see (q : SubReq) : SubReq := if fresh.any fun f => f.id = q.id then { q with promoted := true } else q
    addFld PS_CNT1_PROMOTED p fresh.length (modSched p (fun x => { x with queue := x.queue.map see }) s)

/-- The direction and drain mode of a sub-channel. -/
def setDir (p c : Nat) (dir : Bool) (s : State) : State :=
  let d := drainNow s p c
  let old := fld s PS_STAT_DRAIN p
  setFld PS_STAT_DRAIN p (withBits old c 1 (if d then 1 else 0)) (modSub p c (fun x => { x with dirWrite := dir, drain := d }) s)

/-- A refresh or RFM that is issued again holds its banks like any other; it counts neither as postponed nor as pulled in (R153). -/
def replayBusy (p : Nat) (x : Cand) (off : Nat) (s : State) : State :=
  if !x.op.isRef then s else
  let one := x.op = .refSb || x.op = .rfmSb
  let trfc := if one then fld s DP_T6_TRFCSB p else if fineMode s p then fld s DP_T5_TRFC2 p else fld s DP_T5_TRFC1 p
  let cover : Option (Fin 4) := if one then some (Fin.ofNat 4 x.loc.bank) else none
  modRank p (rankKey x.loc) (fun r => { r with busy := slotClk s p off + trfc, cover := cover }) s

/-- One selection (R95). -/
def slotSelect (p c off : Nat) (s : State) : State :=
  if !mayIssue s p || subCount s p ≤ c || clocksPerTick s p ≤ off then s else
  let s0 := countPromoted p s
  let r := select s0 p c (slotClk s0 p off)
  let s1 := setDir p c r.2 s0
  match r.1 with
  | none => s1
  | some x =>
    match x.pick with
    | .job k => issueJob p c off x k s1
    | .close => issueOp p c off x.op x.loc none false s1
    | .req q =>
      if x.op.isCol then issueCol p c off x q false s1
      else (let s2 := issueOp p c off x.op x.loc none false s1
            if x.op = .act then rfmDue p x.loc s2 else s2)
    | .replay i =>
      let s2 := issueOp p c off x.op x.loc (if x.op = i.op then i.req else none) i.unblk s1
      if x.op ≠ i.op then s2
      else replayBusy p x off <| modSched p (fun y => { y with replay := y.replay.filter fun z => z.seq ≠ i.seq }) s2

end Sys2Proof.Machine
end

