-- ==== Sys2Proof/Machine/Scheduler.lean ====
section
/-!
DEFINITION. Commands of the scheduler: queue entry, slots, refresh, rows, pauses, returns of lines, and its counters (chapters 4 and 6).
-/

namespace Sys2Proof.Machine

/-! ### Entering the command queue (R66, R99, R410) -/

def removeWait (p id : Nat) (s : State) : State := modSched p (fun q => { q with wait := q.wait.filter fun r => r.id ≠ id }) s

/-- A sub-request may take an entry now: the reserve is kept for C0 and C1. -/
def queueRoom (s : State) (p : Nat) (r : SubReq) : Bool :=
  let free := queueCap p - (portOf s p).sched.queue.length
  if runClass r.attr ≤ 1 then 0 < free else fld s PS_WM_RSV p < free

/-- The gathering lines of a row close: their read-modify-writes enter first (R66). -/
def rowMatch (p la : Nat) (s : State) : State :=
  let l := locOf s p la
  let hit := (portOf s p).prot.merge.filter fun e => !e.2.closed && sameRow (locOf s p e.2.la) l
  hit.foldl (fun t e => closeEntry p e.1 t) s

/-- A sub-request enters the queue or the merge buffer; none while it waits. -/
def enterQueue (p : Nat) (r : SubReq) (s : State) : Option State :=
  let toQueue (t : State) : State :=
    entered p r (modSched p (fun q => { q with queue := q.queue ++ [r] }) (rowMatch p r.la (removeWait p r.id t)))
  match r.kind with
  | .write d be po =>
    if be = allBytes || be = 0 then (if queueRoom s p r then some (toQueue s) else none)
    else
      let x := mergeIn p r.la d be po r.attr r.owner s
      if x.1 then some (entered p r (removeWait p r.id x.2)) else some x.2
  | _ => if queueRoom s p r then some (toQueue s) else none

/-- The first waiting sub-request that can enter: none of its row waits before it. -/
def enterable (s : State) (p : Nat) : Option SubReq :=
  let w := (portOf s p).sched.wait
  w.find? fun r =>
    !((w.takeWhile fun x => x.id ≠ r.id).any fun x => sameRow (locOf s p x.la) (locOf s p r.la)) &&
      (match r.kind with
       | .write _ be _ => (be ≠ allBytes && be ≠ 0) || queueRoom s p r
       | _ => queueRoom s p r)

/-- QUEUE_ENTRY: a sub-request wakes the lanes of a parked port (R175); one that a failed port or link meets ends FAIL_LINK (R189,
R410). -/
def execQueueEntry (p : Fin 20) (s : State) : Out :=
  onPort p s fun s =>
    if serial p.val && fld s SL_STAT_LSTATE p.val = 1 && pstate s p.val = .service && (portOf s p.val).sched.wait ≠ [] then
      setFld SL_STAT_LSTATE p.val 0 s
    else if portFails s p.val || (portOf s p.val).link.timedOut then
      match (portOf s p.val).sched.wait with
      | [] => s
      | r :: _ => deliver r.owner { bst := 2, sts := 7 } (removeWait p.val r.id s)
    else match enterable s p.val with
      | none => s
      | some r => (enterQueue p.val r s).getD s

/-! ### Return of a line (R225, R227) -/

/-- Deliver a flight's data with the burst error of its read; a far atomic's old value is the buffer's own (R181). -/
def landFlight (p : Nat) (f : Flight) (err : Burst) (s : State) : State :=
  let far := match f.req.kind with
    | .amo _ _ _ _ => true
    | _ => false
  let d := if far then ((if f.poison then Dec.poisoned else Dec.good), f.data) else decodeFlight s p f err
  let s1 := noteDecode p f.req.la d.1 orgDemand false s
  let s2 := notePoisonRead p f.req.la d.1 orgDemand s1
  deliver f.req.owner (decBeat d.1 d.2) s2

/-- A demand read in flight under its number comes back. -/
def returnFlight (p id : Nat) (err : Burst) (s : State) : State :=
  let demand (f : Flight) : Bool := f.id = id && (match f.req.kind with
    | .read => true
    | .amo _ _ _ _ => true
    | _ => false)
  match takeFlight p demand s with
  | none => s
  | some (f, s1) => landFlight p f err s1

/-- LINE_DATA_RETURN. (Log 108: DEDUCED.) -/
def execLineDataReturn (p : Fin 20) (id : Nat) (err : Burst) (s : State) : Out :=
  onPort p s (returnFlight p.val id err)

/-! ### Slots -/

/-- COMMAND_SLOT_SELECT (R95). (Log 77: DEDUCED.) -/
def execCommandSlotSelect (p : Fin 20) (sub : Fin 4) (off : BitVec 4) (s : State) : Out :=
  onPort p s (slotSelect p.val sub.val off.toNat)

/-- KG clocks have passed since the oldest command of the retry buffer executed (R152, R194). (Log 2: DESIGN CHOICE.) -/
def goodDue (s : State) (p : Nat) (i : Issued) : Bool :=
  let n := clocksPerTick s p
  i.at_ n + fld s DP_ALERT_KG p ≤ s.clk * n

/-- A command has reached the buffer: its packet has left the link retry buffer (R186). -/
def acked (s : State) (p : Nat) (i : Issued) : Bool :=
  !((portOf s p).link.retry.any fun x => match x with
    | .command l => l.any fun h => h.seq = i.seq
    | _ => false)

/-- COMMAND_KNOWN_GOOD (R152). -/
def execCommandKnownGood (p : Fin 20) (s : State) : Out :=
  onPort p s fun s =>
    if (portOf s p.val).dram.alertAt.isSome || (portOf s p.val).link.lost then s else
    match (portOf s p.val).sched.retry with
    | i :: _ => if goodDue s p.val i && acked s p.val i then goodOldest p.val s else s
    | [] => s

/-! ### Refresh (R100 to R102, R155) -/

/-- Refresh interval of a port's ranks in timebase edges; zero while no timing is loaded. -/
def refInterval (s : State) (p dimm : Nat) : Nat :=
  let base := fld s DP_T7_TREFI p / clocksPerTick s p
  let fine := if fineMode s p then base / 2 else base
  if bits (fld s PS_STAT_HOT p) dimm 1 = 1 then fine / 2 else fine

/-- Doubled refresh begins on a DIMM (R102). -/
def heat (p dimm : Nat) (s : State) : State :=
  setFld PS_STAT_HOT p (withBits (fld s PS_STAT_HOT p) dimm 1 1) (modSched p (fun q => { q with cool := mdel q.cool dimm }) s)

/-- A temperature unknown for more than one second counts as hot. -/
def staleHeat (p dimm : Nat) (s : State) : State :=
  if mgetD (portOf s p).dram.tempAt dimm 0 + 1000 * edgesMs < s.clk then heat p dimm s else s

/-- A rank's interval starts now with nothing owed. -/
def freshRank (now : Nat) (m : SMap RankSt) (k : Nat) : SMap RankSt :=
  let r := mgetD m k {}
  mput m k { r with start := now, owed := 0, pulled := 0, part := [], begun := false, forced := false }

/-- Every logical rank of the port starts a fresh interval with nothing owed (R155, R159). -/
def freshRanks (p : Nat) (s : State) : State :=
  let keys := ((List.range (subCount s p)).flatMap fun c => ranksOf s p c).map rankKey
  modSched p (fun q => { q with ranks := keys.foldl (freshRank s.clk) q.ranks }) s

/-- A rank's interval begins (R100, R101). -/
def rankDue (p k : Nat) (interval : Nat) (s : State) : State :=
  let r := rankSt s p k
  let s1 := if r.owed ≥ 1 then addFld PS_CNT0_POSTPONED p 1 s else s
  let s2 := modRank p k (fun x => { x with
    start := x.start + interval, pulled := x.pulled - 1, owed := if x.pulled > 0 then x.owed else x.owed + 1 }) s1
  forcedCheck p k s2

/-- A rank of the port as its two sub-channels see it. -/
def rankLocs (r : RankId) : List Loc :=
  [0, 1].map fun sc => { sub := 2 * r.ch.val + sc, dimm := r.dimm.val, prank := r.prank.val, cid := r.cid.val }

/-- The rank is fitted. -/
def rankThere (s : State) (p : Nat) (l : Loc) : Bool := (ranksOf s p l.sub).contains l && l.sub < subCount s p

/-- REFRESH_DUE. -/
def execRefreshDue (p : Fin 20) (rank : RankId) (s : State) : Out :=
  onPort p s fun s =>
    (rankLocs rank).foldl (fun t l =>
      if pstate t p.val ≠ .service || !rankThere t p.val l then t else
      let t1 := staleHeat p.val (dimmOf l) t
      let n := refInterval t1 p.val (dimmOf l)
      if n = 0 || t1.clk < (rankSt t1 p.val (rankKey l)).start + n then t1 else rankDue p.val (rankKey l) n t1) s

/-- HOT_RESTORE (R102). -/
def execHotRestore (p : Fin 20) (dimm : Fin 4) (s : State) : Out :=
  onPort p s fun s =>
    match mget (portOf s p.val).sched.cool dimm.val with
    | some t =>
      if t + 1000 * edgesMs ≤ s.clk then
        setFld PS_STAT_HOT p.val (withBits (fld s PS_STAT_HOT p.val) dimm.val 1 0)
          (modSched p.val (fun q => { q with cool := mdel q.cool dimm.val }) s)
      else s
    | none => s

/-! ### Row timeout (R96) -/

def locOfBank (sub : Nat) (b : BankId) : Loc :=
  { sub := sub, dimm := b.dimm.val, prank := b.prank.val, cid := b.cid.val, bg := b.bg.val, bank := b.bank.val }

/-- ROW_TIMEOUT_CLOSE. -/
def execRowTimeoutClose (p : Fin 20) (sub : Fin 4) (bank : BankId) (off : BitVec 4) (s : State) : Out :=
  onPort p s fun s =>
    let l := locOfBank sub.val bank
    let t := slotClk s p.val off.toNat
    if fld s PS_CTL_PAGE p.val ≠ 2 || !mayIssue s p.val || flg s TB_STAT_HOLD || clocksPerTick s p.val ≤ off.toNat then s else
    match openRow s p.val l, mget (subOf s p.val sub.val).lastCol (bankNo l) with
    | some row, some last =>
      let wanted := ((portOf s p.val).sched.queue ++ (portOf s p.val).sched.wait).any fun q =>
        sameRow (locOf s p.val q.la) { l with row := row }
      if wanted || s.clk + leadOf s p.val < last + fld s PS_CTL_PG_TMO p.val then s
      else if (select s p.val sub.val t).1.isSome || !ready s p.val sub.val .prePb { l with row := row } false t then s
      else issueOp p.val sub.val off.toNat .prePb { l with row := row } none false s
    | _, _ => s

/-! ### Training pauses (R103) -/

/-- A due refresh of the port is placeable or running its steps. -/
def refreshWaits (s : State) (p : Nat) : Bool :=
  let q := ranked s p
  (List.range (subCount s p)).any fun c => (ranksOf s p c).any fun l =>
    match jobOf s p l q with
    | some (rfm, _, _) => !rfm
    | none => false

/-- A refresh would become mandatory within n edges. -/
def wouldForce (s : State) (p n : Nat) : Bool :=
  (List.range (subCount s p)).any fun c => (ranksOf s p c).any fun l =>
    let r := rankSt s p (rankKey l)
    let i := refInterval s p (dimmOf l)
    let k := if i = 0 then 0 else (s.clk + n - r.start) / i
    postponeOf s p < r.owed + (k - r.pulled)

/-- No C0 request of the port is due within GUARD + n ticks of now. -/
def guardClear (s : State) (p n : Nat) : Bool :=
  let now := selNow s p
  ((portOf s p).sched.queue ++ (portOf s p).sched.wait).all fun q =>
    !(runClass q.attr = 0 && effDeadline s q.attr - now ≤ fld s PS_CTL_GUARD p + n)

def replaysClear (s : State) (p : Nat) : Bool :=
  let q := portOf s p
  q.sched.replay = [] && q.dram.alertAt.isNone && q.dram.alertRise.isNone

/-- The pause that falls due first. -/
def duePause (s : State) (p : Nat) : Option Pause :=
  (portOf s p).sched.pauses.find? fun x => x.due ≤ s.clk

/-- Begin a pause: gathering lines close first and complete (R232). -/
def beginPause (p : Nat) (x : Pause) (forced : Bool) (s : State) : State :=
  if (portOf s p).prot.merge ≠ [] then closeAll p s else
  let s1 := modDram p (fun d => { d with idleAt := s.clk })
    (modSched p (fun q => { q with pauses := q.pauses.erase x, pause := some (x, s.clk + x.len) }) s)
  if forced then addFld PS_CNT1_PFORCED p 1 s1 else s1

/-- The conditions that even a forced pause keeps; the measurements of the last tracking pause are in. -/
def pauseClear (s : State) (p : Nat) (x : Pause) : Bool :=
  pstate s p = .service && !pauseOn s p && ((portOf s p).sched.pause.all fun y => y.2 ≤ s.clk && 4 ≤ y.1.kind) && !wouldForce s p x.len && replaysClear s p && !refreshWaits s p

/-- TRAINING_PAUSE_START. -/
def execTrainingPauseStart (p : Fin 20) (s : State) : Out :=
  onPort p s fun s =>
    match duePause s p.val with
    | none => s
    | some x => if pauseClear s p.val x && guardClear s p.val x.len then beginPause p.val x false s else s

/-- PAUSE_FORCE. -/
def execPauseForce (p : Fin 20) (s : State) : Out :=
  onPort p s fun s =>
    match duePause s p.val with
    | none => s
    | some x =>
      if x.due + fld s PS_SLOT_PWAIT p.val * edgesMs ≤ s.clk && pauseClear s p.val x then beginPause p.val x true s else s

/-! ### Counters -/

/-- BR_MISS_CLEAR (R106). -/
def execBrMissClear (t : Fin 256) (v : BitVec 32) (s : State) : Out :=
  .next (if v.getLsbD 31 && !s.pw.inReset then setFld BR_MISS_MISS t.val 0 s else s)

/-- SCH_MISS_LOG_CLEAR (R108). -/
def execSchMissLogClear (v : BitVec 32) (s : State) : Out :=
  .next (if v.getLsbD 8 && !s.pw.inReset then setWord (SCH_MISS_LOG_VALID.off 0) 0 s else s)

/-- PS_CNT_CLEAR (R109). -/
def execPsCntClear (p : Fin 20) (v : BitVec 32) (s : State) : Out :=
  onPort p s fun s =>
    if v.getLsbD 0 && !s.pw.inReset then setWord (PS_CNT0_FORCED.off p.val) 0 (setWord (PS_CNT1_PROMOTED.off p.val) 0 s) else s

end Sys2Proof.Machine
end

