-- ==== Sys2Proof/Machine/PortCtl.lean ====
section
/-!
DEFINITION. What the states of a DRAM port do, shared by its enable, its self-refresh, its halts, its resets and its link
(chapters 6, 7 and 15).
-/

namespace Sys2Proof.Machine

/-! ### Ends of port transitions (R422, R423) -/

def portPwr (s : State) (p : Nat) : PortPwr := mgetD s.pw.ports p {}
def setPortPwr (p : Nat) (x : PortPwr) (s : State) : State := { s with pw := { s.pw with ports := mput s.pw.ports p x } }

/-- PP_STAT shows the transitions of the port. -/
def ppStat (p : Nat) (s : State) : State :=
  let x := portPwr s p
  let waiting := match x.pend with
    | some t => some t
    | none => x.cur.bind fun t => if t.run then none else some t
  let run := match x.cur with
    | some t => t.run
    | none => false
  let s1 := setFld PP_STAT_RUN p (if run then 1 else 0) s
  match waiting with
  | some t => setFld PP_STAT_PENDV p 1 (setFld PP_STAT_PEND p t.op.toNat s1)
  | none => setFld PP_STAT_PENDV p 0 (setFld PP_STAT_PEND p 0 s1)

/-- A transition completes for its source: a handle takes status and result (Table 13.4). -/
def srcDone (src : ReqOf) (sts result : Nat) (s : State) : State :=
  match src with
  | .handle k => endHandle k sts 0 result s
  | _ => s

/-- The running transition of a port completes; the pending one begins its preparation, and the planner runs (R388, R423). -/
def transEnd (p sts result : Nat) (s : State) : State :=
  let x := portPwr s p
  match x.cur with
  | none => s
  | some t =>
    if !t.run then s else
    let next := x.pend.map fun u => { u with start := s.clk }
    plan (ppStat p (srcDone t.src sts result (setPortPwr p { cur := next, pend := none } s)))

/-! ### Refusal of an enable, and service (R144, R145, R197) -/

def setPop (p v : Nat) (s : State) : State := setWord (0x200008 + p * 0x10000) v s

/-- The port is off: its domains go down and its signals rest (R408). -/
def portDown (p : Nat) (s0 : State) : State :=
  let s := setShed p 0 (loseDimms p (fun _ => true) s0)
  let s1 := modDram p (fun d => { d with enable := .none, pwrEn := none, prEnBall := false, drstN := false, dck := false, srAt := none,
                                         srCmd := false, alertAt := none, alertRise := none, holdReq := false, modeRegs := [] })
    (modSched p (fun q => { q with subs := [], ranks := [], raa := [], pauses := [], pause := none }) (setPstate p .off s))
  if serial p then
    setFld SL_STAT_WIDTH p 0 (setFld SL_STAT_LSTATE p 3 (setFld SL_STAT_RXLOCK p 0 (setFld SL_STAT_SPARE p 0
      (setFld SL_LANE_RX_MAP p 0xFFFFFFFF (setFld SL_LANE_TX_MAP p 0xFFFFFFFF (setFld TS_THETA_ALIGNED p 0
        (modMarks p (fun m => { m with t1 := none, lead := 0, leadNew := none, realign := false }) s1)))))))
  else s1

/-- The port is refused with a code of Table 6.3 or R198. -/
def refusePort (p err ch slot : Nat) (s : State) : State :=
  let s1 := setPop p 0 (setPopErr p err (portDown p s))
  let s2 := if serial p then setFld SP_STAT_POP_CH p ch (setFld SP_STAT_POP_SLOT p slot s1) else setFld DP_STAT_POP_SLOT p slot s1
  transEnd p 0x2E err (raise 9 s2 (some p))

/-- The port enters SERVICE: fresh refresh intervals, the idle time and the round start now. -/
def enterService (p : Nat) (s : State) : State :=
  let s1 := freshRanks p (setPstate p .service s)
  let s2 := modDram p (fun d => { d with enable := .none, idleAt := s.clk, srAt := none, srCmd := false, holdReq := false, dck := true }) s1
  let s3 := modTrain p (fun t => { t with roundDue := s.clk + fld s TR_CTL_PERIOD p * edgesMs }) s2
  transEnd p 0 0 (modProt p (fun q => { q with scrubDue := s.clk, passAt := s.clk }) s3)

/-! ### Self-refresh (R159, R160) -/

/-- Gathering lines and their read-modify-writes are done. -/
def mergeClear (s : State) (p : Nat) : Bool := (portOf s p).prot.merge = []

/-- Every rank enters self-refresh: owed refreshes, PREab and SRE have issued. DIMMs outside KEEP are shed where it says so. (Log 100: DEDUCED.) -/
def srEnter (p : Nat) (cmd shed : Bool) (s : State) : State :=
  let s1 := setPstate p .selfRefresh (freshRanks p (addFld DP_CNT1_SRE p 1 s))
  let s2 := modSched p (fun q => { q with subs := q.subs.map fun e =>
    (e.1, { e.2 with openRows := [], hits := [], lastCol := [] }) }) s1
  let stop := !serial p && flg s DP_SR_STOPCK p
  let s3 := modDram p (fun d => { d with srAt := some s.clk, srCmd := cmd, dck := !stop }) s2
  if !shed then s3 else
  let gone := present s3 p &&& (15 ^^^ (keepSet s3 p &&& 15))
  let s4 := if keepSet s3 p = 0 then modDram p (fun d => { d with prEnBall := false }) s3 else s3
  if gone = 0 then s4
  else loseDimms p (fun d => bits gone d 1 = 1) (setLost p (lostSet s4 p ||| gone) (setShed p (shedSet s4 p ||| gone) s4))

/-- Every rank leaves self-refresh: a fresh interval after tXS (R159). -/
def srExit (p : Nat) (s : State) : State :=
  let s1 := freshRanks p (setPstate p .service s)
  let busy := s.clk * clocksPerTick s p + fld s DP_T7_TXS p
  let s2 := modSched p (fun q => { q with ranks := q.ranks.map fun e => (e.1, { e.2 with busy := busy, cover := none }) }) s1
  modLink p (fun k => { k with srSelf := false })
    (modDram p (fun d => { d with srAt := none, srCmd := false, dck := true, idleAt := s.clk }) s2)

/-! ### Halts and failures (R153, R189, R427, R428) -/

/-- The port halts; its requests are held. -/
def portHalt (p cause : Nat) (s : State) : State :=
  let s1 := modSched p (fun q => { q with pause := none })
    (modDram p (fun d => { d with alertAt := none, alertRise := none }) (setPstate p .halted s))
  let s2 := if serial p then setFld SP_STAT_HCAUSE p cause s1 else setFld DP_STAT_HCAUSE p cause s1
  raise 11 s2 (some p)

/-- A far atomic whose result is lost is logged (Table 5.3). -/
def farLost (p : Nat) (q : SubReq) (s : State) : State :=
  match q.kind with
  | .amo _ _ _ _ => logPort p 0x0E 15 (some q.la) 0 s
  | _ => s

/-- One outstanding sub-request ends FAIL_LINK. -/
def failOne (p : Nat) (started : Bool) (s : State) (q : SubReq) : State :=
  let s1 := if started then farLost p q s else s
  match q.owner with
  | .rmw e => mergeDone p e 7 s1
  | .scrub => modProt p (fun t => { t with scrubOut := false }) s1
  | o => deliver o { bst := 2, sts := 7 } s1

/-- Everything queued or outstanding on the port ends FAIL_LINK; the number of items. -/
def failAll (p : Nat) (s : State) : Nat × State :=
  let c := (portOf s p).sched
  let started := c.flight.map (fun f => f.req) ++ c.retry.filterMap (fun i => i.req) ++ c.replay.filterMap (fun i => i.req)
  let waiting := c.queue ++ c.wait
  let open1 := (portOf s p).prot.merge.filterMap fun e => if e.2.closed then none else some e.1
  let s1 := modSched p (fun q => { q with wait := [], queue := [], retry := [], replay := [], flight := [], pause := none,
                                          subs := q.subs.map fun e => (e.1, { e.2 with openRows := [], hits := [], lastCol := [] }) }) s
  let s2 := started.foldl (failOne p true) s1
  let s3 := waiting.foldl (failOne p false) s2
  let s4 := open1.foldl (fun t e => mergeDone p e 7 t) s3
  (started.length + waiting.length + open1.length, s4)

/-- Trained values and marks of the port are cleared (R230, R428). -/
def clearTrained (p : Nat) (s : State) : State :=
  let s1 := engFld EC_MARK0_DEV p 0xFFFFFFFF (engFld EC_MARK1_DEV p 0xFFFFFFFF s)
  modProt p (fun q => { q with devCnt := [] }) (modTrain p (fun t => { t with items := [], quality := [] }) s1)

/-- The port is in service on a native serial link, or direct: it has training pauses and marks of its own. -/
def native (s : State) (p : Nat) : Bool := serial p && !cx2 s p

end Sys2Proof.Machine
end

