-- ==== Sys2Proof/Machine/PowerOps.lean ====
section
/-!
DEFINITION. Wakes, refusals and latencies of the engine states, and what the passing of time does (chapters 5 and 15).
-/

namespace Sys2Proof.Machine

def modPw (g : Power → Power) (s : State) : State := { s with pw := g s.pw }

/-! ### Time -/

/-- One edge of the 400 MHz clock (R110, R138). The count in E3 is kept exact; reads and comparisons there see the last coasted
step (`countNow`). -/
def tickStep (s : State) : State := { s with clk := s.clk + 1, count := s.count + 1 }

/-- The count as it reads now (R138). (Log 96: DEDUCED.) -/
def countNow (s : State) : BitVec 64 := if s.pw.st = 3 then s.count &&& ~~~31 else s.count

/-! ### Wake latencies (R419) -/

/-- tCKSRX + tXS of a port in ticks, rounded up. -/
def exitTicks (s : State) (p : Nat) : Nat :=
  let n := clocksPerTick s p
  (fld s DP_T8_TCKSRX p + fld s DP_T7_TXS p + n - 1) / n

/-- Ports in service (R474). -/
def servicePorts (s : State) : List Nat := (List.range 20).filter fun p => portImpl s.part.variant p && inService s p

def maxLead (s : State) : Nat := (servicePorts s).foldl (fun m p => max m (leadOf s p)) 0
def maxExit (s : State) : Nat := (servicePorts s).foldl (fun m p => max m (exitTicks s p)) 0

/-- Wake latency of an engine state. (Log 115: DEDUCED.) -/
def engineW (s : State) (st : Nat) : Nat :=
  match st with
  | 0 => 0
  | 1 => 16
  | 2 => 96 + maxLead s + maxExit s
  | _ => max (36000 + maxLead s + maxExit s) (if (servicePorts s).any fun p => cx2 s p then 60000 + maxExit s else 0)

/-- Wake latency of a port's present state. -/
def portW (s : State) (p : Nat) : Nat :=
  if pstate s p = .selfRefresh then
    exitTicks s p + (if serial p && fld s SL_STAT_LSTATE p = 1 then 80 + leadOf s p else 0)
  else if pstate s p = .service && serial p && fld s SL_STAT_LSTATE p = 1 then 80 else 0

/-! ### Transitions of the engine (R413, R414, R421) -/

/-- PWR_STAT shows the state and the transitions. (Log 63: DEDUCED.) -/
def pwrStat (s : State) : State :=
  let prep := match s.pw.cur with
    | some t => !t.run
    | none => false
  let run := s.pw.exit.isSome || (match s.pw.cur with
    | some t => t.run
    | none => false)
  let s1 := setFld PWR_STAT_STATE 0 s.pw.st.toNat (setFld PWR_STAT_PREP 0 (if prep then 1 else 0) (setFld PWR_STAT_RUN 0 (if run then 1 else 0) s))
  match s.pw.pend with
  | some t => setFld PWR_STAT_PENDV 0 1 (setFld PWR_STAT_PEND 0 t.tgt.toNat s1)
  | none => setFld PWR_STAT_PENDV 0 0 (setFld PWR_STAT_PEND 0 0 s1)

/-- A refused or aborted entry (R414). -/
def recordRef (code tgt unit : Nat) (abort : Bool) (s : State) : State :=
  raise 38 (addFld PWR_REF_CNT 0 1 (setFld PWR_REF_CODE 0 code (setFld PWR_REF_TGT 0 tgt (setFld PWR_REF_UNIT 0 unit
    (setFld PWR_REF_ABORT 0 (if abort then 1 else 0) s)))))

/-- The pending request begins its preparation. -/
def nextTrans (s : State) : State :=
  modPw (fun w => { w with cur := w.pend.map (fun t => { t with start := s.clk }), pend := none }) s

/-- What the preparation of E3 took is given back: tallies, the ring stop (R413). -/
def undoPrep (s : State) : State :=
  modHome (fun h => { h with drain := false }) (setFld HOME_STAT_DRAIN 0 0
    (((List.range 32).filter fun n => flg s FP_CTL_EN n && fabImpl s.part.variant n).foldl (fun t n =>
      if (fabOf t n).granted then t else grantTallies n t) s))

/-- The preparation in progress ends with a refuser's code. -/
def refusePrep (code : Nat) (abort : Bool) (s : State) : State :=
  match s.pw.cur with
  | none => s
  | some t => pwrStat (nextTrans (undoPrep (srcDone t.src 0x25 code (recordRef code t.tgt.toNat 0 abort s))))

/-- A wake arrives (R413, R420, R421); `bit` is its place in PWR_WCAUSE, if it is a source of Table 15.6. -/
def wakeBy (bit : Option Nat) (s : State) : State :=
  let mark (t : State) : State := match bit with
    | some b => setFld PWR_WCAUSE_CAUSE 0 (fld t PWR_WCAUSE_CAUSE ||| 2 ^ b) t
    | none => t
  match s.pw.cur with
  | some t =>
    if t.tgt = 2 || t.tgt = 3 then
      (if t.run then mark (modPw (fun w => { w with cur := some { t with wake := true } }) s) else mark (refusePrep 0xB true s))
    else s
  | none =>
    if s.pw.exit.isSome then s
    else if s.pw.st = 1 then pwrStat (mark (active s))
    else if s.pw.st = 2 || s.pw.st = 3 then pwrStat (mark (modPw (fun w => { w with exit := some (w.st, s.clk) }) s))
    else s

/-- A wake source of the given bit arrives. -/
def wake (bit : Nat) (s : State) : State := wakeBy (some bit) s

end Sys2Proof.Machine
end

