-- ==== Sys2Proof/Machine/Timebase.lean ====
section
/-!
DEFINITION. The timebase, its steps, time marks, launches and the alarm (chapter 5).
-/

namespace Sys2Proof.Machine

def modTb (g : Timebase → Timebase) (s : State) : State := { s with tb := g s.tb }

/-- TB_COUNT_READ (R111). -/
def execTbCountRead (s : State) : Out :=
  .next (if s.pw.inReset then s else setFld TB_COUNT_HI_CNT 0 (bits (countNow s).toNat 32 32) s)

/-! ### Time steps (R114 to R116) -/

def presetOf (s : State) : Nat := fld s TB_PRESET_LO_VAL + fld s TB_PRESET_HI_VAL * 2 ^ 32

/-- Native serial ports in SERVICE: a step puts their buffers in self-refresh and aligns them. -/
def stepPorts (s : State) : List Nat :=
  (List.range 20).filter fun p => portImpl s.part.variant p && native s p && pstate s p = .service

/-- Every stamped command has executed. -/
def stampsDone (s : State) : Bool := (stepPorts s).all fun p => (portOf s p).sched.retry.all fun i => i.clk ≤ s.clk

/-- Hold DRAM work for requests; serial buffers enter self-refresh. -/
def stepHold (s : State) : State :=
  (stepPorts s).foldl (fun t p =>
    modLink p (fun k => { k with srSelf := true }) (modSched p (fun q => { q with subs := q.subs.map fun e =>
      (e.1, { e.2 with openRows := [], hits := [], lastCol := [] }) }) (addFld DP_CNT1_SRE p 1 t))) (setFld TB_STAT_HOLD 0 1 s)

/-- The step ends once every port is aligned. -/
def stepFinish (s : State) : State :=
  if s.tb.step ≠ .loaded || !(stepPorts s).all fun p => flg s TS_THETA_ALIGNED p then s else
  let s1 := (stepPorts s).foldl (fun t p => srExit p t) s
  raise 3 (setFld TB_STAT_HOLD 0 0 (setFld TB_STAT_ARMED 0 0 (modTb (fun b => { b with step := .none }) s1)))

/-- Step 4 begins: every serial port's copy is aligned again. -/
def stepAlign (s : State) : State :=
  stepFinish ((stepPorts s).foldl (fun t p =>
    setFld TS_THETA_ALIGNED p 0 (modMarks p (fun m => { m with t1 := none, due := s.clk }) t))
      (modTb (fun b => { b with step := .loaded }) s))

def shiftAttr (d : Int) (a : ReqAttr) : ReqAttr :=
  { a with accept := a.accept + d, base := a.base + d, deadline := a.deadline.map fun x => x + d }
def shiftReq (d : Int) (q : SubReq) : SubReq := { q with attr := shiftAttr d q.attr }
def shiftIssued (d : Int) (i : Issued) : Issued := { i with req := i.req.map (shiftReq d) }
def shiftPort (d : Int) (q : Port) : Port :=
  { q with
    sched := { q.sched with
      wait := q.sched.wait.map (shiftReq d), queue := q.sched.queue.map (shiftReq d),
      flight := q.sched.flight.map fun f => { f with req := shiftReq d f.req },
      replay := q.sched.replay.map (shiftIssued d), retry := q.sched.retry.map (shiftIssued d) }
    prot := { q.prot with merge := q.prot.merge.map fun e => (e.1, { e.2 with attr := shiftAttr d e.2.attr }) }
    streams := q.streams.map fun x => { x with t := x.t + d, attrs := x.attrs.map fun e => (e.1, shiftAttr d e.2) } }

/-- The count takes a new value; every stored tick moves with it (R115). -/
def loadCount (v : BitVec 64) (s : State) : State :=
  let d : Int := (v.toNat : Int) - s.count.toNat
  let s1 : State := { s with
    count := v
    fab := s.fab.map fun e => (e.1, { e.2 with reqs := e.2.reqs.map fun r => { r with attr := shiftAttr d r.attr } })
    ports := s.ports.map fun e => (e.1, shiftPort d e.2)
    home := { s.home with reqs := s.home.reqs.map fun r => { r with attr := shiftAttr d r.attr } }
    lant := { s.lant with ctx := s.lant.ctx.map fun e => (e.1, { e.2 with acc := e.2.acc.map fun a => { a with attr := shiftAttr d a.attr } }) }
    host := { s.host with handles := s.host.handles.map fun e =>
      (e.1, { e.2 with accept := e.2.accept + d, attr := shiftAttr d e.2.attr }) } }
  setFld TB_STAT_SET 0 1 s1

/-- A write of TB_STEP.GO = 0b01 or 0b10 (R114, R116). -/
def stepStart (armed : Bool) (s : State) : State :=
  if s.pw.inReset then s
  else if s.tb.launches ≠ [] || s.tb.step ≠ .none then setFld TB_STAT_STEP_REF 0 1 s
  else if armed then modTb (fun b => { b with step := .armed }) (stepHold s)
  else modTb (fun b => { b with step := .soft }) (stepHold s)

/-- The armed step is in place: it waits for EPOCH. -/
def arm (s : State) : State :=
  if s.tb.step = .armed && !flg s TB_STAT_ARMED && stampsDone s then
    setFld TB_STAT_ARMED 0 1 (modTb (fun b => { b with armEnd := s.clk + fld s TB_FED_ARM_TMO * edgesMs }) s)
  else s

/-- SOFT_STEP. -/
def execSoftStep (s : State) : Out := .next (settle (stepStart false s))

/-- ARM_EPOCH_STEP. -/
def execArmEpochStep (s : State) : Out := .next (settle (arm (stepStart true s)))

/-- The armed step is abandoned: the count stays, and the step resumes at its end; a FED_TIME_SET ARM times out (R364). -/
def stepAbandon (s : State) : State :=
  if s.tb.step ≠ .armed then s else
  let s1 := match s.tb.fedArm with
    | some (k, _) => endHandle k 8 0 0 (modTb (fun b => { b with fedArm := none }) s)
    | none => s
  stepAlign (setFld TB_STAT_ARMED 0 0 s1)

/-- ABANDON_STEP. -/
def execAbandonStep (s : State) : Out := .next (settle (stepAbandon s))

/-- STEP_LOAD: the stamped commands have executed; a soft step loads, an EPOCH step is armed. -/
def execStepLoad (s : State) : Out :=
  .next (settle (
    if !stampsDone s then s
    else match s.tb.step with
      | .soft => stepAlign (loadCount (BitVec.ofNat 64 (presetOf s)) s)
      | .armed => arm s
      | _ => s))

/-- STEP_ARM_TIMEOUT. -/
def execStepArmTimeout (s : State) : Out :=
  .next (settle (
    if s.tb.step = .armed && flg s TB_STAT_ARMED && s.tb.armEnd ≤ s.clk then setFld TB_STAT_ARM_TMO 0 1 (stepAbandon s) else s))

/-! ### EPOCH (R117 to R119) -/

/-- The expected value at the load edge. -/
def epochValue (s : State) : BitVec 64 := BitVec.ofInt 64 ((presetOf s : Int) + asSigned 16 (fld s TB_EADJ_ADJ))

def saturate (lo hi x : Int) : Int := if x < lo then lo else if hi < x then hi else x

/-- What edge k + 2 of a pulse records and does. -/
def epochEdge (phase : Nat) (s : State) : State :=
  let c := s.count.toNat % 2 ^ 32
  let s1 := setFld TB_ECNT_CNT 0 c (setFld TB_ECAP_PHASE 0 phase (setFld TB_ECAP_VALID 0 1 s))
  if flg s TB_FED_CHECK then
    let d := saturate (-32768) 32767 (asSigned 32 ((c + 2 ^ 32 - (epochValue s).toNat % 2 ^ 32) % 2 ^ 32))
    let s2 := setFld TB_ECAP_DIFF 0 (BitVec.ofInt 16 d).toNat s1
    if d.natAbs > fld s TB_FED_CHK_TOL then raise 4 (setFld TB_STAT_SLIP 0 1 s2) else s2
  else
    let s2 := loadCount (epochValue s) s1
    let s3 := match s.tb.fedArm with
      | some (k, f) =>
        let e : Int := asSigned 12 f - 16 * phase
        endHandle k 0 0 (BitVec.ofInt 64 e).toNat (modTb (fun b => { b with fedArm := none, fedE := some e }) s2)
      | none => s2
    stepAlign (setFld TB_STAT_ARMED 0 0 s3)

/-- EPOCH_PULSE_IN: a pulse of that width, in ticks, whose edge lies phase / 64 tick after the present edge. The machine is at
edge k + 2 afterwards. -/
def execEpochPulseIn (phase : BitVec 6) (width : Nat) (s : State) : Out :=
  .next (settle (
    if s.pw.inReset || s.pw.st.toNat ≥ 3 || width < 4 || s.clk < s.tb.epochBlind || (!flg s TB_FED_CHECK && !flg s TB_STAT_ARMED) then s
    else epochEdge phase.toNat (tickStep (tickStep (modTb (fun b => { b with epochBlind := s.clk + 4096 }) s)))))

/-- Drive EPOCH_OUT for eight ticks from the next edge. -/
def epochPulse (s : State) : State :=
  if !flg s TB_FED_EOUT_EN || s.clk < s.tb.epochOut then s
  else modTb (fun b => { b with epochOut := s.clk + 9, epochPulses := b.epochPulses + 1 }) s

/-- EPOCH_PULSE_OUT. -/
def execEpochPulseOut (v : BitVec 32) (s : State) : Out := .next (if v.getLsbD 0 && !s.pw.inReset then epochPulse s else s)

/-! ### Time marks (R122 to R124) -/

/-- The link of a native port is up. (Log 103: DEDUCED.) -/
def linkUp (s : State) (p : Nat) : Bool :=
  native s p && fld s SL_STAT_WIDTH p ≠ 0 && fld s SL_STAT_LSTATE p ≤ 1 && pstate s p ≠ .off && pstate s p ≠ .link
    && (pstate s p ≠ .linkDown || (portOf s p).link.relinked)

/-- TIME_MARK_START. -/
def execTimeMarkStart (p : Fin 20) (fine : BitVec 8) (s : State) : Out :=
  onPort p s fun s =>
    let m := (portOf s p.val).marks
    if !linkUp s p.val || m.t1.isSome || s.clk < m.due then s else
    sendPacket p.val (.mark 0 0)
      (modMarks p.val (fun x => { x with t1 := some (s.count.toNat * 256 + fine.toNat), void := false,
                                         due := s.clk + 2 ^ (10 + fld s TS_CTL_PERIOD p.val) }) s)

/-- A time word of an answer: tick [23:0], then 8 fine bits, in fine units. -/
def markWord (t : BitVec 32) : Int := bits t.toNat 0 24 * 256 + bits t.toNat 24 8

/-- The port is aligned: a port in ALIGN or LINK_DOWN goes on, and so does a time step. -/
def alignedNow (p : Nat) (s : State) : State :=
  let d := (portOf s p).dram
  let s1 := match pstate s p with
    | .align => setPstate p .power (modDram p (fun x => { x with pwrEn := some s.clk, prEnBall := true }) s)
    | .linkDown =>
      let s2 := modLink p (fun k => { k with lost := false, timedOut := false }) s
      let was := pstateOf p (portOf s p).link.was
      if was ≠ .service && was ≠ .selfRefresh then setPstate p was s2
      else if d.srAt.isSome then setPstate p .selfRefresh s2
      else if (portOf s p).link.srSelf || (portOf s p).link.timedOut then srExit p s2
      else setPstate p .service s2
    | _ => s
  stepFinish s1

/-- The lead that an exchange asks for (R124). -/
def leadFor (s : State) (p : Nat) (rtt a : Int) : Nat :=
  min 1023 (60 + (-((-(rtt + a)) / 512)).toNat + fld s TS_CTL_MARGIN p)

def setLead (p l : Nat) (s : State) : State := setFld TS_LEAD_LEAD p l (modMarks p (fun m => { m with lead := l, leadNew := none }) s)

/-- An exchange is complete: the port is aligned or realigns (R123). -/
def markDone (p : Nat) (t1 t2 t3 t4 : Int) (s : State) : State :=
  let a := asSigned 16 (fld s TS_ASYM_A p)
  let fwd := asSigned 32 ((t2 - t1) % 2 ^ 32).toNat
  let rev := asSigned 32 ((t4 - t3) % 2 ^ 32).toNat
  let rtt := fwd + rev
  let twice := fwd - rev - a
  let f := drawFree s
  let theta := if twice % 2 = 0 then twice / 2 else twice / 2 + (f.1 % 2 : Nat)
  let s0 := if twice % 2 = 0 then s else f.2
  let dfwd := (-((-(rtt + a)) / 512)).toNat
  let s1 := setFld TS_MEAS_RTT p (min rtt.toNat 65535) (setFld TS_MEAS_DFWD p (min dfwd 255)
    (setFld TS_THETA_THETA p (BitVec.ofInt 16 (saturate (-32768) 32767 theta)).toNat s0))
  let l := leadFor s1 p rtt a
  let s2 := if l > (portOf s1 p).marks.lead then setLead p l s1
    else modMarks p (fun m => { m with leadNew := if l < m.lead then some l else none }) s1
  let s3 := modMarks p (fun m => { m with t1 := none }) s2
  if theta.natAbs ≤ fld s3 TS_CTL_TOL p then
    let step : Int := if theta = 0 then 0 else if theta > 0 then -1 else 1
    let s4 := if step = 0 then s3 else sendPacket p (.mark 2 step) s3
    let s5 := if (portOf s4 p).marks.realign then addFld TS_CNT1_REALIGN p 1 s4 else s4
    alignedNow p (setFld TS_THETA_ALIGNED p 1 (modMarks p (fun m => { m with realign := false }) s5))
  else
    let quiet := (portOf s3 p).sched.retry.foldl (fun x i => max x i.clk) s3.clk
    sendPacket p (.mark 2 (-theta)) (raise 6 (setFld TS_THETA_ALIGNED p 0
      (modMarks p (fun m => { m with realign := true, due := quiet }) s3)) (some p))

/-- TIME_MARK_ANSWER; a void exchange starts again at once (R182). -/
def execTimeMarkAnswer (p : Fin 20) (t2 : BitVec 32) (t3 : BitVec 32) (fine : BitVec 8) (replayed : Bool) (s : State) : Out :=
  onPin p s fun s =>
    match (portOf s p.val).marks.t1 with
    | none => s
    | some t1 =>
      if !linkUp s p.val then s
      else if replayed || (portOf s p.val).marks.void then modMarks p.val (fun m => { m with t1 := none, due := s.clk, void := false }) s
      else markDone p.val t1 (markWord t2) (markWord t3) (s.count.toNat * 256 + fine.toNat) s

/-- TS_CNT_CLEAR (R140). -/
def execTsCntClear (p : Fin 20) (v : BitVec 32) (s : State) : Out :=
  onPort p s fun s =>
    if v.getLsbD 0 && native s p.val && !s.pw.inReset then setWord (TS_CNT0_LATE.off p.val) 0 (setWord (TS_CNT1_REALIGN.off p.val) 0 s) else s

/-! ### Launches (R130 to R135) -/

/-- Port of a port action: the port index; 0x1F is the engine. -/
def Act.isPort (a : Act) : Bool := a.port ≠ 0x1F

/-- An action record of four words (R131). -/
def actOf (w0 w1 w2 w3 : W64) : Act :=
  { act := w0.extractLsb' 0 4, port := w0.extractLsb' 4 5, off := w0.extractLsb' 9 4, w1 := w1, w2 := w2, w3 := w3 }

def streamLocal (a : Act) : Nat := bits a.w1.toNat 0 41
def streamLines (a : Act) : Nat := bits a.w2.toNat 0 32
def streamPeriod (a : Act) : Nat := bits a.w2.toNat 32 16
def streamPre (a : Act) : Nat := bits a.w2.toNat 48 16
def streamAllow (a : Act) : Nat := bits a.w3.toNat 0 16
def streamStall (a : Act) : Nat := bits a.w3.toNat 16 15
def streamTkt (a : Act) : Nat := bits a.w3.toNat 32 8

/-- Capacity in service (R241). -/
def capInG (s : State) (p : Nat) : Nat := capG s p - (if fld s RM_CTL_LOC p = 2 then 1 else 0)

/-- A record keeps to Table 5.4 (status LN_BAD otherwise). (Log 97: DEDUCED.) -/
def actGood (s : State) (a : Act) : Bool :=
  let p := a.port.toNat
  let onPort := p < 20 && a.off.toNat < clocksPerTick s p
  let onEngine := p = 31 && a.off = 0
  match a.act.toNat with
  | 1 =>
    onPort && a.w1.toNat < 2 ^ 41 && streamLocal a % 64 = 0 && 0 < streamLines a && 0 < streamPeriod a
      && bits a.w3.toNat 31 1 = 0 && a.w3.toNat < 2 ^ 40
      && streamLocal a + 64 * streamLines a ≤ capInG s p * 2 ^ 30 && (stallOf s (streamStall a)).prod = 0x24
  | 2 => onPort && 0 < a.w1.toNat && a.w1.toNat < 2 ^ 32 && a.w2 = 0 && a.w3 = 0
  | 3 => onPort && a.w1 = 0 && a.w2 = 0 && a.w3 = 0
  | 4 =>
    onEngine && bits a.w1.toNat 15 1 = 0 && a.w1.toNat < 2 ^ 31 && a.w2 = 0 && a.w3 = 0 && bits a.w1.toNat 0 15 ≠ bits a.w1.toNat 16 15
  | 5 => onEngine && a.w1 = 0 && a.w2 = 0 && a.w3 = 0
  | 6 => onEngine && a.w1 = 0 && a.w2 = 0 && a.w3 = 0
  | _ => false

/-- A record names an absent port or stall. -/
def actAbsent (s : State) (a : Act) : Bool :=
  let p := a.port.toNat
  let n := stallCount s.part.variant
  (1 ≤ a.act.toNat && a.act.toNat ≤ 3 && p < 20 && !portImpl s.part.variant p)
    || (a.act = 1 && streamStall a ≥ n)
    || (a.act = 4 && (bits a.w1.toNat 0 15 ≥ n || bits a.w1.toNat 16 15 ≥ n))

/-- The earliest tick that a launch may name (R132). -/
def launchMin (s : State) (l : List Act) : Nat :=
  let ports := (l.filter fun a => a.port.toNat < 20).map fun a => a.port.toNat
  let w := ports.foldl (fun m p => max m (portW s p)) (engineW s s.pw.st.toNat)
  s.count.toNat + fld s TB_LCTL_SETUP + ports.foldl (fun m p => max m (leadOf s p)) 0 + w

/-- Status of Table 5.5 for a launch; `bad` says that the header or a reserved bit of word 0 is not as R130 and R131 state. -/
def launchStatus (s : State) (t : W64) (bad : Bool) (l : List Act) : Nat :=
  let held := s.tb.launches.foldl (fun n e => n + e.2.acts.length) 0
  if l.any (actAbsent s) then 6
  else if t.toNat < launchMin s l then 1
  else if s.tb.launches.length ≥ 8 || held + l.length > 64 then 2
  else if bad || l = [] || l.length > 16 || !l.all (actGood s) then 3
  else if s.tb.step ≠ .none then 4
  else if l.any fun a => a.port.toNat < 20 && !inService s a.port.toNat then 5
  else 0

/-- TB_LSTAT.PEND shows the pending launches. -/
def launchStat (s : State) : State :=
  setFld TB_LSTAT_PEND 0 ((List.range 8).foldl (fun m k => if (mget s.tb.launches k).isSome then m + 2 ^ k else m) 0) s

/-- A launch is accepted or refused: the value that LAUNCH returns, and the state. -/
def launchTake (t : W64) (bad : Bool) (l : List Act) (s : State) : Nat × State :=
  match launchStatus s t bad l with
  | 0 =>
    let k := ((List.range 8).find? fun k => (mget s.tb.launches k).isNone).getD 0
    (16 * k, launchStat (modTb (fun b => { b with launches := mput b.launches k { t := t, acts := l } }) s))
  | n => (n, addFld TB_LSTAT_REFUSED 0 1 s)

/-- Banks that the hold of an action takes: its first command's (R133). -/
def holdBanks (s : State) (a : Act) : List (Nat × Nat) :=
  let p := a.port.toNat
  match a.act.toNat with
  | 1 => let l := locOf s p (streamLocal a); [(l.sub, bankNo l)]
  | 3 => (List.range (subCount s p)).flatMap fun c => (ranksOf s p c).flatMap fun l =>
      (List.range 32).map fun b => (c, bankNo { l with bg := b / 4, bank := b % 4 })
  | _ => []

/-- A line of a stream enters its port's queue (R133). (Log 99: DEDUCED.) -/
def streamEnter (p : Nat) (x : Stream) (s : State) : State :=
  let k := x.entered
  let dl : Int := x.t + k * streamPeriod x.act + streamAllow x.act
  let b := bind (streamTkt x.act) (some dl) none s
  let i := newId b.2
  let r : SubReq := { id := i.1, owner := .stream p x.id k, la := streamLocal x.act + 64 * k, kind := .read, attr := b.1 }
  let note (y : Stream) : Stream := if y.id = x.id then { y with entered := k + 1, attrs := mput y.attrs k b.1 } else y
  let s1 := modPort p (fun q => { q with streams := q.streams.map note }) i.2
  if portFails s1 p || (portOf s1 p).link.timedOut then deliver r.owner { bst := 2, sts := 7 } s1
  else match enterQueue p r s1 with
    | some s2 => s2
    | none => modSched p (fun q => { q with wait := q.wait ++ [r] }) s1

/-- The hold of action i of launch l begins; a stream's line 0 enters. (Log 98: DEDUCED.) -/
def holdAct (l i : Nat) (t : BitVec 64) (a : Act) (s : State) : State :=
  let p := a.port.toNat
  let s1 := modSched p (fun q => { q with launchHold := q.launchHold ++ (holdBanks s a).map fun b => (b.1, b.2, 16 * l + i) }) s
  if a.act ≠ 1 then s1 else
  let x : Stream := { id := (portOf s1 p).nextStream, t := t.toNat, act := a }
  streamEnter p x (modPort p (fun q => { q with streams := q.streams ++ [x], nextStream := q.nextStream + 1 }) s1)

def setAct (l i : Nat) (a : Act) (s : State) : State :=
  modTb (fun b => { b with launches := mmod b.launches l fun x => { x with acts := x.acts.set i a } }) s

/-- Actions of a launch with their indices. -/
def actsOf (s : State) (l : Nat) : List (Nat × Act) :=
  match mget s.tb.launches l with
  | none => []
  | some x => x.acts.mapIdx fun i a => (i, a)

def launchT (s : State) (l : Nat) : BitVec 64 := ((mget s.tb.launches l).map fun x => x.t).getD 0

/-- LAUNCH_HOLD: the holds that are due at execution tick T - SETUP begin. -/
def execLaunchHold (l : Fin 8) (s : State) : Out :=
  .next (settle ((actsOf s l.val).foldl (fun u e =>
    let a := e.2
    let t := launchT u l.val
    if a.held || a.started || !a.isPort || u.count.toNat + leadOf u a.port.toNat + fld u TB_LCTL_SETUP < t.toNat then u
    else holdAct l.val e.1 t a (setAct l.val e.1 { a with held := true } u)) s))

/-- An action starts late (R134). -/
def launchSlip (s : State) : State := raise 8 (addFld TB_LSTAT_SLIPS 0 1 s)

/-- The first command of a stream takes the slot at T and OFF, unless R134 delays it. -/
def streamStart (a : Act) (s : State) : State :=
  let p := a.port.toNat
  let l := locOf s p (streamLocal a)
  let t := slotClk s p a.off.toNat
  let first := (portOf s p).sched.queue.find? fun q => sameRow (locOf s p q.la) l
  let mine := match first with
    | some q => (match q.owner with
      | .stream _ _ k => k = 0
      | _ => false)
    | none => false
  let rep := (portOf s p).sched.replay.any fun i => i.loc.sub = l.sub && sameBank i.loc l
  if mine && !rep && mayIssue s p && (openRow s p l).isNone && !bankHeld s p l t && ready s p l.sub .act l false t
  then rfmDue p l (issueOp p l.sub a.off.toNat .act l none false s)
  else launchSlip s

/-- A rank's next due or pull-in refresh may start, within PULLIN. -/
def refNowRank (p : Nat) (t : State) (l : Loc) : State :=
  let r := rankSt t p (rankKey l)
  if 0 < r.owed || fld t PS_SLOT_PULLIN p ≤ r.pulled then t
  else modRank p (rankKey l) (fun x => { x with owed := 1, pulled := x.pulled + 1 }) t

/-- REF_NOW: each rank's next due or pull-in refresh may start (Table 5.4). -/
def refNow (p : Nat) (s : State) : State :=
  ((List.range (subCount s p)).flatMap fun c => ranksOf s p c).foldl (refNowRank p) s

/-- What an action does at T. -/
def startAct (l i : Nat) (a : Act) (s : State) : State :=
  let p := a.port.toNat
  let free (t : State) : State := modSched p (fun q => { q with launchHold := q.launchHold.filter fun h => h.2.2 ≠ 16 * l + i }) t
  match a.act.toNat with
  | 1 => streamStart a (free s)
  | 2 => modSched p (fun q => { q with refHold := s.clk + leadOf s p + a.w1.toNat }) s
  | 3 => let s1 := refNow p (free s); if mayIssue s1 p then s1 else launchSlip s1
  | 4 => modTb (fun b => { b with switches := b.switches ++ [(bits a.w1.toNat 0 15, bits a.w1.toNat 16 15)] }) s
  | 5 => raise 7 s
  | _ => epochPulse s

/-- A launch is no longer pending: the idle time of the ports that it named starts now (R159). -/
def launchDrop (l : Nat) (s : State) : State :=
  let acts := ((mget s.tb.launches l).map fun x => x.acts).getD []
  let s1 := acts.foldl (fun t a => if a.isPort then modDram a.port.toNat (fun d => { d with idleAt := t.clk }) t else t) s
  launchStat (modTb (fun b => { b with launches := mdel b.launches l }) s1)

/-- A launch none of whose actions is left to start is over. -/
def launchEnd (l : Nat) (s : State) : State :=
  match mget s.tb.launches l with
  | none => s
  | some x => if x.acts.all fun a => a.started then launchDrop l s else s

/-- LAUNCH_START: the actions whose slot at T is selected now start. -/
def execLaunchStart (l : Fin 8) (s : State) : Out :=
  .next (settle (launchEnd l.val ((actsOf s l.val).foldl (fun u e =>
    let a := e.2
    let t := launchT u l.val
    let lead := if a.isPort then leadOf u a.port.toNat else 0
    if a.started || (a.isPort && !a.held) || u.count.toNat + lead < t.toNat then u
    else startAct l.val e.1 a (setAct l.val e.1 { a with started := true } u)) s)))

/-- REF_HOLD_END. -/
def execRefHoldEnd (p : Fin 20) (s : State) : Out :=
  onPort p s fun s => if (portOf s p.val).sched.refHold ≤ s.clk then modSched p.val (fun q => { q with refHold := 0 }) s else s

/-- STREAM_LINE_ENTER: the first stream of the port whose next line is k, if that line is due. -/
def execStreamLineEnter (p : Fin 20) (k : Nat) (s : State) : Out :=
  onPort p s fun s =>
    match (portOf s p.val).streams.find? fun x => x.entered = k && k < streamLines x.act
        && x.t + k * streamPeriod x.act - streamPre x.act ≤ tick s with
    | some x => streamEnter p.val x s
    | none => s

/-- A cancelled launch: actions without a hold do not start, and held banks are free (R135). -/
def launchCancel (l : Nat) (s : State) : State :=
  match mget s.tb.launches l with
  | none => s
  | some x =>
    let drop (a : Act) : Act := if a.held then a else { a with started := true }
    let s1 := modTb (fun b => { b with launches := mput b.launches l { x with acts := x.acts.map drop } }) s
    let s2 := (List.range 20).foldl (fun t p => if (portOf t p).sched.launchHold = [] then t else
      modSched p (fun q => { q with launchHold := q.launchHold.filter fun h => h.2.2 / 16 ≠ l }) t) s1
    launchEnd l s2

/-- LAUNCH_CANCEL. -/
def execLaunchCancel (v : BitVec 32) (s : State) : Out :=
  .next (if v.getLsbD 3 && !s.pw.inReset then settle (launchCancel (bits v.toNat 0 3) s) else s)

/-- LAUNCH_SELF_WAKE (R136). -/
def execLaunchSelfWake (s : State) : Out :=
  .next (settle (
    let st := s.pw.st.toNat
    if st = 0 || st > 3 then s
    else if s.tb.launches.any fun e => e.2.t.toNat ≤ (countNow s).toNat + fld s TB_LCTL_SETUP + maxLead s + engineW s st + 4096
    then wake 5 s else s))

/-! ### Stall switch (R281) -/

/-- The conditions of a switch from stall a to stall b. -/
def switchOk (s : State) (a b : Nat) : Bool :=
  let x := stallOf s a
  let y := stallOf s b
  x.st = .on && y.st = .on && y.o = 0 && y.gout = 0 && y.count = 0 && y.part.isNone
    && x.prod = y.prod && x.ctrl = y.ctrl && x.rew = y.rew && x.size ≤ y.size

/-- STALL_SWITCH: the switch of stall a that waits takes place once a has no open packet. -/
def execStallSwitch (a : BitVec 15) (s : State) : Out :=
  .next (settle (
    match s.tb.switches.find? fun x => x.1 = a.toNat with
    | none => s
    | some x =>
      if (stallOf s a.toNat).pktOpen then s else
      let s1 := modTb (fun b => { b with switches := b.switches.erase x }) s
      if !switchOk s1 x.1 x.2 then stallErr 6 x.1 0 s1
      else
        let g := (stallOf s1 x.1).gout
        modStall x.1 (fun y => { y with gout := 0, redir := some (BitVec.ofNat 15 x.2) })
          (modStall x.2 (fun y => { y with gout := g }) s1)))

/-! ### The alarm (R137) -/

/-- TB_ALARM_WRITE: register 0 is TB_ALARM_LO, 1 TB_ALARM_HI, 2 TB_ALARM_CTL. -/
def writeAlarm (reg : Nat) (v : Word) (s : State) : State :=
  let armNow (t : State) : State := modTb (fun b => { b with alarmArmed := true }) t
  match reg with
  | 2 =>
    let s1 := if v.getLsbD 1 then setFld TB_ALARM_CTL_FIRED 0 0 s else s
    let s2 := setFld TB_ALARM_CTL_EN 0 (bits v.toNat 0 1) (setFld TB_ALARM_CTL_WAKE 0 (bits v.toNat 2 1) s1)
    if v.getLsbD 0 && !flg s TB_ALARM_CTL_EN then armNow s2 else s2
  | r =>
    let s1 := if r = 0 then setFld TB_ALARM_LO_VAL 0 v.toNat s else setFld TB_ALARM_HI_VAL 0 v.toNat s
    if flg s TB_ALARM_CTL_EN then armNow s1 else s1

def execTbAlarmWrite (reg : Fin 3) (v : BitVec 32) (s : State) : Out := .next (if s.pw.inReset then s else writeAlarm reg.val v s)

def alarmTick (s : State) : Nat := fld s TB_ALARM_LO_VAL + fld s TB_ALARM_HI_VAL * 2 ^ 32

/-- TB_ALARM_FIRE. -/
def execTbAlarmFire (s : State) : Out :=
  .next (settle (
    if !s.tb.alarmArmed || !flg s TB_ALARM_CTL_EN || (countNow s).toNat < alarmTick s || s.pw.inReset then s else
    let s1 := raise 5 (setFld TB_ALARM_CTL_FIRED 0 1 (modTb (fun b => { b with alarmArmed := false }) s))
    if flg s1 TB_ALARM_CTL_WAKE then wake 3 s1 else s1))

end Sys2Proof.Machine
end

