-- ==== Sys2Proof/Machine/Direct.lean ====
section
/-!
DEFINITION. Commands of the DRAM ports: enable, alerts and replay, self-refresh, ZQ calibration, temperatures and counters
(chapter 6; chapter 7 states which of them a serial port shares).
-/

namespace Sys2Proof.Machine

/-! ### Port enable (R142 to R145, R197, R198) -/

/-- Converter codes that a cold enable puts in force: the overrides written with OVR = 1, else the fused codes (R203). (Log 27: DEDUCED.) -/
def applyTrims (p : Nat) (s : State) : State :=
  modTrain p (fun t => { t with active := (t.ovr.filter fun e => e.2.getLsbD 8).map fun e => (e.1, e.2.setWidth 8) }) s

/-- A port enable starts from OFF (R145 step 1, state LINK of Table 7.11). `hold`: sub-requests wait (R410, R417). -/
def portStart (p : Nat) (kind : Enable) (hold : Bool) (s : State) : State :=
  let kept := shedSet s p ≠ 0 && keepSet s p ≠ 0
  let s1 := setPopErr p 0 (setPstate p (if serial p then .link else .power) s)
  let warm := kind = .warm
  let shed := shedSet s p
  let rows (e : Nat × Remap) : Bool := kept && bits shed (dimmOf (keyLoc e.2.key)) 1 = 0
  let s2 := if warm then s1 else applyTrims p (clearTrained p (remapStat p (modProt p (fun t => { t with remap := t.remap.filter rows }) s1)))
  let s3 := modTrain p (fun t => { t with seed := s2.free, seeds := [] }) { s2 with free := s2.free + 1 }
  modLink p (fun k => { k with linkAt := s.clk, lost := false, timedOut := false, txSeq := 0, rxSeq := 0, retry := [], naks := 0, nakSent := false })
    (modDram p (fun d => { d with enable := kind, pwrEn := if serial p then none else some s.clk, prEnBall := !serial p,
                                  drstN := !serial p && (warm || kept), holdReq := hold, alerts := 0, escalated := false }) s3)

/-- PWR_GOOD_RISE: the wait for power good ends. -/
def execPwrGoodRise (p : Fin 20) (s : State) : Out :=
  onPin p s fun s => if pstate s p.val = .power then modDram p.val (fun d => { d with pwrEn := none }) s else s

/-- PWR_GOOD_TIMEOUT. -/
def execPwrGoodTimeout (p : Fin 20) (s : State) : Out :=
  onPort p s fun s =>
    match (portOf s p.val).dram.pwrEn with
    | some t => if pstate s p.val = .power && t + 50 * edgesMs ≤ s.clk then refusePort p.val 8 0 0 s else s
    | none => s

def noSlot : SpdSlot := ⟨false, false, false, 0, 0, 0, 0, 0, false⟩

/-- Size of a DIMM in GiB (R142). -/
def spdGib (x : SpdSlot) : Nat := 2 * (if x.width = 4 then 8 else 4) * (x.density / 8) * x.pranks * x.height

/-- The geometry of a slot. -/
def spdGeom (x : SpdSlot) : Nat × Nat × Nat × Nat := (x.width, x.density, x.pranks, x.height)

/-- Reasons 0x1 to 0x5 of slot i, in the order of R144; cap is the largest DIMM in GiB. -/
def slotErr (i cap : Nat) (ch1 : Bool) (x : SpdSlot) : Nat :=
  if !x.present then (if i = 0 || (i = 2 && ch1) then 1 else 0)
  else if !x.readable then 2
  else if !x.rdimm then 3
  else if !([4, 8].contains x.width && [16, 24, 32, 64].contains x.density && [1, 2].contains x.pranks && [1, 2, 4, 8].contains x.height) then 4
  else if cap < spdGib x then 5 else 0

/-- Speed code that Table 1.3, R22 or R195 allows at most. -/
def speedCap (s : State) (p : Nat) (two : Bool) : Nat :=
  if !serial p then (if two then 2 else 4) else if cx2 s p then 1 else if two then 2 else 3

/-- The highest speed code that every limit of R143 allows. -/
def speedFor (s : State) (p : Nat) (two : Bool) (l : List SpdSlot) : Option Nat :=
  let cap := min (speedCap s p two) (if serial p then fld s SP_CTL_MAXSPD p else fld s DP_CTL_MAXSPD p)
  ((List.range (cap + 1)).reverse).find? fun k => l.all fun x => 4800 + 800 * k ≤ x.maxSpd

def densCode (d : Nat) : Nat := if d = 16 then 0 else if d = 24 then 1 else if d = 32 then 2 else 3

/-- DP_POP or SP_POP of the fitted slots. -/
def popOf (p : Nat) (two ch1 : Bool) (l : List SpdSlot) : Nat :=
  let x := l.headD noSlot
  let cap := l.foldl (fun n y => n + spdGib y) 0
  (if x.width = 4 then 1 else 2) + densCode x.density * 4 + (x.pranks - 1) * 32 + Nat.log2 x.height * 64 + (if two then 256 else 0)
    + (if serial p then (if ch1 then 512 else 0) + cap * 1024 else cap * 512)

def setPresent (p v : Nat) (s : State) : State :=
  if serial p then setFld SP_STAT_PRESENT p v s else setFld DP_STAT_PRESENT p v s

def setSpeed (p v : Nat) (s : State) : State :=
  if serial p then setFld SP_STAT_SPEED p v s else setFld DP_STAT_SPEED p v s

/-- Slots of a port in the order of R144, with their DIMM numbers. -/
def slotsOf (p : Nat) (spd : List SpdSlot) : List (Nat × SpdSlot) :=
  (List.range (if serial p then 4 else 2)).map fun i => (i, (spd[i]?).getD noSlot)

def presentBits (l : List (Nat × SpdSlot)) : Nat := l.foldl (fun n e => if e.2.present then n + 2 ^ e.1 else n) 0

/-- The population passes: speed, DP_POP and CMD2N are set, and the enable goes on (R143, R145, R151). In a warm resume no DIMM leaves
self-refresh before the sensing has begun (R401). -/
def populate (p : Nat) (two ch1 : Bool) (speed : Nat) (fit : List SpdSlot) (all : List SpdSlot) (s : State) : State :=
  let s1 := setPop p (popOf p two ch1 fit) (setSpeed p speed s)
  let s2 := if two && !serial p then engFld DP_CTL_CMD2N p 1 s1 else s1
  let s3 := modDram p (fun d => { d with spd := all, dck := true }) s2
  let kept := shedSet s p ≠ 0 && keepSet s p ≠ 0
  let warm := (portOf s p).dram.enable = .warm
  if s.pw.warm && (warm || kept) && !resumeMay s then s3
  else if warm then enterService p (srExit p (firstLeaves s3))
  else (if kept then firstLeaves else id) <| setFld DP_PPR_CNT_SOFT p 0 (modDram p (fun d => { d with soft := [] }) (setPstate p .init s3))

/-- The SPD data of every slot is in: the first reason of R144, or the population. -/
def spdDone (p : Nat) (spd : List SpdSlot) (s : State) : State :=
  let l := slotsOf p spd
  let ch1 := serial p && l.any fun e => 2 ≤ e.1 && e.2.present
  let cap := if cx2 s p then 256 else 512
  match l.find? fun e => slotErr e.1 cap ch1 e.2 ≠ 0 with
  | some e => refusePort p (slotErr e.1 cap ch1 e.2) (e.1 / 2) (e.1 % 2) (setPresent p (presentBits (l.filter fun f => f.1 ≤ e.1)) s)
  | none =>
    let s1 := setPresent p (presentBits l) s
    let fit := (l.filter fun e => e.2.present).map fun e => e.2
    let two := l.any fun e => e.1 % 2 = 1 && e.2.present
    let per (c : Nat) : Nat := (l.filter fun e => e.1 / 2 = c && e.2.present).length
    let same := fit.all (fun x => spdGeom x = spdGeom (fit.headD noSlot)) && (!ch1 || per 0 = per 1)
    if !same then refusePort p 6 0 0 s1
    else match speedFor s1 p two fit with
      | none => refusePort p 7 0 0 s1
      | some k => populate p two ch1 k fit spd s1

/-- SPD_READ_DONE: after power good, the SPD data of the slots has been read. (Log 3: DESIGN CHOICE.) -/
def execSpdReadDone (p : Fin 20) (spd : List SpdSlot) (s : State) : Out :=
  onPin p s fun s => if pstate s p.val = .power && (portOf s p.val).dram.pwrEn.isNone then spdDone p.val spd s else s

/-- Pending hard repairs are applied (R145 step 4, R161): their remap entries free, as the row is whole again. -/
def applyHard (p : Nat) (s : State) : State :=
  let l := (portOf s p).dram.hardPend
  let s1 := modDram p (fun d => { d with hardPend := [] }) (setFld DP_PPR_CNT_PEND p 0 (addFld DP_PPR_CNT_HARD p l.length s))
  remapStat p (modProt p (fun q => { q with remap := q.remap.filter fun e => !l.contains e.2.key }) s1)

/-- INIT_DONE: DP_RFM shows what the DRAM reports; training begins. -/
def execInitDone (p : Fin 20) (rfm : BitVec 20) (s : State) : Out :=
  onPin p s fun s =>
    if pstate s p.val ≠ .init then s else
    setPstate p.val .train (modDram p.val (fun d => { d with drstN := true })
      (modSched p.val (fun q => { q with raa := [] }) (setWord (DP_RFM_RAAIMT.off p.val) rfm.toNat (applyHard p.val s))))

/-- DIMMs that the enable in progress zero-fills before SERVICE (R160, R428). -/
def fillSet (s : State) (p : Nat) : Nat := ((portOf s p).dram.zeroFill.toNat ||| shedSet s p) &&& present s p

/-- Training has passed: the DIMMs that return are zero-filled, or the port enters SERVICE (R145 steps 6 and 7). -/
def trainedOk (p : Nat) (s : State) : State :=
  if fillSet s p = 0 then enterService p s else modDram p (fun d => { d with enable := .fill }) s

/-- ZERO_FILL_DONE. -/
def execZeroFillDone (p : Fin 20) (s : State) : Out :=
  onPort p s fun s =>
    if (portOf s p.val).dram.enable ≠ .fill then s else
    let f := fillSet s p.val
    let s1 := ((List.range 4).filter fun d => bits f d 1 = 1).foldl (fun t d => zeroDimm p.val d t) s
    enterService p.val (setShed p.val 0 (modDram p.val (fun d => { d with zeroFill := 0 }) s1))

/-! ### Alerts and replay (R153, R154, R194) -/

/-- A training pause that an alert meets is aborted and falls due again (R211). -/
def abortPause (p : Nat) (s : State) : State :=
  match (portOf s p).sched.pause with
  | none => s
  | some (x, e) =>
    if e ≤ s.clk then s
    else addFld TR_CNT1_ABORT p 1 (modSched p (fun q => { q with pause := none, pauses := { x with due := s.clk } :: q.pauses }) s)

/-- ALERT. -/
def execAlert (p : Fin 20) (s : State) : Out :=
  onPin p s fun s =>
    let d := (portOf s p.val).dram
    let spurious := addFld DP_CNT2_SPURIOUS p.val 1 s
    if serial p.val then s else
    match pstate s p.val with
    | .service =>
      if d.alertAt.isSome then s
      else if d.alertRise.isSome then spurious
      else abortPause p.val (modDram p.val (fun x => { x with alertAt := some s.clk }) s)
    | .selfRefresh => spurious
    | .stopping => spurious
    | .halted => spurious
    | _ => s

/-- Count an alert and raise DDR_ALERT; it is one more in succession. -/
def countAlert (p : Nat) (crc : Bool) (s : State) : State :=
  let s1 := if crc then addFld DP_CNT0_CRC p 1 s else addFld DP_CNT0_PAR p 1 s
  raise 10 (modDram p (fun d => { d with alerts := d.alerts + 1 }) s1) (some p)

/-- ALERT_RISE: a pulse of at least SPLIT clocks is a parity alert. -/
def execAlertRise (p : Fin 20) (clocks : Nat) (s : State) : Out :=
  onPin p s fun s =>
    if (portOf s p.val).dram.alertAt.isNone then s else
    countAlert p.val (decide (clocks < fld s DP_ALERT_SPLIT p.val))
      (modDram p.val (fun d => { d with alertAt := none, alertRise := some s.clk }) s)

/-- The parity state of every DIMM of a channel is cleared, and every rank precharged (R153 steps 3 and 4). -/
def clearParity (p ch : Nat) (s : State) : State :=
  let subs := [2 * ch, 2 * ch + 1]
  let mrw := subs.flatMap fun c => (List.range (dimmCount s p)).map fun d => (c, ({ sub := c, dimm := d } : Loc), Op.mrw)
  let pre := subs.flatMap fun c => (ranksOf s p c).map fun l => (c, l, Op.preAb)
  (mrw ++ pre).foldl (fun t e => issueOp p e.1 0 e.2.2 e.2.1 none false t) s

/-- The noted commands of a channel become replays, in their order; PRE and ACT are dropped (R153 step 5). The first carries
UNBLK on a serial port (R194). -/
def noteReplays (p ch : Nat) (s : State) : State :=
  let q := (portOf s p).sched
  let mine (i : Issued) : Bool := i.loc.sub / 2 = ch
  let fresh := (q.retry.filter mine).filter fun i => !i.op.isPre && i.op ≠ .act
  let old := q.replay.filter mine
  let noted := match fresh ++ old with
    | [] => []
    | i :: l => { i with unblk := serial p } :: l
  let s1 := modSched p (fun x => { x with retry := x.retry.filter (fun i => !mine i), replay := x.replay.filter (fun i => !mine i) ++ noted }) s
  clearParity p ch (addFld DP_CNT1_REPLAYED p noted.length s1)

/-- Chip-select and command/address training in one pause: 1,000 ticks for each DIMM (R153 step 6, R209). -/
def caPause (p : Nat) (s : State) : State :=
  let n := 1000 * dimmCount s p
  modSched p (fun q => { q with pause := some ({ kind := kindCa, rank := 0, len := n, due := s.clk }, s.clk + n) }) s

/-- Recovery is over: replay, or first the training that RETRY asks for, or HALTED. (Log 104: DEDUCED.) -/
def alertGo (p ch : Nat) (trainOk : Bool) (s : State) : State :=
  let d := (portOf s p).dram
  let s0 := modDram p (fun x => { x with alertAt := none, alertRise := none }) s
  if d.escalated then portHalt p 1 s0
  else if d.alerts < fld s DP_ALERT_RETRY p then noteReplays p ch s0
  else if !trainOk then portHalt p 1 s0
  else modDram p (fun x => { x with escalated := true }) (caPause p (noteReplays p ch s0))

/-- ALERT_RECOVERY_DONE; the buffer of a serial port has waited RECOV itself (R194). -/
def execAlertRecoveryDone (p : Fin 20) (trainOk : Bool) (s : State) : Out :=
  onPort p s fun s =>
    match (portOf s p.val).dram.alertRise with
    | some t =>
      let wait := if serial p.val then 0 else 4 * fld s DP_ALERT_RECOV p.val
      if t + wait ≤ s.clk && pstate s p.val = .service then alertGo p.val (portOf s p.val).dram.alertEnd trainOk s else s
    | none => s

/-- PWR_GOOD_LOST (R158). -/
def execPwrGoodLost (p : Fin 20) (s : State) : Out :=
  onPin p s fun s => if !serial p.val && inService s p.val then portHalt p.val 2 s else s

/-! ### Self-refresh (R159) -/

/-- A pending launch names the port. -/
def launchNames (s : State) (p : Nat) : Bool := s.tb.launches.any fun e => e.2.acts.any fun a => a.isPort && a.port.toNat = p

/-- Nothing of the port's requests is queued, gathering or in flight. -/
def portQuiet (s : State) (p : Nat) : Bool :=
  let q := portOf s p
  q.sched.queue = [] && q.sched.wait = [] && q.sched.flight = [] && q.sched.retry = [] && q.sched.replay = [] && q.prot.merge = []
    && !q.prot.scrubOut

/-- AUTO_SELF_REFRESH. -/
def execAutoSelfRefresh (p : Fin 20) (s : State) : Out :=
  onPort p s fun s =>
    let n := fld s DP_SR_IDLE p.val * edgesUs
    if pstate s p.val = .service && n ≠ 0 && (portOf s p.val).dram.idleAt + n ≤ s.clk && portQuiet s p.val
        && (duePause s p.val).isNone && (portOf s p.val).sched.pause.all (fun x => x.2 ≤ s.clk) && !launchNames s p.val
    then srEnter p.val false false s else s

/-- A self-refresh that a request may end: automatic, or by a port transition. -/
def srWaits (s : State) (p : Nat) : Bool :=
  pstate s p = .selfRefresh && s.pw.st.toNat ≤ 1 && s.pw.exit.isNone && s.tb.step = .none && s.en.pf ≠ .commit &&
    (s.pw.cur.all fun t => !t.run)

/-- SELF_REFRESH_EXIT: a request waits at the port. -/
def execSelfRefreshExit (p : Fin 20) (s : State) : Out :=
  onPort p s fun s =>
    let q := (portOf s p.val).sched
    if srWaits s p.val && (q.wait ≠ [] || q.queue ≠ []) then
      (if serial p.val then setFld SL_STAT_LSTATE p.val 0 (srExit p.val s) else srExit p.val s)
    else s

/-! ### ZQ calibration (R151) -/

/-- ZQ_START: an MPC to the rank. -/
def execZqStart (p : Fin 20) (rank : RankId) (s : State) : Out :=
  onPort p s fun s =>
    (rankLocs rank).foldl (fun t l =>
      let r := rankSt t p.val (rankKey l)
      let per := fld t DP_ZQ_PER p.val * edgesMs
      if !mayIssue t p.val || !rankThere t p.val l || per = 0 || r.zqStart.isSome || t.clk < r.zqLast + per then t
      else modRank p.val (rankKey l) (fun x => { x with zqStart := some t.clk }) (issueOp p.val l.sub 0 .mpc l none false t)) s

/-- A latch may be placed: no request of bands 2 to 5 waits for a bank of the rank (R100). -/
def zqFree (s : State) (p : Nat) (l : Loc) : Bool :=
  (ranked s p).all fun x => !(2 ≤ x.band && x.band ≤ 5 && jobCovers l none x.loc)

/-- ZQ_LATCH: 1 µs after the start the rank's banks close and the latch issues. -/
def execZqLatch (p : Fin 20) (rank : RankId) (s : State) : Out :=
  onPort p s fun s =>
    (rankLocs rank).foldl (fun t l =>
      match (rankSt t p.val (rankKey l)).zqStart with
      | none => t
      | some z =>
        if t.clk < z + edgesUs || !mayIssue t p.val || !rankThere t p.val l || !zqFree t p.val l then t
        else
          let opens := (subOf t p.val l.sub).openRows.any fun e =>
            jobCovers l none { l with dimm := e.1 / 512 % 2, prank := e.1 / 256 % 2, cid := e.1 / 32 % 8, bg := e.1 / 4 % 8, bank := e.1 % 4 }
          if opens then
            (if ready t p.val l.sub .preAb l false (slotClk t p.val 0) then issueOp p.val l.sub 0 .preAb l none false t else t)
          else if !ready t p.val l.sub .refAb l false (slotClk t p.val 0) then t
          else modRank p.val (rankKey l) (fun x => { x with zqStart := none, zqLast := t.clk }) (issueOp p.val l.sub 0 .mpc l none false t)) s

/-! ### Temperatures (R102, R157) -/

/-- A DIMM's case temperature in °C has been read. -/
def heard (p dimm : Nat) (c : Int) (s : State) : State :=
  let s1 := modDram p (fun d => { d with tempAt := mput d.tempAt dimm s.clk }) s
  let s2 :=
    if 85 < c then heat p dimm s1
    else if bits (fld s1 PS_STAT_HOT p) dimm 1 = 1 && (mget (portOf s1 p).sched.cool dimm).isNone then
      modSched p (fun q => { q with cool := mput q.cool dimm s.clk }) s1
    else s1
  let was := bits (portOf s2 p).sched.hot.toNat dimm 1 = 1
  let mark (b : Nat) (t : State) : State := modSched p (fun q => { q with hot := BitVec.ofNat 4 (withBits q.hot.toNat dimm 1 b) }) t
  if 95 < c then (if was then s2 else raise 12 (mark 1 s2) (some p)) else mark 0 s2

/-- One sensor result of a direct port: DP_TEMP, its valid bit, and what follows; a reading older than one second is not valid. -/
def polled (p dimm : Nat) (t : Option (BitVec 8)) (s : State) : State :=
  let tf := if dimm = 0 then DP_TEMP_T0 else DP_TEMP_T1
  let vf := if dimm = 0 then DP_TEMP_V0 else DP_TEMP_V1
  match t with
  | some x => heard p dimm x.toInt (setFld tf p x.toNat (setFld vf p 1 s))
  | none => if mgetD (portOf s p).dram.tempAt dimm 0 + 1000 * edgesMs < s.clk then setFld vf p 0 (staleHeat p dimm s) else s

/-- DIMM_TEMP_POLL. -/
def execDimmTempPoll (p : Fin 20) (t0 t1 : Option (BitVec 8)) (s : State) : Out :=
  onPin p s fun s => if serial p.val || pstate s p.val = .off then s else polled p.val 1 t1 (polled p.val 0 t0 s)

/-! ### Counters (R162, R200) -/

/-- DP_CNT_CLEAR. -/
def execDpCntClear (p : Fin 20) (v : BitVec 32) (s : State) : Out :=
  onPort p s fun s =>
    if v.getLsbD 0 && !s.pw.inReset then setWord (DP_CNT0_PAR.off p.val) 0 (setWord (DP_CNT1_SRE.off p.val) 0 (setWord (DP_CNT2_RFM.off p.val) 0 s)) else s

end Sys2Proof.Machine
end

