-- ==== Sys2Proof/Machine/Training.lean ====
section
/-!
DEFINITION. Training: initial training, tracking rounds and their pauses, the judgement of field results, quality records
(chapter 8).
-/

namespace Sys2Proof.Machine

/-! ### Items and quality records -/

/-- Number of the item that a measurement names: step, kind, channel, sub-channel, rank and bit. -/
def itemKey (m : Meas) : Nat :=
  ((((m.step.toNat * 3 + m.kind.val) * 2 + m.ch.val) * 2 + m.sub.val) * 4 + m.rank.val) * 128 + m.bit.toNat

/-- Value in force of an item: recorded, or as the last enable trained it, which the spec leaves to the part and the board. -/
def itemVal (s : State) (p k : Nat) : Int :=
  let t := (portOf s p).train
  match mget t.items k with
  | some i => i.val
  | none => Config.trained (mgetD t.seeds (k / 6144) t.seed) k

def itemOf (s : State) (p k : Nat) : Item := mgetD (portOf s p).train.items k { val := itemVal s p k }

/-- TR_STAT.PEND: an accepted value waits for its boundary. -/
def pendStat (p : Nat) (s : State) : State :=
  setFld TR_STAT_PEND p (if (portOf s p).train.items.any fun e => e.2.pend.isSome then 1 else 0) s

def setItem (p k : Nat) (i : Item) (s : State) : State := pendStat p (modTrain p (fun t => { t with items := mput t.items k i }) s)

/-- Number of a quality record (Table 8.8). -/
def qualKey (kind byte sub rank : Nat) : Nat := ((kind * 16 + byte) * 4 + sub) * 4 + rank

/-- Record a measurement; a record that another bit of the same lane has just filled keeps the worst (R220). -/
def noteQuality (p k : Nat) (first : Bool) (m : Meas) (rej : Bool) (s : State) : State :=
  let new : Quality := { width := m.width, height := m.height, resid := m.resid, rej := rej, age := 0 }
  let old := mgetD (portOf s p).train.quality k new
  let q : Quality := if first then new else
    { width := if old.width < new.width then old.width else new.width, height := if old.height < new.height then old.height else new.height,
      resid := if old.resid < new.resid then new.resid else old.resid, rej := old.rej || rej, age := 0 }
  modTrain p (fun t => { t with quality := mput t.quality k q }) s

/-! ### Judging a field result (R213 to R216) -/

/-- Agreement and plausibility tolerances of Table 8.5. -/
def agreeTol (s : State) (p : Nat) (m : Meas) : Nat :=
  if m.step = 0xA then 1
  else match m.kind with
    | 0 => fld s TR_TOL_AGREE p
    | 1 => fld s TR_TOL_VAGREE p
    | _ => fld s TR_TOL_EQAGREE p

def plausTol (s : State) (p : Nat) (m : Meas) : Nat :=
  match m.kind with
  | 0 => fld s TR_TOL_PLAUS p * 64 / 100
  | 1 => fld s TR_TOL_VPLAUS p
  | _ => fld s TR_TOL_EQPLAUS p

def dist (a b : Int) : Nat := (a - b).natAbs

/-- The mean of two results, rounded towards the value in force (R214). -/
def meanTo (v a b : Int) : Int :=
  let t := a + b
  if t % 2 = 0 then t / 2 else if 2 * v < t then t / 2 else t / 2 + 1

/-- The common move of a rank's write DQS delays: an item of step 0x4 beside the delays of its strobes. -/
def moveKey (m : Meas) : Nat := itemKey { m with step := 4, kind := 0, bit := 127 }

/-- Both checks of a result. For the oscillator, plausibility judges the delay move that the count implies. -/
def resultOk (s : State) (p : Nat) (m : Meas) : Bool :=
  let v := itemVal s p (itemKey m)
  let near (x : Int) : Bool :=
    if m.step = 0xA then
      dist (Config.oscMove (speedOf s p) x v) ((mget (portOf s p).train.items (moveKey m)).map (fun i => i.val) |>.getD 0) ≤ plausTol s p { m with kind := 0 }
    else dist x v ≤ plausTol s p m
  decide (dist m.r1 m.r2 ≤ agreeTol s p m) && near m.r1 && near m.r2

/-- A value on the DRAM side waits for the next pause of its rank (Table 8.6). -/
def dramSide (m : Meas) : Bool := m.step = 8 || m.step = 9 || (m.step = 3 && m.kind = 1)

/-- An accepted result. -/
def accept (p : Nat) (m : Meas) (s : State) : State :=
  let k := itemKey m
  let i := itemOf s p k
  let v := meanTo i.val m.r1 m.r2
  let s1 := addFld TR_CNT0_ACCEPT p 1 s
  if m.step = 0xA then
    setItem p (moveKey m) { val := Config.oscMove (speedOf s p) v i.val } (setItem p k { i with rejects := 0 } s1)
  else if dramSide m then setItem p k { i with pend := some v, rejects := 0 } s1
  else setItem p k { i with val := v, rejects := 0 } s1

/-- A CAL_REJECT entry (R214, Table 9.6). -/
def logReject (p : Nat) (m : Meas) (s : State) : State :=
  let dimm := m.rank.val / 2
  let prank := m.rank.val % 2
  logPush p { w0 := BitVec.ofNat 32 (0x0D + p * 256 + (2 * m.ch.val + m.sub.val) * 8192 + dimm * 32768 + prank * 65536 + 15 * 1048576),
              w1 := 0, w2 := BitVec.ofNat 32 ((m.step.toNat + m.bit.toNat * 16) * 16), w3 := whenWord s } s

/-- A rejected result; true when it is the REJMAX-th in succession on its item. (Log 112: DEDUCED.) -/
def rejectItem (p : Nat) (m : Meas) (s : State) : Bool × State :=
  let k := itemKey m
  let i := itemOf s p k
  let s1 := logReject p m (setFld TR_STAT_LSTEP p m.step.toNat (addFld TR_CNT0_REJECT p 1 s))
  (i.rejects + 1 = fld s TR_CTL_REJMAX p, setItem p k { i with rejects := i.rejects + 1 } s1)

/-- Judge one item of a DRAM-side or host-side measurement of a port. -/
def judgeItem (p : Nat) (m : Meas) (s : State) : State :=
  if resultOk s p m then accept p m s
  else
    let r := rejectItem p m s
    if r.1 then raise 18 (setFld TR_STAT_ALARM p 1 r.2) (some p) else r.2

/-- Judge a list of results and fill the quality records: read eyes from step 0x6, write eyes from steps 0x7 and 0x8. -/
def judgeAll (p : Nat) : List Nat → List Meas → State → State
  | _, [], s => s
  | seen, m :: l, s =>
    let kind : Option Nat := if m.step = 6 then some 0 else if m.step = 7 || m.step = 8 then some 1 else none
    let ok := resultOk s p m
    let s1 := judgeItem p m s
    match kind with
    | none => judgeAll p seen l s1
    | some q =>
      let k := qualKey q (m.bit.toNat / 8) (2 * m.ch.val + m.sub.val) m.rank.val
      judgeAll p (k :: seen) l (noteQuality p k (!seen.contains k) m (!ok) s1)

/-! ### Initial training (R204) -/

/-- One timing register that firmware loads, with its floor (R149). Zero for unused words of monolithic devices. -/
def loadTiming (p k : Nat) (w : BitVec 32) (s : State) : State :=
  let off := DP_T0_CL.off p + 4 * k
  let v := if k = 4 && stackHeight s p = 1 then 0 else if k = 8 then w.toNat % 2 ^ 24 else if k = 6 then w.toNat % 2 ^ 24 else w.toNat
  let s1 := engWord off 0 (2 ^ 32 - 1) v 1 s
  { s1 with floors := mput s1.floors off (BitVec.ofNat 32 v) }

def loadTimings (p : Nat) : Nat → List (BitVec 32) → State → State
  | _, [], s => s
  | k, w :: l, s => if k < 9 then loadTimings p (k + 1) l (loadTiming p k w s) else s

/-- Initial training ends: `failed` is the step that failed TRIES times, or 0. -/
def trainingDone (p : Nat) (failed : Nat) (timing : List (BitVec 32)) (s : State) : State :=
  if failed ≠ 0 then refusePort p 9 0 0 (setFld TR_STAT_FSTEP p failed s)
  else trainedOk p (loadTimings p 0 timing (setFld TR_STAT_FSTEP p 0 s))

/-- INITIAL_TRAINING_DONE. -/
def execInitialTrainingDone (p : Fin 20) (failed : BitVec 4) (timing : List (BitVec 32)) (s : State) : Out :=
  onPin p s fun s =>
    if pstate s p.val = .train && (portOf s p.val).dram.enable = .cold then trainingDone p.val failed.toNat timing s else s

/-! ### Rounds (R208) -/

/-- Package ranks of a port as Table 8.4 visits them: channel, then 2 × DIMM + package rank. -/
def trackRanks (s : State) (p : Nat) : List Nat :=
  (List.range (subCount s p / 2)).flatMap fun ch => (List.range (dimmCount s p)).flatMap fun d =>
    (List.range (pranks s p)).map fun r => ch * 4 + 2 * d + r

/-- Kind and length of the pauses of one rank. -/
def trackKinds (s : State) (p : Nat) : List (Nat × Nat) :=
  if flg s TR_CTL_PSHORT p then [(0, 240), (1, 200), (3, 200), (2, 160)] else [(0, 240), (1, 400), (2, 160)]

/-- The pauses of a round that starts now, at equal spacing over the period. -/
def roundPauses (s : State) (p : Nat) : List Pause :=
  let l := (trackRanks s p).flatMap fun r => (trackKinds s p).map fun k => (r, k)
  let step := fld s TR_CTL_PERIOD p * edgesMs / max 1 l.length
  l.mapIdx fun i e => { kind := e.2.1, rank := e.1, len := e.2.2, due := s.clk + i * step }

/-- A round starts. -/
def startRound (p : Nat) (s : State) : State :=
  let l := roundPauses s p
  let s1 := modSched p (fun q => { q with pauses := q.pauses.filter (fun x => 4 ≤ x.kind) ++ l }) s
  setFld TR_STAT_ROUND p 1 (modTrain p (fun t => { t with
    roundOn := true, round := t.round + 1, left := l.length, roundDue := s.clk + fld s TR_CTL_PERIOD p * edgesMs }) s1)

/-- The round ends: records age, and whoever asked for it is answered. -/
def endRound (p : Nat) (s : State) : State :=
  let w := (portOf s p).train.waiters
  let older (q : Quality) : Quality := { q with age := min 255 (q.age + 1) }
  let s1 := modTrain p (fun t => { t with roundOn := false, waiters := [], quality := t.quality.map fun e => (e.1, older e.2) }) s
  w.foldl (fun t k => endHandle k 0 0 0 t) (setFld TR_STAT_ROUND p 0 s1)

/-- Pending DRAM-side values of a rank are written (Table 8.6); none: of every rank. (Log 110: DEDUCED.) -/
def applyPend (p : Nat) (rank : Option Nat) (s : State) : State :=
  let hit (k : Nat) : Bool := match rank with
    | none => true
    | some r => (k / 128) % 4 = r % 4 && (k / 1024) % 2 = r / 4
  let take (e : Nat × Item) : Nat × Item :=
    match e.2.pend with
    | some v => if hit e.1 then (e.1, { e.2 with val := v, pend := none }) else e
    | none => e
  pendStat p (modTrain p (fun t => { t with items := t.items.map take }) s)

/-- The port has been idle for 1 µs (Table 8.6). -/
def idleUs (s : State) (p : Nat) : Bool := pstate s p = .service && portQuiet s p && (portOf s p).dram.idleAt + edgesUs ≤ s.clk

/-- TRACKING_ROUND. -/
def execTrackingRound (p : Fin 20) (s : State) : Out :=
  onPort p s fun s =>
    let s0 := if idleUs s p.val then applyPend p.val none s else s
    let t := (portOf s0 p.val).train
    if pstate s0 p.val = .service && !cx2 s0 p.val && flg s0 TR_CTL_EN p.val && !t.roundOn && t.roundDue ≤ s0.clk then startRound p.val s0 else s0

/-- The tracking pause of one of the kinds that has run to its end. (Log 109: DEDUCED.) -/
def ranPause (s : State) (p : Nat) (kinds : List Nat) : Option Pause :=
  match (portOf s p).sched.pause with
  | some (x, e) => if kinds.contains x.kind && e ≤ s.clk then some x else none
  | none => none

/-- A pause is over; the round ends with its last. -/
def endPause (p : Nat) (s : State) : State :=
  let s1 := modTrain p (fun t => { t with left := t.left - 1 }) (modSched p (fun q => { q with pause := none }) s)
  if (portOf s1 p).train.roundOn && (portOf s1 p).train.left = 0 then endRound p s1 else s1

/-- Results of the pause's own rank. -/
def mineOf (x : Pause) (ms : List Meas) : List Meas := ms.filter fun m => 4 * m.ch.val + m.rank.val = x.rank

/-- TRACK_READ_PAUSE: steps 0x5 and 0x6. -/
def execTrackReadPause (p : Fin 20) (ms : List Meas) (s : State) : Out :=
  onPin p s fun s =>
    match ranPause s p.val [0] with
    | none => s
    | some x =>
      let l := (mineOf x ms).filter fun m => m.step = 5 || m.step = 6
      endPause p.val (judgeAll p.val [] l (applyPend p.val (some x.rank) s))

/-- The training line of a sub-channel and package rank (R209). -/
def trainLine (s : State) (p : Nat) (x : Pause) (sub : Nat) : Nat :=
  laOf s p { sub := 2 * (x.rank / 4) + sub, dimm := x.rank % 4 / 2, prank := x.rank % 2, col := (portOf s p).train.round % 2 ^ lineLog s p }

/-- Save and restore of one training line: false when it is uncorrectable or poisoned, and its probes are skipped. -/
def saveLine (p la : Nat) (err : Burst) (s : State) : Bool × State :=
  let st := readStored s p la
  let d := decodeLine s p la st.1 st.2 err
  if d.1.tainted then (false, addFld TR_CNT1_ABORT p 1 (noteDecode p la d.1 orgTrain false s))
  else (true, storeLine p la d.2 false orgTrain (noteDecode p la d.1 orgTrain true s))

/-- TRACK_WRITE_PAUSE: steps 0x7 and 0x8, or the half of them that a short pause measures. -/
def execTrackWritePause (p : Fin 20) (ms : List Meas) (err0 err1 : Burst) (s : State) : Out :=
  onPin p s fun s =>
    match ranPause s p.val [1, 3] with
    | none => s
    | some x =>
      let s1 := applyPend p.val (some x.rank) s
      let a := saveLine p.val (trainLine s1 p.val x 0) err0 s1
      let b := saveLine p.val (trainLine s1 p.val x 1) err1 a.2
      let fits (m : Meas) : Bool := if x.kind = 3 then m.step = 8 else if x.len = 200 then m.step = 7 else m.step = 7 || m.step = 8
      let l := (mineOf x ms).filter fun m => fits m && (if m.sub = 0 then a.1 else b.1)
      endPause p.val (judgeAll p.val [] l b.2)

/-- TRACK_OSC_PAUSE: step 0xA. -/
def execTrackOscPause (p : Fin 20) (ms : List Meas) (s : State) : Out :=
  onPin p s fun s =>
    match ranPause s p.val [2] with
    | none => s
    | some x => endPause p.val (judgeAll p.val [] ((mineOf x ms).filter fun m => m.step = 0xA) (applyPend p.val (some x.rank) s))

/-! ### Serial lanes (R206, R211) -/

/-- The soak's checks. -/
def soakOk (s : State) (p : Nat) (r : SoakResult) : Bool :=
  if cx2 s p then r.locked && r.agree && 350 ≤ r.width.toNat && 40 ≤ r.height.toNat && r.resid.toNat ≤ 40
  else r.locked && r.uncorrectable = 0 && (r.symbols < fld s SL_FAULT_SYM p || fld s SL_FAULT_SYM p = 0) && r.agree
    && 150 ≤ r.width.toNat && 12 ≤ r.height.toNat && r.resid.toNat ≤ 40

def laneOf (m : SMap Lane) (j : Nat) : Lane := mgetD m j {}

/-- LANE_SOAK: the lane is healthy or not; a lane that fails loses the equaliser state held for the rate (R207). -/
def laneSoak (p j : Nat) (r : SoakResult) (s : State) : State :=
  let ok := soakOk s p r
  let m : Meas := { step := 0xB, kind := 2, ch := 0, sub := 0, rank := 0, bit := BitVec.ofNat 7 j, r1 := 0, r2 := 0, width := r.width, height := r.height, resid := r.resid }
  let rate := (portOf s p).link.rate
  let lane := laneOf (portOf s p).link.rx j
  let held := lane.held.filter fun x => x ≠ rate
  let new : Lane := { lane with healthy := ok, cwLock := r.locked, blockLock := r.locked, held := if ok then rate :: held else held }
  noteQuality p (qualKey 2 j 0 0) true m (!r.agree) (modLink p (fun k => { k with rx := mput k.rx j new }) s)

def execLaneSoak (p : Fin 20) (lane : Fin 9) (r : SoakResult) (s : State) : Out :=
  onPin p s fun s =>
    if serial p.val && (pstate s p.val = .link || pstate s p.val = .linkDown) then laneSoak p.val lane.val r s else s

/-- DRIFT_CLAMP: held, counted, and the lane's turn is the next of its direction. -/
def execDriftClamp (p : Fin 20) (lane : Fin 9) (s : State) : Out :=
  onPort p s fun s =>
    if !serial p.val || fld s SL_STAT_LSTATE p.val ≠ 0 then s
    else addFld TR_CNT1_CLAMP p.val 1 (modLink p.val (fun k => { k with recalNext := lane.val }) s)

/-- TR_CNT_CLEAR. -/
def execTrCntClear (p : Fin 20) (v : BitVec 32) (s : State) : Out :=
  onPort p s fun s => if v.getLsbD 0 && !s.pw.inReset then setWord (TR_CNT0_ACCEPT.off p.val) 0 (setWord (TR_CNT1_ABORT.off p.val) 0 s) else s

end Sys2Proof.Machine
end

