-- ==== Sys2Proof/Machine/Image.lean ====
section
/-!
DEFINITION. The battery-backed image: trim records, remap pool, descriptor, commit, and what a warm resume reads back (chapter 14).
-/

namespace Sys2Proof.Machine

/-! ### Checks and words -/

/-- Words of a list of bytes. -/
def leWords : List Nat → List Nat
  | a :: b :: c :: d :: l => (a + 256 * b + 65536 * c + 16777216 * d) :: leWords l
  | _ => []

/-- The power-fail sequence runs past its flush: the image is written in its own order (R397). -/
def inSequence (s : State) : Bool := s.en.pf = .commit

/-- Write consecutive words of the image, those that change; outside a sequence BBR_COMMIT is zero first (R397). -/
def imagePut (k : Nat) (ws : List Nat) (s : State) : State :=
  let diff := (ws.mapIdx fun i w => (k + i, w)).filter fun e => bbrWord s e.1 ≠ e.2
  if diff = [] then s
  else diff.foldl (fun t e => setImage e.1 e.2 t) (if inSequence s then s else bbrOpen s)

/-- Byte i of the BBR. -/
def bbrByte (s : State) (i : Nat) : Nat := bits (bbrWord s (i / 4)) (8 * (i % 4)) 8
def bbrBytes (s : State) (i n : Nat) : List Nat := (List.range n).map fun j => bbrByte s (i + j)

/-! ### Trim records (R398, Table 14.6) -/

def recBase (p : Nat) : Nat := if serial p then 0x540 + 72 * (p - 4) else 0x140 + 256 * p
def recLen (p : Nat) : Nat := if serial p then 72 else 256

/-- The item of a step on a direct port: the sub-channel, the rank, the bit. -/
def directKey (step : Nat) (kind : Fin 3) (sub rank bit : Nat) : Nat :=
  itemKey { step := BitVec.ofNat 4 step, kind := kind, ch := 0, sub := Fin.ofNat 2 sub, rank := Fin.ofNat 4 rank, bit := BitVec.ofNat 7 bit,
            r1 := 0, r2 := 0, width := 0, height := 0, resid := 0 }

/-- Item of byte k of a direct record, for the bytes that hold one code each: 0 to 143 and 224 to 233. (Log 70: DEDUCED.) -/
def recItem (k : Nat) : Option Nat :=
  if k < 8 then some (directKey 1 0 (k / 4) 0 (k % 4))
  else if k < 24 then some (directKey 2 0 ((k - 8) / 8) 0 ((k - 8) % 8))
  else if k < 144 then
    let i := k - 24
    let lane := i % 30 / 3
    let step := if i % 3 = 0 then 5 else if i % 3 = 1 then 6 else 4
    some (directKey step 0 (lane / 5) (i / 30) (8 * (lane % 5)))
  else if 224 ≤ k ∧ k < 234 then some (directKey 6 1 ((k - 224) / 5) 0 (8 * ((k - 224) % 5)))
  else none

/-- Item of a DQ bit j (0 to 79) and of its lane, in read direction (step 0x6) or write direction (step 0x7). -/
def dqItem (wr : Bool) (rank j : Nat) : Nat := directKey (if wr then 7 else 6) 0 (j / 40) rank (j % 40)
def dqLane (wr : Bool) (rank j : Nat) : Nat := directKey (if wr then 4 else 6) 0 (j / 40) rank (j % 40 / 8 * 8)

def byteOf (x : Int) : Nat := (x % 256).toNat

/-- Byte k of the direct record of port p. -/
def recByte (s : State) (p k : Nat) : Nat :=
  match recItem k with
  | some i => byteOf (itemVal s p i)
  | none =>
    if 144 ≤ k ∧ k < 224 then
      let j := k - 144
      ((itemVal s p (dqItem false 0 j) - itemVal s p (dqLane false 0 j)) % 16).toNat
        + 16 * ((itemVal s p (dqItem true 0 j) - itemVal s p (dqLane true 0 j)) % 16).toNat
    else if 234 ≤ k ∧ k < 242 then
      bits (itemVal s p (directKey 0xA 0 0 ((k - 234) / 2) 0) % 65536).toNat (8 * ((k - 234) % 2)) 8
    else if 242 ≤ k ∧ k < 246 then bits (fld s EC_MARK0_DEV p) (8 * (k - 242)) 8
    else 0

/-- The record of a port without its CRC. -/
def recBody (s : State) (p : Nat) : List Nat :=
  if serial p then
    leBytes 4 (fld s SL_LANE_RX_MAP p) ++ leBytes 4 (fld s SL_LANE_TX_MAP p) ++ leBytes 2 (fld s TS_ASYM_A p) ++ leBytes 2 (fld s PT_FTRIM_FINE p)
      ++ leBytes 4 (fld s EC_MARK0_DEV p) ++ leBytes 4 (fld s EC_MARK1_DEV p) ++ leBytes 8 (mgetD (portOf s p).link.cap 0 0).toNat
      ++ leBytes 4 (regAt s (SP_MAP_SC_BIT.off p) SP_MAP_SC_BIT.rst) ++ leBytes 4 (regAt s (SP_CTL_MODE.off p) SP_CTL_MODE.rst)
      ++ List.replicate 34 0
  else (List.range 254).map (recByte s p)

/-- The port has values in force. -/
def hasValues (s : State) (p : Nat) : Bool :=
  match pstate s p with
  | .service => true | .selfRefresh => true | .halted => true | .linkDown => true
  | _ => false

/-- Copy a port's values in force into its trim record (R218). -/
def saveTrims (s : State) (p : Nat) : State :=
  if !portImpl s.part.variant p || !hasValues s p then s else
  let b := recBody s p
  imagePut (recBase p / 4) (leWords (b ++ leBytes 2 (Config.crc16 b).toNat)) s

/-- The record of a port matches its CRC. -/
def recGood (s : State) (p : Nat) : Bool :=
  let n := recLen p
  let b := bbrBytes s (recBase p) (n - 2)
  bbrByte s (recBase p + n - 2) + 256 * bbrByte s (recBase p + n - 1) = (Config.crc16 b).toNat

/-- A port reset invalidates the record: its CRC is the complement of the correct value (R428). -/
def recVoid (p : Nat) (s : State) : State :=
  let n := recLen p
  let b := bbrBytes s (recBase p) (n - 2)
  let k := (recBase p + n) / 4 - 1
  imagePut k [bits (bbrWord s k) 0 16 + 65536 * (65535 - (Config.crc16 b).toNat)] s

/-- The byte as a signed offset of four bits. -/
def nib (v : Nat) : Int := asSigned 4 (v % 16)

/-- The items of a direct record, ranks sharing the offsets of the DQ bits. -/
def recItems (b : Nat → Nat) : SMap Item :=
  let put (m : SMap Item) (k : Nat) (v : Int) : SMap Item := mput m k { val := v }
  let m1 := (List.range 234).foldl (fun m k => match recItem k with
    | some i => put m i (b k)
    | none => m) []
  let m2 := (List.range 80).foldl (fun m j => (List.range 4).foldl (fun m r =>
    let rd := (mgetD m1 (dqLane false r j) {}).val
    let wr := (mgetD m1 (dqLane true r j) {}).val
    put (if j % 8 = 0 then m else put m (dqItem false r j) (rd + nib (b (144 + j)))) (dqItem true r j) (wr + nib (b (144 + j) / 16))) m) m1
  (List.range 4).foldl (fun m r => put m (directKey 0xA 0 0 r 0) (b (234 + 2 * r) + 256 * b (235 + 2 * r))) m2

/-- Put a trim record in force on the warm path (R398, R401). -/
def loadTrims (p : Nat) (s : State) : State :=
  let b (k : Nat) : Nat := bbrByte s (recBase p + k)
  let word (k : Nat) : Nat := b k + 256 * b (k + 1) + 65536 * b (k + 2) + 16777216 * b (k + 3)
  if serial p then
    let reg (f : Fld) (v : Nat) (t : State) : State := engWord (f.off p) f.rst (rsMask (f.off p)) v 3 t
    modLink p (fun k => { k with cap := mput k.cap 0 (BitVec.ofNat 56 (word 20 + word 24 * 2 ^ 32)) })
      (setFld SL_LANE_RX_MAP p (word 0) (setFld SL_LANE_TX_MAP p (word 4) (engFld TS_ASYM_A p (word 8 % 65536)
        (engFld PT_FTRIM_FINE p (word 8 / 65536) (reg EC_MARK0_DEV (word 12) (reg EC_MARK1_DEV (word 16)
          (reg SP_MAP_SC_BIT (word 28) (reg SP_CTL_MODE (word 32) s))))))))
  else
    modTrain p (fun t => { t with items := recItems b }) (engFld EC_MARK0_DEV p (b 242 + 256 * b 243 + 65536 * b 244 + 16777216 * b 245) s)

/-! ### The remap pool (R399) -/

/-- The pool entry of a remap entry. -/
def poolEntry (p slot key : Nat) : Nat × Nat := (key + 2 ^ 31, p + 32 * slot)

/-- The ACTIVE entries of every port. -/
def activeRemaps (s : State) : List (Nat × Nat) :=
  s.ports.flatMap fun e => (e.2.prot.remap.filter fun r => r.2.st = .active).map fun r => poolEntry e.1 r.1 r.2.key

/-- Place an entry in the first free place; a full pool does not record it. -/
def poolAdd : List (Nat × Nat) → Nat × Nat → List (Nat × Nat)
  | [], _ => []
  | x :: l, e => if x = (0, 0) then e :: l else x :: poolAdd l e

/-- The pool as it should stand. -/
def poolNext (s : State) : List (Nat × Nat) :=
  let want := activeRemaps s
  let old := (List.range 184).map fun i => (bbrWord s (0x270 + 2 * i), bbrWord s (0x271 + 2 * i))
  let kept := old.map fun e => if want.contains e then e else (0, 0)
  (want.filter fun e => !kept.contains e).foldl poolAdd kept

/-- Copy the ACTIVE entries into the pool, and free the entries that left ACTIVE. -/
def savePool (s : State) : State := imagePut 0x270 ((poolNext s).flatMap fun e => [e.1, e.2]) s

/-- Remap entries of a port as the pool holds them; slots in the scratchpad return with every line poisoned (R244). -/
def loadPool (p : Nat) (s : State) : State :=
  let mine := ((List.range 184).map fun i => (bbrWord s (0x270 + 2 * i), bbrWord s (0x271 + 2 * i))).filter fun e =>
    bits e.1 31 1 = 1 && bits e.2 0 5 = p
  let lines := 2 ^ lineLog s p
  let put (m : SMap Remap) (e : Nat × Nat) : SMap Remap :=
    mput m (bits e.2 5 6) { key := bits e.1 0 30, st := .active, copied := lines,
                            poison := if fld s RM_CTL_LOC p = 1 then List.range lines else [] }
  remapStat p (modProt p (fun q => { q with remap := mine.foldl put [] }) s)

/-- Trim records and pool follow what is in force (R218, R230, R244): at global boundaries, and in an entry into E3 (R416). -/
def saveImages (s : State) : State := savePool ((List.range 20).foldl saveTrims s)

/-! ### Descriptor and commit (R396, R397) -/

/-- The port record of the descriptor. -/
def portRecord (s : State) (p : Nat) (state : Nat) : Nat :=
  if !portImpl s.part.variant p then 0
  else state + 16 * speedOf s p + (if cx2 s p then 128 else 0) + 256 * shedSet s p

/-- Words 0x040 to 0x05B, the fail-area base and the port records, from the port states at the freeze. (Log 64: DEDUCED.) -/
def descriptor (states : List Nat) (s : State) : List (Nat × Nat) :=
  let dom := s.en.frozen.toNat
  let c := s.count.toNat
  let fa := flg s PLN_FAREA_LO_EN
  [(16, 1 + 256 * s.en.pfReason.toNat), (17, c % 2 ^ 32), (18, c / 2 ^ 32), (19, dom % 2 ^ 32), (20, bits dom 32 32), (21, bits dom 64 9),
   (22, s.en.lostH), (29, if fa then fld s PLN_FAREA_LO_BASE * 4096 else 0), (30, if fa then fld s PLN_FAREA_HI_BASE else 0)]
    ++ (List.range 20).map fun p => (31 + p, portRecord s p ((states[p]?).getD 0))

/-- CRC-32C over 0x040 to 0xF7F. -/
def imageCrc (s : State) : Nat := crc32c ((List.range 0x3D0).flatMap fun i => leBytes 4 (bbrWord s (0x10 + i)))

/-- The image is committed (R397). -/
def committed (s : State) : Bool := bbrWord s 0 = 0xC3A5 && bits (bbrWord s 3) 0 1 = 1 && bbrWord s 2 = imageCrc s

/-- A bit of BBR_STAT. -/
def bbrStat (bit : Nat) (b : Bool) (s : State) : State := setBbr 3 (withBits (bbrWord s 3) bit 1 (if b then 1 else 0)) s

/-- Steps 5 and 6: descriptor, pool, CRC, then the commit flag (R393, R397). -/
def commitImage (states : List Nat) (s : State) : State :=
  let s1 := (descriptor states s).foldl (fun t e => setImage e.1 e.2 t) s
  let s2 := savePool s1
  let s3 := setBbr 1 ((bbrWord s2 1 + 1) % 2 ^ 32) s2
  let s4 := bbrStat 2 true (bbrStat 3 (flg s3 PLN_FAREA_LO_EN) (bbrStat 5 s3.en.pfLost s3))
  setBbr 0 0xC3A5 (setBbr 2 (imageCrc s4) s4)

end Sys2Proof.Machine
end

