-- ==== Sys2Proof/Machine/Serial.lean ====
section
/-!
DEFINITION. Commands of a serial port's link: lanes, spare, relink, packets from the buffer, refusals, alerts, counters
(chapter 7, with R125 to R129 and R231).
-/

namespace Sys2Proof.Machine

/-! ### Lanes and map (R167 to R174); direction true is buffer to engine -/

def lanesOf (s : State) (p : Nat) (rx : Bool) : SMap Lane := if rx then (portOf s p).link.rx else (portOf s p).link.tx
def modLane (p : Nat) (rx : Bool) (j : Nat) (g : Lane → Lane) (s : State) : State :=
  modLink p (fun k => if rx then { k with rx := mput k.rx j (g (laneOf k.rx j)) } else { k with tx := mput k.tx j (g (laneOf k.tx j)) }) s

def spareOf (s : State) (p : Nat) (rx : Bool) : SpareUse := if rx then (portOf s p).link.spareRx else (portOf s p).link.spareTx
def spareLane (s : State) (p : Nat) (rx : Bool) : Option Nat := if rx then (portOf s p).link.spareRxLane else (portOf s p).link.spareTxLane
def spareUsed (s : State) (p : Nat) (rx : Bool) : Bool := if rx then (portOf s p).link.usedRx else (portOf s p).link.usedTx

/-- SL_STAT.SPARE: a spare stands in, in either direction. -/
def SpareUse.inPlace : SpareUse → Bool
  | .stands _ => true
  | .turn _ _ => true
  | _ => false

def setSpare (p : Nat) (rx : Bool) (u : SpareUse) (s : State) : State :=
  let s1 := modLink p (fun k => if rx then { k with spareRx := u } else { k with spareTx := u }) s
  setFld SL_STAT_SPARE p (if (spareOf s1 p true).inPlace || (spareOf s1 p false).inPlace then 1 else 0) s1

/-- Physical lane of a logical lane, and the reverse, by the map in force. -/
def mapWord (s : State) (p : Nat) (rx : Bool) : Nat := if rx then fld s SL_LANE_RX_MAP p else fld s SL_LANE_TX_MAP p
def setMap (p : Nat) (rx : Bool) (v : Nat) (s : State) : State := if rx then setFld SL_LANE_RX_MAP p v s else setFld SL_LANE_TX_MAP p v s
def physOf (s : State) (p : Nat) (rx : Bool) (k : Nat) : Nat := bits (mapWord s p rx) (4 * k) 4
def logicalOf (s : State) (p : Nat) (rx : Bool) (j : Nat) : Option Nat := (List.range 8).find? fun k => physOf s p rx k = j
def mapLane (p : Nat) (rx : Bool) (k j : Nat) (s : State) : State := setMap p rx (withBits (mapWord s p rx) (4 * k) 4 j) s

def badBit (p : Nat) (rx : Bool) (j b : Nat) (s : State) : State :=
  if rx then setFld SL_STAT_RXBAD p (withBits (fld s SL_STAT_RXBAD p) j 1 b) s
  else setFld SL_STAT_TXBAD p (withBits (fld s SL_STAT_TXBAD p) j 1 b) s

/-- The link carries packets. -/
def linkRuns (s : State) (p : Nat) : Bool := serial p && fld s SL_STAT_WIDTH p ≠ 0

/-! ### Link loss and recovery (R188 to R190) -/

/-- The lanes return to HUNT; what rides on them stops. -/
def lanesDown (p : Nat) (s : State) : State :=
  let hunt (e : Nat × Lane) : Nat × Lane := (e.1, { e.2 with blockLock := false, cwLock := false, healthy := false })
  let s1 := modLink p (fun k => { k with rx := k.rx.map hunt, tx := k.tx.map hunt, nakSent := false, naks := 0 }) s
  setSpare p true .idle (setSpare p false .idle (setFld SL_STAT_WIDTH p 0 (setFld SL_STAT_RXLOCK p 0
    (setMap p true 0xFFFFFFFF (setMap p false 0xFFFFFFFF s1)))))

/-- The link of a port is lost (R188). -/
def linkLoss (p : Nat) (s : State) : State :=
  if !linkRuns s p then s else
  let s1 := abortPause p s
  let s2 := if (portOf s1 p).link.lost then s1
    else modLink p (fun k => { k with was := pstateCode p (pstate s p) }) s1
  let s3 := modMarks p (fun m => { m with t1 := none }) (setFld TS_THETA_ALIGNED p 0 s2)
  let s4 := modLink p (fun k => { k with lost := true, lostAt := if k.lost then k.lostAt else s.clk, relinked := false }) (lanesDown p s3)
  let s5 := if pstate s p = .link then s4 else setPstate p .linkDown s4
  raise 15 (addFld SL_CNT1_LINKLOSS p 1 s5) (some p)

/-- The spare is needed: a loop test on it ends at once, with the bit errors that it had counted (R174, R360). -/
def endLoop (p : Nat) (s : State) : State :=
  match (portOf s p).link.loop with
  | none => s
  | some (_, h, _) =>
    let s1 := modLink p (fun k => { k with loop := none }) (addFld SL_CNT2_LOOPERR p 1 s)
    match h with
    | some k =>
      let e := drawFree s1
      endHandle k 0x28 0 e.1 e.2
    | none => s1

/-- The spare shadows a logical lane (R171). -/
def shadow (p : Nat) (rx : Bool) (k : Nat) (s : State) : State :=
  let s1 := sendPacket p (.control 0x04 (k * 2 + (if rx then 1 else 0))) (endLoop p s)
  setSpare p rx (.shadow k s.clk) s1

/-- A physical lane has failed (R173, R174). -/
def laneFault (p : Nat) (rx : Bool) (j : Nat) (s : State) : State :=
  let s1 := badBit p rx j 1 (modLane p rx j (fun x => { x with bad := true }) s)
  if spareLane s p rx = some j then
    (match spareOf s p rx with
     | .stands _ => linkLoss p s1
     | _ => setSpare p rx .idle (modLink p (fun k => if rx then { k with spareRxLane := none } else { k with spareTxLane := none }) s1))
  else match logicalOf s p rx j with
    | none => s1
    | some k =>
      match spareOf s p rx with
      | .stands _ => linkLoss p s1
      | _ => shadow p rx k s1

/-- A weak lane is replaced by a planned switch, if the spare is free (R173). (Log 106: DEDUCED.) -/
def laneWeak (p : Nat) (rx : Bool) (j : Nat) (s : State) : State :=
  let s1 := badBit p rx j 1 (modLane p rx j (fun x => { x with weak := true }) s)
  match logicalOf s p rx j, spareOf s p rx, spareLane s p rx with
  | some k, .idle, some _ => shadow p rx k s1
  | _, _, _ => s1

/-- LANE_LOCK_LOSS: the receiver sends a NAK for the first packet that it lost. -/
def execLaneLockLoss (p : Fin 20) (lane : Fin 9) (s : State) : Out :=
  onPin p s fun s =>
    if !serial p.val then s else
    let s1 := setFld SL_STAT_RXLOCK p.val (withBits (fld s SL_STAT_RXLOCK p.val) lane.val 1 0)
      (modLane p.val true lane.val (fun x => { x with blockLock := false, cwLock := false, healthy := false }) s)
    if !linkRuns s p.val then s1
    else
      let s2 := if (logicalOf s p.val true lane.val).isSome && !(portOf s p.val).link.nakSent then
        sendPacket p.val (.credit (portOf s p.val).link.rxSeq true) (modLink p.val (fun k => { k with nakSent := true, nakAt := s.clk }) s1) else s1
      laneFault p.val true lane.val s2

/-- LANE_LOCK_ACQUIRED (R167, R168). -/
def execLaneLockAcquired (p : Fin 20) (lane : Fin 9) (s : State) : Out :=
  onPin p s fun s =>
    if !serial p.val || pstate s p.val = .off then s else
    setFld SL_STAT_RXLOCK p.val (withBits (fld s SL_STAT_RXLOCK p.val) lane.val 1 1)
      (modLane p.val true lane.val (fun x => { x with blockLock := true, cwLock := true }) s)

/-- LANE_WEAK: what one lane delivered within 1 ms (R169, R173). -/
def execLaneWeak (p : Fin 20) (lane : Fin 9) (symbols uncorrectable : Nat) (s : State) : Out :=
  onPin p s fun s =>
    if !native s p.val || !linkRuns s p.val then s else
    let s1 := addFld SL_CNT1_UNCW p.val uncorrectable s
    if fld s SL_FAULT_UNC p.val ≤ uncorrectable then laneFault p.val true lane.val s1
    else if fld s SL_FAULT_SYM p.val ≠ 0 && fld s SL_FAULT_SYM p.val < symbols then laneWeak p.val true lane.val s1
    else s1

/-- SPARE_SWITCH: the receiver switches the shadowed lane to the spare; a takeover of a faulty lane is counted (R171, R173). -/
def spareSwitch (p : Nat) (rx : Bool) (s : State) : State :=
  match spareOf s p rx, spareLane s p rx with
  | .shadow k _, some j =>
    let old := physOf s p rx k
    let was := laneOf (lanesOf s p rx) old
    let s1 := mapLane p rx k j (setSpare p rx (.stands k) s)
    let s2 := modLink p (fun x => if rx then { x with usedRx := true } else { x with usedTx := true }) s1
    if was.bad then raise 14 (addFld SL_CNT1_TAKEOVER p 1 s2) (some p) else raise 14 s2 (some p)
  | _, _ => s

def execSpareSwitch (p : Fin 20) (dir : Bool) (s : State) : Out :=
  onPin p s fun s => if linkRuns s p.val then spareSwitch p.val dir s else s

/-- TAKEOVER_TIMEOUT (R174). -/
def execTakeoverTimeout (p : Fin 20) (dir : Bool) (s : State) : Out :=
  onPort p s fun s =>
    match spareOf s p.val dir with
    | .shadow k t =>
      let bad := (laneOf (lanesOf s p.val dir) (physOf s p.val dir k)).bad
      if serial p.val && bad && t + fld s SL_CTL_TKO p.val * edgesUs ≤ s.clk then linkLoss p.val s else s
    | _ => s

/-! ### Rolling recalibration (R172, R210) -/

def recalNextOf (s : State) (p : Nat) (rx : Bool) : Nat := if rx then (portOf s p).link.recalNext else (portOf s p).link.recalNextTx
def recalDueOf (s : State) (p : Nat) (rx : Bool) : Nat := if rx then (portOf s p).link.recalDue else (portOf s p).link.recalDueTx

/-- The lane rate that the port should run: RATE, or a step down by the power window (Table 14.2). -/
def rateOf (s : State) (p : Nat) : Nat :=
  let r := fld s SP_CTL_RATE p
  if r = 0 && 2 ≤ fld s PW_STAT_STAGE && bits (fld s PW_KEEP_PORTS) p 1 = 0 then 1 else r

def rateWaits (s : State) (p : Nat) : Bool := native s p && (portOf s p).link.rate.toNat ≠ rateOf s p

/-- RECAL_TURN: the spare takes the next lane of the direction. -/
def execRecalTurn (p : Fin 20) (dir : Bool) (s : State) : Out :=
  onPort p s fun s =>
    let k := recalNextOf s p.val dir % 8
    let fits : Bool := match spareOf s p.val dir, spareLane s p.val dir with
      | .idle, some j => !(laneOf (lanesOf s p.val dir) j).bad && !spareUsed s p.val dir
      | _, _ => false
    if !(native s p.val && linkRuns s p.val && pstate s p.val = .service && fld s SL_STAT_LSTATE p.val = 0 && flg s SL_RECAL_EN p.val && fits
        && !rateWaits s p.val && recalDueOf s p.val dir ≤ s.clk && s.pw.st.toNat ≤ 1) then s
    else
      let due := s.clk + fld s SL_RECAL_CYCLE p.val * edgesMs / 8
      modLink p.val (fun x => if dir then { x with recalDue := due } else { x with recalDueTx := due }) (setSpare p.val dir (.turn k s.clk) s)

/-- One measured item of a turn: judged; REJMAX rejections in succession make the lane weak (R216). -/
def judgeLane (p : Nat) (rx : Bool) (j : Nat) (m : Meas) (s : State) : State :=
  if resultOk s p m then accept p m s
  else
    let r := rejectItem p m s
    if r.1 then laneWeak p rx j r.2 else r.2

/-- The measurements of a turn with their quality record; they count only within HOLD. -/
def judgeTurn (p : Nat) (rx : Bool) (j : Nat) : Bool → List Meas → State → State
  | _, [], s => s
  | first, m :: l, s =>
    let x : Meas := { m with step := 0xB, ch := if rx then 0 else 1, sub := 0, rank := 0, bit := m.bit }
    let ok := resultOk s p x
    judgeTurn p rx j false l (noteQuality p (qualKey (if rx then 2 else 3) j 0 0) first x (!ok) (judgeLane p rx j x s))

/-- RECAL_RETURN: the lane takes its own place again with the settings accepted. -/
def execRecalReturn (p : Fin 20) (dir : Bool) (runs : List Meas) (s : State) : Out :=
  onPin p s fun s =>
    match spareOf s p.val dir with
    | .turn k t =>
      let j := physOf s p.val dir k
      let s1 := setSpare p.val dir .idle s
      let s2 := if s.clk ≤ t + fld s SL_RECAL_HOLD p.val * edgesUs then judgeTurn p.val dir j true runs s1 else s1
      sendPacket p.val (.control 0x06 (k * 2 + (if dir then 1 else 0)))
        (modLink p.val (fun x => if dir then { x with recalNext := (k + 1) % 8 } else { x with recalNextTx := (k + 1) % 8 }) s2)
    | _ => s

/-! ### Link up, relink, timeouts (R170, R188, R189, R197, R198) -/

/-- The 4 or 8 lowest healthy lanes as a map word. -/
def mapOf (l : List Nat) (n : Nat) : Nat :=
  (List.range 8).foldl (fun v k => v + (if k < n then (l[k]?).getD 15 else 15) * 2 ^ (4 * k)) 0

/-- Healthy lanes of a LINKUP list; the engine's own receivers must have passed the soak. -/
def healthyOf (s : State) (p : Nat) (own : Bool) (v : BitVec 9) : List Nat :=
  (List.range 9).filter fun j => v.getLsbD j && (!own || (laneOf (portOf s p).link.rx j).healthy)

/-- The maps of both directions come into force; what earlier faults left is gone. -/
def linkMap (p : Nat) (rx tx : List Nat) (s : State) : State :=
  let full := 8 ≤ rx.length && 8 ≤ tx.length
  let n := if full then 8 else 4
  let clean (e : Nat × Lane) : Nat × Lane := (e.1, { e.2 with bad := false, weak := false })
  let s1 := modLink p (fun k => { k with
    rx := k.rx.map clean, tx := k.tx.map clean, usedRx := false, usedTx := false, spareRx := .idle, spareTx := .idle,
    spareRxLane := if full then rx[8]? else none, spareTxLane := if full then tx[8]? else none,
    recalDue := s.clk, recalDueTx := s.clk }) s
  let s2 := setFld SL_STAT_WIDTH p (if full then 1 else 2) (setFld SL_STAT_LSTATE p 0 (setFld SL_STAT_RXBAD p 0 (setFld SL_STAT_TXBAD p 0
    (setMap p true (mapOf rx n) (setMap p false (mapOf tx n) s1)))))
  if full then s2 else raise 13 s2 (some p)

/-- Both sequence series restart (RESET_SEQ). -/
def resetSeq (p : Nat) (s : State) : State :=
  modLink p (fun k => { k with txSeq := 0, rxSeq := 0, retry := [], naks := 0, nakSent := false, ctlCredit := 8, sent := .control 0x0B 0 :: k.sent.take 255 }) s

/-- LINKUP: both sides hold each other's lists. -/
def linkup (p : Nat) (rx tx : BitVec 9) (s : State) : State :=
  let a := healthyOf s p true rx
  let b := healthyOf s p false tx
  if a.length < 4 || b.length < 4 then s
  else if pstate s p = .link then
    resetSeq p (modLink p (fun k => { k with rate := BitVec.ofNat 2 (rateOf s p), cap := [], lost := false }) (linkMap p a b s))
  else if (portOf s p).link.lost && !(portOf s p).link.relinked && fld s SL_STAT_WIDTH p = 0 then linkMap p a b s
  else s

def execLinkup (p : Fin 20) (rx tx : BitVec 9) (s : State) : Out :=
  onPin p s fun s => if serial p.val && (pstate s p.val = .link || pstate s p.val = .linkDown) then linkup p.val rx tx s else s

/-- Packets up to the number that the other side expects have arrived there (R186). -/
def ackTo (p : Nat) (ack : BitVec 12) (s : State) : State :=
  let k := (portOf s p).link
  let left := (k.txSeq - ack).toNat
  if k.retry.length < left then s
  else
    let kept := k.retry.drop (k.retry.length - left)
    let waits := kept.any fun x => match x with
      | .control c _ => c = 0x0D
      | _ => false
    let done := k.codeSent && !waits
    modLink p (fun x => { x with
      retry := kept, naks := if kept.length < k.retry.length then 0 else x.naks,
      codeDue := x.codeDue && !done, codeSent := x.codeSent && !done }) s

/-- Time marks among packets that are replayed are void (R182). -/
def voidMarks (p : Nat) (s : State) : State :=
  let any1 := (portOf s p).link.retry.any fun x => match x with
    | .mark _ _ => true
    | _ => false
  if any1 then modMarks p (fun m => { m with void := m.void || m.t1.isSome }) s else s

/-- RESUME: replay from the number that the other side names; after the link timeout RESET_SEQ takes its place (R188, R189). -/
def resumeFrom (p : Nat) (seq : BitVec 12) (s : State) : State :=
  let k := (portOf s p).link
  if !(k.lost && !k.relinked && linkRuns s p) then s
  else
    let go (t : State) : State := modMarks p (fun m => { m with t1 := none, due := s.clk }) (modLink p (fun x => { x with relinked := true }) t)
    if k.timedOut then go (resetSeq p s)
    else if k.retry.length < (k.txSeq - seq).toNat then linkLoss p s
    else
      let s1 := voidMarks p (ackTo p seq s)
      let s2 := if (portOf s1 p).link.retry = [] then s1 else addFld SL_CNT0_RETRY p 1 s1
      if cx2 s p then alignedNow p (go s2) else go s2

/-- RELINK: the number that the buffer names is known after relock. -/
def execRelink (p : Fin 20) (seq : BitVec 12) (s : State) : Out := onPin p s (resumeFrom p.val seq)

/-- RESUME from the buffer: its channels may have entered self-refresh on their own (R190). -/
def execResume (p : Fin 20) (seq : BitVec 12) (_lost : BitVec 16) (sr : Bool) (s : State) : Out :=
  onPin p s fun s =>
    if !((portOf s p.val).link.lost && linkRuns s p.val) then s else
    let s1 := modLink p.val (fun k => { k with srSelf := sr || k.srSelf }) s
    let s2 := if sr then modSched p.val (fun q => { q with subs := q.subs.map fun e =>
      (e.1, { e.2 with openRows := [], hits := [], lastCol := [] }) }) s1 else s1
    resumeFrom p.val seq s2

/-- LINK_TIMEOUT: commands that the buffer acknowledged have executed; everything outstanding ends FAIL_LINK. -/
def execLinkTimeout (p : Fin 20) (s : State) : Out :=
  onPort p s fun s =>
    let k := (portOf s p.val).link
    if !(serial p.val && pstate s p.val = .linkDown && k.lost && !k.timedOut && k.lostAt + fld s SL_CTL_TMO p.val * edgesMs ≤ s.clk) then s
    else
      let n := ((portOf s p.val).sched.retry.takeWhile fun i => acked s p.val i).length
      let s1 := goodAll p.val n s
      let r := failAll p.val s1
      modLink p.val (fun x => { x with retry := [], timedOut := true, srSelf := true }) (addFld TS_CNT1_LINKFAIL p.val r.1 r.2)

/-- LINK_UP_TIMEOUT (R198). -/
def execLinkUpTimeout (p : Fin 20) (s : State) : Out :=
  onPort p s fun s =>
    if serial p.val && pstate s p.val = .link && (portOf s p.val).link.linkAt + fld s SL_CTL_TMO p.val * edgesMs ≤ s.clk then
      refusePort p.val 0xA 0 0 s
    else s

/-! ### Rate changes (R176) -/

/-- RATE_CHANGE: the change is placed as a pause; in it the link retunes and the port realigns; a pause that overruns is counted. -/
def rateChange (p : Nat) (s : State) : State :=
  let q := (portOf s p).sched
  let queued (t : State) (k : Nat) : Bool := (portOf t k).sched.pauses.any fun x => x.kind = kindRate
  match q.pause with
  | some (x, e) =>
    if x.kind ≠ kindRate then s
    else if rateWaits s p then
      (if q.retry ≠ [] then s
       else
         let s1 := modLink p (fun k => { k with rate := BitVec.ofNat 2 (rateOf s p) }) (sendPacket p (.control 0x08 (rateOf s p)) s)
         modMarks p (fun m => { m with t1 := none, due := s.clk, realign := true }) (setFld TS_THETA_ALIGNED p 0 s1))
    else if e ≤ s.clk then
      (let s1 := modSched p (fun y => { y with pause := none }) s
       if flg s TS_THETA_ALIGNED p then s1 else addFld SL_CNT1_LINKLOSS p 1 s1)
    else s
  | none =>
    if rateWaits s p && pstate s p = .service && !((List.range 20).any (queued s)) then
      modSched p (fun y => { y with pauses := y.pauses ++ [{ kind := kindRate, rank := 0, len := 800, due := s.clk }] }) s
    else s

def execRateChange (p : Fin 20) (s : State) : Out := onPort p s (rateChange p.val)

/-! ### Packets from the buffer (R177 to R186) -/

/-- A packet is accepted in its turn. -/
def rxPacket (p : Nat) (s : State) : State := modLink p (fun k => { k with rxSeq := k.rxSeq + 1, nakSent := false }) s

/-- An arrival over the link of port p: none while the link is down. -/
def onLink (p : Fin 20) (s : State) (f : State → State) : Out :=
  onPin p s fun s => if linkRuns s p.val && (!(portOf s p.val).link.lost || (portOf s p.val).link.relinked) then f (rxPacket p.val s) else s

/-- A link protocol error: acknowledged, discarded, counted (Table 7.5). (Log 107: DEDUCED.) -/
def linkProto (p : Nat) (s : State) : State := raise 16 (addFld SL_CNT2_PROTO p 1 s) (some p)

/-- PACKET_RESERVED. -/
def execPacketReserved (p : Fin 20) (s : State) : Out := onLink p s (linkProto p.val)

/-- PACKET_CRC_FAIL: the packet is discarded, and a NAK names the number expected (R186). -/
def execPacketCrcFail (p : Fin 20) (s : State) : Out :=
  onPin p s fun s =>
    if !linkRuns s p.val then s else
    let s1 := addFld SL_CNT0_CRCERR p.val 1 s
    if (portOf s p.val).link.nakSent then s1
    else sendPacket p.val (.credit (portOf s p.val).link.rxSeq true) (modLink p.val (fun k => { k with nakSent := true, nakAt := s.clk }) s1)

/-- Round trip of a port in ticks, rounded up. -/
def rttTicks (s : State) (p : Nat) : Nat := (fld s TS_MEAS_RTT p + 255) / 256

/-- NAK_REPEAT: 2 × rtt after the last NAK. -/
def execNakRepeat (p : Fin 20) (s : State) : Out :=
  onPort p s fun s =>
    let k := (portOf s p.val).link
    if linkRuns s p.val && k.nakSent && k.nakAt + 2 * rttTicks s p.val ≤ s.clk then
      sendPacket p.val (.credit k.rxSeq true) (modLink p.val (fun x => { x with nakAt := s.clk }) s)
    else s

/-- NAK: replay from the named packet; RETRY of them in succession for one number lose the link. -/
def execNak (p : Fin 20) (ack : BitVec 12) (s : State) : Out :=
  onLink p s fun s =>
    let s1 := ackTo p.val ack s
    let k := (portOf s1 p.val).link
    let n := if k.nakSeq = ack then k.naks + 1 else 1
    let s2 := voidMarks p.val (addFld SL_CNT0_RETRY p.val 1 (modLink p.val (fun x => { x with naks := n, nakSeq := ack }) s1))
    if fld s SL_CTL_RETRY p.val ≤ n then linkLoss p.val s2 else s2

/-- CREDIT_ACK. -/
def execCreditAck (p : Fin 20) (ack : BitVec 12) (ctlcr : BitVec 4) (s : State) : Out :=
  onLink p s fun s => ackTo p.val ack (modLink p.val (fun k => { k with ctlCredit := min 8 (k.ctlCredit + ctlcr.toNat) }) s)

/-- What the buffer is, once it has said so; an enable in state LINK goes on, or the port is refused (R197, R198). The asymmetry trim
rests on latencies of the part and the buffer (R192). -/
def identified (p : Nat) (kind : Nat) (s : State) : State :=
  if kind = 3 then refusePort p 0xC 0 0 s
  else if kind = 2 || (kind = 1) ≠ cx2 s p then refusePort p 0xB 0 0 s
  else
    let s1 := setFld SP_STAT_BUF p kind s
    if cx2 s p then
      setPstate p .power (modDram p (fun d => { d with pwrEn := some s.clk, prEnBall := true }) s1)
    else
      let a := drawFree s1
      modMarks p (fun m => { m with due := s.clk, t1 := none }) (setPstate p .align (engFld TS_ASYM_A p a.1 a.2))

/-- CAP: index 0 names the buffer. (Log 102: DEDUCED.) -/
def execCap (p : Fin 20) (index : BitVec 8) (content : BitVec 56) (s : State) : Out :=
  onLink p s fun s =>
    let s1 := modLink p.val (fun k => { k with cap := mput k.cap index.toNat content }) s
    if pstate s p.val = .link && index = 0 then identified p.val (Config.bufferKind content).val s1 else s1

/-! ### Read data (R128, R181, R231) -/

/-- The read column command of a sub-channel with a stamp. -/
def readOf (s : State) (p sub : Nat) (stamp : BitVec 28) : Option Issued :=
  (portOf s p).sched.retry.find? fun i => i.loc.sub = sub && i.stamp = stamp && (i.op.isRead || i.op = .amo) && i.req.isSome

/-- Data or a report of a column command shows that it, and what came before it, has executed. -/
def executed (p sub : Nat) (stamp : BitVec 28) (s : State) : State :=
  match readOf s p sub stamp with
  | none => s
  | some i => goodAll p (((portOf s p).sched.retry.takeWhile fun x => x.seq ≠ i.seq).length + 1) s

def flightOf (s : State) (p sub : Nat) (stamp : BitVec 28) : Option Flight :=
  (portOf s p).sched.flight.find? fun f => f.sub = sub && f.stamp = stamp

def isDemand (f : Flight) : Bool :=
  match f.req.kind with
  | .read => true
  | .amo _ _ _ _ => true
  | _ => false

/-- READ_DATA_PACKET. -/
def execReadDataPacket (p : Fin 20) (sub : Fin 4) (stamp : BitVec 28) (poison : Bool) (data : Line) (s : State) : Out :=
  onLink p s fun s =>
    let s1 := executed p.val sub.val stamp s
    match flightOf s1 p.val sub.val stamp with
    | none => linkProto p.val s1
    | some f =>
      let g : Flight := { f with data := data, poison := poison || f.poison }
      if isDemand f then
        landFlight p.val { g with poison := poison } 0 (modSched p.val (fun q => { q with flight := q.flight.filter fun x => x.id ≠ f.id }) s1)
      else modSched p.val (fun q => { q with flight := q.flight.map fun x => if x.id = f.id then { g with poison := poison } else x }) s1

/-- READ_DATA_LOST: a read executes again, unless a later write to its line has executed; a far atomic does not (Table 5.3). -/
def execReadDataLost (p : Fin 20) (id : Nat) (s : State) : Out :=
  onPort p s fun s =>
    if !serial p.val then s else
    match takeFlight p.val (fun f => f.id = id) s with
    | none => s
    | some (f, s1) =>
      let far := match f.req.kind with
        | .amo _ _ _ _ => true
        | _ => false
      if far || f.overwritten then failOne p.val true (addFld TS_CNT1_LINKFAIL p.val 1 s1) f.req
      else modSched p.val (fun q => { q with queue := f.req :: q.queue }) s1

/-- ERR: what the buffer's decoder found, before the data of the line (R231). -/
def execErr (p : Fin 20) (kind : BitVec 2) (sub : Fin 4) (stamp : BitVec 28) (sym : BitVec 5) (s : State) : Out :=
  onLink p s fun s =>
    if kind = 3 then linkProto p.val s else
    let s1 := executed p.val sub.val stamp s
    match flightOf s1 p.val sub.val stamp with
    | none => linkProto p.val s1
    | some f =>
      let n := drawFree s1
      modSched p.val (fun q => { q with flight := q.flight.map fun x => if x.id = f.id then { x with err := some (kind, sym, n.1) } else x }) n.2

/-! ### Refusals (R126, R127) -/

/-- Insert a command into the replays in its original order. -/
def insIssued : List Issued → Issued → List Issued
  | [], i => [i]
  | x :: l, i => if i.seq < x.seq then i :: x :: l else x :: insIssued l i

/-- A refused command is to be stamped anew. -/
def restamp (p : Nat) (i : Issued) (late : Bool) (s : State) : State :=
  let first := !((portOf s p).sched.replay.any fun x => x.loc.sub = i.loc.sub && sameBank x.loc i.loc)
  addFld TS_CNT0_RESTAMP p 1 (modSched p (fun q => { q with
    retry := q.retry.filter (fun x => x.seq ≠ i.seq), replay := insIssued q.replay { i with unblk := late && first } }) s)

/-- FAR and BADSTAMP: once stamped anew, then the request fails. -/
def refusedFar (p : Nat) (i : Issued) (s : State) : State :=
  match i.req with
  | none => restamp p i false s
  | some q =>
    if (portOf s p).link.far.contains q.id then
      failOne p false (modSched p (fun x => { x with retry := x.retry.filter fun y => y.seq ≠ i.seq }) s) q
    else restamp p i false (modLink p (fun k => { k with far := q.id :: k.far }) s)

/-- REFUSE. -/
def execRefuse (p : Fin 20) (code : BitVec 4) (sub : Fin 4) (stamp : BitVec 28) (s : State) : Out :=
  onLink p s fun s =>
    match (portOf s p.val).sched.retry.find? fun i => i.loc.sub = sub.val && i.stamp = stamp with
    | none => linkProto p.val s
    | some i =>
      match code.toNat with
      | 1 => restamp p.val i true (addFld TS_CNT0_LATE p.val 1 s)
      | 2 => restamp p.val i false s
      | 3 => refusedFar p.val i (linkProto p.val s)
      | 4 => refusedFar p.val i (linkProto p.val s)
      | 5 => restamp p.val i false (modMarks p.val (fun m => { m with realign := true }) (setFld TS_THETA_ALIGNED p.val 0 s))
      | _ => linkProto p.val s

/-! ### Reports (Table 7.9) -/

/-- The commands of a channel before a stamp are good. -/
def goodBefore (p ch : Nat) (stamp : BitVec 28) (s : State) : State :=
  let mine := (portOf s p).sched.retry.filter fun i => i.loc.sub / 2 = ch
  let early := mine.takeWhile fun i => i.stamp ≠ stamp
  if early.length = mine.length then s else
  early.foldl (fun t i =>
    let t1 := modSched p (fun q => { q with retry := q.retry.filter fun x => x.seq ≠ i.seq }) t
    match i.req with
    | none => t1
    | some q => colEffect p q i.stamp t1) s

/-- ALERT from the buffer (R194): its channel is replayed from the stamp. -/
def execAlertPacket (p : Fin 20) (channel crc : Bool) (stamp : BitVec 28) (s : State) : Out :=
  onLink p s fun s =>
    let ch := if channel then 1 else 0
    match pstate s p.val with
    | .service =>
      let s1 := abortPause p.val (goodBefore p.val ch stamp (countAlert p.val crc s))
      let d := (portOf s1 p.val).dram
      if !d.escalated && d.alerts < fld s DP_ALERT_RETRY p.val then alertGo p.val ch true s1
      else modDram p.val (fun x => { x with alertRise := some s.clk, alertEnd := ch }) s1
    | .selfRefresh => addFld DP_CNT2_SPURIOUS p.val 1 s
    | .stopping => addFld DP_CNT2_SPURIOUS p.val 1 s
    | .halted => addFld DP_CNT2_SPURIOUS p.val 1 s
    | _ => s

/-- One DIMM's temperature from a TEMP packet. -/
def tempOne (p : Nat) (t : BitVec 32) (valid : BitVec 4) (s : State) (d : Nat) : State :=
  if valid.getLsbD d then
    heard p d (t.extractLsb' (8 * d) 8).toInt
      (setFld SP_TEMP_T p (withBits (fld s SP_TEMP_T p) (8 * d) 8 (bits t.toNat (8 * d) 8)) (setFld SP_TEMPV_V p (withBits (fld s SP_TEMPV_V p) d 1 1) s))
  else if mgetD (portOf s p).dram.tempAt d 0 + 1000 * edgesMs < s.clk then setFld SP_TEMPV_V p (withBits (fld s SP_TEMPV_V p) d 1 0) (staleHeat p d s)
  else s

/-- TEMP. -/
def execTemp (p : Fin 20) (t : BitVec 32) (valid : BitVec 4) (s : State) : Out := onLink p s fun s => [0, 1, 2, 3].foldl (tempOne p.val t valid) s

/-- LANE_FAULT: a lane of the engine's transmitters. -/
def execLaneFault (p : Fin 20) (lane : Fin 9) (weak : Bool) (s : State) : Out :=
  onLink p s fun s => if weak then laneWeak p.val false lane.val s else laneFault p.val false lane.val s

/-- REG_DATA. -/
def execRegData (p : Fin 20) (reg : BitVec 16) (val : BitVec 32) (s : State) : Out :=
  onLink p s (modLink p.val fun k => { k with regs := mput k.regs reg.toNat val })

/-- MRR_DATA: the value of a stamped mode register read; one that answers none is a protocol error. -/
def execMrrData (p : Fin 20) (stamp : BitVec 28) (val : BitVec 8) (sub : Fin 4) (s : State) : Out :=
  onLink p s fun s =>
    if (subOf s p.val sub.val).hist.any fun i => i.op = .mrr && i.stamp = stamp then
      modLink p.val (fun k => { k with regs := mput k.regs (0x10000 + sub.val) (val.setWidth 32) }) s
    else linkProto p.val s

/-- PWR: power good fell. -/
def execPwr (p : Fin 20) (dimms : BitVec 4) (s : State) : Out :=
  onLink p s fun s => if dimms ≠ 0 && inService s p.val then portHalt p.val 2 s else s

/-- CODE_UPDATE: no read is outstanding; the marks go out (R230). -/
def execCodeUpdate (p : Fin 20) (s : State) : Out :=
  onPort p s fun s =>
    let q := portOf s p.val
    let reads := q.sched.flight ≠ [] || q.sched.retry.any fun i => i.op.isRead && i.req.isSome
    if !(native s p.val && q.link.codeDue && !q.link.codeSent && !q.link.lost && !reads) then s
    else modLink p.val (fun k => { k with codeSent := true })
      (sendPacket p.val (.control 0x0D (fld s EC_MARK0_DEV p.val + fld s EC_MARK1_DEV p.val * 2 ^ 32)) s)

/-- SL_CNT_CLEAR. -/
def execSlCntClear (p : Fin 20) (v : BitVec 32) (s : State) : Out :=
  onPort p s fun s =>
    if serial p.val && v.getLsbD 0 && !s.pw.inReset then
      setWord (SL_CNT0_CRCERR.off p.val) 0 (setWord (SL_CNT1_UNCW.off p.val) 0 (setWord (SL_CNT2_LOOPERR.off p.val) 0 s))
    else s

/-- LINK_LOOP_DONE: the loop ends; its handle returns the bit errors (R360). -/
def execLinkLoopDone (p : Fin 20) (bitErrors : BitVec 64) (s : State) : Out :=
  onPort p s fun s =>
    match (portOf s p.val).link.loop with
    | some (_, h, e) =>
      if s.clk < e then s else
      let keep := h.isNone && flg s SL_LOOP_MODE p.val
      let s1 := modLink p.val (fun k => { k with loop := if keep then k.loop else none }) (addFld SL_CNT2_LOOPERR p.val bitErrors.toNat s)
      (match h with
       | some k => endHandle k 0 0 bitErrors.toNat s1
       | none => s1)
    | none => s

end Sys2Proof.Machine
end

