-- ==== Sys2Proof/Machine/HostRun.lean ====
section
/-!
DEFINITION. Host commands: the doorbell, the reading of descriptors, the start of a command and the push of its record (chapter 13).
-/

namespace Sys2Proof.Machine

/-! ### The doorbell (R354) -/

/-- The queue is enabled and does not act as disabled (R352). -/
def queueOn (s : State) (q : Nat) : Bool := flg s HC_QCFG_EN q && !(queueOf s q).stallOff

/-- Why a ring is refused: 0b01, 0b10 or 0b11; 0 where it is accepted. -/
def ringWhy (s : State) (q : Nat) : Nat :=
  let x := stallOf s (cmdStall s q)
  if !queueOn s q then 3
  else if x.wpos - x.h ≤ (queueOf s q).bound.length then 1
  else if outCount s ≥ 4096 || outOf s q ≥ fld s HC_QCFG_LIMIT q then 2
  else 0

/-- The lowest free handle slot. -/
def freeHandle (s : State) : Nat := ((List.range 4096).find? fun k => (handleOf s k).st = .free).getD 0

/-- A ring binds the oldest unbound word of the command stall to a handle. -/
def ringTake (q : Nat) (s : State) : State :=
  let k := freeHandle s
  let h : Handle := { st := .bound, gen := (handleOf s k).gen + 1, queue := Fin.ofNat 4 q, order := s.host.nextOrder, accept := tick s }
  let s1 := modQueue q (fun x => { x with bound := x.bound ++ [k] }) (setHandle k h { s with host := { s.host with nextOrder := s.host.nextOrder + 1 } })
  hostStat (setFld HC_QHANDLE_HANDLE q (handleNum s1 k) (setFld HC_QHANDLE_V q 1 (setFld HC_QHANDLE_WHY q 0 s1)))

/-- A write of HC_QDB. -/
def ring (q : Nat) (v : Word) (s : State) : State :=
  if !v.getLsbD 0 || s.pw.inReset || s.pw.st.toNat > 3 then s else
  match ringWhy s q with
  | 0 => ringTake q s
  | n => addFld HC_QSTAT_REFUSED q 1 (setFld HC_QHANDLE_V q 0 (setFld HC_QHANDLE_WHY q n s))

/-- DOORBELL. -/
def execDoorbell (q : Fin 4) (v : BitVec 32) (s : State) : Out :=
  .next (settle (
    let s1 := if v.getLsbD 0 && s.pw.st = 3 && flg s PWR_WAKE_DB then wake 2 s else if s.pw.st.toNat = 1 || s.pw.st.toNat = 2 then wake 2 s else s
    ring q.val v s1))

/-! ### Descriptors (R353, R355) -/

/-- Item i of a handle's descriptor; item 0 is the header. -/
def argN (h : Handle) (i : Nat) : Nat := ((h.items[i]?).getD 0).toNat

/-- Bits that each argument of a command uses (Table 13.5). -/
def argMask (opc : Nat) (onChip : Bool) : List Nat :=
  match opc with
  | 2 => [0x1FFFF]
  | 3 => [0x7F]
  | 4 => [2 ^ 64 - 1, 2 ^ 40 - 1]
  | 5 => if onChip then [0xFFFF] else [0xFF, 0x1F, 2 ^ 64 - 1, 2 ^ 40 - 1]
  | 6 => [2 ^ 64 - 1, 2 ^ 64 - 1, 2 ^ 32 - 1]
  | 7 => [2 ^ 64 - 1, 2 ^ 32 - 1, 2 ^ 64 - 1]
  | 8 => [2 ^ 64 - 1, 2 ^ 40 - 1]
  | 9 => [1]
  | 0xA => [0x3F, 2 ^ 30 - 1]
  | 0xB => [0xF1F]
  | 0xC => [0x3FFFF, 2 ^ 32 - 1]
  | 0xD => [7]
  | 0xE => [0x1F, 2 ^ 32 - 1]
  | 0xF => [0x1F]
  | 0x10 => [2 ^ 64 - 1, 2 ^ 18 - 1, 7, 2 ^ 64 - 1]
  | 0x11 => [7, 2 ^ 64 - 1, 2 ^ 26 - 1, 2 ^ 64 - 1]
  | _ => []

/-- A reserved header bit or an unused argument bit is set (step 3). -/
def dirtyArgs (h : Handle) : Bool :=
  let m := argMask h.opc.toNat (bits (argN h 1) 0 1 = 1)
  bits (argN h 0) 11 5 ≠ 0 || bits (argN h 0) 24 8 ≠ 0
    || (List.range 7).any fun i => argN h (i + 1) &&& (2 ^ 64 - 1 - (m[i]?).getD 0) ≠ 0

/-- Port that a command names, for the checks and for R359. -/
def namedPort (h : Handle) : Option Nat :=
  match h.opc.toNat with
  | 2 => some (bits (argN h 1) 0 5)
  | 3 => some (bits (argN h 1) 0 5)
  | 5 => if bits (argN h 1) 0 1 = 0 then some (bits (argN h 2) 0 5) else none
  | 0xA => some (bits (argN h 1) 0 5)
  | 0xB => some (bits (argN h 1) 0 5)
  | 0xC => some (bits (argN h 1) 0 5)
  | _ => none

/-- Ranges of lines that a command names, as address and count (R361, R363). -/
def namedRanges (h : Handle) : List (Nat × Nat) :=
  let a := argN h
  match h.opc.toNat with
  | 4 => [(a 1, a 2)]
  | 6 => [(a 1, a 3), (a 2, a 3)]
  | 7 => [(a 1, a 2)]
  | 8 => [(a 1, a 2 / 64)]
  | 0x10 => [(a 1, (a 2 + 63) / 64)]
  | _ => []

/-- A range meets a scratchpad bank that the variant lacks (R6). -/
def meetsAbsent (v : Variant) (r : Nat × Nat) : Bool :=
  max r.1 (spadBase + spadBanks v * 524288) < min (r.1 + 64 * r.2) (spadBase + 2 ^ 24)

/-- A unit that the variant lacks (step 4). -/
def absentArgs (s : State) (h : Handle) : Bool :=
  let v := s.part.variant
  let g := bits (argN h 1) 8 8
  (match namedPort h with
   | some p => p < 20 && !portImpl v p
   | none => false)
  || (h.opc = 5 && bits (argN h 1) 0 1 = 1 && groupListed g && !groupImpl v g)
  || ((h.opc = 0xE || h.opc = 0xF) && !fabImpl v (bits (argN h 1) 0 5))
  || (h.opc = 0x10 && 1 ≤ bits (argN h 3) 0 2 && ctxCount v ≤ bits (argN h 3) 0 2)
  || (namedRanges h).any (meetsAbsent v)

/-- A range of n lines from a lies below 2^46. -/
def rangeOk (a n : Nat) : Bool := a % 64 = 0 && 1 ≤ n && a + 64 * n ≤ 2 ^ 46

/-- Arguments within their ranges (step 5). -/
def argsInRange (s : State) (h : Handle) : Bool :=
  let a := argN h
  (match namedPort h with
   | some p => p < 20
   | none => true) &&
  (match h.opc.toNat with
   | 3 => bits (a 1) 5 2 ≠ 3
   | 4 => rangeOk (a 1) (a 2)
   | 5 => bits (a 1) 2 2 < 2 && (bits (a 1) 1 1 = 0 || bits (a 1) 4 4 ≠ 0)
      && (if bits (a 1) 0 1 = 1 then groupListed (bits (a 1) 8 8) else a 3 % 64 = 0 && 1 ≤ a 4)
   | 6 => rangeOk (a 1) (a 3) && rangeOk (a 2) (a 3) && (a 1 + 64 * a 3 ≤ a 2 || a 2 + 64 * a 3 ≤ a 1)
   | 7 => rangeOk (a 1) (a 2)
   | 8 => a 1 % 4096 = 0 && a 2 % 4096 = 0 && a 1 + a 2 ≤ 2 ^ 46
   | 0xB => bits (a 1) 8 4 ≤ 4
   | 0xC => 4 ≤ bits (a 1) 0 5 && bits (a 1) 16 2 ≤ 1 && 1 ≤ a 2
   | 0xD => a 1 ≤ 4
   | 0x10 => a 1 % 64 = 0 && a 1 + a 2 ≤ 2 ^ 46 && a 2 % 4 = 0 && 4 ≤ a 2 && a 2 ≤ 131072 && bits (a 3) 0 2 ≠ 0
       && a 2 ≤ prgSize s (bits (a 3) 0 2)
   | 0x11 => bits (a 1) 0 2 ≠ 3 && bits (a 3) 16 10 ≤ 1023
   | _ => true)

/-- Status that refuses a descriptor whose word has this tag (R355), none where it passes. -/
def descRefuse (s : State) (h : Handle) (tag : BitVec 16) : Option Nat :=
  if tag.getLsbD 10 || tag.getLsbD 11 || tag.getLsbD 12 then some 6
  else if tag.toNat % 128 ≠ 64 || !tag.getLsbD 7 || !tag.getLsbD 8 then some 0x20
  else if h.opc = 0 || 0x12 ≤ h.opc.toNat then some 0x27
  else if dirtyArgs h then some 0x20
  else if absentArgs s h then some 9
  else if !argsInRange s h then some 0x20
  else none

/-- The items of a word. -/
def wordItems (d : Line) : List (BitVec 64) := (List.range 8).map fun i => d.extractLsb' (64 * i) 64

/-- The word of slot k has been read. -/
def described (k : Nat) (w : SWord) (s : State) : State :=
  let h0 := handleOf s k
  let l := wordItems w.data
  let h : Handle := { h0 with st := .queued, items := l, opc := (l.headD 0).extractLsb' 0 8 }
  let s1 := setHandle k h s
  match descRefuse s1 h w.tag with
  | some t => endHandle k t 0 0 s1
  | none => s1

/-- DESCRIPTOR_READ: the engine, as consumer, reads the oldest bound word. A reset word is discarded (R366). -/
def descriptorRead (q : Nat) (s : State) : State :=
  if s.pw.st.toNat > 1 || s.pw.inReset then s else
  match (queueOf s q).bound with
  | [] => s
  | k :: l =>
    let a := cmdStall s q
    let s1 := modStall a (fun x => { x with rstWord := none }) (checkStall a s)
    let x := stallOf s1 a
    match mget x.staged x.h with
    | none => takePair a s1
    | some w =>
      let s2 := modQueue q (fun y => { y with bound := l }) (putStall a (x.takeWord w) s1)
      if k ≥ 4096 then s2 else described k w s2

def execDescriptorRead (q : Fin 4) (s : State) : Out := .next (settle (descriptorRead q.val s))

/-! ### Starts (R358, R359) -/

/-- The command has ended: its record waits, or lies in the completion stall. -/
def Handle.ended (h : Handle) : Bool := h.out.isSome || h.st = .done || h.st = .free

/-- A QUEUED command may start. -/
def mayStart (s : State) (k opc : Nat) : Bool :=
  let h := handleOf s k
  let others := s.host.handles.filter fun e => e.1 ≠ k
  let before := others.filter fun e => e.2.st ≠ .free && e.2.queue = h.queue && e.2.order < h.order
  h.st = .queued && h.out.isNone && h.opc.toNat = opc && !s.host.frozen && !s.pw.inReset && s.en.pf = .none && s.pw.st.toNat ≤ 1
    && before.all (fun e => e.2.ended || e.2.st = .running)
    && (bits (argN h 0) 9 1 = 0 || before.all fun e => e.2.st = .done)
    && (match namedPort h with
      | none => true
      | some p => others.all fun e => e.2.ended || e.2.st ≠ .running || namedPort e.2 ≠ some p)

/-- A command that ends in the step that starts it. -/
def hostCommand (k opc : Nat) (body : Handle → State → State) (s : State) : State :=
  if !mayStart s k opc then s else
  let s1 := modHandle k (fun h => { h with st := .running }) (active s)
  body (handleOf s1 k) s1

/-- A command that goes on after its start: `first` starts it, `more` runs while it is RUNNING. -/
def hostLong (k opc : Nat) (first more : Handle → State → State) (s : State) : State :=
  let h := handleOf s k
  if h.st = .running && h.out.isNone && h.opc.toNat = opc then more h s else hostCommand k opc first s

/-! ### Completion records (R357, R366) -/

/-- The four items of a record (Table 13.3). -/
def recordItems (s : State) (k : Nat) : List (BitVec 64) :=
  let h := handleOf s k
  let o := h.out.getD (0, 0, 0)
  [BitVec.ofNat 64 (handleNum s k + o.1.toNat * 65536 + o.2.1.toNat * 2 ^ 24 + bits (argN h 0) 32 32 * 2 ^ 32),
   BitVec.ofNat 64 (h.opc.toNat + h.queue.val * 256 + (if h.replay then 1024 else 0)), o.2.2, countNow s]

/-- The completion stall takes a record now. -/
def recordFits (s : State) (a : Nat) : Bool :=
  let x := stallOf s a
  x.st = .on && pushReady s a && x.o + 8 + x.gout ≤ x.slots - 8

/-- The record at the head of a queue is pushed, if there is one and its stall takes it. (Log 55: DEDUCED.) -/
def pushRecord (q : Nat) (s : State) : State :=
  match (queueOf s q).push with
  | [] => setFld HC_QSTAT_CWAIT q 0 s
  | k :: l =>
    let a := cplStall s q
    let s0 := checkStall a s
    if !recordFits s0 a then setFld HC_QSTAT_CWAIT q 1 s0 else
    let pos := (stallOf s0 a).wpos
    let items : List SItem := (recordItems s0 k).mapIdx fun i d => { data := d, eop := i = 3, lbytes := 7 }
    let s1 := (pushItems a items s0).2
    let h := handleOf s1 k
    let s2 := modQueue q (fun x => { x with push := l }) (setHandle k { h with st := .done, recPos := some pos } s1)
    let more := l.any fun j => (handleOf s2 j).replay
    let s3 := setFld HC_QSTAT_CWAIT q 0 (if more then s2 else setFld HC_QSTAT_REPLAY q 0 s2)
    if bits (argN h 0) 8 1 = 1 then raise 34 s3 else s3

/-- Push what a queue holds, as far as its stall takes it. -/
def pushAll (q : Nat) : Nat → State → State
  | 0, s => s
  | n + 1, s => if (queueOf s q).push = [] then s else pushAll q n (pushRecord q s)

/-- COMPLETION_PUSH. -/
def execCompletionPush (q : Fin 4) (s : State) : Out :=
  .next (if s.pw.st.toNat > 1 || s.pw.inReset then s else settle (pushRecord q.val s))

end Sys2Proof.Machine
end

