-- ==== Sys2Proof/Machine/Protect.lean ====
section
/-!
DEFINITION. Commands of the merge buffer, the patrol scrubber, the logs, row remapping and the march engine (chapter 9).
-/

namespace Sys2Proof.Machine

/-! ### Merge buffer (R232, R233) -/

/-- GATHER expires for a gathering entry (R232). -/
def execGatherClose (p : Fin 20) (e : Fin 32) (s : State) : Out :=
  onPort p s fun s =>
    match mget (portOf s p.val).prot.merge e.val with
    | none => s
    | some m =>
      if m.opened + fld s EC_CTL_GATHER p.val * 4 ≤ s.clk then closeEntry p.val e.val s else s

/-- The read of a read-modify-write has returned (Table 9.4). -/
def execRmwReadDone (p : Fin 20) (e : Fin 32) (err : Burst) (s : State) : Out :=
  onPort p s fun s =>
    match takeFlight p.val (fun f => f.req.kind = .rmw e.val) s with
    | none => s
    | some (f, s1) => rmwFinish p.val e.val f err s1

/-! ### Patrol scrub (R235 to R237) -/

/-- DIMMs in service and not shed, and their lines. -/
def liveDimms (s : State) (p : Nat) : List Nat :=
  (List.range 4).filter fun d => bits (present s p) d 1 = 1 && bits (shedSet s p) d 1 = 0

def scrubLines (s : State) (p : Nat) : Nat :=
  let all := ((List.range 4).filter fun d => bits (present s p) d 1 = 1).length
  if all = 0 then 0 else capG s p * 2 ^ 24 / all * (liveDimms s p).length

/-- The interval of visits (R235). -/
def scrubInterval (s : State) (p : Nat) : Nat :=
  let n := scrubLines s p
  if n = 0 then 16 else max 16 (fld s SCR_CTL_PERIOD * 3600 * 400000000 / n)

/-- PD_SCRUB is on. -/
def scrubOn (s : State) : Bool := softOn s 48

/-- A visit is due: it takes a queue entry of class C7, or is owed (R235, R237). -/
def execScrubVisit (p : Fin 20) (s : State) : Out :=
  onPort p s fun s =>
    let q := (portOf s p.val).prot
    if !flg s SCR_CTL_EN || !scrubOn s || pstate s p.val ≠ .service || s.pw.st.toNat > 1 || s.clk < q.scrubDue || q.scrubOut
      || scrubLines s p.val = 0 then s else
    let n := scrubLines s p.val
    let s0 := if q.scrubPos = 0 || q.scrubN ≠ n then
        modProt p.val (fun t => { t with scrubI := scrubInterval s p.val, scrubN := n,
                                         passAt := if q.scrubPos = 0 then s.clk else t.passAt }) s
      else s
    let q0 := (portOf s0 p.val).prot
    let la := q0.scrubPos * 64
    let due := (if q0.scrubDue = 0 then s.clk else q0.scrubDue) + q0.scrubI
    if !((liveDimms s0 p.val).contains (dimmOf (locOf s0 p.val la))) then
      modProt p.val (fun t => { t with scrubPos := t.scrubPos + 1 }) s0
    else if c7Deferred s0 || queueCap p.val - (portOf s0 p.val).sched.queue.length ≤ fld s0 PS_WM_RSV p.val then
      modProt p.val (fun t => { t with scrubOwed := t.scrubOwed + 1, scrubDue := due }) s0
    else
      let i := newId s0
      let r : SubReq := { id := i.1, owner := .scrub, la := la, kind := .visit, attr := unbound 7 s0 }
      let late := 0 < q0.scrubOwed
      modProt p.val (fun t => { t with scrubOut := true, scrubOwed := t.scrubOwed - 1,
                                       scrubDue := if late then s0.clk + 16 else due })
        (modSched p.val (fun x => { x with queue := x.queue ++ [r] }) i.2)

/-- A pass of the scrubber ends (R235, R237). -/
def passEnd (p : Nat) (s : State) : State :=
  let q := (portOf s p).prot
  let s1 := addFld SCR_PASS_PASSES p 1 (setFld SCR_PASS_DONE p 0 s)
  let late := s1.clk > q.passAt + fld s1 SCR_CTL_PERIOD * 3600 * 400000000
  let s2 := if late then raise 22 (setFld SCR_PASS_BEHIND p 1 s1) (some p) else s1
  modProt p (fun t => { t with scrubPos := 0, devCnt := [], fullPass := false, tracker := t.tracker.map fun r => (r.1, []) }) s2

/-- Mark a device automatically (R229). -/
def autoMark (p k dev la : Nat) (s : State) : State :=
  let mode := fld s EC_CTL_AUTO_MARK p
  if mode = 0 || (isX8 s p && mode = 1) then s else
  match markOf s p k with
  | some _ => raise 19 (logPort p 5 dev (some la) 2 s) (some p)
  | none =>
    let f : Fld := { (if k < 8 then EC_MARK0_DEV else EC_MARK1_DEV) with lo := 4 * (k % 8), w := 4 }
    raise 19 (logPort p 5 dev (some la) 0 (addFld EC_CNT2_MARKS p 1 (marksNew p (engFld f p dev s)))) (some p)

/-- The scrubber corrected a line within one device (R229). -/
def feedDevice (p la : Nat) (dev : Option Nat) (s : State) : State :=
  match dev with
  | none => s
  | some d =>
    let k := markEntry (locOf s p la)
    let key := 16 * k + d
    let n := mgetD (portOf s p).prot.devCnt key 0 + 1
    let s1 := modProt p (fun t => { t with devCnt := mput t.devCnt key n }) s
    if n = fld s1 EC_CTL_MARK_TH p then autoMark p k d la s1 else s1

/-- The row tracker sees a scrub correction (R242). -/
def feedRow (p la : Nat) (s : State) : State :=
  let l := locOf s p la
  let key := rowKey l
  let q := (portOf s p).prot
  let old := ((q.tracker.find? fun r => r.1 = key).map fun r => r.2).getD []
  let cols := insNat old l.col
  let rest := (q.tracker.filter fun r => r.1 ≠ key).take 15
  let s1 := modProt p (fun t => { t with tracker := (key, cols) :: rest }) s
  if flg s1 RM_CTL_AUTO_CE p && cols.length ≥ fld s1 RM_CTL_ROW_CE p then remapTrigger p la 1 s1 else s1

/-- What a visit does with the outcome of its read (R236). (Log 78: DEDUCED.) -/
def visitOutcome (p la : Nat) (d : Dec × Line) (s1 : State) : State :=
  match d.1 with
  | .good => s1
  | .poisoned => s1
  | .fixed _ dev => feedRow p la (feedDevice p la dev (noteDecode p la d.1 orgScrub true (storeLine p la d.2 false orgScrub s1)))
  | .poisFixed _ dev => feedRow p la (feedDevice p la dev (noteDecode p la d.1 orgScrub true (storeLine p la d.2 true orgScrub s1)))
  | .bad => noteDecode p la .bad orgScrub false (storePoisoned p la d.2 orgScrub s1)

/-- The read of a visit has returned (R236). -/
def execScrubVisitDone (p : Fin 20) (err : Burst) (s : State) : Out :=
  onPort p s fun s =>
    match takeFlight p.val (fun f => f.req.kind = .visit) s with
    | none => s
    | some (f, s1) =>
      let la := f.req.la
      let d := if f.overwritten then (Dec.good, f.data) else decodeFlight s1 p.val f err
      let s2 := visitOutcome p.val la d s1
      let s3 := modProt p.val (fun t => { t with scrubOut := false, scrubPos := t.scrubPos + 1 }) s2
      let pos := (portOf s3 p.val).prot.scrubPos
      let total := capG s3 p.val * 2 ^ 24
      if pos ≥ total then passEnd p.val s3 else setFld SCR_PASS_DONE p.val (pos * 100 / total) s3

/-! ### Correction windows (R238) -/

/-- A window that lasted its second closes. -/
def execCeWindowExpire (p : Fin 20) (s : State) : Out :=
  onPort p s fun s =>
    match (portOf s p.val).prot.ceOpen with
    | some t => if t + 1000 * edgesMs ≤ s.clk then modProt p.val (fun q => { q with ceOpen := none, ceCount := 0 }) s else s
    | none => s

/-- A due raise takes place one second after the last. -/
def execCeThRaise (p : Fin 20) (s : State) : Out :=
  onPort p s fun s => if (portOf s p.val).prot.ceRaiseDue then ceThRaise p.val s else s

/-! ### Logs (R239) -/

/-- A write of TAIL; one that would give a COUNT above 32 is ignored. -/
def execLogTailWrite (k : Fin 21) (v : BitVec 32) (s : State) : Out :=
  .next (
    let l := mgetD s.logs k.val {}
    let l1 := { l with tail := v.extractLsb' 8 6 }
    if logCount l1 > 32 || s.pw.inReset then s else { s with logs := mput s.logs k.val l1 })

/-- EL_CLR clears LOST of the logs named (R253). -/
def execElLostClear (v : BitVec 32) (s : State) : Out :=
  .next { s with logs := s.logs.map fun e => if e.1 < 21 && v.getLsbD e.1 && !s.pw.inReset then (e.1, { e.2 with lost := 0 }) else e }

/-- EC_CNT_CLR.ALL (R252). -/
def execEcCntClear (p : Fin 20) (v : BitVec 32) (s : State) : Out :=
  onPort p s fun s =>
    if !v.getLsbD 0 || s.pw.inReset then s
    else setWord (EC_CNT0_CE.off p.val) 0 (setWord (EC_CNT1_POISON_RD.off p.val) 0 (setWord (EC_CNT2_SCRUB_WB.off p.val) 0 s))

/-! ### Row remap (R242, R243) -/

/-- A write of RM_ADD. -/
def execRemapAdd (p : Fin 20) (v : BitVec 32) (s : State) : Out :=
  onPort p s fun s =>
    if !v.getLsbD 31 || s.pw.inReset then s
    else if copyRunning s p.val then setFld RM_STAT_ADD_REF p.val 1 s
    else remapTrigger p.val (laOf s p.val (keyLoc (v.toNat % 2 ^ 30))) 2 s

/-- The entry whose soft-repair hold has run to its end: its row can be copied back (R161 step 4). (Log 43: DEDUCED.) -/
def softReady (s : State) (p : Nat) : Option (Nat × Remap) :=
  let c := (portOf s p).sched
  let holds (k : Nat) (x : Pause) : Bool := x.kind = kindRepair && x.rank = k
  (portOf s p).prot.remap.find? fun e =>
    e.2.soft && e.2.st = .active && !c.pauses.any (holds e.1) && c.pause.all fun x => !holds e.1 x.1 || x.2 ≤ s.clk

/-- A soft repair whose hold is over begins its copy back, where no copy runs. -/
def softBegin (p : Nat) (s : State) : State :=
  if copyRunning s p then s else
  match softReady s p with
  | none => s
  | some (k, _) => modProt p (fun t => { t with remap := mmod t.remap k fun x => { x with st := .ret, copied := 0 } }) s

/-- The running ROW_REPAIR handle of a port, if any (R359 lets one run). -/
def repairHandle (s : State) (p : Nat) : Option Nat :=
  (s.host.handles.find? fun e => e.2.st = .running && e.2.out.isNone && e.2.opc = 0xA
    && (e.2.items[1]?.map fun a => a.toNat % 32) = some p).map fun e => e.1

/-- The row is whole again: the entry is released, the repair counts, and its command completes (R161 step 5). -/
def softDone (p k : Nat) (key : Nat) (s : State) : State :=
  let s1 := remapStat p (modProt p (fun t => { t with remap := mdel t.remap k }) s)
  let s2 := addFld DP_PPR_CNT_SOFT p 1 (modDram p (fun d => { d with soft := insNat d.soft key }) s1)
  match repairHandle s2 p with
  | some h => endHandle h 0 0 0 s2
  | none => s2

/-- One line of the running row copy, or of a return (R243, R161): read, decoded and written as one unit. -/
def copyStep (p : Nat) (err : Burst) (s0 : State) : State :=
  match (portOf s0 p).prot.remap.find? fun e => e.2.st = .copy || e.2.st = .ret with
  | none => s0
  | some (k, r) =>
    let n := 2 ^ lineLog s0 p
    let la := laOf s0 p { keyLoc r.key with col := r.copied }
    let s := syncLine p la s0
    let st := readStored s p la
    let onPad := match placeOf s p la with
      | .spad _ _ _ => true
      | _ => false
    let d := if onPad then ((if st.2 then Dec.poisoned else Dec.good), st.1) else decodeLine s p la st.1 st.2 err
    let s1 := noteDecode p la d.1 orgRemap false s
    let s2 := modProt p (fun t => { t with remap := mput t.remap k { r with copied := r.copied + 1 } }) s1
    let s3 := if d.1.tainted then storePoisoned p la d.2 orgRemap s2 else storeLine p la d.2 false orgRemap s2
    if r.copied + 1 < n then s3
    else match r.st with
      | .copy =>
        remapStat p (modProt p (fun t => { t with remap := mmod t.remap k fun x => { x with st := .active, copied := 0 } }) s3)
      | _ => if r.soft then softDone p k r.key s3 else remapStat p (modProt p (fun t => { t with remap := mdel t.remap k }) s3)

/-- REMAP_COPY_LINE. -/
def execRemapCopyLine (p : Fin 20) (err : Burst) (s : State) : Out :=
  onPort p s fun t => copyStep p.val err (softBegin p.val t)

/-! ### The march engine (R245 to R250) -/

/-- A group may run the mode now (R248). -/
def groupAllowed (s : State) (destr : Bool) (g : Nat) : Bool :=
  groupImpl s.part.variant g &&
  (if destr then
    (g < 0x20 && bits (fld s MT_FENCE_BANKS) g 1 = 1) || (0x40 ≤ g && g < 0x60 && fld s FP_CTL_EN (g - 0x40) = 0)
  else if 0x40 ≤ g && g < 0x60 then fld s FP_CTL_EN (g - 0x40) = 0 || (fabOf s (g - 0x40)).fenced
  else true)

/-- A write of MT_GO.GO (R247, R248). -/
def execMarchStart (s : State) : Out :=
  .next (
    let g := fld s MT_CTL_GROUP
    let destr := flg s MT_CTL_MODE
    let alg := fld s MT_CTL_ALG
    let bgs := fld s MT_CTL_BGS
    let groups := if g = 0xFF then (List.range 0x79).filter (groupAllowed s destr)
      else if groupAllowed s destr g then [g] else []
    if s.pw.inReset then s else if s.march.running || alg ≥ 2 || (destr && bgs = 0) || groups = [] || !scrubOn s then setFld MT_STAT_REFUSED 0 1 s
    else
      let s1 := setFld MT_STAT_BUSY 0 1 (setFld MT_STAT_FAILS 0 0 (setFld MT_STAT_GROUP 0 g s))
      { s1 with march := { running := true, groups := groups, alg := BitVec.ofNat 2 alg, destr := destr,
                           bgs := BitVec.ofNat 4 bgs } })

/-- The test is aborted: every group under test runs a restoring pass (R249). -/
def marchStop (s : State) : State :=
  if s.march.running then setFld MT_STAT_ABORTED 0 1 { s with march := { s.march with aborted := true } } else s

/-- A write of MT_GO.ABORT (R249). -/
def execMarchAbort (s : State) : Out := .next (marchStop s)

/-- A failing word of a march: logged, counted, remapped. -/
def marchFail (s : State) (f : BitVec 8 × BitVec 16) : State :=
  let bg := if s.march.destr then ((List.range 4).find? fun i => s.march.bgs.getLsbD i).getD 0 else 0
  sramRemap f.1.toNat f.2.toNat
    (addFld MT_STAT_FAILS 0 1 (logEngine 0x0C (f.1.toNat + f.2.toNat * 256) (s.march.alg.toNat + bg * 4) s))

/-- Byte that background b leaves at an offset of a bank (R247). (Log 79: DEDUCED.) -/
def bgByte (b off : Nat) : Byte :=
  match b with
  | 0 => 0
  | 1 => 0x55
  | 2 => if (off / 8) % 2 = 0 then 0 else 0xFF
  | _ => if (off / 8) % 2 = 0 then 0x55 else 0xAA

/-- A scratchpad bank holds a background. -/
def fillBank (bank b : Nat) (s : State) : State :=
  let keep := s.spad.filter fun e => e.1 / 524288 ≠ bank
  let lo := keep.filter fun e => e.1 / 524288 < bank
  let hi := keep.filter fun e => e.1 / 524288 > bank
  let mid := ((List.range 524288).filter fun i => bgByte b i ≠ 0).map fun i => (bank * 524288 + i, bgByte b i)
  { s with spad := lo ++ mid ++ hi, spadBad := s.spadBad.filter fun k => k / 524288 ≠ bank }

/-- The test ends (R248, R249): failing words are remapped; a destructive run leaves its last background. -/
def execMarchEnd (fails : List (BitVec 8 × BitVec 16)) (s : State) : Out :=
  .next (
    if !s.march.running then s else
    let own := fails.filter fun f => s.march.groups.contains f.1.toNat
    let s1 := own.foldl marchFail s
    let b := ((List.range 4).reverse.find? fun i => s.march.bgs.getLsbD i).getD 0
    let s2 := if s.march.destr && !s.march.aborted then
        (s.march.groups.filter fun g => g < 0x20).foldl (fun t g => fillBank g b t) s1
      else s1
    let s3 := setFld MT_STAT_BUSY 0 0 { s2 with march := {} }
    if s.march.byReg then raise 26 (setFld MT_STAT_DONE 0 1 s3) else s3)

/-- SPAD_CLR.ALL (R471). -/
def execSpadClear (v : BitVec 32) (s : State) : Out :=
  .next (if !v.getLsbD 0 || s.pw.inReset then s else setWord 0x3C0000 0 (setWord 0x3C0004 0 s))

end Sys2Proof.Machine
end

