-- ==== Sys2Proof/Machine/Power.lean ====
section
/-!
DEFINITION. Engine states, software-switched domains and port transitions (chapter 15).
-/

namespace Sys2Proof.Machine

/-! ### Refusers (Table 15.4) -/

/-- A pending launch would come before a wake of w ticks ends; `f` chooses the launches that count (R136). -/
def launchForbids (s : State) (w : Nat) (f : Launch → Bool) : Bool :=
  s.tb.launches.any fun e => f e.2 && e.2.t.toNat < s.count.toNat + w + fld s TB_LCTL_SETUP + maxLead s

/-- A launch names port p. -/
def Launch.names (l : Launch) (p : Nat) : Bool := l.acts.any fun a => a.isPort && a.port.toNat = p

/-- DIMMs that E3 or the power-fail sequence would shed, or that are shed already. -/
def sheds (s : State) (p : Nat) : Bool := shedSet s p ≠ 0 || present s p &&& (15 ^^^ (keepSet s p &&& 15)) ≠ 0

/-- Code 0x1 for an engine state. -/
def timebaseRefuses (s : State) (tgt : Nat) : Bool :=
  s.tb.step ≠ .none || (if tgt = 4 then s.tb.launches ≠ []
    else launchForbids s (engineW s tgt) (fun _ => true)
      || (tgt = 3 && s.tb.launches.any fun e => (List.range 20).any fun p => e.2.names p && sheds s p))

/-- An enabled interleave set names port p. -/
def setNames (s : State) (p : Nat) : Bool :=
  (List.range 8).any fun n => flg s IS_CTL_EN n && (List.range (2 ^ fld s IS_CTL_NLOG n)).any fun m => bits (memberWord s n m) 0 5 = p

/-- Code 0x6: a port on its way, a training pause, a rate change or a remap copy. -/
def portRefuses (s : State) : Bool :=
  (List.range 20).any fun p =>
    portImpl s.part.variant p &&
    ((setNames s p && (match pstate s p with
      | .off => false | .service => false | .selfRefresh => false | .test => false
      | _ => true))
     || (match (portOf s p).sched.pause with
      | some x => s.clk < x.2
      | none => false)
     || copyRunning s p)

/-- The lowest refuser code of an engine entry, if any; `own` is the handle that asked for it. -/
def engineRefuser (s : State) (tgt : Nat) (own : Option Nat) : Option Nat :=
  let busy : Bool := s.host.handles.any fun e => some e.1 ≠ own && e.2.st ≠ .free && e.2.st ≠ .done
  let fab : Bool := (List.range 32).any fun n => flg s FP_CTL_EN n && (fabOf s n).reqs.any FabReq.live
  if timebaseRefuses s tgt then some 1
  else if 3 ≤ tgt && (s.home.drain && s.home.reqs.any fun r => r.kind = .rds || r.kind = .rdu || r.kind = .upg) then some 2
  else if [0, 1, 2, 3].any fun c => (ctxOf s c).st = .running then some 3
  else if tgt < 4 && busy then some 4
  else if tgt = 3 && fab then some 5
  else if tgt < 4 && portRefuses s then some 6
  else none

/-- A stall that is not OFF has part of its ring or tags on the port. -/
def ringOnPort (s : State) (p : Nat) (x : Stall) : Bool :=
  x.st ≠ .off && (List.range (x.span / 64 + 1)).any fun i => match target s (x.base + 64 * i) with
    | .dram q _ => q = p
    | _ => false

/-- The lowest refuser code of a port transition (R422). -/
def portRefuser (s : State) (p op : Nat) : Option Nat :=
  if op = 0 then
    (if s.tb.step ≠ .none || launchNames s p then some 1
     else if setNames s p || s.stalls.any (fun e => ringOnPort s p e.2) then some 7 else none)
  else if op = 2 then
    (let w := exitTicks s p + (if serial p then 80 + leadOf s p else 0)
     if s.tb.step ≠ .none || launchForbids s w (fun l => l.names p) then some 1 else none)
  else none

/-- The refuser of a domain's switch-off (Table 15.2). -/
def domRefuser (s : State) (d : Nat) : Option Nat :=
  if d = 41 then (if fld s HOME_AGT_EN_EN ≠ 0 || s.home.rsv ≠ [] || s.home.reqs ≠ [] then some 2 else none)
  else if 43 ≤ d && d ≤ 46 then (if pairsUsed s (d - 43) ≠ 0 then some 8 else none)
  else if d = 48 then (if s.march.running then some 10 else none)
  else if (List.range 20).any fun p => portImpl s.part.variant p && fld s RM_CTL_LOC p = 1 && fld s RM_STAT_USED p ≠ 0 then some 9
  else none

/-! ### Soft reset begins (R427 step 1) -/

/-- Every enabled fabric port takes the reset fence; a port that the controller has fenced keeps its own. -/
def softStart (s : State) : State :=
  let l := (List.range 32).filter fun n => fabImpl s.part.variant n && flg s FP_CTL_EN n
  let own := l.filter fun n => !flg s FP_FENCE_STAT_CFG n
  let s1 := l.foldl (fun t n => setFld FP_FENCE_STAT_CFG n 1 (takeFence n t)) s
  setFld RST_STAT_BUSY 0 1 (setFld RST_STAT_DROPPED 0 0
    (modPw (fun w => { w with soft := some s.clk, softPorts := own, softWait := false }) s1))

/-- No engine transition runs or prepares. -/
def engineIdle (s : State) : Bool := s.pw.cur.isNone && s.pw.exit.isNone

/-- A soft reset that waits for a transition begins (R421). -/
def softNext (s : State) : State := if s.pw.softWait && engineIdle s && s.pw.st.toNat ≤ 1 then softStart s else s

/-! ### Requests for an engine state (R411 to R414, R421) -/

def superseded (src : ReqOf) (s : State) : State := srcDone src 0x25 0xC (addFld PWR_CNT_SUPERSEDED 0 1 s)

/-- E1 has no preparation; R136 alone refuses it. -/
def enterIdle (src : ReqOf) (s : State) : State :=
  if launchForbids s (engineW s 1) (fun _ => true) then srcDone src 0x25 1 (recordRef 1 1 0 false s)
  else pwrStat (srcDone src 0 0 (modPw (fun w => { w with st := 1 }) s))

/-- An exit from E2 or E3 begins, and a request waits for its end. (Log 58: DEDUCED.) -/
def exitFirst (t : EngTrans) (s : State) : State :=
  modPw (fun w => { w with exit := some (w.st, s.clk), pend := some t }) s

/-- A request begins, with no transition in the way. E4 is prepared from the state in force; every other change of a deep state
passes through E0. -/
def beginTrans (t : EngTrans) (s : State) : State :=
  let go (u : State) : State := modPw (fun w => { w with cur := some { t with start := s.clk } }) u
  if s.pw.st.toNat ≤ 1 then
    (match t.tgt.toNat with
    | 0 => srcDone t.src 0 0 (active s)
    | 1 => enterIdle t.src s
    | _ => go s)
  else if t.tgt = 4 then go s else exitFirst t s

/-- What waits begins. -/
def takePend (s : State) : State :=
  match s.pw.pend with
  | none => softNext (pwrStat s)
  | some t => pwrStat (beginTrans t (modPw (fun w => { w with pend := none }) s))

/-- A request for a state from a source arrives. -/
def engineReq (tgt : Nat) (src : ReqOf) (s : State) : State :=
  let t : EngTrans := { tgt := BitVec.ofNat 3 tgt, src := src, start := s.clk }
  let wait (u : State) : State :=
    let v := match u.pw.pend with
      | some x => superseded x.src u
      | none => u
    modPw (fun w => { w with pend := some t }) v
  if s.pw.inReset || s.pw.st.toNat > 3 then s
  else if s.en.pf ≠ .none then srcDone src 0x25 0xD (if tgt = 0 then s else recordRef 0xD tgt 0 false s)
  else if s.pw.exit.isSome then pwrStat (wait s)
  else match s.pw.cur with
    | some x =>
      if x.run then pwrStat (wait (if tgt = 0 then wakeBy (if src = .reg then some 2 else none) s else s))
      else if tgt = 0 && x.tgt ≠ 4 then srcDone src 0 0 (wakeBy (if src = .reg then some 2 else none) s)
      else pwrStat (beginTrans t (undoPrep (modPw (fun w => { w with cur := none }) (superseded x.src s))))
    | none =>
      if src = .reg && (s.pw.st = 2 || (s.pw.st = 3 && tgt ≠ 4)) then
        pwrStat (modPw (fun w => { w with pend := some t }) (wake 2 s))
      else pwrStat (beginTrans t (if src = .reg && s.pw.st = 1 then wake 2 s else s))

/-- Resume from an E4 that was entered by command (R418) is requested by PWR_REQ with TGT = E0. -/
def resumeAsked (s : State) : Bool := s.pw.st = 4 && s.pw.e4cmd && !s.pw.supplyBad

/-! ### The power-fail sequence begins (R392, R393) -/

/-- A read line that has not been issued is not issued; its request ends FAIL_FENCED. -/
def stopReads (n : Nat) (s : State) : State :=
  let cut (r : FabReq) : FabReq :=
    if (r.opc = 0 || r.opc = 3) && r.refused.isNone then
      { r with lines := r.lines.map fun l =>
          if l.ph = .idle || l.ph = .held then { l with ph := .done, performed := true, res := { bst := 2, sts := 5 } } else l }
    else r
  modFab n (fun f => { f with reqs := f.reqs.map cut }) s

/-- Every handle that has not ended completes ABORTED. -/
def abortHandles (s : State) : State :=
  (s.host.handles.filter fun e => e.2.st ≠ .free && e.2.st ≠ .done && e.2.out.isNone).foldl (fun t e => endHandle e.1 0x28 0 0 t) s

/-- Records are pushed as far as their stalls take them. -/
def pushRecords (s : State) : State := [0, 1, 2, 3].foldl (fun t q => pushAll q ((queueOf t q).push.length + 1) t) s

def allFabs (s : State) : List Nat := (List.range 32).filter fun n => fabImpl s.part.variant n

/-- The scheduler selects no read any more: read sub-requests leave their queues, those of fabric ports with FAIL_FENCED. -/
def dropReads (s : State) : State :=
  let forFab (u : State) (o : Owner) : Bool := match o with
    | .fab _ _ _ => true
    | .home id => (homeFind u id).any fun r => match r.owner with
      | .fab _ _ _ => true
      | _ => false
    | _ => false
  s.ports.foldl (fun t e =>
    let c := (portOf t e.1).sched
    let isRead (q : SubReq) : Bool := q.kind = .read
    let gone := (c.queue ++ c.wait).filter isRead
    let t1 := modSched e.1 (fun q => { q with queue := q.queue.filter (fun x => !isRead x), wait := q.wait.filter (fun x => !isRead x) }) t
    gone.foldl (fun u q => deliver q.owner { bst := 2, sts := if forFab u q.owner then 5 else 7 } u) t1) s

/-- A context stops: at its next boundary, a WAIT at once (R325). -/
def ctxStop (x : Ctx) : Ctx :=
  match x.st, x.wait with
  | .waiting, .count _ => { x with wait := .none, st := .stopped }
  | .waiting, _ => { x with stopReq := true }
  | .running, _ => { x with stopReq := true }
  | _, _ => x

/-- Steps 1 and 2: freeze the domain, stop admission. -/
def pfStart (reason : Nat) (s : State) : State :=
  let s0 := (List.range 8).foldl (fun t l => launchCancel l t) (stepAbandon s)
  let dom := domainNow s0
  let keep := (List.range 72).foldl (fun (m : BitVec 73) i => if dom.getLsbD i && eligible s0 i then m ||| BitVec.ofNat 73 (2 ^ i) else m) 0
  let s1 := modEn (fun e => { e with pf := .flush, pfReason := BitVec.ofNat 4 reason, frozen := keep, lostH := 0, pfLost := false, fstalls := [] })
    (setDomain keep s0)
  let s2 := setFld PW_STAT_STAGE 0 0 (charger s1)
  let s3 := (allFabs s2).foldl (fun t n => stopReads n (takeFence n t)) s2
  let s4 := [1, 2, 3].foldl (fun t c => modCtx c ctxStop t) (dropReads s3)
  let s5 := (s4.stalls.map fun e => e.1).foldl (fun t a => flushPart a t) s4
  let s6 := pushRecords (abortHandles s5)
  let waiting := [0, 1, 2, 3].foldl (fun n q => n + (queueOf s6 q).push.length) 0
  pwrStat (modPw (fun w => { w with cur := none, pend := none, exit := none, e4cmd := reason = 2 })
    (modEn (fun e => { e with lostH := waiting }) s6))

/-! ### Commit points (R413, R415, R416) -/

/-- Serial lanes of the ports in service take a state (SL_STAT.LSTATE). -/
def lanesTo (v : Nat → Nat) (s : State) : State :=
  ((servicePorts s).filter serial).foldl (fun t p => setFld SL_STAT_LSTATE p (v p) t) s

def livePorts (s : State) : List Nat := (List.range 20).filter fun p => portImpl s.part.variant p && pstate s p = .service

/-- Every port in SERVICE is quiet. -/
def portsQuiet (s : State) : Bool := (livePorts s).all (portQuiet s)

/-- Every gathering line of the ports in SERVICE closes. -/
def closePorts (s : State) : State := (livePorts s).foldl (fun t p => closeAll p t) s

def runTrans (s : State) : State := modPw (fun w => { w with cur := w.cur.map fun t => { t with run := true } }) s

def stepTrans (k : Nat) (s : State) : State := modPw (fun w => { w with cur := w.cur.map fun t => { t with steps := k } }) s

/-- E2, steps 2 and 3. -/
def commitNap (t : EngTrans) (s : State) : State :=
  let s1 := closePorts s
  if !portsQuiet s1 then s1 else
  let s2 := srcDone t.src 0 0 (rsvLoseAll (marchStop s1))
  runTrans (lanesTo (fun _ => 1) ((livePorts s2).foldl (fun u p => srEnter p true false u) s2))

/-- Lines that the ledger lists. -/
def ledgerLines (s : State) : List Nat := s.home.ledger.flatMap fun e => e.2.map fun w => w.line

/-- The home drains the ledger: SNPI for every entry (R320). -/
def drainLedger (s : State) : State :=
  (ledgerLines s).foldl (fun t l => homeSubmit { id := 0, kind := .evict, line := l } t)
    (setFld HOME_STAT_DRAIN 0 1 (modHome (fun h => { h with drain := true }) s))

def drained (s : State) : Bool := ledgerLines s = [] && s.home.reqs = []

def drainEnd (s : State) : State := setFld HOME_STAT_DRAIN 0 0 (modHome (fun h => { h with drain := false }) s)

/-- Staging is written out and every pair freed (R416 step 4). -/
def emptyStaging (s : State) : State :=
  (s.stalls.map fun e => e.1).foldl (fun t a => modStall a (fun x => { x with pair := none }) (spillAll a (flushPart a t))) s

/-- E3: tallies withdrawn and the drain, then staging, images and the record, then self-refresh (R416). -/
def commitDeep (t : EngTrans) (s : State) : State :=
  match t.steps with
  | 0 =>
    let s1 := ((allFabs s).filter fun n => flg s FP_CTL_EN n).foldl (fun u n => clearTallies n u) s
    stepTrans 1 (drainLedger s1)
  | 1 => if drained s then stepTrans 2 (saveImages (emptyStaging (drainEnd s))) else s
  | _ =>
    let s1 := closePorts s
    if !portsQuiet s1 then s1 else
    let s2 := emptyStaging (pushRecords (srcDone t.src 0 0 (rsvLoseAll (marchStop s1))))
    runTrans ((livePorts s2).foldl (fun u p => srEnter p true true u) s2)

/-- E4 by command: the drain, then the power-fail sequence, which is its commit point. -/
def commitOff (t : EngTrans) (s : State) : State :=
  if t.steps = 0 then stepTrans 1 (drainLedger s)
  else if drained s then
    pfStart 2 (modPw (fun w => { w with cur := none }) (srcDone t.src 0 0 (drainEnd s)))
  else s

/-- The engine's preparation goes on, where no refuser is present. (Log 59: DEDUCED.) -/
def commitEngine (s : State) : State :=
  match s.pw.cur with
  | none => s
  | some t =>
    let own := match t.src with
      | .handle k => some k
      | _ => none
    if t.run || s.pw.inReset || (engineRefuser s t.tgt.toNat own).isSome then s
    else pwrStat (match t.tgt.toNat with
      | 2 => commitNap t s
      | 3 => commitDeep t s
      | _ => commitOff t s)

/-! ### Domains (R409) -/

def modDom (d : Nat) (x : DomSt) (s : State) : State := modPw (fun w => { w with doms := mput w.doms d x }) s

/-- A domain is isolated and goes off. -/
def domOff (d : Nat) (s : State) : State :=
  let s1 := modDom d .off s
  if d = 41 then modHome (fun h => { h with ledger := [] }) s1
  else if d = 49 then { s1 with spad := [], spadBad := [] }
  else s1

/-- A write of PWR_DREQ. -/
def domReq (v : Word) (s : State) : State :=
  let d := bits v.toNat 0 6
  if !v.getLsbD 31 || s.pw.inReset || s.pw.st.toNat > 3 then s
  else if !([41, 43, 44, 45, 46, 48, 49].contains d) then reject 0x40038 1 s
  else if !domImpl s.part.variant d then reject 0x40038 5 s
  else if s.en.pf ≠ .none then recordRef 0xD 5 d false s
  else match v.getLsbD 6, mgetD s.pw.doms d DomSt.on with
    | true, .prep _ => modDom d .on (addFld PWR_CNT_SUPERSEDED 0 1 s)
    | true, .off => modDom d (.rising (s.clk + riseEdges s.part.variant d) false) s
    | true, .rising t true => modDom d (.rising t false) (addFld PWR_CNT_SUPERSEDED 0 1 s)
    | false, .on => modDom d (.prep s.clk) s
    | false, .rising t false => modDom d (.rising t true) s
    | _, _ => s

/-- (Log 25: DEDUCED.) -/
def execDomainOn (v : BitVec 32) (s : State) : Out := .next (settle (domReq v s))
def execDomainOff (v : BitVec 32) (s : State) : Out := .next (settle (domReq v s))

/-- DOMAIN_ON_DONE: requests that waited for the home proceed; a switch-off that waited begins its preparation. -/
def execDomainOnDone (d : Fin 50) (s : State) : Out :=
  .next (settle (
    match mget s.pw.doms d.val with
    | some (.rising t off) =>
      if s.clk < t || s.pw.inReset then s else
      let s1 := modDom d.val (if off then .prep s.clk else .on) s
      if d.val = 41 then homeRun s1 else s1
    | _ => s))

/-! ### Port reset (R428) -/

/-- Every stall with its ring or tags on the port is reset with cause 0x1 (R279). -/
def resetRings (p : Nat) (s : State) : State :=
  (s.stalls.filter fun e => ringOnPort s p e.2).foldl (fun t e => resetStall e.1 1 t) s

/-- Commands that wait on the port's training, soft repair or loop test end. -/
def endPortWork (p : Nat) (s : State) : State :=
  let s0 := modProt p (fun q => { q with remap := q.remap.map fun e => (e.1, { e.2 with soft := false }) }) s
  let w := (portOf s p).train.waiters ++ (repairHandle s p).toList
  let s1 := w.foldl (fun t k => endHandle k 7 0 0 t) s0
  let s2 := modTrain p (fun t => { t with waiters := [], roundOn := false, left := 0 }) s1
  match (portOf s2 p).link.loop with
  | some (_, some k, _) => modLink p (fun l => { l with loop := none }) (endHandle k 0x28 0 0 s2)
  | _ => modLink p (fun l => { l with loop := none }) s2

/-- The running port reset, steps 1 to 5. -/
def portResetNow (p : Nat) (s : State) : State :=
  let s1 := if serial p then resetSeq p (sendPacket p (.control 0x0B 0) s) else s
  let s2 := resetRings p (endPortWork p (failAll p s1).2)
  let s3 := recVoid p (clearTrained p (remapStat p (modProt p (fun q => { q with remap := [], tracker := [], merge := [] }) s2)))
  modDram p (fun d => { d with zeroFill := 15 }) (setPopErr p 0 (portDown p s3))

/-! ### Port transitions (R422, R423) -/

/-- The state column of R422. -/
def portAllows (x : PState) (op : Nat) : Bool :=
  match op with
  | 0 => x ≠ .off
  | 1 => x = .off || x = .stopping
  | 2 => x = .service
  | 3 => x = .selfRefresh || x = .service
  | _ => true

/-- No deep engine state keeps port transitions from starting. -/
def portsMove (s : State) : Bool :=
  s.pw.st.toNat ≤ 1 && s.pw.exit.isNone && s.en.pf = .none && !s.pw.inReset && s.pw.cur.all fun t => !t.run

def runPort (p : Nat) (s : State) : State :=
  let x := portPwr s p
  ppStat p (setPortPwr p { x with cur := x.cur.map fun t => { t with run := true } } s)

/-- The transition in preparation passes its commit point, where nothing is in the way. -/
def commitPort (p : Nat) (s : State) : State :=
  match (portPwr s p).cur with
  | none => s
  | some t =>
    let op := t.op.toNat
    if t.run || !portsMove s then s
    else if !portAllows (pstate s p) op then transEnd p 0x21 0 (runPort p s)
    else if (portRefuser s p op).isSome then s
    else match op with
      | 0 =>
        if pstate s p = .service then
          (let s1 := closeAll p s
           if portQuiet s1 p then setPstate p .stopping (runPort p (endPortWork p s1)) else s1)
        else setPstate p .stopping (runPort p (endPortWork p (failAll p s).2))
      | 1 => if pstate s p = .off then portStart p .cold false (runPort p s) else s
      | 2 =>
        let s1 := closeAll p s
        if !portQuiet s1 p then s1 else
        let s2 := srEnter p true false (runPort p s1)
        transEnd p 0 0 (if serial p then setFld SL_STAT_LSTATE p 1 s2 else s2)
      | 3 =>
        if pstate s p = .selfRefresh then
          (let s1 := srExit p (runPort p s)
           transEnd p 0 0 (if serial p then setFld SL_STAT_LSTATE p 0 s1 else s1))
        else transEnd p 0 0 (runPort p s)
      | _ => if pstate s p = .off then transEnd p 0 0 (runPort p s) else transEnd p 0 0 (portResetNow p (runPort p s))

/-- A request for a port transition. WAKE, ON and the port reset begin at once where no transition runs. (Log 61: DEDUCED.) -/
def portReq (p op : Nat) (src : ReqOf) (s : State) : State :=
  let t : PortTrans := { op := BitVec.ofNat 3 op, src := src, start := s.clk }
  let x := portPwr s p
  if s.pw.inReset || s.pw.st.toNat > 3 then s
  else if s.en.pf ≠ .none then srcDone src 0x25 0xD (recordRef 0xD 6 p false s)
  else if !portAllows (pstate s p) op then srcDone src 0x21 0 s
  else
    let rev (u : State) : State := if op = 1 && pstate u p = .stopping then addFld PP_STAT_REVERSALS p 1 u else u
    match x.cur with
    | some c =>
      if c.run then
        (let s1 := match x.pend with
           | some y => superseded y.src s
           | none => s
         ppStat p (rev (setPortPwr p { portPwr s1 p with pend := some t } s1)))
      else
        (let s1 := superseded c.src s
         let s2 := ppStat p (setPortPwr p { portPwr s1 p with cur := some t } s1)
         if op = 0 || op = 2 then s2 else commitPort p s2)
    | none =>
      let s1 := ppStat p (rev (setPortPwr p { x with cur := some t } s))
      if op = 0 || op = 2 then s1 else commitPort p s1

/-- PORT_STOPPING_DONE. -/
def stoppingDone (p : Nat) (s : State) : State :=
  if pstate s p ≠ .stopping then s else transEnd p 0 0 (portDown p s)

def execPortStoppingDone (p : Fin 20) (s : State) : Out := onPort p s (stoppingDone p.val)

/-! ### The three sources of a request -/

/-- PWR_REQ writes wake the engine in E3 and are served there; in E4 only E0 after a command. -/
def regEngine (tgt : Nat) (s : State) : State := engineReq tgt .reg s

/-- ENGINE_POWER starts. -/
def hostEngine (k tgt : Nat) (s : State) : State :=
  if argN (handleOf s k) 1 = tgt then hostCommand k 0xD (fun _ t => engineReq tgt (.handle k) t) s else s

/-- PORT_POWER starts. -/
def hostPortPower (k p op : Nat) (s : State) : State :=
  let a := argN (handleOf s k) 1
  if bits a 0 5 = p && bits a 8 4 = op then hostCommand k 0xB (fun _ t => portReq p op (.handle k) t) s else s

/-- Instruction fetched from DRAM (R348). -/
def fromDram (s : State) (c : Nat) : Bool := (ctxOf s c).pc.toNat ≥ 2 ^ 63

/-- A DRAM control instruction: the privilege check, then its status to rd (R347, Table 12.16b). -/
def dramControl (c : Nat) (rd ra rb : BitVec 5) (sf : BitVec 1) (x : BitVec 4) (fn : Nat) (undef rsvd : Bool)
    (body : State → Option (W64 × State)) (s : State) : State :=
  lantIssue c (encR 0x33 rd ra rb sf x fn) undef (rsvd || sf ≠ 0) (c ≠ 0 && !(ctxOf s c).priv)
    (fun t => (body t).map fun r => retireWith c rd r.1 r.2) s

/-- EPWR. REFUSED is returned where the power controller refuses at once. -/
def lantEngine (c : Fin 4) (rd ra rb : BitVec 5) (sf : BitVec 1) (tgt : Nat) (s : State) : State :=
  dramControl c.val rd ra rb sf (BitVec.ofNat 4 tgt) 6 false (ra ≠ 0 || rb ≠ 0) (fun t =>
    if 2 ≤ tgt && fromDram t c.val && (ctxOf t c.val).codep ≠ 0 then some (0x22, t)
    else
      let no := t.en.pf ≠ .none || (tgt = 1 && engineIdle t && t.pw.st.toNat ≤ 1 && launchForbids t (engineW t 1) (fun _ => true))
      some (if no then 0x25 else 0, engineReq tgt (.lant c) t)) s

/-- The first status of Table 12.16b that applies to a port instruction, lowest first; 0 where it is accepted. -/
def ctlStatus (l : List (Bool × Nat)) : Nat := ((l.filter fun e => e.1).map fun e => e.2).foldl (fun m k => if m = 0 || k < m then k else m) 0

/-- PPWR. (Log 69: DEDUCED.) -/
def lantPort (c : Fin 4) (rd ra rb : BitVec 5) (sf : BitVec 1) (p op : Nat) (s : State) : State :=
  let v := (gpr (ctxOf s c.val) ra).toNat
  let q := bits v 0 5
  if q < 20 && q ≠ p then s else
  dramControl c.val rd ra rb sf (BitVec.ofNat 4 op) 4 false (rb ≠ 0) (fun t =>
    let ok := ctlStatus [(q < 20 && !portImpl t.part.variant p, 9), (q ≥ 20 || v ≥ 2 ^ 12, 0x20),
      (q < 20 && !portAllows (pstate t p) op, 0x21),
      ((op = 0 || op = 2 || op = 4) && fromDram t c.val && (ctxOf t c.val).codep.getLsbD q, 0x22), (t.en.pf ≠ .none, 0x25)]
    if ok = 0x25 then some (0x25, portReq p op (.lant c) t)
    else if ok ≠ 0 then some (BitVec.ofNat 64 ok, t)
    else some (0, portReq p op (.lant c) t)) s

/-- A request for an engine state from one of the sources. -/
def engineFrom (tgt : Nat) (src : ReqSrc) (s : State) : State :=
  match src with
  | .reg => regEngine tgt s
  | .handle h => hostEngine h.toNat tgt s
  | .lant c rd ra rb sf => lantEngine c rd ra rb sf tgt s

/-- A request for a port transition from one of the sources. -/
def portFrom (p op : Nat) (src : ReqSrc) (s : State) : State :=
  match src with
  | .reg => if portImpl s.part.variant p then portReq p op .reg (if s.pw.st.toNat = 2 || s.pw.st.toNat = 3 then wake 2 s else s) else s
  | .handle h => hostPortPower h.toNat p op s
  | .lant c rd ra rb sf => lantPort c rd ra rb sf p op s

def execPortOff (p : Fin 20) (src : ReqSrc) (s : State) : Out := .next (settle (portFrom p.val 0 src s))
def execPortOn (p : Fin 20) (src : ReqSrc) (s : State) : Out := .next (settle (portFrom p.val 1 src s))
def execPortSelfRefresh (p : Fin 20) (src : ReqSrc) (s : State) : Out := .next (settle (portFrom p.val 2 src s))
def execPortWake (p : Fin 20) (src : ReqSrc) (s : State) : Out := .next (settle (portFrom p.val 3 src s))
def execPortReset (p : Fin 20) (src : ReqSrc) (s : State) : Out := .next (settle (portFrom p.val 4 src s))

/-! ### The rows of the engine states -/

def execEnterE1 (src : ReqSrc) (s : State) : Out := .next (settle (engineFrom 1 src s))
def execEnterE2 (src : ReqSrc) (s : State) : Out := .next (settle (engineFrom 2 src s))
def execEnterE3 (src : ReqSrc) (s : State) : Out := .next (settle (engineFrom 3 src s))
def execEnterE4 (src : ReqSrc) (s : State) : Out := .next (settle (engineFrom 4 src s))

/-- The engine counts as active now (R412). -/
def activeNow (s : State) : Bool :=
  let demand (q : SubReq) : Bool := match q.owner with
    | .fab _ _ _ => true | .home _ => true | .lant _ _ => true
    | _ => false
  s.fab.any (fun e => e.2.reqs.any FabReq.live || e.2.owed ≠ []) || s.home.reqs ≠ [] || s.home.bars ≠ []
    || s.ports.any (fun e => (e.2.sched.queue ++ e.2.sched.wait).any demand || e.2.prot.merge.any fun m => !m.2.closed)
    || [0, 1, 2, 3].any (fun c => (ctxOf s c).st = .running)
    || s.host.handles.any fun e => e.2.st ≠ .free && e.2.st ≠ .done

/-- The engine has been idle for n edges, and no transition or request is in the way. -/
def idleFor (s : State) (n : Nat) : Bool :=
  n ≠ 0 && !activeNow s && s.pw.activeAt + n ≤ s.clk && engineIdle s && s.pw.pend.isNone && s.pw.soft.isNone && s.en.pf = .none && !s.pw.inReset

/-- The idle timers start again (R421). -/
def restartTimers (s : State) : State := modPw (fun w => { w with activeAt := s.clk }) s

/-- IDLE_E1. -/
def execIdleE1 (s : State) : Out :=
  .next (settle (
    if s.pw.st ≠ 0 || !idleFor s (fld s PWR_IDLE_T1 * edgesUs) then s
    else
      let t := enterIdle .idle s
      if t.pw.st = 1 then t else restartTimers t))

/-- IDLE_E2. -/
def execIdleE2 (s : State) : Out :=
  .next (settle (
    if s.pw.st.toNat > 1 || !idleFor s (fld s PWR_IDLE_T2 * 100 * edgesUs) then s else restartTimers (engineReq 2 .idle s)))

/-- ENTRY_COMMIT: the preparation goes on where no refuser is present. -/
def execEntryCommit (t : TransId) (s : State) : Out :=
  .next (settle (
    match t with
    | .engine => commitEngine s
    | .port p => commitPort p.val s
    | .domain d =>
      match mget s.pw.doms d.val with
      | some (.prep _) => if (domRefuser s d.val).isSome || s.pw.inReset then s else domOff d.val s
      | _ => s))

/-- Every port leaves self-refresh, and its lanes are in L0 again (R415). -/
def portsWake (s : State) : State :=
  lanesTo (fun _ => 0) (((List.range 20).filter fun p => portImpl s.part.variant p && pstate s p = .selfRefresh).foldl (fun t p => srExit p t) s)

/-- The engine is back in E0. -/
def backInRun (s : State) : State :=
  takePend (raise 37 (active (pwrStat (modPw (fun w => { w with st := 0, exit := none }) s))))

/-- The entry that runs has reached its state; a wake that came meanwhile starts the exit at once (R421). -/
def entryReached (t : EngTrans) (s : State) : State :=
  let s1 := if t.tgt = 3 then setFld TB_STAT_COAST 0 1 (lanesTo (fun p => if cx2 s p then 3 else 2) s) else s
  let s2 := raise 37 (pwrStat (modPw (fun w => { w with st := t.tgt, cur := none }) s1))
  if t.wake then pwrStat (modPw (fun w => { w with exit := some (w.st, s.clk) }) (addFld PWR_CNT_REVERSAL 0 1 s2)) else takePend s2

/-- STATE_REACHED: an entry into E2 or E3 ends, or an exit from E2. -/
def execStateReached (s : State) : Out :=
  .next (settle (
    match s.pw.cur with
    | some t => if t.run && !s.pw.inReset then entryReached t s else s
    | none =>
      match s.pw.exit with
      | some (st, at_) => if st = 2 && at_ + engineW s 2 ≤ s.clk then backInRun (portsWake s) else s
      | none => s))

/-! ### Exit from E3 (R417) -/

/-- An on-chip group keeps its contents in E3: the retained banks, the remap spare banks and Lantern's memories. -/
def retained (s : State) (g : Nat) : Bool :=
  if g < 0x20 then
    bits (fld s PWR_RET_SPAD_BANKS) g 1 = 1 || (List.range 20).any fun p => fld s RM_CTL_LOC p = 1 && fld s RM_CTL_BANK p = g
  else 0x30 ≤ g && g ≤ 0x32

/-- Groups that were off are tested again and their remap entries rebuilt; their scratchpad banks are zero. Accesses wait for the
test, which leaves the bank as it finds it here. (Log 62: DEDUCED.) -/
def rebuildGroups (s : State) : State :=
  let gone := (List.range 0x79).filter fun g => groupImpl s.part.variant g && !retained s g
  let banks := gone.filter fun g => g < 0x20
  let out (k : Nat) : Bool := !banks.contains (k / 524288)
  let s1 := { s with sram := s.sram.filter (fun e => !gone.contains e.1), spad := s.spad.filter (fun e => out e.1), spadBad := s.spadBad.filter out }
  let s2 := setFld PWR_SPAD_LOST_BANKS 0 (fld s1 PWR_SPAD_LOST_BANKS ||| banks.foldl (fun m g => m ||| 2 ^ g) 0) s1
  if fld s2 MT_BOOT_ALG = 0 || s2.march.running then s2
  else setFld MT_STAT_BUSY 0 1 { s2 with march := { running := true, groups := gone, alg := BitVec.ofNat 2 (fld s2 MT_BOOT_ALG), byReg := false } }

/-- Ports on the way out of E3: self-refresh exit, or the cold enable that zero-fills a shed DIMM. -/
def portsReturn (s : State) : State :=
  let s1 := lanesTo (fun _ => 0) s
  ((List.range 20).filter fun p => portImpl s.part.variant p && pstate s p = .selfRefresh).foldl (fun t p =>
    if shedSet t p ≠ 0 then portStart p .cold true t
    else modTrain p (fun q => { q with roundDue := t.clk }) (srExit p t)) s1

/-- E3_EXIT_DONE. -/
def execE3ExitDone (s : State) : Out :=
  .next (settle (
    match s.pw.exit with
    | some (st, at_) =>
      if st ≠ 3 || s.clk < at_ + engineW s 3 then s else
      let s1 := rebuildGroups (portsReturn (setFld TB_STAT_COAST 0 0 (modPw (fun w => { w with st := 0 }) s)))
      let s2 := ((allFabs s1).filter fun n => flg s1 FP_CTL_EN n && !(fabOf s1 n).granted && !(fabOf s1 n).fenced).foldl (fun t n => grantTallies n t) s1
      backInRun s2
    | none => s))

/-! ### Refusals and wakes -/

/-- PREP_TIMEOUT. (Log 60: DEDUCED.) -/
def execPrepTimeout (t : TransId) (s : State) : Out :=
  let late (start : Nat) : Bool := start + fld s PWR_CTL_PREP * edgesUs ≤ s.clk
  .next (settle (
    match t with
    | .engine =>
      (match s.pw.cur with
      | some x =>
        let own := match x.src with
          | .handle k => some k
          | _ => none
        (match engineRefuser s x.tgt.toNat own with
        | some code => if !x.run && late x.start then softNext (refusePrep code false s) else s
        | none => s)
      | none => s)
    | .port p =>
      (match (portPwr s p.val).cur with
      | some x =>
        (match portRefuser s p.val x.op.toNat with
        | some code =>
          if !x.run && late x.start then
            transEnd p.val 0x25 code (recordRef code 6 p.val false (runPort p.val s))
          else s
        | none => s)
      | none => s)
    | .domain d =>
      match mget s.pw.doms d.val with
      | some (.prep start) =>
        (match domRefuser s d.val with
        | some code => if late start then modDom d.val .on (recordRef code 5 d.val false s) else s
        | none => s)
      | _ => s))

/-- WAIT targets that the engine must wake for (R345). -/
def waitWakes (s : State) : Bool :=
  [0, 1, 2, 3].any fun c => match (ctxOf s c).wait with
    | .count t => t.toNat ≤ (countNow s).toNat + engineW s s.pw.st.toNat
    | _ => false

/-- A pending launch whose self-wake tick has come (R136). -/
def launchWakes (s : State) : Bool :=
  s.tb.launches.any fun e => e.2.t.toNat ≤ (countNow s).toNat + fld s TB_LCTL_SETUP + maxLead s + engineW s s.pw.st.toNat + 4096

/-- The state whose wake column of Table 15.6 applies: the state in force, or the one that an entry runs or prepares. -/
def wakeState (s : State) : Nat :=
  match s.pw.cur with
  | some t => if t.run then t.tgt.toNat else if t.tgt = 2 || t.tgt = 3 then 2 else s.pw.st.toNat
  | none => s.pw.st.toNat

/-- WAKE_SOURCE: a source of Table 15.6 that is present and enabled for the state. -/
def execWakeSource (w : WakeSrc) (s : State) : Out :=
  .next (settle (
    let st := wakeState s
    let light := st = 1 || st = 2
    let deep := 1 ≤ st && st ≤ 3
    let go (b : Bool) (bit : Nat) : State := if b && !s.pw.inReset && s.en.pf = .none then wake bit s else s
    match w with
    | .fabric => go (light && flg s PWR_WAKE_FAB && s.fab.any fun e => e.2.reqs.any FabReq.live) 0
    | .ring => go (light && flg s PWR_WAKE_RING) 1
    | .register => go light 2
    | .alarm => go (deep && flg s TB_ALARM_CTL_FIRED && flg s TB_ALARM_CTL_WAKE) 3
    | .wait => go (deep && waitWakes s) 4
    | .launch => go (deep && launchWakes s) 5
    | .reserveLow => go (deep && flg s PWR_WAKE_RSV && s.en.rsvTrip) 6
    | .doorbell => go (light || (st = 3 && flg s PWR_WAKE_DB)) 2))

/-! ### Counters -/

/-- PWR_CNT_CLEAR. -/
def execPwrCntClear (v : BitVec 32) (s : State) : Out :=
  .next (if !v.getLsbD 0 || s.pw.inReset then s else setWord 0x40028 0 (setFld PWR_REF_CNT 0 0 s))

end Sys2Proof.Machine
end

