-- ==== Sys2Proof/Machine/LanternCtl.lean ====
section
/-!
DEFINITION. Lantern's DRAM control instructions MRW, MRR, REFC, RREP and TRSTEP (R347, R348).
-/

namespace Sys2Proof.Machine

/-- The fields of ra (R347): port, and the place of the target's first bank. -/
structure CtlTarget where
  port : Nat
  loc : Loc
  deriving DecidableEq, Repr

def ctlTarget (v : Nat) : CtlTarget :=
  { port := bits v 0 5, loc := { sub := 2 * bits v 5 1 + bits v 6 1, dimm := bits v 7 1, prank := bits v 8 1, cid := bits v 9 3 } }

/-- ra names an absent port; ra names no port or has a bit above its fields. -/
def ctlAbsent (s : State) (v : Nat) : Bool := bits v 0 5 < 20 && !portImpl s.part.variant (bits v 0 5)
/-- (Log 37: DEDUCED.) -/
def ctlBad (v : Nat) : Bool := 20 ≤ bits v 0 5 || 2 ^ 12 ≤ v

/-- The target names a rank that the port does not have. -/
def noRank (s : State) (v : Nat) : Bool := let g := ctlTarget v; bits v 0 5 < 20 && !rankThere s g.port g.loc

/-- The port that ra names is in SERVICE. -/
def ctlServes (s : State) (v : Nat) : Bool := pstate s (bits v 0 5) = .service

/-- Key of a mode register. -/
def modeKey (l : Loc) (reg : Nat) : Nat := rankKey l * 256 + reg

/-- The 40-tick pause that places a mode-register access. -/
def modePause (g : CtlTarget) (s : State) : State :=
  modSched g.port (fun q => { q with pauses := q.pauses ++ [{ kind := kindMode, rank := rankKey g.loc, len := 40, due := s.clk }] }) s

/-- Status of MRW and MRR. -/
def modeStatus (s : State) (v w : Nat) (wide : Nat) : Nat :=
  ctlStatus [(ctlAbsent s v, 9), (ctlBad v || noRank s v || 2 ^ wide ≤ w, 0x20), (!ctlServes s v, 0x21)]

/-- MRW: mode register rb[15:8] takes rb[7:0]. (Log 36: DEDUCED.) -/
def execMrw (c : Fin 4) (rd ra rb : BitVec 5) (sf : BitVec 1) (x : BitVec 4) (s : State) : Out :=
  .next (settle (dramControl c.val rd ra rb sf x 0 false (x ≠ 0) (fun t =>
    let k := ctxOf t c.val
    let v := (gpr k ra).toNat
    let w := (gpr k rb).toNat
    let g := ctlTarget v
    let ok := modeStatus t v w 16
    if ok ≠ 0 then some (BitVec.ofNat 64 ok, t)
    else
      let t1 := modDram g.port (fun d => { d with modeRegs := mput d.modeRegs (modeKey g.loc (bits w 8 8)) (BitVec.ofNat 8 w) }) t
      some (0, modePause g t1)) s))

/-- MRR: rd[15:8] takes mode register rb[15:8]; a register that no MRW has written gives a free value. -/
def execMrr (c : Fin 4) (rd ra rb : BitVec 5) (sf : BitVec 1) (x : BitVec 4) (s : State) : Out :=
  .next (settle (dramControl c.val rd ra rb sf x 1 false (x ≠ 0) (fun t =>
    let k := ctxOf t c.val
    let v := (gpr k ra).toNat
    let w := (gpr k rb).toNat
    let g := ctlTarget v
    let ok := modeStatus t v w 16
    if ok ≠ 0 then some (BitVec.ofNat 64 ok, t)
    else match mget (portOf t g.port).dram.modeRegs (modeKey g.loc (bits w 8 8)) with
      | some m => some (BitVec.ofNat 64 (m.toNat * 256), modePause g t)
      | none => let f := drawFree t; some (BitVec.ofNat 64 (f.1 % 256 * 256), modePause g f.2)) s))

/-- A REFC on the target rank; `act` is its effect, none while it cannot be accepted yet. -/
def refcRank (c : Fin 4) (rd ra rb : BitVec 5) (sf : BitVec 1) (x : Nat) (act : CtlTarget → State → Option State) (s : State) : Out :=
  .next (settle (dramControl c.val rd ra rb sf (BitVec.ofNat 4 x) 2 false (rb ≠ 0) (fun t =>
    let v := (gpr (ctxOf t c.val) ra).toNat
    let ok := ctlStatus [(ctlAbsent t v, 9), (ctlBad v || noRank t v, 0x20), (!ctlServes t v, 0x21)]
    if ok ≠ 0 then some (BitVec.ofNat 64 ok, t)
    else (act (ctlTarget v) t).map fun u => ((0 : W64), u)) s))

/-- REF_NOW (Table 12.16). -/
def execRefcRefNow (c : Fin 4) (rd ra rb : BitVec 5) (sf : BitVec 1) (s : State) : Out :=
  refcRank c rd ra rb sf 0 (fun g t => some (refNowRank g.port t g.loc)) s

/-- A calibration starts as ZQ_START starts it; its latch follows 1 µs later (R151). -/
def zqNow (g : CtlTarget) (t : State) : Option State :=
  if !mayIssue t g.port then none
  else if (rankSt t g.port (rankKey g.loc)).zqStart.isSome then some t
  else some (modRank g.port (rankKey g.loc) (fun x => { x with zqStart := some t.clk }) (issueOp g.port g.loc.sub 0 .mpc g.loc none false t))

def execRefcZq (c : Fin 4) (rd ra rb : BitVec 5) (sf : BitVec 1) (s : State) : Out := refcRank c rd ra rb sf 3 zqNow s

/-- A REFC that moves the port: op 2 enters self-refresh, op 3 leaves it. -/
def refcPort (c : Fin 4) (rd ra rb : BitVec 5) (sf : BitVec 1) (x op : Nat) (s : State) : Out :=
  .next (settle (dramControl c.val rd ra rb sf (BitVec.ofNat 4 x) 2 false (rb ≠ 0) (fun t =>
    let v := (gpr (ctxOf t c.val) ra).toNat
    let p := bits v 0 5
    let ok := ctlStatus [(ctlAbsent t v, 9), (ctlBad v, 0x20), (p < 20 && !portAllows (pstate t p) op, 0x21),
      (op = 2 && fromDram t c.val && (ctxOf t c.val).codep.getLsbD p, 0x22), (t.en.pf ≠ .none, 0x25)]
    if ok = 0x25 || ok = 0 then some (BitVec.ofNat 64 ok, portReq p op (.lant c) t) else some (BitVec.ofNat 64 ok, t)) s))

def execRefcSrEnter (c : Fin 4) (rd ra rb : BitVec 5) (sf : BitVec 1) (s : State) : Out := refcPort c rd ra rb sf 1 2 s
/-- (Log 38: DEDUCED.) -/
def execRefcSrExit (c : Fin 4) (rd ra rb : BitVec 5) (sf : BitVec 1) (s : State) : Out := refcPort c rd ra rb sf 2 3 s

/-! ### Repair (R161) -/

/-- The row has an ACTIVE remap entry that no repair has taken. -/
def repairSlot (s : State) (p key : Nat) : Option Nat :=
  match remapOf s p key with
  | some (k, r) => if r.st = .active && !r.soft then some k else none
  | none => none

/-- Steps 1 and 2 of a soft repair: the hold is placed like a training pause. -/
def softStartRepair (p slot : Nat) (s : State) : State :=
  modSched p (fun q => { q with pauses := q.pauses ++ [{ kind := kindRepair, rank := slot, len := Config.repairTime p + 80, due := s.clk }] })
    (modProt p (fun t => { t with remap := mmod t.remap slot fun x => { x with soft := true } }) s)

/-- A hard repair is recorded as pending. -/
def hardRepair (p key : Nat) (s : State) : State :=
  let s1 := modDram p (fun d => { d with hardPend := insNat d.hardPend key }) s
  setFld DP_PPR_CNT_PEND p (portOf s1 p).dram.hardPend.length s1

/-- RREP. `slot` says where a repair that needs a resource finds it; `go` records it. -/
def repairInsn (c : Fin 4) (rd ra rb : BitVec 5) (sf : BitVec 1) (x : BitVec 4) (none_ : State → Nat → Nat → Bool) (go : Nat → Nat → State → State)
    (s : State) : Out :=
  .next (settle (dramControl c.val rd ra rb sf x 3 false (x.extractLsb' 1 3 ≠ 0) (fun t =>
    let k := ctxOf t c.val
    let v := (gpr k ra).toNat
    let w := (gpr k rb).toNat
    let p := bits v 0 5
    let l := { keyLoc w with bg := 0, bank := 0, row := 0 }
    let ok := ctlStatus [(ctlAbsent t v, 9), (ctlBad v || (p < 20 && !rankThere t p l) || 2 ^ 30 ≤ w, 0x20), (!ctlServes t v, 0x21),
      (launchNames t p, 0x23), (none_ t p w, 0x24)]
    if ok ≠ 0 then some (BitVec.ofNat 64 ok, t) else some (0, go p w t)) s))

/-- RREP X[0] = 0. `freeResource`: the DRAM reports a free soft-repair resource for the bank. -/
def execRrepSoft (c : Fin 4) (rd ra rb : BitVec 5) (sf : BitVec 1) (x : BitVec 3) (freeResource : Bool) (s : State) : Out :=
  repairInsn c rd ra rb sf (x ++ (0 : BitVec 1)) (fun t p w => !freeResource || (repairSlot t p w).isNone)
    (fun p w t => match repairSlot t p w with
      | some k => softStartRepair p k t
      | none => t) s

/-- RREP X[0] = 1. -/
def execRrepHard (c : Fin 4) (rd ra rb : BitVec 5) (sf : BitVec 1) (x : BitVec 3) (s : State) : Out :=
  repairInsn c rd ra rb sf (x ++ (1 : BitVec 1)) (fun _ _ _ => false) hardRepair s

/-! ### Training steps -/

/-- The port has the unit that a step trains: steps 0xB and 0xC train serial lanes. -/
def stepApplies (p x : Nat) : Bool := x < 0xB || serial p

/-- A training step on a port sets new values, which the spec leaves to the part and the board. -/
def runStep (p x : Nat) (s : State) : State :=
  modTrain p (fun t => { t with items := t.items.filter (fun e => e.1 / 6144 ≠ x), seeds := mput t.seeds x s.free }) { s with free := s.free + 1 }

/-- TRSTEP. `ok`: the step's measurements meet their criterion (Table 8.3). -/
def execTrstep (c : Fin 4) (rd ra rb : BitVec 5) (sf : BitVec 1) (x : BitVec 4) (ok : Bool) (s : State) : Out :=
  let n := x.toNat
  .next (settle (dramControl c.val rd ra rb sf x 5 (n = 0 || 0xD ≤ n) (rb ≠ 0) (fun t =>
    let v := (gpr (ctxOf t c.val) ra).toNat
    let p := bits v 0 5
    let st := pstate t p
    let sts := ctlStatus [(ctlAbsent t v, 9), (ctlBad v || noRank t v, 0x20), ((st ≠ .train && st ≠ .test) || !stepApplies p n, 0x21),
      (7 ≤ n && n ≤ 9 && setNames t p, 0x23), (!ok, 0x26)]
    if sts ≠ 0 then some (BitVec.ofNat 64 sts, t) else some (0, runStep p n t)) s))

end Sys2Proof.Machine
end

