-- ==== Sys2Proof/Machine/LanternAlu.lean ====
section
/-!
DEFINITION. Lantern's arithmetic, logic, immediate instructions, branches and jumps (R335 to R339).
-/

namespace Sys2Proof.Machine

/-! ### Flags (R334, R335) -/

def ctxZ (x : Ctx) : Bool := x.flags.getLsbD 0
def ctxN (x : Ctx) : Bool := x.flags.getLsbD 1
def ctxV (x : Ctx) : Bool := x.flags.getLsbD 2
def ctxC (x : Ctx) : Bool := x.flags.getLsbD 3

/-- What an ALU operation gives: result, C, V. -/
structure AluRes where
  r : W64
  c : Bool := false
  v : Bool := false
  deriving DecidableEq, Repr

def b2n (b : Bool) : Nat := if b then 1 else 0

/-- Z, N, V and C from a result; the sticky bits stay. -/
def setZnvc (x : Ctx) (a : AluRes) : Ctx :=
  { x with flags := BitVec.ofNat 6 ((x.flags.toNat / 16) * 16 + b2n (a.r = 0) + 2 * b2n (a.r.getLsbD 63) + 4 * b2n a.v + 8 * b2n a.c) }

/-- OV is set by the V condition, whatever SF is (R335). -/
def stickyOv (x : Ctx) (v : Bool) : Ctx := if v then { x with flags := x.flags ||| 32 } else x

def stickyDz (x : Ctx) : Ctx := { x with flags := x.flags ||| 16 }

/-! ### Operations (Table 12.7) -/

def addRes (a b : W64) (cin : Nat) : AluRes :=
  let r := a + b + BitVec.ofNat 64 cin
  let t := a.toInt + b.toInt + cin
  { r := r, c := decide (2 ^ 64 ≤ a.toNat + b.toNat + cin), v := decide (r.toInt ≠ t) }

/-- a − b − (1 − cin); C = 1 when there is no borrow. -/
def subRes (a b : W64) (cin : Nat) : AluRes :=
  let r := a - b - BitVec.ofNat 64 (1 - cin)
  let t := a.toInt - b.toInt - ((1 - cin : Nat) : Int)
  { r := r, c := decide (b.toNat + (1 - cin) ≤ a.toNat), v := decide (r.toInt ≠ t) }

def sllOf (a : W64) (n : Nat) : W64 := if 64 ≤ n then 0 else a <<< n
def srlOf (a : W64) (n : Nat) : W64 := if 64 ≤ n then 0 else a >>> n
def sraOf (a : W64) (n : Nat) : W64 := BitVec.sshiftRight a (min n 64)

def mulRes (a b : W64) : AluRes :=
  let r := a * b
  { r := r, c := decide (2 ^ 64 ≤ a.toNat * b.toNat), v := decide (r.toInt ≠ a.toInt * b.toInt) }

/-- Signed quotient, truncated towards zero; MIN64 / −1 wraps and sets V. -/
def divRes (a b : W64) : AluRes :=
  let q := Int.tdiv a.toInt b.toInt
  { r := BitVec.ofInt 64 q, v := decide ((BitVec.ofInt 64 q).toInt ≠ q) }

/-- Signed remainder with the sign of the dividend. -/
def remRes (a b : W64) : AluRes := { r := BitVec.ofInt 64 (Int.tmod a.toInt b.toInt) }

def clzOf (a : W64) : Nat := ((List.range 64).find? fun i => a.getLsbD (63 - i)).getD 64
def ctzOf (a : W64) : Nat := ((List.range 64).find? fun i => a.getLsbD i).getD 64
def popcOf (a : W64) : Nat := ((List.range 64).filter fun i => a.getLsbD i).length

def sextFrom (a : W64) (n : Nat) : W64 := BitVec.ofInt 64 (asSigned n (a.toNat % 2 ^ n))

/-- Complete an ALU instruction. -/
def aluDone (c : Nat) (rd : BitVec 5) (sf : BitVec 1) (a : AluRes) (s : State) : State :=
  let f (x : Ctx) : Ctx := stickyOv (if sf = 1 then setZnvc x a else x) a.v
  retireWith c rd a.r (modCtx c f s)

/-- An ALU instruction of Table 12.7 whose X is reserved; `two`: it uses rb. -/
def aluInsn (fn : Nat) (two : Bool) (f : W64 → W64 → Nat → AluRes) (c : Fin 4) (rd ra rb : BitVec 5) (sf : BitVec 1) (x : BitVec 4) (s : State) : Out :=
  .next (settle (lantIssue c.val (encR 1 rd ra rb sf x fn) false (x ≠ 0 || (!two && rb ≠ 0)) false
    (fun t => let k := ctxOf t c.val
      some (aluDone c.val rd sf (f (gpr k ra) (gpr k rb) (b2n (ctxC k))) t)) s))

def logic (f : W64 → W64 → W64) : W64 → W64 → Nat → AluRes := fun a b _ => { r := f a b }

def execAdd (c : Fin 4) (rd ra rb : BitVec 5) (sf : BitVec 1) (x : BitVec 4) (s : State) : Out :=
  aluInsn 0x00 true (fun a b _ => addRes a b 0) c rd ra rb sf x s
def execSub (c : Fin 4) (rd ra rb : BitVec 5) (sf : BitVec 1) (x : BitVec 4) (s : State) : Out :=
  aluInsn 0x01 true (fun a b _ => subRes a b 1) c rd ra rb sf x s
def execAnd (c : Fin 4) (rd ra rb : BitVec 5) (sf : BitVec 1) (x : BitVec 4) (s : State) : Out :=
  aluInsn 0x02 true (logic fun a b => a &&& b) c rd ra rb sf x s
def execOr (c : Fin 4) (rd ra rb : BitVec 5) (sf : BitVec 1) (x : BitVec 4) (s : State) : Out :=
  aluInsn 0x03 true (logic fun a b => a ||| b) c rd ra rb sf x s
def execXor (c : Fin 4) (rd ra rb : BitVec 5) (sf : BitVec 1) (x : BitVec 4) (s : State) : Out :=
  aluInsn 0x04 true (logic fun a b => a ^^^ b) c rd ra rb sf x s
def execAndn (c : Fin 4) (rd ra rb : BitVec 5) (sf : BitVec 1) (x : BitVec 4) (s : State) : Out :=
  aluInsn 0x05 true (logic fun a b => a &&& ~~~b) c rd ra rb sf x s
def execSll (c : Fin 4) (rd ra rb : BitVec 5) (sf : BitVec 1) (x : BitVec 4) (s : State) : Out :=
  aluInsn 0x06 true (logic fun a b => sllOf a b.toNat) c rd ra rb sf x s
def execSrl (c : Fin 4) (rd ra rb : BitVec 5) (sf : BitVec 1) (x : BitVec 4) (s : State) : Out :=
  aluInsn 0x07 true (logic fun a b => srlOf a b.toNat) c rd ra rb sf x s
def execSra (c : Fin 4) (rd ra rb : BitVec 5) (sf : BitVec 1) (x : BitVec 4) (s : State) : Out :=
  aluInsn 0x08 true (logic fun a b => sraOf a b.toNat) c rd ra rb sf x s
def execSlt (c : Fin 4) (rd ra rb : BitVec 5) (sf : BitVec 1) (x : BitVec 4) (s : State) : Out :=
  aluInsn 0x09 true (logic fun a b => if a.toInt < b.toInt then 1 else 0) c rd ra rb sf x s
def execSltu (c : Fin 4) (rd ra rb : BitVec 5) (sf : BitVec 1) (x : BitVec 4) (s : State) : Out :=
  aluInsn 0x0A true (logic fun a b => if a.toNat < b.toNat then 1 else 0) c rd ra rb sf x s
def execMin (c : Fin 4) (rd ra rb : BitVec 5) (sf : BitVec 1) (x : BitVec 4) (s : State) : Out :=
  aluInsn 0x0B true (logic fun a b => if a.toInt < b.toInt then a else b) c rd ra rb sf x s
def execMax (c : Fin 4) (rd ra rb : BitVec 5) (sf : BitVec 1) (x : BitVec 4) (s : State) : Out :=
  aluInsn 0x0C true (logic fun a b => if a.toInt < b.toInt then b else a) c rd ra rb sf x s
def execMinu (c : Fin 4) (rd ra rb : BitVec 5) (sf : BitVec 1) (x : BitVec 4) (s : State) : Out :=
  aluInsn 0x0D true (logic fun a b => if a.toNat < b.toNat then a else b) c rd ra rb sf x s
def execMaxu (c : Fin 4) (rd ra rb : BitVec 5) (sf : BitVec 1) (x : BitVec 4) (s : State) : Out :=
  aluInsn 0x0E true (logic fun a b => if a.toNat < b.toNat then b else a) c rd ra rb sf x s
def execNeg (c : Fin 4) (rd ra rb : BitVec 5) (sf : BitVec 1) (x : BitVec 4) (s : State) : Out :=
  aluInsn 0x0F false (fun a _ _ => subRes 0 a 1) c rd ra rb sf x s
def execMul (c : Fin 4) (rd ra rb : BitVec 5) (sf : BitVec 1) (x : BitVec 4) (s : State) : Out :=
  aluInsn 0x10 true (fun a b _ => mulRes a b) c rd ra rb sf x s
def execMulh (c : Fin 4) (rd ra rb : BitVec 5) (sf : BitVec 1) (x : BitVec 4) (s : State) : Out :=
  aluInsn 0x11 true (logic fun a b => BitVec.ofInt 64 (Int.fdiv (a.toInt * b.toInt) (2 ^ 64))) c rd ra rb sf x s
def execMulhu (c : Fin 4) (rd ra rb : BitVec 5) (sf : BitVec 1) (x : BitVec 4) (s : State) : Out :=
  aluInsn 0x12 true (logic fun a b => BitVec.ofNat 64 (a.toNat * b.toNat / 2 ^ 64)) c rd ra rb sf x s
def execClz (c : Fin 4) (rd ra rb : BitVec 5) (sf : BitVec 1) (x : BitVec 4) (s : State) : Out :=
  aluInsn 0x17 false (logic fun a _ => BitVec.ofNat 64 (clzOf a)) c rd ra rb sf x s
def execCtz (c : Fin 4) (rd ra rb : BitVec 5) (sf : BitVec 1) (x : BitVec 4) (s : State) : Out :=
  aluInsn 0x18 false (logic fun a _ => BitVec.ofNat 64 (ctzOf a)) c rd ra rb sf x s
def execPopc (c : Fin 4) (rd ra rb : BitVec 5) (sf : BitVec 1) (x : BitVec 4) (s : State) : Out :=
  aluInsn 0x19 false (logic fun a _ => BitVec.ofNat 64 (popcOf a)) c rd ra rb sf x s
def execAdc (c : Fin 4) (rd ra rb : BitVec 5) (sf : BitVec 1) (x : BitVec 4) (s : State) : Out :=
  aluInsn 0x1B true addRes c rd ra rb sf x s
def execSbc (c : Fin 4) (rd ra rb : BitVec 5) (sf : BitVec 1) (x : BitVec 4) (s : State) : Out :=
  aluInsn 0x1C true subRes c rd ra rb sf x s

/-- SEXT: X[1:0] selects the width; 0b11 is undefined, X[3:2] reserved. -/
def execSext (c : Fin 4) (rd ra rb : BitVec 5) (sf : BitVec 1) (x : BitVec 4) (s : State) : Out :=
  let k := x.toNat % 4
  .next (settle (lantIssue c.val (encR 1 rd ra rb sf x 0x1A) (k = 3) (x.toNat / 4 ≠ 0 || rb ≠ 0) false
    (fun t => some (aluDone c.val rd sf { r := sextFrom (gpr (ctxOf t c.val) ra) (8 * 2 ^ k) } t)) s))

/-! ### Division (R337) -/

/-- DIV, DIVU, REM or REMU: `zero` is the result for a zero divisor. -/
def divInsn (fn : Nat) (zero : W64 → W64) (f : W64 → W64 → AluRes) (c : Fin 4) (rd ra rb : BitVec 5) (sf : BitVec 1) (x : BitVec 4) (s : State) : Out :=
  let w := encR 1 rd ra rb sf x fn
  .next (settle (lantIssue c.val w false (x ≠ 0) false
    (fun t => let k := ctxOf t c.val
      let a := gpr k ra
      if gpr k rb ≠ 0 then some (aluDone c.val rd sf (f a (gpr k rb)) t)
      else if k.trapen.getLsbD 0 then some (trapCtx c.val trapDz w 0 (modCtx c.val stickyDz t))
      else some (aluDone c.val rd sf { r := zero a } (modCtx c.val stickyDz t))) s))

def execDiv (c : Fin 4) (rd ra rb : BitVec 5) (sf : BitVec 1) (x : BitVec 4) (s : State) : Out :=
  divInsn 0x13 (fun _ => 0) divRes c rd ra rb sf x s
def execDivu (c : Fin 4) (rd ra rb : BitVec 5) (sf : BitVec 1) (x : BitVec 4) (s : State) : Out :=
  divInsn 0x14 (fun _ => 0) (fun a b => { r := BitVec.ofNat 64 (a.toNat / b.toNat) }) c rd ra rb sf x s
def execRem (c : Fin 4) (rd ra rb : BitVec 5) (sf : BitVec 1) (x : BitVec 4) (s : State) : Out :=
  divInsn 0x15 (fun a => a) remRes c rd ra rb sf x s
def execRemu (c : Fin 4) (rd ra rb : BitVec 5) (sf : BitVec 1) (x : BitVec 4) (s : State) : Out :=
  divInsn 0x16 (fun a => a) (fun a b => { r := BitVec.ofNat 64 (a.toNat % b.toNat) }) c rd ra rb sf x s

/-! ### Immediates (R338) -/

def sext16 (i : BitVec 16) : W64 := i.signExtend 64
def zext16 (i : BitVec 16) : W64 := i.setWidth 64

/-- An immediate instruction; it writes rd from ra, and OV from a V condition. -/
def immInsn (major : Nat) (undef rsvd : Bool) (f : W64 → Ctx → AluRes) (c : Fin 4) (rd ra : BitVec 5) (imm : BitVec 16) (s : State) : Out :=
  .next (settle (lantIssue c.val (encI major rd ra imm) undef rsvd false
    (fun t => let k := ctxOf t c.val
      some (aluDone c.val rd 0 (f (gpr k ra) k) t)) s))

def execAddi (c : Fin 4) (rd ra : BitVec 5) (imm : BitVec 16) (s : State) : Out :=
  immInsn 0x02 false false (fun a _ => addRes a (sext16 imm) 0) c rd ra imm s
def execAndi (c : Fin 4) (rd ra : BitVec 5) (imm : BitVec 16) (s : State) : Out :=
  immInsn 0x03 false false (fun a _ => { r := a &&& zext16 imm }) c rd ra imm s
def execOri (c : Fin 4) (rd ra : BitVec 5) (imm : BitVec 16) (s : State) : Out :=
  immInsn 0x04 false false (fun a _ => { r := a ||| zext16 imm }) c rd ra imm s
def execXori (c : Fin 4) (rd ra : BitVec 5) (imm : BitVec 16) (s : State) : Out :=
  immInsn 0x05 false false (fun a _ => { r := a ^^^ zext16 imm }) c rd ra imm s

/-- SHI: imm[15:14] selects the shift. -/
def execShi (c : Fin 4) (rd ra : BitVec 5) (imm : BitVec 16) (s : State) : Out :=
  let n := imm.toNat % 128
  let k := imm.toNat / 16384
  immInsn 0x06 (k = 3) (bits imm.toNat 7 7 ≠ 0)
    (fun a _ => { r := if k = 0 then sllOf a n else if k = 1 then srlOf a n else sraOf a n }) c rd ra imm s

/-- HSETZ: H is the low two bits of the ra field; the others are reserved. -/
def execHsetz (c : Fin 4) (rd ra : BitVec 5) (imm : BitVec 16) (s : State) : Out :=
  immInsn 0x07 false (ra.toNat / 4 ≠ 0) (fun _ _ => { r := zext16 imm <<< (16 * (ra.toNat % 4)) }) c rd ra imm s

/-- HINS: 16 bits of rd are replaced. -/
def execHins (c : Fin 4) (rd ra : BitVec 5) (imm : BitVec 16) (s : State) : Out :=
  let h := 16 * (ra.toNat % 4)
  immInsn 0x08 false (ra.toNat / 4 ≠ 0)
    (fun _ k => { r := BitVec.ofNat 64 (withBits (gpr k rd).toNat h 16 imm.toNat) }) c rd ra imm s

def execSlti (c : Fin 4) (rd ra : BitVec 5) (imm : BitVec 16) (s : State) : Out :=
  immInsn 0x09 false false (fun a _ => { r := if a.toInt < (sext16 imm).toInt then 1 else 0 }) c rd ra imm s
def execSltiu (c : Fin 4) (rd ra : BitVec 5) (imm : BitVec 16) (s : State) : Out :=
  immInsn 0x0A false false (fun a _ => { r := if a.toNat < (sext16 imm).toNat then 1 else 0 }) c rd ra imm s

/-- CMPI sets the flags of a subtraction and writes nothing. -/
def execCmpi (c : Fin 4) (rd ra : BitVec 5) (imm : BitVec 16) (s : State) : Out :=
  .next (settle (lantIssue c.val (encI 0x0B rd ra imm) false (rd ≠ 0) false
    (fun t => some (aluDone c.val 0 1 (subRes (gpr (ctxOf t c.val) ra) (sext16 imm) 1) t)) s))

/-! ### Branches and jumps (R339) -/

/-- PC plus 4 × sext(offset). -/
def branchTo (s : State) (c : Nat) (off : BitVec 16) : W64 := (ctxOf s c).pc + 4 * sext16 off

/-- The condition of BC. -/
def condHolds (x : Ctx) (cond : BitVec 4) : Bool :=
  match cond.toNat with
  | 0 => true
  | 1 => ctxZ x
  | 2 => !ctxZ x
  | 3 => ctxN x
  | 4 => !ctxN x
  | 5 => ctxC x
  | 6 => !ctxC x
  | 7 => ctxV x
  | 8 => !ctxV x
  | 9 => ctxC x && !ctxZ x
  | 10 => !ctxC x || ctxZ x
  | 11 => ctxN x == ctxV x
  | 12 => ctxN x != ctxV x
  | 13 => !ctxZ x && (ctxN x == ctxV x)
  | 14 => ctxZ x || (ctxN x != ctxV x)
  | _ => false

def execBc (c : Fin 4) (cond : BitVec 4) (rsvd : BitVec 6) (off : BitVec 16) (s : State) : Out :=
  .next (settle (lantIssue c.val (encC 0x10 cond rsvd off) (cond = 15) (rsvd ≠ 0) false
    (fun t => some (retire c.val (if condHolds (ctxOf t c.val) cond then branchTo t c.val off else nextPc t c.val) t)) s))

/-- A compare and branch. -/
def cmpBranch (major : Nat) (p : W64 → W64 → Bool) (c : Fin 4) (ra rb : BitVec 5) (off : BitVec 16) (s : State) : Out :=
  .next (settle (lantIssue c.val (encB major ra rb off) false false false
    (fun t => let k := ctxOf t c.val
      some (retire c.val (if p (gpr k ra) (gpr k rb) then branchTo t c.val off else nextPc t c.val) t)) s))

def execBeq (c : Fin 4) (ra rb : BitVec 5) (off : BitVec 16) (s : State) : Out :=
  cmpBranch 0x11 (fun a b => a == b) c ra rb off s
def execBne (c : Fin 4) (ra rb : BitVec 5) (off : BitVec 16) (s : State) : Out :=
  cmpBranch 0x12 (fun a b => a != b) c ra rb off s
def execBlt (c : Fin 4) (ra rb : BitVec 5) (off : BitVec 16) (s : State) : Out :=
  cmpBranch 0x13 (fun a b => decide (a.toInt < b.toInt)) c ra rb off s
def execBge (c : Fin 4) (ra rb : BitVec 5) (off : BitVec 16) (s : State) : Out :=
  cmpBranch 0x14 (fun a b => decide (b.toInt ≤ a.toInt)) c ra rb off s
def execBltu (c : Fin 4) (ra rb : BitVec 5) (off : BitVec 16) (s : State) : Out :=
  cmpBranch 0x15 (fun a b => decide (a.toNat < b.toNat)) c ra rb off s
def execBgeu (c : Fin 4) (ra rb : BitVec 5) (off : BitVec 16) (s : State) : Out :=
  cmpBranch 0x16 (fun a b => decide (b.toNat ≤ a.toNat)) c ra rb off s

/-- JAL writes the next address to g31. -/
def execJal (c : Fin 4) (off : BitVec 26) (s : State) : Out :=
  .next (settle (lantIssue c.val (encJ 0x17 off) false false false
    (fun t => some (retire c.val ((ctxOf t c.val).pc + 4 * off.signExtend 64) (modCtx c.val (setGpr 31 (nextPc t c.val)) t))) s))

/-- JALR; a misaligned target traps ALIGN. -/
def execJalr (c : Fin 4) (rd ra : BitVec 5) (imm : BitVec 16) (s : State) : Out :=
  let w := encI 0x18 rd ra imm
  .next (settle (lantIssue c.val w false false false
    (fun t =>
      let dest := gpr (ctxOf t c.val) ra + sext16 imm
      if dest.toNat % 4 ≠ 0 then some (trapCtx c.val trapAlign w 0 t)
      else some (retire c.val dest (modCtx c.val (setGpr rd (nextPc t c.val)) t))) s))

end Sys2Proof.Machine
end

