-- ==== Sys2Proof/Machine/LanternMem.lean ====
section
/-!
DEFINITION. Lantern's data RAM, DRAM and stall instructions (R340 to R344), and the arrival of what they wait for.
-/

namespace Sys2Proof.Machine

/-! ### Data RAM (R340) -/

/-- An instruction touches a line that a failed LDLN marked: the mark has been reported. (Log 42: DEDUCED.) -/
def touchTrap (c code a : Nat) (w : Word) (s : State) : State :=
  if code = trapMemfail then
    trapCtx c code w ((ctxOf s c).mst.extractLsb' 0 4)
      (modCtx c (fun x => { x with failedLines := x.failedLines.erase ((datBase s c + a) / 64) }) s)
  else trapCtx c code w 0 s

/-- Go on where the n bytes at window offset a can be touched. -/
def touched (c a n : Nat) (load : Bool) (w : Word) (k : State → Option State) (s : State) : Option State :=
  match touch s c a n load with
  | .wait => none
  | .trap code => some (touchTrap c code a w s)
  | .ok => k s

/-- Offset or address ra + sext(imm). -/
def effAddr (x : Ctx) (ra : BitVec 5) (imm : BitVec 16) : Nat := (gpr x ra + sext16 imm).toNat

/-- A load of n bytes, with or without sign extension. -/
def loadInsn (major n : Nat) (sgn : Bool) (c : Fin 4) (rd ra : BitVec 5) (imm : BitVec 16) (s : State) : Out :=
  let w := encI major rd ra imm
  .next (settle (lantIssue c.val w false false false (fun t =>
    let a := effAddr (ctxOf t c.val) ra imm
    touched c.val a n true w (fun u =>
      let v : W64 := BitVec.ofNat 64 (bytesAt u.lant.data (datBase u c.val + a) n)
      some (retireWith c.val rd (if sgn then sextFrom v (8 * n) else v) u)) t) s))

def execLbu (c : Fin 4) (rd ra : BitVec 5) (imm : BitVec 16) (s : State) : Out := loadInsn 0x20 1 false c rd ra imm s
def execLhu (c : Fin 4) (rd ra : BitVec 5) (imm : BitVec 16) (s : State) : Out := loadInsn 0x21 2 false c rd ra imm s
def execLwu (c : Fin 4) (rd ra : BitVec 5) (imm : BitVec 16) (s : State) : Out := loadInsn 0x22 4 false c rd ra imm s
def execLd (c : Fin 4) (rd ra : BitVec 5) (imm : BitVec 16) (s : State) : Out := loadInsn 0x23 8 false c rd ra imm s
def execLb (c : Fin 4) (rd ra : BitVec 5) (imm : BitVec 16) (s : State) : Out := loadInsn 0x24 1 true c rd ra imm s
def execLh (c : Fin 4) (rd ra : BitVec 5) (imm : BitVec 16) (s : State) : Out := loadInsn 0x25 2 true c rd ra imm s
def execLw (c : Fin 4) (rd ra : BitVec 5) (imm : BitVec 16) (s : State) : Out := loadInsn 0x26 4 true c rd ra imm s

/-- A store of the low n bytes of rs, which stands in the place of rd. -/
def storeInsn (major n : Nat) (c : Fin 4) (rs ra : BitVec 5) (imm : BitVec 16) (s : State) : Out :=
  let w := encI major rs ra imm
  .next (settle (lantIssue c.val w false false false (fun t =>
    let a := effAddr (ctxOf t c.val) ra imm
    touched c.val a n false w (fun u =>
      some (retire c.val (nextPc u c.val) (putData (datBase u c.val + a) n (gpr (ctxOf u c.val) rs).toNat u))) t) s))

def execSb (c : Fin 4) (rd ra : BitVec 5) (imm : BitVec 16) (s : State) : Out := storeInsn 0x28 1 c rd ra imm s
def execSh (c : Fin 4) (rd ra : BitVec 5) (imm : BitVec 16) (s : State) : Out := storeInsn 0x29 2 c rd ra imm s
def execSw (c : Fin 4) (rd ra : BitVec 5) (imm : BitVec 16) (s : State) : Out := storeInsn 0x2A 4 c rd ra imm s
def execSd (c : Fin 4) (rd ra : BitVec 5) (imm : BitVec 16) (s : State) : Out := storeInsn 0x2B 8 c rd ra imm s

/-! ### DRAM (R341, R342) -/

/-- Trap of an engine address that must be aligned to n. -/
def addrTrap (a n : Nat) : Option Nat := if 2 ^ 46 ≤ a then some trapAddr else if a % n ≠ 0 then some trapAlign else none

/-- Start a blocking access and wait for it. -/
def blockOn (c kind a : Nat) (rd : BitVec 5) (op : LineOp) (s : State) : State :=
  let num := (lantBind c s).2.nextId
  modCtx c (fun x => { x with st := .waiting, wait := .mem num rd }) (startAcc c kind a 0 op s)

/-- A blocking access at a with alignment 8, once R58 lets it start. -/
def blockInsn (c kind a : Nat) (rd : BitVec 5) (w : Word) (op : LineOp) (t : State) : Option State :=
  match addrTrap a 8 with
  | some code => some (trapCtx c code w 0 t)
  | none => if accReady (ctxOf t c) kind a then some (blockOn c kind a rd op t) else none

/-- Byte enables of the 8 bytes at an address within its line, and a value placed there. -/
def wordEnables (a : Nat) : BitVec 64 := (255 : BitVec 64) <<< (a % 64)
def wordLine (a : Nat) (v : W64) : Line := (v.setWidth 512) <<< (8 * (a % 64))

/-- A posted store of a line or a part of one. -/
def postStore (c a : Nat) (d : Line) (be : BitVec 64) (t : State) : Option State :=
  if accReady (ctxOf t c) 4 a then some (retire c (nextPc t c) (startAcc c 4 a 0 (.write d be false) t)) else none

def execLdm (c : Fin 4) (rd ra : BitVec 5) (imm : BitVec 16) (s : State) : Out :=
  let w := encI 0x2C rd ra imm
  .next (settle (lantIssue c.val w false false false (fun t =>
    blockInsn c.val 0 (effAddr (ctxOf t c.val) ra imm) rd w .read t) s))

def execStm (c : Fin 4) (rd ra : BitVec 5) (imm : BitVec 16) (s : State) : Out :=
  let w := encI 0x2D rd ra imm
  .next (settle (lantIssue c.val w false false false (fun t =>
    let a := effAddr (ctxOf t c.val) ra imm
    match addrTrap a 8 with
    | some code => some (trapCtx c.val code w 0 t)
    | none => postStore c.val a (wordLine a (gpr (ctxOf t c.val) rd)) (wordEnables a) t) s))

/-- A line instruction whose engine address is a and whose data RAM offset is d: ADDR, then ALIGN, then the touch. -/
def lineInsn (c a d : Nat) (load : Bool) (w : Word) (k : State → Option State) (t : State) : Option State :=
  if 2 ^ 46 ≤ a || datSize t c < d + 64 then some (trapCtx c trapAddr w 0 t)
  else if a % 64 ≠ 0 || d % 64 ≠ 0 then some (trapCtx c trapAlign w 0 t)
  else touched c d 64 load w k t

/-- LDLN: at most 32 are outstanding. -/
def execLdln (c : Fin 4) (rd ra rb : BitVec 5) (sf : BitVec 1) (x : BitVec 4) (s : State) : Out :=
  let w := encR 0x2E rd ra rb sf x 0
  .next (settle (lantIssue c.val w false (rd ≠ 0 || sf ≠ 0 || x ≠ 0) false (fun t =>
    let k := ctxOf t c.val
    let a := (gpr k ra).toNat
    let d := (gpr k rb).toNat
    lineInsn c.val a d false w (fun u =>
      let y := ctxOf u c.val
      if 32 ≤ (y.acc.filter fun e => e.kind = 5).length || !accReady y 5 a then none
      else some (retire c.val (nextPc u c.val) (startAcc c.val 5 a ((datBase u c.val + d) / 64) .read u))) t) s))

def execStln (c : Fin 4) (rd ra rb : BitVec 5) (sf : BitVec 1) (x : BitVec 4) (s : State) : Out :=
  let w := encR 0x2E rd ra rb sf x 1
  .next (settle (lantIssue c.val w false (rd ≠ 0 || sf ≠ 0 || x ≠ 0) false (fun t =>
    let k := ctxOf t c.val
    let a := (gpr k ra).toNat
    let d := (gpr k rb).toNat
    lineInsn c.val a d true w (fun u => postStore c.val a (lineAt u.lant.data (datBase u c.val + d)) allBytes u) t) s))

def execZln (c : Fin 4) (rd ra rb : BitVec 5) (sf : BitVec 1) (x : BitVec 4) (s : State) : Out :=
  let w := encR 0x2E rd ra rb sf x 2
  .next (settle (lantIssue c.val w false (rd ≠ 0 || rb ≠ 0 || sf ≠ 0 || x ≠ 0) false (fun t =>
    let a := (gpr (ctxOf t c.val) ra).toNat
    match addrTrap a 64 with
    | some code => some (trapCtx c.val code w 0 t)
    | none => postStore c.val a 0 allBytes t) s))

def execLantLr (c : Fin 4) (rd ra rb : BitVec 5) (sf : BitVec 1) (x : BitVec 4) (s : State) : Out :=
  let w := encR 0x2E rd ra rb sf x 3
  .next (settle (lantIssue c.val w false (rb ≠ 0 || sf ≠ 0 || x ≠ 0) false (fun t =>
    blockInsn c.val 1 (gpr (ctxOf t c.val) ra).toNat rd w .lr t) s))

def execLantSc (c : Fin 4) (rd ra rb : BitVec 5) (sf : BitVec 1) (x : BitVec 4) (s : State) : Out :=
  let w := encR 0x2E rd ra rb sf x 4
  .next (settle (lantIssue c.val w false (sf ≠ 0 || x ≠ 0) false (fun t =>
    let k := ctxOf t c.val
    let a := (gpr k ra).toNat
    blockInsn c.val 2 a rd w (.sc (wordLine a (gpr k rb)) (wordEnables a) false) t) s))

/-- The operand beat of an AMO: CAS compares with rd and writes rb, every other operation takes rb (R31). -/
def amoOperand (x : BitVec 4) (rd rb : W64) : Line :=
  if x = 2 then rd.setWidth 512 ||| ((rb.setWidth 512) <<< 256) else rb.setWidth 512

def execLantAmo (c : Fin 4) (rd ra rb : BitVec 5) (sf : BitVec 1) (x : BitVec 4) (s : State) : Out :=
  let w := encR 0x2E rd ra rb sf x 5
  .next (settle (lantIssue c.val w (0xA ≤ x.toNat) (sf ≠ 0) false (fun t =>
    let k := ctxOf t c.val
    let a := (gpr k ra).toNat
    blockInsn c.val 3 a rd w (.amo x 3 (BitVec.ofNat 6 (a % 64)) (amoOperand x (gpr k rd) (gpr k rb)) false) t) s))

/-! ### Stalls (R261, R344) -/

/-- The request word that the stall manager judges, and the status that refuses it. (Log 56: DEDUCED.) -/
def stallWord (addr len : Nat) : ReqWord :=
  { addr := BitVec.ofNat 46 addr, len := BitVec.ofNat 6 len, tag := 0, tkt := 0, dlv := false, dl := 0, size := 0, aop := 0, rsvd := 0 }

def stallRefuse (s : State) (c opc a addr len : Nat) : Option (BitVec 4) :=
  if 2 ^ 15 ≤ a then some 4 else refusal s (0x20 + c) opc (stallWord (a + addr) len)

/-- SPUT: one item, with EOP, LBYTES and ERRP; it waits until the stall takes it. -/
def execSput (c : Fin 4) (rd ra rb : BitVec 5) (sf : BitVec 1) (x : BitVec 4) (s : State) : Out :=
  .next (settle (lantIssue c.val (encR 0x30 rd ra rb sf x 0) false false false (fun t =>
    let k := ctxOf t c.val
    let a := (gpr k ra).toNat
    let eop := x.getLsbD 3
    match stallRefuse t c.val 9 a ((if eop then 2 ^ 15 else 0) + x.toNat % 8 * 2 ^ 19 + sf.toNat * 2 ^ 22) 0 with
    | some sts => some (retireWith c.val rd (sts.setWidth 64) t)
    | none =>
      let b := route t a
      let u := checkStall b t
      if (k.acc.any fun e => e.kind = 4 && !e.performed) then none
      else if !pushReady u b then
        (if (stallOf u b).pwaited then none else some (pushItems b [{ data := 0, eop := false, lbytes := 7 }] u).2)
      else
        let it : SItem := { data := gpr k rb, eop := eop, lbytes := x.extractLsb' 0 3, errp := sf = 1 }
        let y := stallOf u b
        let v := (pushItems b [it] u).2
        let v1 := match target v (y.wordAddr y.wpos) with
          | .dram p la => footFirm (ctxFoot c.val) (slotOf v p la) v
          | _ => v
        some (retireWith c.val rd 0 v1)) s))

/-- SGET: one word into data RAM; the read waits for a refill (R265). -/
def execSget (c : Fin 4) (rd ra rb : BitVec 5) (sf : BitVec 1) (x : BitVec 4) (s : State) : Out :=
  let w := encR 0x30 rd ra rb sf x 1
  .next (settle (lantIssue c.val w false (sf ≠ 0 || x ≠ 0) false (fun t =>
    let k := ctxOf t c.val
    let a := (gpr k ra).toNat
    let d := (gpr k rb).toNat
    touched c.val d 64 false w (fun u =>
      match stallRefuse u c.val 0xA a 0 1 with
      | some sts => some (retireWith c.val rd (BitVec.ofNat 64 (sts.toNat * 65536)) u)
      | none =>
        if (stallOf u a).reader.isSome then none else
        let v := startRead a (.lant c 0) 1 (checkStall a u)
        some (modCtx c.val (fun y => { y with st := .waiting, wait := .stall a rd (datBase u c.val + d) }) v)) t) s))

/-- STLY: OUT, FLAGS and status. -/
def execStly (c : Fin 4) (rd ra rb : BitVec 5) (sf : BitVec 1) (x : BitVec 4) (s : State) : Out :=
  .next (settle (lantIssue c.val (encR 0x30 rd ra rb sf x 2) false (rb ≠ 0 || sf ≠ 0 || x ≠ 0) false (fun t =>
    let a := (gpr (ctxOf t c.val) ra).toNat
    match stallRefuse t c.val 0xA a (2 ^ 15) 0 with
    | some sts => some (retireWith c.val rd (BitVec.ofNat 64 (sts.toNat * 2 ^ 52)) t)
    | none =>
      let r := tallyFetch a (checkStall (route t a) t)
      some (retireWith c.val rd (BitVec.ofNat 64 (bits r.1.toNat 64 48 + bits r.1.toNat 128 3 * 2 ^ 48)) r.2)) s))

/-- SCMD: a command of Table 10.5, behind the context's stores (R261). -/
def execScmd (c : Fin 4) (rd ra rb : BitVec 5) (sf : BitVec 1) (x : BitVec 4) (s : State) : Out :=
  .next (settle (lantIssue c.val (encR 0x30 rd ra rb sf x 3) false (rb ≠ 0 || sf ≠ 0) false (fun t =>
    let k := ctxOf t c.val
    let a := (gpr k ra).toNat
    let fin (u : State) : Option State := some (retireWith c.val rd 0 u)
    match stallRefuse t c.val 0xB a (x.toNat * 2 ^ 15) 0 with
    | some sts => some (retireWith c.val rd (sts.setWidth 64) t)
    | none =>
      if (k.acc.any fun e => e.kind = 4 && !e.performed) then none else
      let u := checkStall a t
      match x.toNat with
      | 1 => fin (stallDrop a u)
      | 2 => fin (stallMark a u)
      | 3 => if rewindReady u a then fin (stallRewind a u) else none
      | 4 => fin (stallRelease a u)
      | _ => fin (flushPart (route u a) u)) s))

/-! ### Arrivals -/

/-- A line in flight at a port for access `num` of a context: the port, and the flight's number. -/
def flightFor (s : State) (c num : Nat) : Option (Nat × Nat) :=
  let mine (o : Owner) : Bool := o = .lant (Fin.ofNat 4 c) num
  s.ports.findSome? fun e => (e.2.sched.flight.find? fun f => mine f.req.owner || (match f.req.owner with
    | .home id => (homeFind s id).any fun r => mine r.owner
    | _ => false)).map fun f => (e.1, f.id)

/-- The oldest access of a kind has its result, or its line comes back now with error pattern `err`. -/
def arrive (c kind : Nat) (err : Burst) (s : State) : Option (LAcc × LineRes × State) :=
  let l := (ctxOf s c).acc.filter fun a => a.kind = kind
  match l.findSome? fun a => a.res.map fun r => (a, r) with
  | some (a, r) => some (a, r, s)
  | none =>
    match l.findSome? fun a => (flightFor s c a.num).map fun f => (a.num, f) with
    | none => none
    | some (num, f) =>
      let t := returnFlight f.1 f.2 err s
      ((ctxOf t c).acc.find? fun a => a.num = num).bind fun a => a.res.map fun r => (a, r, t)

def dropAcc (c num : Nat) (s : State) : State := modCtx c (fun x => { x with acc := x.acc.filter fun a => a.num ≠ num }) s

/-- IFETCH_MISS_DONE: the line is cached, or the fetch traps. A context in reset discards it. -/
def fetchDone (c : Nat) (err : Burst) (s : State) : State :=
  match arrive c 6 err s with
  | none => s
  | some (a, r, t) =>
    if (ctxOf t c).resetReq then t
    else
      let u := dropAcc c a.num t
      match (ctxOf u c).wait with
      | .fetch _ =>
        if r.sts = 0 then
          modCtx c (fun x => { x with wait := .none, st := if x.stopReq then .stopped else .running, stopReq := false }) (cachePut (a.addr / 64) r.data u)
        else trapCtx c trapFetch 0 0 u
      | _ => u

def execIfetchMissDone (c : Fin 4) (err : Burst) (s : State) : Out := .next (settle (fetchDone c.val err s))

/-- The line of an LDLN: delivered, failed, or a trap of a poisoned line (R341). (Log 40: DEDUCED.) -/
def ldlnDone (c : Nat) (a : LAcc) (r : LineRes) (s : State) : State :=
  let u := dropAcc c a.num s
  let x := ctxOf u c
  let go := x.st = .running || x.st = .waiting
  if stsFails r.sts then
    modCtx c (fun y => { y with mst := mstSet y.mst r.sts 5, failedLines := insNat y.failedLines a.dat }) (putData (64 * a.dat) 64 0 u)
  else if r.sts = 1 && x.trapen.getLsbD 1 && go then trapCtx c trapPoison x.cur 0 u
  else
    let v := modCtx c (fun y => { y with failedLines := y.failedLines.erase a.dat }) (putData (64 * a.dat) 64 r.data.toNat u)
    if r.sts = 1 then modCtx c (fun y => { y with mst := y.mst ||| 64 }) v else v

def execLdlnDataArrive (c : Fin 4) (err : Burst) (s : State) : Out :=
  .next (settle (match arrive c.val 5 err s with
    | none => s
    | some (a, r, t) => if (ctxOf t c.val).resetReq then t else ldlnDone c.val a r t))

/-- A merge entry's read in flight that stands for a posted store of the context. -/
def rmwFor (s : State) (c : Nat) : Option (Nat × Nat × Nat) :=
  s.ports.findSome? fun e => e.2.sched.flight.findSome? fun f => match f.req.kind with
    | .rmw k => (mget e.2.prot.merge k).bind fun m =>
        if m.owners.any fun o => match o with
          | .lant d _ => d.val = c
          | .home id => (homeFind s id).any fun r => match r.owner with
            | .lant d _ => d.val = c
            | _ => false
          | _ => false
        then some (e.1, k, f.id) else none
    | _ => none

/-- POSTED_STORE_DONE: a failed store sets SF and FST; one merged into a poisoned line sets PZ. -/
def postedDone (c : Nat) (s : State) : State :=
  match (ctxOf s c).acc.findSome? fun a => if a.kind = 4 then a.res.map fun r => (a, r) else none with
  | none => s
  | some (a, r) =>
    let u := if (ctxOf s c).resetReq then s else dropAcc c a.num s
    if stsFails r.sts then modCtx c (fun y => { y with mst := mstSet y.mst r.sts 4 }) u
    else if r.sts = 1 then modCtx c (fun y => { y with mst := y.mst ||| 64 }) u else u

def execPostedStoreDone (c : Fin 4) (err : Burst) (s : State) : Out :=
  .next (settle (
    let ready := (ctxOf s c.val).acc.any fun a => a.kind = 4 && a.res.isSome
    if ready then postedDone c.val s
    else match rmwFor s c.val with
      | none => s
      | some (p, k, id) =>
        match takeFlight p (fun f => f.id = id) s with
        | some (f, t) => postedDone c.val (rmwFinish p k f err t)
        | none => s))

end Sys2Proof.Machine
end

