-- ==== Sys2Proof/Machine/LanternSys.lean ====
section
/-!
DEFINITION. Lantern's timebase and system instructions, special registers, undefined words, and what the register window does to its
contexts and memories (R324, R325, R332, R334, R343, R345, R346, R350).
-/

namespace Sys2Proof.Machine

/-! ### Timebase (R345) -/

def latchTb (c : Nat) (s : State) : State := modCtx c (fun x => { x with tblat := countNow s }) s

def execRdtb (c : Fin 4) (rd ra rb : BitVec 5) (sf : BitVec 1) (x : BitVec 4) (s : State) : Out :=
  .next (settle (lantIssue c.val (encR 0x31 rd ra rb sf x 0) false (ra ≠ 0 || rb ≠ 0 || sf ≠ 0 || x.extractLsb' 1 3 ≠ 0) false (fun t =>
    some (retireWith c.val rd (countNow t) (if x.getLsbD 0 then latchTb c.val t else t))) s))

def execWait (c : Fin 4) (rd ra rb : BitVec 5) (sf : BitVec 1) (x : BitVec 4) (s : State) : Out :=
  .next (settle (lantIssue c.val (encR 0x31 rd ra rb sf x 1) false (rd ≠ 0 || rb ≠ 0 || sf ≠ 0 || x ≠ 0) false (fun t =>
    let v := gpr (ctxOf t c.val) ra
    if v ≤ countNow t then some (retire c.val (nextPc t c.val) t)
    else some (modCtx c.val (fun y => { y with st := .waiting, wait := .count v }) t)) s))

/-- WAIT_RESUME (R137). -/
def execWaitResume (c : Fin 4) (s : State) : Out :=
  .next (settle (match (ctxOf s c.val).wait with
    | .count t => if lantClock s && t ≤ countNow s && (ctxOf s c.val).st = .waiting then retire c.val (nextPc s c.val) s else s
    | _ => s))

/-- Eight bytes of data RAM at an offset of the context's window. -/
def datWord (s : State) (c a : Nat) : W64 := BitVec.ofNat 64 (bytesAt s.lant.data (datBase s c + a) 8)

/-- Touch n words of eight bytes from window offset a. -/
def touchedWords (c a : Nat) (w : Word) (k : State → Option State) : Nat → State → Option State
  | 0, s => k s
  | n + 1, s => touched c a 8 true w (touchedWords c (a + 8) w k n) s

/-- Action record i of a launch list at window offset a. -/
def recordAt (s : State) (c a i : Nat) : Act :=
  let b := a + 8 + 32 * i
  actOf (datWord s c b) (datWord s c (b + 8)) (datWord s c (b + 16)) (datWord s c (b + 24))

/-- A record of a launch list has a reserved bit of word 0 set (R131). -/
def recordDirty (s : State) (c a i : Nat) : Bool := 2 ^ 13 ≤ (datWord s c (a + 8 + 32 * i)).toNat

/-- LAUNCH: the list is copied and checked in the issue cycle. Records beyond sixteen are not read. (Log 33: DEDUCED.) -/
def execLaunch (c : Fin 4) (rd ra rb : BitVec 5) (sf : BitVec 1) (x : BitVec 4) (s : State) : Out :=
  let w := encR 0x31 rd ra rb sf x 2
  .next (settle (lantIssue c.val w false (sf ≠ 0 || x ≠ 0) false (fun t =>
    let k := ctxOf t c.val
    let a := (gpr k rb).toNat
    touched c.val a 8 true w (fun u =>
      let hd := (datWord u c.val a).toNat
      let n := if 16 < bits hd 0 5 then 0 else bits hd 0 5
      touchedWords c.val (a + 8) w (fun v =>
        let l := (List.range n).map (recordAt v c.val a)
        let bad := 32 ≤ hd || 16 < bits hd 0 5 || (List.range n).any (recordDirty v c.val a)
        let r := launchTake (gpr k ra) bad l v
        some (retireWith c.val rd (BitVec.ofNat 64 r.1) r.2)) (4 * n) u) t) s))

def execLcancel (c : Fin 4) (rd ra rb : BitVec 5) (sf : BitVec 1) (x : BitVec 4) (s : State) : Out :=
  .next (settle (lantIssue c.val (encR 0x31 rd ra rb sf x 3) false (rd ≠ 0 || rb ≠ 0 || sf ≠ 0 || x ≠ 0) false (fun t =>
    let v := (gpr (ctxOf t c.val) ra).toNat
    some (retire c.val (nextPc t c.val) (if v ≤ 7 then launchCancel v t else t))) s))

/-! ### System (R343, R346) -/

/-- BAR: ORDER completes at issue; VISIBLE and DURABLE wait until every earlier access of the context has ended. -/
def execBar (c : Fin 4) (rd ra rb : BitVec 5) (sf : BitVec 1) (x : BitVec 4) (s : State) : Out :=
  let kind := x.extractLsb' 0 2
  .next (settle (lantIssue c.val (encR 0x32 rd ra rb sf x 0) (kind = 3) (ra ≠ 0 || rb ≠ 0 || sf ≠ 0 || x.extractLsb' 2 2 ≠ 0) false (fun t =>
    if kind = 0 then some (retireWith c.val rd 0 (modCtx c.val (fun y => { y with ordNum := t.nextId }) t))
    else some (modCtx c.val (fun y => { y with st := .waiting, wait := .bar kind rd }) t)) s))

/-- Every line leaves the instruction cache. -/
def cacheClear (s : State) : State := modLant (fun l => { l with cache := [] }) s

/-- One line leaves the instruction cache. -/
def cacheDrop (line : Nat) (s : State) : State :=
  modLant (fun l => { l with cache := mmod l.cache (line % 128) fun w => w.filter fun e => e.1 ≠ line }) s

/-- (Log 32: DEDUCED.) -/
def execIflush (c : Fin 4) (rd ra rb : BitVec 5) (sf : BitVec 1) (x : BitVec 4) (s : State) : Out :=
  let one := x.getLsbD 0
  .next (settle (lantIssue c.val (encR 0x32 rd ra rb sf x 1) false
    (rd ≠ 0 || (!one && ra ≠ 0) || rb ≠ 0 || sf ≠ 0 || x.extractLsb' 1 3 ≠ 0) false (fun t =>
      let u := if one then cacheDrop ((gpr (ctxOf t c.val) ra).toNat / 64) t else cacheClear t
      some (retire c.val (nextPc u c.val) u)) s))

/-- (Log 31: DEDUCED.) -/
def execHbind (c : Fin 4) (rd ra rb : BitVec 5) (sf : BitVec 1) (x : BitVec 4) (s : State) : Out :=
  let w := encR 0x32 rd ra rb sf x 2
  .next (settle (lantIssue c.val w false (rd ≠ 0 || rb ≠ 0 || sf ≠ 0 || x ≠ 0) (c ≠ 0) (fun t =>
    let v := (gpr (ctxOf t c.val) ra).toNat
    if 2 ^ 16 ≤ v || (liveSlot t v).isNone then some (trapCtx c.val trapHandle w 0 t)
    else some (retire c.val (nextPc t c.val) (modCtx c.val (fun y => { y with handle := some (BitVec.ofNat 16 v) }) t))) s))

/-- HDONE waits as VISIBLE; `hdoneDone` says what follows. -/
def execHdone (c : Fin 4) (rd ra rb : BitVec 5) (sf : BitVec 1) (x : BitVec 4) (s : State) : Out :=
  let k := ctxOf s c.val
  .next (settle (lantIssue c.val (encR 0x32 rd ra rb sf x 3) false (rd ≠ 0 || sf ≠ 0 || x ≠ 0)
    (c ≠ 0 && k.handle ≠ some ((gpr k ra).extractLsb' 0 16)) (fun t =>
      some (modCtx c.val (fun y => { y with st := .waiting, wait := .hdone (gpr y ra) (gpr y rb) }) t)) s))

def execBrk (c : Fin 4) (rd ra rb : BitVec 5) (sf : BitVec 1) (x : BitVec 4) (s : State) : Out :=
  let w := encR 0x32 rd ra rb sf x 4
  .next (settle (lantIssue c.val w false (rd ≠ 0 || ra ≠ 0 || rb ≠ 0 || sf ≠ 0 || x ≠ 0) false (fun t =>
    some (trapCtx c.val trapBreak w 0 t)) s))

/-- (Log 30: DEDUCED.) -/
def execHalt (c : Fin 4) (rd ra rb : BitVec 5) (sf : BitVec 1) (x : BitVec 4) (s : State) : Out :=
  let w := encR 0x32 rd ra rb sf x 5
  .next (settle (lantIssue c.val w false (rd ≠ 0 || ra ≠ 0 || rb ≠ 0 || sf ≠ 0 || x ≠ 0) false (fun t =>
    if (ctxOf t c.val).handle.isSome then some (trapCtx c.val trapHandle w 0 t)
    else
      let u := retire c.val (nextPc t c.val) t
      some (raise 33 (modCtx c.val (fun y => { y with st := .stopped }) u))) s))

/-! ### Energy figures (R346, R391) -/

/-- EQ: TBLAT latches the count of the issue cycle, and rd takes the figure. -/
def eqInsn (c : Fin 4) (rd ra rb : BitVec 5) (sf : BitVec 1) (sel : Nat) (figure : State → Nat) (latch : Ctx → Ctx) (s : State) : Out :=
  .next (settle (lantIssue c.val (encR 0x32 rd ra rb sf (BitVec.ofNat 4 sel) 6) false (ra ≠ 0 || rb ≠ 0 || sf ≠ 0) false (fun t =>
    some (retireWith c.val rd (BitVec.ofNat 64 (figure t)) (modCtx c.val latch (latchTb c.val t)))) s))

def execEqEnergyTotal (c : Fin 4) (rd ra rb : BitVec 5) (sf : BitVec 1) (s : State) : Out :=
  eqInsn c rd ra rb sf 0 (fun t => (t.en.totals.foldl (fun a e => a + e.2) 0) / 1000000000) id s
def execEqUsableReserve (c : Fin 4) (rd ra rb : BitVec 5) (sf : BitVec 1) (s : State) : Out :=
  eqInsn c rd ra rb sf 1 (fun t => t.en.euse) id s
def execEqDomainLow (c : Fin 4) (rd ra rb : BitVec 5) (sf : BitVec 1) (s : State) : Out :=
  let hi : W64 := BitVec.ofNat 64 (bits (domainNow s).toNat 64 9)
  eqInsn c rd ra rb sf 2 (fun t => bits (domainNow t).toNat 0 64) (fun y => { y with eqHigh := hi }) s
def execEqDomainHigh (c : Fin 4) (rd ra rb : BitVec 5) (sf : BitVec 1) (s : State) : Out :=
  eqInsn c rd ra rb sf 3 (fun t => (ctxOf t c.val).eqHigh.toNat) id s
def execEqRetention (c : Fin 4) (rd ra rb : BitVec 5) (sf : BitVec 1) (s : State) : Out :=
  eqInsn c rd ra rb sf 4 (fun t => fld t PLN_RET_MS) id s
def execEqAllowance (c : Fin 4) (rd ra rb : BitVec 5) (sf : BitVec 1) (s : State) : Out :=
  eqInsn c rd ra rb sf 5 (fun t => allowance t * 1000) id s
def execEqStage (c : Fin 4) (rd ra rb : BitVec 5) (sf : BitVec 1) (s : State) : Out :=
  eqInsn c rd ra rb sf 6 (fun t => fld t PW_STAT_STAGE) id s

/-! ### Special registers (R334, Table 12.6) -/

/-- Content of a special register; none where the table lists none. -/
def special (c : Nat) (x : Ctx) (n : Nat) : Option W64 :=
  match n with
  | 0 => some (x.flags.setWidth 64)
  | 1 => some (BitVec.ofNat 64 c)
  | 2 => some (x.trapen.setWidth 64)
  | 3 => some (x.mst.setWidth 64)
  | 4 => some (match x.handle with
    | some h => h.setWidth 64 ||| 0x10000
    | none => 0)
  | 5 => some (x.codep.setWidth 64)
  | 6 => some x.tblat
  | _ => none

/-- Write a special register; none where it is unlisted or read-only. -/
def setSpecial (x : Ctx) (n : Nat) (v : W64) : Option Ctx :=
  match n with
  | 0 => some { x with flags := v.setWidth 6 }
  | 2 => some { x with trapen := v.setWidth 2 }
  | 3 => some { x with mst := v.setWidth 7 }
  | _ => none

def execMfs (c : Fin 4) (rd ra : BitVec 5) (imm : BitVec 16) (s : State) : Out :=
  .next (settle (lantIssue c.val (encI 0x3C rd ra imm) (6 < imm.toNat) (ra ≠ 0) false (fun t =>
    (special c.val (ctxOf t c.val) imm.toNat).map fun v => retireWith c.val rd v t) s))

def execMts (c : Fin 4) (rd ra : BitVec 5) (imm : BitVec 16) (s : State) : Out :=
  .next (settle (lantIssue c.val (encI 0x3D rd ra imm) (imm ≠ 0 && imm ≠ 2 && imm ≠ 3) (rd ≠ 0) false (fun t =>
    let x := ctxOf t c.val
    (setSpecial x imm.toNat (gpr x ra)).map fun y => retire c.val (nextPc t c.val) (setCtx c.val y t)) s))

/-! ### Undefined words (R332, R333) -/

def execUndefinedInstruction (c : Fin 4) (w : BitVec 32) (s : State) : Out :=
  .next (settle (if wordDefined w then s else lantIssue c.val w true false false some s))

/-! ### The register window (R324, R325, R350) -/

/-- The window can start, stop and reset the context. -/
def userCtx (s : State) (c : Nat) : Bool := c ≠ 0 && ctxImpl s c && !s.pw.inReset

/-- START. A trap's completion of the bound handle, where it still waits for posted accesses, comes first. (Log 34: DEDUCED.) -/
def ctxStart (c : Nat) (s : State) : State :=
  let x := ctxOf s c
  if x.resetReq || (x.st ≠ .stopped && x.st ≠ .halted) then s else
  let s1 := match x.st, x.handle with
    | .halted, some h =>
      (let t := modCtx c (fun y => { y with handle := none }) s
       match liveSlot t h.toNat with
       | some k => endHandle k 0x29 x.trapCode.toNat 0 t
       | none => t)
    | _, _ => s
  modCtx c (fun y => { y with st := .running, trapValid := false, stopReq := false }) s1

def execStart (c : Fin 4) (s : State) : Out := .next (if userCtx s c.val then settle (ctxStart c.val s) else s)

/-- STOP takes effect at the next boundary, which an idle issue slot has reached; `settle` ends it. -/
def execStop (c : Fin 4) (s : State) : Out := .next (if userCtx s c.val then settle (modCtx c.val ctxStop s) else s)

/-- RESET: nothing more issues, a WAIT ends at once; `ctxResetNow` follows when every access has ended. -/
def ctxReset (x : Ctx) : Ctx :=
  let keep : CtxWait := match x.wait with
    | .stall a rd d => .stall a rd d
    | _ => .none
  { x with resetReq := true, wait := keep, st := if x.st = .running then .waiting else x.st }

def execContextReset (c : Fin 4) (s : State) : Out := .next (if userCtx s c.val then settle (modCtx c.val ctxReset s) else s)

/-- LN_IC.INV. -/
def icWrite (v : Word) (s : State) : State := if v.getLsbD 0 then cacheClear s else s

def execLnIcInvalidate (v : BitVec 32) (s : State) : Out := .next (if s.pw.inReset then s else icWrite v s)

/-- A window write of a word of program RAM. -/
def progWrite (off : Nat) (v : Word) (s : State) : State :=
  let inside (c : Nat) : Bool :=
    let x := ctxOf s c
    ctxImpl s c && x.st ≠ .stopped && x.st ≠ .halted && prgBase s c ≤ off && off < prgBase s c + prgSize s c
  if s.pw.st.toNat ≥ 3 then reject (0x100000 + off) 8 s
  else if off < 0x20000 then reject (0x100000 + off) 6 s
  else if [1, 2, 3].any inside then reject (0x100000 + off) 6 s
  else modLant (fun l => { l with prog := putBytes l.prog off 4 v.toNat, progBad := l.progBad.filter fun k => !(off ≤ k && k < off + 4) }) s

def execProgramRamWrite (word : BitVec 16) (v : BitVec 32) (s : State) : Out :=
  .next (if s.pw.inReset then s else progWrite (4 * word.toNat) v s)

/-- A window write of a word of data RAM (R329). -/
def execDataRamWrite (word : BitVec 15) (v : BitVec 32) (s : State) : Out :=
  .next (if s.pw.inReset then s
    else if s.pw.st.toNat ≥ 3 then reject (0x140000 + 4 * word.toNat) 8 s
    else putData (4 * word.toNat) 4 v.toNat s)

/-- LCTX_DUR_CTL.CLR (R343). -/
def lantDurWrite (c : Nat) (v : Word) (s : State) : State := if userCtx s c && v.getLsbD 0 then footClear (ctxFoot c) s else s

def execLantDurClear (c : Fin 4) (v : BitVec 32) (s : State) : Out := .next (lantDurWrite c.val v s)

end Sys2Proof.Machine
end

