-- ==== Sys2Proof/Machine/HostCmd.lean ====
section
/-!
DEFINITION. The host commands of the catalogue (R360 to R365, R367 to R371) and their abort. A command over a range runs from its first
line to its last in one step, once no request is under way at the home for any of its lines.
-/

namespace Sys2Proof.Machine

/-- The slot that a command's handle operand names. -/
def slotH (h : BitVec 12) : Nat := h.toNat

/-- A command ends. -/
def done (k sts result : Nat) (s : State) : State := endHandle k sts 0 result s

def execNop (h : BitVec 12) (s : State) : Out := .next (settle (hostCommand (slotH h) 1 (fun _ t => done (slotH h) 0 0 t) s))

/-! ### Ranges (R361) -/

/-- Line addresses of n lines from a. -/
def rangeLines (a n : Nat) : List Nat := (List.range n).map fun i => a + 64 * i

/-- Status that keeps a command over these lines from starting. -/
def rangeRefuse (s : State) (l : List Nat) : Option Nat :=
  let t := l.map (target s)
  if t.any fun x => match x with
    | .nowhere => true
    | _ => false
  then some 4
  else if t.any fun x => match x with
    | .absent => true
    | _ => false
  then some 9
  else if t.any fun x => match x with
    | .dram p _ => !inService s p
    | _ => false
  then some 0x21
  else none

/-- Ports of the lines. -/
def rangePorts (s : State) (l : List Nat) : List Nat :=
  (List.range 20).filter fun p => l.any fun a => match target s a with
    | .dram q _ => q = p
    | _ => false

/-- Ports in self-refresh that the lines meet wake (R410). -/
def rangeWake (l : List Nat) (s : State) : State :=
  (rangePorts s l).foldl (fun t p =>
    if srWaits t p then (if serial p then setFld SL_STAT_LSTATE p 0 (srExit p t) else srExit p t) else t) s

/-- Lines on the port fail: it, or its link, is not there any more. -/
def lineFails (s : State) (p : Nat) : Bool := portFails s p || (portOf s p).link.timedOut

/-- No request is under way at the home for these lines, and their ports serve or fail. -/
def rangeReady (s : State) (l : List Nat) : Bool :=
  (l.all fun a => s.home.reqs.all fun r => r.line ≠ a / 64 || r.released)
    && (rangePorts s l).all fun p => pstate s p = .service || lineFails s p

/-- The ledger lists the line: some agent may hold it. -/
def held (s : State) (a : Nat) : Bool := homeOn s && (ledgerHit s (a / 64)).isSome

/-- The home asks the holders of lines about to be read, as a read does. -/
def snoopReads (l : List Nat) (s : State) : State :=
  (l.filter (held s)).foldl (fun t a => homeSubmit { id := 0, kind := .read, line := a / 64, attr := unbound 7 t } t) s

/-- The home takes lines about to be written away from their holders. -/
def snoopWrites (l : List Nat) (s : State) : State :=
  (l.filter (held s)).foldl (fun t a => homeSubmit { id := 0, kind := .evict, line := a / 64, attr := unbound 7 t } t) s

/-- Error pattern of the i-th line. -/
def errOf (errs : List (Nat × Burst)) (i : Nat) : Burst := ((errs.find? fun e => e.1 = i).map fun e => e.2).getD 0

/-- One line is read for a command. -/
def hostRead (a : Nat) (err : Burst) (s : State) : LineRes × State :=
  match target s a with
  | .dram p la =>
    if lineFails s p then ({ bst := 2, sts := 7 }, s) else
    let x := readNow p la s
    let d := decodeLine x.2 p la x.1.1 x.1.2 err
    let s1 := noteDecode p la d.1 orgCopy false x.2
    (decBeat d.1 d.2, notePoisonRead p la d.1 orgCopy s1)
  | .spad off => if spadServes s off then spadRead s off else ({ bst := 2, sts := 4 }, s)
  | _ => ({ bst := 2, sts := 4 }, s)

/-- One line is written for a command. -/
def hostWrite (a : Nat) (d : Line) (be : BitVec 64) (poison : Bool) (s : State) : LineRes × State :=
  match target s a with
  | .dram p la =>
    if lineFails s p then ({ bst := 2, sts := 7 }, s) else
    let s1 := rsvStore none (a / 64) (markOver p la (syncLine p la s))
    let line := mergeLine (readStored s1 p la).1 d be
    ({}, if poison then storePoisoned p la line orgCopy s1 else storeLine p la line false orgCopy s1)
  | .spad off => if spadServes s off then ({}, spadWrite off d be poison s) else ({ bst := 2, sts := 4 }, s)
  | _ => ({ bst := 2, sts := 4 }, s)

/-- Footprint bit of a written line (Table 3.4). -/
def lineSlot (s : State) (a : Nat) : BitVec 73 :=
  match target s a with
  | .dram p la => BitVec.ofNat 73 (2 ^ slotOf s p la)
  | .spad _ => BitVec.ofNat 73 (2 ^ 72)
  | _ => 0

/-- What a command over lines has done so far. -/
structure Tally where
  res : List LineRes := []
  foot : BitVec 73 := 0
  deriving DecidableEq, Repr

/-- Number of failed lines, and index of the first. -/
def tallyResult (t : Tally) : Nat :=
  let bad := t.res.map fun r => stsFails r.sts
  let n := (bad.filter id).length
  n + (if n = 0 then 0xFFFFFFFF else (bad.findIdx? id).getD 0) * 2 ^ 32

/-- Final status: a failure first, then NOT_DURABLE, then OK_POISONED (R358). -/
def tallyStatus (s : State) (dur : Bool) (t : Tally) : Nat :=
  let st := reqStatus false t.res
  if stsFails st then st.toNat else if dur && !durableOk s t.foot then 3 else st.toNat

/-- A command over lines: checks and snoops first, then the whole work in one step. (Log 47: DESIGN CHOICE.) -/
def rangeCommand (k opc : Nat) (reads writes : Handle → List Nat) (work : Handle → State → State) (s : State) : State :=
  let again (h : Handle) (t : State) : State :=
    let l := reads h ++ writes h
    if !rangeReady t l then t else
    let u := snoopWrites (writes h) t
    if rangeReady u l && !(writes h).any (held u) then work h u else u
  hostLong k opc (fun h t =>
    match rangeRefuse t (reads h ++ writes h) with
    | some n => done k n 0 t
    | none => again h (snoopReads (reads h) (rangeWake (reads h ++ writes h) t))) again s

/-! ### COPY, FILL and SCRUB -/

def durOf (h : Handle) : Bool := bits (argN h 0) 10 1 = 1

/-- Line i of a copy. A line whose read fails leaves its destination unwritten; a tainted line is written poisoned (R226). -/
def copyLine (src dst : Nat) (errs : List (Nat × Burst)) (x : Tally × State) (i : Nat) : Tally × State :=
  let r := hostRead (src + 64 * i) (errOf errs i) x.2
  if stsFails r.1.sts then ({ x.1 with res := x.1.res ++ [r.1] }, r.2) else
  let w := hostWrite (dst + 64 * i) r.1.data allBytes (r.1.sts = 1) r.2
  let res := if stsFails w.1.sts then w.1 else r.1
  ({ res := x.1.res ++ [res], foot := x.1.foot ||| (if stsFails w.1.sts then 0 else lineSlot r.2 (dst + 64 * i)) }, w.2)

def execCopy (h : BitVec 12) (errs : List (Nat × Burst)) (s : State) : Out :=
  let k := slotH h
  .next (settle (rangeCommand k 6 (fun x => rangeLines (argN x 1) (argN x 3)) (fun x => rangeLines (argN x 2) (argN x 3)) (fun x t =>
    let r := (List.range (argN x 3)).foldl (copyLine (argN x 1) (argN x 2) errs) (({} : Tally), t)
    done k (tallyStatus r.2 (durOf x) r.1) (tallyResult r.1) r.2) s))

/-- A 64-bit pattern over a line. -/
def patternLine (v : Nat) : Line := (List.range 8).foldl (fun (d : Line) i => d ||| (BitVec.ofNat 512 v <<< (64 * i))) 0

/-- A line is written, and its slot noted. -/
def fillLine (d : Line) (x : Tally × State) (a : Nat) : Tally × State :=
  let w := hostWrite a d allBytes false x.2
  ({ res := x.1.res ++ [w.1], foot := x.1.foot ||| (if stsFails w.1.sts then 0 else lineSlot x.2 a) }, w.2)

def execFill (h : BitVec 12) (s : State) : Out :=
  let k := slotH h
  .next (settle (rangeCommand k 7 (fun _ => []) (fun x => rangeLines (argN x 1) (argN x 2)) (fun x t =>
    let r := (rangeLines (argN x 1) (argN x 2)).foldl (fillLine (patternLine (argN x 3))) (({} : Tally), t)
    done k (tallyStatus r.2 (durOf x) r.1) (tallyResult r.1) r.2) s))

/-- Outcome of a scrubbed line. -/
structure ScrubSum where
  tally : Tally := {}
  fixed : Nat := 0
  bad : Nat := 0
  deriving DecidableEq, Repr

/-- One line of SCRUB, as a patrol visit acts on memory's copy (R236, R361). The scratchpad has no check bits to scrub. (Log 48: DEDUCED.) -/
def scrubLine (a : Nat) (err : Burst) (x : ScrubSum × State) : ScrubSum × State :=
  let add (r : LineRes) (f b : Nat) (wb : Bool) (t : State) : ScrubSum × State :=
    ({ tally := { res := x.1.tally.res ++ [r], foot := x.1.tally.foot ||| (if wb then lineSlot x.2 a else 0) },
       fixed := x.1.fixed + f, bad := x.1.bad + b }, t)
  match target x.2 a with
  | .dram p la =>
    if lineFails x.2 p then add { bst := 2, sts := 7 } 0 0 false x.2 else
    let r := readNow p la x.2
    let d := decodeLine r.2 p la r.1.1 r.1.2 err
    let t := visitOutcome p la d r.2
    match d.1 with
    | .good => add {} 0 0 false t
    | .poisoned => add { sts := 1 } 0 0 false t
    | .fixed _ _ => add {} 1 0 true t
    | .poisFixed _ _ => add { sts := 1 } 1 0 true t
    | .bad => add { sts := 1 } 0 1 true t
  | .spad off => if spadServes x.2 off then add {} 0 0 false x.2 else add { bst := 2, sts := 4 } 0 0 false x.2
  | _ => add { bst := 2, sts := 4 } 0 0 false x.2

/-- SCRUB sends no snoop: it only waits for its lines' order. With PD_SCRUB off it ends NOT_READY (Table 15.2). -/
def execScrub (h : BitVec 12) (errs : List (Nat × Burst)) (s : State) : Out :=
  let k := slotH h
  let lines (x : Handle) : List Nat := rangeLines (argN x 1) (argN x 2)
  let work (x : Handle) (t : State) : State :=
    if !rangeReady t (lines x) then t else
    let r := (List.range (argN x 2)).foldl (fun y i => scrubLine (argN x 1 + 64 * i) (errOf errs i) y) (({} : ScrubSum), t)
    done k (tallyStatus r.2 (durOf x) r.1.tally) (min r.1.fixed 0xFFFFFFFF + min r.1.bad 0xFFFFFFFF * 2 ^ 32) r.2
  .next (settle (hostLong k 4 (fun x t =>
    if !scrubOn t then done k 0x21 0 t else
    match rangeRefuse t (lines x) with
    | some n => done k n 0 t
    | none => work x (rangeWake (lines x) t)) work s))

/-! ### CHECKPOINT and WARM_VERIFY (R360, R361, R396) -/

/-- Stalls that are not OFF. -/
def liveStalls (s : State) : List Nat := (s.stalls.filter fun e => e.2.st ≠ .off).map fun e => e.1

/-- Bytes of a checkpoint: the register image of 64 KiB and 32 bytes for each stall that is not OFF. -/
def checkpointBytes (s : State) : Nat := 65536 + 32 * (liveStalls s).length

/-- Write a free line: the spec does not give the layout of the area. -/
def putFree (be : BitVec 64) (x : (Tally × List Line) × State) (a : Nat) : (Tally × List Line) × State :=
  let d := Config.freeLine x.2.free
  let w := hostWrite a d be false { x.2 with free := x.2.free + 1 }
  (({ res := x.1.1.res ++ [w.1], foot := x.1.1.foot ||| (if stsFails w.1.sts then 0 else lineSlot x.2 a) }, x.1.2 ++ [d]), w.2)

/-- The first n bytes of lines. -/
def lineBytes (l : List Line) (n : Nat) : List Nat :=
  (l.flatMap fun d => (List.range 64).map fun i => (lineByte d i).toNat).take n

/-- The area is recorded in the battery-backed image. -/
def recordArea (base n crc : Nat) (s : State) : State :=
  bbrStat 4 true (imagePut 23 [base % 2 ^ 32, base / 2 ^ 32, n % 2 ^ 32, n / 2 ^ 32, crc, bits s.count.toNat 16 32] s)

/-- Write the checkpoint. (Log 49: DEDUCED.) -/
def checkpointWork (k : Nat) (h : Handle) (t : State) : State :=
  let n := checkpointBytes t
  if argN h 2 < n then done k 0x24 n t else
  let t1 := (liveStalls t).foldl (fun u a => spillAll a u) t
  let r := (rangeLines (argN h 1) (n / 64)).foldl (putFree allBytes) ((({} : Tally), ([] : List Line)), t1)
  let r1 := if n % 64 = 0 then r else putFree 0xFFFFFFFF r (argN h 1 + n / 64 * 64)
  let st := tallyStatus r1.2 true r1.1.1
  if stsFails (reqStatus false r1.1.1.res) then done k st 0 r1.2
  else done k st n (recordArea (argN h 1) n (crc32c (lineBytes r1.1.2 n)) r1.2)

def execCheckpoint (h : BitVec 12) (s : State) : Out :=
  .next (settle (rangeCommand (slotH h) 8 (fun _ => []) (fun x => rangeLines (argN x 1) (argN x 2 / 64)) (checkpointWork (slotH h)) s))

/-- The lines that a DEEP pass reads: every line of the kept DIMMs of the ports in service, in port and address order. -/
def keptLines (s : State) : List (Nat × Nat) :=
  let dom : BitVec 73 := BitVec.ofNat 73 (bbrWord s 19 + bbrWord s 20 * 2 ^ 32 + bbrWord s 21 * 2 ^ 64)
  (servicePorts s).flatMap fun p =>
    ((rangeLines 0 (capG s p * 2 ^ 24)).filter fun la => dom.getLsbD (slotOf s p la)).map fun la => (p, la)

/-- One line of the DEEP pass: true when it is uncorrectable. -/
def deepLine (p la : Nat) (err : Burst) (s : State) : Bool × State :=
  let x := readNow p la s
  let d := decodeLine x.2 p la x.1.1 x.1.2 err
  (d.1 = .bad, noteDecode p la d.1 orgCopy false x.2)

/-- Bytes of a range as memory holds them. -/
def areaBytes (base n : Nat) (s : State) : List Nat :=
  lineBytes ((rangeLines base ((n + 63) / 64)).map fun a => (hostRead a 0 s).1.data) n

/-- The image check and, with DEEP, the pass over the kept lines. (Log 50: DEDUCED.) -/
def warmCheck (k : Nat) (h : Handle) (errs : List (Nat × Burst)) (s : State) : State :=
  if bits (bbrWord s 3) 1 1 = 0 then done k 0x21 0 s else
  let valid := bits (bbrWord s 3) 4 1 = 1
  let base := bbrWord s 23 + bbrWord s 24 * 2 ^ 32
  let n := bbrWord s 25 + bbrWord s 26 * 2 ^ 32
  let same := crc32c (areaBytes base n s) = bbrWord s 27
  let l := if bits (argN h 1) 0 1 = 1 then keptLines s else []
  let r := (l.mapIdx fun i e => (i, e)).foldl (fun (x : Nat × State) e =>
    let y := deepLine e.2.1 e.2.2 (errOf errs e.1) x.2
    (x.1 + (if y.1 then 1 else 0), y.2)) (0, s)
  let mask := (if valid then 0 else 1) + (if valid && !same then 2 else 0) + (if r.1 = 0 then 0 else 4)
  if mask = 0 then done k 0 0 r.2 else done k 0x2B (mask + min r.1 0xFFFFFFFF * 2 ^ 32) r.2

def execWarmVerify (h : BitVec 12) (errs : List (Nat × Burst)) (s : State) : Out :=
  .next (settle (hostCommand (slotH h) 9 (fun x t => warmCheck (slotH h) x errs t) s))

/-! ### LOAD_PROGRAM (R363) -/

/-- Copy n bytes of lines to offset 0 of a context's window. -/
def loadBytes (c : Nat) (l : List Nat) (s : State) : State :=
  let b := prgBase s c
  modLant (fun x => { x with
    prog := (l.mapIdx fun i v => (b + i, v)).foldl (fun m e => putByte m e.1 (BitVec.ofNat 8 e.2)) x.prog
    progBad := x.progBad.filter fun k => !(b ≤ k && k < b + l.length) }) s

def loadWork (k : Nat) (errs : List (Nat × Burst)) (h : Handle) (t : State) : State :=
  let n := argN h 2
  let c := bits (argN h 3) 0 2
  let r := (List.range ((n + 63) / 64)).foldl (fun (x : List LineRes × State) i =>
    let y := hostRead (argN h 1 + 64 * i) (errOf errs i) x.2
    (x.1 ++ [y.1], y.2)) ([], t)
  let st := reqStatus false r.1
  if stsFails st then done k st.toNat 0 r.2 else
  let t1 := loadBytes c (lineBytes (r.1.map fun x => x.data) n) r.2
  if bits (argN h 3) 2 1 = 0 then done k st.toNat 0 t1
  else
    let t2 := ctxStart c t1
    modCtx c (fun x => { x with pc := BitVec.ofNat 64 (argN h 4), handle := some (BitVec.ofNat 16 (handleNum t2 k)) }) t2

/-- The context is bound to the command: its program runs. -/
def bound (s : State) (k c : Nat) : Bool := (ctxOf s c).handle = some (BitVec.ofNat 16 (handleNum s k))

def execLoadProgram (h : BitVec 12) (errs : List (Nat × Burst)) (s : State) : Out :=
  let k := slotH h
  let lines (x : Handle) : List Nat := rangeLines (argN x 1) ((argN x 2 + 63) / 64)
  let stopped (t : State) (c : Nat) : Bool := ((ctxOf t c).st = .stopped || (ctxOf t c).st = .halted) && !(ctxOf t c).resetReq
  let go (x : Handle) (t : State) : State :=
    let c := bits (argN x 3) 0 2
    if bound t k c then t
    else if !stopped t c then done k 0x21 0 t
    else if prgSize t c < argN x 2 then done k 0x20 0 t
    else if rangeReady t (lines x) then loadWork k errs x t else t
  .next (settle (hostLong k 0x10 (fun x t =>
    if !stopped t (bits (argN x 3) 0 2) then done k 0x21 0 t
    else match rangeRefuse t (lines x) with
      | some n => done k n 0 t
      | none => go x (snoopReads (lines x) (rangeWake (lines x) t))) go s))

/-! ### MARCH (R247, R251, R362) -/

/-- The local range [a, b) meets the member range of an enabled set on port p. -/
def meetsSet (s : State) (p a b : Nat) : Bool :=
  (List.range 8).any fun n => flg s IS_CTL_EN n && (List.range (2 ^ fld s IS_CTL_NLOG n)).any fun m =>
    let w := memberWord s n m
    let lo := bits w 16 11 * 2 ^ 30
    let hi := lo + fld s IS_SIZE_SIZE_G n * 2 ^ 30 / 2 ^ fld s IS_CTL_NLOG n
    bits w 0 5 = p && a < hi && lo < b

/-- It meets a remap slot in the port's top GiB. -/
def meetsSlots (s : State) (p a b : Nat) : Bool :=
  let lo := slotLocal s p 0 0
  fld s RM_CTL_LOC p = 2 && a < lo + 64 * 8192 && lo < b

/-- The background that a destructive run leaves in word i. -/
def bgLine (b i : Nat) : Line :=
  match b with
  | 0 => 0
  | 1 => patternLine 0x5555555555555555
  | 2 => if i % 2 = 0 then 0 else patternLine 0xFFFFFFFFFFFFFFFF
  | _ => if i % 2 = 0 then patternLine 0x5555555555555555 else patternLine 0xAAAAAAAAAAAAAAAA

/-- A line of a march fails (R251). (Log 46: DEDUCED.) -/
def marchBad (p la : Nat) (s : State) : State := logPort p 2 15 (some la) (3 * 32) s

/-- A march's result. -/
def marchEnd (k n : Nat) (s : State) : State := if n = 0 then done k 0 0 s else done k 0x2A n s

/-- Rows that a local range touches, by key, in address order. -/
def rowsIn (s : State) (p : Nat) (l : List Nat) : List Nat :=
  l.foldl (fun acc la => let k := rowKey (locOf s p la); if acc.contains k then acc else acc ++ [k]) []

/-- n steps of the row copy. -/
def copySteps (p : Nat) : Nat → State → State
  | 0, s => s
  | n + 1, s => copySteps p n (copyStep p 0 s)

/-- A preserving test of one row: remapped, marched, and returned unless a line of it failed (R251). A row that is remapped already
is left as it is. -/
def marchRow (p : Nat) (bad : List Nat) (s : State) (key : Nat) : State :=
  if (remapOf s p key).isSome then s else
  let n := 2 ^ lineLog s p
  let la := laOf s p (keyLoc key)
  let s1 := copySteps p n (remapTrigger p la 3 s)
  let mine := bad.filter fun a => rowKey (locOf s p a) = key
  if mine ≠ [] then mine.foldl (fun t a => marchBad p a t) s1
  else match remapOf s1 p key with
    | none => s1
    | some (k, _) => copySteps p n (modProt p (fun t => { t with remap := mmod t.remap k fun x => { x with st := .ret, copied := 0 } }) s1)

/-- A DRAM march of n lines from a; `bad` lists the failing lines by index. (Log 45: DEDUCED.) -/
def marchDram (k : Nat) (h : Handle) (fails : List Nat) (s : State) : State :=
  let p := bits (argN h 2) 0 5
  let a := argN h 3
  let n := argN h 4
  let destr := bits (argN h 1) 1 1 = 1
  let bgs := bits (argN h 1) 4 4
  let bad := (fails.filter fun i => i < n).map fun i => a + 64 * i
  if capInG s p * 2 ^ 30 < a + 64 * n then done k 0x20 0 s
  else if pstate s p ≠ .service || !scrubOn s then done k 0x21 0 s
  else if destr then
    (if meetsSet s p a (a + 64 * n) || meetsSlots s p a (a + 64 * n) then done k 0x23 0 s
     else
      let b := ((List.range 4).reverse.find? fun i => bits bgs i 1 = 1).getD 0
      let s1 := (List.range n).foldl (fun t i =>
        let la := a + 64 * i
        storeLine p la (bgLine b (la / 64)) false orgCopy (markOver p la (syncLine p la t))) s
      marchEnd k bad.length (bad.foldl (fun t la => marchBad p la t) s1))
  else if fld s RM_CTL_LOC p = 0 then done k 0x2C 0 s
  else if copyRunning s p || (freeSlot s p).isNone then s
  else marchEnd k bad.length ((rowsIn s p (rangeLines a n)).foldl (marchRow p bad) s)

/-- An on-chip march of one group; `fails` lists the failing words. -/
def marchChip (k : Nat) (h : Handle) (fails : List Nat) (s : State) : State :=
  let g := bits (argN h 1) 8 8
  let destr := bits (argN h 1) 1 1 = 1
  let alg := bits (argN h 1) 2 2
  let bgs := bits (argN h 1) 4 4
  if !scrubOn s then done k 0x21 0 s
  else if s.march.running || !groupAllowed s destr g then done k 0x23 0 s
  else
    let m : March := { running := true, groups := [g], alg := BitVec.ofNat 2 alg, destr := destr, bgs := BitVec.ofNat 4 bgs, byReg := false }
    let s1 := fails.foldl (fun t w => marchFail t (BitVec.ofNat 8 g, BitVec.ofNat 16 w)) { s with march := m }
    let b := ((List.range 4).reverse.find? fun i => bits bgs i 1 = 1).getD 0
    let s2 := if destr && g < 0x20 then fillBank g b s1 else s1
    marchEnd k fails.length { s2 with march := {} }

def execMarch (h : BitVec 12) (fails : List Nat) (s : State) : Out :=
  let k := slotH h
  let go (x : Handle) (t : State) : State := if bits (argN x 1) 0 1 = 1 then marchChip k x fails t else marchDram k x fails t
  .next (settle (hostLong k 5 go go s))

/-! ### TRAIN, RETRAIN and ROW_REPAIR -/

/-- Steps of a mask, in the order of Table 8.3, up to and with the one that fails. -/
def stepsTo (p mask failed : Nat) : List Nat :=
  let l := (List.range 12).filterMap fun i => if bits mask i 1 = 1 && stepApplies p (i + 1) then some (i + 1) else none
  if failed = 0 || !l.contains failed then l else l.takeWhile fun x => x ≠ failed

/-- The steps run; `failed` is the step that fails its tries, 0 none. -/
def runSteps (k p mask failed : Nat) (s : State) : State :=
  let all := stepsTo p mask 0
  let s1 := (stepsTo p mask failed).foldl (fun t x => runStep p x t) s
  if failed ≠ 0 && all.contains failed then done k 0x26 failed (setFld TR_STAT_FSTEP p failed s1) else done k 0 0 s1

/-- Steps on a port in SERVICE start when the port is quiet; it is in TRAIN while they run. -/
def trainQuiet (k p mask failed : Nat) (s : State) : State :=
  let s1 := closeAll p s
  if portQuiet s1 p then runSteps k p mask failed s1 else s1

/-- (Log 51: DEDUCED.) -/
def execTrain (h : BitVec 12) (failed : BitVec 4) (s : State) : Out :=
  let k := slotH h
  let go (x : Handle) (t : State) : State :=
    let p := bits (argN x 1) 0 5
    let mask := bits (argN x 1) 5 12
    if launchNames t p then done k 0x23 0 t
    else match pstate t p with
      | .test => runSteps k p mask failed.toNat t
      | .service => if setNames t p then done k 0x23 0 t else trainQuiet k p mask failed.toNat t
      | _ => done k 0x21 0 t
  .next (settle (hostLong k 2 go go s))

/-- RETRAIN at a level starts. -/
def retrain (k level : Nat) (first more : Nat → State → State) (s : State) : State :=
  if bits (argN (handleOf s k) 1) 5 2 ≠ level then s else
  let port (x : Handle) : Nat := bits (argN x 1) 0 5
  hostLong k 3 (fun x t => if pstate t (port x) ≠ .service then done k 0x21 0 t else first (port x) t) (fun x t => more (port x) t) s

/-- Level TRACK: a round starts at once, behind one that runs. -/
def execRetrainTrack (h : BitVec 12) (s : State) : Out :=
  let k := slotH h
  let go (p : Nat) (t : State) : State :=
    if (portOf t p).train.waiters.contains k || (portOf t p).train.roundOn || pstate t p ≠ .service then t
    else modTrain p (fun x => { x with waiters := x.waiters ++ [k] }) (startRound p t)
  .next (settle (retrain k 0 (fun p t => if cx2 t p then done k 0x21 0 t else go p t) go s))

/-- Level CSCA: one pause of 1,000 ticks for each DIMM of a channel. -/
def execRetrainCsca (h : BitVec 12) (failed : BitVec 4) (s : State) : Out :=
  let k := slotH h
  let mine (x : Pause) : Bool := x.kind = kindCa && x.rank = k + 1
  .next (settle (retrain k 1 (fun p t =>
    modSched p (fun q => { q with pauses := q.pauses ++ [{ kind := kindCa, rank := k + 1, len := 1000 * dimmCount t p, due := t.clk }] }) t)
    (fun p t =>
      let c := (portOf t p).sched
      let waits := c.pauses.any mine || c.pause.any fun x => mine x.1 && t.clk < x.2
      if waits then t else runSteps k p 7 failed.toNat t) s))

/-- Level FULL. -/
def execRetrainFull (h : BitVec 12) (failed : BitVec 4) (s : State) : Out :=
  let k := slotH h
  let go (p : Nat) (t : State) : State := if setNames t p then done k 0x23 0 t else trainQuiet k p 0xFFF failed.toNat t
  .next (settle (retrain k 2 go go s))

/-- Checks that both kinds of ROW_REPAIR make first. -/
def repairRefuse (s : State) (p key : Nat) : Option Nat :=
  let l := { keyLoc key with bg := 0, bank := 0, row := 0 }
  if !rankThere s p l then some 0x20
  else if pstate s p ≠ .service then some 0x21
  else if launchNames s p then some 0x23
  else none

/-- A ROW_REPAIR of one kind. -/
def rowRepair (k : Nat) (hard : Bool) (go : Nat → Nat → State → State) (s : State) : State :=
  if (bits (argN (handleOf s k) 1) 5 1 = 1) != hard then s else
  hostCommand k 0xA (fun x t =>
    let p := bits (argN x 1) 0 5
    match repairRefuse t p (argN x 2) with
    | some n => done k n 0 t
    | none => go p (argN x 2) t) s

/-- The soft repair ends in `softDone`. -/
def execRowRepairSoft (h : BitVec 12) (freeResource : Bool) (s : State) : Out :=
  let k := slotH h
  .next (settle (rowRepair k false (fun p key t =>
    match repairSlot t p key with
    | some e => if freeResource then softStartRepair p e t else done k 0x24 0 t
    | none => done k 0x24 0 t) s))

def execRowRepairHard (h : BitVec 12) (s : State) : Out :=
  let k := slotH h
  .next (settle (rowRepair k true (fun p key t => done k 0 1 (hardRepair p key t)) s))

/-! ### LINK_LOOP (R191) -/

/-- Only the spare loops, and it carries nothing. -/
def spareFree (s : State) (p mask : Nat) : Bool :=
  let k := (portOf s p).link
  k.spareRx = .idle && k.spareTx = .idle && (match k.spareRxLane, k.spareTxLane with
    | some a, some b => a = b && mask = 2 ^ a
    | _, _ => false)

/-- (Log 52: DEDUCED.) -/
def execLinkLoop (h : BitVec 12) (s : State) : Out :=
  let k := slotH h
  .next (settle (hostCommand k 0xC (fun x t =>
    let p := bits (argN x 1) 0 5
    let mask := bits (argN x 1) 7 9
    let off := bits (argN x 1) 5 2 = 0
    let st := pstate t p
    if st ≠ .test && st ≠ .service then done k 0x21 0 t
    else if (portOf t p).link.loop.isSome || (st = .service && !off && !spareFree t p mask) then done k 0x23 0 t
    else modLink p (fun l => { l with loop := some (mask, some k, t.clk + argN x 2 * edgesUs) }) t) s))

/-! ### FENCE and UNFENCE (R367 to R371) -/

def execFence (h : BitVec 12) (s : State) : Out :=
  let k := slotH h
  .next (settle (hostCommand k 0xE (fun x t =>
    let n := bits (argN x 1) 0 5
    let tmo := argN x 2
    let t1 := modFab n (fun f => { f with relHost := false }) (setFld FP_FENCE_STAT_HOST n 1 (takeFence n t))
    if flg t1 FP_FENCE_STAT_DRAINED n then done k 0 (fld t1 FP_FENCE_STAT_DISCARD n) t1
    else modFab n (fun f => { f with fenceWait := f.fenceWait ++ [(k, if tmo = 0 then 0 else t1.clk + tmo * edgesUs)] }) t1) s))

/-- (Log 53: DEDUCED.) -/
def execUnfence (h : BitVec 12) (s : State) : Out :=
  let k := slotH h
  .next (settle (hostCommand k 0xF (fun x t =>
    let n := bits (argN x 1) 0 5
    let f := fabOf t n
    let cfg := flg t FP_FENCE_STAT_CFG n && !f.relCfg
    if !flg t FP_FENCE_STAT_HOST n then done k 0 (if cfg then 1 else 0) t
    else if cfg then done k 0 1 (releaseFence n (modFab n (fun g => { g with relHost := true }) t))
    else releaseFence n (modFab n (fun g => { g with relHost := true, unfenceWait := g.unfenceWait ++ [k] }) t)) s))

/-! ### FED_TIME_SET (R364) -/

/-- FED_TIME_SET in a mode starts. -/
def fedSet (k mode : Nat) (body : Handle → State → State) (s : State) : State :=
  if bits (argN (handleOf s k) 1) 0 2 ≠ mode then s else hostCommand k 0x11 body s

def execFedTimeSetArm (h : BitVec 12) (s : State) : Out :=
  let k := slotH h
  .next (settle (fedSet k 0 (fun x t =>
    let t1 := setFld TB_FED_CHECK 0 0 (setFld TB_FED_EOUT_EN 0 (bits (argN x 1) 2 1) (setFld TB_EADJ_ADJ 0 (bits (argN x 3) 0 16)
      (setFld TB_PRESET_LO_VAL 0 (bits (argN x 2) 0 32) (setFld TB_PRESET_HI_VAL 0 (bits (argN x 2) 32 32) t))))
    let free := t1.tb.launches = [] && t1.tb.step = .none
    let t2 := stepStart true t1
    if free then arm (modTb (fun b => { b with fedArm := some (k, bits (argN x 3) 16 10) }) t2) else done k 0x25 0 t2) s))

def execFedTimeSetPulse (h : BitVec 12) (s : State) : Out :=
  let k := slotH h
  .next (settle (fedSet k 1 (fun _ t => if flg t TB_FED_EOUT_EN then done k 0 0 (epochPulse t) else done k 0x25 0 t) s))

/-- FINE for a port: the nearest whole number of 1/64 DRAM clocks. -/
def fineOf (emax e : Int) (n : Nat) : Int := ((emax - e) * n * 64 * 2 + 1024) / 2048

def execFedTimeSetTrim (h : BitVec 12) (s : State) : Out :=
  let k := slotH h
  .next (settle (fedSet k 2 (fun x t =>
    match t.tb.fedE with
    | none => done k 0x21 0 t
    | some e =>
      let emax := (BitVec.ofNat 64 (argN x 4)).toInt
      done k 0 0 ((servicePorts t).foldl (fun u p => stageFld PT_FTRIM_FINE p (BitVec.ofInt 11 (fineOf emax e (clocksPerTick u p))).toNat u) t)) s))

/-! ### Abort (R365) -/

/-- Table 13.5 marks the command abortable. -/
def canAbort (h : Handle) : Bool :=
  match h.opc.toNat with
  | 0x11 => bits (argN h 1) 0 2 = 0
  | n => [4, 5, 6, 7, 9, 0xC, 0x10].contains n

/-- A running command ends ABORTED, or is marked for the firmware that holds it. -/
def abortRun (k : Nat) (s : State) : State :=
  let h := handleOf s k
  if bound s k 0 then modHandle k (fun x => { x with abreq := true }) s
  else match [1, 2, 3].find? (bound s k) with
    | some c => modCtx c ctxReset (done k 0x28 0 s)
    | none =>
      if h.opc = 0xC then endLoop (bits (argN h 1) 0 5) s
      else if h.opc = 0x11 then stepAbandon (modTb (fun b => { b with fedArm := none }) (done k 0x28 0 s))
      else done k 0x28 0 s

/-- A write of HC_ABORT. (Log 54: DEDUCED.) -/
def hostAbort (v : Word) (s : State) : State :=
  if !v.getLsbD 31 then s else
  let out (n : Nat) (t : State) : State := setFld HC_ABSTAT_OUTCOME 0 n (setFld HC_ABSTAT_VALID 0 1 t)
  match liveSlot s (bits v.toNat 0 16) with
  | none => out 1 s
  | some k =>
    let h := handleOf s k
    if h.st = .running then (if canAbort h then out 0 (abortRun k s) else out 2 s)
    else out 0 (done k 0x28 0 s)

def execAbort (v : BitVec 32) (s : State) : Out := .next (settle (if s.pw.inReset || s.pw.st.toNat > 2 then s else hostAbort v s))

end Sys2Proof.Machine
end

