-- ==== Sys2Proof/Machine/Resets.lean ====
section
/-!
DEFINITION. The power-fail sequence, warm resume and the resets of the whole engine (chapters 14 and 15).
-/

namespace Sys2Proof.Machine

/-! ### What a start of the engine does to its units -/

/-- A stall's registers without its contents. -/
def Stall.config (x : Stall) : Stall := { baseLo := x.baseLo, baseHi := x.baseHi, cfg0 := x.cfg0, cfg1 := x.cfg1, cfg1New := x.cfg1New }

/-- The start-up march of one group: failing words are logged and remapped (R246, R250). -/
def bootGroup (k : Nat) (s : State) (g : Nat) : State :=
  (Config.bootFails k g).foldl (fun t w => sramRemap g w (logEngine 0x0C (g + w * 256) (fld t MT_BOOT_ALG) t)) s

/-- The start-up march on every implemented group (R250). -/
def bootMarch (s : State) : State :=
  if fld s MT_BOOT_ALG = 0 then s else
  ((List.range 0x79).filter (groupImpl s.part.variant)).foldl (bootGroup s.free) { s with sram := [], free := s.free + 1 }

/-- Fused trim records whose CRC fails (R203). -/
def checkFuses (s : State) : State :=
  ((List.range 20).filter fun p => portImpl s.part.variant p && !Config.fuseOk p).foldl (fun t p =>
    raise 17 (setFld TR_STAT_FUSE_BAD p 1 t) (some p)) s

/-- Lantern after the firmware load: context 0 runs at offset 0 of its window (R324). -/
def freshLantern : Lantern := { ctx := [(0, { st := .running })] }

/-- Battery-backed fields of other registers: MT_BOOT (Table 14.5). -/
def bbRegs (s : State) : SMap Word := s.regs.filter fun e => e.1 = 0x60030

/-! ### E4 (R418, Table 15.8) -/

/-- What the engine holds in E4: registers, count, energy, the battery-backed words and the DIMMs. -/
def enterE4 (s : State) : State :=
  let ports := s.ports.map fun e => (e.1, { e.2 with
    sched := {}, streams := [], link := {}, marks := {}
    prot := { e.2.prot with merge := [], scrubOut := false }
    dram := { ({} : DramSt) with spd := e.2.dram.spd, srAt := e.2.dram.srAt, hardPend := e.2.dram.hardPend } })
  let fabs := s.fab.map fun e => (e.1, ({ fenced := e.2.fenced, tlyClr := e.2.tlyClr } : FabPort))
  let s1 := { s with ports := ports, fab := fabs, stalls := s.stalls.map (fun e => (e.1, e.2.config)), home := {}, spad := [], spadBad := [],
                     lant := freshLantern, march := {}, tb := { s.tb with step := .none, launches := [], switches := [] } }
  let s2 := modEn (fun e => { e with pf := .none }) s1
  pwrStat (launchStat (lanesTo (fun _ => 3) (modPw (fun w => { w with st := 4, cur := none, pend := none, exit := none, ports := [], soft := none, softWait := false }) s2)))

/-! ### The power-fail sequence (R392, R393, R403) -/

/-- RESERVE_LOW_TRIP: it can trip again only after it has released. -/
def execReserveLowTrip (s : State) : Out :=
  .next (settle (
    if s.en.rsvTrip then s else
    let s1 := raise 39 (setFld GA_STAT_LOW 0 1 (modEn (fun e => { e with rsvTrip := true }) s))
    if flg s1 PWR_WAKE_RSV && !s1.pw.inReset && s1.en.pf = .none then wake 6 s1 else s1))

/-- The sequence starts from the state in force: the units it needs are up, and work already done stays done (R403). -/
def pfFrom (s : State) : State :=
  pfStart 1 (setFld TB_STAT_COAST 0 0 (setFld RST_STAT_BUSY 0 0
    (modPw (fun w => { w with st := 0, soft := none, softPorts := [], softWait := false }) s)))

/-- POWER_FAIL_CONFIRM: the trip has lasted 1 µs. Before step 4 of a warm resume no sequence is needed (R403). -/
def execPowerFailConfirm (s : State) : Out :=
  .next (settle (
    if !flg s PF_CTL_EN || !s.en.busTrip || s.clk < s.en.busAt + edgesUs || s.en.pf ≠ .none || s.pw.st.toNat > 3 || s.pw.inReset then s
    else if s.pw.warm then enterE4 (modPw (fun w => { w with e4cmd := false }) s)
    else pfFrom s))

/-- The flush is done on port p: no write waits, gathers or may still be replayed, and no row copy runs. -/
def portFlushed (s : State) (p : Nat) : Bool :=
  let q := portOf s p
  let wr (k : SubKind) : Bool := k ≠ .read && k ≠ .visit
  q.prot.merge = [] && !((q.sched.queue ++ q.sched.wait).any fun r => wr r.kind)
    && !((q.sched.retry ++ q.sched.replay).any fun i => (i.req.map fun r => wr r.kind).getD false)
    && !(q.sched.flight.any fun f => wr f.req.kind) && !copyRunning s p

/-- Every store line that has its beat has left the port write buffers. -/
def buffersEmpty (s : State) : Bool :=
  s.fab.all fun e => e.2.reqs.all fun r => r.refused.isSome || !isStoreOpc r.opc.toNat || r.opc = 9 || r.performed

/-- DIMMs of port p outside the frozen domain. -/
def outside (s : State) (p : Nat) : Nat :=
  (List.range 4).foldl (fun m d => if bits (present s p) d 1 = 1 && !(s.en.frozen.getLsbD (dimmSlot p d)) then m + 2 ^ d else m) 0

/-- A port is in self-refresh and sheds every DIMM outside the frozen domain (R160, R393 step 4). -/
def pfPort (s : State) (p : Nat) : State :=
  if !inService s p then s else
  let s1 := if pstate s p = .service then srEnter p true false s else s
  let gone := outside s1 p
  if gone = 0 then s1
  else loseDimms p (fun d => bits gone d 1 = 1) (setLost p (lostSet s1 p ||| gone) (setShed p (shedSet s1 p ||| gone) s1))

/-- PF_FLUSH_DONE, step 4: lines that still gather close first. -/
def execPfFlushDone (s : State) : Out :=
  .next (settle (
    if s.en.pf ≠ .flush then s else
    let live := (List.range 20).filter fun p => portImpl s.part.variant p && inService s p
    let s1 := live.foldl (fun t p => closeAll p t) s
    if !buffersEmpty s1 || !live.all (portFlushed s1) then s1 else
    let s2 := emptyStaging s1
    let kept := if flg s2 PLN_FAREA_LO_EN then s2.stalls.filter (fun e => e.2.st ≠ .off) else []
    modEn (fun e => { e with pf := .commit, fstalls := kept }) ((List.range 20).foldl pfPort s2)))

/-- Port states as the descriptor records them. -/
def portCodes (s : State) : List Nat := (List.range 20).map fun p => pstateCode p (pstate s p)

/-! ### Engine reset (R426) -/

/-- What an engine reset keeps: count, energy totals and bucket, trim converter codes, SRAM remap entries, the battery-backed words.
The queue of waiting commands and the numbers that name free values are the model's own. -/
def resetEngine (s : State) : State :=
  let codes : SMap Port := (s.ports.filter fun e => e.2.train.active ≠ []).map fun e =>
    (e.1, { ({} : Port) with train := { ({} : Train) with active := e.2.train.active } })
  { State.reset with
    pending := s.pending, part := s.part, clk := s.clk, count := s.count, free := s.free, nextId := s.nextId, regs := bbRegs s
    ports := codes, sram := s.sram, bbr := s.bbr, cfg := { globalAt := s.cfg.globalAt }
    en := { ({} : Energy) with totals := s.en.totals, bucket := s.en.bucket, busTrip := s.en.busTrip, busAt := s.clk, rsvTrip := s.en.rsvTrip }
    pw := { ({} : Power) with inReset := true } }

/-- PF_COMMIT, steps 5 and 6; an engine reset that waited follows (R454). -/
def execPfCommit (s : State) : Out :=
  .next (
    if s.en.pf ≠ .commit then s else
    let s1 := enterE4 (commitImage (portCodes s) s)
    if s1.pw.resetWait then resetEngine s1 else s1)

/-- ENGINE_RESET; held while the power-fail sequence runs. -/
def execEngineReset (s : State) : Out :=
  .next (if s.en.pf ≠ .none then modPw (fun w => { w with resetWait := true }) s else resetEngine s)

/-- ENGINE_RESET_RELEASE: steps 1 to 5 of R425; the SRAM remap entries are kept. -/
def execEngineResetRelease (s : State) : Out :=
  .next (
    if s.pw.resetWait && !s.pw.inReset then modPw (fun w => { w with resetWait := false }) s
    else if !s.pw.inReset then s
    else pwrStat (showEnergy (checkFuses (setFld RST_STAT_LAST 0 1 (modPw (fun w => { w with inReset := false }) s)))))

/-! ### Power-up and warm resume (R400 to R402, R425) -/

/-- Ports whose descriptor record names self-refresh. (Log 72: DEDUCED.) -/
def warmPorts (s : State) : List Nat :=
  (List.range 20).filter fun p => portImpl s.part.variant p && bits (bbrWord s (31 + p)) 0 4 = pstateCode p .selfRefresh

/-- A port of a warm resume starts: warm with its record, cold where a DIMM was shed (kept DIMMs stay) or where the record fails its
CRC, whose DIMMs are lost. -/
def warmStart (s : State) (p : Nat) : State :=
  let gone := bits (bbrWord s (31 + p)) 8 4
  let s1 := setPstate p .off s
  if !recGood s1 p then portStart p .cold false (loseDimms p (fun _ => true) s1)
  else
    let s2 := setShed p gone (loadPool p (loadTrims p s1))
    if gone = 0 then portStart p .warm true s2 else portStart p .cold true s2

/-- Stalls that the fail area recorded come back ON, with their positions and Gout = 0 (R401 step 5). -/
def restoreStalls (s : State) : State :=
  if bits (bbrWord s 3) 3 1 = 0 then s else
  s.en.fstalls.foldl (fun t e => putStall e.1 { e.2.config with
    st := .on, o := e.2.o, wpos := e.2.wpos, h := e.2.h, m := e.2.m, p := e.2.p, spilled := e.2.spilled } t) s

/-- The steps of R401 from a committed image. (Log 67: DESIGN CHOICE.) -/
def warmResume (s : State) : State :=
  let s1 := modPw (fun w => { w with warm := true }) (bbrStat 1 true s)
  restoreStalls ((warmPorts s1).foldl warmStart s1)

/-- A power-up without a committed image is cold (R400). (Log 44: DEDUCED.) -/
def coldStart (s : State) : State := { bbrStat 1 false (setBbr 0 0 s) with dram := [], poison := [] }

/-- POWER_ON_RESET. -/
def execPowerOnReset (s : State) : Out :=
  .next (
    let valid := bits (bbrWord s 3) 0 1 = 1
    let s1 : State := { State.reset with pending := s.pending, part := s.part, free := s.free, dram := s.dram, poison := s.poison,
                                         regs := if valid then bbRegs s else [], bbr := if valid then s.bbr else [],
                                         en := { ({} : Energy) with fstalls := s.en.fstalls, busTrip := s.en.busTrip, rsvTrip := s.en.rsvTrip } }
    let s2 := checkFuses (bootMarch s1)
    pwrStat (showEnergy (if committed s2 then warmResume s2 else coldStart s2)))

/-- Fabric ports after E4: the sequence's fence falls where no other source stands, and tallies are granted. -/
def fabsBack (s : State) : State :=
  (allFabs s).foldl (fun t n =>
    if flg t FP_FENCE_STAT_HOST n || flg t FP_FENCE_STAT_CFG n then setFld FP_FENCE_STAT_DRAINED n 1 t
    else
      let t1 := modFab n (fun f => { f with fenced := false }) (setFld FP_STATUS_FENCED n 0 (setFld FP_FENCE_STAT_DRAINED n 0 t))
      if flg t1 FP_CTL_EN n then grantTallies n t1 else t1) s

/-- Footprints take their reset values (Table 15.8). -/
def clearFoots (s : State) : State :=
  footClear ringFoot ([0, 1, 2, 3].foldl (fun t c => footClear (ctxFoot c) t) ((allFabs s).foldl (fun t n => footClear (fpFoot n) t) s))

/-- The engine leaves E4 without a power cycle: the timebase, the energy totals and the registers are kept (R402, R418). -/
def resumeE4 (s : State) : State :=
  let s1 := (List.range 20).foldl (fun t p => if portImpl t.part.variant p then setPstate p .off t else t) s
  let s2 := { s1 with host := {}, pw := { s1.pw with st := 0, e4cmd := false, supplyBad := false, doms := [], activeAt := s1.clk } }
  let s3 := modEn (fun e => { e with iSeen := false, vrsvSeen := false }) (hostStat (clearFoots (fabsBack (bootMarch s2))))
  pwrStat (if committed s3 then warmResume s3 else coldStart s3)

/-- BUS_RETURN_RESUME. (Log 66: DEDUCED.) -/
def execBusReturnResume (s : State) : Out :=
  .next (settle (
    match s.en.busBack with
    | some t =>
      if s.pw.st = 4 && !s.pw.e4cmd && flg s PF_CTL_AUTO && !s.en.busTrip && t + fld s PF_CTL_RET * edgesMs ≤ s.clk && !s.pw.inReset then
        resumeE4 (setFld PWR_WCAUSE_CAUSE 0 (fld s PWR_WCAUSE_CAUSE ||| 128) (modEn (fun e => { e with busBack := none }) s))
      else s
    | none => s))

/-- WAKE_E0: a request for E0; PWR_REQ also ends an E4 that was entered by command. (Log 57: DEDUCED.) -/
def execWakeE0 (src : ReqSrc) (s : State) : Out :=
  .next (settle (
    if src = .reg && resumeAsked s && !s.pw.inReset then resumeE4 (setFld PWR_WCAUSE_CAUSE 0 (fld s PWR_WCAUSE_CAUSE ||| 4) s)
    else engineFrom 0 src s))

/-- SUPPLY_FAILURE: the state is that of E4 (R436). The DIMMs keep the durable domain only in an E4 whose board holds DRST_N (R454).
(Log 65: DEDUCED.) -/
def execSupplyFailure (s : State) : Out :=
  .next (
    let held := s.pw.st = 4 && flg s PLN_CTL_DRST_HOLD
    let s1 := modPw (fun w => { w with st := 4, supplyBad := true }) (if s.pw.st = 4 then s else enterE4 (modPw (fun w => { w with e4cmd := false }) s))
    pwrStat (if held then s1 else { s1 with dram := [], poison := [] }))

/-! ### Soft reset (R427) -/

/-- SOFT_RESET: RST_SOFT.GO. It wakes the engine, and waits for a transition to complete (R421). -/
def softAsk (s : State) : State :=
  if s.pw.inReset || s.pw.st.toNat > 3 || s.pw.soft.isSome || s.en.pf ≠ .none then s
  else
    let s1 := if s.pw.st = 0 then s else wake 2 s
    if engineIdle s1 && s1.pw.st.toNat ≤ 1 then softStart s1 else modPw (fun w => { w with softWait := true }) s1

def execSoftReset (s : State) : Out := .next (settle (softAsk s))

/-- Requests that the ring stop still owes an answer. -/
def ringOwed (s : State) : Nat := (s.home.reqs.filter fun r => r.owner = .post && r.stop < 31 && r.phase ≠ .ack).length + (s.home.bars.filter fun b => b.2.2.1 ≠ 0).length

/-- Step 2 has ended: every fabric port is drained and every ring request answered. -/
def softDrained (s : State) : Bool :=
  (allFabs s).all (fun n => !flg s FP_CTL_EN n || !(fabOf s n).reqs.any FabReq.live) && ringOwed s = 0

/-- The home's trackers are cleared; what fabric ports and contexts waited for there has ended FAIL_LINK. -/
def homeClear (s : State) : State :=
  let s1 := s.home.reqs.foldl (fun t r => match r.owner with
    | .fab n id k => fabLineDone n.val id k { bst := 2, sts := 7 } t
    | .lant c a => lantLineDone c.val a { bst := 2, sts := 7 } t
    | _ => t) s
  rsvLoseAll (modHome (fun h => { h with reqs := [], notes := [], bars := [], snpset := none }) s1)

/-- A context takes the context reset now; what it still had outstanding has ended. -/
def ctxSoft (s : State) (c : Nat) : State :=
  let s1 := match (ctxOf s c).wait with
    | .stall a _ _ => dropReader a s
    | _ => s
  ctxResetNow c s1

/-- A fabric port loses its requests and the reset fence. -/
def fabSoft (s : State) (n : Nat) : State :=
  let s1 := (s.stalls.filter fun e => match e.2.reader with
    | some r => (match r.owner with
      | .fab k _ _ => k.val = n
      | _ => false)
    | none => false).foldl (fun t e => dropReader e.1 t) s
  let s2 := modFab n (fun f => { f with reqs := [], owed := [], rd := [], rsp := [], rdHeld := 0, postFail := [] }) (fenceClose n s1)
  let s3 := if s.pw.softPorts.contains n then setFld FP_FENCE_STAT_CFG n 0 s2 else s2
  if !(fabOf s3 n).fenced then s3
  else
    let s4 := if flg s3 FP_FENCE_STAT_DRAINED n then s3 else clearTallies n (setFld FP_FENCE_STAT_DRAINED n 1 s3)
    if flg s4 FP_FENCE_STAT_HOST n || flg s4 FP_FENCE_STAT_CFG n then s4
    else
      let s5 := modFab n (fun f => { f with fenced := false, dropAns := false }) (setFld FP_STATUS_FENCED n 0 (setFld FP_FENCE_STAT_DRAINED n 0 s4))
      if flg s5 FP_CTL_EN n then grantTallies n s5 else s5

/-- Steps 3 to 7. (Log 68: DEDUCED.) -/
def softFinish (s : State) : State :=
  let owed := (s.fab.foldl (fun k e => k + (e.2.reqs.filter FabReq.live).length) 0) + ringOwed s
  let s0 := setFld RST_STAT_DROPPED 0 (min owed 65535) s
  let s1 := homeClear (((List.range 20).filter (portImpl s.part.variant)).foldl (fun t p => (failAll p t).2) s0)
  let s2 := pushRecords (abortHandles s1)
  let s3 := marchStop (stepAbandon ((List.range 8).foldl (fun t l => launchCancel l t) s2))
  let s4 := [1, 2, 3].foldl ctxSoft s3
  let s5 := modCtx 0 (fun x => { x with st := .running, pc := 0, trapCode := 0 }) (ctxSoft s4 0)
  let s6 := modLant (fun l => { l with cache := [] }) s5
  let s7 := s6.ports.foldl (fun t e => modTrain e.1 (fun q => { q with ovr := [] }) t) s6
  let s8 := (List.range 256).foldl (fun t k => if fld t BR_STAT_OUT k = 0 then t else setFld BR_STAT_OUT k 0 t) s7
  let s9 := (allFabs s8).foldl fabSoft s8
  let s10 := { s9 with host := { s9.host with frozen := false }, pw := { s9.pw with soft := none, softPorts := [] } }
  raise 37 (setFld RST_STAT_LAST 0 2 (setFld RST_STAT_BUSY 0 0 s10))

/-- SOFT_RESET_TIMEOUT: the drain limit is over; answers still owed are dropped. -/
def execSoftResetTimeout (s : State) : Out :=
  .next (settle (
    match s.pw.soft with
    | some t => if t + fld s RST_CTL_TMO * edgesUs ≤ s.clk && !s.pw.inReset then softFinish s else s
    | none => s))

/-! ### The passing of time -/

/-- One edge of the timebase: activity restarts the idle timers, and a soft reset whose drain has ended goes on. -/
def idleTick (s : State) : State :=
  let s1 := tickStep s
  let s2 := if activeNow s1 && !s1.pw.inReset then active s1 else s1
  match s2.pw.soft with
  | some _ => if softDrained s2 && !s2.pw.inReset then settle (softFinish s2) else s2
  | none => s2

end Sys2Proof.Machine
end

