-- ==== Sys2Proof/Machine/Boundaries.lean ====
section
/-!
DEFINITION. The boundaries at which staged registers come into force, their check groups, and the configuration CRC (R460 to R468).
-/

namespace Sys2Proof.Machine

/-! ### Check groups (R463, Table 17.5a): the judgement of each on the values after the boundary -/

def setMembers (s : State) (n : Nat) : List Nat := List.range (2 ^ fld s IS_CTL_NLOG n)
def memberPort (s : State) (n m : Nat) : Nat := bits (memberWord s n m) 0 5
def memberBase (s : State) (n m : Nat) : Nat := bits (memberWord s n m) 16 11
def setShare (s : State) (n : Nat) : Nat := fld s IS_SIZE_SIZE_G n / (setMembers s n).length
def enabledSets (s : State) : List Nat := (List.range 8).filter fun n => flg s IS_CTL_EN n

/-- An enabled set by itself (R48). -/
def setGood (s : State) (n : Nat) : Bool :=
  let ms := setMembers s n
  let size := fld s IS_SIZE_SIZE_G n
  let ports := ms.map (memberPort s n)
  size ≠ 0 && size % ms.length = 0 && fld s IS_BASE_BASE_G n + size ≤ 65532 && decide ports.Nodup
    && ports.all (fun p => p < 20 && portImpl s.part.variant p && inService s p)
    && ms.all fun m => memberBase s n m + setShare s n ≤ capInG s (memberPort s n m)

/-- Two ranges have nothing in common. -/
def apart (a n b m : Nat) : Bool := a + n ≤ b || b + m ≤ a

/-- Two enabled sets together (R48). -/
def setsApart (s : State) (a b : Nat) : Bool :=
  apart (fld s IS_BASE_BASE_G a) (fld s IS_SIZE_SIZE_G a) (fld s IS_BASE_BASE_G b) (fld s IS_SIZE_SIZE_G b)
    && (setMembers s a).all fun m => (setMembers s b).all fun k =>
      memberPort s a m ≠ memberPort s b k || apart (memberBase s a m) (setShare s a) (memberBase s b k) (setShare s b)

/-- Group 1: the interleave sets, and the rings of stalls that are not OFF (R48, R257). (Log 23: DEDUCED.) -/
def setsGood (s : State) : Bool :=
  let l := enabledSets s
  l.all (setGood s) && l.all (fun a => l.all fun b => a = b || setsApart s a b)
    && s.stalls.all fun e => e.2.st = .off || oneSet s e.2.base e.2.span

/-- Group 2: the far-atomic regions (FA_SIZE_n). -/
def farGood (s : State) : Bool :=
  let l := (List.range 8).filter fun n => flg s FA_BASE_EN n
  let b (n : Nat) : Nat := fld s FA_BASE_BASE n
  let z (n : Nat) : Nat := fld s FA_SIZE_SIZE n
  l.all (fun n => z n ≠ 0 && b n + z n ≤ 33552384) && l.all fun n => l.all fun m => n = m || apart (b n) (z n) (b m) (z m)

/-- Group 3: no caching agent stands at an engine's own stop. -/
def agentsGood (s : State) : Bool :=
  let e := fld s HOME_AGT_EN_EN
  bits e s.part.ownStop.val 1 = 0 && bits e s.part.otherStop.val 1 = 0

/-- Group 4: the gauge table (R383). -/
def gaugeGood (s : State) : Bool :=
  fld s GA_OCV_Q 0 = 0 && (List.range 15).all fun k =>
    fld s GA_OCV_V k < fld s GA_OCV_V (k + 1) && fld s GA_OCV_Q k < fld s GA_OCV_Q (k + 1)

/-- A queue that is enabled after the boundary (R352); `new`: its HC_QCFG is pending. (Log 15: DEDUCED.) -/
def queueWill (s : State) (new : Nat → Bool) (q : Nat) : Bool := flg s HC_QCFG_EN q && (new q || !(queueOf s q).stallOff)

/-- The conditions of R352 on one queue. -/
def queueGood (s : State) (q : Nat) : Bool :=
  let c := stallOf s (cmdStall s q)
  let d := stallOf s (cplStall s q)
  c.st = .on && c.ctrl && !c.rew && c.cons = 0x24 && c.maxPkt = 7
    && d.st = .on && d.ctrl && !d.rew && d.prod = 0x24 && 3 ≤ d.maxPkt && cmdStall s q ≠ cplStall s q

/-- Group 5: every queue enabled after the boundary; no stall serves two. -/
def queuesGood (new : Nat → Bool) (s : State) : Bool :=
  let l := [0, 1, 2, 3].filter (queueWill s new)
  let has (q a : Nat) : Bool := cmdStall s q = a || cplStall s q = a
  l.all (queueGood s) && l.all fun q => l.all fun k => q = k || (!has q (cmdStall s k) && !has q (cplStall s k))

/-- Group 6: RM_CTL of a port (R241); `s` is the state before. -/
def remapGood (s : State) (p : Nat) (t : State) : Bool :=
  let loc := fld t RM_CTL_LOC p
  let covers (n : Nat) : Bool := (setMembers t n).any fun m =>
    memberPort t n m = p && memberBase t n m < capG t p && capG t p ≤ memberBase t n m + setShare t n
  !(loc ≠ fld s RM_CTL_LOC p && fld s RM_STAT_USED p ≠ 0)
    && !(loc = 1 && (List.range 20).any fun k => k ≠ p && fld t RM_CTL_LOC k = 1 && fld t RM_CTL_BANK k = fld t RM_CTL_BANK p)
    && !(loc = 2 && (enabledSets t).any covers)

/-- Staged words that lie in a group. -/
def pendingIn (s : State) (mine : Nat → Bool) : List Nat := (s.shadow.map fun e => e.1).filter mine

def applyAll (l : List Nat) (s : State) : State := l.foldl (fun t off => applyShadow off t) s
def dropAll (l : List Nat) (s : State) : State := l.foldl (fun t off => dropShadow off t) s

/-- A group with a pending shadow is applied whole or discarded whole (R463). -/
def applyGroup (mine : Nat → Bool) (good : State → Bool) (s : State) : State :=
  match pendingIn s mine with
  | [] => s
  | lo :: l =>
    let s1 := applyAll (lo :: l) s
    if good s1 then s1 else reject lo 4 (dropAll (lo :: l) s)

/-! ### The global boundary (R460) -/

def inPortBlock (off : Nat) : Bool := 0x200000 ≤ off && off < 0x340000
def inFabBlock (off : Nat) : Bool := 0xC0000 ≤ off && off < 0xE0000
def globalScope (off : Nat) : Bool := !inPortBlock off && !inFabBlock off

def isSetReg (off : Nat) : Bool := 0x28000 ≤ off && off < 0x28800
def isFarReg (off : Nat) : Bool := 0xA0100 ≤ off && off < 0xA0140
def isGaugeReg (off : Nat) : Bool := 0x30200 ≤ off && off < 0x30240
def isQueueReg (off : Nat) : Bool := 0x90100 ≤ off && off < 0x90180

/-- PLN, GA and SN registers (R388). -/
def isPlanReg (off : Nat) : Bool :=
  (0x30040 ≤ off && off < 0x30054) || (0x30060 ≤ off && off < 0x30078) || (0x300C0 ≤ off && off < 0x300DC) || isGaugeReg off

/-- The host queues: a queue whose HC_QCFG is written with EN = 1 and passes acts as enabled again (R352). -/
def applyQueues (s : State) : State :=
  let new (q : Nat) : Bool := (mget s.shadow (HC_QCFG_EN.off q)).isSome
  let s1 := applyGroup isQueueReg (queuesGood new) s
  let back (q : Nat) : Bool := new q && s1.cfg = s.cfg && flg s1 HC_QCFG_EN q && queuesGood new s1
  [0, 1, 2, 3].foldl (fun t q => if back q then setFld HC_QSTAT_STALLOFF q 0 (modQueue q (fun x => { x with stallOff := false }) t) else t) s1

/-- The charger follows a new setpoint (R386, R387). (Log 24: DEDUCED.) -/
def chargerSet (s : State) : State :=
  let set := fld s CH_CTL_SET
  charger (if flg s CH_STAT_LIMITED && set > fld s CH_STAT_CMD then s
    else setFld CH_STAT_CMD 0 set (setFld CH_STAT_LIMITED 0 0 s))

/-- Every shadow of the global scope is applied, group by group, and what follows from it in the same cycle. -/
def globalApply (s : State) : State :=
  let plans := pendingIn s isPlanReg ≠ [] || s.en.slotpNew ≠ []
  let gauge := pendingIn s isGaugeReg ≠ []
  let s1 := applyGroup isSetReg setsGood s
  let s2 := applyGroup isFarReg farGood s1
  let s3 := applyGroup (fun off => off = 0xA000C) agentsGood s2
  let s4 := applyGroup isGaugeReg gaugeGood s3
  let s5 := if gauge && gaugeGood s4 then modEn (fun e => { e with tableOk := true }) s4 else s4
  let s6 := applyQueues s5
  let s7 := applyAll (pendingIn s6 globalScope) s6
  let s8 := modEn (fun e => { e with slotp := e.slotpNew.foldl (fun m x => mput m x.1 x.2) e.slotp, slotpNew := [] }) s7
  let s9 := if flg s8 PF_CTL_EN && !flg s PF_CTL_EN then modEn (fun e => { e with busAt := s.clk }) s8 else s8
  let s10 := chargerSet s9
  if plans then plan s10 else s10

/-- A global boundary is due: an edge that is a multiple of 65,536 has passed since the last, or a write waits and the engine is idle
in the edge after it. (Log 22: DEDUCED.) -/
def globalDue (s : State) : Bool :=
  boundaryOpen s && (s.clk / 65536 ≠ s.cfg.globalAt / 65536 ||
    (match s.cfg.kick with
     | some k => s.clk = k + 1 && !activeNow s
     | none => false))

/-- The pass that starts at a global boundary (R467, R468); one that runs starts again only when its message changes. (Log 21: DEDUCED.) -/
def passStart (s s1 : State) : State :=
  let role := flg s1 CFG_CRC_STAT_ARMED && !flg s1 CFG_APPLY_HOLD
  if flg s1 CFG_CRC_STAT_BUSY then
    (if crcMessage s = crcMessage s1 then s1
     else { s1 with cfg := { s1.cfg with crcAt := s1.clk, byCommit := s1.cfg.byCommit || role } })
  else setFld CFG_CRC_STAT_BUSY 0 1 { s1 with cfg := { s1.cfg with crcAt := s1.clk, byCommit := role } }

/-- GLOBAL_BOUNDARY: applies, images (R218), CRC pass. -/
def globalBoundary (s : State) : State :=
  if !globalDue s then s else
  let s1 := if flg s CFG_APPLY_HOLD then s else globalApply s
  let s2 := saveImages s1
  passStart s { s2 with cfg := { s2.cfg with globalAt := s.clk, kick := none } }

def execGlobalBoundary (s : State) : Out := .next (settle (globalBoundary s))

/-- Words of a pass over the message take one CK_ENG cycle each, three to an edge (R467). -/
def passTicks (s : State) : Nat := ((crcMessage s).length + 2) / 3

/-- CRC_PASS_END: the result is committed, or compared (R467, R468). -/
def passEndNow (s : State) : State :=
  let words := crcMessage s
  let crc := crc32c (words.flatMap (leBytes 4))
  let s1 := setFld CFG_CRC_CUR_CUR 0 crc (setFld CFG_CRC_LEN_WORDS 0 words.length (setFld CFG_CRC_STAT_BUSY 0 0 s))
  if s.cfg.byCommit then
    setFld CFG_CRC_REF_REF 0 crc (setFld CFG_CRC_STAT_ARMED 0 0 (setFld CFG_CRC_STAT_COMMITTED 0 1
      { s1 with cfg := { s1.cfg with byCommit := false } }))
  else if !flg s CFG_CRC_CTL_EN || flg s CFG_CRC_STAT_ARMED then s1
  else
    let s2 := addFld CFG_CRC_STAT_PASSES 0 1 s1
    if crc = fld s CFG_CRC_REF_REF then s2
    else
      let s3 := if flg s CFG_CRC_STAT_ALARM then s2 else raise 46 s2
      setFld CFG_CRC_STAT_ALARM 0 1 s3

def execCrcPassEnd (s : State) : Out :=
  .next (if flg s CFG_CRC_STAT_BUSY && boundaryOpen s && s.cfg.crcAt + passTicks s ≤ s.clk then passEndNow s else s)

/-! ### The port boundary (R460, R109) -/

/-- A refresh slot or a training pause, or a port that is OFF, in TEST or without a queued command. -/
def portDue (s : State) (p : Nat) : Bool :=
  let q := (portOf s p).sched
  pstate s p = .off || pstate s p = .test || q.queue = [] || q.pause.isSome
    || q.ranks.any fun e => e.2.begun || s.clk * clocksPerTick s p < e.2.busy

/-- Every logical rank may change its refresh mode (R155). -/
def modeQuiet (s : State) (p : Nat) : Bool :=
  (portOf s p).sched.ranks.all fun e => e.2.owed = 0 && e.2.part = [] && !e.2.begun && e.2.busy ≤ s.clk * clocksPerTick s p

/-- The refresh counts start afresh in a new mode (R155). -/
def modeChange (p : Nat) (s : State) : State :=
  modSched p (fun q => { q with ranks := q.ranks.map fun e => (e.1, { e.2 with start := s.clk, owed := 0, pulled := 0, forced := false }) }) s

/-- PS_SLOT: REFMODE waits until it may change; the other fields apply. -/
def applySlot (p : Nat) (s : State) : State :=
  let new := staged s PS_SLOT_REFMODE p
  let off := PS_SLOT_POSTPONE.off p
  if new = fld s PS_SLOT_REFMODE p then applyShadow off s
  else if modeQuiet s p then modeChange p (applyShadow off s)
  else
    let old := fld s PS_SLOT_REFMODE p
    let s1 := setFld PS_SLOT_REFMODE p old (applyShadow off s)
    let w := withBits (regAt s1 off PS_SLOT_POSTPONE.rst) 6 2 new
    { s1 with shadow := mput s1.shadow off (BitVec.ofNat 32 w) }

/-- SP_CTL: MODE applies only in OFF (R164, R200). -/
def applySpCtl (p : Nat) (s : State) : State :=
  let off := SP_CTL_MODE.off p
  let new := staged s SP_CTL_MODE p
  let old := fld s SP_CTL_MODE p
  if pstate s p = .off || new = old then applyShadow off s
  else
    let s1 := setFld SP_CTL_MODE p old (applyShadow off s)
    { s1 with shadow := mput s1.shadow off (BitVec.ofNat 32 (withBits (regAt s1 off SP_CTL_MODE.rst) 0 1 new)) }

/-- The main tap in force (R165). -/
def mainTap (p : Nat) (s : State) : State :=
  if !serial p then s
  else
    let m := if cx2 s p then 63 - fld s SL_TXEQ_PRE p - fld s SL_TXEQ_POST p else 0x39
    if fld s SL_TXEQ_MAIN p = m then s else setFld SL_TXEQ_MAIN p m s

/-- A loop test that SL_LOOP selects begins or ends (R191). (Log 26: DEDUCED.) -/
def loopSet (p : Nat) (s : State) : State :=
  match (portOf s p).link.loop with
  | none => if serial p && flg s SL_LOOP_MODE p then modLink p (fun k => { k with loop := some (fld s SL_LOOP_LANES p, none, s.clk) }) s else s
  | some (_, none, _) =>
    let l := if flg s SL_LOOP_MODE p then some (fld s SL_LOOP_LANES p, none, s.clk) else none
    modLink p (fun k => { k with loop := l }) s
  | some _ => s

/-- A mark that software set is logged DEV_MARK (Table 9.6); `s` is the state before. (Log 16: DEDUCED.) -/
def markLog (p off : Nat) (s : State) (t : State) : State :=
  let base := if off % 0x10000 = 0x804 then 0 else 8
  let old := regAt s off 0xFFFFFFFF
  let new := regAt t off 0xFFFFFFFF
  (List.range 8).foldl (fun u i =>
    let d := bits new (4 * i) 4
    let k := base + i
    if d = 15 || d = bits old (4 * i) 4 then u
    else logPush p { w0 := BitVec.ofNat 32 (5 + p * 256 + (k / 4) * 8192 + (k / 2 % 2) * 32768 + (k % 2) * 65536 + d * 1048576),
                     w1 := 0, w2 := 16, w3 := whenWord u } u) t

/-- One register of a port block at the port's boundary. -/
def applyPortReg (p : Nat) (s : State) (off : Nat) : State :=
  let o := off % 0x10000
  if o = 0x108 then applySlot p s
  else if o = 0x000 && serial p then applySpCtl p s
  else if o = 0x00C then (if pstate s p = .off then applyShadow off s else s)
  else if o = 0x840 then applyGroup (fun k => k = off) (remapGood s p) s
  else if o = 0x804 || o = 0x808 then
    (let s1 := applyShadow off s
     if regAt s1 off 0xFFFFFFFF = regAt s off 0xFFFFFFFF then s1 else markLog p off s (marksNew p s1))
  else applyShadow off s

/-- PORT_BOUNDARY: HOLD keeps back what software wrote, not what the engine did (R461, R465). A smaller lead applies (R124). -/
def portBoundary (p : Nat) (s : State) : State :=
  if !boundaryOpen s || !portDue s p then s else
  let mine (off : Nat) : Bool := 0x200000 + p * 0x10000 ≤ off && off < 0x210000 + p * 0x10000
  let hold := flg s CFG_APPLY_HOLD
  let l := (pendingIn s mine).filter fun off => !hold || s.cfg.own.contains off
  let s1 := mainTap p (loopSet p (l.foldl (applyPortReg p) s))
  let s2 := crcRestart s { s1 with cfg := { s1.cfg with own := s1.cfg.own.filter fun off => !l.contains off } }
  match (portOf s2 p).marks.leadNew with
  | some n => setLead p n s2
  | none => s2

def execPortBoundary (p : Fin 20) (s : State) : Out := onPort p s (portBoundary p.val)

end Sys2Proof.Machine
end

