-- ==== Sys2Proof/Machine/Stalls.lean ====
section
/-!
DEFINITION. Commands of the stall manager: enables and resets, the flush timer, spills and refills, the PIO registers and the
packet boundary (chapter 10).
-/

namespace Sys2Proof.Machine

/-- A command of an implemented stall. -/
def onStall (a : Nat) (s : State) (f : State → State) : Out :=
  .next (if a < stallCount s.part.variant then settle (f s) else s)

def selStall (s : State) : Nat := fld s ST_SEL_STALL

/-- A write at an offset of the per-stall window (R286): nothing on an absent stall, rejected in E3 and E4 (R457). -/
def windowWrite (off : Nat) (s : State) (f : Nat → State → State) : State :=
  let a := selStall s
  if s.pw.inReset || stallCount s.part.variant ≤ a then s
  else if s.pw.st.toNat ≥ 3 then reject off 8 s 0 a
  else f a s

def onWindow (off : Nat) (s : State) (f : Nat → State → State) : Out := .next (settle (windowWrite off s f))

/-! ### ST_OP (R255, R256, R279) -/

def execStallEnable (s : State) : Out := onWindow 0x380024 s enableStall

/-- DISABLE or RESET of the selected stall. -/
def stopStall (a cause : Nat) (s : State) : State := if (stallOf s a).st = .off then s else resetStall a cause s

def execStallDisable (s : State) : Out := onWindow 0x380024 s fun a => stopStall a 3

def execStallReset (s : State) : Out := onWindow 0x380024 s fun a => stopStall a 1

/-! ### Timers (R268, R274) -/

/-- The flush timer of a partial word expires. -/
def flushDue (s : State) (a : Nat) : Bool :=
  let x := stallOf s a
  x.part.isSome && x.flushExp ≠ 0 && x.lastItem + 2 ^ x.flushExp * edgesUs ≤ s.clk

def execStallFlushTimer (st : BitVec 15) (s : State) : Out :=
  onStall st.toNat s fun t => if flushDue t st.toNat then flushPart st.toNat t else t

/-- An idle stall gives its pair back: both banks hold nothing unread that the ring lacks. -/
def pairIdle (s : State) (a : Nat) : Bool :=
  let x := stallOf s a
  x.pair.isSome && x.part.isNone && !x.pktOpen && x.reader.isNone && x.items.isEmpty
    && (x.staged.all fun e => e.1 < x.h && (!x.rew || e.1 < x.spilled))
    && x.lastItem + fld s ST_GCTL_PAIR_IDLE * edgesUs ≤ s.clk

def execPairIdleRelease (st : BitVec 15) (s : State) : Out :=
  onStall st.toNat s fun t =>
    if pairIdle t st.toNat then modStall st.toNat (fun x => { x with pair := none, staged := [], drain := none }) t else t

/-! ### Spills and refills (R267 to R269) -/

/-- Space or a bank has come free: a flush, EOP, close or item that waits goes on. -/
def stallPump (a : Nat) (s : State) : State := pumpItems a (tryClose a (resumeWait a s))

/-- The spill of a fill bank, or the write-through of a rewindable stall, has completed. -/
def spillDone (a : Nat) (s : State) : State :=
  let x := stallOf s a
  if x.st = .off || c7Deferred s || ringDown s x || s.pw.st.toNat > 1 then s
  else if x.rew then
    if x.spilled ≥ x.wpos then s else
    let s1 := ringPutAll x (x.staged.filter fun e => x.spilled ≤ e.1) s
    stallPump a (modStall a (fun y => { y with
      spilled := y.wpos, staged := y.staged.filter fun e => y.h ≤ e.1 && (some (e.1 / 8) = y.drain || y.wpos / 8 ≤ e.1 / 8) }) s1)
  else
    let l := x.fullWords
    if l = [] then s else
    let top := l.foldl (fun m e => max m (e.1 + 1)) 0
    let s1 := ringPutAll x l s
    stallPump a (modStall a (fun y => { y with spilled := top, staged := y.staged.filter fun e => !(l.any fun z => z.1 = e.1) }) s1)

def execStallSpillDone (st : BitVec 15) (s : State) : Out := onStall st.toNat s (spillDone st.toNat)

/-- What reading one line of the ring gives: its data, and none where the read fails or true where the line is not to be trusted. -/
def ringRead (addr : Nat) (failed : Bool) (err : Burst) (s : State) : Line × Option Bool × State :=
  match target s addr with
  | .dram p la =>
    if failed || portFails s p then (0, none, s) else
    let s := syncLine p la s
    let st := readStored s p la
    let d := decodeLine s p la st.1 st.2 err
    let s1 := noteDecode p la d.1 orgDemand false s
    let res := decBeat d.1 d.2
    (res.data, some d.1.tainted, notePoisonRead p la d.1 orgDemand s1)
  | _ => (0, none, s)

/-- The error that the environment gives one line of a refill. -/
def refillErr (errs : List RefillErr) (i : Nat) : Bool × Burst :=
  match errs.find? fun e => e.idx.val = i with
  | some e => (e.failed, e.err)
  | none => (false, 0)

/-- One word of a refill: the word, and whether it was affected by an error (R269). -/
def refillWord (x : Stall) (errs : List RefillErr) (tagOk : Bool) (tags : Line) (pos : Nat) (s : State) : SWord × Bool × State :=
  let e := refillErr errs (pos % 8)
  let r := ringRead (x.wordAddr pos) e.1 e.2 s
  let tag : BitVec 16 := tags.extractLsb' (8 * (x.tagAddr pos % 64)) 16
  if !tagOk then ({ data := r.1, tag := 0x1840 }, true, r.2.2)
  else match r.2.1 with
    | none => ({ data := 0, tag := tag ||| 0x800 }, true, r.2.2)
    | some true => ({ data := r.1, tag := tag ||| 0x1000 }, true, r.2.2)
    | some false => ({ data := r.1, tag := tag }, false, r.2.2)

/-- The words at these positions come back from the ring. -/
def refillWords (x : Stall) (errs : List RefillErr) (tagOk : Bool) (tags : Line) : List Nat → SMap SWord × Nat × State → SMap SWord × Nat × State
  | [], acc => acc
  | pos :: l, acc =>
    let r := refillWord x errs tagOk tags pos acc.2.2
    refillWords x errs tagOk tags l (mput acc.1 pos r.1, if r.2.1 then acc.2.1 + 1 else acc.2.1, r.2.2)

/-- The drain bank is refilled from the ring; the read in progress goes on. -/
def refillDone (a : Nat) (errs : List RefillErr) (s : State) : State :=
  let x0 := stallOf s a
  if x0.st = .off || x0.h ≥ x0.spilled || x0.h ≥ x0.wpos || (mget x0.staged x0.h).isSome || !pairReady s a || s.pw.st.toNat > 1 then s else
  let s0 := takePair a s
  let x := stallOf s0 a
  if x.pair.isNone then s0 else
  let k := x.h / 8
  let kept := x.staged.filter fun e => some (e.1 / 8) ≠ x.drain
  let pos := ((List.range 8).map fun i => 8 * k + i).filter fun p => x.h ≤ p && p < x.spilled && (mget kept p).isNone
  let te := refillErr errs 8
  let t := ringRead (x.tagAddr (8 * k) / 64 * 64) te.1 te.2 s0
  let r := refillWords x errs (t.2.1 = some false) t.1 pos (kept, 0, t.2.2)
  let s1 := modStall a (fun y => { y with staged := r.1, drain := some k }) r.2.2
  let s2 := if r.2.1 = 0 then s1 else stallErr 8 a r.2.1 s1
  runReader a 8 (skipNow a s2)

def execStallRefillDone (st : BitVec 15) (errs : List RefillErr) (s : State) : Out := onStall st.toNat s (refillDone st.toNat errs)

/-! ### Space (R264, R271) -/

def execStallFwaitResume (st : BitVec 15) (s : State) : Out := onStall st.toNat s (stallPump st.toNat)

def execStallCloseWord (st : BitVec 15) (s : State) : Out := onStall st.toNat s fun t => pumpItems st.toNat (tryClose st.toNat t)

/-! ### PIO registers (R287) -/

def pioRefuse (s : State) : State := setFld ST_PIO_STAT_REFUSED 0 1 s

/-- A write of ST_PIO_PUSH. -/
def pioPush (v : Word) (s : State) : State :=
  let a := bits v.toNat 0 15
  let eop := v.getLsbD 15
  let lb := bits v.toNat 16 3
  if !v.getLsbD 31 then s
  else if a ≥ stallCount s.part.variant || (stallOf s a).st = .off || (stallOf s a).prod ≠ 0x25 || (!eop && lb ≠ 7) then pioRefuse s
  else
    let s1 := checkStall (route s a) s
    let b := route s1 a
    let x := stallOf s1 b
    if x.o + x.items.length + 1 + x.gout > x.slots - 8 then setFld ST_PIO_STAT_FULL 0 1 s1 else
    let d := fld s1 ST_PIO_ITEM_LO_D + fld s1 ST_PIO_ITEM_HI_D * 2 ^ 32
    let it : SItem := { data := BitVec.ofNat 64 d, eop := eop, lbytes := BitVec.ofNat 3 lb }
    pumpItems b (modStall b (fun y => { y with items := y.items ++ [it] }) s1)

def execPioPush (v : BitVec 32) (s : State) : Out := .next (settle (if s.pw.inReset then s else pioPush v s))

/-- The word that a pop has read, in ST_PIO_TAG and ST_PIO_W_n. -/
def pioShow (w : SWord) (s : State) : State :=
  (List.range 16).foldl (fun t i => setFld ST_PIO_W_D i (bits w.data.toNat (32 * i) 32) t)
    (setFld ST_PIO_TAG_TAG 0 w.tag.toNat (setFld ST_PIO_STAT_POPBUSY 0 0 s))

/-- A pop whose word is held ends. -/
def pioPopEnd (s : State) : State :=
  match s.stalls.find? fun e => (readerDone s e.1 .post).isSome with
  | none => s
  | some e =>
    match readerDone s e.1 .post with
    | some (w :: _) => pioShow w (dropReader e.1 s)
    | _ => s

/-- A write of ST_PIO_POP. -/
def pioPop (v : Word) (s : State) : State :=
  let a := bits v.toNat 0 15
  if !v.getLsbD 31 then s
  else if flg s ST_PIO_STAT_POPBUSY || a ≥ stallCount s.part.variant || (stallOf s a).st = .off || (stallOf s a).cons ≠ 0x25 then pioRefuse s
  else
    let s1 := startRead a .post 1 (checkStall a s)
    if (readerDone s1 a .post).isSome then pioPopEnd s1 else setFld ST_PIO_STAT_POPBUSY 0 1 s1

def execPioPop (v : BitVec 32) (s : State) : Out := .next (settle (if s.pw.inReset then s else pioPop v s))

def execPioPopDone (s : State) : Out := .next (settle (if flg s ST_PIO_STAT_POPBUSY then pioPopEnd s else s))

/-! ### Counters (R285, R286) -/

def writeEcntClr (v : Word) (s : State) : State := if v.getLsbD 0 && !s.pw.inReset then setFld ST_ECNT_MISMATCH 0 0 (setFld ST_ECNT_PWAIT 0 0 s) else s

def execStEcntClear (v : BitVec 32) (s : State) : Out := .next (writeEcntClr v s)

def writeErrClr (v : Word) (s : State) : State :=
  windowWrite 0x38003C s fun a => if v.getLsbD 0 then modStall a (fun x => { x with errOver := 0, errCe := 0 }) else id

def execStErrClear (v : BitVec 32) (s : State) : Out := .next (writeErrClr v s)

/-! ### The packet boundary (R257, R275, R352) -/

/-- A queue that acts as enabled, and the part of R352 that a stall's MAXPKT must keep for it. -/
def queueMaxOk (s : State) (a maxPkt : Nat) : Bool :=
  [0, 1, 2, 3].all fun q => !flg s HC_QCFG_EN q || (queueOf s q).stallOff ||
    ((cmdStall s q ≠ a || maxPkt = 7) && (cplStall s q ≠ a || 3 ≤ maxPkt))

/-- The staged ST_CFG1 applies, or is rejected. (Log 85: DEDUCED.) -/
def packetBoundary (a : Nat) (s : State) : State :=
  let x := stallOf s a
  match x.cfg1New with
  | none => s
  | some w =>
    if x.pktOpen || !applyOpen s then s else
    let m := bits w.toNat 8 13
    if x.pktFits m && queueMaxOk s a m then crcRestart s (modStall a (fun y => { y with cfg1 := w, cfg1New := none }) s)
    else reject 0x380020 4 (modStall a (fun y => { y with cfg1New := none }) s) 0 a

def execStallPacketBoundary (st : BitVec 15) (s : State) : Out := onStall st.toNat s (packetBoundary st.toNat)

end Sys2Proof.Machine
end

