-- ==== Sys2Proof/Machine/Regs.lean ====
section
/-!
DEFINITION. Writes of the register window (R455 to R465), and the interrupt causes that software raises.
-/

namespace Sys2Proof.Machine

/-! ### The checks at the write (R462): each answers the reason of Table 17.5, or 0 -/

/-- Reserved codes and ranges of the fields. -/
def fieldFail (d : RegDesc) (w : Nat) : Nat :=
  match d.checks.find? fun c => bits w c.lo c.w < c.min || c.max < bits w c.lo c.w with
  | some c => c.reason
  | none => 0

/-- Two fields of one register that do not go together. -/
def pairFail (d : RegDesc) (w : Nat) : Nat :=
  let bad : Bool :=
    match d.base with
    | 0x200104 => bits w 0 8 ≤ bits w 8 8
    | 0x20000C => d.first = 4 && bits w 4 4 ≤ bits w 0 4
    | 0x200610 => 39 < bits w 0 4 + bits w 4 5
    | 0x30024 => bits w 0 8 < bits w 8 8
    | 0x3004C => bits w 16 8 < bits w 24 8
    | 0x30058 => bits w 8 8 ≤ bits w 0 8
    | _ => false
  if bad then 2 else 0

/-- Codes that name an absent unit. -/
def absentFail (s : State) (d : RegDesc) (w : Nat) : Nat :=
  let n := stallCount s.part.variant
  let bad : Bool :=
    match d.base with
    | 0x90104 => n ≤ bits w 0 15 || n ≤ bits w 16 15
    | 0x200840 => bits w 0 2 = 1 && spadBanks s.part.variant ≤ bits w 2 5
    | _ => false
  if bad then 5 else 0

/-- A mark of a device that the width does not have (EC_MARK0). -/
def markFail (s : State) (d : RegDesc) (p w : Nat) : Nat :=
  let last := if isX8 s p then 4 else 9
  if (d.base = 0x200804 || d.base = 0x200808) && (List.range 8).any (fun i => last < bits w (4 * i) 4 && bits w (4 * i) 4 ≠ 15) then 2 else 0

/-- Fields of the timing register k (Tables 6.5 to 6.13): lowest bit, width, and whether zero is refused. -/
def timingFields (mono : Bool) (k : Nat) : List (Nat × Nat × Bool) :=
  match k with
  | 4 => [(0, 8, !mono), (8, 8, !mono), (16, 8, !mono), (24, 8, !mono)]
  | 5 => [(0, 12, true), (12, 12, true), (24, 8, true)]
  | 6 => [(0, 12, true), (12, 12, !mono)]
  | 7 => [(0, 16, true), (16, 13, true)]
  | 8 => [(0, 8, true), (8, 8, true), (16, 4, false), (20, 4, false)]
  | _ => [(0, 8, true), (8, 8, true), (16, 8, true), (24, 8, true)]

/-- A timing value below its floor, or zero (R149). -/
def floorFail (s : State) (d : RegDesc) (p off w : Nat) : Nat :=
  if !(0x200300 ≤ d.base && d.base ≤ 0x200320) then 0
  else
    let f := (mgetD s.floors off 0).toNat
    let low (x : Nat × Nat × Bool) : Bool := bits w x.1 x.2.1 < bits f x.1 x.2.1 || (x.2.2 && bits w x.1 x.2.1 = 0)
    if (timingFields (stackHeight s p = 1) ((d.base - 0x200300) / 4)).any low then 0xA else 0

/-- A change that the state of the port does not allow (R148, R151, R164, R191). -/
def stateFail (s : State) (d : RegDesc) (p w : Nat) : Nat :=
  let isOff : Bool := pstate s p = .off
  let loopBad : Bool := bits w 0 2 ≠ 0 && pstate s p ≠ .test && !(inService s p && spareFree s p (bits w 2 9))
  let bad : Bool :=
    match d.base with
    | 0x200000 =>
      if d.first = 4 then bits w 0 1 ≠ staged s SP_CTL_MODE p && !isOff
      else bits w 0 1 = 0 && dimmCount s p = 2 && !isOff
    | 0x20000C => !isOff
    | 0x20061C => loopBad
    | _ => false
  if bad then 3 else 0

/-- The first check that fails. (Log 12: DEDUCED.) -/
def writeFail (s : State) (d : RegDesc) (i off w : Nat) : Nat :=
  (([fieldFail d w, pairFail d w, absentFail s d w, markFail s d i w, floorFail s d i off w, stateFail s d i w]).find?
    fun r => r ≠ 0).getD 0

/-! ### Storing a word -/

/-- Bits of units that the variant lacks ignore writes (R5). (Log 14: DEDUCED.) -/
def unitBits (v : Variant) (off w : Nat) : Nat :=
  let ports := match v with
    | .cx3f => 2 ^ 20
    | .cx3m => 2 ^ 12
    | .cx3d => 2 ^ 4
  if off = 0x2000C then w % 2 ^ (8 * ctxCount v)
  else if off = 0x30028 then w % ports
  else if off = 0x4003C || off = 0x40040 || off = 0x6002C then w % 2 ^ spadBanks v
  else w

/-- The staged fields go into the shadow (R460); HC_QCFG is pending whatever it holds (R352). -/
def stageWord (off : Nat) (d : RegDesc) (w : Nat) (s : State) : State :=
  if d.rs = 0 then s else
  let new := overlay d.rs w (stagedAt s off d.rst)
  let same : Bool := new = regAt s off d.rst && d.base ≠ 0x90100
  { s with shadow := if same then mdel s.shadow off else mput s.shadow off (BitVec.ofNat 32 new)
           cfg := { s.cfg with own := s.cfg.own.erase off, kick := if globalScope off then some s.clk else s.cfg.kick } }

/-- RW fields take the value at once, and a one clears a W1C field. -/
def forceWord (off : Nat) (d : RegDesc) (w : Nat) (s : State) : State :=
  let cur := regAt s off d.rst
  let a := overlay d.rw w cur
  let new := a - (a &&& d.w1c &&& w)
  if new = cur then s else setWord off new s

/-- A write of a register of Table 17.10 that has no row of its own. -/
def plainWrite (off v : Nat) (s : State) : State :=
  match regFind off with
  | none => s
  | some (d, i) =>
    if d.rs = 0 && d.rw = 0 && d.w1c = 0 then s
    else
      let w := unitBits s.part.variant off v
      let r := writeFail s d i off w
      if r ≠ 0 then reject off r s else forceWord off d w (stageWord off d w s)

/-! ### Registers that State holds apart -/

/-- CFG_APPLY: HOLD takes the value at once, COMMIT arms (R461, R468). -/
def cfgApply (v : Word) (s : State) : State :=
  let s1 := setFld CFG_APPLY_HOLD 0 (bits v.toNat 0 1) s
  if v.getLsbD 1 then setFld CFG_CRC_STAT_ARMED 0 1 s1 else s1

/-- CFG_REJ_CLR.ALL. -/
def rejClear (v : Word) (s : State) : State := if v.getLsbD 0 then setWord 0x21C 0 s else s

/-- INT_SET0 and INT_SET1 raise causes; the reserved causes 47 to 63 are never raised (Table 17.9, R472). -/
def intSet (hi : Bool) (v : Word) (s : State) : State :=
  (List.range (if hi then 15 else 32)).foldl (fun t b => if v.getLsbD b then raise (b + if hi then 32 else 0) t else t) s

/-- ST_BASE_LO, ST_BASE_HI and ST_CFG0: accepted whole in OFF (R257). Whether the PROD and CONS codes name units is judged at the
enable (R256, Table 10.2). (Log 13: DEDUCED.) -/
def stallBaseWrite (off : Nat) (v : Word) (s : State) : State :=
  windowWrite off s fun a t =>
    if off = 0x38001C && 0x18 < bits v.toNat 0 5 then reject off 1 t 0 a
    else if (stallOf t a).st ≠ .off then reject off 3 t 0 a
    else modStall a (fun x =>
      if off = 0x380014 then { x with baseLo := v &&& 0xFFFFF000#32 }
      else if off = 0x380018 then { x with baseHi := v &&& 0x3FFF#32 }
      else { x with cfg0 := v &&& 0x3F3F7F#32 }) t

/-- ST_CFG1 is staged until the packet boundary. -/
def stallCfg1Write (v : Word) (s : State) : State :=
  windowWrite 0x380020 s fun a t =>
    if 30 < bits v.toNat 25 5 then reject 0x380020 1 t 0 a
    else
      let w := v &&& 0x3FFFFFFF#32
      modStall a (fun x => { x with cfg1New := if w = x.cfg1 then none else some w }) t

/-- ST_STAT: REFUSED and OVR are cleared by a one. -/
def stallStatWrite (v : Word) (s : State) : State :=
  windowWrite 0x380028 s fun a => modStall a fun x =>
    { x with refused := x.refused && !v.getLsbD 7, ovr := x.ovr && !v.getLsbD 8 }

/-- An answer's next state; an access that stops leaves the state. -/
def viaRow (o : Out) (s : State) : State :=
  match o with
  | .next t => t
  | _ => s

/-- The row's unit number is in range, or the location is reserved. -/
def withNo (n k : Nat) (f : Fin n → Out) (s : State) : State := if h : k < n then viaRow (f ⟨k, h⟩) s else s

def stallOpWrite (v : Word) (s : State) : State :=
  match bits v.toNat 0 2 with
  | 1 => viaRow (execStallEnable s) s
  | 2 => viaRow (execStallDisable s) s
  | 3 => viaRow (execStallReset s) s
  | _ => s

/-- LCTX_CTL: PRIV, then OP. -/
def ctxCtlWrite (c : Nat) (v : Word) (s : State) : State :=
  let s1 := modCtx c (fun x => { x with priv := v.getLsbD 2 }) s
  match bits v.toNat 0 2 with
  | 1 => withNo 4 c (fun k => execStart k s1) s1
  | 2 => withNo 4 c (fun k => execStop k s1) s1
  | 3 => withNo 4 c (fun k => execContextReset k s1) s1
  | _ => s1

/-- Half of a 64-bit word replaced. -/
def setHalf (hi : Bool) (v : Word) (w : W64) : W64 := if hi then v ++ w.extractLsb' 0 32 else w.extractLsb' 32 32 ++ v

/-- A register of a user context (R351); context 0 ignores every write (R324). -/
def ctxWrite (c o off : Nat) (v : Word) (s : State) : State :=
  let x := ctxOf s c
  let stopped : Bool := x.st = .stopped
  let still : Bool := stopped || x.st = .halted
  let g := BitVec.ofNat 5 (fld s LCTX_GSEL_G c)
  if c = 0 then s
  else if o = 0x00 then ctxCtlWrite c v s
  else if o = 0x08 || o = 0x0C then
    (if still then modCtx c (fun y => { y with pc := setHalf (o = 0x0C) v y.pc }) s else reject off 3 s)
  else if o = 0x2C || o = 0x30 then
    (if still then modCtx c (fun y => setGpr g (setHalf (o = 0x30) v (gpr y g)) y) s else reject off 3 s)
  else if o = 0x20 then
    (let b := bits v.toNat 0 6
     let n := bits v.toNat 8 6
     if b < 32 || 32 < n || 64 < b + n then reject off 2 s
     else if stopped then modCtx c (fun y => { y with prgBase := BitVec.ofNat 6 b, prgSize := BitVec.ofNat 6 n }) s else reject off 3 s)
  else if o = 0x24 then
    (let b := bits v.toNat 0 7
     let n := bits v.toNat 8 7
     if b < 64 || 64 < n || 128 < b + n then reject off 2 s
     else if stopped then modCtx c (fun y => { y with datBase := BitVec.ofNat 7 b, datSize := BitVec.ofNat 7 n }) s else reject off 3 s)
  else if o = 0x4C then withNo 4 c (fun k => execLantDurClear k v s) s
  else plainWrite off v.toNat s

/-- PWR_REQ: a reserved target is rejected; GO asks. -/
def pwrReqWrite (v : Word) (s : State) : State :=
  let t := bits v.toNat 0 3
  if 4 < t then reject 0x40000 1 s
  else if !v.getLsbD 31 then s
  else match t with
    | 0 => viaRow (execWakeE0 .reg s) s
    | 1 => viaRow (execEnterE1 .reg s) s
    | 2 => viaRow (execEnterE2 .reg s) s
    | 3 => viaRow (execEnterE3 .reg s) s
    | _ => viaRow (execEnterE4 .reg s) s

/-- PP_REQ of port p. -/
def ppReqWrite (p off : Nat) (v : Word) (s : State) : State :=
  let t := bits v.toNat 0 3
  if 4 < t then reject off 1 s
  else if !v.getLsbD 31 then s
  else withNo 20 p (fun k => match t with
    | 0 => execPortOff k .reg s
    | 1 => execPortOn k .reg s
    | 2 => execPortSelfRefresh k .reg s
    | 3 => execPortWake k .reg s
    | _ => execPortReset k .reg s) s

/-- TR_TRIM_DAT of the selected converter (R203). (Log 19: DEDUCED.) -/
def trimWrite (p off : Nat) (v : Word) (s : State) : State :=
  let k := fld s TR_TRIM_SEL_IDX p
  if pstate s p ≠ .off && pstate s p ≠ .test then reject off 3 s
  else if converters p ≤ k then s
  else modTrain p (fun t => { t with ovr := mput t.ovr k (v.extractLsb' 16 9) }) s

/-- TB_STEP.GO. -/
def stepWrite (v : Word) (s : State) : State :=
  match bits v.toNat 0 2 with
  | 1 => viaRow (execSoftStep s) s
  | 2 => viaRow (execArmEpochStep s) s
  | 3 => viaRow (execAbandonStep s) s
  | _ => s

/-- MT_GO: ABORT acts on the test that runs, GO asks for one. -/
def marchWrite (v : Word) (s : State) : State :=
  let s1 := if v.getLsbD 0 then viaRow (execMarchStart s) s else s
  if v.getLsbD 1 then viaRow (execMarchAbort s1) s1 else s1

/-! ### The window -/

/-- Locations below the port blocks. -/
def lowWrite (off : Nat) (v : Word) (s : State) : State :=
  if 0x100000 ≤ off then
    (if off < 0x140000 then viaRow (execProgramRamWrite (BitVec.ofNat 16 ((off - 0x100000) / 4)) v s) s
     else if off < 0x160000 then viaRow (execDataRamWrite (BitVec.ofNat 15 ((off - 0x140000) / 4)) v s) s
     else s)
  else if 0xC0000 ≤ off && off < 0xE0000 then
    (let n := (off - 0xC0000) / 0x1000
     match off % 0x1000 with
     | 0x00C => withNo 32 n (fun k => execFpProtoClear k v s) s
     | 0x02C => withNo 32 n (fun k => execFpDurClear k v s) s
     | _ => plainWrite off v.toNat s)
  else if 0x80100 ≤ off && off < 0x80500 then ctxWrite ((off - 0x80100) / 0x100) (off % 0x100) off v s
  else if 0x50000 ≤ off && off < 0x51000 then viaRow (execBbrWrite (BitVec.ofNat 10 ((off - 0x50000) / 4)) v s) s
  else if 0x60200 ≤ off && off < 0x60254 then withNo 21 ((off - 0x60200) / 4) (fun k => execLogTailWrite k v s) s
  else if 0x21000 ≤ off && off < 0x22000 && off % 0x10 = 0xC then withNo 256 ((off - 0x21000) / 0x10) (fun k => execBrMissClear k v s) s
  else if 0x90100 ≤ off && off < 0x90180 && off % 0x20 = 8 then withNo 4 ((off - 0x90100) / 0x20) (fun k => execDoorbell k v s) s
  else match off with
    | 0x110 => intSet false v s
    | 0x114 => intSet true v s
    | 0x200 => cfgApply v s
    | 0x220 => rejClear v s
    | 0x10010 => stepWrite v s
    | 0x10028 => viaRow (execTbAlarmWrite 0 v s) s
    | 0x1002C => viaRow (execTbAlarmWrite 1 v s) s
    | 0x10030 => viaRow (execTbAlarmWrite 2 v s) s
    | 0x1003C => viaRow (execLaunchCancel v s) s
    | 0x10040 => viaRow (execEpochPulseOut v s) s
    | 0x20008 => viaRow (execSchMissLogClear v s) s
    | 0x300D0 => viaRow (execPlnSlotpWrite v s) s
    | 0x40000 => pwrReqWrite v s
    | 0x4002C => viaRow (execPwrCntClear v s) s
    | 0x40038 => viaRow (execDomainOn v s) s
    | 0x40050 => if v.getLsbD 0 then viaRow (execSoftReset s) s else s
    | 0x60014 => viaRow (execElLostClear v s) s
    | 0x60024 => marchWrite v s
    | 0x80000 => viaRow (execLnIcInvalidate v s) s
    | 0x90004 => viaRow (execAbort v s) s
    | 0xA0010 => viaRow (execAgentReadmit v s) s
    | 0xA002C => viaRow (execHomeCntClear v s) s
    | 0xA004C => viaRow (execRingDurClear v s) s
    | 0xA0F04 => viaRow (execHomeRsvClear v s) s
    | _ => plainWrite off v.toNat s

/-- Locations of port p's block (Table 17.3). -/
def portWrite (p off : Nat) (v : Word) (s : State) : State :=
  match off % 0x10000 with
  | 0x118 => withNo 20 p (fun k => execPsCntClear k v s) s
  | 0x21C => withNo 20 p (fun k => execTsCntClear k v s) s
  | 0x340 => withNo 20 p (fun k => execDpCntClear k v s) s
  | 0x62C => if serial p then withNo 20 p (fun k => execSlCntClear k v s) s else s
  | 0x714 => withNo 20 p (fun k => execTrCntClear k v s) s
  | 0x728 => trimWrite p off v s
  | 0x820 => withNo 20 p (fun k => execEcCntClear k v s) s
  | 0x848 => withNo 20 p (fun k => execRemapAdd k v s) s
  | 0x900 => ppReqWrite p off v s
  | _ => plainWrite off v.toNat s

/-- Locations above the port blocks: stall manager and scratchpad control. -/
def highWrite (off : Nat) (v : Word) (s : State) : State :=
  match off with
  | 0x38000C => viaRow (execStEcntClear v s) s
  | 0x380014 => stallBaseWrite off v s
  | 0x380018 => stallBaseWrite off v s
  | 0x38001C => stallBaseWrite off v s
  | 0x380020 => stallCfg1Write v s
  | 0x380024 => stallOpWrite v s
  | 0x380028 => stallStatWrite v s
  | 0x38003C => viaRow (execStErrClear v s) s
  | 0x380108 => viaRow (execPioPush v s) s
  | 0x380110 => viaRow (execPioPop v s) s
  | 0x3C0008 => viaRow (execSpadClear v s) s
  | _ => plainWrite off v.toNat s

/-- A write of the location at an offset, where the variant has its unit (R5, R15). -/
def windowStore (off : Nat) (v : Word) (s : State) : State :=
  if !unitThere s off then s
  else if off < 0x200000 then lowWrite off v s
  else if off < 0x340000 then portWrite ((off - 0x200000) / 0x10000) off v s
  else highWrite off v s

/-- Registers whose write does its own waking (Table 15.6). -/
def wakesItself (off : Nat) : Bool :=
  off = 0x40000 || off = 0x40050 || (0x200000 ≤ off && off < 0x340000 && off % 0x10000 = 0x900)
    || (0x90100 ≤ off && off < 0x90180 && off % 0x20 = 8)

/-- A write of the window is activity, and wakes the engine from E1 and E2 (R412, R420). (Log 18: DEDUCED.) -/
def writeWakes (s : State) : State :=
  let st := wakeState s
  if s.en.pf ≠ .none then s
  else if st = 1 || st = 2 then wake 2 s
  else if st = 0 then active s
  else s

/-- A write of the register window (R455). -/
def regWrite (off : Nat) (bytes : Nat) (v : Word) (s : State) : State :=
  if s.pw.inReset then s
  else if bytes ≠ 4 || off % 4 ≠ 0 then reject off 7 s
  else windowStore off v (if wakesItself off then s else writeWakes s)

def execRegisterWrite (off : BitVec 22) (bytes : Fin 9) (v : BitVec 32) (s : State) : Out :=
  .next (settle (regWrite off.toNat bytes.val v s))

def execCfgApplyHold (v : BitVec 32) (s : State) : Out := .next (if s.pw.inReset then s else cfgApply v s)

def execCfgCommit (v : BitVec 32) (s : State) : Out := .next (if s.pw.inReset then s else cfgApply v s)

def execCfgRejClear (v : BitVec 32) (s : State) : Out := .next (if s.pw.inReset then s else rejClear v s)

def execIntSet (hi : Bool) (v : BitVec 32) (s : State) : Out := .next (if s.pw.inReset then s else intSet hi v s)

end Sys2Proof.Machine
end

