-- ==== Sys2Proof/Machine/Dispatch.lean ====
section
/-!
DEFINITION. One arm per command: its meaning.
-/

namespace Sys2Proof.Machine

/-- The effect of a command on everything but the queue. -/
def exec (i : Instr) (s : State) : Host.Outcome State Fault Refusal :=
  match i with
  | .add c rd ra rb sf x => Sys2Proof.Machine.execAdd c rd ra rb sf x s
  | .sub c rd ra rb sf x => Sys2Proof.Machine.execSub c rd ra rb sf x s
  | .and c rd ra rb sf x => Sys2Proof.Machine.execAnd c rd ra rb sf x s
  | .or c rd ra rb sf x => Sys2Proof.Machine.execOr c rd ra rb sf x s
  | .xor c rd ra rb sf x => Sys2Proof.Machine.execXor c rd ra rb sf x s
  | .andn c rd ra rb sf x => Sys2Proof.Machine.execAndn c rd ra rb sf x s
  | .sll c rd ra rb sf x => Sys2Proof.Machine.execSll c rd ra rb sf x s
  | .srl c rd ra rb sf x => Sys2Proof.Machine.execSrl c rd ra rb sf x s
  | .sra c rd ra rb sf x => Sys2Proof.Machine.execSra c rd ra rb sf x s
  | .slt c rd ra rb sf x => Sys2Proof.Machine.execSlt c rd ra rb sf x s
  | .sltu c rd ra rb sf x => Sys2Proof.Machine.execSltu c rd ra rb sf x s
  | .min c rd ra rb sf x => Sys2Proof.Machine.execMin c rd ra rb sf x s
  | .max c rd ra rb sf x => Sys2Proof.Machine.execMax c rd ra rb sf x s
  | .minu c rd ra rb sf x => Sys2Proof.Machine.execMinu c rd ra rb sf x s
  | .maxu c rd ra rb sf x => Sys2Proof.Machine.execMaxu c rd ra rb sf x s
  | .neg c rd ra rb sf x => Sys2Proof.Machine.execNeg c rd ra rb sf x s
  | .mul c rd ra rb sf x => Sys2Proof.Machine.execMul c rd ra rb sf x s
  | .mulh c rd ra rb sf x => Sys2Proof.Machine.execMulh c rd ra rb sf x s
  | .mulhu c rd ra rb sf x => Sys2Proof.Machine.execMulhu c rd ra rb sf x s
  | .div c rd ra rb sf x => Sys2Proof.Machine.execDiv c rd ra rb sf x s
  | .divu c rd ra rb sf x => Sys2Proof.Machine.execDivu c rd ra rb sf x s
  | .rem c rd ra rb sf x => Sys2Proof.Machine.execRem c rd ra rb sf x s
  | .remu c rd ra rb sf x => Sys2Proof.Machine.execRemu c rd ra rb sf x s
  | .clz c rd ra rb sf x => Sys2Proof.Machine.execClz c rd ra rb sf x s
  | .ctz c rd ra rb sf x => Sys2Proof.Machine.execCtz c rd ra rb sf x s
  | .popc c rd ra rb sf x => Sys2Proof.Machine.execPopc c rd ra rb sf x s
  | .sext c rd ra rb sf x => Sys2Proof.Machine.execSext c rd ra rb sf x s
  | .adc c rd ra rb sf x => Sys2Proof.Machine.execAdc c rd ra rb sf x s
  | .sbc c rd ra rb sf x => Sys2Proof.Machine.execSbc c rd ra rb sf x s
  | .addi c rd ra imm => Sys2Proof.Machine.execAddi c rd ra imm s
  | .andi c rd ra imm => Sys2Proof.Machine.execAndi c rd ra imm s
  | .ori c rd ra imm => Sys2Proof.Machine.execOri c rd ra imm s
  | .xori c rd ra imm => Sys2Proof.Machine.execXori c rd ra imm s
  | .shi c rd ra imm => Sys2Proof.Machine.execShi c rd ra imm s
  | .hsetz c rd ra imm => Sys2Proof.Machine.execHsetz c rd ra imm s
  | .hins c rd ra imm => Sys2Proof.Machine.execHins c rd ra imm s
  | .slti c rd ra imm => Sys2Proof.Machine.execSlti c rd ra imm s
  | .sltiu c rd ra imm => Sys2Proof.Machine.execSltiu c rd ra imm s
  | .cmpi c rd ra imm => Sys2Proof.Machine.execCmpi c rd ra imm s
  | .bc c cond rsvd off => Sys2Proof.Machine.execBc c cond rsvd off s
  | .beq c ra rb off => Sys2Proof.Machine.execBeq c ra rb off s
  | .bne c ra rb off => Sys2Proof.Machine.execBne c ra rb off s
  | .blt c ra rb off => Sys2Proof.Machine.execBlt c ra rb off s
  | .bge c ra rb off => Sys2Proof.Machine.execBge c ra rb off s
  | .bltu c ra rb off => Sys2Proof.Machine.execBltu c ra rb off s
  | .bgeu c ra rb off => Sys2Proof.Machine.execBgeu c ra rb off s
  | .jal c off => Sys2Proof.Machine.execJal c off s
  | .jalr c rd ra imm => Sys2Proof.Machine.execJalr c rd ra imm s
  | .lbu c rd ra imm => Sys2Proof.Machine.execLbu c rd ra imm s
  | .lhu c rd ra imm => Sys2Proof.Machine.execLhu c rd ra imm s
  | .lwu c rd ra imm => Sys2Proof.Machine.execLwu c rd ra imm s
  | .ld c rd ra imm => Sys2Proof.Machine.execLd c rd ra imm s
  | .lb c rd ra imm => Sys2Proof.Machine.execLb c rd ra imm s
  | .lh c rd ra imm => Sys2Proof.Machine.execLh c rd ra imm s
  | .lw c rd ra imm => Sys2Proof.Machine.execLw c rd ra imm s
  | .sb c rd ra imm => Sys2Proof.Machine.execSb c rd ra imm s
  | .sh c rd ra imm => Sys2Proof.Machine.execSh c rd ra imm s
  | .sw c rd ra imm => Sys2Proof.Machine.execSw c rd ra imm s
  | .sd c rd ra imm => Sys2Proof.Machine.execSd c rd ra imm s
  | .ldm c rd ra imm => Sys2Proof.Machine.execLdm c rd ra imm s
  | .stm c rd ra imm => Sys2Proof.Machine.execStm c rd ra imm s
  | .ldln c rd ra rb sf x => Sys2Proof.Machine.execLdln c rd ra rb sf x s
  | .stln c rd ra rb sf x => Sys2Proof.Machine.execStln c rd ra rb sf x s
  | .zln c rd ra rb sf x => Sys2Proof.Machine.execZln c rd ra rb sf x s
  | .lantLr c rd ra rb sf x => Sys2Proof.Machine.execLantLr c rd ra rb sf x s
  | .lantSc c rd ra rb sf x => Sys2Proof.Machine.execLantSc c rd ra rb sf x s
  | .lantAmo c rd ra rb sf x => Sys2Proof.Machine.execLantAmo c rd ra rb sf x s
  | .sput c rd ra rb sf x => Sys2Proof.Machine.execSput c rd ra rb sf x s
  | .sget c rd ra rb sf x => Sys2Proof.Machine.execSget c rd ra rb sf x s
  | .stly c rd ra rb sf x => Sys2Proof.Machine.execStly c rd ra rb sf x s
  | .scmd c rd ra rb sf x => Sys2Proof.Machine.execScmd c rd ra rb sf x s
  | .rdtb c rd ra rb sf x => Sys2Proof.Machine.execRdtb c rd ra rb sf x s
  | .wait c rd ra rb sf x => Sys2Proof.Machine.execWait c rd ra rb sf x s
  | .waitResume c => Sys2Proof.Machine.execWaitResume c s
  | .launch c rd ra rb sf x => Sys2Proof.Machine.execLaunch c rd ra rb sf x s
  | .lcancel c rd ra rb sf x => Sys2Proof.Machine.execLcancel c rd ra rb sf x s
  | .bar c rd ra rb sf x => Sys2Proof.Machine.execBar c rd ra rb sf x s
  | .iflush c rd ra rb sf x => Sys2Proof.Machine.execIflush c rd ra rb sf x s
  | .hbind c rd ra rb sf x => Sys2Proof.Machine.execHbind c rd ra rb sf x s
  | .hdone c rd ra rb sf x => Sys2Proof.Machine.execHdone c rd ra rb sf x s
  | .brk c rd ra rb sf x => Sys2Proof.Machine.execBrk c rd ra rb sf x s
  | .halt c rd ra rb sf x => Sys2Proof.Machine.execHalt c rd ra rb sf x s
  | .eqEnergyTotal c rd ra rb sf => Sys2Proof.Machine.execEqEnergyTotal c rd ra rb sf s
  | .eqUsableReserve c rd ra rb sf => Sys2Proof.Machine.execEqUsableReserve c rd ra rb sf s
  | .eqDomainLow c rd ra rb sf => Sys2Proof.Machine.execEqDomainLow c rd ra rb sf s
  | .eqDomainHigh c rd ra rb sf => Sys2Proof.Machine.execEqDomainHigh c rd ra rb sf s
  | .eqRetention c rd ra rb sf => Sys2Proof.Machine.execEqRetention c rd ra rb sf s
  | .eqAllowance c rd ra rb sf => Sys2Proof.Machine.execEqAllowance c rd ra rb sf s
  | .eqStage c rd ra rb sf => Sys2Proof.Machine.execEqStage c rd ra rb sf s
  | .mfs c rd ra imm => Sys2Proof.Machine.execMfs c rd ra imm s
  | .mts c rd ra imm => Sys2Proof.Machine.execMts c rd ra imm s
  | .mrw c rd ra rb sf x => Sys2Proof.Machine.execMrw c rd ra rb sf x s
  | .mrr c rd ra rb sf x => Sys2Proof.Machine.execMrr c rd ra rb sf x s
  | .refcRefNow c rd ra rb sf => Sys2Proof.Machine.execRefcRefNow c rd ra rb sf s
  | .refcSrEnter c rd ra rb sf => Sys2Proof.Machine.execRefcSrEnter c rd ra rb sf s
  | .refcSrExit c rd ra rb sf => Sys2Proof.Machine.execRefcSrExit c rd ra rb sf s
  | .refcZq c rd ra rb sf => Sys2Proof.Machine.execRefcZq c rd ra rb sf s
  | .rrepSoft c rd ra rb sf x freeResource => Sys2Proof.Machine.execRrepSoft c rd ra rb sf x freeResource s
  | .rrepHard c rd ra rb sf x => Sys2Proof.Machine.execRrepHard c rd ra rb sf x s
  | .trstep c rd ra rb sf x ok => Sys2Proof.Machine.execTrstep c rd ra rb sf x ok s
  | .rd fp w => Sys2Proof.Machine.execRd fp w s
  | .wr fp w => Sys2Proof.Machine.execWr fp w s
  | .wrz fp w => Sys2Proof.Machine.execWrz fp w s
  | .lr fp w => Sys2Proof.Machine.execLr fp w s
  | .sc fp w => Sys2Proof.Machine.execSc fp w s
  | .amo fp w => Sys2Proof.Machine.execAmo fp w s
  | .order fp w => Sys2Proof.Machine.execOrder fp w s
  | .visible fp w => Sys2Proof.Machine.execVisible fp w s
  | .durable fp w => Sys2Proof.Machine.execDurable fp w s
  | .stallPut fp w => Sys2Proof.Machine.execStallPut fp w s
  | .stallWordRead fp w => Sys2Proof.Machine.execStallWordRead fp w s
  | .tallyFetch fp w => Sys2Proof.Machine.execTallyFetch fp w s
  | .drop fp w => Sys2Proof.Machine.execDrop fp w s
  | .mark fp w => Sys2Proof.Machine.execMark fp w s
  | .rewind fp w => Sys2Proof.Machine.execRewind fp w s
  | .release fp w => Sys2Proof.Machine.execRelease fp w s
  | .flush fp w => Sys2Proof.Machine.execFlush fp w s
  | .reqReservedOpcode fp opc w => Sys2Proof.Machine.execReqReservedOpcode fp opc w s
  | .writeDataBeat fp data be last => Sys2Proof.Machine.execWriteDataBeat fp data be last s
  | .readBeatAccept fp => Sys2Proof.Machine.execReadBeatAccept fp s
  | .responseAccept fp => Sys2Proof.Machine.execResponseAccept fp s
  | .urgChange fp level => Sys2Proof.Machine.execUrgChange fp level s
  | .exc fp => Sys2Proof.Machine.execExc fp s
  | .fabClkMeasure fp khz => Sys2Proof.Machine.execFabClkMeasure fp khz s
  | .burstTimeout fp => Sys2Proof.Machine.execBurstTimeout fp s
  | .fabricPortBoundary fp => Sys2Proof.Machine.execFabricPortBoundary fp s
  | .pwbDrain fp parityError => Sys2Proof.Machine.execPwbDrain fp parityError s
  | .queueEntry p => Sys2Proof.Machine.execQueueEntry p s
  | .lineDataReturn p id err => Sys2Proof.Machine.execLineDataReturn p id err s
  | .fpProtoClear fp v => Sys2Proof.Machine.execFpProtoClear fp v s
  | .fpDurClear fp v => Sys2Proof.Machine.execFpDurClear fp v s
  | .homeRsvClear v => Sys2Proof.Machine.execHomeRsvClear v s
  | .commandSlotSelect p sub off => Sys2Proof.Machine.execCommandSlotSelect p sub off s
  | .refreshDue p rank => Sys2Proof.Machine.execRefreshDue p rank s
  | .rowTimeoutClose p sub bank off => Sys2Proof.Machine.execRowTimeoutClose p sub bank off s
  | .hotRestore p dimm => Sys2Proof.Machine.execHotRestore p dimm s
  | .trainingPauseStart p => Sys2Proof.Machine.execTrainingPauseStart p s
  | .pauseForce p => Sys2Proof.Machine.execPauseForce p s
  | .brMissClear t v => Sys2Proof.Machine.execBrMissClear t v s
  | .schMissLogClear v => Sys2Proof.Machine.execSchMissLogClear v s
  | .psCntClear p v => Sys2Proof.Machine.execPsCntClear p v s
  | .tbCountRead => Sys2Proof.Machine.execTbCountRead s
  | .softStep => Sys2Proof.Machine.execSoftStep s
  | .armEpochStep => Sys2Proof.Machine.execArmEpochStep s
  | .abandonStep => Sys2Proof.Machine.execAbandonStep s
  | .stepLoad => Sys2Proof.Machine.execStepLoad s
  | .stepArmTimeout => Sys2Proof.Machine.execStepArmTimeout s
  | .epochPulseIn phase width => Sys2Proof.Machine.execEpochPulseIn phase width s
  | .epochPulseOut v => Sys2Proof.Machine.execEpochPulseOut v s
  | .timeMarkStart p fine => Sys2Proof.Machine.execTimeMarkStart p fine s
  | .timeMarkAnswer p t2 t3 fine replayed => Sys2Proof.Machine.execTimeMarkAnswer p t2 t3 fine replayed s
  | .launchHold l => Sys2Proof.Machine.execLaunchHold l s
  | .launchStart l => Sys2Proof.Machine.execLaunchStart l s
  | .refHoldEnd p => Sys2Proof.Machine.execRefHoldEnd p s
  | .streamLineEnter p k => Sys2Proof.Machine.execStreamLineEnter p k s
  | .stallSwitch a => Sys2Proof.Machine.execStallSwitch a s
  | .launchCancel v => Sys2Proof.Machine.execLaunchCancel v s
  | .launchSelfWake => Sys2Proof.Machine.execLaunchSelfWake s
  | .tbAlarmWrite reg v => Sys2Proof.Machine.execTbAlarmWrite reg v s
  | .tbAlarmFire => Sys2Proof.Machine.execTbAlarmFire s
  | .pwrGoodRise p => Sys2Proof.Machine.execPwrGoodRise p s
  | .pwrGoodTimeout p => Sys2Proof.Machine.execPwrGoodTimeout p s
  | .spdReadDone p spd => Sys2Proof.Machine.execSpdReadDone p spd s
  | .initDone p rfm => Sys2Proof.Machine.execInitDone p rfm s
  | .zeroFillDone p => Sys2Proof.Machine.execZeroFillDone p s
  | .alert p => Sys2Proof.Machine.execAlert p s
  | .alertRise p clocks => Sys2Proof.Machine.execAlertRise p clocks s
  | .alertRecoveryDone p trainOk => Sys2Proof.Machine.execAlertRecoveryDone p trainOk s
  | .commandKnownGood p => Sys2Proof.Machine.execCommandKnownGood p s
  | .pwrGoodLost p => Sys2Proof.Machine.execPwrGoodLost p s
  | .autoSelfRefresh p => Sys2Proof.Machine.execAutoSelfRefresh p s
  | .selfRefreshExit p => Sys2Proof.Machine.execSelfRefreshExit p s
  | .zqStart p rank => Sys2Proof.Machine.execZqStart p rank s
  | .zqLatch p rank => Sys2Proof.Machine.execZqLatch p rank s
  | .dimmTempPoll p t0 t1 => Sys2Proof.Machine.execDimmTempPoll p t0 t1 s
  | .dpCntClear p v => Sys2Proof.Machine.execDpCntClear p v s
  | .linkup p rx tx => Sys2Proof.Machine.execLinkup p rx tx s
  | .laneLockLoss p lane => Sys2Proof.Machine.execLaneLockLoss p lane s
  | .laneWeak p lane symbols uncorrectable => Sys2Proof.Machine.execLaneWeak p lane symbols uncorrectable s
  | .spareSwitch p dir => Sys2Proof.Machine.execSpareSwitch p dir s
  | .takeoverTimeout p dir => Sys2Proof.Machine.execTakeoverTimeout p dir s
  | .recalTurn p dir => Sys2Proof.Machine.execRecalTurn p dir s
  | .recalReturn p dir runs => Sys2Proof.Machine.execRecalReturn p dir runs s
  | .relink p seq => Sys2Proof.Machine.execRelink p seq s
  | .linkTimeout p => Sys2Proof.Machine.execLinkTimeout p s
  | .rateChange p => Sys2Proof.Machine.execRateChange p s
  | .packetCrcFail p => Sys2Proof.Machine.execPacketCrcFail p s
  | .nakRepeat p => Sys2Proof.Machine.execNakRepeat p s
  | .nak p ack => Sys2Proof.Machine.execNak p ack s
  | .creditAck p ack ctlcr => Sys2Proof.Machine.execCreditAck p ack ctlcr s
  | .packetReserved p => Sys2Proof.Machine.execPacketReserved p s
  | .readDataPacket p sub stamp poison data => Sys2Proof.Machine.execReadDataPacket p sub stamp poison data s
  | .readDataLost p id => Sys2Proof.Machine.execReadDataLost p id s
  | .refuse p code sub stamp => Sys2Proof.Machine.execRefuse p code sub stamp s
  | .cap p index content => Sys2Proof.Machine.execCap p index content s
  | .err p kind sub stamp sym => Sys2Proof.Machine.execErr p kind sub stamp sym s
  | .alertPacket p channel crc stamp => Sys2Proof.Machine.execAlertPacket p channel crc stamp s
  | .temp p t valid => Sys2Proof.Machine.execTemp p t valid s
  | .laneFault p lane weak => Sys2Proof.Machine.execLaneFault p lane weak s
  | .regData p reg val => Sys2Proof.Machine.execRegData p reg val s
  | .mrrData p stamp val sub => Sys2Proof.Machine.execMrrData p stamp val sub s
  | .pwr p dimms => Sys2Proof.Machine.execPwr p dimms s
  | .resume p seq lost sr => Sys2Proof.Machine.execResume p seq lost sr s
  | .codeUpdate p => Sys2Proof.Machine.execCodeUpdate p s
  | .slCntClear p v => Sys2Proof.Machine.execSlCntClear p v s
  | .laneSoak p lane r => Sys2Proof.Machine.execLaneSoak p lane r s
  | .trackingRound p => Sys2Proof.Machine.execTrackingRound p s
  | .trackReadPause p ms => Sys2Proof.Machine.execTrackReadPause p ms s
  | .trackWritePause p ms err0 err1 => Sys2Proof.Machine.execTrackWritePause p ms err0 err1 s
  | .trackOscPause p ms => Sys2Proof.Machine.execTrackOscPause p ms s
  | .driftClamp p lane => Sys2Proof.Machine.execDriftClamp p lane s
  | .trCntClear p v => Sys2Proof.Machine.execTrCntClear p v s
  | .gatherClose p e => Sys2Proof.Machine.execGatherClose p e s
  | .rmwReadDone p e err => Sys2Proof.Machine.execRmwReadDone p e err s
  | .scrubVisit p => Sys2Proof.Machine.execScrubVisit p s
  | .scrubVisitDone p err => Sys2Proof.Machine.execScrubVisitDone p err s
  | .ceWindowExpire p => Sys2Proof.Machine.execCeWindowExpire p s
  | .ceThRaise p => Sys2Proof.Machine.execCeThRaise p s
  | .logTailWrite k v => Sys2Proof.Machine.execLogTailWrite k v s
  | .elLostClear v => Sys2Proof.Machine.execElLostClear v s
  | .ecCntClear p v => Sys2Proof.Machine.execEcCntClear p v s
  | .remapAdd p v => Sys2Proof.Machine.execRemapAdd p v s
  | .remapCopyLine p err => Sys2Proof.Machine.execRemapCopyLine p err s
  | .marchStart => Sys2Proof.Machine.execMarchStart s
  | .marchAbort => Sys2Proof.Machine.execMarchAbort s
  | .marchEnd fails => Sys2Proof.Machine.execMarchEnd fails s
  | .spadClear v => Sys2Proof.Machine.execSpadClear v s
  | .stallEnable => Sys2Proof.Machine.execStallEnable s
  | .stallDisable => Sys2Proof.Machine.execStallDisable s
  | .stallReset => Sys2Proof.Machine.execStallReset s
  | .stallFlushTimer st => Sys2Proof.Machine.execStallFlushTimer st s
  | .pairIdleRelease st => Sys2Proof.Machine.execPairIdleRelease st s
  | .stallSpillDone st => Sys2Proof.Machine.execStallSpillDone st s
  | .stallRefillDone st errs => Sys2Proof.Machine.execStallRefillDone st errs s
  | .stallFwaitResume st => Sys2Proof.Machine.execStallFwaitResume st s
  | .stallCloseWord st => Sys2Proof.Machine.execStallCloseWord st s
  | .pioPush v => Sys2Proof.Machine.execPioPush v s
  | .pioPop v => Sys2Proof.Machine.execPioPop v s
  | .pioPopDone => Sys2Proof.Machine.execPioPopDone s
  | .stEcntClear v => Sys2Proof.Machine.execStEcntClear v s
  | .stErrClear v => Sys2Proof.Machine.execStErrClear v s
  | .rds h ecc => Sys2Proof.Machine.execRds h ecc s
  | .rdu h ecc => Sys2Proof.Machine.execRdu h ecc s
  | .upg h ecc => Sys2Proof.Machine.execUpg h ecc s
  | .wb h d => Sys2Proof.Machine.execWb h d s
  | .rdo h ecc => Sys2Proof.Machine.execRdo h ecc s
  | .wru h d ecc => Sys2Proof.Machine.execWru h d ecc s
  | .atom h d ecc => Sys2Proof.Machine.execAtom h d ecc s
  | .ringBar h => Sys2Proof.Machine.execRingBar h s
  | .nrd h => Sys2Proof.Machine.execNrd h s
  | .nwr h d => Sys2Proof.Machine.execNwr h d s
  | .ringReqReserved h op => Sys2Proof.Machine.execRingReqReserved h op s
  | .ans h d => Sys2Proof.Machine.execAns h d s
  | .ack h => Sys2Proof.Machine.execAck h s
  | .snoopTimeout laddr => Sys2Proof.Machine.execSnoopTimeout laddr s
  | .agentReadmit v => Sys2Proof.Machine.execAgentReadmit v s
  | .homeCntClear v => Sys2Proof.Machine.execHomeCntClear v s
  | .ringDurClear v => Sys2Proof.Machine.execRingDurClear v s
  | .undefinedInstruction c w => Sys2Proof.Machine.execUndefinedInstruction c w s
  | .ifetchMissDone c err => Sys2Proof.Machine.execIfetchMissDone c err s
  | .ldlnDataArrive c err => Sys2Proof.Machine.execLdlnDataArrive c err s
  | .postedStoreDone c err => Sys2Proof.Machine.execPostedStoreDone c err s
  | .start c => Sys2Proof.Machine.execStart c s
  | .stop c => Sys2Proof.Machine.execStop c s
  | .contextReset c => Sys2Proof.Machine.execContextReset c s
  | .lnIcInvalidate v => Sys2Proof.Machine.execLnIcInvalidate v s
  | .programRamWrite word v => Sys2Proof.Machine.execProgramRamWrite word v s
  | .dataRamWrite word v => Sys2Proof.Machine.execDataRamWrite word v s
  | .lantDurClear c v => Sys2Proof.Machine.execLantDurClear c v s
  | .doorbell q v => Sys2Proof.Machine.execDoorbell q v s
  | .descriptorRead q => Sys2Proof.Machine.execDescriptorRead q s
  | .nop h => Sys2Proof.Machine.execNop h s
  | .train h failed => Sys2Proof.Machine.execTrain h failed s
  | .retrainTrack h => Sys2Proof.Machine.execRetrainTrack h s
  | .retrainCsca h failed => Sys2Proof.Machine.execRetrainCsca h failed s
  | .retrainFull h failed => Sys2Proof.Machine.execRetrainFull h failed s
  | .scrub h errs => Sys2Proof.Machine.execScrub h errs s
  | .march h fails => Sys2Proof.Machine.execMarch h fails s
  | .copy h errs => Sys2Proof.Machine.execCopy h errs s
  | .fill h => Sys2Proof.Machine.execFill h s
  | .checkpoint h => Sys2Proof.Machine.execCheckpoint h s
  | .warmVerify h errs => Sys2Proof.Machine.execWarmVerify h errs s
  | .rowRepairSoft h freeResource => Sys2Proof.Machine.execRowRepairSoft h freeResource s
  | .rowRepairHard h => Sys2Proof.Machine.execRowRepairHard h s
  | .linkLoop h => Sys2Proof.Machine.execLinkLoop h s
  | .fence h => Sys2Proof.Machine.execFence h s
  | .unfence h => Sys2Proof.Machine.execUnfence h s
  | .loadProgram h errs => Sys2Proof.Machine.execLoadProgram h errs s
  | .fedTimeSetArm h => Sys2Proof.Machine.execFedTimeSetArm h s
  | .fedTimeSetPulse h => Sys2Proof.Machine.execFedTimeSetPulse h s
  | .fedTimeSetTrim h => Sys2Proof.Machine.execFedTimeSetTrim h s
  | .completionPush q => Sys2Proof.Machine.execCompletionPush q s
  | .abort v => Sys2Proof.Machine.execAbort v s
  | .cfgFenceRequest fp => Sys2Proof.Machine.execCfgFenceRequest fp s
  | .cfgFenceRelease fp => Sys2Proof.Machine.execCfgFenceRelease fp s
  | .fenceDrained fp => Sys2Proof.Machine.execFenceDrained fp s
  | .fenceTimeout fp => Sys2Proof.Machine.execFenceTimeout fp s
  | .meterInterval events => Sys2Proof.Machine.execMeterInterval events s
  | .adcSample code => Sys2Proof.Machine.execAdcSample code s
  | .busTrip => Sys2Proof.Machine.execBusTrip s
  | .busClear => Sys2Proof.Machine.execBusClear s
  | .reserveLowTrip => Sys2Proof.Machine.execReserveLowTrip s
  | .reserveRelease => Sys2Proof.Machine.execReserveRelease s
  | .powerFailConfirm => Sys2Proof.Machine.execPowerFailConfirm s
  | .pfFlushDone => Sys2Proof.Machine.execPfFlushDone s
  | .pfCommit => Sys2Proof.Machine.execPfCommit s
  | .gaugeRebase => Sys2Proof.Machine.execGaugeRebase s
  | .packRemoval => Sys2Proof.Machine.execPackRemoval s
  | .packReturn => Sys2Proof.Machine.execPackReturn s
  | .chargerAdjust => Sys2Proof.Machine.execChargerAdjust s
  | .plannerRun => Sys2Proof.Machine.execPlannerRun s
  | .busReturnResume => Sys2Proof.Machine.execBusReturnResume s
  | .plnSlotpWrite v => Sys2Proof.Machine.execPlnSlotpWrite v s
  | .bbrWrite word v => Sys2Proof.Machine.execBbrWrite word v s
  | .energyReadLatch which => Sys2Proof.Machine.execEnergyReadLatch which s
  | .vbatLoss => Sys2Proof.Machine.execVbatLoss s
  | .idleE1 => Sys2Proof.Machine.execIdleE1 s
  | .idleE2 => Sys2Proof.Machine.execIdleE2 s
  | .wakeE0 src => Sys2Proof.Machine.execWakeE0 src s
  | .enterE1 src => Sys2Proof.Machine.execEnterE1 src s
  | .enterE2 src => Sys2Proof.Machine.execEnterE2 src s
  | .enterE3 src => Sys2Proof.Machine.execEnterE3 src s
  | .enterE4 src => Sys2Proof.Machine.execEnterE4 src s
  | .entryCommit t => Sys2Proof.Machine.execEntryCommit t s
  | .stateReached => Sys2Proof.Machine.execStateReached s
  | .prepTimeout t => Sys2Proof.Machine.execPrepTimeout t s
  | .wakeSource w => Sys2Proof.Machine.execWakeSource w s
  | .e3ExitDone => Sys2Proof.Machine.execE3ExitDone s
  | .domainOn v => Sys2Proof.Machine.execDomainOn v s
  | .domainOff v => Sys2Proof.Machine.execDomainOff v s
  | .domainOnDone d => Sys2Proof.Machine.execDomainOnDone d s
  | .portOff p src => Sys2Proof.Machine.execPortOff p src s
  | .portOn p src => Sys2Proof.Machine.execPortOn p src s
  | .portSelfRefresh p src => Sys2Proof.Machine.execPortSelfRefresh p src s
  | .portWake p src => Sys2Proof.Machine.execPortWake p src s
  | .portReset p src => Sys2Proof.Machine.execPortReset p src s
  | .softReset => Sys2Proof.Machine.execSoftReset s
  | .softResetTimeout => Sys2Proof.Machine.execSoftResetTimeout s
  | .engineReset => Sys2Proof.Machine.execEngineReset s
  | .engineResetRelease => Sys2Proof.Machine.execEngineResetRelease s
  | .powerOnReset => Sys2Proof.Machine.execPowerOnReset s
  | .supplyFailure => Sys2Proof.Machine.execSupplyFailure s
  | .pwrCntClear v => Sys2Proof.Machine.execPwrCntClear v s
  | .registerWrite off bytes v => Sys2Proof.Machine.execRegisterWrite off bytes v s
  | .globalBoundary => Sys2Proof.Machine.execGlobalBoundary s
  | .portBoundary p => Sys2Proof.Machine.execPortBoundary p s
  | .stallPacketBoundary st => Sys2Proof.Machine.execStallPacketBoundary st s
  | .cfgApplyHold v => Sys2Proof.Machine.execCfgApplyHold v s
  | .cfgCommit v => Sys2Proof.Machine.execCfgCommit v s
  | .crcPassEnd => Sys2Proof.Machine.execCrcPassEnd s
  | .cfgRejClear v => Sys2Proof.Machine.execCfgRejClear v s
  | .intSet hi v => Sys2Proof.Machine.execIntSet hi v s
  | .initialTrainingDone p failed timing => Sys2Proof.Machine.execInitialTrainingDone p failed timing s
  | .linkUpTimeout p => Sys2Proof.Machine.execLinkUpTimeout p s
  | .laneLockAcquired p lane => Sys2Proof.Machine.execLaneLockAcquired p lane s
  | .data h d => Sys2Proof.Machine.execData h d s
  | .tsCntClear p v => Sys2Proof.Machine.execTsCntClear p v s
  | .linkLoopDone p bitErrors => Sys2Proof.Machine.execLinkLoopDone p bitErrors s
  | .portStoppingDone p => Sys2Proof.Machine.execPortStoppingDone p s

end Sys2Proof.Machine
end

