-- ==== Sys2Proof/Machine/Reads.lean ====
section
/-!
DEFINITION. What a read of the register window returns (R455 to R457). A read changes nothing but the HI halves that the latching
rows latch, so it is a function of the state and no command of its own.
-/

namespace Sys2Proof.Machine

/-- ENG_ID and the capability registers (R469). -/
def identWord (s : State) (off : Nat) : Nat :=
  let v := s.part.variant
  let sum (n : Nat) (f : Nat → Bool) : Nat := (List.range n).foldl (fun a i => if f i then a + 2 ^ i else a) 0
  match off with
  | 0x00 => variantCode v + (if s.part.engine then 16 else 0) + s.part.device.val * 256 + s.part.stepping.toNat * 65536
  | 0x10 => sum 20 (portImpl v)
  | 0x14 => sum 32 (fabImpl v)
  | 0x18 => stallCount v + stallCount v / 256 * 2 ^ 17
  | 0x1C => ledgerEntries v
  | 0x20 => ctxCount v
  | 0x24 => spadBanks v
  | 0x28 => maxDramG v
  | _ => 0

/-- CFG_APPLY.PEND: some shadow differs from its value in force. -/
def cfgPend (s : State) : Bool :=
  (s.shadow.any fun e => match regFind e.1 with
    | some (d, _) => e.2.toNat &&& d.rs ≠ regAt s e.1 d.rst &&& d.rs
    | none => false)
  || s.stalls.any (fun e => match e.2.cfg1New with
    | some w => w ≠ e.2.cfg1
    | none => false)
  || s.en.slotpNew.any fun e => mgetD s.en.slotp e.1 0 ≠ e.2

/-- The register holds the value in force under CFG_RDSEL.FORCE, else the shadow (R456). -/
def forceReads (s : State) : Bool := flg s CFG_RDSEL_FORCE

/-- The per-stall window (R286); zero for an absent stall and in E3 and E4 (R457). -/
def stallWindow (s : State) (off : Nat) : Nat :=
  let a := selStall s
  let x := stallOf s a
  let b (c : Bool) (n : Nat) : Nat := if c then 2 ^ n else 0
  if stallCount s.part.variant ≤ a || s.pw.st.toNat ≥ 3 then 0
  else match off with
    | 0x380014 => x.baseLo.toNat
    | 0x380018 => x.baseHi.toNat
    | 0x38001C => x.cfg0.toNat
    | 0x380020 => (if forceReads s then x.cfg1 else x.cfg1New.getD x.cfg1).toNat
    | 0x380028 =>
      (match x.st with
        | .off => 0
        | .on => 1
        | .recover => 2)
        + b x.pair.isSome 2 + b x.pktOpen 3 + b x.skip 4 + b x.wait.isSome 5 + b x.redir.isSome 6 + b x.refused 7 + b x.ovr 8
    | 0x38002C => (x.redir.map BitVec.toNat).getD 0
    | 0x380030 => x.count
    | 0x380034 => x.errOver.toNat + x.errCe.toNat * 65536
    | _ => 0

/-- A register of a context (R351). LCTX_GDAT reads zero unless the context is STOPPED or HALTED. -/
def ctxWord (s : State) (c o : Nat) : Nat :=
  let x := ctxOf s c
  let still : Bool := x.st = .stopped || x.st = .halted
  let g := gpr x (BitVec.ofNat 5 (fld s LCTX_GSEL_G c))
  let lines := (x.acc.filter fun a => a.kind = 5 && a.res.isNone).length
  match o with
  | 0x00 => if x.priv then 4 else 0
  | 0x04 =>
    (match x.st with
      | .stopped => 0
      | .running => 1
      | .waiting => 2
      | .halted => 3)
      + (if x.pc.getLsbD 63 then 4 else 0) + (if x.handle.isSome then 8 else 0) + ((x.handle.map BitVec.toNat).getD 0) * 16
      + lines * 2 ^ 20
  | 0x08 => bits x.pc.toNat 0 32
  | 0x0C => bits x.pc.toNat 32 32
  | 0x10 => x.trapCode.toNat + (if x.trapValid then 256 else 0) + x.trapMstat.toNat * 4096
  | 0x14 => bits x.tpc.toNat 0 32
  | 0x18 => bits x.tpc.toNat 32 32
  | 0x1C => x.tinsn.toNat
  | 0x20 => x.prgBase.toNat + x.prgSize.toNat * 256
  | 0x24 => x.datBase.toNat + x.datSize.toNat * 256
  | 0x28 => fld s LCTX_GSEL_G c
  | 0x2C => if still then bits g.toNat 0 32 else 0
  | 0x30 => if still then bits g.toNat 32 32 else 0
  | 0x34 => x.codep.toNat
  | o => if 0x40 ≤ o && o < 0x4C then regAt s (0x80100 + c * 0x100 + o) 0 else 0

/-- EL_PTR of log k (R239). -/
def logPtr (s : State) (k : Nat) : Nat :=
  let l := mgetD s.logs k {}
  l.head.toNat + l.tail.toNat * 256 + logCount l * 65536 + l.lost.toNat * 2 ^ 24

/-- A word of a log entry (Table 9.5). -/
def logWord (s : State) (k slot w : Nat) : Nat :=
  match mget (mgetD s.logs k {}).slots slot with
  | none => 0
  | some e => (match w with
    | 0 => e.w0
    | 1 => e.w1
    | 2 => e.w2
    | _ => e.w3).toNat

/-- The quality record that TR_QSEL selects (R220). -/
def qualitySel (s : State) (p : Nat) : Option Quality :=
  let kind := fld s TR_QSEL_KIND p
  let key := if kind < 2 then qualKey kind (fld s TR_QSEL_BYTE p) (fld s TR_QSEL_SUB p) (fld s TR_QSEL_RANK p)
    else qualKey kind (fld s TR_QSEL_LANE p) 0 0
  if (kind < 2 && 4 < fld s TR_QSEL_BYTE p) || (2 ≤ kind && (8 < fld s TR_QSEL_LANE p || !serial p)) then none
  else mget (portOf s p).train.quality key

/-- TR_TRIM_DAT of the selected converter: FUSED, ACTIVE, CODE and OVR (R203). -/
def trimWord (s : State) (p : Nat) : Nat :=
  let k := fld s TR_TRIM_SEL_IDX p
  let t := (portOf s p).train
  let fused := if Config.fuseOk p then (Config.fusedTrim p k).toNat else 0x80
  if converters p ≤ k then 0
  else fused + ((mget t.active k).map BitVec.toNat).getD fused * 256 + overrideWord s p

/-- Fields of a port's block that State holds apart. -/
def portWord (s : State) (p o : Nat) : Option Nat :=
  let t := (portOf s p).prot
  match o with
  | 0x71C => some (match qualitySel s p with
    | none => 0
    | some q => q.width.toNat + q.height.toNat * 4096 + 2 ^ 22 + (if q.rej then 2 ^ 23 else 0) + min q.age 255 * 2 ^ 24)
  | 0x720 => some (match qualitySel s p with
    | none => 0
    | some q => q.resid.toNat)
  | 0x728 => some (trimWord s p)
  | 0x908 => some (portW s p)
  | 0x81C =>
    some (if (if isX8 s p then 4 else 9) < fld s EC_DEVSEL_DEV p then 0
      else mgetD t.devCnt (fld s EC_DEVSEL_K p * 16 + fld s EC_DEVSEL_DEV p) 0)
  | 0x850 => some (match mget t.remap (fld s RM_SEL_IDX p) with
    | none => 0
    | some r => r.key + (match r.st with
      | .copy => 1
      | .active => 2
      | .ret => 3) * 2 ^ 30)
  | _ => none

/-- HC_HSTATE of the selected slot (R356). -/
def handleWord (s : State) : Nat :=
  let h := mgetD s.host.handles (fld s HC_HSEL_SLOT) {}
  (match h.st with
    | .free => 0
    | .bound => 1
    | .queued => 2
    | .running => 3
    | .done => 4) + (if h.abreq then 8 else 0) + h.gen.toNat * 16 + h.queue.val * 256 + h.opc.toNat * 1024

/-- SR_STAT of the selected group (R246). -/
def spareWord (s : State) : Nat :=
  let g := mgetD s.sram (fld s SR_SEL_GROUP) {}
  g.spares.length + (if g.degraded then 32 else 0) + (g.lastErr.getD 0) * 65536

/-- HOME_STAT, HOME_LED_OCC and HOME_SUSPECT count what the home holds (R322). -/
def homeWord (s : State) (off : Nat) : Nat :=
  let entries := s.home.ledger.flatMap fun e => e.2
  match off with
  | 0xA0014 => s.part.ownStop.val + s.part.otherStop.val * 32
  | 0xA0018 => (if s.home.drain then 2 else 0) + trackersUsed s * 4 + min s.home.notes.length 512 * 4096
  | 0xA001C => entries.length
  | _ => (entries.filter fun w => w.suspect).length

/-- ST_GSTAT (R266). -/
def pairWord (s : State) : Nat :=
  pairCount s + (pairCount s - (s.stalls.filter fun e => e.2.pair.isSome).length) * 65536

/-- n domains from domain lo on, a bit for each that is on (R407, R431). -/
def domWord (s : State) (lo n : Nat) : Nat := (List.range n).foldl (fun m i => if domOn s (lo + i) then m + 2 ^ i else m) 0

/-- Registers that State holds apart. -/
def apartWord (s : State) (off : Nat) : Option Nat :=
  if off < 0x100 && off ≠ 4 then some (identWord s off)
  else if 0x380014 ≤ off && off < 0x380040 then some (stallWindow s off)
  else if 0x80100 ≤ off && off < 0x80500 then some (ctxWord s ((off - 0x80100) / 0x100) (off % 0x100))
  else if 0x60200 ≤ off && off < 0x60254 then some (logPtr s ((off - 0x60200) / 4))
  else if 0x64000 ≤ off && off < 0x66A00 then some (logWord s ((off - 0x64000) / 0x200) (off % 0x200 / 16) (off % 16 / 4))
  else if 0x200000 ≤ off && off < 0x340000 then portWord s ((off - 0x200000) / 0x10000) (off % 0x10000)
  else match off with
    | 0x110 => some (regAt s 0x100 0)
    | 0x114 => some (regAt s 0x104 0)
    | 0x118 => some (intLevel s)
    | 0x10000 => some (bits (countNow s).toNat 0 32)
    | 0x300D0 =>
      let k := fld s PLN_SEL_SLOT
      some (if 72 ≤ k then 0
        else (if forceReads s then mgetD s.en.slotp k 0 else mgetD s.en.slotpNew k (mgetD s.en.slotp k 0)).toNat)
    | 0x40018 => some (engineW s 1)
    | 0x4001C => some (engineW s 2)
    | 0x40020 => some (engineW s 3)
    | 0x40030 => some (domWord s 0 32)
    | 0x40034 => some (domWord s 32 19)
    | 0x60038 => some (spareWord s)
    | 0x90010 => some (handleWord s)
    | 0x380004 => some (pairWord s)
    | 0x380108 => some 0
    | 0xA0014 => some (homeWord s off)
    | 0xA0018 => some (homeWord s off)
    | 0xA001C => some (homeWord s off)
    | 0xA0030 => some (homeWord s off)
    | _ => none

/-- A register of Table 17.10: its word in force, with the staged fields from the shadow unless FORCE is set. -/
def plainWord (s : State) (off : Nat) : Nat :=
  match regFind off with
  | none => 0
  | some (d, i) =>
    let w := if forceReads s then regAt s off d.rst else overlay d.rs (stagedAt s off d.rst) (regAt s off d.rst)
    let w1 := unitBits s.part.variant off w
    if d.base = 0x200 then w1 + (if cfgPend s then 256 else 0)
    else if d.base = 0x21008 && fld s BR_CFG_LIMIT i + 1 ≤ fld s BR_STAT_OUT i then withBits w1 14 1 1
    else w1

/-- Program RAM and data RAM (R324, R329, R457). -/
def ramWord (s : State) (off : Nat) : Nat :=
  let w (m : SMap Byte) (a : Nat) : Nat := bytesAt m a 4
  if s.pw.st.toNat ≥ 3 || off < 0x120000 then 0
  else if off < 0x140000 then w s.lant.prog (off - 0x100000)
  else if off < 0x160000 then w s.lant.data (off - 0x140000)
  else 0

/-- What a 32-bit read of an offset returns. (Log 17: DESIGN CHOICE.) -/
def windowRead (s : State) (off : Nat) : Word :=
  if s.pw.inReset || off % 4 ≠ 0 then 0
  else if !unitThere s off then
    (if 0x200000 ≤ off && off < 0x240000 && off % 0x10000 = 0x808 && portImpl s.part.variant ((off - 0x200000) / 0x10000) then 0xFFFFFFFF else 0)
  else if 0x100000 ≤ off && off < 0x200000 then BitVec.ofNat 32 (ramWord s off)
  else if 0x50000 ≤ off && off < 0x51000 then BitVec.ofNat 32 (bbrWord s ((off - 0x50000) / 4))
  else BitVec.ofNat 32 ((apartWord s off).getD (plainWord s off))

/-- An access of another width, or not aligned, is logged and reads zero (R455). -/
def windowReadAny (s : State) (off bytes : Nat) : Word × State :=
  if s.pw.inReset then (0, s)
  else if bytes ≠ 4 || off % 4 ≠ 0 then (0, reject off 7 s)
  else if s.pw.st.toNat ≥ 3 && ((0x100000 ≤ off && off < 0x160000) || (0x380014 ≤ off && off < 0x380040)) then
    (0, if unitThere s off then reject off 8 s else s)
  else (windowRead s off, s)

end Sys2Proof.Machine
end

