-- ==== Sys2Proof/Safety.lean ====
section
/-!
DEFINITION. What counts as a safe run, the invariants of the engine, and the words in which claims state what a command does.
-/

namespace Sys2Proof.Machine

/-! ### Safe runs -/

/-- A run of n steps ends in neither a fault nor a refusal. -/
def SafeRun (n : Nat) (s : State) : Prop := ∃ t, Host.Core.run Sys2Proof.core n s = .next t

/-! ### The canonical form of memory -/

/-- The keys of a table rise strictly. -/
abbrev Rising {α : Type} (m : SMap α) : Prop := (m.map fun e => e.1).Pairwise (· < ·)

/-- A byte table is in canonical form: rising addresses, and no entry equal to what an unlisted address reads as. -/
abbrev Memory.wf (m : SMap Byte) : Prop := Rising m ∧ ∀ e ∈ m, e.2 ≠ 0

/-- Every addressed memory of the engine is in canonical form: DRAM, scratchpad, Lantern's program and data RAM. -/
abbrev MemOk (s : State) : Prop :=
  Memory.wf s.dram ∧ Memory.wf s.spad ∧ Memory.wf s.lant.prog ∧ Memory.wf s.lant.data

/-- A byte of a table as it reads. (Log 8: DESIGN CHOICE.) -/
def byteAt (m : SMap Byte) (a : Nat) : Byte := mgetD m a 0

/-! ### A settled engine -/

/-- Nothing waits that the engine does without a command: no fabric port is in use, no context has a step to take, no launch stream
runs, no handle is in use, and no slot's eligibility has changed. -/
abbrev Quiet (s : State) : Prop :=
  eligSlots s = s.en.elig ∧ s.fab = [] ∧ s.ports.all (fun e => e.2.streams.isEmpty) = true ∧ s.host.handles = [] ∧
  lantStep 0 s = none ∧ lantStep 1 s = none ∧ lantStep 2 s = none ∧ lantStep 3 s = none

/-! ### Lantern (chapter 12) -/

/-- Context c is running, and the next word of its program is w (R325 to R328). -/
abbrev Issues (s : State) (c : Fin 4) (w : Word) : Prop :=
  ctxImpl s c.val = true ∧ (ctxOf s c.val).st = .running ∧ lantClock s = true ∧ fetch s c.val = .word w

/-- Only Lantern differs, and in it neither its memories nor any context but c. -/
def OnlyCtx (c : Fin 4) (s t : State) : Prop :=
  { t with lant := s.lant } = s ∧ t.lant.prog = s.lant.prog ∧ t.lant.data = s.lant.data ∧ t.lant.progBad = s.lant.progBad ∧
  t.lant.dataBad = s.lant.dataBad ∧ ∀ d : Fin 4, d ≠ c → ctxOf t d.val = ctxOf s d.val

/-- Context c has completed an instruction: its PC is pc, and it is running, or stopped where a STOP waited. -/
def Completed (c : Fin 4) (s t : State) (pc : W64) : Prop :=
  (ctxOf t c.val).pc = pc ∧ (ctxOf t c.val).wait = .none ∧
  (ctxOf t c.val).st = if (ctxOf s c.val).stopReq then .stopped else .running

/-- The registers of context c are as before, but for rd, which holds v; g0 reads zero whatever is written. -/
def Writes (c : Fin 4) (s t : State) (rd : BitVec 5) (v : W64) : Prop :=
  gpr (ctxOf t c.val) rd = (if rd = 0 then 0 else v) ∧ ∀ r, r ≠ rd → gpr (ctxOf t c.val) r = gpr (ctxOf s c.val) r

/-- The special registers that an instruction writes only where its rule says so, with its windows and its accesses. -/
def SpecialsKept (c : Fin 4) (s t : State) : Prop :=
  let x := ctxOf s c.val
  let y := ctxOf t c.val
  y.trapen = x.trapen ∧ y.mst = x.mst ∧ y.tblat = x.tblat ∧ y.eqHigh = x.eqHigh ∧ y.handle = x.handle ∧ y.priv = x.priv ∧ y.prgBase = x.prgBase ∧
  y.prgSize = x.prgSize ∧ y.datBase = x.datBase ∧ y.datSize = x.datSize ∧ y.acc = x.acc ∧ y.failedLines = x.failedLines ∧
  y.trapCode = x.trapCode ∧ y.trapValid = x.trapValid ∧ y.trapMstat = x.trapMstat ∧ y.tpc = x.tpc ∧ y.tinsn = x.tinsn ∧
  y.resetReq = x.resetReq ∧ y.ordNum = x.ordNum

/-- FLAGS after an ALU instruction with result r, carry cy and V condition v (R335): Z, N, V and C only where SF is 1; DZ stays; OV is
set by the V condition. -/
def flagsAfter (old : BitVec 6) (sf : BitVec 1) (r : W64) (cy v : Bool) : BitVec 6 :=
  let pick (new : Bool) (i : Nat) : Bool := if sf = 1 then new else old.getLsbD i
  BitVec.ofBool (old.getLsbD 5 || v) ++ BitVec.ofBool (old.getLsbD 4) ++ BitVec.ofBool (pick cy 3) ++ BitVec.ofBool (pick v 2) ++
    BitVec.ofBool (pick (decide (r.toInt < 0)) 1) ++ BitVec.ofBool (pick (decide (r = 0)) 0)

/-- An instruction of context c has completed with nothing changed but PC, rd, which holds r, and FLAGS, which hold fl. -/
def RegEffect (c : Fin 4) (s t : State) (pc : W64) (rd : BitVec 5) (r : W64) (fl : BitVec 6) : Prop :=
  OnlyCtx c s t ∧ Completed c s t pc ∧ Writes c s t rd r ∧ SpecialsKept c s t ∧ (ctxOf t c.val).flags = fl

/-- The instruction i of context c, whose word is w, runs where it is issued; P says what its next state is before the engine settles. -/
def Runs (s : State) (c : Fin 4) (i : Instr) (w : Word) (P : State → Prop) : Prop :=
  Issues s c w → ∃ t, exec i s = .next (settle t) ∧ P t

/-- An ALU instruction that completes: the next PC, the result r in rd, and the flags of R335. -/
def AluRuns (s : State) (c : Fin 4) (i : Instr) (w : Word) (rd : BitVec 5) (sf : BitVec 1) (r : W64) (cy v : Bool) : Prop :=
  Runs s c i w fun t => RegEffect c s t ((ctxOf s c.val).pc + 4) rd r (flagsAfter (ctxOf s c.val).flags sf r cy v)

/-- A branch or jump that completes at PC pc and writes v to rd. -/
def JumpRuns (s : State) (c : Fin 4) (i : Instr) (w : Word) (pc : W64) (rd : BitVec 5) (v : W64) : Prop :=
  Runs s c i w fun t => RegEffect c s t pc rd v (ctxOf s c.val).flags

/-- Context c has trapped with code and status (R349): it is halted, its record holds the instruction and its address, and its registers,
flags and windows are as before; no memory has changed. -/
def Trapped (c : Fin 4) (s t : State) (code : Nat) (insn : Word) (mstat : BitVec 4) : Prop :=
  let x := ctxOf s c.val
  let y := ctxOf t c.val
  y.st = .halted ∧ y.trapValid = true ∧ y.trapCode = BitVec.ofNat 8 code ∧ y.trapMstat = mstat ∧ y.tpc = x.pc ∧ y.tinsn = insn ∧ y.pc = x.pc ∧
  y.g = x.g ∧ y.flags = x.flags ∧ y.trapen = x.trapen ∧ y.mst = x.mst ∧ y.tblat = x.tblat ∧ y.handle = x.handle ∧ y.acc = x.acc ∧
  bits (regAt t 0x104 0) 0 1 = 1 ∧ (∀ l, rsvHolds t (.lant c) l = false) ∧
  t.dram = s.dram ∧ t.spad = s.spad ∧ t.lant.prog = s.lant.prog ∧ t.lant.data = s.lant.data ∧ t.ports = s.ports ∧ t.stalls = s.stalls ∧
  t.fab = s.fab ∧ t.host = s.host ∧ ∀ d : Fin 4, d ≠ c → ctxOf t d.val = ctxOf s d.val

/-- u is s with what the issue of the word w by context c records: the word, its code ports, and the order of the cache (R348). -/
def Begun (c : Fin 4) (w : Word) (s u : State) : Prop :=
  OnlyCtx c s u ∧ ctxOf u c.val = { ctxOf s c.val with cur := w, codep := (ctxOf u c.val).codep }

/-- The instruction i of context c, whose word is w, runs where it is issued; P relates the state in which its body begins to its next
state before the engine settles. -/
def Takes (s : State) (c : Fin 4) (i : Instr) (w : Word) (P : State → State → Prop) : Prop :=
  Issues s c w → ∃ u t, Begun c w s u ∧ exec i s = .next (settle t) ∧ P u t

/-- Context c may touch the n bytes of data RAM at offset a of its window (R329, R341, R342): inside, aligned, no LDLN fills the line, none
failed, and for a load the parity is good. -/
abbrev CanTouch (s : State) (c : Fin 4) (a n : Nat) (load : Bool) : Prop :=
  a + n ≤ datSize s c.val ∧ a % n = 0 ∧ lineBusy (ctxOf s c.val) ((datBase s c.val + a) / 64) = false ∧
  (load = true → ∀ i < n, s.lant.dataBad.contains (datBase s c.val + a + i) = false) ∧
  (ctxOf s c.val).failedLines.contains ((datBase s c.val + a) / 64) = false

/-- An instruction of context c has stored the low n bytes of v at data RAM offset a, least significant byte first, with good parity, and has
changed no other byte, no register and no flag. -/
def Stored (c : Fin 4) (s t : State) (a n : Nat) (v : W64) : Prop :=
  { t with lant := s.lant } = s ∧ t.lant.prog = s.lant.prog ∧ t.lant.progBad = s.lant.progBad ∧
  (∀ d : Fin 4, d ≠ c → ctxOf t d.val = ctxOf s d.val) ∧ Completed c s t ((ctxOf s c.val).pc + 4) ∧ SpecialsKept c s t ∧
  (ctxOf t c.val).g = (ctxOf s c.val).g ∧ (ctxOf t c.val).flags = (ctxOf s c.val).flags ∧
  (∀ k, byteAt t.lant.data k = if a ≤ k ∧ k < a + n then v.extractLsb' (8 * (k - a)) 8 else byteAt s.lant.data k) ∧
  ∀ k, t.lant.dataBad.contains k = (s.lant.dataBad.contains k && !(decide (a ≤ k) && decide (k < a + n)))

/-- Context c has handed an access of kind `kind` on address a to the memory path (R341): it is listed under its number, the line operation is
placed, and then `fin` applies. Nothing of the context but its list of accesses differs before that. -/
def Handed (c : Fin 4) (u t : State) (kind a dat : Nat) (op : LineOp) (fin : Nat → State → State) : Prop :=
  ∃ v num attr, t = fin num (lineAccess (.lant c num) (a / 64 * 64) op attr v) ∧
    ctxOf v c.val = { ctxOf u c.val with acc := (ctxOf u c.val).acc ++ [{ num := num, kind := kind, addr := a, dat := dat, attr := attr }] } ∧
    v.dram = u.dram ∧ v.spad = u.spad ∧ v.ports = u.ports ∧ v.home = u.home ∧ v.lant.prog = u.lant.prog ∧ v.lant.data = u.lant.data ∧
    v.part = u.part ∧ v.stalls = u.stalls

/-- Only TBLAT and the words of EQ differ besides what a register effect changes. -/
def Latched (c : Fin 4) (s t : State) (rd : BitVec 5) (v lat high : W64) : Prop :=
  OnlyCtx c s t ∧ Completed c s t ((ctxOf s c.val).pc + 4) ∧ Writes c s t rd v ∧ (ctxOf t c.val).flags = (ctxOf s c.val).flags ∧
  (ctxOf t c.val).tblat = lat ∧ (ctxOf t c.val).eqHigh = high ∧ (ctxOf t c.val).handle = (ctxOf s c.val).handle ∧
  (ctxOf t c.val).mst = (ctxOf s c.val).mst ∧ (ctxOf t c.val).trapen = (ctxOf s c.val).trapen ∧ (ctxOf t c.val).acc = (ctxOf s c.val).acc

/-- The value v of ra names port p, which is implemented, and an implemented rank of it, with no bit above its fields (R347). -/
abbrev NamesRank (s : State) (v : Nat) : Prop :=
  v < 2 ^ 12 ∧ bits v 0 5 < 20 ∧ portImpl s.part.variant (bits v 0 5) = true ∧ rankThere s (ctlTarget v).port (ctlTarget v).loc = true

/-- Context c may run a DRAM control instruction (R347). -/
abbrev MayControl (s : State) (c : Fin 4) : Prop := c = 0 ∨ (ctxOf s c.val).priv = true

/-- Address a lies in DRAM of a port. -/
abbrev InDram (s : State) (a : Nat) : Prop := (match target s a with
  | .dram _ _ => true
  | _ => false) = true

/-! ### Commands in general -/

/-- The command i answers the next state t, settled. -/
abbrev Does (s : State) (i : Instr) (t : State) : Prop := exec i s = .next (settle t)

/-- The command i answers the next state t as it stands. -/
abbrev Gives (s : State) (i : Instr) (t : State) : Prop := exec i s = .next t

/-- The command i answers a settled next state of which P holds before it settles. -/
def Makes (s : State) (i : Instr) (P : State → Prop) : Prop := ∃ t, exec i s = .next (settle t) ∧ P t

/-- Port p is implemented. -/
abbrev PortHere (s : State) (p : Fin 20) : Prop := portImpl s.part.variant p.val = true

/-- The four addressed memories are as before. -/
abbrev SameBytes (s t : State) : Prop :=
  t.dram = s.dram ∧ t.spad = s.spad ∧ t.lant.prog = s.lant.prog ∧ t.lant.data = s.lant.data

end Sys2Proof.Machine
end

