-- ==== Sys2Proof/Certificates/Slice0/Obligations.lean ====
section
/-!
DEFINITION. The statements for the provers. A statement of what a command does reads: where its conditions hold, `exec` answers the next
state `settle t`, and t is what the rules give; `settle` then does what fabric ports, contexts, streams and handles do without a
command, and leaves an engine in which nothing of that waits as it is (`Settling`).
-/

open Sys2Proof Sys2Proof.Machine

/-! ### Lantern (chapter 12) -/

/-- Arithmetic with a carry or an overflow (R335, R336, Table 12.7): ADD, SUB, ADC, SBC, NEG and MUL complete with the table's result, C and
V; every other register, flag and byte is as before. -/
def Obligations.LanternArithmetic : Prop :=
  ∀ (s : State) (c : Fin 4) (rd ra rb : BitVec 5) (sf : BitVec 1),
    let x := ctxOf s c.val
    let a := gpr x ra
    let b := gpr x rb
    let k : Nat := if ctxC x then 1 else 0
    AluRuns s c (.add c rd ra rb sf 0) (encR 1 rd ra rb sf 0 0x00) rd sf (a + b)
      (2 ^ 64 ≤ a.toNat + b.toNat) ((a + b).toInt ≠ a.toInt + b.toInt) ∧
    AluRuns s c (.sub c rd ra rb sf 0) (encR 1 rd ra rb sf 0 0x01) rd sf (a - b)
      (b.toNat ≤ a.toNat) ((a - b).toInt ≠ a.toInt - b.toInt) ∧
    AluRuns s c (.adc c rd ra rb sf 0) (encR 1 rd ra rb sf 0 0x1B) rd sf (a + b + BitVec.ofNat 64 k)
      (2 ^ 64 ≤ a.toNat + b.toNat + k) ((a + b + BitVec.ofNat 64 k).toInt ≠ a.toInt + b.toInt + k) ∧
    AluRuns s c (.sbc c rd ra rb sf 0) (encR 1 rd ra rb sf 0 0x1C) rd sf (a - b - BitVec.ofNat 64 (1 - k))
      (b.toNat + (1 - k) ≤ a.toNat) ((a - b - BitVec.ofNat 64 (1 - k)).toInt ≠ a.toInt - b.toInt - (1 - (k : Int))) ∧
    AluRuns s c (.neg c rd ra 0 sf 0) (encR 1 rd ra 0 sf 0 0x0F) rd sf (-a) (a = 0) (a = 0x8000000000000000) ∧
    AluRuns s c (.mul c rd ra rb sf 0) (encR 1 rd ra rb sf 0 0x10) rd sf (a * b)
      (2 ^ 64 ≤ a.toNat * b.toNat) ((a * b).toInt ≠ a.toInt * b.toInt)

/-- The other operations of Table 12.7 but division (R335, R336): each completes with its result, C and V zero where SF is 1. Shift amounts
are never taken modulo 64 (R337). CLZ and CTZ count the zeros before the first one, 64 where there is none. Readings of the model in it: log
entry 41. -/
def Obligations.LanternLogic : Prop :=
  ∀ (s : State) (c : Fin 4) (rd ra rb : BitVec 5) (sf : BitVec 1),
    let a := gpr (ctxOf s c.val) ra
    let b := gpr (ctxOf s c.val) rb
    let op (i : Instr) (fn : Nat) (r : W64) : Prop := AluRuns s c i (encR 1 rd ra rb sf 0 fn) rd sf r false false
    let un (i : Instr) (fn : Nat) (r : W64) : Prop := AluRuns s c i (encR 1 rd ra 0 sf 0 fn) rd sf r false false
    op (.and c rd ra rb sf 0) 0x02 (a &&& b) ∧ op (.or c rd ra rb sf 0) 0x03 (a ||| b) ∧ op (.xor c rd ra rb sf 0) 0x04 (a ^^^ b) ∧
    op (.andn c rd ra rb sf 0) 0x05 (a &&& ~~~b) ∧
    op (.sll c rd ra rb sf 0) 0x06 (if 64 ≤ b.toNat then 0 else a <<< b.toNat) ∧
    op (.srl c rd ra rb sf 0) 0x07 (if 64 ≤ b.toNat then 0 else a >>> b.toNat) ∧
    op (.sra c rd ra rb sf 0) 0x08 (if 64 ≤ b.toNat then (if a.msb then BitVec.allOnes 64 else 0) else a.sshiftRight b.toNat) ∧
    op (.slt c rd ra rb sf 0) 0x09 (if a.toInt < b.toInt then 1 else 0) ∧
    op (.sltu c rd ra rb sf 0) 0x0A (if a.toNat < b.toNat then 1 else 0) ∧
    op (.min c rd ra rb sf 0) 0x0B (if a.toInt < b.toInt then a else b) ∧ op (.max c rd ra rb sf 0) 0x0C (if a.toInt < b.toInt then b else a) ∧
    op (.minu c rd ra rb sf 0) 0x0D (if a.toNat < b.toNat then a else b) ∧ op (.maxu c rd ra rb sf 0) 0x0E (if a.toNat < b.toNat then b else a) ∧
    op (.mulh c rd ra rb sf 0) 0x11 ((a.signExtend 128 * b.signExtend 128).extractLsb' 64 64) ∧
    op (.mulhu c rd ra rb sf 0) 0x12 ((a.setWidth 128 * b.setWidth 128).extractLsb' 64 64) ∧
    un (.popc c rd ra 0 sf 0) 0x19 (BitVec.ofNat 64 ((List.range 64).filter fun i => a.getLsbD i).length) ∧
    (∀ n ≤ 64, (∀ i < n, a.getLsbD (63 - i) = false) → (n < 64 → a.getLsbD (63 - n) = true) →
      un (.clz c rd ra 0 sf 0) 0x17 (BitVec.ofNat 64 n)) ∧
    (∀ n ≤ 64, (∀ i < n, a.getLsbD i = false) → (n < 64 → a.getLsbD n = true) → un (.ctz c rd ra 0 sf 0) 0x18 (BitVec.ofNat 64 n)) ∧
    AluRuns s c (.sext c rd ra 0 sf 0) (encR 1 rd ra 0 sf 0 0x1A) rd sf ((a.setWidth 8).signExtend 64) false false ∧
    AluRuns s c (.sext c rd ra 0 sf 1) (encR 1 rd ra 0 sf 1 0x1A) rd sf ((a.setWidth 16).signExtend 64) false false ∧
    AluRuns s c (.sext c rd ra 0 sf 2) (encR 1 rd ra 0 sf 2 0x1A) rd sf ((a.setWidth 32).signExtend 64) false false

/-- Division (R337, Table 12.7). By a divisor that is not zero: quotient truncated towards zero, remainder with the sign of the dividend, V
only for the least number by minus one. By zero with TRAPEN.DZ clear: quotient zero, remainder the dividend, and DZ is set. By zero with
TRAPEN.DZ set: the instruction traps DZ and writes nothing but that flag. -/
def Obligations.LanternDivision : Prop :=
  ∀ (s : State) (c : Fin 4) (rd ra rb : BitVec 5) (sf : BitVec 1),
    let x := ctxOf s c.val
    let a := gpr x ra
    let b := gpr x rb
    let min64 : W64 := 0x8000000000000000
    let op (i : Instr) (fn : Nat) (r : W64) (v : Bool) : Prop := AluRuns s c i (encR 1 rd ra rb sf 0 fn) rd sf r false v
    let zero (i : Instr) (fn : Nat) (r : W64) : Prop := Runs s c i (encR 1 rd ra rb sf 0 fn) fun t =>
      RegEffect c s t (x.pc + 4) rd r (flagsAfter (x.flags ||| 16) sf r false false)
    let trap (i : Instr) (fn : Nat) : Prop := Runs s c i (encR 1 rd ra rb sf 0 fn) fun t =>
      (ctxOf t c.val).flags = x.flags ||| 16 ∧ Trapped c (modCtx c.val (fun y => { y with flags := y.flags ||| 16 }) s) t 11
        (encR 1 rd ra rb sf 0 fn) 0
    (b ≠ 0 →
      op (.div c rd ra rb sf 0) 0x13 (BitVec.ofInt 64 (Int.tdiv a.toInt b.toInt)) (a = min64 ∧ b = -1) ∧
      op (.divu c rd ra rb sf 0) 0x14 (a / b) false ∧
      op (.rem c rd ra rb sf 0) 0x15 (a - b * BitVec.ofInt 64 (Int.tdiv a.toInt b.toInt)) false ∧
      op (.remu c rd ra rb sf 0) 0x16 (a % b) false) ∧
    (b = 0 → x.trapen.getLsbD 0 = false →
      zero (.div c rd ra rb sf 0) 0x13 0 ∧ zero (.divu c rd ra rb sf 0) 0x14 0 ∧ zero (.rem c rd ra rb sf 0) 0x15 a ∧
      zero (.remu c rd ra rb sf 0) 0x16 a) ∧
    (b = 0 → x.trapen.getLsbD 0 = true →
      trap (.div c rd ra rb sf 0) 0x13 ∧ trap (.divu c rd ra rb sf 0) 0x14 ∧ trap (.rem c rd ra rb sf 0) 0x15 ∧
      trap (.remu c rd ra rb sf 0) 0x16)

/-- Immediate instructions (R338, Table 12.8): each completes with its result; ADDI sets OV on signed overflow and no other flag, CMPI sets
the flags of SUB and writes nothing, the others leave the flags. The undefined kind of SHI traps ILLEGAL; a reserved field that is not zero
traps RSVD. -/
def Obligations.LanternImmediates : Prop :=
  ∀ (s : State) (c : Fin 4) (rd ra : BitVec 5) (imm : BitVec 16),
    let x := ctxOf s c.val
    let a := gpr x ra
    let sx : W64 := imm.signExtend 64
    let zx : W64 := imm.setWidth 64
    let op (i : Instr) (major : Nat) (r : W64) : Prop := AluRuns s c i (encI major rd ra imm) rd 0 r false false
    let trap (i : Instr) (major code : Nat) : Prop := Runs s c i (encI major rd ra imm) fun t => Trapped c s t code (encI major rd ra imm) 0
    AluRuns s c (.addi c rd ra imm) (encI 0x02 rd ra imm) rd 0 (a + sx) false ((a + sx).toInt ≠ a.toInt + sx.toInt) ∧
    op (.andi c rd ra imm) 0x03 (a &&& zx) ∧ op (.ori c rd ra imm) 0x04 (a ||| zx) ∧ op (.xori c rd ra imm) 0x05 (a ^^^ zx) ∧
    op (.slti c rd ra imm) 0x09 (if a.toInt < sx.toInt then 1 else 0) ∧ op (.sltiu c rd ra imm) 0x0A (if a.toNat < sx.toNat then 1 else 0) ∧
    AluRuns s c (.cmpi c 0 ra imm) (encI 0x0B 0 ra imm) 0 1 (a - sx) (sx.toNat ≤ a.toNat) ((a - sx).toInt ≠ a.toInt - sx.toInt) ∧
    (imm.extractLsb' 7 7 = 0 →
      let n := (imm.extractLsb' 0 7).toNat
      (imm.extractLsb' 14 2 = 0 → op (.shi c rd ra imm) 0x06 (if 64 ≤ n then 0 else a <<< n)) ∧
      (imm.extractLsb' 14 2 = 1 → op (.shi c rd ra imm) 0x06 (if 64 ≤ n then 0 else a >>> n)) ∧
      (imm.extractLsb' 14 2 = 2 →
        op (.shi c rd ra imm) 0x06 (if 64 ≤ n then (if a.msb then BitVec.allOnes 64 else 0) else a.sshiftRight n))) ∧
    (ra.toNat < 4 →
      op (.hsetz c rd ra imm) 0x07 (zx <<< (16 * ra.toNat)) ∧
      op (.hins c rd ra imm) 0x08 ((gpr x rd &&& ~~~((0xFFFF : W64) <<< (16 * ra.toNat))) ||| (zx <<< (16 * ra.toNat)))) ∧
    (imm.extractLsb' 14 2 = 3 → trap (.shi c rd ra imm) 0x06 1) ∧
    (imm.extractLsb' 14 2 ≠ 3 → imm.extractLsb' 7 7 ≠ 0 → trap (.shi c rd ra imm) 0x06 2) ∧
    (4 ≤ ra.toNat → trap (.hsetz c rd ra imm) 0x07 2 ∧ trap (.hins c rd ra imm) 0x08 2) ∧ (rd ≠ 0 → trap (.cmpi c rd ra imm) 0x0B 2)

/-- Branches and jumps (R339, Table 12.9): a taken branch goes to its own PC plus four times its signed offset, another goes on; JAL and
JALR write PC + 4; no flag and no other register changes. A JALR whose target is misaligned traps ALIGN. -/
def Obligations.LanternBranches : Prop :=
  ∀ (s : State) (c : Fin 4) (rd ra rb : BitVec 5) (cond : BitVec 4) (off imm : BitVec 16) (far : BitVec 26),
    let x := ctxOf s c.val
    let a := gpr x ra
    let b := gpr x rb
    let next := x.pc + 4
    let dest := x.pc + 4 * off.signExtend 64
    let br (i : Instr) (major : Nat) (taken : Bool) : Prop := JumpRuns s c i (encB major ra rb off) (if taken then dest else next) 0 0
    let z := x.flags.getLsbD 0
    let n := x.flags.getLsbD 1
    let v := x.flags.getLsbD 2
    let cy := x.flags.getLsbD 3
    let conds : List Bool := [true, z, !z, n, !n, cy, !cy, v, !v, cy && !z, !cy || z, n == v, n != v, !z && n == v, z || n != v]
    (∀ k, conds[cond.toNat]? = some k →
      JumpRuns s c (.bc c cond 0 off) (encC 0x10 cond 0 off) (if k then dest else next) 0 0) ∧
    br (.beq c ra rb off) 0x11 (a = b) ∧ br (.bne c ra rb off) 0x12 (a ≠ b) ∧
    br (.blt c ra rb off) 0x13 (a.toInt < b.toInt) ∧ br (.bge c ra rb off) 0x14 (b.toInt ≤ a.toInt) ∧
    br (.bltu c ra rb off) 0x15 (a.toNat < b.toNat) ∧ br (.bgeu c ra rb off) 0x16 (b.toNat ≤ a.toNat) ∧
    JumpRuns s c (.jal c far) (encJ 0x17 far) (x.pc + 4 * far.signExtend 64) 31 next ∧
    ((a + imm.signExtend 64).extractLsb' 0 2 = 0 →
      JumpRuns s c (.jalr c rd ra imm) (encI 0x18 rd ra imm) (a + imm.signExtend 64) rd next) ∧
    ((a + imm.signExtend 64).extractLsb' 0 2 ≠ 0 →
      Runs s c (.jalr c rd ra imm) (encI 0x18 rd ra imm) fun t => Trapped c s t 7 (encI 0x18 rd ra imm) 0)

/-- Data RAM loads (R329, R340, Table 12.10): the bytes at ra + sext(imm), least significant first, with zero or sign extension, go to rd.
An offset outside the window traps ADDR, then a misaligned one ALIGN, then one with wrong parity DPARITY. -/
def Obligations.LanternLoads : Prop :=
  ∀ (s : State) (c : Fin 4) (rd ra : BitVec 5) (imm : BitVec 16),
    let x := ctxOf s c.val
    let a := (gpr x ra + imm.signExtend 64).toNat
    let b (k : Nat) : Byte := byteAt s.lant.data (datBase s c.val + a + k)
    let op (i : Instr) (major n : Nat) (v : W64) : Prop :=
      (CanTouch s c a n true → Runs s c i (encI major rd ra imm) fun t => RegEffect c s t (x.pc + 4) rd v x.flags) ∧
      (datSize s c.val < a + n → Runs s c i (encI major rd ra imm) fun t => Trapped c s t 6 (encI major rd ra imm) 0) ∧
      (a + n ≤ datSize s c.val → a % n ≠ 0 → Runs s c i (encI major rd ra imm) fun t => Trapped c s t 7 (encI major rd ra imm) 0) ∧
      (a + n ≤ datSize s c.val → a % n = 0 → lineBusy x ((datBase s c.val + a) / 64) = false →
        (∃ k < n, s.lant.dataBad.contains (datBase s c.val + a + k) = true) →
        Runs s c i (encI major rd ra imm) fun t => Trapped c s t 8 (encI major rd ra imm) 0)
    op (.lbu c rd ra imm) 0x20 1 ((b 0).setWidth 64) ∧
    op (.lhu c rd ra imm) 0x21 2 ((b 1 ++ b 0).setWidth 64) ∧
    op (.lwu c rd ra imm) 0x22 4 ((b 3 ++ b 2 ++ b 1 ++ b 0).setWidth 64) ∧
    op (.ld c rd ra imm) 0x23 8 ((b 7 ++ b 6 ++ b 5 ++ b 4 ++ b 3 ++ b 2 ++ b 1 ++ b 0).setWidth 64) ∧
    op (.lb c rd ra imm) 0x24 1 ((b 0).signExtend 64) ∧
    op (.lh c rd ra imm) 0x25 2 ((b 1 ++ b 0).signExtend 64) ∧
    op (.lw c rd ra imm) 0x26 4 ((b 3 ++ b 2 ++ b 1 ++ b 0).signExtend 64)

/-- Data RAM stores (R329, R340, Table 12.10): the low bytes of rs go to ra + sext(imm), least significant first, and every other byte reads
as before. An offset outside the window traps ADDR, then a misaligned one ALIGN. -/
def Obligations.LanternStores : Prop :=
  ∀ (s : State) (c : Fin 4) (rs ra : BitVec 5) (imm : BitVec 16), Memory.wf s.lant.data →
    let x := ctxOf s c.val
    let a := (gpr x ra + imm.signExtend 64).toNat
    let op (i : Instr) (major n : Nat) : Prop :=
      (CanTouch s c a n false → Runs s c i (encI major rs ra imm) fun t => Stored c s t (datBase s c.val + a) n (gpr x rs)) ∧
      (datSize s c.val < a + n → Runs s c i (encI major rs ra imm) fun t => Trapped c s t 6 (encI major rs ra imm) 0) ∧
      (a + n ≤ datSize s c.val → a % n ≠ 0 → Runs s c i (encI major rs ra imm) fun t => Trapped c s t 7 (encI major rs ra imm) 0)
    op (.sb c rs ra imm) 0x28 1 ∧ op (.sh c rs ra imm) 0x29 2 ∧ op (.sw c rs ra imm) 0x2A 4 ∧ op (.sd c rs ra imm) 0x2B 8

/-- DRAM instructions (R341, R342, Table 12.11), at an aligned engine address that lies in DRAM, once no earlier access holds them back.
LDM, LR, SC and AMO hand their access over and wait for its result; STM, STLN, ZLN and LDLN hand it over and go on. -/
def Obligations.LanternAccesses : Prop :=
  ∀ (s : State) (c : Fin 4) (rd ra rb : BitVec 5) (imm : BitVec 16) (aop : BitVec 4),
    let x := ctxOf s c.val
    let a := (gpr x ra + imm.signExtend 64).toNat
    let e := (gpr x ra).toNat
    let d := (gpr x rb).toNat
    let blocks (num : Nat) (t : State) : State := modCtx c.val (fun y => { y with st := .waiting, wait := .mem num rd }) t
    let goes (_num : Nat) (t : State) : State := retire c.val (x.pc + 4) t
    let at8 (v : W64) : Line := (v.setWidth 512) <<< (8 * (e % 64))
    let en8 (k : Nat) : BitVec 64 := (255 : BitVec 64) <<< (k % 64)
    let ready (kind k n : Nat) : Prop := k < 2 ^ 46 ∧ k % n = 0 ∧ accReady x kind k = true ∧ InDram s k ∧ homeImpl s.part.variant = true
    (ready 0 a 8 → Takes s c (.ldm c rd ra imm) (encI 0x2C rd ra imm) fun u t => Handed c u t 0 a 0 .read blocks) ∧
    (ready 1 e 8 → Takes s c (.lantLr c rd ra 0 0 0) (encR 0x2E rd ra 0 0 0 3) fun u t => Handed c u t 1 e 0 .lr blocks) ∧
    (ready 2 e 8 → Takes s c (.lantSc c rd ra rb 0 0) (encR 0x2E rd ra rb 0 0 4) fun u t =>
      Handed c u t 2 e 0 (.sc (at8 (gpr x rb)) (en8 e) false) blocks) ∧
    (ready 3 e 8 → aop.toNat < 0xA → Takes s c (.lantAmo c rd ra rb 0 aop) (encR 0x2E rd ra rb 0 aop 5) fun u t =>
      Handed c u t 3 e 0 (.amo aop 3 (BitVec.ofNat 6 (e % 64)) (amoOperand aop (gpr x rd) (gpr x rb)) false) blocks) ∧
    (ready 4 a 8 → Takes s c (.stm c rd ra imm) (encI 0x2D rd ra imm) fun u t =>
      Handed c u t 4 a 0 (.write ((gpr x rd).setWidth 512 <<< (8 * (a % 64))) (en8 a) false) goes) ∧
    (ready 4 e 64 → Takes s c (.zln c 0 ra 0 0 0) (encR 0x2E 0 ra 0 0 0 2) fun u t => Handed c u t 4 e 0 (.write 0 allBytes false) goes) ∧
    (ready 4 e 64 → CanTouch s c d 64 true → Takes s c (.stln c 0 ra rb 0 0) (encR 0x2E 0 ra rb 0 0 1) fun u t =>
      Handed c u t 4 e 0 (.write (lineAt s.lant.data (datBase s c.val + d)) allBytes false) goes) ∧
    (ready 5 e 64 → CanTouch s c d 64 false → (x.acc.filter fun q => q.kind = 5).length < 32 →
      Takes s c (.ldln c 0 ra rb 0 0) (encR 0x2E 0 ra rb 0 0 0) fun u t => Handed c u t 5 e ((datBase s c.val + d) / 64) .read goes)

/-- Stall instructions (R344, Table 12.12). A stall or command that R260 refuses gives its status to rd and does nothing else. Otherwise
SPUT pushes one item once the stall takes it, SGET begins a read and waits, STLY fetches tallies, and SCMD runs its command. Readings of the
model in it: log entry 41. -/
def Obligations.LanternStalls : Prop :=
  ∀ (s : State) (c : Fin 4) (rd ra rb : BitVec 5) (sf : BitVec 1) (x : BitVec 4),
    let y := ctxOf s c.val
    let a := (gpr y ra).toNat
    let d := (gpr y rb).toNat
    let b := route s a
    let eop := x.getLsbD 3
    let putAddr := (if eop then 2 ^ 15 else 0) + x.toNat % 8 * 2 ^ 19 + sf.toNat * 2 ^ 22
    let item : SItem := { data := gpr y rb, eop := eop, lbytes := x.extractLsb' 0 3, errp := sf = 1 }
    let sound (k : Nat) : Prop := (stallOf s k).mismatch = false
    let stored : Prop := (y.acc.any fun e => e.kind = 4 && !e.performed) = false
    let answers (i : Instr) (w : Word) (v : W64) : Prop := Runs s c i w fun t => RegEffect c s t (y.pc + 4) rd v y.flags
    (∀ sts, stallRefuse s c.val 9 a putAddr 0 = some sts → answers (.sput c rd ra rb sf x) (encR 0x30 rd ra rb sf x 0) (sts.setWidth 64)) ∧
    (∀ sts, stallRefuse s c.val 0xA a 0 1 = some sts → CanTouch s c d 64 false →
      answers (.sget c rd ra rb 0 0) (encR 0x30 rd ra rb 0 0 1) (BitVec.ofNat 64 (sts.toNat * 2 ^ 16))) ∧
    (∀ sts, stallRefuse s c.val 0xA a (2 ^ 15) 0 = some sts →
      answers (.stly c rd ra 0 0 0) (encR 0x30 rd ra 0 0 0 2) (BitVec.ofNat 64 (sts.toNat * 2 ^ 52))) ∧
    (∀ sts, stallRefuse s c.val 0xB a (x.toNat * 2 ^ 15) 0 = some sts →
      answers (.scmd c rd ra 0 0 x) (encR 0x30 rd ra 0 0 x 3) (sts.setWidth 64)) ∧
    (stallRefuse s c.val 9 a putAddr 0 = none → stored → sound b → pushReady s b = true →
      Takes s c (.sput c rd ra rb sf x) (encR 0x30 rd ra rb sf x 0) fun u t =>
        ∃ v, t = retireWith c.val rd 0 v ∧ v.stalls = (pushItems b [item] u).2.stalls) ∧
    (stallRefuse s c.val 0xA a 0 1 = none → CanTouch s c d 64 false → sound a → (stallOf s a).reader = none →
      Takes s c (.sget c rd ra rb 0 0) (encR 0x30 rd ra rb 0 0 1) fun u t =>
        t = modCtx c.val (fun z => { z with st := .waiting, wait := .stall a rd (datBase s c.val + d) }) (startRead a (.lant c 0) 1 u)) ∧
    (stallRefuse s c.val 0xA a (2 ^ 15) 0 = none → sound b →
      Takes s c (.stly c rd ra 0 0 0) (encR 0x30 rd ra 0 0 0 2) fun u t =>
        let r := tallyFetch a u
        t = retireWith c.val rd (BitVec.ofNat 64 (bits r.1.toNat 64 48 + bits r.1.toNat 128 3 * 2 ^ 48)) r.2) ∧
    (stallRefuse s c.val 0xB a (x.toNat * 2 ^ 15) 0 = none → stored → sound a → 1 ≤ x.toNat → x.toNat ≤ 5 →
      (x = 3 → rewindReady s a = true) →
      Takes s c (.scmd c rd ra 0 0 x) (encR 0x30 rd ra 0 0 x 3) fun u t =>
        t = retireWith c.val rd 0 (if x = 1 then stallDrop a u else if x = 2 then stallMark a u else if x = 3 then stallRewind a u
          else if x = 4 then stallRelease a u else flushPart (route u a) u))

/-- Timebase instructions (R345, Table 12.13): RDTB reads the count, and latches it with X[0] = 1; WAIT completes when the count has reached
ra and waits otherwise, and WAIT_RESUME completes it then; LAUNCH copies and submits its list and gives the launch's answer to rd; LCANCEL
cancels a pending launch. Readings of the model in it: log entries 33 and 96. -/
def Obligations.LanternTimebase : Prop :=
  ∀ (s : State) (c : Fin 4) (rd ra rb : BitVec 5),
    let y := ctxOf s c.val
    let a := (gpr y rb).toNat
    let n := bits (datWord s c.val a).toNat 0 5
    Runs s c (.rdtb c rd 0 0 0 0) (encR 0x31 rd 0 0 0 0 0) (fun t => Latched c s t rd (countNow s) y.tblat y.eqHigh) ∧
    Runs s c (.rdtb c rd 0 0 0 1) (encR 0x31 rd 0 0 0 1 0) (fun t => Latched c s t rd (countNow s) (countNow s) y.eqHigh) ∧
    (gpr y ra ≤ countNow s → Runs s c (.wait c 0 ra 0 0 0) (encR 0x31 0 ra 0 0 0 1) fun t => RegEffect c s t (y.pc + 4) 0 0 y.flags) ∧
    (countNow s < gpr y ra → Runs s c (.wait c 0 ra 0 0 0) (encR 0x31 0 ra 0 0 0 1) fun t =>
      OnlyCtx c s t ∧ (ctxOf t c.val).st = .waiting ∧ (ctxOf t c.val).wait = .count (gpr y ra) ∧ (ctxOf t c.val).pc = y.pc ∧
      (ctxOf t c.val).g = y.g ∧ (ctxOf t c.val).flags = y.flags) ∧
    (∀ v, y.st = .waiting → y.wait = .count v → lantClock s = true → v ≤ countNow s →
      exec (.waitResume c) s = .next (settle (retire c.val (y.pc + 4) s))) ∧
    (n ≤ 16 → CanTouch s c a 8 true → (∀ k < 4 * n, CanTouch s c (a + 8 + 8 * k) 8 true) →
      Takes s c (.launch c rd ra rb 0 0) (encR 0x31 rd ra rb 0 0 2) fun u t =>
        let bad := 32 ≤ (datWord s c.val a).toNat || (List.range n).any (recordDirty s c.val a)
        let r := launchTake (gpr y ra) bad ((List.range n).map (recordAt s c.val a)) u
        t = retireWith c.val rd (BitVec.ofNat 64 r.1) r.2) ∧
    (gpr y ra ≤ 7 → Takes s c (.lcancel c 0 ra 0 0 0) (encR 0x31 0 ra 0 0 0 3) fun u t =>
      t = retire c.val (y.pc + 4) (launchCancel (gpr y ra).toNat u))

/-- System instructions (R343, R346, Table 12.14). BAR ORDER completes with 0; VISIBLE and DURABLE wait for the context's accesses; IFLUSH
empties the cache or one line of it; HBIND binds a handle that exists, HDONE waits as VISIBLE; BRK traps BREAK; HALT stops the context and
raises LANT_DONE. A word that the tables do not define traps ILLEGAL (R332, R333). Readings of the model in it: log entries 30, 31 and 32.
-/
def Obligations.LanternSystem : Prop :=
  ∀ (s : State) (c : Fin 4) (rd ra rb : BitVec 5) (k : BitVec 4) (w : Word),
    let y := ctxOf s c.val
    let a := (gpr y ra).toNat
    let same (z : Ctx) : Prop := z.pc = y.pc ∧ z.g = y.g ∧ z.flags = y.flags ∧ z.acc = y.acc ∧ z.handle = y.handle ∧ z.mst = y.mst
    (Runs s c (.bar c rd 0 0 0 0) (encR 0x32 rd 0 0 0 0 0) fun t =>
      OnlyCtx c s t ∧ Completed c s t (y.pc + 4) ∧ Writes c s t rd 0 ∧ (ctxOf t c.val).flags = y.flags ∧ (ctxOf t c.val).ordNum = s.nextId) ∧
    (k = 1 ∨ k = 2 → Runs s c (.bar c rd 0 0 0 k) (encR 0x32 rd 0 0 0 k 0) fun t =>
      OnlyCtx c s t ∧ (ctxOf t c.val).st = .waiting ∧ (ctxOf t c.val).wait = .bar (k.extractLsb' 0 2) rd ∧ same (ctxOf t c.val)) ∧
    (Takes s c (.iflush c 0 0 0 0 0) (encR 0x32 0 0 0 0 0 1) fun u t =>
      t = retire c.val (y.pc + 4) (modLant (fun l => { l with cache := [] }) u)) ∧
    (Takes s c (.iflush c 0 ra 0 0 1) (encR 0x32 0 ra 0 0 1 1) fun u t => ∃ v,
      t = retire c.val (y.pc + 4) v ∧ (∀ d, ctxOf v d = ctxOf u d) ∧
      ∀ line, cacheSet v line = if line % 128 = a / 64 % 128 then (cacheSet u line).filter (fun e => e.1 ≠ a / 64) else cacheSet u line) ∧
    (c = 0 → a < 2 ^ 16 → (liveSlot s a).isSome = true → Runs s c (.hbind c 0 ra 0 0 0) (encR 0x32 0 ra 0 0 0 2) fun t =>
      OnlyCtx c s t ∧ Completed c s t (y.pc + 4) ∧ (ctxOf t c.val).handle = some (BitVec.ofNat 16 a) ∧ (ctxOf t c.val).g = y.g ∧
      (ctxOf t c.val).flags = y.flags) ∧
    (c ≠ 0 → Runs s c (.hbind c 0 ra 0 0 0) (encR 0x32 0 ra 0 0 0 2) fun t => Trapped c s t 3 (encR 0x32 0 ra 0 0 0 2) 0) ∧
    (c = 0 ∨ y.handle = some ((gpr y ra).extractLsb' 0 16) → Runs s c (.hdone c 0 ra rb 0 0) (encR 0x32 0 ra rb 0 0 3) fun t =>
      OnlyCtx c s t ∧ (ctxOf t c.val).st = .waiting ∧ (ctxOf t c.val).wait = .hdone (gpr y ra) (gpr y rb) ∧ same (ctxOf t c.val)) ∧
    (Runs s c (.brk c 0 0 0 0 0) (encR 0x32 0 0 0 0 0 4) fun t => Trapped c s t 12 (encR 0x32 0 0 0 0 0 4) 0) ∧
    (y.handle = none → Runs s c (.halt c 0 0 0 0 0) (encR 0x32 0 0 0 0 0 5) fun t =>
      (ctxOf t c.val).st = .stopped ∧ (ctxOf t c.val).pc = y.pc + 4 ∧ (ctxOf t c.val).g = y.g ∧ (ctxOf t c.val).flags = y.flags ∧
      bits (regAt t 0x104 0) 1 1 = 1 ∧ t.lant.data = s.lant.data ∧ t.dram = s.dram ∧ ∀ d : Fin 4, d ≠ c → ctxOf t d.val = ctxOf s d.val) ∧
    (wordDefined w = false → Runs s c (.undefinedInstruction c w) w fun t => Trapped c s t 1 w 0)

/-- EQ and the special registers (R334, R346, Tables 12.6 and 12.14): EQ gives a figure to rd and latches the count of its issue cycle in
TBLAT, selector 2 latching the domain's upper bits for selector 3; MFS reads every special register; MTS writes FLAGS, TRAPEN and MST.
Readings of the model in it: log entry 35. -/
def Obligations.LanternSpecials : Prop :=
  ∀ (s : State) (c : Fin 4) (rd ra : BitVec 5),
    let y := ctxOf s c.val
    let v := gpr y ra
    let eq (i : Instr) (sel : BitVec 4) (n : Nat) (high : W64) : Prop :=
      Runs s c i (encR 0x32 rd 0 0 0 sel 6) fun t => Latched c s t rd (BitVec.ofNat 64 n) (countNow s) high
    let mfs (n : BitVec 16) (r : W64) : Prop :=
      Runs s c (.mfs c rd 0 n) (encI 0x3C rd 0 n) fun t => RegEffect c s t (y.pc + 4) rd r y.flags
    eq (.eqEnergyTotal c rd 0 0 0) 0 (s.en.totals.foldl (fun a e => a + e.2) 0 / 1000000000) y.eqHigh ∧
    eq (.eqUsableReserve c rd 0 0 0) 1 s.en.euse y.eqHigh ∧
    eq (.eqDomainLow c rd 0 0 0) 2 (bits (domainNow s).toNat 0 64) (BitVec.ofNat 64 (bits (domainNow s).toNat 64 9)) ∧
    eq (.eqDomainHigh c rd 0 0 0) 3 y.eqHigh.toNat y.eqHigh ∧
    eq (.eqRetention c rd 0 0 0) 4 (fld s PLN_RET_MS) y.eqHigh ∧
    eq (.eqAllowance c rd 0 0 0) 5 (allowance s * 1000) y.eqHigh ∧
    eq (.eqStage c rd 0 0 0) 6 (fld s PW_STAT_STAGE) y.eqHigh ∧
    mfs 0 (y.flags.setWidth 64) ∧ mfs 1 (BitVec.ofNat 64 c.val) ∧ mfs 2 (y.trapen.setWidth 64) ∧ mfs 3 (y.mst.setWidth 64) ∧
    (y.handle = none → mfs 4 0) ∧ (∀ h, y.handle = some h → mfs 4 (h.setWidth 64 + 0x10000)) ∧ mfs 6 y.tblat ∧
    (Takes s c (.mfs c rd 0 5) (encI 0x3C rd 0 5) fun u t => t = retireWith c.val rd ((ctxOf u c.val).codep.setWidth 64) u) ∧
    (Runs s c (.mts c 0 ra 0) (encI 0x3D 0 ra 0) fun t => RegEffect c s t (y.pc + 4) 0 0 (v.setWidth 6)) ∧
    (Runs s c (.mts c 0 ra 2) (encI 0x3D 0 ra 2) fun t =>
      OnlyCtx c s t ∧ Completed c s t (y.pc + 4) ∧ (ctxOf t c.val).trapen = v.setWidth 2 ∧ (ctxOf t c.val).g = y.g ∧
      (ctxOf t c.val).flags = y.flags ∧ (ctxOf t c.val).mst = y.mst) ∧
    (Runs s c (.mts c 0 ra 3) (encI 0x3D 0 ra 3) fun t =>
      OnlyCtx c s t ∧ Completed c s t (y.pc + 4) ∧ (ctxOf t c.val).mst = v.setWidth 7 ∧ (ctxOf t c.val).g = y.g ∧
      (ctxOf t c.val).flags = y.flags ∧ (ctxOf t c.val).trapen = y.trapen)

/-- DRAM control instructions (R347, Tables 12.16 and 12.16b) on a rank or port that exists and is in the state that the table asks for:
each gives status 0 to rd and has its effect, before which nothing but the issue's own record changes. A user context without PRIV traps
PRIV. Readings of the model in it: log entries 36, 37 and 38. -/
def Obligations.LanternControl : Prop :=
  ∀ (s : State) (c : Fin 4) (rd ra rb : BitVec 5) (x : BitVec 4) (ok : Bool),
    let y := ctxOf s c.val
    let v := (gpr y ra).toNat
    let w := (gpr y rb).toNat
    let p := bits v 0 5
    let g := ctlTarget v
    let ends (i : Instr) (word : Word) (f : State → State) : Prop := MayControl s c → Takes s c i word fun u t => t = retireWith c.val rd 0 (f u)
    let trap (i : Instr) (word : Word) : Prop := c ≠ 0 → y.priv = false → Runs s c i word fun t => Trapped c s t 3 word 0
    let serves : Prop := NamesRank s v ∧ pstate s p = .service
    (serves → w < 2 ^ 16 → ends (.mrw c rd ra rb 0 0) (encR 0x33 rd ra rb 0 0 0) fun u =>
      modePause g (modDram p (fun d => { d with modeRegs := mput d.modeRegs (modeKey g.loc (bits w 8 8)) (BitVec.ofNat 8 w) }) u)) ∧
    (serves → w < 2 ^ 16 → ∀ m, mget (portOf s p).dram.modeRegs (modeKey g.loc (bits w 8 8)) = some m → MayControl s c →
      Takes s c (.mrr c rd ra rb 0 0) (encR 0x33 rd ra rb 0 0 1) fun u t =>
        t = retireWith c.val rd (BitVec.ofNat 64 (m.toNat * 256)) (modePause g u)) ∧
    (serves → w < 2 ^ 16 → mget (portOf s p).dram.modeRegs (modeKey g.loc (bits w 8 8)) = none → MayControl s c →
      Takes s c (.mrr c rd ra rb 0 0) (encR 0x33 rd ra rb 0 0 1) fun u t => ∃ m < 256,
        t = retireWith c.val rd (BitVec.ofNat 64 (m * 256)) (modePause g { u with free := u.free + 1 })) ∧
    (serves → ends (.refcRefNow c rd ra 0 0) (encR 0x33 rd ra 0 0 0 2) (fun u => refNowRank p u g.loc)) ∧
    (serves → mayIssue s p = true → (rankSt s p (rankKey g.loc)).zqStart = none → ends (.refcZq c rd ra 0 0) (encR 0x33 rd ra 0 0 3 2) fun u =>
      modRank p (rankKey g.loc) (fun r => { r with zqStart := some s.clk }) (issueOp p g.loc.sub 0 .mpc g.loc none false u)) ∧
    (NamesRank s v → portAllows (pstate s p) 2 = true → s.en.pf = .none → fromDram s c.val = false →
      ends (.refcSrEnter c rd ra 0 0) (encR 0x33 rd ra 0 0 1 2) (portReq p 2 (.lant c))) ∧
    (NamesRank s v → portAllows (pstate s p) 3 = true → s.en.pf = .none →
      ends (.refcSrExit c rd ra 0 0) (encR 0x33 rd ra 0 0 2 2) (portReq p 3 (.lant c))) ∧
    (serves → rankThere s p { keyLoc w with bg := 0, bank := 0, row := 0 } = true → w < 2 ^ 30 → launchNames s p = false →
      (∀ k, repairSlot s p w = some k → ends (.rrepSoft c rd ra rb 0 0 true) (encR 0x33 rd ra rb 0 0 3) (softStartRepair p k)) ∧
      ends (.rrepHard c rd ra rb 0 0) (encR 0x33 rd ra rb 0 1 3) (hardRepair p w)) ∧
    (NamesRank s v → pstate s p = .train ∨ pstate s p = .test → 1 ≤ x.toNat → x.toNat ≤ 12 → stepApplies p x.toNat = true →
      setNames s p = false → ends (.trstep c rd ra 0 0 x true) (encR 0x33 rd ra 0 0 x 5) (runStep p x.toNat)) ∧
    trap (.mrw c rd ra rb 0 0) (encR 0x33 rd ra rb 0 0 0) ∧ trap (.mrr c rd ra rb 0 0) (encR 0x33 rd ra rb 0 0 1) ∧
    trap (.refcRefNow c rd ra 0 0) (encR 0x33 rd ra 0 0 0 2) ∧ trap (.refcSrEnter c rd ra 0 0) (encR 0x33 rd ra 0 0 1 2) ∧
    trap (.refcSrExit c rd ra 0 0) (encR 0x33 rd ra 0 0 2 2) ∧ trap (.refcZq c rd ra 0 0) (encR 0x33 rd ra 0 0 3 2) ∧
    trap (.rrepSoft c rd ra rb 0 0 ok) (encR 0x33 rd ra rb 0 0 3) ∧ trap (.rrepHard c rd ra rb 0 0) (encR 0x33 rd ra rb 0 1 3) ∧
    (1 ≤ x.toNat → x.toNat ≤ 12 → trap (.trstep c rd ra 0 0 x ok) (encR 0x33 rd ra 0 0 x 5))

/-- What the register window and the memory path do to Lantern (R325, R328, R329, R341, R343, R350): START, STOP and RESET of a user
context, LN_IC.INV, window writes of program and data RAM, LCTX_DUR_CTL.CLR, and the arrival of a fetched line, of an LDLN's line and of a
posted store's end. Readings of the model in it: log entries 34 and 40. -/
def Obligations.LanternWindow : Prop :=
  ∀ (s : State) (c : Fin 4) (v : Word) (word : BitVec 16) (dword : BitVec 15) (err : Burst),
    let y := ctxOf s c.val
    (userCtx s c.val = true → y.st = .stopped → y.resetReq = false →
      exec (.start c) s = .next (settle (modCtx c.val (fun z => { z with st := .running, trapValid := false, stopReq := false }) s))) ∧
    (userCtx s c.val = true → exec (.stop c) s = .next (settle (modCtx c.val ctxStop s))) ∧
    (userCtx s c.val = true → y.wait = .none → exec (.contextReset c) s = .next (settle (modCtx c.val (fun z =>
      { z with resetReq := true, wait := .none, st := if z.st = .running then .waiting else z.st }) s))) ∧
    (s.pw.inReset = false → exec (.lnIcInvalidate v) s = .next (if v.getLsbD 0 then modLant (fun l => { l with cache := [] }) s else s)) ∧
    (s.pw.inReset = false → s.pw.st.toNat < 3 → 0x20000 ≤ 4 * word.toNat → Memory.wf s.lant.prog →
      (∀ d ∈ [1, 2, 3], (ctxOf s d).st = .stopped ∨ (ctxOf s d).st = .halted) →
      ∃ t, exec (.programRamWrite word v) s = .next t ∧ { t with lant := s.lant } = s ∧ t.lant.data = s.lant.data ∧ t.lant.ctx = s.lant.ctx ∧
        ∀ k, byteAt t.lant.prog k =
          if 4 * word.toNat ≤ k ∧ k < 4 * word.toNat + 4 then v.extractLsb' (8 * (k - 4 * word.toNat)) 8 else byteAt s.lant.prog k) ∧
    (s.pw.inReset = false → s.pw.st.toNat < 3 → Memory.wf s.lant.data →
      ∃ t, exec (.dataRamWrite dword v) s = .next t ∧ { t with lant := s.lant } = s ∧ t.lant.prog = s.lant.prog ∧ t.lant.ctx = s.lant.ctx ∧
        ∀ k, byteAt t.lant.data k =
          if 4 * dword.toNat ≤ k ∧ k < 4 * dword.toNat + 4 then v.extractLsb' (8 * (k - 4 * dword.toNat)) 8 else byteAt s.lant.data k) ∧
    (userCtx s c.val = true → v.getLsbD 0 = true → exec (.lantDurClear c v) s = .next (footClear (ctxFoot c.val) s)) ∧
    (∀ a r t line, arrive c.val 6 err s = some (a, r, t) → (ctxOf t c.val).resetReq = false → (ctxOf t c.val).wait = .fetch line → r.sts = 0 →
      (ctxOf t c.val).stopReq = false →
      exec (.ifetchMissDone c err) s = .next (settle (modCtx c.val (fun z => { z with wait := .none, st := .running, stopReq := false })
        (cachePut (a.addr / 64) r.data (dropAcc c.val a.num t))))) ∧
    (∀ a r t, arrive c.val 5 err s = some (a, r, t) → (ctxOf t c.val).resetReq = false → r.sts = 0 →
      exec (.ldlnDataArrive c err) s = .next (settle (modCtx c.val (fun z => { z with failedLines := z.failedLines.erase a.dat })
        (putData (64 * a.dat) 64 r.data.toNat (dropAcc c.val a.num t))))) ∧
    (∀ a r, y.acc.findSome? (fun e => if e.kind = 4 then e.res.map fun q => (e, q) else none) = some (a, r) → y.resetReq = false → r.sts = 0 →
      exec (.postedStoreDone c err) s = .next (settle (dropAcc c.val a.num s)))

/-! ### Fabric ports (chapters 2, 3 and 13) -/

/-- Acceptance (R30, R33, R34, R39, R260): a request word that no step of R33 refuses takes a tally and is listed behind the port's earlier
requests with its opcode and lines, its beats owed where the opcode carries beats. A reserved opcode, or STALL_CMD with a reserved command,
is listed as refused with FAIL_DECODE. No memory, stall, DRAM port or other fabric port changes before the engine settles. Readings of the
model in it: log entries 87 and 89. -/
def Obligations.FabricRequests : Prop :=
  ∀ (s : State) (fp : Fin 32) (w : ReqWord) (opc : BitVec 5),
    let n := fp.val
    let f := fabOf s n
    let opened : Prop := fabImpl s.part.variant n = true ∧ s.pw.inReset = false ∧ s.pw.st.toNat ≤ 3 ∧ 0 < f.reqTly ∧
      (f.reqs.all fun r => !(r.live && r.w.tag == w.tag)) = true ∧ f.fenced = false ∧ flg s FP_STATUS_CLK_OK n = true
    let kept (t : State) : Prop := (∀ m ≠ n, fabOf t m = fabOf s m) ∧ t.dram = s.dram ∧ t.spad = s.spad ∧ t.ports = s.ports ∧
      t.stalls = s.stalls ∧ t.home = s.home ∧ t.lant = s.lant ∧ t.host = s.host
    let takes (i : Instr) (k : Nat) (v : ReqWord) : Prop := opened → refusal s n k v = none → ∃ t r, exec i s = .next (settle t) ∧ kept t ∧
      fabOf t n = { f with reqTly := f.reqTly - 1, reqs := f.reqs ++ [r], owed := if carriesBeats k then f.owed ++ [{ req := some r.id, left := v.len.toNat + 1 }] else f.owed } ∧
      r.opc = BitVec.ofNat 5 k ∧ r.w = v ∧ r.refused = none ∧ r.lines = List.replicate (if isBarrier k then 0 else v.len.toNat + 1) {} ∧ r.beats = []
    takes (.rd fp w) 0 w ∧ takes (.wr fp w) 1 w ∧ takes (.wrz fp w) 2 w ∧ takes (.lr fp w) 3 w ∧ takes (.sc fp w) 4 w ∧ takes (.amo fp w) 5 w ∧
    takes (.order fp w) 6 w ∧ takes (.visible fp w) 7 w ∧ takes (.durable fp w) 8 w ∧ takes (.stallPut fp w) 9 w ∧
    takes (.stallWordRead fp w) 0xA (withView false w) ∧ takes (.tallyFetch fp w) 0xA (withView true w) ∧
    takes (.drop fp w) 0xB (withCmd 1 w) ∧ takes (.mark fp w) 0xB (withCmd 2 w) ∧ takes (.rewind fp w) 0xB (withCmd 3 w) ∧
    takes (.release fp w) 0xB (withCmd 4 w) ∧ takes (.flush fp w) 0xB (withCmd 5 w) ∧
    (opened → 0xC ≤ opc.toNat ∨ (opc = 0xB ∧ ¬(1 ≤ cmdCode w ∧ cmdCode w ≤ 5)) → ∃ t r, exec (.reqReservedOpcode fp opc w) s = .next (settle t) ∧
      kept t ∧ (fabOf t n).reqs = f.reqs ++ [r] ∧ (fabOf t n).reqTly = f.reqTly - 1 ∧ r.opc = opc ∧ r.w = w ∧ r.refused = some 4 ∧ r.lines = [])

/-- The master's other signals (R20, R35, R39, R40, R43, R77): a write beat joins its request, a read beat or a response that is taken
leaves its channel, URG sets the level, EXC ends the reservation, and CLK_OK follows the measurements of CK_FAB, two good ones in succession
setting it. -/
def Obligations.FabricSignals : Prop :=
  ∀ (s : State) (fp : Fin 32) (data : Line) (be : BitVec 64) (last : Bool) (level : BitVec 2) (khz : Nat),
    let n := fp.val
    let f := fabOf s n
    let here : Prop := fabImpl s.part.variant n = true
    (here → s.pw.inReset = false → s.pw.st.toNat ≤ 3 → f.fenced = false → 0 < f.wdTly → ∀ o l id, f.owed = o :: l → o.req = some id →
      last = decide (o.left ≤ 1) → ∃ t, exec (.writeDataBeat fp data be last) s = .next (settle t) ∧ (fabOf t n).wdTly = f.wdTly - 1 ∧
        (fabOf t n).owed = (if o.left ≤ 1 then l else { o with left := o.left - 1 } :: l) ∧
        (fabOf t n).reqs = f.reqs.map (fun r =>
          if r.id = id then { r with beats := r.beats ++ [{ data := data, be := be }], lastBeat := s.clk } else r) ∧
        ∀ m ≠ n, fabOf t m = fabOf s m) ∧
    (here → flg s FP_STATUS_CLK_OK n = true → ∀ b l, f.rd = b :: l → ∃ t, exec (.readBeatAccept fp) s = .next (settle t) ∧
      (fabOf t n).rd = l ∧ (fabOf t n).rdHeld = f.rdHeld - 1 ∧ ∀ m ≠ n, fabOf t m = fabOf s m) ∧
    (here → flg s FP_STATUS_CLK_OK n = true → ∀ b l, f.rsp = b :: l → ∃ t, exec (.responseAccept fp) s = .next (settle t) ∧
      (fabOf t n).rsp = l ∧ ∀ m ≠ n, fabOf t m = fabOf s m) ∧
    (here → exec (.urgChange fp level) s = .next (settle (setFab n { f with urg := level } s))) ∧
    (here → ∃ t, exec (.exc fp) s = .next (settle t) ∧ (∀ line, rsvHolds t (.fab fp) line = false) ∧
      (∀ m line, m ≠ .fab fp → rsvHolds t m line = rsvHolds s m line) ∧ t.fab = s.fab) ∧
    (here → flg s FP_STATUS_CLK_OK n = true → khz < 245000 ∨ 1020000 < khz → ∃ t, exec (.fabClkMeasure fp khz) s = .next (settle t) ∧
      flg t FP_STATUS_CLK_OK n = false ∧ bits (regAt t 0x100 0) 0 1 = 1) ∧
    (here → flg s FP_STATUS_CLK_OK n = false → f.clkOnce = true → 245000 ≤ khz → khz ≤ 1020000 →
      ∃ t, exec (.fabClkMeasure fp khz) s = .next (settle t) ∧ flg t FP_STATUS_CLK_OK n = true) ∧
    (here → flg s FP_STATUS_CLK_OK n = false → f.clkOnce = false → 245000 ≤ khz → khz ≤ 1020000 →
      exec (.fabClkMeasure fp khz) s = .next (settle (setFab n { f with clkOnce := true } s)))

/-- What a fabric port does by itself or through its registers (R42, R44, R52, R53, R62, R72, R367 to R371): a burst timer that expires cuts
its burst, the boundary enables a port and grants its tallies, the next store line of the write buffer goes to the memory path, FP_PROTO and
FP_DUR_CTL writes clear, and the configuration's fence takes hold, drains, times out and ends. Readings of the model in it: log entries 82
and 88. -/
def Obligations.FabricControl : Prop :=
  ∀ (s : State) (fp : Fin 32) (v : Word),
    let n := fp.val
    let f := fabOf s n
    let here : Prop := fabImpl s.part.variant n = true
    (here → ∀ r, burstDue s n = some r → ∃ t, exec (.burstTimeout fp) s = .next (settle (cutClose n r.id t)) ∧
      flg t FP_PROTO_BST_TMO n = true ∧ (∀ q ∈ (fabOf t n).reqs, q.id = r.id → q.cut = true) ∧
      (∀ o ∈ (fabOf t n).owed, o.req ≠ some r.id) ∧ (fabOf t n).reqs.length = f.reqs.length) ∧
    (here → applyOpen s = true → (f.reqs.any FabReq.live) = false → mget s.shadow (FP_ALLOC_RDLINES.off n) = none →
      flg s FP_CTL_EN n = false → staged s FP_CTL_EN n = 1 → f.fenced = false →
      ∃ t, exec (.fabricPortBoundary fp) s = .next (settle t) ∧ flg t FP_CTL_EN n = true ∧ flg t FP_STATUS_ENABLED n = true ∧
        (fabOf t n).reqTly = fld t FP_CTL_REQ_TLY n + 1 ∧ (fabOf t n).wdTly = fld t FP_CTL_WD_TLY n ∧ (fabOf t n).granted = true) ∧
    (here → s.pw.st.toNat ≤ 1 → s.pw.inReset = false → ∀ r k p la, drainHead s n = some (r, k) → r.opc = 2 → target s (r.lineAddr k) = .dram p la →
      exec (.pwbDrain fp false) s = .next (settle (lineAccess (.fab fp r.id k) (r.lineAddr k)
        (.write ((r.beats[k]?).getD { data := 0, be := allBytes }).data ((r.beats[k]?).getD { data := 0, be := allBytes }).be false) r.attr
        (fabLine n r.id k (fun l => { l with ph := .sent }) s)))) ∧
    (here → s.pw.inReset = false → ∃ t, exec (.fpProtoClear fp v) s = .next (settle t) ∧
      regAt t (FP_PROTO_TLY_OVR.off n) 0 = (regAt s (FP_PROTO_TLY_OVR.off n) 0 - (regAt s (FP_PROTO_TLY_OVR.off n) 0 &&& v.toNat % 64)) % 2 ^ 32 ∧
      (v.toNat % 64 = 63 → fld t FP_PROTO_CNT_COUNT n = 0)) ∧
    (here → s.pw.inReset = false → v.getLsbD 0 = true → exec (.fpDurClear fp v) s = .next (settle (footClear (fpFoot n) s))) ∧
    (here → s.pw.inReset = false → f.fenced = false → f.owed = [] → ∃ t, exec (.cfgFenceRequest fp) s = .next (settle t) ∧
      (fabOf t n).fenced = true ∧ flg t FP_STATUS_FENCED n = true ∧ flg t FP_FENCE_STAT_CFG n = true ∧ (fabOf t n).reqs = f.reqs ∧
      ∀ line, rsvHolds t (.fab fp) line = false) ∧
    (here → flg s FP_FENCE_STAT_CFG n = true → flg s FP_FENCE_STAT_HOST n = false → flg s FP_FENCE_STAT_DRAINED n = true → f.fenced = true →
      f.unfenceWait = [] → s.en.pf = .none → s.pw.st.toNat ≤ 3 → ∃ t, exec (.cfgFenceRelease fp) s = .next (settle t) ∧
        (fabOf t n).fenced = false ∧ flg t FP_STATUS_FENCED n = false ∧ flg t FP_FENCE_STAT_CFG n = false ∧
        (flg s FP_CTL_EN n = true → (fabOf t n).reqTly = fld s FP_CTL_REQ_TLY n + 1 ∧ (fabOf t n).wdTly = fld s FP_CTL_WD_TLY n)) ∧
    (here → f.fenced = true → flg s FP_FENCE_STAT_DRAINED n = false → (f.reqs.any FabReq.live) = false → f.fenceWait = [] →
      f.relHost = false → f.relCfg = false → flg s FP_FENCE_STAT_HOST n = true → ∃ t, exec (.fenceDrained fp) s = .next (settle t) ∧
        flg t FP_FENCE_STAT_DRAINED n = true ∧ (fabOf t n).tlyClr = f.tlyClr + 1 ∧ (fabOf t n).reqTly = 0 ∧ (fabOf t n).wdTly = 0 ∧
        (fabOf t n).fenced = true) ∧
    (here → (f.fenceWait.any fun e => e.2 ≠ 0 && e.2 ≤ s.clk) = true →
      exec (.fenceTimeout fp) s = .next (settle (setFab n { f with dropAns := true } s)))

/-- The fabric ports that are not connected are FP16 to FP31 of CX3-D (R8). No request and no beat or signal of a master arrives on one: the
command stops as not connected. Internal events and register writes of such a port change nothing (R5). Readings of the model in it: log
entry 29. -/
def Obligations.FabricAbsent : Prop :=
  ∀ (s : State) (fp : Fin 32) (w : ReqWord) (opc : BitVec 5) (data : Line) (be : BitVec 64) (last pe : Bool) (level : BitVec 2) (khz : Nat) (v : Word),
    (fabImpl s.part.variant fp.val = false ↔ s.part.variant = .cx3d ∧ 16 ≤ fp.val) ∧ (fabImpl s.part.variant fp.val = false →
    (∀ i ∈ [Instr.rd fp w, .wr fp w, .wrz fp w, .lr fp w, .sc fp w, .amo fp w, .order fp w, .visible fp w, .durable fp w, .stallPut fp w,
        .stallWordRead fp w, .tallyFetch fp w, .drop fp w, .mark fp w, .rewind fp w, .release fp w, .flush fp w, .reqReservedOpcode fp opc w,
        .writeDataBeat fp data be last, .readBeatAccept fp, .responseAccept fp, .urgChange fp level, .exc fp], exec i s = .fault .notConnected) ∧
    ∀ i ∈ [Instr.fabClkMeasure fp khz, .burstTimeout fp, .fabricPortBoundary fp, .pwbDrain fp pe, .fpProtoClear fp v, .fpDurClear fp v,
        .fenceDrained fp, .fenceTimeout fp], exec i s = .next s)

/-! ### The scheduler (chapters 4 and 6) -/

/-- The command queue (R66, R95, R99, R152, R189, R225, R410): the oldest waiting read enters the queue where there is room, and ends
FAIL_LINK where the port fails; a column command that the slot selects leaves the queue for the retry buffer, its effect still to come; the
oldest command of the retry buffer takes effect when known good; a line in flight goes to its owner with the data and status of its decode.
Readings of the model in it: log entry 77. -/
def Obligations.SchedulerQueue : Prop :=
  ∀ (s : State) (p : Fin 20) (sub : Fin 4) (off : BitVec 4) (id : Nat) (err : Burst),
    let n := p.val
    let q := (portOf s n).sched
    PortHere s p →
    (∀ r l, q.wait = r :: l → r.kind = .read → queueRoom s n r = true → portFails s n = false → (portOf s n).link.timedOut = false →
      (serial n = true → fld s SL_STAT_LSTATE n ≠ 1) → Does s (.queueEntry p)
        (entered n r (modSched n (fun x => { x with queue := x.queue ++ [r] }) (rowMatch n r.la (removeWait n r.id s))))) ∧
    (∀ r l, q.wait = r :: l → portFails s n = true →
      Does s (.queueEntry p) (deliver r.owner { bst := 2, sts := 7 } (removeWait n r.id s))) ∧
    (mayIssue s n = true → sub.val < subCount s n → off.toNat < clocksPerTick s n → ∀ x dir r,
      select (countPromoted n s) n sub.val (slotClk (countPromoted n s) n off.toNat) = (some x, dir) → x.pick = .req r → x.op.isCol = true →
      Makes s (.commandSlotSelect p sub off) fun t => SameBytes s t ∧ (∃ h, (portOf t n).sched.retry = q.retry ++ [h] ∧ h.op = x.op ∧
        h.loc = x.loc ∧ h.req = some r ∧ h.clk = s.clk + leadOf s n ∧ h.off = off.toNat) ∧ (∀ z ∈ (portOf t n).sched.queue, z.id ≠ r.id)) ∧
    ((portOf s n).dram.alertAt = none → (portOf s n).link.lost = false → ∀ i l r, q.retry = i :: l → i.req = some r → goodDue s n i = true →
      acked s n i = true →
      let u := modDram n (fun d => { d with alerts := 0, escalated := false }) (modSched n (fun x => { x with retry := l }) s)
      (∀ d, r.kind = .write d allBytes false → r.owner = .post →
        Does s (.commandKnownGood p) (storeLine n r.la d false orgDemand (markOver n r.la u))) ∧
      (r.kind = .read → Does s (.commandKnownGood p) (fly n r i.stamp (readStored s n r.la).1 (readStored s n r.la).2 u))) ∧
    (∀ f, q.flight.find? (fun g => decide (g.id = id)) = some f → f.req.kind = .read →
      let u := modSched n (fun x => { x with flight := x.flight.filter fun g => g.id ≠ id }) s
      let d := decodeFlight u n f err
      let v := noteDecode n f.req.la d.1 orgDemand false u
      Does s (.lineDataReturn p id err)
        (deliver f.req.owner (decBeat d.1 d.2) (notePoisonRead n f.req.la d.1 orgDemand v)))

/-- Refresh, rows and pauses (R96, R100 to R103, R106, R108, R109): each interval owes one refresh more, a DIMM cool for a second leaves
doubled refresh, an idle row closes, a training pause starts at its due time where the guard allows it or by force, and the scheduler's
counters clear. Readings of the model in it: log entries 2, 93 and 109. -/
def Obligations.SchedulerTime : Prop :=
  ∀ (s : State) (p : Fin 20) (rank : RankId) (dimm : Fin 4) (sub : Fin 4) (bank : BankId) (off : BitVec 4) (b : Fin 256) (v : Word),
    let n := p.val
    let q := (portOf s n).sched
    (PortHere s p → pstate s n = .service → (∀ l ∈ rankLocs rank, rankThere s n l = true ∧ 0 < refInterval s n (dimmOf l) ∧
        s.clk ≤ mgetD (portOf s n).dram.tempAt (dimmOf l) 0 + 1000 * edgesMs ∧ (rankSt s n (rankKey l)).pulled = 0 ∧
        (rankSt s n (rankKey l)).start + refInterval s n (dimmOf l) ≤ s.clk) →
      Makes s (.refreshDue p rank) fun t => SameBytes s t ∧ ∀ l ∈ rankLocs rank,
        (rankSt t n (rankKey l)).owed = (rankSt s n (rankKey l)).owed + 1 ∧
        (rankSt t n (rankKey l)).start = (rankSt s n (rankKey l)).start + refInterval s n (dimmOf l)) ∧
    (PortHere s p → ∀ a, mget q.cool dimm.val = some a → a + 1000 * edgesMs ≤ s.clk → Does s (.hotRestore p dimm)
      (setFld PS_STAT_HOT n (withBits (fld s PS_STAT_HOT n) dimm.val 1 0) (modSched n (fun x => { x with cool := mdel x.cool dimm.val }) s))) ∧
    (PortHere s p → fld s PS_CTL_PAGE n = 2 → mayIssue s n = true → flg s TB_STAT_HOLD = false → off.toNat < clocksPerTick s n → ∀ row last,
      openRow s n (locOfBank sub.val bank) = some row → mget (subOf s n sub.val).lastCol (bankNo (locOfBank sub.val bank)) = some last →
      (∀ r ∈ q.queue ++ q.wait, sameRow (locOf s n r.la) { locOfBank sub.val bank with row := row } = false) →
      last + fld s PS_CTL_PG_TMO n ≤ s.clk + leadOf s n → (select s n sub.val (slotClk s n off.toNat)).1 = none →
      ready s n sub.val .prePb { locOfBank sub.val bank with row := row } false (slotClk s n off.toNat) = true →
      Does s (.rowTimeoutClose p sub bank off) (issueOp n sub.val off.toNat .prePb { locOfBank sub.val bank with row := row } none false s)) ∧
    (PortHere s p → (portOf s n).prot.merge = [] → ∀ x, q.pauses.find? (fun x => decide (x.due ≤ s.clk)) = some x → pauseClear s n x = true →
      let u := modDram n (fun d => { d with idleAt := s.clk })
        (modSched n (fun y => { y with pauses := y.pauses.erase x, pause := some (x, s.clk + x.len) }) s)
      (guardClear s n x.len = true → Does s (.trainingPauseStart p) u) ∧
      (x.due + fld s PS_SLOT_PWAIT n * edgesMs ≤ s.clk → Does s (.pauseForce p) (addFld PS_CNT1_PFORCED n 1 u))) ∧
    (s.pw.inReset = false → v.getLsbD 31 = true → Gives s (.brMissClear b v) (setFld BR_MISS_MISS b.val 0 s)) ∧
    (s.pw.inReset = false → v.getLsbD 8 = true → Gives s (.schMissLogClear v) (setWord (SCH_MISS_LOG_VALID.off 0) 0 s)) ∧
    (PortHere s p → s.pw.inReset = false → v.getLsbD 0 = true → Makes s (.psCntClear p v) fun t =>
      fld t PS_CNT0_FORCED n = 0 ∧ fld t PS_CNT0_POSTPONED n = 0 ∧ fld t PS_CNT1_PROMOTED n = 0 ∧ fld t PS_CNT1_PFORCED n = 0)

/-! ### Protection (chapter 9) -/

/-- The merge buffer and the scrubber (R232, R233, R235 to R238, R252): a gathering entry closes when GATHER expires and queues its
read-modify-write or its whole line; the returned line takes the entry's bytes and is stored; a due visit takes a queue entry of class C7; a
visit stores what its outcome says and moves on; the windows of corrections close and raise; EC_CNT_CLR clears. Readings of the model in it:
log entries 76 and 78. -/
def Obligations.MergeAndScrub : Prop :=
  ∀ (s : State) (p : Fin 20) (e : Fin 32) (err : Burst) (v : Word),
    let n := p.val
    let q := (portOf s n).prot
    PortHere s p →
    (∀ m, mget q.merge e.val = some m → m.closed = false → m.opened + fld s EC_CTL_GATHER n * 4 ≤ s.clk →
      Makes s (.gatherClose p e) fun t => mget (portOf t n).prot.merge e.val = some { m with closed := true } ∧ SameBytes s t ∧
        ∃ r, (portOf t n).sched.queue = (portOf s n).sched.queue ++ [r] ∧ r.la = m.la ∧ r.attr = m.attr ∧ r.owner = .rmw e.val ∧
          r.kind = if m.be = allBytes then .write m.data allBytes m.poison else .rmw e.val) ∧
    (∀ f m, (portOf s n).sched.flight.find? (fun g => decide (g.req.kind = .rmw e.val)) = some f → mget q.merge e.val = some m → m.poison = false →
      let u := modSched n (fun x => { x with flight := x.flight.filter fun g => g.id ≠ f.id }) s
      let d := decodeFlight u n f err
      let done (sts : BitVec 4) (w : State) : State := mergeDone n e.val sts w
      (d.1.tainted = false → Does s (.rmwReadDone p e err)
        (done 0 (storeLine n m.la (mergeLine d.2 m.data m.be) false orgRmw (noteDecode n m.la d.1 orgRmw true u)))) ∧
      (d.1.tainted = true → Does s (.rmwReadDone p e err)
        (done 1 (storePoisoned n m.la (mergeLine d.2 m.data m.be) orgRmw (noteDecode n m.la d.1 orgRmw true u))))) ∧
    (flg s SCR_CTL_EN n = true → scrubOn s = true → pstate s n = .service → s.pw.st.toNat ≤ 1 → q.scrubDue ≤ s.clk → q.scrubOut = false →
      scrubLines s n ≠ 0 → (liveDimms s n).contains (dimmOf (locOf s n (q.scrubPos * 64))) = true → c7Deferred s = false →
      fld s PS_WM_RSV n < queueCap n - (portOf s n).sched.queue.length → Makes s (.scrubVisit p) fun t => SameBytes s t ∧ (portOf t n).prot.scrubOut = true ∧
        (portOf t n).prot.scrubPos = q.scrubPos ∧ ∃ r, (portOf t n).sched.queue = (portOf s n).sched.queue ++ [r] ∧ r.la = q.scrubPos * 64 ∧
          r.kind = .visit ∧ runClass r.attr = 7) ∧
    (∀ f, (portOf s n).sched.flight.find? (fun g => decide (g.req.kind = .visit)) = some f → f.overwritten = false →
      let u := modSched n (fun x => { x with flight := x.flight.filter fun g => g.id ≠ f.id }) s
      let w := modProt n (fun x => { x with scrubOut := false, scrubPos := x.scrubPos + 1 }) (visitOutcome n f.req.la (decodeFlight u n f err) u)
      let pos := (portOf w n).prot.scrubPos
      pos < capG w n * 2 ^ 24 → Does s (.scrubVisitDone p err) (setFld SCR_PASS_DONE n (pos * 100 / (capG w n * 2 ^ 24)) w)) ∧
    (∀ a, q.ceOpen = some a → a + 1000 * edgesMs ≤ s.clk →
      Does s (.ceWindowExpire p) (modProt n (fun x => { x with ceOpen := none, ceCount := 0 }) s)) ∧
    (q.ceRaiseDue = true → (∀ a, q.ceLast = some a → a + 1000 * edgesMs ≤ s.clk) →
      Does s (.ceThRaise p) (raise 21 (modProt n (fun x => { x with ceRaiseDue := false, ceLast := some s.clk }) s) (some n))) ∧
    (s.pw.inReset = false → v.getLsbD 0 = true → Makes s (.ecCntClear p v) fun t =>
      fld t EC_CNT0_CE n = 0 ∧ fld t EC_CNT0_UE n = 0 ∧ fld t EC_CNT1_POISON_RD n = 0 ∧ fld t EC_CNT1_POISON_WR n = 0 ∧ fld t EC_CNT2_SCRUB_WB n = 0)

/-- Logs and row remap (R239, R242, R243, R253): TAIL moves where it leaves a COUNT of at most 32; EL_CLR clears LOST; RM_ADD takes the
lowest free slot for its row and starts its copy; each copied line is read, decoded and stored, and the last one makes the entry active.
Readings of the model in it: log entry 45. -/
def Obligations.LogsAndRemap : Prop :=
  ∀ (s : State) (p : Fin 20) (k : Fin 21) (v : Word) (err : Burst),
    let n := p.val
    let l := mgetD s.logs k.val {}
    let la := laOf s n (keyLoc (v.toNat % 2 ^ 30))
    (s.pw.inReset = false → logCount { l with tail := v.extractLsb' 8 6 } ≤ 32 →
      Gives s (.logTailWrite k v) { s with logs := mput s.logs k.val { l with tail := v.extractLsb' 8 6 } }) ∧
    (s.pw.inReset = false → ∃ t, Gives s (.elLostClear v) t ∧ { t with logs := s.logs } = s ∧
      ∀ j, mgetD t.logs j {} = if j < 21 ∧ v.getLsbD j = true then { mgetD s.logs j {} with lost := 0 } else mgetD s.logs j {}) ∧
    (PortHere s p → s.pw.inReset = false → v.getLsbD 31 = true → copyRunning s n = true → Does s (.remapAdd p v) (setFld RM_STAT_ADD_REF n 1 s)) ∧
    (PortHere s p → s.pw.inReset = false → v.getLsbD 31 = true → copyRunning s n = false → (remapOf s n (rowKey (locOf s n la))) = none →
      fld s RM_CTL_LOC n ≠ 0 → ∀ slot, freeSlot s n = some slot → Does s (.remapAdd p v) (raise 23 (logPort n 6 15 (some la) (slot + 2 * 64)
        (remapStat n (modProt n (fun x => { x with remap := mput x.remap slot { key := rowKey (locOf s n la), st := .copy } }) s))) (some n))) ∧
    (PortHere s p → softReady s n = none → ∀ slot r, (portOf s n).prot.remap.find? (fun e => e.2.st = .copy || e.2.st = .ret) = some (slot, r) →
      let a := laOf s n { keyLoc r.key with col := r.copied }
      let u := syncLine n a s
      let d := decodeLine u n a (readStored u n a).1 (readStored u n a).2 err
      let w := modProt n (fun x => { x with remap := mput x.remap slot { r with copied := r.copied + 1 } }) (noteDecode n a d.1 orgRemap false u)
      let z := storeLine n a d.2 false orgRemap w
      (∃ b, placeOf u n a = .dram b) → d.1.tainted = false →
      (r.copied + 1 < 2 ^ lineLog s n → Does s (.remapCopyLine p err) z) ∧
      (r.copied + 1 = 2 ^ lineLog s n → r.st = .copy → Does s (.remapCopyLine p err)
        (remapStat n (modProt n (fun x => { x with remap := mmod x.remap slot fun y => { y with st := .active, copied := 0 } }) z))))

/-- The march engine and SPAD_CLR (R247 to R250, R471): MT_GO starts the groups that may run the mode, or sets REFUSED; ABORT marks a
running test; its end clears BUSY, and sets DONE and the cause where a register started it; a destructive run leaves its last background in
the scratchpad banks that it covered. Readings of the model in it: log entry 79. -/
def Obligations.MarchEngine : Prop :=
  ∀ (s : State) (v : Word),
    let g := fld s MT_CTL_GROUP
    let destr := flg s MT_CTL_MODE
    (s.pw.inReset = false → s.march.running = false → fld s MT_CTL_ALG < 2 → (destr = true → fld s MT_CTL_BGS ≠ 0) → scrubOn s = true → g ≠ 0xFF →
      groupAllowed s destr g = true → ∃ t, Gives s .marchStart t ∧ flg t MT_STAT_BUSY = true ∧ fld t MT_STAT_FAILS = 0 ∧ fld t MT_STAT_GROUP = g ∧
        t.march = { running := true, groups := [g], alg := BitVec.ofNat 2 (fld s MT_CTL_ALG), destr := destr, bgs := BitVec.ofNat 4 (fld s MT_CTL_BGS) }) ∧
    (s.pw.inReset = false → s.march.running = true → Gives s .marchStart (setFld MT_STAT_REFUSED 0 1 s)) ∧
    (s.march.running = true → Gives s .marchAbort (setFld MT_STAT_ABORTED 0 1 { s with march := { s.march with aborted := true } })) ∧
    (s.march.running = true → s.march.destr = false → s.march.byReg = true → ∃ t, Gives s (.marchEnd []) t ∧ flg t MT_STAT_BUSY = false ∧
      flg t MT_STAT_DONE = true ∧ bits (regAt t 0x100 0) 26 1 = 1 ∧ t.march = {} ∧ t.spad = s.spad ∧ t.dram = s.dram) ∧
    (∀ bank < 32, s.march.running = true → s.march.destr = true → s.march.aborted = false → s.march.groups = [bank] → Memory.wf s.spad →
      ∃ t, Gives s (.marchEnd []) t ∧ t.dram = s.dram ∧ ∀ k, byteAt t.spad k = if k / 524288 = bank
        then bgByte (((List.range 4).reverse.find? fun i => s.march.bgs.getLsbD i).getD 0) (k % 524288) else byteAt s.spad k) ∧
    (s.pw.inReset = false → v.getLsbD 0 = true → Gives s (.spadClear v) (setWord 0x3C0000 0 (setWord 0x3C0004 0 s)))

/-! ### Stalls (chapter 10) -/

/-- Stalls through their window (R254 to R256, R275, R279, R285 to R287): ENABLE, DISABLE and RESET act on the stall that ST_SEL names; the
PIO window pushes and pops words; the counters clear; a staged ST_CFG1 applies at the packet boundary where it fits. Readings of the model
in it: log entry 85. -/
def Obligations.StallWindow : Prop :=
  ∀ (s : State) (a : BitVec 15) (v : Word),
    let k := fld s ST_SEL_STALL
    let opened : Prop := s.pw.inReset = false ∧ k < stallCount s.part.variant ∧ s.pw.st.toNat < 3
    let b := bits v.toNat 0 15
    let it : SItem := { data := BitVec.ofNat 64 (fld s ST_PIO_ITEM_LO_D + fld s ST_PIO_ITEM_HI_D * 2 ^ 32), eop := v.getLsbD 15, lbytes := BitVec.ofNat 3 (bits v.toNat 16 3) }
    (opened → (stallOf s k).st = .off → enableOk s k = true → Makes s .stallEnable fun t => (stallOf t k).st = .on) ∧
    (opened → (stallOf s k).st = .off → enableOk s k = false → Makes s .stallEnable fun t => (stallOf t k).st = .off ∧ (stallOf t k).refused = true) ∧
    (opened → (stallOf s k).st ≠ .off → Does s .stallDisable (resetStall k 3 s)) ∧
    (opened → (stallOf s k).st ≠ .off → Does s .stallReset (resetStall k 1 s)) ∧
    (opened → (stallOf s k).st = .off → Does s .stallReset s) ∧
    (s.pw.inReset = false → v.getLsbD 31 = true → b < stallCount s.part.variant → (stallOf s b).st ≠ .off → (stallOf s b).prod = 0x25 →
      (v.getLsbD 15 = true ∨ bits v.toNat 16 3 = 7) → route s b = b → (stallOf s b).mismatch = false →
      (stallOf s b).o + (stallOf s b).items.length + 1 + (stallOf s b).gout ≤ (stallOf s b).slots - 8 →
      Does s (.pioPush v) (pumpItems b (modStall b (fun y => { y with items := y.items ++ [it] }) s))) ∧
    (s.pw.inReset = false → v.getLsbD 31 = true → flg s ST_PIO_STAT_POPBUSY = false → b < stallCount s.part.variant → (stallOf s b).st ≠ .off →
      (stallOf s b).cons = 0x25 → (stallOf s b).mismatch = false → readerDone (startRead b .post 1 s) b .post = none →
      Does s (.pioPop v) (setFld ST_PIO_STAT_POPBUSY 0 1 (startRead b .post 1 s))) ∧
    (∀ e w l, flg s ST_PIO_STAT_POPBUSY = true → s.stalls.find? (fun e => (readerDone s e.1 .post).isSome) = some e →
      readerDone s e.1 .post = some (w :: l) → Makes s .pioPopDone fun t => flg t ST_PIO_STAT_POPBUSY = false ∧
        fld t ST_PIO_TAG_TAG = w.tag.toNat ∧ ∀ i < 16, fld t ST_PIO_W_D i = bits w.data.toNat (32 * i) 32) ∧
    (s.pw.inReset = false → v.getLsbD 0 = true → ∃ t, Gives s (.stEcntClear v) t ∧ fld t ST_ECNT_PWAIT = 0 ∧ fld t ST_ECNT_MISMATCH = 0) ∧
    (opened → v.getLsbD 0 = true → Gives s (.stErrClear v) (modStall k (fun x => { x with errOver := 0, errCe := 0 }) s)) ∧
    (a.toNat < stallCount s.part.variant → ∀ w, (stallOf s a.toNat).cfg1New = some w → (stallOf s a.toNat).pktOpen = false → applyOpen s = true →
      (stallOf s a.toNat).pktFits (bits w.toNat 8 13) = true → queueMaxOk s a.toNat (bits w.toNat 8 13) = true →
      Does s (.stallPacketBoundary a) (crcRestart s (modStall a.toNat (fun y => { y with cfg1 := w, cfg1New := none }) s)))

/-- What the stall manager does by itself (R264, R267 to R271, R274): the flush timer ends a partial word, an idle stall gives its pair
back, full words move to the ring, the drain bank is refilled word by word, and what waits for space goes on. Readings of the model in it:
log entries 80, 81 and 82. -/
def Obligations.StallEngine : Prop :=
  ∀ (s : State) (a : BitVec 15) (errs : List RefillErr),
    let n := a.toNat
    let x := stallOf s n
    n < stallCount s.part.variant →
    (flushDue s n = true → Does s (.stallFlushTimer a) (flushPart n s)) ∧
    (pairIdle s n = true → Does s (.pairIdleRelease a) (modStall n (fun y => { y with pair := none, staged := [], drain := none }) s)) ∧
    (x.st ≠ .off → c7Deferred s = false → ringDown s x = false → s.pw.st.toNat ≤ 1 → x.rew = false → x.fullWords ≠ [] →
      Does s (.stallSpillDone a) (stallPump n (modStall n (fun y => { y with
        spilled := x.fullWords.foldl (fun m e => max m (e.1 + 1)) 0
        staged := y.staged.filter fun e => !(x.fullWords.any fun z => z.1 = e.1) }) (ringPutAll x x.fullWords s)))) ∧
    (x.st ≠ .off → x.h < x.spilled → x.h < x.wpos → mget x.staged x.h = none → pairReady s n = true → s.pw.st.toNat ≤ 1 → x.pair.isSome = true →
      takePair n s = s →
      let kept := x.staged.filter fun e => some (e.1 / 8) ≠ x.drain
      let pos := ((List.range 8).map fun i => 8 * (x.h / 8) + i).filter fun p => x.h ≤ p && p < x.spilled && (mget kept p).isNone
      let te := refillErr errs 8
      let t := ringRead (x.tagAddr (8 * (x.h / 8)) / 64 * 64) te.1 te.2 s
      let r := refillWords x errs (t.2.1 = some false) t.1 pos (kept, 0, t.2.2)
      let u := modStall n (fun y => { y with staged := r.1, drain := some (x.h / 8) }) r.2.2
      Does s (.stallRefillDone a errs) (runReader n 8 (skipNow n (if r.2.1 = 0 then u else stallErr 8 n r.2.1 u)))) ∧
    Does s (.stallFwaitResume a) (pumpItems n (tryClose n (resumeWait n s))) ∧
    Does s (.stallCloseWord a) (pumpItems n (tryClose n s))

/-! ### The ring and the home (chapter 11) -/

/-- Requests on the ring (R288, R294, R295, R300, R314, R317, R319): a coherent request that nothing refuses is bound to the ring's record
and enters its line's order, behind what its stop's program order puts before it; one that is refused is answered COMP with its status;
ORDER is answered at once; the other barriers wait for the stop's earlier requests; a non-coherent request of DRAM with nothing before it
goes to its port; a reserved OP is answered FAIL_DECODE. Readings of the model in it: log entry 74. -/
def Obligations.RingRequests : Prop :=
  ∀ (s : State) (h : RingHdr) (d : Line) (op : BitVec 5),
    let mine : Prop := h.dst.toNat = ownStop s ∧ ringOpen s = true
    let u := active s
    let b := bind (fld u SCH_SRC_TKT_RING) none none u
    let line := h.laddr.toNat
    let stop := h.src.toNat
    let clean := hdrClean h false false false false
    let req (kind : HKind) (data : Line) : HomeReq :=
      { id := 0, kind := kind, line := line, stop := stop, txn := h.txn, data := data, be := if kind = .wb then allBytes else h.be,
        poison := h.poison, aop := h.arg.extractLsb' 0 4, size := h.arg.extractLsb' 4 3, off := h.off, attr := b.1,
        after := stopAfter b.2 stop kind }
    let takes (i : Instr) (kind : HKind) (data : Line) (agent ok : Bool) : Prop := mine →
      (ringRefuse u h true agent ok = none → Does s i (homeSubmit (req kind data) b.2)) ∧
      (∀ sts, ringRefuse u h true agent ok = some sts → Does s i (ringComp stop h.txn line sts u))
    let atomOk := hdrClean h true true false false && atomicOk (bits h.arg.toNat 0 4) (bits h.arg.toNat 4 3) && bits h.arg.toNat 7 1 = 0 &&
      h.off.toNat % 2 ^ bits h.arg.toNat 4 3 = 0
    takes (.rds h .none) .rds 0 true clean ∧ takes (.rdu h .none) .rdu 0 true clean ∧ takes (.upg h .none) .upg 0 true clean ∧
    takes (.wb h d) .wb d true (hdrClean h false false false true) ∧ takes (.rdo h .none) .rdo 0 false clean ∧
    takes (.wru h d .none) .wru d false (hdrClean h false false true false) ∧ takes (.atom h d .none) .atom d false atomOk ∧
    (mine → homeImpl s.part.variant = true → failedAgent u stop = false → hdrClean h true false false false = true → h.laddr = 0 → h.arg = 0 →
      Does s (.ringBar h) (barPump (modHome (fun m => { m with bars := m.bars ++ [(stop, h.txn, 0, stopOpen u stop)] })
        (ringComp stop h.txn 0 0 u)))) ∧
    (mine → homeImpl s.part.variant = true → failedAgent u stop = false → hdrClean h true false false false = true → h.laddr = 0 →
      h.arg = 1 ∨ h.arg = 2 → Does s (.ringBar h) (barPump (modHome (fun m => { m with bars := m.bars ++ [(stop, h.txn,
        h.arg.extractLsb' 0 2, stopOpen u stop)] }) u))) ∧
    (mine → homeImpl s.part.variant = true → failedAgent u stop = true → hdrClean h true false false false = true → h.laddr = 0 →
      h.arg.toNat ≤ 2 → Does s (.ringBar h) (ringComp stop h.txn 0 8 u)) ∧
    (∀ p la, mine → ringRefuse u h false false clean = none → target u (line * 64) = .dram p la → portFails u p = false →
      stopAfter u stop .rdo = [] → Makes s (.nrd h) fun t => SameBytes s t ∧ ∃ r, (portOf t p).sched.wait = (portOf s p).sched.wait ++ [r] ∧ r.la = la ∧ r.kind = .read) ∧
    (∀ p la, mine → ringRefuse u h false false (hdrClean h false false true false) = none → target u (line * 64) = .dram p la →
      portFails u p = false → stopAfter u stop .wru = [] → Makes s (.nwr h d) fun t => SameBytes s t ∧
        ∃ r, (portOf t p).sched.wait = (portOf s p).sched.wait ++ [r] ∧ r.la = la ∧ r.kind = .write d h.be false) ∧
    (mine → op = 0 ∨ 10 < op.toNat → Does s (.ringReqReserved h op) (ringComp stop h.txn line 4 u))

/-- Answers and timeouts at the home (R303, R306, R310, R313, R318, R322, R80): an answer leaves its stop's place in the wait, a forwarded
line joins its request, an acknowledgement releases the line, and a malformed answer is discarded and counted; a snoop whose timer expires
fails the silent live agents; the agents are readmitted, and the home's counters, its footprint and the reservation counters clear, by their
registers. Readings of the model in it: log entry 73. -/
def Obligations.HomeAnswers : Prop :=
  ∀ (s : State) (h : RingHdr) (d : Option Line) (x : Line) (laddr : BitVec 40) (v : Word),
    let line := h.laddr.toNat
    let stop := h.src.toNat
    let mine : Prop := h.dst.toNat = ownStop s ∧ homeImpl s.part.variant = true ∧ failedAgent s stop = false
    let home : Prop := homeImpl s.part.variant = true ∧ s.pw.inReset = false
    (mine → s.home.snpset = none → ∀ r, awaiting s line stop = some r → ansClean h = true → h.note = false →
      Does s (.ans h d) (homeCheck r.id (homeMod r.id (fun y => { y with
        await := y.await.erase stop
        held := y.held || (h.state != 0 && stop ≠ y.stop)
        fwdBy := if h.fwd then some stop else y.fwdBy
        fwdDirty := y.fwdDirty || (h.fwd && h.dirty)
        fwdState := if h.fwd then 1 else y.fwdState
        ansLine := match d with
          | some l => if h.fwd && h.dirty then some (l, h.poison) else y.ansLine
          | none => y.ansLine }) s))) ∧
    (mine → s.home.snpset = none → awaiting s line stop = none → Does s (.ans h d) (homeProto line stop 31 s)) ∧
    (mine → ansClean h = false → Does s (.ans h d) (homeProto line stop 31 s)) ∧
    (mine → datClean h = true → ∀ r, s.home.reqs.find? (fun r => r.line = line && r.phase = .snoop && takesLine r && r.fwdLine.isNone) = some r →
      Does s (.data h x) (homeCheck r.id (homeMod r.id (fun y => { y with fwdLine := some (x, h.poison) }) s))) ∧
    (mine → ackClean h = true → ∀ r, s.home.reqs.find? (fun r => r.line = line && r.granted && r.stop = stop) = some r →
      Does s (.ack h) (homeRun (homeDrop r.id s))) ∧
    (∀ r, s.home.reqs.find? (fun r => r.line = laddr.toNat && r.phase = .snoop && r.snoopAt + fld s HOME_TMO_US * edgesUs ≤ s.clk) = some r →
      let miss := r.await.filter fun a => (liveAgents s).contains a
      miss ≠ [] →
      let w := suspectSweep (miss.foldl (failAgent r.line r.kind.op (1 < miss.length)) s)
      (∀ a ∈ miss, bits (fld w HOME_AGT_FAIL_FAILED) a 1 = 1) ∧
      ∀ q, homeFind w r.id = some q →
        let y : HomeReq := { q with await := [], timedOut := true, fwdBy := if takesLine q && q.fwdLine.isNone then none else q.fwdBy }
        Does s (.snoopTimeout laddr) (homeRun (homeDecide y (homeMod q.id (fun _ => y) w)))) ∧
    (home → ∃ t, Gives s (.agentReadmit v) t ∧
      ∀ a < 24, bits (fld t HOME_AGT_FAIL_FAILED) a 1 = if v.getLsbD a then 0 else bits (fld s HOME_AGT_FAIL_FAILED) a 1) ∧
    (home → v.getLsbD 0 = true → Gives s (.homeCntClear v) (setWord 0xA0020 0 (setWord 0xA0024 0 (setWord 0xA0028 0 s)))) ∧
    (home → v.getLsbD 0 = true → ∃ t, Gives s (.ringDurClear v) t ∧ foot3 t ringFoot = 0) ∧
    (home → v.getLsbD 0 = true → ∃ t, Gives s (.homeRsvClear v) t ∧ fld t HOME_RSV_LOSS_STORE = 0 ∧ fld t HOME_RSV_LOSS_EXC = 0 ∧ fld t HOME_RSV_LOSS_EVICT = 0 ∧ fld t HOME_RSV_LOSS_OTHER = 0)

/-! ### The timebase (chapter 5) -/

/-- Steps and pulses (R111, R114 to R119): reading TB_COUNT_LO latches the upper half; a step holds DRAM work for requests and loads the
preset once every stamped command has executed, or waits for EPOCH; a step that finds a launch or a step is refused; a pulse on EPOCH_IN
records its count and phase, two edges later; EPOCH_OUT is driven for eight ticks. Readings of the model in it: log entry 96. -/
def Obligations.TimebaseSteps : Prop :=
  ∀ (s : State) (phase : BitVec 6) (width : Nat) (v : Word),
    let idle : Prop := s.pw.inReset = false ∧ s.tb.launches = [] ∧ s.tb.step = .none
    let busy : Prop := s.pw.inReset = false ∧ (s.tb.launches ≠ [] ∨ s.tb.step ≠ .none)
    let u := tickStep (tickStep (modTb (fun b => { b with epochBlind := s.clk + 4096 }) s))
    (s.pw.inReset = false → Gives s .tbCountRead (setFld TB_COUNT_HI_CNT 0 (bits (countNow s).toNat 32 32) s)) ∧
    (idle → Does s .softStep (modTb (fun b => { b with step := .soft }) (stepHold s))) ∧
    (busy → Does s .softStep (setFld TB_STAT_STEP_REF 0 1 s)) ∧
    (idle → Does s .armEpochStep (arm (modTb (fun b => { b with step := .armed }) (stepHold s)))) ∧
    (s.tb.step = .armed → s.tb.fedArm = none → Does s .abandonStep (stepAlign (setFld TB_STAT_ARMED 0 0 s))) ∧
    (stampsDone s = true → s.tb.step = .soft → Does s .stepLoad (stepAlign (loadCount (BitVec.ofNat 64 (presetOf s)) s))) ∧
    (stampsDone s = true → s.tb.step = .armed → flg s TB_STAT_ARMED = false → Makes s .stepLoad fun t =>
      flg t TB_STAT_ARMED = true ∧ t.count = s.count ∧ t.tb.armEnd = s.clk + fld s TB_FED_ARM_TMO * edgesMs) ∧
    (s.tb.step = .armed → flg s TB_STAT_ARMED = true → s.tb.armEnd ≤ s.clk → s.tb.fedArm = none →
      Does s .stepArmTimeout (setFld TB_STAT_ARM_TMO 0 1 (stepAlign (setFld TB_STAT_ARMED 0 0 s)))) ∧
    (s.pw.inReset = false → s.pw.st.toNat < 3 → 4 ≤ width → s.tb.epochBlind ≤ s.clk → flg s TB_FED_CHECK = true →
      Makes s (.epochPulseIn phase width) fun t => t.count = u.count ∧ fld t TB_ECNT_CNT = u.count.toNat % 2 ^ 32 ∧
        fld t TB_ECAP_PHASE = phase.toNat ∧ flg t TB_ECAP_VALID = true) ∧
    (∀ x : BitVec 64, (loadCount x s).count = x ∧ (loadCount x s).clk = s.clk ∧ SameBytes s (loadCount x s)) ∧
    (s.pw.inReset = false → v.getLsbD 0 = true → flg s TB_FED_EOUT_EN = true → s.tb.epochOut ≤ s.clk → Gives s (.epochPulseOut v)
      (modTb (fun b => { b with epochOut := s.clk + 9, epochPulses := b.epochPulses + 1 }) s))

/-- Time marks (R122 to R124, R140, R182): an exchange that is due sends t1 and keeps it; a void one starts again at once; the four times
give THETA, and the port is aligned where it lies within TOL; the counters clear. Readings of the model in it: log entry 96. -/
def Obligations.TimeMarks : Prop :=
  ∀ (s : State) (p : Fin 20) (fine : BitVec 8) (t2 t3 : BitVec 32) (v : Word),
    let n := p.val
    let m := (portOf s n).marks
    PortHere s p →
    (linkUp s n = true → m.t1 = none → m.due ≤ s.clk → Does s (.timeMarkStart p fine) (sendPacket n (.mark 0 0) (modMarks n (fun x =>
      { x with t1 := some (s.count.toNat * 256 + fine.toNat), void := false, due := s.clk + 2 ^ (10 + fld s TS_CTL_PERIOD n) }) s))) ∧
    (∀ a, m.t1 = some a → linkUp s n = true → Does s (.timeMarkAnswer p t2 t3 fine true)
      (modMarks n (fun x => { x with t1 := none, due := s.clk, void := false }) s)) ∧
    (∀ a, m.t1 = some a → linkUp s n = true → m.void = false → Does s (.timeMarkAnswer p t2 t3 fine false)
      (markDone n a (markWord t2) (markWord t3) (s.count.toNat * 256 + fine.toNat) s)) ∧
    (∀ a b c d : Int,
      let theta := asSigned 32 ((b - a) % 2 ^ 32).toNat - asSigned 32 ((d - c) % 2 ^ 32).toNat - asSigned 16 (fld s TS_ASYM_A n)
      theta % 2 = 0 → fld s TS_CTL_TOL n < (theta / 2).natAbs → flg (markDone n a b c d s) TS_THETA_ALIGNED n = false ∧
        (portOf (markDone n a b c d s) n).marks.realign = true ∧ bits (regAt (markDone n a b c d s) 0x100 0) 6 1 = 1) ∧
    (native s n = true → s.pw.inReset = false → v.getLsbD 0 = true → Makes s (.tsCntClear p v) fun t =>
      fld t TS_CNT0_LATE n = 0 ∧ fld t TS_CNT0_RESTAMP n = 0 ∧ fld t TS_CNT1_REALIGN n = 0 ∧ fld t TS_CNT1_LINKFAIL n = 0)

/-- Launches (R130 to R137, R281): the holds and starts of a launch apply to the actions that are due, each once; REF_HOLD ends; a due
stream line enters its port with the stream's deadline; a cancelled launch starts nothing that was not held; a stall switch waits for the
end of the packet; the alarm is written, and fires once the count has reached it. Readings of the model in it: log entries 97, 98 and 99. -/
def Obligations.Launches : Prop :=
  ∀ (s : State) (p : Fin 20) (l : Fin 8) (k : Nat) (a : BitVec 15) (reg : Fin 3) (v : Word) (x : Act) (tt : BitVec 64),
    (mget s.tb.launches l.val = some { t := tt, acts := [x] } → x.held = false → x.started = false → x.isPort = true →
      tt.toNat ≤ s.count.toNat + leadOf s x.port.toNat + fld s TB_LCTL_SETUP →
      Does s (.launchHold l) (holdAct l.val 0 tt x (setAct l.val 0 { x with held := true } s))) ∧
    (mget s.tb.launches l.val = some { t := tt, acts := [x] } → x.started = false → x.held = true ∨ x.isPort = false →
      tt.toNat ≤ s.count.toNat + (if x.isPort then leadOf s x.port.toNat else 0) →
      Does s (.launchStart l) (launchEnd l.val (startAct l.val 0 x (setAct l.val 0 { x with started := true } s)))) ∧
    (∀ i, (startAct l.val i { x with act := 5 } s) = raise 7 s) ∧
    (PortHere s p → (portOf s p.val).sched.refHold ≤ s.clk → Does s (.refHoldEnd p) (modSched p.val (fun q => { q with refHold := 0 }) s)) ∧
    (PortHere s p → ∀ y, (portOf s p.val).streams.find? (fun z => z.entered = k && k < streamLines z.act &&
        z.t + k * streamPeriod z.act - streamPre z.act ≤ tick s) = some y → Does s (.streamLineEnter p k) (streamEnter p.val y s)) ∧
    (s.pw.inReset = false → v.getLsbD 3 = true → Does s (.launchCancel v) (launchCancel (bits v.toNat 0 3) s)) ∧
    (1 ≤ s.pw.st.toNat → s.pw.st.toNat ≤ 3 → (s.tb.launches.any fun e =>
        e.2.t.toNat ≤ (countNow s).toNat + fld s TB_LCTL_SETUP + maxLead s + engineW s s.pw.st.toNat + 4096) = true →
      Does s .launchSelfWake (wake 5 s)) ∧
    (∀ b, s.tb.switches.find? (fun e => decide (e.1 = a.toNat)) = some (a.toNat, b) → (stallOf s a.toNat).pktOpen = false →
      let u := modTb (fun c => { c with switches := c.switches.erase (a.toNat, b) }) s
      (switchOk u a.toNat b = true → Does s (.stallSwitch a) (modStall a.toNat (fun y => { y with gout := 0, redir := some (BitVec.ofNat 15 b) })
        (modStall b (fun y => { y with gout := (stallOf u a.toNat).gout }) u))) ∧
      (switchOk u a.toNat b = false → Does s (.stallSwitch a) (stallErr 6 a.toNat 0 u))) ∧
    (s.pw.inReset = false → ∃ t, Gives s (.tbAlarmWrite reg v) t ∧ (reg = 0 → fld t TB_ALARM_LO_VAL = v.toNat) ∧
      (reg = 1 → fld t TB_ALARM_HI_VAL = v.toNat) ∧ (reg = 2 → fld t TB_ALARM_CTL_EN = bits v.toNat 0 1 ∧ fld t TB_ALARM_CTL_WAKE = bits v.toNat 2 1 ∧
        (v.getLsbD 0 = true → flg s TB_ALARM_CTL_EN = false → t.tb.alarmArmed = true))) ∧
    (s.tb.alarmArmed = true → flg s TB_ALARM_CTL_EN = true → alarmTick s ≤ (countNow s).toNat → s.pw.inReset = false →
      flg s TB_ALARM_CTL_WAKE = false → Makes s .tbAlarmFire fun t =>
        flg t TB_ALARM_CTL_FIRED = true ∧ t.tb.alarmArmed = false ∧ bits (regAt t 0x100 0) 5 1 = 1)

/-! ### Enabling and keeping a port (chapters 6 and 7) -/

/-- The enable of a port (R142 to R145, R149, R160, R204): power good and its 50 ms, the SPD data, initialisation, training with the timing
that firmware loads, and the zero-fill, after which the port is in SERVICE. Readings of the model in it: log entries 3, 27 and 101. -/
def Obligations.PortEnable : Prop :=
  ∀ (s : State) (p : Fin 20) (spd : List SpdSlot) (rfm : BitVec 20) (failed : BitVec 4) (timing : List (BitVec 32)),
    let n := p.val
    let d := (portOf s n).dram
    PortHere s p →
    (pstate s n = .power → Does s (.pwrGoodRise p) (modDram n (fun x => { x with pwrEn := none }) s)) ∧
    (∀ a, d.pwrEn = some a → pstate s n = .power → a + 50 * edgesMs ≤ s.clk → Does s (.pwrGoodTimeout p) (refusePort n 8 0 0 s)) ∧
    (pstate s n = .power → d.pwrEn = none → (portPwr s n).cur = none →
      (∀ e, (slotsOf n spd).find? (fun e => slotErr e.1 (if cx2 s n then 256 else 512)
          (serial n && (slotsOf n spd).any fun e => 2 ≤ e.1 && e.2.present) e.2 ≠ 0) = some e → Makes s (.spdReadDone p spd) fun t =>
        pstate t n = .off ∧ popErr t n = slotErr e.1 (if cx2 s n then 256 else 512)
          (serial n && (slotsOf n spd).any fun e => 2 ≤ e.1 && e.2.present) e.2 ∧ 1 ≤ popErr t n ∧ popErr t n ≤ 5) ∧
      (∀ x, serial n = false → spd = [x] → slotErr 0 512 false x = 0 → d.enable = .cold → shedSet s n = 0 →
        ∀ sp, speedFor s n false [x] = some sp → Makes s (.spdReadDone p spd) fun t =>
          pstate t n = .init ∧ fld t DP_STAT_SPEED n = sp ∧ present t n = 1 ∧ SameBytes s t)) ∧
    (pstate s n = .init → Makes s (.initDone p rfm) fun t => pstate t n = .train ∧ SameBytes s t ∧
      regAt t (DP_RFM_RAAIMT.off n) 0 = rfm.toNat ∧ (portOf t n).dram.hardPend = [] ∧ fld t DP_PPR_CNT_PEND n = 0) ∧
    (pstate s n = .train → d.enable = .cold → failed ≠ 0 →
      Does s (.initialTrainingDone p failed timing) (refusePort n 9 0 0 (setFld TR_STAT_FSTEP n failed.toNat s))) ∧
    (pstate s n = .train → d.enable = .cold → fillSet s n = 0 → (portPwr s n).cur = none → ∀ w, Makes s (.initialTrainingDone p 0 [w]) fun t =>
      pstate t n = .service ∧ regAt t (DP_T0_CL.off n) 0 = w.toNat ∧ mget t.floors (DP_T0_CL.off n) = some w ∧ SameBytes s t) ∧
    (d.enable = .fill → Does s (.zeroFillDone p) (enterService n (setShed n 0 (modDram n (fun x => { x with zeroFill := 0 })
      (((List.range 4).filter fun i => bits (fillSet s n) i 1 = 1).foldl (fun t i => zeroDimm n i t) s)))))

/-- Alerts (R153, R154, R158): ALERT low in SERVICE begins the handling, and its pulse's length names the kind; after RECOV the commands
that are not known good are replayed, or a port whose training fails halts; loss of power good halts a direct port in service. Readings of
the model in it: log entry 104. -/
def Obligations.Alerts : Prop :=
  ∀ (s : State) (p : Fin 20) (clocks : Nat) (ok : Bool),
    let n := p.val
    let d := (portOf s n).dram
    PortHere s p →
    (serial n = false → pstate s n = .service → d.alertAt = none → d.alertRise = none →
      Does s (.alert p) (abortPause n (modDram n (fun x => { x with alertAt := some s.clk }) s))) ∧
    (serial n = false → pstate s n = .service → d.alertAt = none → d.alertRise ≠ none → Does s (.alert p) (addFld DP_CNT2_SPURIOUS n 1 s)) ∧
    (d.alertAt ≠ none → Makes s (.alertRise p clocks) fun t => SameBytes s t ∧ (portOf t n).dram.alertAt = none ∧
      (portOf t n).dram.alertRise = some s.clk ∧ (portOf t n).dram.alerts = d.alerts + 1 ∧ bits (regAt t 0x100 0) 10 1 = 1 ∧
      fld t DP_CNT0_CRC n = (if clocks < fld s DP_ALERT_SPLIT n then min (fld s DP_CNT0_CRC n + 1) 65535 else fld s DP_CNT0_CRC n) ∧
      fld t DP_CNT0_PAR n = (if clocks < fld s DP_ALERT_SPLIT n then fld s DP_CNT0_PAR n else min (fld s DP_CNT0_PAR n + 1) 65535)) ∧
    (∀ a, d.alertRise = some a → serial n = false → a + 4 * fld s DP_ALERT_RECOV n ≤ s.clk → pstate s n = .service →
      let u := modDram n (fun x => { x with alertAt := none, alertRise := none }) s
      (d.escalated = false → d.alerts < fld s DP_ALERT_RETRY n → Does s (.alertRecoveryDone p ok) (noteReplays n d.alertEnd u)) ∧
      (d.escalated = false → fld s DP_ALERT_RETRY n ≤ d.alerts → Does s (.alertRecoveryDone p true)
        (modDram n (fun x => { x with escalated := true }) (caPause n (noteReplays n d.alertEnd u)))) ∧
      (d.escalated = true ∨ (ok = false ∧ fld s DP_ALERT_RETRY n ≤ d.alerts) → Does s (.alertRecoveryDone p ok) (portHalt n 1 u))) ∧
    (serial n = false → inService s n = true → Does s (.pwrGoodLost p) (portHalt n 2 s)) ∧
    (∀ c, pstate (portHalt n c s) n = .halted ∧ bits (regAt (portHalt n c s) 0x100 0) 11 1 = 1 ∧ SameBytes s (portHalt n c s))

/-- Self-refresh, ZQ and temperatures (R102, R151, R157, R159, R162): an idle port enters self-refresh and a waiting request ends it; a due
calibration starts, and latches a microsecond later; a reading over 85 doubles the DIMM's refresh and one over 95 raises the cause once.
Readings of the model in it: log entries 2 and 104. -/
def Obligations.PortUpkeep : Prop :=
  ∀ (s : State) (p : Fin 20) (rank : RankId) (t0 t1 : Option (BitVec 8)) (v : Word),
    let n := p.val
    let q := (portOf s n).sched
    let room : Prop := mayIssue s n = true ∧ q.retry.length < 63 ∧ (portOf s n).link.retry.length < 255
    PortHere s p →
    (pstate s n = .service → fld s DP_SR_IDLE n ≠ 0 → (portOf s n).dram.idleAt + fld s DP_SR_IDLE n * edgesUs ≤ s.clk → portQuiet s n = true →
      duePause s n = none → q.pause = none → launchNames s n = false → Makes s (.autoSelfRefresh p) fun t =>
        pstate t n = .selfRefresh ∧ (portOf t n).dram.srAt = some s.clk ∧ (portOf t n).dram.srCmd = false ∧ SameBytes s t) ∧
    (srWaits s n = true → q.wait ≠ [] → serial n = false → Makes s (.selfRefreshExit p) fun t =>
      pstate t n = .service ∧ (portOf t n).dram.srAt = none ∧ SameBytes s t) ∧
    (room → fld s DP_ZQ_PER n ≠ 0 → (∀ l ∈ rankLocs rank, rankThere s n l = true ∧ (rankSt s n (rankKey l)).zqStart = none ∧
        (rankSt s n (rankKey l)).zqLast + fld s DP_ZQ_PER n * edgesMs ≤ s.clk) → Makes s (.zqStart p rank) fun t => SameBytes s t ∧
      ∀ l ∈ rankLocs rank, (rankSt t n (rankKey l)).zqStart = some s.clk) ∧
    (room → q.queue = [] → (∀ l ∈ rankLocs rank, rankThere s n l = true ∧ (subOf s n l.sub).openRows = [] ∧
        (subOf s n l.sub).hist = [] ∧ (rankSt s n (rankKey l)).busy ≤ slotClk s n 0 ∧
        ∃ z, (rankSt s n (rankKey l)).zqStart = some z ∧ z + edgesUs ≤ s.clk) → Makes s (.zqLatch p rank) fun t => SameBytes s t ∧
      ∀ l ∈ rankLocs rank, (rankSt t n (rankKey l)).zqStart = none ∧ (rankSt t n (rankKey l)).zqLast = s.clk) ∧
    (serial n = false → pstate s n ≠ .off → Does s (.dimmTempPoll p t0 t1) (polled n 1 t1 (polled n 0 t0 s))) ∧
    (∀ (dimm : Fin 4) (c : Int),
      (85 < c → bits (fld (heard n dimm.val c s) PS_STAT_HOT n) dimm.val 1 = 1) ∧
      (95 < c → bits q.hot.toNat dimm.val 1 = 0 → bits (regAt (heard n dimm.val c s) 0x100 0) 12 1 = 1) ∧
      mget (portOf (heard n dimm.val c s) n).dram.tempAt dimm.val = some s.clk) ∧
    (s.pw.inReset = false → v.getLsbD 0 = true → Makes s (.dpCntClear p v) fun t =>
      fld t DP_CNT0_PAR n = 0 ∧ fld t DP_CNT0_CRC n = 0 ∧ fld t DP_CNT1_SRE n = 0 ∧ fld t DP_CNT1_REPLAYED n = 0 ∧
      fld t DP_CNT2_RFM n = 0 ∧ fld t DP_CNT2_SPURIOUS n = 0)

/-! ### Serial links (chapter 7) -/

/-- Lanes and the spare (R167 to R174, R206, R207, R210, R216): lock is shown, a lost or faulty lane calls the spare, a weak one by a
planned switch; the spare takes its place after the switch; a takeover that does not come loses the link; each direction's lanes take turns
on the spare; what a soak finds makes a lane healthy or not. Readings of the model in it: log entry 106. -/
def Obligations.SerialLanes : Prop :=
  ∀ (s : State) (p : Fin 20) (lane : Fin 9) (dir : Bool) (symbols unc : Nat) (runs : List Meas) (r : SoakResult),
    let n := p.val
    let j := lane.val
    PortHere s p → serial n = true →
    (pstate s n ≠ .off → Makes s (.laneLockAcquired p lane) fun t => SameBytes s t ∧ bits (fld t SL_STAT_RXLOCK n) j 1 = 1 ∧
      (laneOf (portOf t n).link.rx j).blockLock = true ∧ (laneOf (portOf t n).link.rx j).cwLock = true) ∧
    (linkRuns s n = false → Makes s (.laneLockLoss p lane) fun t => SameBytes s t ∧ bits (fld t SL_STAT_RXLOCK n) j 1 = 0 ∧
      (laneOf (portOf t n).link.rx j).healthy = false) ∧
    (native s n = true → linkRuns s n = true →
      let u := addFld SL_CNT1_UNCW n unc s
      (fld s SL_FAULT_UNC n ≤ unc → Does s (.laneWeak p lane symbols unc) (laneFault n true j u)) ∧
      (unc < fld s SL_FAULT_UNC n → fld s SL_FAULT_SYM n ≠ 0 → fld s SL_FAULT_SYM n < symbols →
        Does s (.laneWeak p lane symbols unc) (laneWeak n true j u))) ∧
    (linkRuns s n = true → ∀ k at_ sp, spareOf s n dir = .shadow k at_ → k < 8 → spareLane s n dir = some sp → sp < 9 →
      Makes s (.spareSwitch p dir) fun t => SameBytes s t ∧ physOf t n dir k = sp ∧ spareOf t n dir = .stands k ∧ flg t SL_STAT_SPARE n = true ∧
        bits (regAt t 0x100 0) 14 1 = 1) ∧
    (∀ k at_, spareOf s n dir = .shadow k at_ → (laneOf (lanesOf s n dir) (physOf s n dir k)).bad = true →
      at_ + fld s SL_CTL_TKO n * edgesUs ≤ s.clk → Does s (.takeoverTimeout p dir) (linkLoss n s)) ∧
    (native s n = true → linkRuns s n = true → pstate s n = .service → fld s SL_STAT_LSTATE n = 0 → flg s SL_RECAL_EN n = true →
      rateWaits s n = false → recalDueOf s n dir ≤ s.clk → s.pw.st.toNat ≤ 1 → spareUsed s n dir = false → ∀ sp, spareOf s n dir = .idle →
      spareLane s n dir = some sp → (laneOf (lanesOf s n dir) sp).bad = false → Makes s (.recalTurn p dir) fun t => SameBytes s t ∧
        spareOf t n dir = .turn (recalNextOf s n dir % 8) s.clk) ∧
    (∀ k at_, spareOf s n dir = .turn k at_ → at_ + fld s SL_RECAL_HOLD n * edgesUs < s.clk → Makes s (.recalReturn p dir runs) fun t =>
      SameBytes s t ∧ spareOf t n dir = .idle ∧ recalNextOf t n dir = (k + 1) % 8 ∧ (portOf t n).train.items = (portOf s n).train.items) ∧
    (pstate s n = .link → Does s (.laneSoak p lane r) (laneSoak n j r s)) ∧
    ((laneOf (portOf (laneSoak n j r s) n).link.rx j).healthy = soakOk s n r) ∧
    (fld s SL_STAT_LSTATE n = 0 → Does s (.driftClamp p lane) (addFld TR_CNT1_CLAMP n 1 (modLink n (fun k => { k with recalNext := j }) s)))

/-- Link-up, loss and relink (R168, R170, R176, R186, R188, R189, R197, R198): LINKUP puts the maps in force, over eight lanes where both
sides hold eight and over four otherwise; RESUME replays from the number that it names; the link timeout fails what is outstanding; a port
that does not link up in time is refused; a rate change is placed as a pause. Readings of the model in it: log entry 105. -/
def Obligations.SerialLink : Prop :=
  ∀ (s : State) (p : Fin 20) (rx tx : BitVec 9) (seq : BitVec 12) (v : Word),
    let n := p.val
    let k := (portOf s n).link
    let a := healthyOf s n true rx
    let b := healthyOf s n false tx
    PortHere s p → serial n = true →
    (pstate s n = .link → 4 ≤ a.length → 4 ≤ b.length → Makes s (.linkup p rx tx) fun t => SameBytes s t ∧
      fld t SL_STAT_WIDTH n = (if 8 ≤ a.length ∧ 8 ≤ b.length then 1 else 2) ∧ (portOf t n).link.txSeq = 0 ∧ (portOf t n).link.rxSeq = 0 ∧
      (portOf t n).link.retry = [] ∧ ∀ i < 4, physOf t n true i = (a[i]?).getD 15 ∧ physOf t n false i = (b[i]?).getD 15) ∧
    (k.lost = true → k.relinked = false → k.timedOut = false → linkRuns s n = true → (k.txSeq - seq).toNat ≤ k.retry.length →
      Makes s (.relink p seq) fun t => SameBytes s t ∧ (portOf t n).link.relinked = true ∧
        (portOf t n).link.retry = k.retry.drop (k.retry.length - (k.txSeq - seq).toNat)) ∧
    (k.lost = true → k.relinked = false → k.timedOut = false → linkRuns s n = true → (k.txSeq - seq).toNat ≤ k.retry.length → ∀ lost,
      Makes s (.resume p seq lost false) fun t => SameBytes s t ∧ (portOf t n).link.relinked = true ∧
        (portOf t n).link.retry = k.retry.drop (k.retry.length - (k.txSeq - seq).toNat)) ∧
    (pstate s n = .linkDown → k.lost = true → k.timedOut = false → k.lostAt + fld s SL_CTL_TMO n * edgesMs ≤ s.clk →
      let c := failAll n (goodAll n ((portOf s n).sched.retry.takeWhile fun i => acked s n i).length s)
      Does s (.linkTimeout p) (modLink n (fun x => { x with retry := [], timedOut := true, srSelf := true }) (addFld TS_CNT1_LINKFAIL n c.1 c.2))) ∧
    (pstate s n = .link → k.linkAt + fld s SL_CTL_TMO n * edgesMs ≤ s.clk → Does s (.linkUpTimeout p) (refusePort n 0xA 0 0 s)) ∧
    ((portOf s n).sched.pause = none → rateWaits s n = true → pstate s n = .service →
      (∀ m < 20, (portOf s m).sched.pauses.all (fun x => decide (x.kind ≠ kindRate)) = true) → Does s (.rateChange p)
        (modSched n (fun y => { y with pauses := y.pauses ++ [{ kind := kindRate, rank := 0, len := 800, due := s.clk }] }) s)) ∧
    (s.pw.inReset = false → v.getLsbD 0 = true → Makes s (.slCntClear p v) fun t =>
      fld t SL_CNT0_CRCERR n = 0 ∧ fld t SL_CNT0_RETRY n = 0 ∧ fld t SL_CNT1_UNCW n = 0 ∧ fld t SL_CNT1_LINKLOSS n = 0 ∧
      fld t SL_CNT2_LOOPERR n = 0 ∧ fld t SL_CNT2_PROTO n = 0)

/-- Packets of the link itself (R178, R186, R194, Tables 7.5 and 7.9): one that fails its CRC is counted and answered with a NAK, which is
repeated after two round trips; a NAK replays, and RETRY of them for one number lose the link; an acknowledgement frees what it names and
credits return; a reserved type is a protocol error; reports of temperatures, lanes, registers, power and alerts take their effect. Readings
of the model in it: log entry 105. -/
def Obligations.SerialPackets : Prop :=
  ∀ (s : State) (p : Fin 20) (ack : BitVec 12) (cr : BitVec 4) (index : BitVec 8) (content : BitVec 56) (temp val : BitVec 32) (ok : BitVec 4)
    (lane : Fin 9) (weak ch crc : Bool) (reg : BitVec 16) (stamp : BitVec 28) (mr : BitVec 8) (sub : Fin 4) (dimms : BitVec 4) (bitErrors : W64),
    let n := p.val
    let k := (portOf s n).link
    let u := rxPacket n s
    let opened : Prop := linkRuns s n = true ∧ (k.lost = false ∨ k.relinked = true)
    PortHere s p →
    (linkRuns s n = true → k.nakSent = false → Does s (.packetCrcFail p) (sendPacket n (.credit k.rxSeq true)
      (modLink n (fun x => { x with nakSent := true, nakAt := s.clk }) (addFld SL_CNT0_CRCERR n 1 s)))) ∧
    (linkRuns s n = true → k.nakSent = true → k.nakAt + 2 * rttTicks s n ≤ s.clk →
      Does s (.nakRepeat p) (sendPacket n (.credit k.rxSeq true) (modLink n (fun x => { x with nakAt := s.clk }) s))) ∧
    (opened → fld s SL_CTL_RETRY n ≤ 1 → ∃ w, Does s (.nak p ack) (linkLoss n w) ∧ SameBytes s w ∧ fld w SL_CNT0_RETRY n = min (fld s SL_CNT0_RETRY n + 1) (2 ^ SL_CNT0_RETRY.w - 1)) ∧
    (opened → Does s (.creditAck p ack cr) (ackTo n ack (modLink n (fun x => { x with ctlCredit := min 8 (x.ctlCredit + cr.toNat) }) u))) ∧
    (opened → Does s (.packetReserved p) (raise 16 (addFld SL_CNT2_PROTO n 1 u) (some n))) ∧
    (opened → pstate s n ≠ .link → Does s (.cap p index content) (modLink n (fun x => { x with cap := mput x.cap index.toNat content }) u)) ∧
    (opened → pstate s n = .link → index = 0 → Does s (.cap p index content)
      (identified n (Config.bufferKind content).val (modLink n (fun x => { x with cap := mput x.cap 0 content }) u))) ∧
    (opened → pstate s n = .service → (portOf s n).dram.escalated = false → fld s DP_ALERT_RETRY n ≤ (portOf s n).dram.alerts + 1 →
      (portOf s n).sched.retry = [] → (portOf s n).sched.pause = none → Makes s (.alertPacket p ch crc stamp) fun t =>
        (portOf t n).dram.alertRise = some s.clk ∧ (portOf t n).dram.alertEnd = (if ch then 1 else 0) ∧
        (portOf t n).dram.alerts = (portOf s n).dram.alerts + 1 ∧ bits (regAt t 0x100 0) 10 1 = 1) ∧
    (opened → ok = 15 → (∀ d < 4, (temp.extractLsb' (8 * d) 8).toInt ≤ 85) → Makes s (.temp p temp ok) fun t =>
      fld t SP_TEMP_T n = temp.toNat ∧ ∀ d < 4, mget (portOf t n).dram.tempAt d = some s.clk) ∧
    (opened → Does s (.laneFault p lane weak) (if weak then laneWeak n false lane.val u else laneFault n false lane.val u)) ∧
    (opened → Does s (.regData p reg val) (modLink n (fun x => { x with regs := mput x.regs reg.toNat val }) u)) ∧
    (opened → (subOf s n sub.val).hist.any (fun i => i.op = .mrr && i.stamp = stamp) = true → Does s (.mrrData p stamp mr sub)
      (modLink n (fun x => { x with regs := mput x.regs (0x10000 + sub.val) (mr.setWidth 32) }) u)) ∧
    (opened → dimms ≠ 0 → inService s n = true → Does s (.pwr p dimms) (portHalt n 2 u)) ∧
    (native s n = true → k.codeDue = true → k.codeSent = false → k.lost = false → (portOf s n).sched.flight = [] → (portOf s n).sched.retry = [] →
      Does s (.codeUpdate p) (modLink n (fun x => { x with codeSent := true })
        (sendPacket n (.control 0x0D (fld s EC_MARK0_DEV n + fld s EC_MARK1_DEV n * 2 ^ 32)) s))) ∧
    (∀ w h e, k.loop = some (w, some h, e) → e ≤ s.clk → Does s (.linkLoopDone p bitErrors)
      (endHandle h 0 0 bitErrors.toNat (modLink n (fun x => { x with loop := none }) (addFld SL_CNT2_LOOPERR n bitErrors.toNat s))))

/-- Data and refusals over the link (R126 to R128, R181, R231, Table 5.3): data goes to the oldest read of its stamp, with what an ERR
packet said of it; a lost read executes again; a refused command is stamped anew, and LATE ones in their order with the unblock flag.
Readings of the model in it: log entries 107 and 108. -/
def Obligations.SerialData : Prop :=
  ∀ (s : State) (p : Fin 20) (sub : Fin 4) (stamp : BitVec 28) (poison : Bool) (data : Line) (id : Nat) (code : BitVec 4) (sym : BitVec 5),
    let n := p.val
    let k := (portOf s n).link
    let q := (portOf s n).sched
    let u := rxPacket n s
    let opened : Prop := linkRuns s n = true ∧ (k.lost = false ∨ k.relinked = true)
    let noRead : Prop := readOf s n sub.val stamp = none
    PortHere s p → serial n = true →
    (opened → noRead → ∀ f, flightOf s n sub.val stamp = some f → f.req.kind = .read → Does s (.readDataPacket p sub stamp poison data)
      (landFlight n { f with data := data, poison := poison } 0 (modSched n (fun x => { x with flight := x.flight.filter fun g => g.id ≠ f.id }) u))) ∧
    (opened → noRead → flightOf s n sub.val stamp = none → Does s (.readDataPacket p sub stamp poison data) (linkProto n u)) ∧
    (opened → noRead → ∀ f, flightOf s n sub.val stamp = some f → ∀ e : BitVec 2, e ≠ 3 → Makes s (.err p e sub stamp sym) fun t => SameBytes s t ∧
      ∃ c, (portOf t n).sched.flight = q.flight.map (fun g => if g.id = f.id then { g with err := some (e, sym, c) } else g)) ∧
    (∀ f, q.flight.find? (fun g => decide (g.id = id)) = some f → f.req.kind = .read → f.overwritten = false → Does s (.readDataLost p id)
      (modSched n (fun x => { x with queue := f.req :: x.queue }) (modSched n (fun x => { x with flight := x.flight.filter fun g => g.id ≠ f.id }) s))) ∧
    (opened → ∀ i, q.retry.find? (fun i => i.loc.sub = sub.val && i.stamp = stamp) = some i →
      (code = 1 → Makes s (.refuse p code sub stamp) fun t => SameBytes s t ∧ fld t TS_CNT0_LATE n = min (fld s TS_CNT0_LATE n + 1) 65535 ∧
        fld t TS_CNT0_RESTAMP n = min (fld s TS_CNT0_RESTAMP n + 1) 65535 ∧ (portOf t n).sched.retry = q.retry.filter (fun x => x.seq ≠ i.seq) ∧
        (portOf t n).sched.replay.length = q.replay.length + 1) ∧
      (code = 2 → Does s (.refuse p code sub stamp) (restamp n i false u)) ∧
      (code = 5 → Does s (.refuse p code sub stamp) (restamp n i false (modMarks n (fun m => { m with realign := true }) (setFld TS_THETA_ALIGNED n 0 u)))))

/-! ### Training (chapter 8) -/

/-- Tracking (R208 to R217, R221): a round places its pauses; at the end of a pause pending values of its rank are written, its training
lines are saved and stored again, each result is judged, and the pause is over; two accepted results give their mean, a rejected one is
counted and logged. Readings of the model in it: log entries 109 and 112. -/
def Obligations.Tracking : Prop :=
  ∀ (s : State) (p : Fin 20) (ms : List Meas) (m : Meas) (err0 err1 : Burst) (x : Pause) (e : Nat) (v : Word),
    let n := p.val
    let t0 := (portOf s n).train
    let k := itemKey m
    let w := applyPend n (some x.rank) s
    let ran (kind : Nat) : Prop := (portOf s n).sched.pause = some (x, e) ∧ e ≤ s.clk ∧ x.kind = kind
    PortHere s p →
    (pstate s n = .service → idleUs s n = false → cx2 s n = false → flg s TR_CTL_EN n = true → t0.roundOn = false → t0.roundDue ≤ s.clk →
      Does s (.trackingRound p) (startRound n s)) ∧
    (ran 0 → Does s (.trackReadPause p ms) (endPause n (judgeAll n [] ((mineOf x ms).filter fun y => y.step = 5 || y.step = 6) w))) ∧
    (ran 2 → Does s (.trackOscPause p ms) (endPause n (judgeAll n [] ((mineOf x ms).filter fun y => y.step = 0xA) w))) ∧
    (ran 1 → x.len = 400 → let a := saveLine n (trainLine w n x 0) err0 w
      let b := saveLine n (trainLine w n x 1) err1 a.2
      Does s (.trackWritePause p ms err0 err1) (endPause n (judgeAll n []
        ((mineOf x ms).filter fun y => (y.step = 7 || y.step = 8) && (if y.sub = 0 then a.1 else b.1)) b.2))) ∧
    (m.step ≠ 0xA → dramSide m = false → resultOk s n m = true → itemVal (judgeItem n m s) n k = meanTo (itemVal s n k) m.r1 m.r2 ∧
      fld (judgeItem n m s) TR_CNT0_ACCEPT n = min (fld s TR_CNT0_ACCEPT n + 1) (2 ^ TR_CNT0_ACCEPT.w - 1)) ∧
    (resultOk s n m = false → itemVal (judgeItem n m s) n k = itemVal s n k ∧
      fld (judgeItem n m s) TR_CNT0_REJECT n = min (fld s TR_CNT0_REJECT n + 1) (2 ^ TR_CNT0_REJECT.w - 1) ∧
      ((itemOf s n k).rejects + 1 = fld s TR_CTL_REJMAX n → flg (judgeItem n m s) TR_STAT_ALARM n = true)) ∧
    (s.pw.inReset = false → v.getLsbD 0 = true → Makes s (.trCntClear p v) fun t =>
      fld t TR_CNT0_ACCEPT n = 0 ∧ fld t TR_CNT0_REJECT n = 0 ∧ fld t TR_CNT1_ABORT n = 0 ∧ fld t TR_CNT1_CLAMP n = 0)

/-! ### Host commands (chapter 13) -/

/-- Queues and handles (R352 to R358, R365, R366): an accepted ring binds the lowest free handle with its next generation and shows its
number; a refused one counts and shows why; the descriptor of the oldest bound handle is read and its handle queued, or ended where R355
refuses it; a record that its stall takes is pushed and its handle is DONE; an abort ends a command that has not started. Readings of the
model in it: log entries 54 and 55. -/
def Obligations.HostQueues : Prop :=
  ∀ (s : State) (q : Fin 4) (v : Word),
    let n := q.val
    let a := cmdStall s n
    let c := cplStall s n
    (s.pw.inReset = false → s.pw.st = 0 → v.getLsbD 0 = true → ringWhy s n = 0 → Makes s (.doorbell q v) fun t => SameBytes s t ∧
      (queueOf t n).bound = (queueOf s n).bound ++ [freeHandle s] ∧ (handleOf t (freeHandle s)).st = .bound ∧
      (handleOf t (freeHandle s)).gen = (handleOf s (freeHandle s)).gen + 1 ∧ (handleOf t (freeHandle s)).queue = q ∧
      (∀ k, k ≠ freeHandle s → handleOf t k = handleOf s k) ∧ flg t HC_QHANDLE_V n = true ∧
      fld t HC_QHANDLE_HANDLE n = handleNum t (freeHandle s)) ∧
    (s.pw.inReset = false → s.pw.st = 0 → v.getLsbD 0 = true → ringWhy s n ≠ 0 → Makes s (.doorbell q v) fun t =>
      t.host = s.host ∧ flg t HC_QHANDLE_V n = false ∧ fld t HC_QHANDLE_WHY n = ringWhy s n) ∧
    (s.pw.inReset = false → s.pw.st.toNat ≤ 1 → (stallOf s a).mismatch = false → ∀ k l w, (queueOf s n).bound = k :: l → k < 4096 →
      mget (stallOf s a).staged (stallOf s a).h = some w →
      let u := modQueue n (fun y => { y with bound := l }) (putStall a
        ((stallOf (modStall a (fun x => { x with rstWord := none }) s) a).takeWord w) (modStall a (fun x => { x with rstWord := none }) s))
      let h : Handle := { handleOf s k with st := .queued, items := wordItems w.data, opc := w.data.extractLsb' 0 8 }
      (descRefuse (setHandle k h u) h w.tag = none → Does s (.descriptorRead q) (setHandle k h u)) ∧
      (∀ sts, descRefuse (setHandle k h u) h w.tag = some sts → Does s (.descriptorRead q) (endHandle k sts 0 0 (setHandle k h u)))) ∧
    (s.pw.inReset = false → s.pw.st.toNat ≤ 1 → (stallOf s c).mismatch = false → recordFits s c = true → ∀ k l, (queueOf s n).push = k :: l →
      Makes s (.completionPush q) fun t => (queueOf t n).push = l ∧ (handleOf t k).st = .done ∧ (handleOf t k).recPos = some (stallOf s c).wpos ∧
        t.stalls = (pushItems c ((recordItems s k).mapIdx fun i d => { data := d, eop := i = 3, lbytes := 7 }) s).2.stalls) ∧
    (s.pw.inReset = false → s.pw.st.toNat ≤ 2 → v.getLsbD 31 = true → liveSlot s (bits v.toNat 0 16) = none → Makes s (.abort v) fun t =>
      t.host = s.host ∧ fld t HC_ABSTAT_OUTCOME = 1 ∧ flg t HC_ABSTAT_VALID = true) ∧
    (s.pw.inReset = false → s.pw.st.toNat ≤ 2 → v.getLsbD 31 = true → ∀ k, liveSlot s (bits v.toNat 0 16) = some k →
      (handleOf s k).st ≠ .running → Makes s (.abort v) fun t =>
        (handleOf t k).out = some (0x28, 0, 0) ∧ fld t HC_ABSTAT_OUTCOME = 0 ∧ flg t HC_ABSTAT_VALID = true)

/-- Commands over lines of memory (R226, R251, R358, R360 to R363, R409): once started, with every line in a port that serves and none held
elsewhere, NOP, COPY, FILL, SCRUB, MARCH, CHECKPOINT, WARM_VERIFY and LOAD_PROGRAM do their work line by line and end with its status and
result; a range that leads nowhere, or PD_SCRUB off, ends the command first. Readings of the model in it: log entries 46, 47, 48, 49 and 50.
-/
def Obligations.HostRanges : Prop :=
  ∀ (s : State) (h : BitVec 12) (errs : List (Nat × Burst)) (fails : List Nat),
    let k := h.toNat
    let u := modHandle k (fun x => { x with st := .running }) (active s)
    let x := handleOf u k
    let a := argN x
    let lines (l : List Nat) : Prop := rangeRefuse u l = none ∧ rangeReady u l = true ∧ (∀ y ∈ l, held u y = false) ∧
      ∀ p ∈ rangePorts u l, pstate u p = .service
    (mayStart s k 1 = true → Does s (.nop h) (endHandle k 0 0 0 u)) ∧
    (mayStart s k 7 = true → lines (rangeLines (a 1) (a 2)) →
      let r := (rangeLines (a 1) (a 2)).foldl (fillLine (patternLine (a 3))) (({} : Tally), u)
      Does s (.fill h) (endHandle k (tallyStatus r.2 (bits (a 0) 10 1 = 1) r.1) 0 (tallyResult r.1) r.2)) ∧
    (mayStart s k 7 = true → ∀ n, rangeRefuse u (rangeLines (a 1) (a 2)) = some n → Does s (.fill h) (endHandle k n 0 0 u)) ∧
    (mayStart s k 6 = true → lines (rangeLines (a 1) (a 3) ++ rangeLines (a 2) (a 3)) →
      let r := (List.range (a 3)).foldl (copyLine (a 1) (a 2) errs) (({} : Tally), u)
      Does s (.copy h errs) (endHandle k (tallyStatus r.2 (bits (a 0) 10 1 = 1) r.1) 0 (tallyResult r.1) r.2)) ∧
    (mayStart s k 4 = true → scrubOn u = true → lines (rangeLines (a 1) (a 2)) →
      let r := (List.range (a 2)).foldl (fun y i => scrubLine (a 1 + 64 * i) (errOf errs i) y) (({} : ScrubSum), u)
      Does s (.scrub h errs) (endHandle k (tallyStatus r.2 (bits (a 0) 10 1 = 1) r.1.tally) 0
        (min r.1.fixed 0xFFFFFFFF + min r.1.bad 0xFFFFFFFF * 2 ^ 32) r.2)) ∧
    (mayStart s k 4 = true → scrubOn u = false → Does s (.scrub h errs) (endHandle k 0x21 0 0 u)) ∧
    (mayStart s k 5 = true → bits (a 1) 0 1 = 1 → bits (a 1) 1 1 = 0 → u.march = {} → scrubOn u = true → groupAllowed u false (bits (a 1) 8 8) = true → Does s (.march h []) (endHandle k 0 0 0 u)) ∧
    (mayStart s k 5 = true → bits (a 1) 0 1 = 0 → bits (a 1) 1 1 = 1 → scrubOn u = true →
      let p := bits (a 2) 0 5
      a 3 + 64 * a 4 ≤ capInG u p * 2 ^ 30 → pstate u p = .service → meetsSet u p (a 3) (a 3 + 64 * a 4) = false →
      meetsSlots u p (a 3) (a 3 + 64 * a 4) = false →
      let b := ((List.range 4).reverse.find? fun i => bits (bits (a 1) 4 4) i 1 = 1).getD 0
      let w := (List.range (a 4)).foldl (fun t i => storeLine p (a 3 + 64 * i) (bgLine b ((a 3 + 64 * i) / 64)) false orgCopy
        (markOver p (a 3 + 64 * i) (syncLine p (a 3 + 64 * i) t))) u
      let bad := (fails.filter fun i => i < a 4).map fun i => a 3 + 64 * i
      Does s (.march h fails) (endHandle k (if bad = [] then 0 else 0x2A) 0 bad.length (bad.foldl (fun t la => logPort p 2 15 (some la) (3 * 32) t) w))) ∧
    (mayStart s k 8 = true → lines (rangeLines (a 1) (a 2 / 64)) → a 2 < 65536 + 32 * (liveStalls u).length →
      Does s (.checkpoint h) (endHandle k 0x24 0 (65536 + 32 * (liveStalls u).length) u)) ∧
    (mayStart s k 8 = true → lines (rangeLines (a 1) (a 2 / 64)) → Does s (.checkpoint h) (checkpointWork k x u)) ∧
    (mayStart s k 9 = true → bits (bbrWord u 3) 1 1 = 1 → bits (bbrWord u 3) 4 1 = 1 → bits (a 1) 0 1 = 0 →
      crc32c (areaBytes (bbrWord u 23 + bbrWord u 24 * 2 ^ 32) (bbrWord u 25 + bbrWord u 26 * 2 ^ 32) u) = bbrWord u 27 →
      Does s (.warmVerify h errs) (endHandle k 0 0 0 u)) ∧
    (mayStart s k 9 = true → bits (bbrWord u 3) 1 1 = 0 → Does s (.warmVerify h errs) (endHandle k 0x21 0 0 u)) ∧
    (mayStart s k 0x10 = true → (ctxOf u (bits (a 3) 0 2)).st = .stopped → (ctxOf u (bits (a 3) 0 2)).resetReq = false →
      bound u k (bits (a 3) 0 2) = false → a 2 ≤ prgSize u (bits (a 3) 0 2) → lines (rangeLines (a 1) ((a 2 + 63) / 64)) →
      Does s (.loadProgram h errs) (loadWork k errs x u))

/-- The other commands of the catalogue (R161, R191, R204, R209, R347, R360, R364, R367 to R371): TRAIN and RETRAIN run their steps or place
their round or pause; ROW_REPAIR repairs; LINK_LOOP loops its lanes for its time; FENCE holds a port and waits for its drain, UNFENCE
releases it; FED_TIME_SET arms, pulses and trims. Readings of the model in it: log entries 51, 52 and 53. -/
def Obligations.HostUnits : Prop :=
  ∀ (s : State) (h : BitVec 12) (failed : BitVec 4),
    let k := h.toNat
    let u := modHandle k (fun x => { x with st := .running }) (active s)
    let x := handleOf u k
    let a := argN x
    let p := bits (a 1) 0 5
    let f := fabOf u p
    let held := modFab p (fun f => { f with relHost := false }) (setFld FP_FENCE_STAT_HOST p 1 (takeFence p u))
    let fed := setFld TB_FED_CHECK 0 0 (setFld TB_FED_EOUT_EN 0 (bits (a 1) 2 1) (setFld TB_EADJ_ADJ 0 (bits (a 3) 0 16)
      (setFld TB_PRESET_LO_VAL 0 (bits (a 2) 0 32) (setFld TB_PRESET_HI_VAL 0 (bits (a 2) 32 32) u))))
    (mayStart s k 2 = true → launchNames u p = false → pstate u p = .test →
      Does s (.train h failed) (runSteps k p (bits (a 1) 5 12) failed.toNat u)) ∧
    (mayStart s k 3 = true → bits (a 1) 5 2 = 0 → pstate u p = .service → cx2 u p = false → (portOf u p).train.roundOn = false →
      (portOf u p).train.waiters = [] → Does s (.retrainTrack h) (modTrain p (fun y => { y with waiters := [k] }) (startRound p u))) ∧
    (mayStart s k 3 = true → bits (a 1) 5 2 = 1 → pstate u p = .service → Does s (.retrainCsca h failed) (modSched p (fun q => { q with
      pauses := q.pauses ++ [{ kind := kindCa, rank := k + 1, len := 1000 * dimmCount u p, due := u.clk }] }) u)) ∧
    (mayStart s k 3 = true → bits (a 1) 5 2 = 2 → pstate u p = .service → setNames u p = false → portQuiet (closeAll p u) p = true →
      Does s (.retrainFull h failed) (runSteps k p 0xFFF failed.toNat (closeAll p u))) ∧
    (mayStart s k 0xA = true → bits (a 1) 5 1 = 0 → repairRefuse u p (a 2) = none → ∀ e, repairSlot u p (a 2) = some e →
      Does s (.rowRepairSoft h true) (softStartRepair p e u)) ∧
    (mayStart s k 0xA = true → bits (a 1) 5 1 = 1 → repairRefuse u p (a 2) = none →
      Does s (.rowRepairHard h) (endHandle k 0 0 1 (hardRepair p (a 2) u))) ∧
    (mayStart s k 0xC = true → pstate u p = .test → (portOf u p).link.loop = none → Does s (.linkLoop h)
      (modLink p (fun l => { l with loop := some (bits (a 1) 7 9, some k, u.clk + a 2 * edgesUs) }) u)) ∧
    (mayStart s k 0xE = true → flg held FP_FENCE_STAT_DRAINED p = true →
      Does s (.fence h) (endHandle k 0 0 (fld held FP_FENCE_STAT_DISCARD p) held)) ∧
    (mayStart s k 0xE = true → flg held FP_FENCE_STAT_DRAINED p = false → Does s (.fence h) (modFab p (fun f => { f with
      fenceWait := f.fenceWait ++ [(k, if a 2 = 0 then 0 else held.clk + a 2 * edgesUs)] }) held)) ∧
    (mayStart s k 0xF = true → flg u FP_FENCE_STAT_HOST p = true → flg u FP_FENCE_STAT_CFG p = false → Does s (.unfence h)
      (releaseFence p (modFab p (fun g => { g with relHost := true, unfenceWait := g.unfenceWait ++ [k] }) u))) ∧
    (mayStart s k 0xF = true → flg u FP_FENCE_STAT_HOST p = true → flg u FP_FENCE_STAT_CFG p = true → f.relCfg = false → Does s (.unfence h)
      (endHandle k 0 0 1 (releaseFence p (modFab p (fun g => { g with relHost := true }) u)))) ∧
    (mayStart s k 0x11 = true → bits (a 1) 0 2 = 0 → u.tb.launches = [] → u.tb.step = .none → u.pw.inReset = false → Does s (.fedTimeSetArm h)
      (arm (modTb (fun b => { b with fedArm := some (k, bits (a 3) 16 10) }) (modTb (fun b => { b with step := .armed }) (stepHold fed))))) ∧
    (mayStart s k 0x11 = true → bits (a 1) 0 2 = 1 → flg u TB_FED_EOUT_EN = true → Does s (.fedTimeSetPulse h) (endHandle k 0 0 0 (epochPulse u))) ∧
    (mayStart s k 0x11 = true → bits (a 1) 0 2 = 1 → flg u TB_FED_EOUT_EN = false → Does s (.fedTimeSetPulse h) (endHandle k 0x25 0 0 u)) ∧
    (mayStart s k 0x11 = true → bits (a 1) 0 2 = 2 → ∀ e, u.tb.fedE = some e → Does s (.fedTimeSetTrim h) (endHandle k 0 0 0
      ((servicePorts u).foldl (fun t p => stageFld PT_FTRIM_FINE p (BitVec.ofInt 11
        (fineOf (BitVec.ofNat 64 (a 4)).toInt e (clocksPerTick t p))).toNat t) u)))

/-! ### Energy (chapter 14) -/

/-- The meter, the samples and the planner (R374 to R376, R380, R381, R383, R387, R388, R390, R404): each interval adds to every domain what
it spent, gives the mean power and fills the bucket; a sample goes to its register, and a current sample that is not blanked gives the
current and may switch the gain; a planner run puts the domain of R390 in force; the charger follows the headroom; a read of a LO half latches its HI half. Readings
of the model in it: log entries 90, 91 and 92. -/
def Obligations.EnergyMeter : Prop :=
  ∀ (s : State) (events : List (Fin 51 × Fin 3 × Nat)) (code : BitVec 14),
    let e := s.en
    let spent (d : Nat) : Nat := if domOn s d = true
      then Config.staticCoef d + ((events.filter fun x => x.1.val = d).map fun x => x.2.2 * Config.eventCoef d x.2.1.val).sum else 0
    let mw := min (((List.range 51).map spent).sum / 10000) (2 ^ 18 - 1)
    let total := e.totals.foldl (fun a x => a + x.2) 0 / 1000000000
    let head : Int := ((fld s SN_VBUS_CODE : Int) - fld s SN_VRSV_CODE) * 5
    let hdr : Int := fld s CH_CFG_HDR * 100
    let set := fld s CH_CTL_SET
    let cmd := fld s CH_STAT_CMD
    let gain := if e.high then fld s SN_CFG_GHI else fld s SN_CFG_GLO
    let off := ((code.toNat : Int) - 8192).natAbs
    let walk := planSlots s (usable s) (List.range 72) (0, fld s PLN_HOLDP_MW)
    (e.meterAt + 4000 ≤ s.clk → ∃ t, Gives s (.meterInterval events) t ∧ SameBytes s t ∧ t.en.meterAt = e.meterAt + 4000 ∧
      (∀ d < 51, mgetD t.en.totals d 0 = mgetD e.totals d 0 + spent d) ∧ fld t EN_POWER_MW = mw ∧
      t.en.bucket = min ((fld s PW_LIM_PEAK - fld s PW_LIM_SUS) * fld s PW_LIM_PDUR * 100000000) (e.bucket + fld s PW_LIM_SUS * 1000 - mw)) ∧
    (e.slot = 4 → ∃ t, Gives s (.adcSample code) t ∧ fld t SN_VBUS_CODE = code.toNat ∧ t.en.slot = 5) ∧
    (e.slot = 9 → ∃ t, Gives s (.adcSample code) t ∧ fld t SN_VRSV_CODE = code.toNat ∧ t.en.slot = 0 ∧ t.en.vrsvSeen = true) ∧
    (e.slot ≠ 4 → e.slot ≠ 9 → fld s SN_GAIN_FORCE = 0 → ∃ t, Gives s (.adcSample code) t ∧ fld t SN_IRSV_CODE = code.toNat ∧
      t.en.slot = e.slot + 1 ∧ flg t SN_IRSV_GAIN = t.en.high ∧ flg t SN_IRSV_BLANK = decide (0 < e.blank) ∧
      t.en.high = (if 0 < e.blank then e.high else if e.high then decide (off < 7782)
        else decide (off * fld s SN_CFG_GHI * 10 < 8 * 8192 * fld s SN_CFG_GLO ∧ 63 ≤ e.lowRun)) ∧
      (e.blank = 0 → t.en.iLast = (((code.toNat : Int) - 8192) * 125000 : Int) / (gain * fld s SN_CFG_SHUNT : Nat)) ∧
      (0 < e.blank → t.en.blank = e.blank - 1 ∧ t.en.iLast = e.iLast)) ∧
    (e.pf = .none → s.pw.st.toNat ≤ 3 → ∃ t, Gives s .plannerRun t ∧ domainNow t = walk.1 ∧ t.en.euse = (usable s).floor.toNat ∧
      fld t PLN_RET_MS = (if walk.1 = 0 then 0 else min (usable s * 1000 / walk.2).floor.toNat (2 ^ 32 - 1)) ∧
      (domainNow s &&& ~~~walk.1 ≠ 0 → bits (regAt t 0x104 0) 11 1 = 1 ∧ foot3 t 0x300F0 = foot3 s 0x300F0 ||| (domainNow s &&& ~~~walk.1))) ∧
    (e.pf ≠ .none → Gives s .plannerRun s) ∧
    (e.chgAt + 100 * edgesMs ≤ s.clk → head < hdr → iNow s * 10 < (9 * cmd : Nat) → ∃ t, Gives s .chargerAdjust t ∧
      fld t CH_STAT_CMD = cmd - max (set / 16) ((fld s CH_CFG_FS + 1022) / 1023) ∧ flg t CH_STAT_LIMITED = true ∧ t.en.chgAt = s.clk) ∧
    (e.chgAt + 100 * edgesMs ≤ s.clk → hdr + 1000 ≤ head → cmd < set → ∃ t, Gives s .chargerAdjust t ∧
      fld t CH_STAT_CMD = min set (cmd + set / 16) ∧ (set ≤ cmd + set / 16 → flg t CH_STAT_LIMITED = false) ∧ t.en.chgAt = s.clk) ∧
    (∃ t, Gives s (.energyReadLatch 0) t ∧ fld t EN_TOTAL_LO_MJ = total % 2 ^ 32 ∧ fld t EN_TOTAL_HI_MJ = total / 2 ^ 32 % 2 ^ 32) ∧
    (∃ t, Gives s (.energyReadLatch 1) t ∧
      let dom := mgetD e.totals (fld s EN_DSEL_DOM) 0 / 1000000000
      fld t EN_DOM_LO_MJ = dom % 2 ^ 32 ∧ fld t EN_DOM_HI_MJ = dom / 2 ^ 32 % 2 ^ 32) ∧
    (∃ t, Gives s (.energyReadLatch 2) t ∧ fld t PLN_EUSE_HI_MJ = e.euse / 2 ^ 32 % 2 ^ 32)

/-- The reserve and the battery-backed words (R381 to R386, R395, R397, R405, R406): the bus comparator switches the charger off, the
reserve comparator raises RESERVE_LOW, rest re-bases the gauge, a removed pack empties the domain and comes back on its voltage estimate,
PLN_SLOTP is staged for its slot, and software writes its battery-backed words while no image is committed. Readings of the model in it: log
entries 90 and 91. -/
def Obligations.EnergyReserve : Prop :=
  ∀ (s : State) (v : Word) (word : BitVec 10),
    let e := s.en
    let k := fld s PLN_SEL_SLOT
    let w := word.toNat
    let low := raise 39 (setFld GA_STAT_LOW 0 1 (modEn (fun x => { x with rsvTrip := true }) s))
    (e.busTrip = false → ∃ t, Gives s .busTrip t ∧ t.en.busTrip = true ∧ t.en.busAt = s.clk ∧ flg t CH_STAT_ON = false) ∧
    (e.busTrip = true → ∃ t, Gives s .busClear t ∧ t.en.busTrip = false ∧ t.en.busBack = some s.clk ∧
      flg t CH_STAT_ON = (flg s CH_CTL_EN && flg s GA_STAT_PRESENT && !flg s GA_STAT_LOST && decide (e.pf = .none))) ∧
    (e.rsvTrip = false → flg s PWR_WAKE_RSV = false → Does s .reserveLowTrip low) ∧
    (e.rsvTrip = false → flg s PWR_WAKE_RSV = true → s.pw.inReset = false → e.pf = .none → Does s .reserveLowTrip (wake 6 low)) ∧
    (flg low GA_STAT_LOW = true ∧ bits (regAt low 0x104 0) 7 1 = 1) ∧
    Gives s .reserveRelease { s with en := { e with rsvTrip := false } } ∧
    (∀ a, e.restAt = some a → a + 600000 * edgesMs ≤ s.clk → ∃ t, Gives s .gaugeRebase t ∧ t.en.qcnt = e.qv ∧ t.en.restAt = some s.clk ∧
      flg t GA_STAT_REBASED = true) ∧
    (e.lost = false → ∃ t, Gives s .packRemoval t ∧ t.en.lost = true ∧ t.en.qcnt = 0 ∧ t.en.backAt = none ∧ flg t GA_STAT_PRESENT = false ∧
      flg t GA_STAT_LOST = true ∧ flg t CH_STAT_ON = false ∧ bits (regAt t 0x104 0) 8 1 = 1 ∧
      (e.pf = .none → s.pw.st.toNat ≤ 3 → 0 < fld s PLN_CTL_HOLD → domainNow t = 0)) ∧
    (∀ a, e.lost = true → e.backAt = some a → a + 1000 * edgesMs ≤ s.clk → ∃ t, Gives s .packReturn t ∧ t.en.lost = false ∧ t.en.qcnt = e.qv ∧
      t.en.backAt = none ∧ t.en.restAt = some s.clk ∧ flg t GA_STAT_PRESENT = true) ∧
    (s.pw.inReset = false → k < 72 → ∃ t, Gives s (.plnSlotpWrite v) t ∧ mget t.en.slotpNew k = some (v &&& 0xFFFF) ∧ t.cfg.kick = some s.clk ∧
      t.en.slotp = e.slotp ∧ ∀ j ≠ k, mget t.en.slotpNew j = mget e.slotpNew j) ∧
    (s.pw.inReset = false → 72 ≤ k → Gives s (.plnSlotpWrite v) (reject 0x300D0 2 s)) ∧
    (s.pw.inReset = false → 0x10 ≤ w → w < 0x3E0 → bbrWord s 0 ≠ 0xC3A5 → ∃ t, Gives s (.bbrWrite word v) t ∧ bbrWord t w = v.toNat ∧
      bits (bbrWord t 3) 0 1 = 1 ∧ ∀ j, j ≠ w → j ≠ 3 → bbrWord t j = bbrWord s j) ∧
    (s.pw.inReset = false → ¬(0x10 ≤ w ∧ w < 0x3E0 ∧ bbrWord s 0 ≠ 0xC3A5) → Gives s (.bbrWrite word v) (reject (0x50000 + 4 * w) 6 s)) ∧
    (∃ t, Gives s .vbatLoss t ∧ bits (bbrWord t 3) 0 1 = 0 ∧ committed t = false ∧ ∀ j ≠ 3, bbrWord t j = bbrWord s j)

/-- The power-fail sequence (R392, R393, R397, R402, R403): a confirmed trip begins it, and in a warm resume that has not yet left
self-refresh leads straight back to E4; the flush ends when every buffer and port is flushed, with every port in self-refresh; the commit
writes descriptor, check and flag and enters E4; the returned bus resumes. Readings of the model in it: log entries 63, 64 and 66. -/
def Obligations.PowerFail : Prop :=
  ∀ (s : State),
    let e := s.en
    let live := (List.range 20).filter fun p => portImpl s.part.variant p && inService s p
    let shut := live.foldl (fun t p => closeAll p t) s
    let empty := emptyStaging shut
    let fails : Prop := flg s PF_CTL_EN = true ∧ e.busTrip = true ∧ e.busAt + edgesUs ≤ s.clk ∧ e.pf = .none ∧ s.pw.st.toNat ≤ 3 ∧
      s.pw.inReset = false
    (fails → s.pw.warm = false → Does s .powerFailConfirm (pfFrom s)) ∧
    (fails → s.pw.warm = true → Makes s .powerFailConfirm fun t => t.pw.st = 4 ∧ t.en.pf = .none ∧ t.dram = s.dram ∧ t.bbr = s.bbr) ∧
    (e.pf = .flush → buffersEmpty shut = true → live.all (portFlushed shut) = true → Does s .pfFlushDone
      (modEn (fun x => { x with pf := .commit, fstalls := if flg empty PLN_FAREA_LO_EN then empty.stalls.filter (fun y => y.2.st ≠ .off) else [] })
        ((List.range 20).foldl pfPort empty))) ∧
    (e.pf = .commit → s.pw.resetWait = false → ∃ t, Gives s .pfCommit t ∧ t.pw.st = 4 ∧ t.pw.cur = none ∧ t.en.pf = .none ∧ committed t = true ∧
      bbrWord t 16 = 1 + 256 * e.pfReason.toNat ∧ bbrWord t 19 = e.frozen.toNat % 2 ^ 32 ∧ bbrWord t 22 = e.lostH % 2 ^ 32 ∧
      bbrWord t 1 = (bbrWord s 1 + 1) % 2 ^ 32 ∧ t.dram = s.dram ∧ t.count = s.count ∧ t.spad = [] ∧ t.lant.prog = [] ∧ t.lant.data = []) ∧
    (e.pf = .commit → s.pw.resetWait = true → ∃ t, Gives s .pfCommit t ∧ t.pw.inReset = true ∧ committed t = true) ∧
    (∀ a, e.busBack = some a → s.pw.st = 4 → s.pw.e4cmd = false → flg s PF_CTL_AUTO = true → e.busTrip = false →
      a + fld s PF_CTL_RET * edgesMs ≤ s.clk → s.pw.inReset = false → Does s .busReturnResume
        (resumeE4 (setFld PWR_WCAUSE_CAUSE 0 (fld s PWR_WCAUSE_CAUSE ||| 128) (modEn (fun x => { x with busBack := none }) s))))

/-- Resets of the whole engine (R400, R401, R425 to R427, R436, R454): a soft reset fences and drains, and finishes with its flags; an
engine reset returns every register but those that R426 keeps to its reset value and waits for a power-fail sequence; its release clears it;
a power-on without a valid image starts cold and one with a committed image resumes; a supply failure leaves the state of E4. Readings of
the model in it: log entries 6, 65 and 68. -/
def Obligations.EngineResets : Prop :=
  ∀ (s : State),
    let f := softFinish s
    let boot : State := checkFuses (bootMarch { State.reset with
      pending := s.pending, part := s.part, free := s.free, dram := s.dram, poison := s.poison, regs := bbRegs s, bbr := s.bbr
      en := { ({} : Energy) with fstalls := s.en.fstalls, busTrip := s.en.busTrip, rsvTrip := s.en.rsvTrip } })
    let may : Prop := s.pw.inReset = false ∧ s.pw.soft = none ∧ s.en.pf = .none ∧ s.pw.st = 0
    (may → engineIdle s = true → Does s .softReset (softStart s)) ∧
    (may → engineIdle s = false → Does s .softReset { s with pw := { s.pw with softWait := true } }) ∧
    (∀ a, s.pw.soft = some a → a + fld s RST_CTL_TMO * edgesUs ≤ s.clk → s.pw.inReset = false → Does s .softResetTimeout f) ∧
    (flg f RST_STAT_BUSY = false ∧ fld f RST_STAT_LAST = 2 ∧ bits (regAt f 0x104 0) 5 1 = 1 ∧ f.pw.soft = none ∧ f.host.frozen = false) ∧
    (s.en.pf = .none → ∃ t, Gives s .engineReset t ∧ t.pw.inReset = true ∧ t.count = s.count ∧ t.bbr = s.bbr ∧ t.sram = s.sram ∧
      t.en.totals = s.en.totals ∧ t.en.bucket = s.en.bucket ∧ t.part = s.part ∧ t.pending = s.pending ∧ t.dram = [] ∧ t.spad = [] ∧ t.fab = [] ∧
      t.stalls = [] ∧ t.host = {} ∧ t.home = {} ∧ t.lant = State.reset.lant ∧ t.tb = {} ∧ t.logs = [] ∧ t.shadow = [] ∧
      ∀ off ≠ 0x60030, ∀ rst, regAt t off rst = rst) ∧
    (s.en.pf ≠ .none → Gives s .engineReset { s with pw := { s.pw with resetWait := true } }) ∧
    (s.pw.inReset = true → ∃ t, Gives s .engineResetRelease t ∧ t.pw.inReset = false ∧ fld t RST_STAT_LAST = 1 ∧ t.count = s.count ∧
      t.en.totals = s.en.totals ∧ t.bbr = s.bbr ∧ t.sram = s.sram) ∧
    (bits (bbrWord s 3) 0 1 = 0 → ∃ t, Gives s .powerOnReset t ∧ t.clk = 0 ∧ t.count = 0 ∧ t.dram = [] ∧ t.poison = [] ∧ t.spad = [] ∧ t.fab = [] ∧
      t.stalls = [] ∧ t.pw.st = 0 ∧ t.pw.inReset = false ∧ t.part = s.part ∧ t.pending = s.pending ∧ bbrWord t 0 = 0) ∧
    (committed s = true → Gives s .powerOnReset (pwrStat (showEnergy (warmResume boot)))) ∧
    (∃ t, Gives s .supplyFailure t ∧ t.pw.st = 4 ∧ t.pw.supplyBad = true ∧
      t.dram = if s.pw.st = 4 ∧ flg s PLN_CTL_DRST_HOLD = true then s.dram else [])

/-! ### Power (chapter 15) -/

/-- Requests for an engine state (R411 to R413, R418, R420, R421, R347): from the register, a host command or EPWR; E1 is entered at once
where no launch forbids it, E2 to E4 begin their preparation, E0 ends E1 at once and begins the exit from E2 or E3; the idle timers and the
wake sources of Table 15.6. Readings of the model in it: log entries 18, 57 and 58. -/
def Obligations.EngineRequests : Prop :=
  ∀ (s : State) (h : BitVec 12) (c : Fin 4) (rd : BitVec 5),
    let k := h.toNat
    let u := modHandle k (fun x => { x with st := .running }) (active s)
    let open' : Prop := s.pw.inReset = false ∧ s.en.pf = .none ∧ s.pw.exit = none ∧ s.pw.cur = none
    let begun (i : Instr) (tgt : Nat) : Prop := open' → s.pw.st = 0 → Makes s i fun t => SameBytes s t ∧ t.pw.st = 0 ∧
      t.pw.cur = some { tgt := BitVec.ofNat 3 tgt, src := .reg, start := s.clk } ∧ flg t PWR_STAT_PREP = true
    let host (i : Instr) (tgt : Nat) : Prop := mayStart s k 0xD = true → argN (handleOf s k) 1 = tgt → Does s i (engineReq tgt (.handle k) u)
    let epwr (i : Instr) (tgt : Nat) : Prop := MayControl s c → s.en.pf = .none → fromDram s c.val = false →
      Takes s c i (encR 0x33 rd 0 0 0 (BitVec.ofNat 4 tgt) 6) fun w t => t = retireWith c.val rd 0 (engineReq tgt (.lant c) w)
    let src := ReqSrc.lant c rd 0 0 0
    let forbids := launchForbids s (engineW s 1) fun _ => true
    let wakes (w : WakeSrc) (bit : Nat) (there : Prop) : Prop :=
      s.pw.inReset = false → s.en.pf = .none → there → Does s (.wakeSource w) (wake bit s)
    let st := wakeState s
    let light : Prop := st = 1 ∨ st = 2
    let deep : Prop := 1 ≤ st ∧ st ≤ 3
    (open' → s.pw.st = 0 → forbids = false → Makes s (.enterE1 .reg) fun t => SameBytes s t ∧ t.pw.st = 1 ∧ fld t PWR_STAT_STATE = 1) ∧
    (open' → s.pw.st = 0 → forbids = true → Makes s (.enterE1 .reg) fun t => t.pw.st = 0 ∧ fld t PWR_REF_CODE = 1 ∧ fld t PWR_REF_TGT = 1) ∧
    begun (.enterE2 .reg) 2 ∧ begun (.enterE3 .reg) 3 ∧ begun (.enterE4 .reg) 4 ∧
    (open' → s.pw.st = 1 → Makes s (.wakeE0 .reg) fun t => SameBytes s t ∧ t.pw.st = 0 ∧ bits (fld t PWR_WCAUSE_CAUSE) 2 1 = 1) ∧
    (open' → s.pw.st = 2 ∨ s.pw.st = 3 → Makes s (.wakeE0 .reg) fun t => SameBytes s t ∧ t.pw.exit = some (s.pw.st, s.clk) ∧
      bits (fld t PWR_WCAUSE_CAUSE) 2 1 = 1) ∧
    (resumeAsked s = true → s.pw.inReset = false → Does s (.wakeE0 .reg)
      (resumeE4 (setFld PWR_WCAUSE_CAUSE 0 (fld s PWR_WCAUSE_CAUSE ||| 4) s))) ∧
    host (.wakeE0 (.handle h)) 0 ∧ host (.enterE1 (.handle h)) 1 ∧ host (.enterE2 (.handle h)) 2 ∧ host (.enterE3 (.handle h)) 3 ∧
    host (.enterE4 (.handle h)) 4 ∧
    epwr (.wakeE0 src) 0 ∧ (forbids = false → epwr (.enterE1 src) 1) ∧ epwr (.enterE2 src) 2 ∧ epwr (.enterE3 src) 3 ∧ epwr (.enterE4 src) 4 ∧
    (c ≠ 0 → (ctxOf s c.val).priv = false → Runs s c (.enterE2 src) (encR 0x33 rd 0 0 0 2 6) fun t =>
      Trapped c s t 3 (encR 0x33 rd 0 0 0 2 6) 0) ∧
    (s.pw.st = 0 → idleFor s (fld s PWR_IDLE_T1 * edgesUs) = true → forbids = false →
      Makes s .idleE1 fun t => SameBytes s t ∧ t.pw.st = 1 ∧ fld t PWR_STAT_STATE = 1) ∧
    (s.pw.st.toNat ≤ 1 → idleFor s (fld s PWR_IDLE_T2 * 100 * edgesUs) = true → Makes s .idleE2 fun t => SameBytes s t ∧ t.pw.activeAt = s.clk ∧
      t.pw.cur = some { tgt := 2, src := .idle, start := s.clk }) ∧
    wakes .fabric 0 (light ∧ flg s PWR_WAKE_FAB = true ∧ (s.fab.any fun e => e.2.reqs.any FabReq.live) = true) ∧
    wakes .ring 1 (light ∧ flg s PWR_WAKE_RING = true) ∧ wakes .register 2 light ∧
    wakes .alarm 3 (deep ∧ flg s TB_ALARM_CTL_FIRED = true ∧ flg s TB_ALARM_CTL_WAKE = true) ∧ wakes .wait 4 (deep ∧ waitWakes s = true) ∧
    wakes .launch 5 (deep ∧ launchWakes s = true) ∧ wakes .reserveLow 6 (deep ∧ flg s PWR_WAKE_RSV = true ∧ s.en.rsvTrip = true) ∧
    wakes .doorbell 2 (light ∨ (st = 3 ∧ flg s PWR_WAKE_DB = true)) ∧
    (∀ bit < 8, s.pw.cur = none → s.pw.exit = none →
      (s.pw.st = 1 → (wake bit s).pw.st = 0) ∧
      (s.pw.st = 2 ∨ s.pw.st = 3 → (wake bit s).pw.exit = some (s.pw.st, s.clk)) ∧
      (1 ≤ s.pw.st.toNat → s.pw.st.toNat ≤ 3 → bits (fld (wake bit s) PWR_WCAUSE_CAUSE) bit 1 = 1))

/-- The course of a transition (R413 to R417, R421): a preparation without a refuser goes on step by step to its commit point, a refuser
that stays until the limit ends it, an entry reaches its state, and an exit its end. Readings of the model in it: log entries 59 and 60. -/
def Obligations.EngineCommits : Prop :=
  ∀ (s : State) (x : EngTrans) (p : Fin 20) (d : Fin 50),
    let n := p.val
    let own := match x.src with
      | .handle k => some k
      | _ => none
    let clear : Prop := s.pw.cur = some x ∧ x.run = false ∧ s.pw.inReset = false ∧ engineRefuser s x.tgt.toNat own = none
    let shut := closePorts s
    let running (t : State) : State := { t with pw := { t.pw with cur := t.pw.cur.map fun y => { y with run := true } } }
    let steps (j : Nat) (t : State) : State := { t with pw := { t.pw with cur := t.pw.cur.map fun y => { y with steps := j } } }
    let nap := srcDone x.src 0 0 (rsvLoseAll (marchStop shut))
    let deep := emptyStaging (pushRecords nap)
    let quiet := (allFabs s).filter fun n => flg s FP_CTL_EN n
    let late (start : Nat) : Prop := start + fld s PWR_CTL_PREP * edgesUs ≤ s.clk
    let there := rebuildGroups (portsReturn (setFld TB_STAT_COAST 0 0 { s with pw := { s.pw with st := 0 } }))
    (clear → x.tgt = 2 → portsQuiet shut = true → Does s (.entryCommit .engine)
      (pwrStat (running (lanesTo (fun _ => 1) ((livePorts nap).foldl (fun t q => srEnter q true false t) nap))))) ∧
    (clear → x.tgt = 3 → x.steps = 0 → Does s (.entryCommit .engine)
      (pwrStat (steps 1 (drainLedger (quiet.foldl (fun t n => clearTallies n t) s))))) ∧
    (clear → x.tgt = 3 → x.steps = 1 → drained s = true → Does s (.entryCommit .engine) (pwrStat (steps 2 (saveImages (emptyStaging (drainEnd s)))))) ∧
    (clear → x.tgt = 3 → 2 ≤ x.steps → portsQuiet shut = true → Does s (.entryCommit .engine)
      (pwrStat (running ((livePorts deep).foldl (fun t q => srEnter q true true t) deep)))) ∧
    (clear → x.tgt = 4 → x.steps = 0 → Does s (.entryCommit .engine) (pwrStat (steps 1 (drainLedger s)))) ∧
    (clear → x.tgt = 4 → x.steps ≠ 0 → drained s = true → Does s (.entryCommit .engine)
      (pwrStat (pfStart 2 (modPw (fun w => { w with cur := none }) (srcDone x.src 0 0 (drainEnd s)))))) ∧
    (∀ a, mget s.pw.doms d.val = some (.prep a) → domRefuser s d.val = none → s.pw.inReset = false →
      Does s (.entryCommit (.domain d)) (domOff d.val s)) ∧
    (∀ y, (portPwr s n).cur = some y → y.run = false → portsMove s = true → portRefuser s n y.op.toNat = none →
      portQuiet (closeAll n s) n = true → pstate s n = .service →
      (y.op = 0 → Does s (.entryCommit (.port p)) (setPstate n .stopping (runPort n (endPortWork n (closeAll n s))))) ∧
      (y.op = 2 → serial n = false → Does s (.entryCommit (.port p)) (transEnd n 0 0 (srEnter n true false (runPort n (closeAll n s)))))) ∧
    (s.pw.cur = some x → x.run = true → s.pw.inReset = false → x.wake = false → s.pw.pend = none → s.pw.softWait = false →
      Makes s .stateReached fun t => t.pw.st = x.tgt ∧ t.pw.cur = none ∧ t.pw.exit = s.pw.exit ∧ fld t PWR_STAT_STATE = x.tgt.toNat ∧
        bits (regAt t 0x104 0) 5 1 = 1 ∧ (x.tgt = 3 → flg t TB_STAT_COAST = true)) ∧
    (s.pw.cur = some x → x.run = true → s.pw.inReset = false → x.wake = true → Makes s .stateReached fun t => t.pw.st = x.tgt ∧ t.pw.cur = none ∧
      t.pw.exit = some (x.tgt, s.clk) ∧ flg t PWR_STAT_RUN = true) ∧
    (∀ a, s.pw.cur = none → s.pw.exit = some (2, a) → a + engineW s 2 ≤ s.clk → Does s .stateReached (backInRun (portsWake s))) ∧
    (∀ a, s.pw.exit = some (3, a) → a + engineW s 3 ≤ s.clk → Does s .e3ExitDone (backInRun
      (((allFabs there).filter fun n => flg there FP_CTL_EN n && !(fabOf there n).granted && !(fabOf there n).fenced).foldl
        (fun t n => grantTallies n t) there))) ∧
    (s.pw.pend = none → s.pw.softWait = false → (backInRun s).pw.st = 0 ∧ (backInRun s).pw.exit = none ∧
      bits (regAt (backInRun s) 0x104 0) 5 1 = 1) ∧
    (∀ code, s.pw.cur = some x → x.run = false → engineRefuser s x.tgt.toNat own = some code → late x.start →
      Does s (.prepTimeout .engine) (softNext (refusePrep code false s))) ∧
    (∀ y code, (portPwr s n).cur = some y → y.run = false → portRefuser s n y.op.toNat = some code → late y.start →
      Does s (.prepTimeout (.port p)) (transEnd n 0x25 code (recordRef code 6 n false (runPort n s)))) ∧
    (∀ a code, mget s.pw.doms d.val = some (.prep a) → domRefuser s d.val = some code → late a →
      Does s (.prepTimeout (.domain d)) (modDom d.val .on (recordRef code 5 d.val false s)))

/-- Software-switched domains (R409, R410, R414, R431): PWR_DREQ switches a domain of Table 15.2 on or begins the preparation of its
switch-off; codes of other domains are rejected; a rising domain is on, or goes back to its preparation; a domain that goes off loses its
contents; PWR_CNT_CLEAR clears. Readings of the model in it: log entry 25. -/
def Obligations.Domains : Prop :=
  ∀ (s : State) (v : Word) (d : Fin 50),
    let k := bits v.toNat 0 6
    let listed : Prop := k ∈ [41, 43, 44, 45, 46, 48, 49]
    let asks : Prop := v.getLsbD 31 = true ∧ s.pw.inReset = false ∧ s.pw.st.toNat ≤ 3
    let now := mgetD s.pw.doms k DomSt.on
    let may : Prop := asks ∧ listed ∧ domImpl s.part.variant k = true ∧ s.en.pf = .none
    let off := domOff d.val s
    (may → v.getLsbD 6 = true → now = .off →
      Does s (.domainOn v) (modDom k (.rising (s.clk + riseEdges s.part.variant k) false) s)) ∧
    (∀ a, may → v.getLsbD 6 = true → now = .prep a → Does s (.domainOn v) (modDom k .on (addFld PWR_CNT_SUPERSEDED 0 1 s))) ∧
    (may → v.getLsbD 6 = false → now = .on → Does s (.domainOff v) (modDom k (.prep s.clk) s)) ∧
    (∀ a, may → v.getLsbD 6 = false → now = .rising a false → Does s (.domainOff v) (modDom k (.rising a true) s)) ∧
    (asks → ¬listed → Does s (.domainOn v) (reject 0x40038 1 s) ∧ Does s (.domainOff v) (reject 0x40038 1 s)) ∧
    (asks → listed → domImpl s.part.variant k = false → Does s (.domainOn v) (reject 0x40038 5 s) ∧ Does s (.domainOff v) (reject 0x40038 5 s)) ∧
    (∀ a, mget s.pw.doms d.val = some (.rising a false) → a ≤ s.clk → s.pw.inReset = false →
      let u := modDom d.val .on s
      Does s (.domainOnDone d) (if d = 41 then homeRun u else u)) ∧
    (mgetD off.pw.doms d.val DomSt.on = .off ∧ softOn off d.val = false ∧ (d = 49 → off.spad = [] ∧ off.spadBad = []) ∧
      (d = 41 → off.home.ledger = []) ∧ (d ≠ 49 → off.spad = s.spad) ∧ off.dram = s.dram) ∧
    (s.pw.inReset = false → v.getLsbD 0 = true → ∃ t, Gives s (.pwrCntClear v) t ∧ fld t PWR_REF_CNT = 0 ∧ regAt t 0x40028 0 = 0 ∧
      fld t PWR_REF_CODE = fld s PWR_REF_CODE)

/-- Port transitions (R422, R423, R428, R347): from the register, a host command or PPWR. OFF and SELF_REFRESH of a port in service begin
their preparation; ON of a port that is off begins its cold enable; WAKE leaves self-refresh at once; RESET takes the port to OFF; a request
that the state of the port does not allow changes nothing; a stopping port ends off. Readings of the model in it: log entries 61 and 69. -/
def Obligations.PortTransitions : Prop :=
  ∀ (s : State) (p : Fin 20) (h : BitVec 12) (c : Fin 4) (rd ra : BitVec 5),
    let n := p.val
    let k := h.toNat
    let u := modHandle k (fun x => { x with st := .running }) (active s)
    let free : Prop := PortHere s p ∧ s.pw.inReset = false ∧ s.en.pf = .none ∧ s.pw.st.toNat ≤ 1 ∧ (portPwr s n).cur = none
    let put (op : Nat) : State := ppStat n (setPortPwr n { portPwr s n with cur := some { op := BitVec.ofNat 3 op, src := .reg, start := s.clk } } s)
    let prepares (i : Instr) (op : Nat) : Prop := free → portAllows (pstate s n) op = true → Does s i (put op)
    let refused (i : Instr) (op : Nat) : Prop := free → portAllows (pstate s n) op = false → Does s i s
    let a := argN (handleOf s k) 1
    let host (i : Instr) (op : Nat) : Prop := mayStart s k 0xB = true → bits a 0 5 = n → bits a 8 4 = op → Does s i (portReq n op (.handle k) u)
    let v := (gpr (ctxOf s c.val) ra).toNat
    let ppwr (i : Instr) (op : Nat) : Prop := MayControl s c → v = n → portImpl s.part.variant n = true → portAllows (pstate s n) op = true →
      fromDram s c.val = false → s.en.pf = .none →
      Takes s c i (encR 0x33 rd ra 0 0 (BitVec.ofNat 4 op) 4) fun w t => t = retireWith c.val rd 0 (portReq n op (.lant c) w)
    let src := ReqSrc.lant c rd ra 0 0
    prepares (.portOff p .reg) 0 ∧ prepares (.portSelfRefresh p .reg) 2 ∧ refused (.portOff p .reg) 0 ∧ refused (.portOn p .reg) 1 ∧
    refused (.portSelfRefresh p .reg) 2 ∧ refused (.portWake p .reg) 3 ∧
    (free → portsMove s = true → pstate s n = .off → Does s (.portOn p .reg) (portStart n .cold false (runPort n (put 1)))) ∧
    (free → portsMove s = true → pstate s n = .selfRefresh → serial n = false →
      Does s (.portWake p .reg) (transEnd n 0 0 (srExit n (runPort n (put 3))))) ∧
    (free → portsMove s = true → pstate s n = .off → Does s (.portReset p .reg) (transEnd n 0 0 (runPort n (put 4)))) ∧
    (free → portsMove s = true → pstate s n ≠ .off → Does s (.portReset p .reg) (transEnd n 0 0 (portResetNow n (runPort n (put 4))))) ∧
    ((portPwr (put 0) n).cur = some { op := 0, src := .reg, start := s.clk } ∧ flg (put 0) PP_STAT_PENDV n = true ∧ SameBytes s (put 0)) ∧
    host (.portOff p (.handle h)) 0 ∧ host (.portOn p (.handle h)) 1 ∧ host (.portSelfRefresh p (.handle h)) 2 ∧
    host (.portWake p (.handle h)) 3 ∧ host (.portReset p (.handle h)) 4 ∧
    ppwr (.portOff p src) 0 ∧ ppwr (.portOn p src) 1 ∧ ppwr (.portSelfRefresh p src) 2 ∧ ppwr (.portWake p src) 3 ∧ ppwr (.portReset p src) 4 ∧
    (PortHere s p → pstate s n = .stopping → Does s (.portStoppingDone p) (transEnd n 0 0 (portDown n s))) ∧
    (pstate (portDown n s) n = .off ∧ shedSet (portDown n s) n = 0 ∧ ∀ b, dkey n 0 ≤ b → b < dkey (n + 1) 0 → byteAt (portDown n s).dram b = 0)

/-! ### Registers (chapter 17) -/

/-- Writes of the window (R455, R461, R462, R468, R472, R5): one that is not an aligned word is rejected with WIDTH, one under reset has no
effect, every other is stored in its location after its wake; a location of an absent unit ignores it; CFG_APPLY, CFG_REJ_CLR and INT_SET do
what they say at once, INT_SET1 only for the causes that are not reserved. Readings of the model in it: log entries 12 and 18. -/
def Obligations.RegisterWrites : Prop :=
  ∀ (s : State) (off : BitVec 22) (bytes : Fin 9) (v : Word) (hi : Bool),
    let k := off.toNat
    (s.pw.inReset = true → Does s (.registerWrite off bytes v) s) ∧
    (s.pw.inReset = false → bytes ≠ 4 ∨ k % 4 ≠ 0 → Does s (.registerWrite off bytes v) (reject k 7 s)) ∧
    (s.pw.inReset = false → k % 4 = 0 → Does s (.registerWrite off 4 v) (windowStore k v (if wakesItself k = true then s else writeWakes s))) ∧
    (unitThere s k = false → windowStore k v s = s) ∧
    (s.pw.st = 0 → s.pw.cur = none → s.en.pf = .none → writeWakes s = active s) ∧
    (s.pw.inReset = false → ∃ t, Gives s (.cfgApplyHold v) t ∧ flg t CFG_APPLY_HOLD = v.getLsbD 0 ∧ t.shadow = s.shadow ∧ SameBytes s t) ∧
    (s.pw.inReset = false → ∃ t, Gives s (.cfgCommit v) t ∧ flg t CFG_CRC_STAT_ARMED = (v.getLsbD 1 || flg s CFG_CRC_STAT_ARMED)) ∧
    (s.pw.inReset = false → v.getLsbD 0 = true → ∃ t, Gives s (.cfgRejClear v) t ∧ fld t CFG_REJ_COUNT = 0 ∧ fld t CFG_REJ_REASON = 0 ∧
      fld t CFG_REJ_OFFSET = 0) ∧
    (s.pw.inReset = false → ∃ t, Gives s (.intSet hi v) t ∧ SameBytes s t ∧
      ∀ b < 32, bits (regAt t (if hi then 0x104 else 0x100) 0) b 1 =
        if v.getLsbD b = true ∧ (hi = true → b < 15) then 1 else bits (regAt s (if hi then 0x104 else 0x100) 0) b 1)

/-- A register of Table 17.10 (R456, R460, R462, R469, R473). A write whose check fails is discarded with its reason; otherwise an RW bit
takes the value at once, a one clears a W1C bit, every other bit in force stays, a staged bit goes into the shadow alone, and no other
register changes. A read returns the staged bits from the shadow unless CFG_RDSEL.FORCE is set, and the others in force. The capability
registers read as Table 17.8 gives them, and INT_OUT shows the causes that are latched, enabled and routed. Readings of the model in it: log
entry 12. -/
def Obligations.RegisterFields : Prop :=
  ∀ (s : State) (off v : Nat) (d : RegDesc) (i n : Nat),
    let w := unitBits s.part.variant off v
    let r := writeFail s d i off w
    let caps (l : List Nat) : Prop := [0x10, 0x14, 0x18, 0x1C, 0x20, 0x24, 0x28].map (windowRead s) = l.map (BitVec.ofNat 32)
    (s.pw.inReset = false → s.part.variant = .cx3f → caps [0xFFFFF, 0xFFFFFFFF, 0x8000 + 0x80 * 2 ^ 17, 0x200000, 4, 0x20, 0x9000]) ∧
    (s.pw.inReset = false → s.part.variant = .cx3m → caps [0xFFF, 0xFFFFFFFF, 0x2000 + 0x20 * 2 ^ 17, 0x100000, 2, 0x10, 0x5000]) ∧
    (s.pw.inReset = false → s.part.variant = .cx3d → caps [0xF, 0xFFFF, 0x400 + 4 * 2 ^ 17, 0, 1, 8, 0x1000]) ∧
    (n < 32 → (intLevel s).testBit n = (!s.pw.inReset && (List.range 47).any fun c =>
      bits (regAt s (0x100 + 4 * (c / 32)) 0) (c % 32) 1 == 1 && bits (regAt s (0x108 + 4 * (c / 32)) 0) (c % 32) 1 == 1 &&
      bits (regAt s (0x140 + 4 * (c / 4)) 0) (8 * (c % 4)) 5 == n)) ∧
    (regFind off = some (d, i) → off ∉ [0x200, 0x2000C, 0x30028, 0x4003C, 0x40040, 0x6002C] → d.base ≠ 0x21008 → ∀ b < 32,
      (plainWord s off).testBit b =
        if flg s CFG_RDSEL_FORCE = false ∧ d.rs.testBit b = true then (stagedAt s off d.rst).testBit b else (regAt s off d.rst).testBit b) ∧
    (regFind off = some (d, i) → d.rs ≠ 0 ∨ d.rw ≠ 0 ∨ d.w1c ≠ 0 → v < 2 ^ 32 → r ≠ 0 → plainWrite off v s = reject off r s) ∧
    (regFind off = some (d, i) → d.rs ≠ 0 ∨ d.rw ≠ 0 ∨ d.w1c ≠ 0 → v < 2 ^ 32 → r = 0 → ∃ t, plainWrite off v s = t ∧
      (∀ b < 32, (regAt t off d.rst).testBit b =
        if d.w1c.testBit b && w.testBit b then false else if d.rw.testBit b then w.testBit b else (regAt s off d.rst).testBit b) ∧
      (Rising s.shadow → ∀ b < 32, d.rs.testBit b = true → (stagedAt t off d.rst).testBit b = w.testBit b) ∧
      (∀ o ≠ off, ∀ rst, regAt t o rst = regAt s o rst ∧ (Rising s.shadow → stagedAt t o rst = stagedAt s o rst)))

/-- Boundaries (R460, R461, R463, R467, R468): a global boundary that is due applies the staged words, or under HOLD keeps them, copies the
images and starts a pass; a group that fails its check keeps every register and drops its shadows; a port boundary applies the port's words;
a pass that ends commits its CRC or compares it. Readings of the model in it: log entries 21, 22, 23 and 28. -/
def Obligations.RegisterBoundaries : Prop :=
  ∀ (s : State) (p : Fin 20) (lo : Nat) (l : List Nat) (mine : Nat → Bool) (good : State → Bool),
    let n := p.val
    let after (t : State) : State := passStart s { saveImages t with cfg := { (saveImages t).cfg with globalAt := s.clk, kick := none } }
    let ours (off : Nat) : Bool := 0x200000 + n * 0x10000 ≤ off && off < 0x210000 + n * 0x10000
    let staged' := (pendingIn s ours).filter fun off => !flg s CFG_APPLY_HOLD || s.cfg.own.contains off
    let w := mainTap n (loopSet n (staged'.foldl (applyPortReg n) s))
    let crc := crcOf s % 2 ^ 32
    let ends : Prop := flg s CFG_CRC_STAT_BUSY = true ∧ boundaryOpen s = true ∧ s.cfg.crcAt + passTicks s ≤ s.clk
    (globalDue s = true → flg s CFG_APPLY_HOLD = false → Does s .globalBoundary (after (globalApply s))) ∧
    (globalDue s = true → flg s CFG_APPLY_HOLD = true → Does s .globalBoundary (after s)) ∧
    (globalDue s = false → Does s .globalBoundary s) ∧
    (pendingIn s mine = lo :: l → good (applyAll (lo :: l) s) = false →
      (applyGroup mine good s) = reject lo 4 (dropAll (lo :: l) s) ∧ (dropAll (lo :: l) s).regs = s.regs) ∧
    (pendingIn s mine = lo :: l → good (applyAll (lo :: l) s) = true → applyGroup mine good s = applyAll (lo :: l) s) ∧
    (PortHere s p → boundaryOpen s = true → portDue s n = true → (portOf w n).marks.leadNew = none →
      Does s (.portBoundary p) (crcRestart s { w with cfg := { w.cfg with own := w.cfg.own.filter fun off => !staged'.contains off } })) ∧
    (ends → s.cfg.byCommit = true → ∃ t, Gives s .crcPassEnd t ∧ fld t CFG_CRC_REF_REF = crc ∧ fld t CFG_CRC_CUR_CUR = crc ∧
      flg t CFG_CRC_STAT_COMMITTED = true ∧ flg t CFG_CRC_STAT_ARMED = false ∧ flg t CFG_CRC_STAT_BUSY = false) ∧
    (ends → s.cfg.byCommit = false → flg s CFG_CRC_CTL_EN = true → flg s CFG_CRC_STAT_ARMED = false → ∃ t, Gives s .crcPassEnd t ∧
      fld t CFG_CRC_REF_REF = fld s CFG_CRC_REF_REF ∧ fld t CFG_CRC_CUR_CUR = crc ∧ flg t CFG_CRC_STAT_BUSY = false ∧
      fld t CFG_CRC_STAT_PASSES = min (fld s CFG_CRC_STAT_PASSES + 1) 65535 ∧
      (crcOf s ≠ fld s CFG_CRC_REF_REF → flg t CFG_CRC_STAT_ALARM = true) ∧
      (crcOf s = fld s CFG_CRC_REF_REF → flg t CFG_CRC_STAT_ALARM = flg s CFG_CRC_STAT_ALARM))

/-- Registers of an absent unit (R5, R455): whatever the unit, a read returns zero, and a write ignores it: no register, no log and no
interrupt follows from it. -/
def Obligations.RegisterAbsent : Prop :=
  ∀ (s : State) (off : Nat) (v : Word),
    let x := s.part.variant
    let at' (base size n : Nat) : Prop := base + size * n ≤ off ∧ off < base + size * (n + 1)
    let absent : Prop :=
      (∃ p < 20, portImpl x p = false ∧ (at' 0x200000 0x10000 p ∨ at' 0x60100 4 p ∨ at' 0x60200 4 p)) ∨
      (∃ n < 32, fabImpl x n = false ∧ at' 0xC0000 0x1000 n) ∨ (homeImpl x = false ∧ at' 0xA0000 0x1000 0) ∨
      (∃ c < 4, ctxCount x ≤ c ∧ at' 0x80100 0x100 c) ∨
      (∃ m < 4, stallCount x ≤ 8192 * m ∧ at' 0x380800 4 m) ∨ (∃ g < 128, stallCount x ≤ 256 * g ∧ at' 0x381000 8 g)
    absent → windowRead s off = 0 ∧ windowStore off v s = s

/-! ### The whole engine -/

/-- A step takes the command at the front of the queue and is its effect with the rest of the queue; on an empty queue one edge of the
timebase passes (the model's choice). Readings of the model in it: log entry 1. -/
def Obligations.StepFront : Prop :=
  ∀ (s : State) (c : Instr) (l : List Instr),
    step { s with pending := c :: l } = exec c { s with pending := l } ∧ step { s with pending := [] } = .next (idleTick { s with pending := [] })

/-- What the engine does without a command after each one: where nothing waits it does nothing; it never touches the part, the queue, the
clock, the count or the battery-backed words. An edge of the timebase counts one (R110). Readings of the model in it: log entries 1 and 10.
-/
def Obligations.Settling : Prop :=
  (∀ s : State, Quiet s → settle s = s) ∧
  (∀ s : State, (settle s).part = s.part ∧ (settle s).pending = s.pending ∧ (settle s).clk = s.clk ∧ (settle s).count = s.count ∧
    (settle s).bbr = s.bbr) ∧
  ∀ s : State, (idleTick s).count = s.count + 1 ∧ (idleTick s).clk = s.clk + 1

/-- The engine right after reset (R324, R404, R411, R425, R454): nothing in flight, every memory in canonical form, E0, the count at zero,
context 0 running at offset 0 and the user contexts stopped, every stall off, and the reset values of the register tables. Readings of the
model in it: log entries 5, 6, 7, 8 and 114. -/
def Obligations.ResetState : Prop :=
  let s := State.reset
  MemOk s ∧ Quiet s ∧ s.pending = [] ∧ s.count = 0 ∧ s.pw.st = 0 ∧ s.pw.inReset = false ∧
  ((ctxOf s 0).st = .running ∧ (ctxOf s 0).pc = 0 ∧ ∀ c ∈ [1, 2, 3], (ctxOf s c).st = .stopped) ∧ (∀ a, (stallOf s a).st = .off) ∧
  (∀ p < 20, pstate s p = .off) ∧ (∀ off rst, regAt s off rst = rst ∧ stagedAt s off rst = rst) ∧
  fld s PW_LIM_PEAK = 0x68 ∧ fld s PW_LIM_SUS = 0x50 ∧ fld s PW_LIM_PDUR = 0x1E ∧ flg s PW_CTL_EN = true ∧ fld s SN_CFG_SHUNT = 0x3E8 ∧
  fld s RST_CTL_TMO = 0x64 ∧ fld s CH_CFG_HDR = 0x14

/-- Encoding and decoding of Lantern words agree (R333, Tables 12.4 to 12.16): the word of a command, where the tables define it, decodes to
that command with every operand, and a word that decodes to a command is that command's word, so no bit of it is dropped. Readings of the
model in it: log entry 41. -/
def Obligations.LanternRoundTrip : Prop :=
  (∀ (i : Instr) (c : Fin 4) (w : Word), encodeLant i = some (c, w) → wordDefined w = true → decodeLant c w = some i) ∧
  ∀ (i : Instr) (c : Fin 4) (w : Word), decodeLant c w = some i → encodeLant i = some (c, w)

/-- Words written out from the tables of chapter 12, one for most groups (Tables 12.4, 12.7 to 12.14, 12.16). -/
def Obligations.LanternWords : Prop :=
  ∀ c : Fin 4,
    decodeLant c 0b000001_00001_00010_00011_1_0000_000001#32 = some (.sub c 1 2 3 1 0) ∧
    decodeLant c 0b000010_00100_00101_1111111111111111#32 = some (.addi c 4 5 0xFFFF) ∧
    decodeLant c 0b010000_0001_000000_0000000000000100#32 = some (.bc c 1 0 4) ∧
    decodeLant c 0b010001_00110_00111_1111111111111110#32 = some (.beq c 6 7 0xFFFE) ∧
    decodeLant c 0b101011_01000_01001_0000000000010000#32 = some (.sd c 8 9 16) ∧
    decodeLant c 0b101110_01010_01011_01100_0_0000_000101#32 = some (.lantAmo c 10 11 12 0 0) ∧
    decodeLant c 0b110000_01101_01110_01111_0_1111_000000#32 = some (.sput c 13 14 15 0 15) ∧
    decodeLant c 0b110001_10000_00000_00000_0_0001_000000#32 = some (.rdtb c 16 0 0 0 1) ∧
    decodeLant c 0b110010_00000_00000_00000_0_0000_000101#32 = some (.halt c 0 0 0 0 0) ∧
    decodeLant c 0b110011_10001_10010_10011_0_0000_000000#32 = some (.mrw c 17 18 19 0 0) ∧
    decodeLant c 0 = none ∧ wordDefined 0 = false

/-- No step changes what is fixed per part (R1, R469), and a step takes exactly the front command from the queue. -/
def Obligations.StepKeepsPart : Prop :=
  ∀ s t : State, step s = .next t → t.part = s.part ∧ t.pending = s.pending.tail

/-- Every step keeps DRAM, scratchpad, program RAM and data RAM in canonical form: addresses rising, and no entry equal to what an unlisted
address reads as. Readings of the model in it: log entry 8. -/
def Obligations.StepKeepsMemory : Prop :=
  ∀ s t : State, MemOk s → step s = .next t → MemOk t
end

