-- ==== Sys2Proof/Laws/Table.lean ====
section
/-!
SUPPORT. The sparse tables: what a store and a deletion leave readable, and that they keep the keys rising.
-/

namespace Sys2Proof.Machine

theorem mget_mput {α : Type} (m : SMap α) (k j : Nat) (a : α) : mget (mput m k a) j = if j = k then some a else mget m j := by
  induction m with
  | nil => simp [mput, mget, eq_comm]
  | cons e m ih =>
    obtain ⟨i, b⟩ := e
    simp only [mput]
    split
    · simp [mget, eq_comm]
    · split
      · subst_vars; simp only [mget]; split <;> simp_all [eq_comm]
      · simp only [mget, ih]; split
        · subst_vars; split <;> simp_all
        · rfl

theorem mput_mput {α : Type} (m : SMap α) (k : Nat) (a b : α) : mput (mput m k a) k b = mput m k b := by
  induction m with
  | nil => simp [mput]
  | cons e m ih =>
    obtain ⟨i, z⟩ := e
    simp only [mput]
    split
    · simp [mput]
    · split
      · simp [mput]
      · rename_i h1 h2; simp [mput, h1, h2, ih]

/-- The keys of a table after a store. -/
theorem mem_mput {α : Type} (m : SMap α) (k : Nat) (a : α) (e : Nat × α) (h : e ∈ mput m k a) : e = (k, a) ∨ e ∈ m := by
  induction m with
  | nil => simpa [mput] using h
  | cons f m ih =>
    obtain ⟨i, b⟩ := f
    simp only [mput] at h
    split at h
    · simpa [or_assoc] using h
    · split at h
      · rcases List.mem_cons.1 h with h | h
        · exact .inl h
        · exact .inr (List.mem_cons_of_mem _ h)
      · rcases List.mem_cons.1 h with h | h
        · exact .inr (by simp [h])
        · rcases ih h with h | h
          · exact .inl h
          · exact .inr (List.mem_cons_of_mem _ h)

theorem mem_mdel {α : Type} (m : SMap α) (k : Nat) (e : Nat × α) (h : e ∈ mdel m k) : e ∈ m := by
  induction m with
  | nil => simp [mdel] at h
  | cons f m ih =>
    obtain ⟨i, b⟩ := f
    simp only [mdel] at h
    split at h
    · exact List.mem_cons_of_mem _ h
    · rcases List.mem_cons.1 h with h | h
      · simp [h]
      · exact List.mem_cons_of_mem _ (ih h)

theorem rising_cons {α : Type} (e : Nat × α) (m : SMap α) : Rising (e :: m) ↔ (∀ f ∈ m, e.1 < f.1) ∧ Rising m := by
  simp [Rising, List.pairwise_cons]

/-- A store keeps the keys rising. -/
theorem rising_mput {α : Type} (m : SMap α) (k : Nat) (a : α) (h : Rising m) : Rising (mput m k a) := by
  induction m with
  | nil => simp [mput, Rising]
  | cons e m ih =>
    obtain ⟨i, b⟩ := e
    rw [rising_cons] at h
    simp only [mput]
    split
    · rename_i hk
      rw [rising_cons, rising_cons]
      refine ⟨fun f hf => ?_, h⟩
      rcases List.mem_cons.1 hf with hf | hf
      · simpa [hf] using hk
      · exact Nat.lt_trans hk (h.1 f hf)
    · split
      · rename_i hk; subst hk; rw [rising_cons]; exact h
      · rename_i h1 h2
        rw [rising_cons]
        refine ⟨fun f hf => ?_, ih h.2⟩
        rcases mem_mput m k a f hf with hf | hf
        · simp only [hf]; omega
        · exact h.1 f hf

/-- A deletion keeps the keys rising. -/
theorem rising_mdel {α : Type} (m : SMap α) (k : Nat) (h : Rising m) : Rising (mdel m k) := by
  induction m with
  | nil => exact h
  | cons e m ih =>
    obtain ⟨i, b⟩ := e
    rw [rising_cons] at h
    simp only [mdel]
    split
    · exact h.2
    · rw [rising_cons]; exact ⟨fun f hf => h.1 f (mem_mdel m k f hf), ih h.2⟩

theorem rising_filter {α : Type} (m : SMap α) (p : Nat × α → Bool) (h : Rising m) : Rising (m.filter p) :=
  List.Pairwise.sublist (List.Sublist.map _ List.filter_sublist) h

theorem mget_none_of_lt {α : Type} (m : SMap α) (k : Nat) (h : ∀ e ∈ m, k < e.1) : mget m k = none := by
  induction m with
  | nil => rfl
  | cons e m ih =>
    obtain ⟨i, b⟩ := e
    have := h (i, b) (by simp)
    simp only [mget]
    rw [if_neg (by simp at this; omega)]
    exact ih fun f hf => h f (List.mem_cons_of_mem _ hf)

/-- After a deletion the key holds nothing, and every other key what it held. -/
theorem mget_mdel {α : Type} (m : SMap α) (k j : Nat) (h : Rising m) : mget (mdel m k) j = if j = k then none else mget m j := by
  induction m with
  | nil => simp [mdel, mget]
  | cons e m ih =>
    obtain ⟨i, b⟩ := e
    rw [rising_cons] at h
    simp only [mdel]
    by_cases hi : i = k
    · subst hi
      simp only [if_true]
      by_cases hj : j = i
      · subst hj; simp only [if_true]; exact mget_none_of_lt m j h.1
      · simp only [if_neg hj, mget, if_neg (fun e : i = j => hj e.symm)]
    · simp only [if_neg hi, mget, ih h.2]
      by_cases hj : i = j
      · subst hj; simp [hi]
      · simp [hj]

end Sys2Proof.Machine
end

