-- ==== Sys2Proof/Laws/State.lean ====
section
/-!
SUPPORT. What each update of the state leaves alone: one lemma per field and update, so that no proof unfolds a record update.
-/

namespace Sys2Proof.Machine

/-! `setWord` -/

@[simp] theorem setWord_pending (off v : Nat) (s : State) : (setWord off v s).pending = s.pending := rfl
@[simp] theorem setWord_part (off v : Nat) (s : State) : (setWord off v s).part = s.part := rfl
@[simp] theorem setWord_clk (off v : Nat) (s : State) : (setWord off v s).clk = s.clk := rfl
@[simp] theorem setWord_count (off v : Nat) (s : State) : (setWord off v s).count = s.count := rfl
@[simp] theorem setWord_free (off v : Nat) (s : State) : (setWord off v s).free = s.free := rfl
@[simp] theorem setWord_nextId (off v : Nat) (s : State) : (setWord off v s).nextId = s.nextId := rfl
@[simp] theorem setWord_shadow (off v : Nat) (s : State) : (setWord off v s).shadow = s.shadow := rfl
@[simp] theorem setWord_floors (off v : Nat) (s : State) : (setWord off v s).floors = s.floors := rfl
@[simp] theorem setWord_fab (off v : Nat) (s : State) : (setWord off v s).fab = s.fab := rfl
@[simp] theorem setWord_ports (off v : Nat) (s : State) : (setWord off v s).ports = s.ports := rfl
@[simp] theorem setWord_tb (off v : Nat) (s : State) : (setWord off v s).tb = s.tb := rfl
@[simp] theorem setWord_logs (off v : Nat) (s : State) : (setWord off v s).logs = s.logs := rfl
@[simp] theorem setWord_sram (off v : Nat) (s : State) : (setWord off v s).sram = s.sram := rfl
@[simp] theorem setWord_march (off v : Nat) (s : State) : (setWord off v s).march = s.march := rfl
@[simp] theorem setWord_stalls (off v : Nat) (s : State) : (setWord off v s).stalls = s.stalls := rfl
@[simp] theorem setWord_home (off v : Nat) (s : State) : (setWord off v s).home = s.home := rfl
@[simp] theorem setWord_lant (off v : Nat) (s : State) : (setWord off v s).lant = s.lant := rfl
@[simp] theorem setWord_host (off v : Nat) (s : State) : (setWord off v s).host = s.host := rfl
@[simp] theorem setWord_en (off v : Nat) (s : State) : (setWord off v s).en = s.en := rfl
@[simp] theorem setWord_pw (off v : Nat) (s : State) : (setWord off v s).pw = s.pw := rfl
@[simp] theorem setWord_cfg (off v : Nat) (s : State) : (setWord off v s).cfg = s.cfg := rfl
@[simp] theorem setWord_dram (off v : Nat) (s : State) : (setWord off v s).dram = s.dram := rfl
@[simp] theorem setWord_spad (off v : Nat) (s : State) : (setWord off v s).spad = s.spad := rfl
@[simp] theorem setWord_poison (off v : Nat) (s : State) : (setWord off v s).poison = s.poison := rfl
@[simp] theorem setWord_spadBad (off v : Nat) (s : State) : (setWord off v s).spadBad = s.spadBad := rfl
@[simp] theorem setWord_bbr (off v : Nat) (s : State) : (setWord off v s).bbr = s.bbr := rfl

/-! `setFld` -/

@[simp] theorem setFld_pending (f : Fld) (i v : Nat) (s : State) : (setFld f i v s).pending = s.pending := rfl
@[simp] theorem setFld_part (f : Fld) (i v : Nat) (s : State) : (setFld f i v s).part = s.part := rfl
@[simp] theorem setFld_clk (f : Fld) (i v : Nat) (s : State) : (setFld f i v s).clk = s.clk := rfl
@[simp] theorem setFld_count (f : Fld) (i v : Nat) (s : State) : (setFld f i v s).count = s.count := rfl
@[simp] theorem setFld_free (f : Fld) (i v : Nat) (s : State) : (setFld f i v s).free = s.free := rfl
@[simp] theorem setFld_nextId (f : Fld) (i v : Nat) (s : State) : (setFld f i v s).nextId = s.nextId := rfl
@[simp] theorem setFld_shadow (f : Fld) (i v : Nat) (s : State) : (setFld f i v s).shadow = s.shadow := rfl
@[simp] theorem setFld_floors (f : Fld) (i v : Nat) (s : State) : (setFld f i v s).floors = s.floors := rfl
@[simp] theorem setFld_fab (f : Fld) (i v : Nat) (s : State) : (setFld f i v s).fab = s.fab := rfl
@[simp] theorem setFld_ports (f : Fld) (i v : Nat) (s : State) : (setFld f i v s).ports = s.ports := rfl
@[simp] theorem setFld_tb (f : Fld) (i v : Nat) (s : State) : (setFld f i v s).tb = s.tb := rfl
@[simp] theorem setFld_logs (f : Fld) (i v : Nat) (s : State) : (setFld f i v s).logs = s.logs := rfl
@[simp] theorem setFld_sram (f : Fld) (i v : Nat) (s : State) : (setFld f i v s).sram = s.sram := rfl
@[simp] theorem setFld_march (f : Fld) (i v : Nat) (s : State) : (setFld f i v s).march = s.march := rfl
@[simp] theorem setFld_stalls (f : Fld) (i v : Nat) (s : State) : (setFld f i v s).stalls = s.stalls := rfl
@[simp] theorem setFld_home (f : Fld) (i v : Nat) (s : State) : (setFld f i v s).home = s.home := rfl
@[simp] theorem setFld_lant (f : Fld) (i v : Nat) (s : State) : (setFld f i v s).lant = s.lant := rfl
@[simp] theorem setFld_host (f : Fld) (i v : Nat) (s : State) : (setFld f i v s).host = s.host := rfl
@[simp] theorem setFld_en (f : Fld) (i v : Nat) (s : State) : (setFld f i v s).en = s.en := rfl
@[simp] theorem setFld_pw (f : Fld) (i v : Nat) (s : State) : (setFld f i v s).pw = s.pw := rfl
@[simp] theorem setFld_cfg (f : Fld) (i v : Nat) (s : State) : (setFld f i v s).cfg = s.cfg := rfl
@[simp] theorem setFld_dram (f : Fld) (i v : Nat) (s : State) : (setFld f i v s).dram = s.dram := rfl
@[simp] theorem setFld_spad (f : Fld) (i v : Nat) (s : State) : (setFld f i v s).spad = s.spad := rfl
@[simp] theorem setFld_poison (f : Fld) (i v : Nat) (s : State) : (setFld f i v s).poison = s.poison := rfl
@[simp] theorem setFld_spadBad (f : Fld) (i v : Nat) (s : State) : (setFld f i v s).spadBad = s.spadBad := rfl
@[simp] theorem setFld_bbr (f : Fld) (i v : Nat) (s : State) : (setFld f i v s).bbr = s.bbr := rfl

/-! `addFld` -/

@[simp] theorem addFld_pending (f : Fld) (i n : Nat) (s : State) : (addFld f i n s).pending = s.pending := rfl
@[simp] theorem addFld_part (f : Fld) (i n : Nat) (s : State) : (addFld f i n s).part = s.part := rfl
@[simp] theorem addFld_clk (f : Fld) (i n : Nat) (s : State) : (addFld f i n s).clk = s.clk := rfl
@[simp] theorem addFld_count (f : Fld) (i n : Nat) (s : State) : (addFld f i n s).count = s.count := rfl
@[simp] theorem addFld_free (f : Fld) (i n : Nat) (s : State) : (addFld f i n s).free = s.free := rfl
@[simp] theorem addFld_nextId (f : Fld) (i n : Nat) (s : State) : (addFld f i n s).nextId = s.nextId := rfl
@[simp] theorem addFld_shadow (f : Fld) (i n : Nat) (s : State) : (addFld f i n s).shadow = s.shadow := rfl
@[simp] theorem addFld_floors (f : Fld) (i n : Nat) (s : State) : (addFld f i n s).floors = s.floors := rfl
@[simp] theorem addFld_fab (f : Fld) (i n : Nat) (s : State) : (addFld f i n s).fab = s.fab := rfl
@[simp] theorem addFld_ports (f : Fld) (i n : Nat) (s : State) : (addFld f i n s).ports = s.ports := rfl
@[simp] theorem addFld_tb (f : Fld) (i n : Nat) (s : State) : (addFld f i n s).tb = s.tb := rfl
@[simp] theorem addFld_logs (f : Fld) (i n : Nat) (s : State) : (addFld f i n s).logs = s.logs := rfl
@[simp] theorem addFld_sram (f : Fld) (i n : Nat) (s : State) : (addFld f i n s).sram = s.sram := rfl
@[simp] theorem addFld_march (f : Fld) (i n : Nat) (s : State) : (addFld f i n s).march = s.march := rfl
@[simp] theorem addFld_stalls (f : Fld) (i n : Nat) (s : State) : (addFld f i n s).stalls = s.stalls := rfl
@[simp] theorem addFld_home (f : Fld) (i n : Nat) (s : State) : (addFld f i n s).home = s.home := rfl
@[simp] theorem addFld_lant (f : Fld) (i n : Nat) (s : State) : (addFld f i n s).lant = s.lant := rfl
@[simp] theorem addFld_host (f : Fld) (i n : Nat) (s : State) : (addFld f i n s).host = s.host := rfl
@[simp] theorem addFld_en (f : Fld) (i n : Nat) (s : State) : (addFld f i n s).en = s.en := rfl
@[simp] theorem addFld_pw (f : Fld) (i n : Nat) (s : State) : (addFld f i n s).pw = s.pw := rfl
@[simp] theorem addFld_cfg (f : Fld) (i n : Nat) (s : State) : (addFld f i n s).cfg = s.cfg := rfl
@[simp] theorem addFld_dram (f : Fld) (i n : Nat) (s : State) : (addFld f i n s).dram = s.dram := rfl
@[simp] theorem addFld_spad (f : Fld) (i n : Nat) (s : State) : (addFld f i n s).spad = s.spad := rfl
@[simp] theorem addFld_poison (f : Fld) (i n : Nat) (s : State) : (addFld f i n s).poison = s.poison := rfl
@[simp] theorem addFld_spadBad (f : Fld) (i n : Nat) (s : State) : (addFld f i n s).spadBad = s.spadBad := rfl
@[simp] theorem addFld_bbr (f : Fld) (i n : Nat) (s : State) : (addFld f i n s).bbr = s.bbr := rfl

/-! `setFab` -/

@[simp] theorem setFab_pending (n : Nat) (f : FabPort) (s : State) : (setFab n f s).pending = s.pending := rfl
@[simp] theorem setFab_part (n : Nat) (f : FabPort) (s : State) : (setFab n f s).part = s.part := rfl
@[simp] theorem setFab_clk (n : Nat) (f : FabPort) (s : State) : (setFab n f s).clk = s.clk := rfl
@[simp] theorem setFab_count (n : Nat) (f : FabPort) (s : State) : (setFab n f s).count = s.count := rfl
@[simp] theorem setFab_free (n : Nat) (f : FabPort) (s : State) : (setFab n f s).free = s.free := rfl
@[simp] theorem setFab_nextId (n : Nat) (f : FabPort) (s : State) : (setFab n f s).nextId = s.nextId := rfl
@[simp] theorem setFab_regs (n : Nat) (f : FabPort) (s : State) : (setFab n f s).regs = s.regs := rfl
@[simp] theorem setFab_shadow (n : Nat) (f : FabPort) (s : State) : (setFab n f s).shadow = s.shadow := rfl
@[simp] theorem setFab_floors (n : Nat) (f : FabPort) (s : State) : (setFab n f s).floors = s.floors := rfl
@[simp] theorem setFab_ports (n : Nat) (f : FabPort) (s : State) : (setFab n f s).ports = s.ports := rfl
@[simp] theorem setFab_tb (n : Nat) (f : FabPort) (s : State) : (setFab n f s).tb = s.tb := rfl
@[simp] theorem setFab_logs (n : Nat) (f : FabPort) (s : State) : (setFab n f s).logs = s.logs := rfl
@[simp] theorem setFab_sram (n : Nat) (f : FabPort) (s : State) : (setFab n f s).sram = s.sram := rfl
@[simp] theorem setFab_march (n : Nat) (f : FabPort) (s : State) : (setFab n f s).march = s.march := rfl
@[simp] theorem setFab_stalls (n : Nat) (f : FabPort) (s : State) : (setFab n f s).stalls = s.stalls := rfl
@[simp] theorem setFab_home (n : Nat) (f : FabPort) (s : State) : (setFab n f s).home = s.home := rfl
@[simp] theorem setFab_lant (n : Nat) (f : FabPort) (s : State) : (setFab n f s).lant = s.lant := rfl
@[simp] theorem setFab_host (n : Nat) (f : FabPort) (s : State) : (setFab n f s).host = s.host := rfl
@[simp] theorem setFab_en (n : Nat) (f : FabPort) (s : State) : (setFab n f s).en = s.en := rfl
@[simp] theorem setFab_pw (n : Nat) (f : FabPort) (s : State) : (setFab n f s).pw = s.pw := rfl
@[simp] theorem setFab_cfg (n : Nat) (f : FabPort) (s : State) : (setFab n f s).cfg = s.cfg := rfl
@[simp] theorem setFab_dram (n : Nat) (f : FabPort) (s : State) : (setFab n f s).dram = s.dram := rfl
@[simp] theorem setFab_spad (n : Nat) (f : FabPort) (s : State) : (setFab n f s).spad = s.spad := rfl
@[simp] theorem setFab_poison (n : Nat) (f : FabPort) (s : State) : (setFab n f s).poison = s.poison := rfl
@[simp] theorem setFab_spadBad (n : Nat) (f : FabPort) (s : State) : (setFab n f s).spadBad = s.spadBad := rfl
@[simp] theorem setFab_bbr (n : Nat) (f : FabPort) (s : State) : (setFab n f s).bbr = s.bbr := rfl

/-! `modFab` -/

@[simp] theorem modFab_pending (n : Nat) (g : FabPort → FabPort) (s : State) : (modFab n g s).pending = s.pending := rfl
@[simp] theorem modFab_part (n : Nat) (g : FabPort → FabPort) (s : State) : (modFab n g s).part = s.part := rfl
@[simp] theorem modFab_clk (n : Nat) (g : FabPort → FabPort) (s : State) : (modFab n g s).clk = s.clk := rfl
@[simp] theorem modFab_count (n : Nat) (g : FabPort → FabPort) (s : State) : (modFab n g s).count = s.count := rfl
@[simp] theorem modFab_free (n : Nat) (g : FabPort → FabPort) (s : State) : (modFab n g s).free = s.free := rfl
@[simp] theorem modFab_nextId (n : Nat) (g : FabPort → FabPort) (s : State) : (modFab n g s).nextId = s.nextId := rfl
@[simp] theorem modFab_regs (n : Nat) (g : FabPort → FabPort) (s : State) : (modFab n g s).regs = s.regs := rfl
@[simp] theorem modFab_shadow (n : Nat) (g : FabPort → FabPort) (s : State) : (modFab n g s).shadow = s.shadow := rfl
@[simp] theorem modFab_floors (n : Nat) (g : FabPort → FabPort) (s : State) : (modFab n g s).floors = s.floors := rfl
@[simp] theorem modFab_ports (n : Nat) (g : FabPort → FabPort) (s : State) : (modFab n g s).ports = s.ports := rfl
@[simp] theorem modFab_tb (n : Nat) (g : FabPort → FabPort) (s : State) : (modFab n g s).tb = s.tb := rfl
@[simp] theorem modFab_logs (n : Nat) (g : FabPort → FabPort) (s : State) : (modFab n g s).logs = s.logs := rfl
@[simp] theorem modFab_sram (n : Nat) (g : FabPort → FabPort) (s : State) : (modFab n g s).sram = s.sram := rfl
@[simp] theorem modFab_march (n : Nat) (g : FabPort → FabPort) (s : State) : (modFab n g s).march = s.march := rfl
@[simp] theorem modFab_stalls (n : Nat) (g : FabPort → FabPort) (s : State) : (modFab n g s).stalls = s.stalls := rfl
@[simp] theorem modFab_home (n : Nat) (g : FabPort → FabPort) (s : State) : (modFab n g s).home = s.home := rfl
@[simp] theorem modFab_lant (n : Nat) (g : FabPort → FabPort) (s : State) : (modFab n g s).lant = s.lant := rfl
@[simp] theorem modFab_host (n : Nat) (g : FabPort → FabPort) (s : State) : (modFab n g s).host = s.host := rfl
@[simp] theorem modFab_en (n : Nat) (g : FabPort → FabPort) (s : State) : (modFab n g s).en = s.en := rfl
@[simp] theorem modFab_pw (n : Nat) (g : FabPort → FabPort) (s : State) : (modFab n g s).pw = s.pw := rfl
@[simp] theorem modFab_cfg (n : Nat) (g : FabPort → FabPort) (s : State) : (modFab n g s).cfg = s.cfg := rfl
@[simp] theorem modFab_dram (n : Nat) (g : FabPort → FabPort) (s : State) : (modFab n g s).dram = s.dram := rfl
@[simp] theorem modFab_spad (n : Nat) (g : FabPort → FabPort) (s : State) : (modFab n g s).spad = s.spad := rfl
@[simp] theorem modFab_poison (n : Nat) (g : FabPort → FabPort) (s : State) : (modFab n g s).poison = s.poison := rfl
@[simp] theorem modFab_spadBad (n : Nat) (g : FabPort → FabPort) (s : State) : (modFab n g s).spadBad = s.spadBad := rfl
@[simp] theorem modFab_bbr (n : Nat) (g : FabPort → FabPort) (s : State) : (modFab n g s).bbr = s.bbr := rfl

/-! `setPort` -/

@[simp] theorem setPort_pending (p : Nat) (q : Port) (s : State) : (setPort p q s).pending = s.pending := rfl
@[simp] theorem setPort_part (p : Nat) (q : Port) (s : State) : (setPort p q s).part = s.part := rfl
@[simp] theorem setPort_clk (p : Nat) (q : Port) (s : State) : (setPort p q s).clk = s.clk := rfl
@[simp] theorem setPort_count (p : Nat) (q : Port) (s : State) : (setPort p q s).count = s.count := rfl
@[simp] theorem setPort_free (p : Nat) (q : Port) (s : State) : (setPort p q s).free = s.free := rfl
@[simp] theorem setPort_nextId (p : Nat) (q : Port) (s : State) : (setPort p q s).nextId = s.nextId := rfl
@[simp] theorem setPort_regs (p : Nat) (q : Port) (s : State) : (setPort p q s).regs = s.regs := rfl
@[simp] theorem setPort_shadow (p : Nat) (q : Port) (s : State) : (setPort p q s).shadow = s.shadow := rfl
@[simp] theorem setPort_floors (p : Nat) (q : Port) (s : State) : (setPort p q s).floors = s.floors := rfl
@[simp] theorem setPort_fab (p : Nat) (q : Port) (s : State) : (setPort p q s).fab = s.fab := rfl
@[simp] theorem setPort_tb (p : Nat) (q : Port) (s : State) : (setPort p q s).tb = s.tb := rfl
@[simp] theorem setPort_logs (p : Nat) (q : Port) (s : State) : (setPort p q s).logs = s.logs := rfl
@[simp] theorem setPort_sram (p : Nat) (q : Port) (s : State) : (setPort p q s).sram = s.sram := rfl
@[simp] theorem setPort_march (p : Nat) (q : Port) (s : State) : (setPort p q s).march = s.march := rfl
@[simp] theorem setPort_stalls (p : Nat) (q : Port) (s : State) : (setPort p q s).stalls = s.stalls := rfl
@[simp] theorem setPort_home (p : Nat) (q : Port) (s : State) : (setPort p q s).home = s.home := rfl
@[simp] theorem setPort_lant (p : Nat) (q : Port) (s : State) : (setPort p q s).lant = s.lant := rfl
@[simp] theorem setPort_host (p : Nat) (q : Port) (s : State) : (setPort p q s).host = s.host := rfl
@[simp] theorem setPort_en (p : Nat) (q : Port) (s : State) : (setPort p q s).en = s.en := rfl
@[simp] theorem setPort_pw (p : Nat) (q : Port) (s : State) : (setPort p q s).pw = s.pw := rfl
@[simp] theorem setPort_cfg (p : Nat) (q : Port) (s : State) : (setPort p q s).cfg = s.cfg := rfl
@[simp] theorem setPort_dram (p : Nat) (q : Port) (s : State) : (setPort p q s).dram = s.dram := rfl
@[simp] theorem setPort_spad (p : Nat) (q : Port) (s : State) : (setPort p q s).spad = s.spad := rfl
@[simp] theorem setPort_poison (p : Nat) (q : Port) (s : State) : (setPort p q s).poison = s.poison := rfl
@[simp] theorem setPort_spadBad (p : Nat) (q : Port) (s : State) : (setPort p q s).spadBad = s.spadBad := rfl
@[simp] theorem setPort_bbr (p : Nat) (q : Port) (s : State) : (setPort p q s).bbr = s.bbr := rfl

/-! `modPort` -/

@[simp] theorem modPort_pending (p : Nat) (g : Port → Port) (s : State) : (modPort p g s).pending = s.pending := rfl
@[simp] theorem modPort_part (p : Nat) (g : Port → Port) (s : State) : (modPort p g s).part = s.part := rfl
@[simp] theorem modPort_clk (p : Nat) (g : Port → Port) (s : State) : (modPort p g s).clk = s.clk := rfl
@[simp] theorem modPort_count (p : Nat) (g : Port → Port) (s : State) : (modPort p g s).count = s.count := rfl
@[simp] theorem modPort_free (p : Nat) (g : Port → Port) (s : State) : (modPort p g s).free = s.free := rfl
@[simp] theorem modPort_nextId (p : Nat) (g : Port → Port) (s : State) : (modPort p g s).nextId = s.nextId := rfl
@[simp] theorem modPort_regs (p : Nat) (g : Port → Port) (s : State) : (modPort p g s).regs = s.regs := rfl
@[simp] theorem modPort_shadow (p : Nat) (g : Port → Port) (s : State) : (modPort p g s).shadow = s.shadow := rfl
@[simp] theorem modPort_floors (p : Nat) (g : Port → Port) (s : State) : (modPort p g s).floors = s.floors := rfl
@[simp] theorem modPort_fab (p : Nat) (g : Port → Port) (s : State) : (modPort p g s).fab = s.fab := rfl
@[simp] theorem modPort_tb (p : Nat) (g : Port → Port) (s : State) : (modPort p g s).tb = s.tb := rfl
@[simp] theorem modPort_logs (p : Nat) (g : Port → Port) (s : State) : (modPort p g s).logs = s.logs := rfl
@[simp] theorem modPort_sram (p : Nat) (g : Port → Port) (s : State) : (modPort p g s).sram = s.sram := rfl
@[simp] theorem modPort_march (p : Nat) (g : Port → Port) (s : State) : (modPort p g s).march = s.march := rfl
@[simp] theorem modPort_stalls (p : Nat) (g : Port → Port) (s : State) : (modPort p g s).stalls = s.stalls := rfl
@[simp] theorem modPort_home (p : Nat) (g : Port → Port) (s : State) : (modPort p g s).home = s.home := rfl
@[simp] theorem modPort_lant (p : Nat) (g : Port → Port) (s : State) : (modPort p g s).lant = s.lant := rfl
@[simp] theorem modPort_host (p : Nat) (g : Port → Port) (s : State) : (modPort p g s).host = s.host := rfl
@[simp] theorem modPort_en (p : Nat) (g : Port → Port) (s : State) : (modPort p g s).en = s.en := rfl
@[simp] theorem modPort_pw (p : Nat) (g : Port → Port) (s : State) : (modPort p g s).pw = s.pw := rfl
@[simp] theorem modPort_cfg (p : Nat) (g : Port → Port) (s : State) : (modPort p g s).cfg = s.cfg := rfl
@[simp] theorem modPort_dram (p : Nat) (g : Port → Port) (s : State) : (modPort p g s).dram = s.dram := rfl
@[simp] theorem modPort_spad (p : Nat) (g : Port → Port) (s : State) : (modPort p g s).spad = s.spad := rfl
@[simp] theorem modPort_poison (p : Nat) (g : Port → Port) (s : State) : (modPort p g s).poison = s.poison := rfl
@[simp] theorem modPort_spadBad (p : Nat) (g : Port → Port) (s : State) : (modPort p g s).spadBad = s.spadBad := rfl
@[simp] theorem modPort_bbr (p : Nat) (g : Port → Port) (s : State) : (modPort p g s).bbr = s.bbr := rfl

/-! `modSched` -/

@[simp] theorem modSched_pending (p : Nat) (g : Sched → Sched) (s : State) : (modSched p g s).pending = s.pending := rfl
@[simp] theorem modSched_part (p : Nat) (g : Sched → Sched) (s : State) : (modSched p g s).part = s.part := rfl
@[simp] theorem modSched_clk (p : Nat) (g : Sched → Sched) (s : State) : (modSched p g s).clk = s.clk := rfl
@[simp] theorem modSched_count (p : Nat) (g : Sched → Sched) (s : State) : (modSched p g s).count = s.count := rfl
@[simp] theorem modSched_free (p : Nat) (g : Sched → Sched) (s : State) : (modSched p g s).free = s.free := rfl
@[simp] theorem modSched_nextId (p : Nat) (g : Sched → Sched) (s : State) : (modSched p g s).nextId = s.nextId := rfl
@[simp] theorem modSched_regs (p : Nat) (g : Sched → Sched) (s : State) : (modSched p g s).regs = s.regs := rfl
@[simp] theorem modSched_shadow (p : Nat) (g : Sched → Sched) (s : State) : (modSched p g s).shadow = s.shadow := rfl
@[simp] theorem modSched_floors (p : Nat) (g : Sched → Sched) (s : State) : (modSched p g s).floors = s.floors := rfl
@[simp] theorem modSched_fab (p : Nat) (g : Sched → Sched) (s : State) : (modSched p g s).fab = s.fab := rfl
@[simp] theorem modSched_tb (p : Nat) (g : Sched → Sched) (s : State) : (modSched p g s).tb = s.tb := rfl
@[simp] theorem modSched_logs (p : Nat) (g : Sched → Sched) (s : State) : (modSched p g s).logs = s.logs := rfl
@[simp] theorem modSched_sram (p : Nat) (g : Sched → Sched) (s : State) : (modSched p g s).sram = s.sram := rfl
@[simp] theorem modSched_march (p : Nat) (g : Sched → Sched) (s : State) : (modSched p g s).march = s.march := rfl
@[simp] theorem modSched_stalls (p : Nat) (g : Sched → Sched) (s : State) : (modSched p g s).stalls = s.stalls := rfl
@[simp] theorem modSched_home (p : Nat) (g : Sched → Sched) (s : State) : (modSched p g s).home = s.home := rfl
@[simp] theorem modSched_lant (p : Nat) (g : Sched → Sched) (s : State) : (modSched p g s).lant = s.lant := rfl
@[simp] theorem modSched_host (p : Nat) (g : Sched → Sched) (s : State) : (modSched p g s).host = s.host := rfl
@[simp] theorem modSched_en (p : Nat) (g : Sched → Sched) (s : State) : (modSched p g s).en = s.en := rfl
@[simp] theorem modSched_pw (p : Nat) (g : Sched → Sched) (s : State) : (modSched p g s).pw = s.pw := rfl
@[simp] theorem modSched_cfg (p : Nat) (g : Sched → Sched) (s : State) : (modSched p g s).cfg = s.cfg := rfl
@[simp] theorem modSched_dram (p : Nat) (g : Sched → Sched) (s : State) : (modSched p g s).dram = s.dram := rfl
@[simp] theorem modSched_spad (p : Nat) (g : Sched → Sched) (s : State) : (modSched p g s).spad = s.spad := rfl
@[simp] theorem modSched_poison (p : Nat) (g : Sched → Sched) (s : State) : (modSched p g s).poison = s.poison := rfl
@[simp] theorem modSched_spadBad (p : Nat) (g : Sched → Sched) (s : State) : (modSched p g s).spadBad = s.spadBad := rfl
@[simp] theorem modSched_bbr (p : Nat) (g : Sched → Sched) (s : State) : (modSched p g s).bbr = s.bbr := rfl

/-! `modDram` -/

@[simp] theorem modDram_pending (p : Nat) (g : DramSt → DramSt) (s : State) : (modDram p g s).pending = s.pending := rfl
@[simp] theorem modDram_part (p : Nat) (g : DramSt → DramSt) (s : State) : (modDram p g s).part = s.part := rfl
@[simp] theorem modDram_clk (p : Nat) (g : DramSt → DramSt) (s : State) : (modDram p g s).clk = s.clk := rfl
@[simp] theorem modDram_count (p : Nat) (g : DramSt → DramSt) (s : State) : (modDram p g s).count = s.count := rfl
@[simp] theorem modDram_free (p : Nat) (g : DramSt → DramSt) (s : State) : (modDram p g s).free = s.free := rfl
@[simp] theorem modDram_nextId (p : Nat) (g : DramSt → DramSt) (s : State) : (modDram p g s).nextId = s.nextId := rfl
@[simp] theorem modDram_regs (p : Nat) (g : DramSt → DramSt) (s : State) : (modDram p g s).regs = s.regs := rfl
@[simp] theorem modDram_shadow (p : Nat) (g : DramSt → DramSt) (s : State) : (modDram p g s).shadow = s.shadow := rfl
@[simp] theorem modDram_floors (p : Nat) (g : DramSt → DramSt) (s : State) : (modDram p g s).floors = s.floors := rfl
@[simp] theorem modDram_fab (p : Nat) (g : DramSt → DramSt) (s : State) : (modDram p g s).fab = s.fab := rfl
@[simp] theorem modDram_tb (p : Nat) (g : DramSt → DramSt) (s : State) : (modDram p g s).tb = s.tb := rfl
@[simp] theorem modDram_logs (p : Nat) (g : DramSt → DramSt) (s : State) : (modDram p g s).logs = s.logs := rfl
@[simp] theorem modDram_sram (p : Nat) (g : DramSt → DramSt) (s : State) : (modDram p g s).sram = s.sram := rfl
@[simp] theorem modDram_march (p : Nat) (g : DramSt → DramSt) (s : State) : (modDram p g s).march = s.march := rfl
@[simp] theorem modDram_stalls (p : Nat) (g : DramSt → DramSt) (s : State) : (modDram p g s).stalls = s.stalls := rfl
@[simp] theorem modDram_home (p : Nat) (g : DramSt → DramSt) (s : State) : (modDram p g s).home = s.home := rfl
@[simp] theorem modDram_lant (p : Nat) (g : DramSt → DramSt) (s : State) : (modDram p g s).lant = s.lant := rfl
@[simp] theorem modDram_host (p : Nat) (g : DramSt → DramSt) (s : State) : (modDram p g s).host = s.host := rfl
@[simp] theorem modDram_en (p : Nat) (g : DramSt → DramSt) (s : State) : (modDram p g s).en = s.en := rfl
@[simp] theorem modDram_pw (p : Nat) (g : DramSt → DramSt) (s : State) : (modDram p g s).pw = s.pw := rfl
@[simp] theorem modDram_cfg (p : Nat) (g : DramSt → DramSt) (s : State) : (modDram p g s).cfg = s.cfg := rfl
@[simp] theorem modDram_dram (p : Nat) (g : DramSt → DramSt) (s : State) : (modDram p g s).dram = s.dram := rfl
@[simp] theorem modDram_spad (p : Nat) (g : DramSt → DramSt) (s : State) : (modDram p g s).spad = s.spad := rfl
@[simp] theorem modDram_poison (p : Nat) (g : DramSt → DramSt) (s : State) : (modDram p g s).poison = s.poison := rfl
@[simp] theorem modDram_spadBad (p : Nat) (g : DramSt → DramSt) (s : State) : (modDram p g s).spadBad = s.spadBad := rfl
@[simp] theorem modDram_bbr (p : Nat) (g : DramSt → DramSt) (s : State) : (modDram p g s).bbr = s.bbr := rfl

/-! `modLink` -/

@[simp] theorem modLink_pending (p : Nat) (g : Link → Link) (s : State) : (modLink p g s).pending = s.pending := rfl
@[simp] theorem modLink_part (p : Nat) (g : Link → Link) (s : State) : (modLink p g s).part = s.part := rfl
@[simp] theorem modLink_clk (p : Nat) (g : Link → Link) (s : State) : (modLink p g s).clk = s.clk := rfl
@[simp] theorem modLink_count (p : Nat) (g : Link → Link) (s : State) : (modLink p g s).count = s.count := rfl
@[simp] theorem modLink_free (p : Nat) (g : Link → Link) (s : State) : (modLink p g s).free = s.free := rfl
@[simp] theorem modLink_nextId (p : Nat) (g : Link → Link) (s : State) : (modLink p g s).nextId = s.nextId := rfl
@[simp] theorem modLink_regs (p : Nat) (g : Link → Link) (s : State) : (modLink p g s).regs = s.regs := rfl
@[simp] theorem modLink_shadow (p : Nat) (g : Link → Link) (s : State) : (modLink p g s).shadow = s.shadow := rfl
@[simp] theorem modLink_floors (p : Nat) (g : Link → Link) (s : State) : (modLink p g s).floors = s.floors := rfl
@[simp] theorem modLink_fab (p : Nat) (g : Link → Link) (s : State) : (modLink p g s).fab = s.fab := rfl
@[simp] theorem modLink_tb (p : Nat) (g : Link → Link) (s : State) : (modLink p g s).tb = s.tb := rfl
@[simp] theorem modLink_logs (p : Nat) (g : Link → Link) (s : State) : (modLink p g s).logs = s.logs := rfl
@[simp] theorem modLink_sram (p : Nat) (g : Link → Link) (s : State) : (modLink p g s).sram = s.sram := rfl
@[simp] theorem modLink_march (p : Nat) (g : Link → Link) (s : State) : (modLink p g s).march = s.march := rfl
@[simp] theorem modLink_stalls (p : Nat) (g : Link → Link) (s : State) : (modLink p g s).stalls = s.stalls := rfl
@[simp] theorem modLink_home (p : Nat) (g : Link → Link) (s : State) : (modLink p g s).home = s.home := rfl
@[simp] theorem modLink_lant (p : Nat) (g : Link → Link) (s : State) : (modLink p g s).lant = s.lant := rfl
@[simp] theorem modLink_host (p : Nat) (g : Link → Link) (s : State) : (modLink p g s).host = s.host := rfl
@[simp] theorem modLink_en (p : Nat) (g : Link → Link) (s : State) : (modLink p g s).en = s.en := rfl
@[simp] theorem modLink_pw (p : Nat) (g : Link → Link) (s : State) : (modLink p g s).pw = s.pw := rfl
@[simp] theorem modLink_cfg (p : Nat) (g : Link → Link) (s : State) : (modLink p g s).cfg = s.cfg := rfl
@[simp] theorem modLink_dram (p : Nat) (g : Link → Link) (s : State) : (modLink p g s).dram = s.dram := rfl
@[simp] theorem modLink_spad (p : Nat) (g : Link → Link) (s : State) : (modLink p g s).spad = s.spad := rfl
@[simp] theorem modLink_poison (p : Nat) (g : Link → Link) (s : State) : (modLink p g s).poison = s.poison := rfl
@[simp] theorem modLink_spadBad (p : Nat) (g : Link → Link) (s : State) : (modLink p g s).spadBad = s.spadBad := rfl
@[simp] theorem modLink_bbr (p : Nat) (g : Link → Link) (s : State) : (modLink p g s).bbr = s.bbr := rfl

/-! `modTrain` -/

@[simp] theorem modTrain_pending (p : Nat) (g : Train → Train) (s : State) : (modTrain p g s).pending = s.pending := rfl
@[simp] theorem modTrain_part (p : Nat) (g : Train → Train) (s : State) : (modTrain p g s).part = s.part := rfl
@[simp] theorem modTrain_clk (p : Nat) (g : Train → Train) (s : State) : (modTrain p g s).clk = s.clk := rfl
@[simp] theorem modTrain_count (p : Nat) (g : Train → Train) (s : State) : (modTrain p g s).count = s.count := rfl
@[simp] theorem modTrain_free (p : Nat) (g : Train → Train) (s : State) : (modTrain p g s).free = s.free := rfl
@[simp] theorem modTrain_nextId (p : Nat) (g : Train → Train) (s : State) : (modTrain p g s).nextId = s.nextId := rfl
@[simp] theorem modTrain_regs (p : Nat) (g : Train → Train) (s : State) : (modTrain p g s).regs = s.regs := rfl
@[simp] theorem modTrain_shadow (p : Nat) (g : Train → Train) (s : State) : (modTrain p g s).shadow = s.shadow := rfl
@[simp] theorem modTrain_floors (p : Nat) (g : Train → Train) (s : State) : (modTrain p g s).floors = s.floors := rfl
@[simp] theorem modTrain_fab (p : Nat) (g : Train → Train) (s : State) : (modTrain p g s).fab = s.fab := rfl
@[simp] theorem modTrain_tb (p : Nat) (g : Train → Train) (s : State) : (modTrain p g s).tb = s.tb := rfl
@[simp] theorem modTrain_logs (p : Nat) (g : Train → Train) (s : State) : (modTrain p g s).logs = s.logs := rfl
@[simp] theorem modTrain_sram (p : Nat) (g : Train → Train) (s : State) : (modTrain p g s).sram = s.sram := rfl
@[simp] theorem modTrain_march (p : Nat) (g : Train → Train) (s : State) : (modTrain p g s).march = s.march := rfl
@[simp] theorem modTrain_stalls (p : Nat) (g : Train → Train) (s : State) : (modTrain p g s).stalls = s.stalls := rfl
@[simp] theorem modTrain_home (p : Nat) (g : Train → Train) (s : State) : (modTrain p g s).home = s.home := rfl
@[simp] theorem modTrain_lant (p : Nat) (g : Train → Train) (s : State) : (modTrain p g s).lant = s.lant := rfl
@[simp] theorem modTrain_host (p : Nat) (g : Train → Train) (s : State) : (modTrain p g s).host = s.host := rfl
@[simp] theorem modTrain_en (p : Nat) (g : Train → Train) (s : State) : (modTrain p g s).en = s.en := rfl
@[simp] theorem modTrain_pw (p : Nat) (g : Train → Train) (s : State) : (modTrain p g s).pw = s.pw := rfl
@[simp] theorem modTrain_cfg (p : Nat) (g : Train → Train) (s : State) : (modTrain p g s).cfg = s.cfg := rfl
@[simp] theorem modTrain_dram (p : Nat) (g : Train → Train) (s : State) : (modTrain p g s).dram = s.dram := rfl
@[simp] theorem modTrain_spad (p : Nat) (g : Train → Train) (s : State) : (modTrain p g s).spad = s.spad := rfl
@[simp] theorem modTrain_poison (p : Nat) (g : Train → Train) (s : State) : (modTrain p g s).poison = s.poison := rfl
@[simp] theorem modTrain_spadBad (p : Nat) (g : Train → Train) (s : State) : (modTrain p g s).spadBad = s.spadBad := rfl
@[simp] theorem modTrain_bbr (p : Nat) (g : Train → Train) (s : State) : (modTrain p g s).bbr = s.bbr := rfl

/-! `modProt` -/

@[simp] theorem modProt_pending (p : Nat) (g : Protect → Protect) (s : State) : (modProt p g s).pending = s.pending := rfl
@[simp] theorem modProt_part (p : Nat) (g : Protect → Protect) (s : State) : (modProt p g s).part = s.part := rfl
@[simp] theorem modProt_clk (p : Nat) (g : Protect → Protect) (s : State) : (modProt p g s).clk = s.clk := rfl
@[simp] theorem modProt_count (p : Nat) (g : Protect → Protect) (s : State) : (modProt p g s).count = s.count := rfl
@[simp] theorem modProt_free (p : Nat) (g : Protect → Protect) (s : State) : (modProt p g s).free = s.free := rfl
@[simp] theorem modProt_nextId (p : Nat) (g : Protect → Protect) (s : State) : (modProt p g s).nextId = s.nextId := rfl
@[simp] theorem modProt_regs (p : Nat) (g : Protect → Protect) (s : State) : (modProt p g s).regs = s.regs := rfl
@[simp] theorem modProt_shadow (p : Nat) (g : Protect → Protect) (s : State) : (modProt p g s).shadow = s.shadow := rfl
@[simp] theorem modProt_floors (p : Nat) (g : Protect → Protect) (s : State) : (modProt p g s).floors = s.floors := rfl
@[simp] theorem modProt_fab (p : Nat) (g : Protect → Protect) (s : State) : (modProt p g s).fab = s.fab := rfl
@[simp] theorem modProt_tb (p : Nat) (g : Protect → Protect) (s : State) : (modProt p g s).tb = s.tb := rfl
@[simp] theorem modProt_logs (p : Nat) (g : Protect → Protect) (s : State) : (modProt p g s).logs = s.logs := rfl
@[simp] theorem modProt_sram (p : Nat) (g : Protect → Protect) (s : State) : (modProt p g s).sram = s.sram := rfl
@[simp] theorem modProt_march (p : Nat) (g : Protect → Protect) (s : State) : (modProt p g s).march = s.march := rfl
@[simp] theorem modProt_stalls (p : Nat) (g : Protect → Protect) (s : State) : (modProt p g s).stalls = s.stalls := rfl
@[simp] theorem modProt_home (p : Nat) (g : Protect → Protect) (s : State) : (modProt p g s).home = s.home := rfl
@[simp] theorem modProt_lant (p : Nat) (g : Protect → Protect) (s : State) : (modProt p g s).lant = s.lant := rfl
@[simp] theorem modProt_host (p : Nat) (g : Protect → Protect) (s : State) : (modProt p g s).host = s.host := rfl
@[simp] theorem modProt_en (p : Nat) (g : Protect → Protect) (s : State) : (modProt p g s).en = s.en := rfl
@[simp] theorem modProt_pw (p : Nat) (g : Protect → Protect) (s : State) : (modProt p g s).pw = s.pw := rfl
@[simp] theorem modProt_cfg (p : Nat) (g : Protect → Protect) (s : State) : (modProt p g s).cfg = s.cfg := rfl
@[simp] theorem modProt_dram (p : Nat) (g : Protect → Protect) (s : State) : (modProt p g s).dram = s.dram := rfl
@[simp] theorem modProt_spad (p : Nat) (g : Protect → Protect) (s : State) : (modProt p g s).spad = s.spad := rfl
@[simp] theorem modProt_poison (p : Nat) (g : Protect → Protect) (s : State) : (modProt p g s).poison = s.poison := rfl
@[simp] theorem modProt_spadBad (p : Nat) (g : Protect → Protect) (s : State) : (modProt p g s).spadBad = s.spadBad := rfl
@[simp] theorem modProt_bbr (p : Nat) (g : Protect → Protect) (s : State) : (modProt p g s).bbr = s.bbr := rfl

/-! `modMarks` -/

@[simp] theorem modMarks_pending (p : Nat) (g : Marks → Marks) (s : State) : (modMarks p g s).pending = s.pending := rfl
@[simp] theorem modMarks_part (p : Nat) (g : Marks → Marks) (s : State) : (modMarks p g s).part = s.part := rfl
@[simp] theorem modMarks_clk (p : Nat) (g : Marks → Marks) (s : State) : (modMarks p g s).clk = s.clk := rfl
@[simp] theorem modMarks_count (p : Nat) (g : Marks → Marks) (s : State) : (modMarks p g s).count = s.count := rfl
@[simp] theorem modMarks_free (p : Nat) (g : Marks → Marks) (s : State) : (modMarks p g s).free = s.free := rfl
@[simp] theorem modMarks_nextId (p : Nat) (g : Marks → Marks) (s : State) : (modMarks p g s).nextId = s.nextId := rfl
@[simp] theorem modMarks_regs (p : Nat) (g : Marks → Marks) (s : State) : (modMarks p g s).regs = s.regs := rfl
@[simp] theorem modMarks_shadow (p : Nat) (g : Marks → Marks) (s : State) : (modMarks p g s).shadow = s.shadow := rfl
@[simp] theorem modMarks_floors (p : Nat) (g : Marks → Marks) (s : State) : (modMarks p g s).floors = s.floors := rfl
@[simp] theorem modMarks_fab (p : Nat) (g : Marks → Marks) (s : State) : (modMarks p g s).fab = s.fab := rfl
@[simp] theorem modMarks_tb (p : Nat) (g : Marks → Marks) (s : State) : (modMarks p g s).tb = s.tb := rfl
@[simp] theorem modMarks_logs (p : Nat) (g : Marks → Marks) (s : State) : (modMarks p g s).logs = s.logs := rfl
@[simp] theorem modMarks_sram (p : Nat) (g : Marks → Marks) (s : State) : (modMarks p g s).sram = s.sram := rfl
@[simp] theorem modMarks_march (p : Nat) (g : Marks → Marks) (s : State) : (modMarks p g s).march = s.march := rfl
@[simp] theorem modMarks_stalls (p : Nat) (g : Marks → Marks) (s : State) : (modMarks p g s).stalls = s.stalls := rfl
@[simp] theorem modMarks_home (p : Nat) (g : Marks → Marks) (s : State) : (modMarks p g s).home = s.home := rfl
@[simp] theorem modMarks_lant (p : Nat) (g : Marks → Marks) (s : State) : (modMarks p g s).lant = s.lant := rfl
@[simp] theorem modMarks_host (p : Nat) (g : Marks → Marks) (s : State) : (modMarks p g s).host = s.host := rfl
@[simp] theorem modMarks_en (p : Nat) (g : Marks → Marks) (s : State) : (modMarks p g s).en = s.en := rfl
@[simp] theorem modMarks_pw (p : Nat) (g : Marks → Marks) (s : State) : (modMarks p g s).pw = s.pw := rfl
@[simp] theorem modMarks_cfg (p : Nat) (g : Marks → Marks) (s : State) : (modMarks p g s).cfg = s.cfg := rfl
@[simp] theorem modMarks_dram (p : Nat) (g : Marks → Marks) (s : State) : (modMarks p g s).dram = s.dram := rfl
@[simp] theorem modMarks_spad (p : Nat) (g : Marks → Marks) (s : State) : (modMarks p g s).spad = s.spad := rfl
@[simp] theorem modMarks_poison (p : Nat) (g : Marks → Marks) (s : State) : (modMarks p g s).poison = s.poison := rfl
@[simp] theorem modMarks_spadBad (p : Nat) (g : Marks → Marks) (s : State) : (modMarks p g s).spadBad = s.spadBad := rfl
@[simp] theorem modMarks_bbr (p : Nat) (g : Marks → Marks) (s : State) : (modMarks p g s).bbr = s.bbr := rfl

/-! `setCtx` -/

@[simp] theorem setCtx_pending (c : Nat) (x : Ctx) (s : State) : (setCtx c x s).pending = s.pending := rfl
@[simp] theorem setCtx_part (c : Nat) (x : Ctx) (s : State) : (setCtx c x s).part = s.part := rfl
@[simp] theorem setCtx_clk (c : Nat) (x : Ctx) (s : State) : (setCtx c x s).clk = s.clk := rfl
@[simp] theorem setCtx_count (c : Nat) (x : Ctx) (s : State) : (setCtx c x s).count = s.count := rfl
@[simp] theorem setCtx_free (c : Nat) (x : Ctx) (s : State) : (setCtx c x s).free = s.free := rfl
@[simp] theorem setCtx_nextId (c : Nat) (x : Ctx) (s : State) : (setCtx c x s).nextId = s.nextId := rfl
@[simp] theorem setCtx_regs (c : Nat) (x : Ctx) (s : State) : (setCtx c x s).regs = s.regs := rfl
@[simp] theorem setCtx_shadow (c : Nat) (x : Ctx) (s : State) : (setCtx c x s).shadow = s.shadow := rfl
@[simp] theorem setCtx_floors (c : Nat) (x : Ctx) (s : State) : (setCtx c x s).floors = s.floors := rfl
@[simp] theorem setCtx_fab (c : Nat) (x : Ctx) (s : State) : (setCtx c x s).fab = s.fab := rfl
@[simp] theorem setCtx_ports (c : Nat) (x : Ctx) (s : State) : (setCtx c x s).ports = s.ports := rfl
@[simp] theorem setCtx_tb (c : Nat) (x : Ctx) (s : State) : (setCtx c x s).tb = s.tb := rfl
@[simp] theorem setCtx_logs (c : Nat) (x : Ctx) (s : State) : (setCtx c x s).logs = s.logs := rfl
@[simp] theorem setCtx_sram (c : Nat) (x : Ctx) (s : State) : (setCtx c x s).sram = s.sram := rfl
@[simp] theorem setCtx_march (c : Nat) (x : Ctx) (s : State) : (setCtx c x s).march = s.march := rfl
@[simp] theorem setCtx_stalls (c : Nat) (x : Ctx) (s : State) : (setCtx c x s).stalls = s.stalls := rfl
@[simp] theorem setCtx_home (c : Nat) (x : Ctx) (s : State) : (setCtx c x s).home = s.home := rfl
@[simp] theorem setCtx_host (c : Nat) (x : Ctx) (s : State) : (setCtx c x s).host = s.host := rfl
@[simp] theorem setCtx_en (c : Nat) (x : Ctx) (s : State) : (setCtx c x s).en = s.en := rfl
@[simp] theorem setCtx_pw (c : Nat) (x : Ctx) (s : State) : (setCtx c x s).pw = s.pw := rfl
@[simp] theorem setCtx_cfg (c : Nat) (x : Ctx) (s : State) : (setCtx c x s).cfg = s.cfg := rfl
@[simp] theorem setCtx_dram (c : Nat) (x : Ctx) (s : State) : (setCtx c x s).dram = s.dram := rfl
@[simp] theorem setCtx_spad (c : Nat) (x : Ctx) (s : State) : (setCtx c x s).spad = s.spad := rfl
@[simp] theorem setCtx_poison (c : Nat) (x : Ctx) (s : State) : (setCtx c x s).poison = s.poison := rfl
@[simp] theorem setCtx_spadBad (c : Nat) (x : Ctx) (s : State) : (setCtx c x s).spadBad = s.spadBad := rfl
@[simp] theorem setCtx_bbr (c : Nat) (x : Ctx) (s : State) : (setCtx c x s).bbr = s.bbr := rfl

/-! `modCtx` -/

@[simp] theorem modCtx_pending (c : Nat) (g : Ctx → Ctx) (s : State) : (modCtx c g s).pending = s.pending := rfl
@[simp] theorem modCtx_part (c : Nat) (g : Ctx → Ctx) (s : State) : (modCtx c g s).part = s.part := rfl
@[simp] theorem modCtx_clk (c : Nat) (g : Ctx → Ctx) (s : State) : (modCtx c g s).clk = s.clk := rfl
@[simp] theorem modCtx_count (c : Nat) (g : Ctx → Ctx) (s : State) : (modCtx c g s).count = s.count := rfl
@[simp] theorem modCtx_free (c : Nat) (g : Ctx → Ctx) (s : State) : (modCtx c g s).free = s.free := rfl
@[simp] theorem modCtx_nextId (c : Nat) (g : Ctx → Ctx) (s : State) : (modCtx c g s).nextId = s.nextId := rfl
@[simp] theorem modCtx_regs (c : Nat) (g : Ctx → Ctx) (s : State) : (modCtx c g s).regs = s.regs := rfl
@[simp] theorem modCtx_shadow (c : Nat) (g : Ctx → Ctx) (s : State) : (modCtx c g s).shadow = s.shadow := rfl
@[simp] theorem modCtx_floors (c : Nat) (g : Ctx → Ctx) (s : State) : (modCtx c g s).floors = s.floors := rfl
@[simp] theorem modCtx_fab (c : Nat) (g : Ctx → Ctx) (s : State) : (modCtx c g s).fab = s.fab := rfl
@[simp] theorem modCtx_ports (c : Nat) (g : Ctx → Ctx) (s : State) : (modCtx c g s).ports = s.ports := rfl
@[simp] theorem modCtx_tb (c : Nat) (g : Ctx → Ctx) (s : State) : (modCtx c g s).tb = s.tb := rfl
@[simp] theorem modCtx_logs (c : Nat) (g : Ctx → Ctx) (s : State) : (modCtx c g s).logs = s.logs := rfl
@[simp] theorem modCtx_sram (c : Nat) (g : Ctx → Ctx) (s : State) : (modCtx c g s).sram = s.sram := rfl
@[simp] theorem modCtx_march (c : Nat) (g : Ctx → Ctx) (s : State) : (modCtx c g s).march = s.march := rfl
@[simp] theorem modCtx_stalls (c : Nat) (g : Ctx → Ctx) (s : State) : (modCtx c g s).stalls = s.stalls := rfl
@[simp] theorem modCtx_home (c : Nat) (g : Ctx → Ctx) (s : State) : (modCtx c g s).home = s.home := rfl
@[simp] theorem modCtx_host (c : Nat) (g : Ctx → Ctx) (s : State) : (modCtx c g s).host = s.host := rfl
@[simp] theorem modCtx_en (c : Nat) (g : Ctx → Ctx) (s : State) : (modCtx c g s).en = s.en := rfl
@[simp] theorem modCtx_pw (c : Nat) (g : Ctx → Ctx) (s : State) : (modCtx c g s).pw = s.pw := rfl
@[simp] theorem modCtx_cfg (c : Nat) (g : Ctx → Ctx) (s : State) : (modCtx c g s).cfg = s.cfg := rfl
@[simp] theorem modCtx_dram (c : Nat) (g : Ctx → Ctx) (s : State) : (modCtx c g s).dram = s.dram := rfl
@[simp] theorem modCtx_spad (c : Nat) (g : Ctx → Ctx) (s : State) : (modCtx c g s).spad = s.spad := rfl
@[simp] theorem modCtx_poison (c : Nat) (g : Ctx → Ctx) (s : State) : (modCtx c g s).poison = s.poison := rfl
@[simp] theorem modCtx_spadBad (c : Nat) (g : Ctx → Ctx) (s : State) : (modCtx c g s).spadBad = s.spadBad := rfl
@[simp] theorem modCtx_bbr (c : Nat) (g : Ctx → Ctx) (s : State) : (modCtx c g s).bbr = s.bbr := rfl

/-! `modLant` -/

@[simp] theorem modLant_pending (g : Lantern → Lantern) (s : State) : (modLant g s).pending = s.pending := rfl
@[simp] theorem modLant_part (g : Lantern → Lantern) (s : State) : (modLant g s).part = s.part := rfl
@[simp] theorem modLant_clk (g : Lantern → Lantern) (s : State) : (modLant g s).clk = s.clk := rfl
@[simp] theorem modLant_count (g : Lantern → Lantern) (s : State) : (modLant g s).count = s.count := rfl
@[simp] theorem modLant_free (g : Lantern → Lantern) (s : State) : (modLant g s).free = s.free := rfl
@[simp] theorem modLant_nextId (g : Lantern → Lantern) (s : State) : (modLant g s).nextId = s.nextId := rfl
@[simp] theorem modLant_regs (g : Lantern → Lantern) (s : State) : (modLant g s).regs = s.regs := rfl
@[simp] theorem modLant_shadow (g : Lantern → Lantern) (s : State) : (modLant g s).shadow = s.shadow := rfl
@[simp] theorem modLant_floors (g : Lantern → Lantern) (s : State) : (modLant g s).floors = s.floors := rfl
@[simp] theorem modLant_fab (g : Lantern → Lantern) (s : State) : (modLant g s).fab = s.fab := rfl
@[simp] theorem modLant_ports (g : Lantern → Lantern) (s : State) : (modLant g s).ports = s.ports := rfl
@[simp] theorem modLant_tb (g : Lantern → Lantern) (s : State) : (modLant g s).tb = s.tb := rfl
@[simp] theorem modLant_logs (g : Lantern → Lantern) (s : State) : (modLant g s).logs = s.logs := rfl
@[simp] theorem modLant_sram (g : Lantern → Lantern) (s : State) : (modLant g s).sram = s.sram := rfl
@[simp] theorem modLant_march (g : Lantern → Lantern) (s : State) : (modLant g s).march = s.march := rfl
@[simp] theorem modLant_stalls (g : Lantern → Lantern) (s : State) : (modLant g s).stalls = s.stalls := rfl
@[simp] theorem modLant_home (g : Lantern → Lantern) (s : State) : (modLant g s).home = s.home := rfl
@[simp] theorem modLant_host (g : Lantern → Lantern) (s : State) : (modLant g s).host = s.host := rfl
@[simp] theorem modLant_en (g : Lantern → Lantern) (s : State) : (modLant g s).en = s.en := rfl
@[simp] theorem modLant_pw (g : Lantern → Lantern) (s : State) : (modLant g s).pw = s.pw := rfl
@[simp] theorem modLant_cfg (g : Lantern → Lantern) (s : State) : (modLant g s).cfg = s.cfg := rfl
@[simp] theorem modLant_dram (g : Lantern → Lantern) (s : State) : (modLant g s).dram = s.dram := rfl
@[simp] theorem modLant_spad (g : Lantern → Lantern) (s : State) : (modLant g s).spad = s.spad := rfl
@[simp] theorem modLant_poison (g : Lantern → Lantern) (s : State) : (modLant g s).poison = s.poison := rfl
@[simp] theorem modLant_spadBad (g : Lantern → Lantern) (s : State) : (modLant g s).spadBad = s.spadBad := rfl
@[simp] theorem modLant_bbr (g : Lantern → Lantern) (s : State) : (modLant g s).bbr = s.bbr := rfl

/-! `modHome` -/

@[simp] theorem modHome_pending (g : Home → Home) (s : State) : (modHome g s).pending = s.pending := rfl
@[simp] theorem modHome_part (g : Home → Home) (s : State) : (modHome g s).part = s.part := rfl
@[simp] theorem modHome_clk (g : Home → Home) (s : State) : (modHome g s).clk = s.clk := rfl
@[simp] theorem modHome_count (g : Home → Home) (s : State) : (modHome g s).count = s.count := rfl
@[simp] theorem modHome_free (g : Home → Home) (s : State) : (modHome g s).free = s.free := rfl
@[simp] theorem modHome_nextId (g : Home → Home) (s : State) : (modHome g s).nextId = s.nextId := rfl
@[simp] theorem modHome_regs (g : Home → Home) (s : State) : (modHome g s).regs = s.regs := rfl
@[simp] theorem modHome_shadow (g : Home → Home) (s : State) : (modHome g s).shadow = s.shadow := rfl
@[simp] theorem modHome_floors (g : Home → Home) (s : State) : (modHome g s).floors = s.floors := rfl
@[simp] theorem modHome_fab (g : Home → Home) (s : State) : (modHome g s).fab = s.fab := rfl
@[simp] theorem modHome_ports (g : Home → Home) (s : State) : (modHome g s).ports = s.ports := rfl
@[simp] theorem modHome_tb (g : Home → Home) (s : State) : (modHome g s).tb = s.tb := rfl
@[simp] theorem modHome_logs (g : Home → Home) (s : State) : (modHome g s).logs = s.logs := rfl
@[simp] theorem modHome_sram (g : Home → Home) (s : State) : (modHome g s).sram = s.sram := rfl
@[simp] theorem modHome_march (g : Home → Home) (s : State) : (modHome g s).march = s.march := rfl
@[simp] theorem modHome_stalls (g : Home → Home) (s : State) : (modHome g s).stalls = s.stalls := rfl
@[simp] theorem modHome_lant (g : Home → Home) (s : State) : (modHome g s).lant = s.lant := rfl
@[simp] theorem modHome_host (g : Home → Home) (s : State) : (modHome g s).host = s.host := rfl
@[simp] theorem modHome_en (g : Home → Home) (s : State) : (modHome g s).en = s.en := rfl
@[simp] theorem modHome_pw (g : Home → Home) (s : State) : (modHome g s).pw = s.pw := rfl
@[simp] theorem modHome_cfg (g : Home → Home) (s : State) : (modHome g s).cfg = s.cfg := rfl
@[simp] theorem modHome_dram (g : Home → Home) (s : State) : (modHome g s).dram = s.dram := rfl
@[simp] theorem modHome_spad (g : Home → Home) (s : State) : (modHome g s).spad = s.spad := rfl
@[simp] theorem modHome_poison (g : Home → Home) (s : State) : (modHome g s).poison = s.poison := rfl
@[simp] theorem modHome_spadBad (g : Home → Home) (s : State) : (modHome g s).spadBad = s.spadBad := rfl
@[simp] theorem modHome_bbr (g : Home → Home) (s : State) : (modHome g s).bbr = s.bbr := rfl

/-! `modEn` -/

@[simp] theorem modEn_pending (g : Energy → Energy) (s : State) : (modEn g s).pending = s.pending := rfl
@[simp] theorem modEn_part (g : Energy → Energy) (s : State) : (modEn g s).part = s.part := rfl
@[simp] theorem modEn_clk (g : Energy → Energy) (s : State) : (modEn g s).clk = s.clk := rfl
@[simp] theorem modEn_count (g : Energy → Energy) (s : State) : (modEn g s).count = s.count := rfl
@[simp] theorem modEn_free (g : Energy → Energy) (s : State) : (modEn g s).free = s.free := rfl
@[simp] theorem modEn_nextId (g : Energy → Energy) (s : State) : (modEn g s).nextId = s.nextId := rfl
@[simp] theorem modEn_regs (g : Energy → Energy) (s : State) : (modEn g s).regs = s.regs := rfl
@[simp] theorem modEn_shadow (g : Energy → Energy) (s : State) : (modEn g s).shadow = s.shadow := rfl
@[simp] theorem modEn_floors (g : Energy → Energy) (s : State) : (modEn g s).floors = s.floors := rfl
@[simp] theorem modEn_fab (g : Energy → Energy) (s : State) : (modEn g s).fab = s.fab := rfl
@[simp] theorem modEn_ports (g : Energy → Energy) (s : State) : (modEn g s).ports = s.ports := rfl
@[simp] theorem modEn_tb (g : Energy → Energy) (s : State) : (modEn g s).tb = s.tb := rfl
@[simp] theorem modEn_logs (g : Energy → Energy) (s : State) : (modEn g s).logs = s.logs := rfl
@[simp] theorem modEn_sram (g : Energy → Energy) (s : State) : (modEn g s).sram = s.sram := rfl
@[simp] theorem modEn_march (g : Energy → Energy) (s : State) : (modEn g s).march = s.march := rfl
@[simp] theorem modEn_stalls (g : Energy → Energy) (s : State) : (modEn g s).stalls = s.stalls := rfl
@[simp] theorem modEn_home (g : Energy → Energy) (s : State) : (modEn g s).home = s.home := rfl
@[simp] theorem modEn_lant (g : Energy → Energy) (s : State) : (modEn g s).lant = s.lant := rfl
@[simp] theorem modEn_host (g : Energy → Energy) (s : State) : (modEn g s).host = s.host := rfl
@[simp] theorem modEn_pw (g : Energy → Energy) (s : State) : (modEn g s).pw = s.pw := rfl
@[simp] theorem modEn_cfg (g : Energy → Energy) (s : State) : (modEn g s).cfg = s.cfg := rfl
@[simp] theorem modEn_dram (g : Energy → Energy) (s : State) : (modEn g s).dram = s.dram := rfl
@[simp] theorem modEn_spad (g : Energy → Energy) (s : State) : (modEn g s).spad = s.spad := rfl
@[simp] theorem modEn_poison (g : Energy → Energy) (s : State) : (modEn g s).poison = s.poison := rfl
@[simp] theorem modEn_spadBad (g : Energy → Energy) (s : State) : (modEn g s).spadBad = s.spadBad := rfl
@[simp] theorem modEn_bbr (g : Energy → Energy) (s : State) : (modEn g s).bbr = s.bbr := rfl

/-! `modPw` -/

@[simp] theorem modPw_pending (g : Power → Power) (s : State) : (modPw g s).pending = s.pending := rfl
@[simp] theorem modPw_part (g : Power → Power) (s : State) : (modPw g s).part = s.part := rfl
@[simp] theorem modPw_clk (g : Power → Power) (s : State) : (modPw g s).clk = s.clk := rfl
@[simp] theorem modPw_count (g : Power → Power) (s : State) : (modPw g s).count = s.count := rfl
@[simp] theorem modPw_free (g : Power → Power) (s : State) : (modPw g s).free = s.free := rfl
@[simp] theorem modPw_nextId (g : Power → Power) (s : State) : (modPw g s).nextId = s.nextId := rfl
@[simp] theorem modPw_regs (g : Power → Power) (s : State) : (modPw g s).regs = s.regs := rfl
@[simp] theorem modPw_shadow (g : Power → Power) (s : State) : (modPw g s).shadow = s.shadow := rfl
@[simp] theorem modPw_floors (g : Power → Power) (s : State) : (modPw g s).floors = s.floors := rfl
@[simp] theorem modPw_fab (g : Power → Power) (s : State) : (modPw g s).fab = s.fab := rfl
@[simp] theorem modPw_ports (g : Power → Power) (s : State) : (modPw g s).ports = s.ports := rfl
@[simp] theorem modPw_tb (g : Power → Power) (s : State) : (modPw g s).tb = s.tb := rfl
@[simp] theorem modPw_logs (g : Power → Power) (s : State) : (modPw g s).logs = s.logs := rfl
@[simp] theorem modPw_sram (g : Power → Power) (s : State) : (modPw g s).sram = s.sram := rfl
@[simp] theorem modPw_march (g : Power → Power) (s : State) : (modPw g s).march = s.march := rfl
@[simp] theorem modPw_stalls (g : Power → Power) (s : State) : (modPw g s).stalls = s.stalls := rfl
@[simp] theorem modPw_home (g : Power → Power) (s : State) : (modPw g s).home = s.home := rfl
@[simp] theorem modPw_lant (g : Power → Power) (s : State) : (modPw g s).lant = s.lant := rfl
@[simp] theorem modPw_host (g : Power → Power) (s : State) : (modPw g s).host = s.host := rfl
@[simp] theorem modPw_en (g : Power → Power) (s : State) : (modPw g s).en = s.en := rfl
@[simp] theorem modPw_cfg (g : Power → Power) (s : State) : (modPw g s).cfg = s.cfg := rfl
@[simp] theorem modPw_dram (g : Power → Power) (s : State) : (modPw g s).dram = s.dram := rfl
@[simp] theorem modPw_spad (g : Power → Power) (s : State) : (modPw g s).spad = s.spad := rfl
@[simp] theorem modPw_poison (g : Power → Power) (s : State) : (modPw g s).poison = s.poison := rfl
@[simp] theorem modPw_spadBad (g : Power → Power) (s : State) : (modPw g s).spadBad = s.spadBad := rfl
@[simp] theorem modPw_bbr (g : Power → Power) (s : State) : (modPw g s).bbr = s.bbr := rfl

/-! `modTb` -/

@[simp] theorem modTb_pending (g : Timebase → Timebase) (s : State) : (modTb g s).pending = s.pending := rfl
@[simp] theorem modTb_part (g : Timebase → Timebase) (s : State) : (modTb g s).part = s.part := rfl
@[simp] theorem modTb_clk (g : Timebase → Timebase) (s : State) : (modTb g s).clk = s.clk := rfl
@[simp] theorem modTb_count (g : Timebase → Timebase) (s : State) : (modTb g s).count = s.count := rfl
@[simp] theorem modTb_free (g : Timebase → Timebase) (s : State) : (modTb g s).free = s.free := rfl
@[simp] theorem modTb_nextId (g : Timebase → Timebase) (s : State) : (modTb g s).nextId = s.nextId := rfl
@[simp] theorem modTb_regs (g : Timebase → Timebase) (s : State) : (modTb g s).regs = s.regs := rfl
@[simp] theorem modTb_shadow (g : Timebase → Timebase) (s : State) : (modTb g s).shadow = s.shadow := rfl
@[simp] theorem modTb_floors (g : Timebase → Timebase) (s : State) : (modTb g s).floors = s.floors := rfl
@[simp] theorem modTb_fab (g : Timebase → Timebase) (s : State) : (modTb g s).fab = s.fab := rfl
@[simp] theorem modTb_ports (g : Timebase → Timebase) (s : State) : (modTb g s).ports = s.ports := rfl
@[simp] theorem modTb_logs (g : Timebase → Timebase) (s : State) : (modTb g s).logs = s.logs := rfl
@[simp] theorem modTb_sram (g : Timebase → Timebase) (s : State) : (modTb g s).sram = s.sram := rfl
@[simp] theorem modTb_march (g : Timebase → Timebase) (s : State) : (modTb g s).march = s.march := rfl
@[simp] theorem modTb_stalls (g : Timebase → Timebase) (s : State) : (modTb g s).stalls = s.stalls := rfl
@[simp] theorem modTb_home (g : Timebase → Timebase) (s : State) : (modTb g s).home = s.home := rfl
@[simp] theorem modTb_lant (g : Timebase → Timebase) (s : State) : (modTb g s).lant = s.lant := rfl
@[simp] theorem modTb_host (g : Timebase → Timebase) (s : State) : (modTb g s).host = s.host := rfl
@[simp] theorem modTb_en (g : Timebase → Timebase) (s : State) : (modTb g s).en = s.en := rfl
@[simp] theorem modTb_pw (g : Timebase → Timebase) (s : State) : (modTb g s).pw = s.pw := rfl
@[simp] theorem modTb_cfg (g : Timebase → Timebase) (s : State) : (modTb g s).cfg = s.cfg := rfl
@[simp] theorem modTb_dram (g : Timebase → Timebase) (s : State) : (modTb g s).dram = s.dram := rfl
@[simp] theorem modTb_spad (g : Timebase → Timebase) (s : State) : (modTb g s).spad = s.spad := rfl
@[simp] theorem modTb_poison (g : Timebase → Timebase) (s : State) : (modTb g s).poison = s.poison := rfl
@[simp] theorem modTb_spadBad (g : Timebase → Timebase) (s : State) : (modTb g s).spadBad = s.spadBad := rfl
@[simp] theorem modTb_bbr (g : Timebase → Timebase) (s : State) : (modTb g s).bbr = s.bbr := rfl

/-! `setHandle` -/

@[simp] theorem setHandle_pending (k : Nat) (h : Handle) (s : State) : (setHandle k h s).pending = s.pending := rfl
@[simp] theorem setHandle_part (k : Nat) (h : Handle) (s : State) : (setHandle k h s).part = s.part := rfl
@[simp] theorem setHandle_clk (k : Nat) (h : Handle) (s : State) : (setHandle k h s).clk = s.clk := rfl
@[simp] theorem setHandle_count (k : Nat) (h : Handle) (s : State) : (setHandle k h s).count = s.count := rfl
@[simp] theorem setHandle_free (k : Nat) (h : Handle) (s : State) : (setHandle k h s).free = s.free := rfl
@[simp] theorem setHandle_nextId (k : Nat) (h : Handle) (s : State) : (setHandle k h s).nextId = s.nextId := rfl
@[simp] theorem setHandle_regs (k : Nat) (h : Handle) (s : State) : (setHandle k h s).regs = s.regs := rfl
@[simp] theorem setHandle_shadow (k : Nat) (h : Handle) (s : State) : (setHandle k h s).shadow = s.shadow := rfl
@[simp] theorem setHandle_floors (k : Nat) (h : Handle) (s : State) : (setHandle k h s).floors = s.floors := rfl
@[simp] theorem setHandle_fab (k : Nat) (h : Handle) (s : State) : (setHandle k h s).fab = s.fab := rfl
@[simp] theorem setHandle_ports (k : Nat) (h : Handle) (s : State) : (setHandle k h s).ports = s.ports := rfl
@[simp] theorem setHandle_tb (k : Nat) (h : Handle) (s : State) : (setHandle k h s).tb = s.tb := rfl
@[simp] theorem setHandle_logs (k : Nat) (h : Handle) (s : State) : (setHandle k h s).logs = s.logs := rfl
@[simp] theorem setHandle_sram (k : Nat) (h : Handle) (s : State) : (setHandle k h s).sram = s.sram := rfl
@[simp] theorem setHandle_march (k : Nat) (h : Handle) (s : State) : (setHandle k h s).march = s.march := rfl
@[simp] theorem setHandle_stalls (k : Nat) (h : Handle) (s : State) : (setHandle k h s).stalls = s.stalls := rfl
@[simp] theorem setHandle_home (k : Nat) (h : Handle) (s : State) : (setHandle k h s).home = s.home := rfl
@[simp] theorem setHandle_lant (k : Nat) (h : Handle) (s : State) : (setHandle k h s).lant = s.lant := rfl
@[simp] theorem setHandle_en (k : Nat) (h : Handle) (s : State) : (setHandle k h s).en = s.en := rfl
@[simp] theorem setHandle_pw (k : Nat) (h : Handle) (s : State) : (setHandle k h s).pw = s.pw := rfl
@[simp] theorem setHandle_cfg (k : Nat) (h : Handle) (s : State) : (setHandle k h s).cfg = s.cfg := rfl
@[simp] theorem setHandle_dram (k : Nat) (h : Handle) (s : State) : (setHandle k h s).dram = s.dram := rfl
@[simp] theorem setHandle_spad (k : Nat) (h : Handle) (s : State) : (setHandle k h s).spad = s.spad := rfl
@[simp] theorem setHandle_poison (k : Nat) (h : Handle) (s : State) : (setHandle k h s).poison = s.poison := rfl
@[simp] theorem setHandle_spadBad (k : Nat) (h : Handle) (s : State) : (setHandle k h s).spadBad = s.spadBad := rfl
@[simp] theorem setHandle_bbr (k : Nat) (h : Handle) (s : State) : (setHandle k h s).bbr = s.bbr := rfl

/-! `modHandle` -/

@[simp] theorem modHandle_pending (k : Nat) (g : Handle → Handle) (s : State) : (modHandle k g s).pending = s.pending := rfl
@[simp] theorem modHandle_part (k : Nat) (g : Handle → Handle) (s : State) : (modHandle k g s).part = s.part := rfl
@[simp] theorem modHandle_clk (k : Nat) (g : Handle → Handle) (s : State) : (modHandle k g s).clk = s.clk := rfl
@[simp] theorem modHandle_count (k : Nat) (g : Handle → Handle) (s : State) : (modHandle k g s).count = s.count := rfl
@[simp] theorem modHandle_free (k : Nat) (g : Handle → Handle) (s : State) : (modHandle k g s).free = s.free := rfl
@[simp] theorem modHandle_nextId (k : Nat) (g : Handle → Handle) (s : State) : (modHandle k g s).nextId = s.nextId := rfl
@[simp] theorem modHandle_regs (k : Nat) (g : Handle → Handle) (s : State) : (modHandle k g s).regs = s.regs := rfl
@[simp] theorem modHandle_shadow (k : Nat) (g : Handle → Handle) (s : State) : (modHandle k g s).shadow = s.shadow := rfl
@[simp] theorem modHandle_floors (k : Nat) (g : Handle → Handle) (s : State) : (modHandle k g s).floors = s.floors := rfl
@[simp] theorem modHandle_fab (k : Nat) (g : Handle → Handle) (s : State) : (modHandle k g s).fab = s.fab := rfl
@[simp] theorem modHandle_ports (k : Nat) (g : Handle → Handle) (s : State) : (modHandle k g s).ports = s.ports := rfl
@[simp] theorem modHandle_tb (k : Nat) (g : Handle → Handle) (s : State) : (modHandle k g s).tb = s.tb := rfl
@[simp] theorem modHandle_logs (k : Nat) (g : Handle → Handle) (s : State) : (modHandle k g s).logs = s.logs := rfl
@[simp] theorem modHandle_sram (k : Nat) (g : Handle → Handle) (s : State) : (modHandle k g s).sram = s.sram := rfl
@[simp] theorem modHandle_march (k : Nat) (g : Handle → Handle) (s : State) : (modHandle k g s).march = s.march := rfl
@[simp] theorem modHandle_stalls (k : Nat) (g : Handle → Handle) (s : State) : (modHandle k g s).stalls = s.stalls := rfl
@[simp] theorem modHandle_home (k : Nat) (g : Handle → Handle) (s : State) : (modHandle k g s).home = s.home := rfl
@[simp] theorem modHandle_lant (k : Nat) (g : Handle → Handle) (s : State) : (modHandle k g s).lant = s.lant := rfl
@[simp] theorem modHandle_en (k : Nat) (g : Handle → Handle) (s : State) : (modHandle k g s).en = s.en := rfl
@[simp] theorem modHandle_pw (k : Nat) (g : Handle → Handle) (s : State) : (modHandle k g s).pw = s.pw := rfl
@[simp] theorem modHandle_cfg (k : Nat) (g : Handle → Handle) (s : State) : (modHandle k g s).cfg = s.cfg := rfl
@[simp] theorem modHandle_dram (k : Nat) (g : Handle → Handle) (s : State) : (modHandle k g s).dram = s.dram := rfl
@[simp] theorem modHandle_spad (k : Nat) (g : Handle → Handle) (s : State) : (modHandle k g s).spad = s.spad := rfl
@[simp] theorem modHandle_poison (k : Nat) (g : Handle → Handle) (s : State) : (modHandle k g s).poison = s.poison := rfl
@[simp] theorem modHandle_spadBad (k : Nat) (g : Handle → Handle) (s : State) : (modHandle k g s).spadBad = s.spadBad := rfl
@[simp] theorem modHandle_bbr (k : Nat) (g : Handle → Handle) (s : State) : (modHandle k g s).bbr = s.bbr := rfl

/-! `modQueue` -/

@[simp] theorem modQueue_pending (q : Nat) (g : HQueue → HQueue) (s : State) : (modQueue q g s).pending = s.pending := rfl
@[simp] theorem modQueue_part (q : Nat) (g : HQueue → HQueue) (s : State) : (modQueue q g s).part = s.part := rfl
@[simp] theorem modQueue_clk (q : Nat) (g : HQueue → HQueue) (s : State) : (modQueue q g s).clk = s.clk := rfl
@[simp] theorem modQueue_count (q : Nat) (g : HQueue → HQueue) (s : State) : (modQueue q g s).count = s.count := rfl
@[simp] theorem modQueue_free (q : Nat) (g : HQueue → HQueue) (s : State) : (modQueue q g s).free = s.free := rfl
@[simp] theorem modQueue_nextId (q : Nat) (g : HQueue → HQueue) (s : State) : (modQueue q g s).nextId = s.nextId := rfl
@[simp] theorem modQueue_regs (q : Nat) (g : HQueue → HQueue) (s : State) : (modQueue q g s).regs = s.regs := rfl
@[simp] theorem modQueue_shadow (q : Nat) (g : HQueue → HQueue) (s : State) : (modQueue q g s).shadow = s.shadow := rfl
@[simp] theorem modQueue_floors (q : Nat) (g : HQueue → HQueue) (s : State) : (modQueue q g s).floors = s.floors := rfl
@[simp] theorem modQueue_fab (q : Nat) (g : HQueue → HQueue) (s : State) : (modQueue q g s).fab = s.fab := rfl
@[simp] theorem modQueue_ports (q : Nat) (g : HQueue → HQueue) (s : State) : (modQueue q g s).ports = s.ports := rfl
@[simp] theorem modQueue_tb (q : Nat) (g : HQueue → HQueue) (s : State) : (modQueue q g s).tb = s.tb := rfl
@[simp] theorem modQueue_logs (q : Nat) (g : HQueue → HQueue) (s : State) : (modQueue q g s).logs = s.logs := rfl
@[simp] theorem modQueue_sram (q : Nat) (g : HQueue → HQueue) (s : State) : (modQueue q g s).sram = s.sram := rfl
@[simp] theorem modQueue_march (q : Nat) (g : HQueue → HQueue) (s : State) : (modQueue q g s).march = s.march := rfl
@[simp] theorem modQueue_stalls (q : Nat) (g : HQueue → HQueue) (s : State) : (modQueue q g s).stalls = s.stalls := rfl
@[simp] theorem modQueue_home (q : Nat) (g : HQueue → HQueue) (s : State) : (modQueue q g s).home = s.home := rfl
@[simp] theorem modQueue_lant (q : Nat) (g : HQueue → HQueue) (s : State) : (modQueue q g s).lant = s.lant := rfl
@[simp] theorem modQueue_en (q : Nat) (g : HQueue → HQueue) (s : State) : (modQueue q g s).en = s.en := rfl
@[simp] theorem modQueue_pw (q : Nat) (g : HQueue → HQueue) (s : State) : (modQueue q g s).pw = s.pw := rfl
@[simp] theorem modQueue_cfg (q : Nat) (g : HQueue → HQueue) (s : State) : (modQueue q g s).cfg = s.cfg := rfl
@[simp] theorem modQueue_dram (q : Nat) (g : HQueue → HQueue) (s : State) : (modQueue q g s).dram = s.dram := rfl
@[simp] theorem modQueue_spad (q : Nat) (g : HQueue → HQueue) (s : State) : (modQueue q g s).spad = s.spad := rfl
@[simp] theorem modQueue_poison (q : Nat) (g : HQueue → HQueue) (s : State) : (modQueue q g s).poison = s.poison := rfl
@[simp] theorem modQueue_spadBad (q : Nat) (g : HQueue → HQueue) (s : State) : (modQueue q g s).spadBad = s.spadBad := rfl
@[simp] theorem modQueue_bbr (q : Nat) (g : HQueue → HQueue) (s : State) : (modQueue q g s).bbr = s.bbr := rfl

/-! `logPush` -/

@[simp] theorem logPush_pending (k : Nat) (e : LogEntry) (s : State) : (logPush k e s).pending = s.pending := rfl
@[simp] theorem logPush_part (k : Nat) (e : LogEntry) (s : State) : (logPush k e s).part = s.part := rfl
@[simp] theorem logPush_clk (k : Nat) (e : LogEntry) (s : State) : (logPush k e s).clk = s.clk := rfl
@[simp] theorem logPush_count (k : Nat) (e : LogEntry) (s : State) : (logPush k e s).count = s.count := rfl
@[simp] theorem logPush_free (k : Nat) (e : LogEntry) (s : State) : (logPush k e s).free = s.free := rfl
@[simp] theorem logPush_nextId (k : Nat) (e : LogEntry) (s : State) : (logPush k e s).nextId = s.nextId := rfl
@[simp] theorem logPush_regs (k : Nat) (e : LogEntry) (s : State) : (logPush k e s).regs = s.regs := rfl
@[simp] theorem logPush_shadow (k : Nat) (e : LogEntry) (s : State) : (logPush k e s).shadow = s.shadow := rfl
@[simp] theorem logPush_floors (k : Nat) (e : LogEntry) (s : State) : (logPush k e s).floors = s.floors := rfl
@[simp] theorem logPush_fab (k : Nat) (e : LogEntry) (s : State) : (logPush k e s).fab = s.fab := rfl
@[simp] theorem logPush_ports (k : Nat) (e : LogEntry) (s : State) : (logPush k e s).ports = s.ports := rfl
@[simp] theorem logPush_tb (k : Nat) (e : LogEntry) (s : State) : (logPush k e s).tb = s.tb := rfl
@[simp] theorem logPush_sram (k : Nat) (e : LogEntry) (s : State) : (logPush k e s).sram = s.sram := rfl
@[simp] theorem logPush_march (k : Nat) (e : LogEntry) (s : State) : (logPush k e s).march = s.march := rfl
@[simp] theorem logPush_stalls (k : Nat) (e : LogEntry) (s : State) : (logPush k e s).stalls = s.stalls := rfl
@[simp] theorem logPush_home (k : Nat) (e : LogEntry) (s : State) : (logPush k e s).home = s.home := rfl
@[simp] theorem logPush_lant (k : Nat) (e : LogEntry) (s : State) : (logPush k e s).lant = s.lant := rfl
@[simp] theorem logPush_host (k : Nat) (e : LogEntry) (s : State) : (logPush k e s).host = s.host := rfl
@[simp] theorem logPush_en (k : Nat) (e : LogEntry) (s : State) : (logPush k e s).en = s.en := rfl
@[simp] theorem logPush_pw (k : Nat) (e : LogEntry) (s : State) : (logPush k e s).pw = s.pw := rfl
@[simp] theorem logPush_cfg (k : Nat) (e : LogEntry) (s : State) : (logPush k e s).cfg = s.cfg := rfl
@[simp] theorem logPush_dram (k : Nat) (e : LogEntry) (s : State) : (logPush k e s).dram = s.dram := rfl
@[simp] theorem logPush_spad (k : Nat) (e : LogEntry) (s : State) : (logPush k e s).spad = s.spad := rfl
@[simp] theorem logPush_poison (k : Nat) (e : LogEntry) (s : State) : (logPush k e s).poison = s.poison := rfl
@[simp] theorem logPush_spadBad (k : Nat) (e : LogEntry) (s : State) : (logPush k e s).spadBad = s.spadBad := rfl
@[simp] theorem logPush_bbr (k : Nat) (e : LogEntry) (s : State) : (logPush k e s).bbr = s.bbr := rfl

/-! ### What each update puts in its own field -/

@[simp] theorem fabOf_setFab (n m : Nat) (f : FabPort) (s : State) : fabOf (setFab n f s) m = if m = n then f else fabOf s m := by
  simp only [fabOf, setFab, mgetD, mget_mput]; split <;> rfl
@[simp] theorem fabOf_modFab (n m : Nat) (g : FabPort → FabPort) (s : State) :
    fabOf (modFab n g s) m = if m = n then g (fabOf s n) else fabOf s m := by simp [modFab]
@[simp] theorem portOf_setPort (p r : Nat) (q : Port) (s : State) : portOf (setPort p q s) r = if r = p then q else portOf s r := by
  simp only [portOf, setPort, mgetD, mget_mput]; split <;> rfl
@[simp] theorem portOf_modPort (p r : Nat) (g : Port → Port) (s : State) :
    portOf (modPort p g s) r = if r = p then g (portOf s p) else portOf s r := by simp [modPort]
@[simp] theorem ctxOf_setCtx (c d : Nat) (x : Ctx) (s : State) : ctxOf (setCtx c x s) d = if d = c then x else ctxOf s d := by
  simp only [ctxOf, setCtx, mgetD, mget_mput]; split <;> rfl
@[simp] theorem ctxOf_modCtx (c d : Nat) (g : Ctx → Ctx) (s : State) :
    ctxOf (modCtx c g s) d = if d = c then g (ctxOf s c) else ctxOf s d := by simp [modCtx]
@[simp] theorem modCtx_prog (c : Nat) (g : Ctx → Ctx) (s : State) : (modCtx c g s).lant.prog = s.lant.prog := rfl
@[simp] theorem modCtx_data (c : Nat) (g : Ctx → Ctx) (s : State) : (modCtx c g s).lant.data = s.lant.data := rfl
@[simp] theorem modCtx_progBad (c : Nat) (g : Ctx → Ctx) (s : State) : (modCtx c g s).lant.progBad = s.lant.progBad := rfl
@[simp] theorem modCtx_dataBad (c : Nat) (g : Ctx → Ctx) (s : State) : (modCtx c g s).lant.dataBad = s.lant.dataBad := rfl
@[simp] theorem modLant_lant (g : Lantern → Lantern) (s : State) : (modLant g s).lant = g s.lant := rfl
@[simp] theorem modHome_home (g : Home → Home) (s : State) : (modHome g s).home = g s.home := rfl
@[simp] theorem modEn_en (g : Energy → Energy) (s : State) : (modEn g s).en = g s.en := rfl
@[simp] theorem modPw_pw (g : Power → Power) (s : State) : (modPw g s).pw = g s.pw := rfl
@[simp] theorem modTb_tb (g : Timebase → Timebase) (s : State) : (modTb g s).tb = g s.tb := rfl

/-- Two updates of one context are one. -/
theorem modCtx_modCtx (c : Nat) (g h : Ctx → Ctx) (s : State) : modCtx c g (modCtx c h s) = modCtx c (fun x => g (h x)) s := by
  simp only [modCtx, setCtx, ctxOf, mgetD, mget_mput, if_true, Option.getD, mput_mput]

/-! ### Registers -/

/-- A register word reads as it was last stored, cut to 32 bits; every other register reads as before. -/
theorem regAt_setWord (off v off' rst : Nat) (s : State) :
    regAt (setWord off v s) off' rst = if off' = off then v % 2 ^ 32 else regAt s off' rst := by
  simp only [regAt, setWord, mget_mput]; split <;> simp

/-- A field of another register reads as before. -/
theorem fld_setWord_ne (f : Fld) (i off v : Nat) (s : State) (h : f.off i ≠ off) : fld (setWord off v s) f i = fld s f i := by
  simp only [fld, regAt_setWord, if_neg h]

theorem fld_setFld_ne (f g : Fld) (i j v : Nat) (s : State) (h : f.off i ≠ g.off j) : fld (setFld g j v s) f i = fld s f i :=
  fld_setWord_ne f i _ _ s h

/-- `raise` changes register words alone. -/
theorem raise_regs_only (c : Nat) (s : State) (u : Option Nat) : { raise c s u with regs := s.regs } = s := by
  unfold raise; dsimp only; repeat' (first | rfl | split)

end Sys2Proof.Machine
end

