-- ==== Sys2Proof/Laws/Memory.lean ====
section
/-!
SUPPORT. Addressed memories: every operation on a byte table keeps its canonical form, a stored byte reads back, and every other byte reads
as before.
-/

namespace Sys2Proof.Machine

/-- Storing a byte keeps the canonical form. -/
theorem wf_putByte (m : SMap Byte) (a : Nat) (b : Byte) (h : Memory.wf m) : Memory.wf (putByte m a b) := by
  unfold putByte
  split
  · exact ⟨rising_mdel m a h.1, fun e he => h.2 e (mem_mdel m a e he)⟩
  · rename_i hb
    refine ⟨rising_mput m a b h.1, fun e he => ?_⟩
    rcases mem_mput m a b e he with he | he
    · rw [he]; exact hb
    · exact h.2 e he

/-- A byte reads as it was last stored; every other byte reads as before. -/
theorem byteAt_putByte (m : SMap Byte) (a k : Nat) (b : Byte) (h : Memory.wf m) :
    byteAt (putByte m a b) k = if k = a then b else byteAt m k := by
  unfold putByte byteAt mgetD
  split
  · rename_i hb
    rw [mget_mdel m a k h.1]; split
    · simp [hb]
    · rfl
  · rw [mget_mput]; split <;> rfl

theorem wf_filter (m : SMap Byte) (p : Nat × Byte → Bool) (h : Memory.wf m) : Memory.wf (m.filter p) :=
  ⟨rising_filter m p h.1, fun e he => h.2 e (List.mem_of_mem_filter he)⟩

theorem wf_nil : Memory.wf [] := by decide

theorem wf_putLineFrom (d : Line) (be : BitVec 64) (a n : Nat) (m : SMap Byte) (h : Memory.wf m) :
    Memory.wf (putLineFrom d be a n m) := by
  induction n generalizing m with
  | zero => exact h
  | succ n ih =>
    simp only [putLineFrom]
    split
    · exact ih _ (wf_putByte _ _ _ h)
    · exact ih _ h

/-- Storing a line keeps the canonical form. -/
theorem wf_putLine (m : SMap Byte) (a : Nat) (d : Line) (be : BitVec 64) (h : Memory.wf m) : Memory.wf (putLine m a d be) :=
  wf_putLineFrom d be a 64 m h

theorem byteAt_putLineFrom (d : Line) (be : BitVec 64) (a k n : Nat) (hn : n ≤ 64) (m : SMap Byte) (h : Memory.wf m) :
    byteAt (putLineFrom d be a n m) k =
      if a + (64 - n) ≤ k ∧ k < a + 64 ∧ be.getLsbD (k - a) = true then lineByte d (k - a) else byteAt m k := by
  induction n generalizing m with
  | zero => simp only [putLineFrom]; rw [if_neg (by omega)]
  | succ n ih =>
    simp only [putLineFrom]
    split
    · rename_i hb
      rw [ih (by omega) _ (wf_putByte _ _ _ h), byteAt_putByte m _ _ _ h]
      by_cases hk : k = a + (63 - n)
      · subst hk
        rw [if_neg (by omega), if_pos rfl, if_pos ⟨by omega, by omega, by simpa using hb⟩]
        simp
      · rw [if_neg hk]
        by_cases h1 : a + (64 - n) ≤ k ∧ k < a + 64 ∧ be.getLsbD (k - a) = true
        · rw [if_pos h1, if_pos ⟨by omega, h1.2⟩]
        · rw [if_neg h1, if_neg (fun h2 => h1 ⟨by omega, h2.2⟩)]
    · rename_i hb
      rw [ih (by omega) _ h]
      by_cases hk : k = a + (63 - n)
      · subst hk
        rw [if_neg (by omega), if_neg (fun h2 => hb (by simpa using h2.2.2))]
      · by_cases h1 : a + (64 - n) ≤ k ∧ k < a + 64 ∧ be.getLsbD (k - a) = true
        · rw [if_pos h1, if_pos ⟨by omega, h1.2⟩]
        · rw [if_neg h1, if_neg (fun h2 => h1 ⟨by omega, h2.2⟩)]

/-- After a line store the enabled bytes of the line read as stored, and every other byte as before. -/
theorem byteAt_putLine (m : SMap Byte) (a k : Nat) (d : Line) (be : BitVec 64) (h : Memory.wf m) :
    byteAt (putLine m a d be) k = if a ≤ k ∧ k < a + 64 ∧ be.getLsbD (k - a) = true then lineByte d (k - a) else byteAt m k := by
  have := byteAt_putLineFrom d be a k 64 (Nat.le_refl _) m h
  simpa [putLine] using this

theorem putBytes_succ (m : SMap Byte) (a n v : Nat) :
    putBytes m a (n + 1) v = putByte (putBytes m a n v) (a + n) (BitVec.ofNat 8 (bits v (8 * n) 8)) := by
  simp [putBytes, List.range_succ]

/-- Storing the low n bytes of a number keeps the canonical form. -/
theorem wf_putBytes (m : SMap Byte) (a n v : Nat) (h : Memory.wf m) : Memory.wf (putBytes m a n v) := by
  induction n with
  | zero => exact h
  | succ n ih => rw [putBytes_succ]; exact wf_putByte _ _ _ ih

/-- After it, byte i of the number reads at a + i, and every other byte reads as before. -/
theorem byteAt_putBytes (m : SMap Byte) (a n v k : Nat) (h : Memory.wf m) :
    byteAt (putBytes m a n v) k = if a ≤ k ∧ k < a + n then BitVec.ofNat 8 (bits v (8 * (k - a)) 8) else byteAt m k := by
  induction n with
  | zero => rw [if_neg (by omega)]; rfl
  | succ n ih =>
    rw [putBytes_succ, byteAt_putByte _ _ _ _ (wf_putBytes m a n v h), ih]
    by_cases hk : k = a + n
    · subst hk; rw [if_pos rfl, if_pos ⟨by omega, by omega⟩]; simp
    · rw [if_neg hk]
      by_cases h1 : a ≤ k ∧ k < a + n
      · rw [if_pos h1, if_pos ⟨h1.1, by omega⟩]
      · rw [if_neg h1, if_neg (by omega)]

/-- The memory after reset is in canonical form. -/
theorem reset_memOk : MemOk State.reset := by decide

/-- Storing in data RAM keeps every memory in canonical form. -/
theorem memOk_putData (abs n v : Nat) (s : State) (h : MemOk s) : MemOk (putData abs n v s) :=
  ⟨h.1, h.2.1, h.2.2.1, wf_putBytes _ _ _ _ h.2.2.2⟩

/-- A write to a DRAM line, wherever the line is held, keeps every memory in canonical form. -/
theorem memOk_writeBytes (p la : Nat) (d : Line) (be : BitVec 64) (s : State) (h : MemOk s) : MemOk (writeBytes p la d be s) := by
  unfold writeBytes
  split
  · exact ⟨wf_putLine _ _ _ _ h.1, h.2⟩
  · exact ⟨h.1, wf_putLine _ _ _ _ h.2.1, h.2.2⟩

/-- A write of a scratchpad line keeps every memory in canonical form. -/
theorem memOk_spadWrite (off : Nat) (d : Line) (be : BitVec 64) (poison : Bool) (s : State) (h : MemOk s) :
    MemOk (spadWrite off d be poison s) :=
  ⟨h.1, wf_putLine _ _ _ _ h.2.1, h.2.2⟩

/-- Losing the contents of DIMMs keeps every memory in canonical form. -/
theorem memOk_loseDimms (p : Nat) (gone : Nat → Bool) (s : State) (h : MemOk s) : MemOk (loseDimms p gone s) :=
  ⟨wf_filter _ _ h.1, h.2⟩

end Sys2Proof.Machine
end

