-- ==== Sys2Proof/Laws/Lantern.lean ====
section
/-!
SUPPORT. What issuing, completing and trapping do to a context, once for every Lantern instruction.
-/

namespace Sys2Proof.Machine

/-! ### Registers and flags -/

/-- A register reads as it was last written; g0 reads zero; every other register reads as before (R331). -/
theorem gpr_setGpr (rd r : BitVec 5) (v : W64) (x : Ctx) :
    gpr (setGpr rd v x) r = if r = rd then (if rd = 0 then 0 else v) else gpr x r := by
  have hk : ∀ a b : BitVec 5, a.toNat = b.toNat ↔ a = b := fun a b => ⟨BitVec.eq_of_toNat_eq, fun h => by rw [h]⟩
  by_cases h0 : rd = 0
  · have e : setGpr rd v x = x := by unfold setGpr; rw [if_pos h0]
    rw [e]; subst h0
    by_cases hr : r = 0
    · subst hr; simp [gpr]
    · rw [if_neg hr]
  · have e : setGpr rd v x = { x with g := mput x.g rd.toNat v } := by unfold setGpr; rw [if_neg h0]
    rw [e, if_neg h0]
    unfold gpr
    by_cases hr : r = 0
    · subst hr; rw [if_pos rfl, if_pos rfl, if_neg (fun h => h0 h.symm)]
    · rw [if_neg hr, if_neg hr]
      dsimp only
      by_cases h : r = rd
      · subst h; simp [mgetD, mget_mput]
      · have hn : ¬ r.toNat = rd.toNat := fun e => h ((hk _ _).1 e)
        simp [h, mgetD, mget_mput, hn]

/-- The flags that an ALU operation leaves are those of R335. -/
theorem flags_eq (x : Ctx) (sf : BitVec 1) (a : AluRes) :
    (stickyOv (if sf = 1 then setZnvc x a else x) a.v).flags = flagsAfter x.flags sf a.r a.c a.v := by
  have hn : (decide (a.r.toInt < 0)) = a.r.getLsbD 63 := by
    rw [← BitVec.msb_eq_toInt, BitVec.msb_eq_getLsbD_last]
  simp only [flagsAfter, hn, stickyOv, setZnvc]
  generalize a.r.getLsbD 63 = n
  have key : ∀ (f : BitVec 6) (s : BitVec 1) (z n v c : Bool),
     (if v then (if s = 1 then BitVec.ofNat 6 ((f.toNat / 16) * 16 + b2n z + 2 * b2n n + 4 * b2n v + 8 * b2n c) else f) ||| 32 else
        (if s = 1 then BitVec.ofNat 6 ((f.toNat / 16) * 16 + b2n z + 2 * b2n n + 4 * b2n v + 8 * b2n c) else f)) =
     (BitVec.ofBool (f.getLsbD 5 || v) ++ BitVec.ofBool (f.getLsbD 4) ++ BitVec.ofBool (if s = 1 then c else f.getLsbD 3) ++
       BitVec.ofBool (if s = 1 then v else f.getLsbD 2) ++ BitVec.ofBool (if s = 1 then n else f.getLsbD 1) ++ BitVec.ofBool (if s = 1 then z else f.getLsbD 0) : BitVec 6) := by
    decide
  have := key x.flags sf (decide (a.r = 0)) n a.v a.c
  clear key
  rw [← this]
  split <;> split <;> simp_all

theorem fval (c : Fin 4) (d : Fin 4) : (d.val = c.val) = (d = c) := by simp [Fin.ext_iff]

theorem ofNat4 (c : Fin 4) : Fin.ofNat 4 c.val = c := by ext; simp [Fin.ofNat, Nat.mod_eq_of_lt c.isLt]

/-! ### Issue -/

@[simp] theorem modCtx_rest (c : Nat) (g : Ctx → Ctx) (s : State) (l : Lantern) : { modCtx c g s with lant := l } = { s with lant := l } := rfl

theorem modLant_rest (g : Lantern → Lantern) (u : State) (l : Lantern) : { modLant g u with lant := l } = { u with lant := l } := rfl

theorem cachePut_rest (a b) (u : State) (l : Lantern) : { cachePut a b u with lant := l } = { u with lant := l } := rfl

theorem ctxOf_cachePut (s : State) (l d) (n : Nat) : ctxOf (cachePut l d s) n = ctxOf s n := rfl

/-- Issue changes of its context the word in progress and the code ports alone, and no other context. -/
theorem issued_ctx (s : State) (c : Fin 4) (w : Word) (d : Nat) :
    ∃ k, ctxOf (issued c.val w s) d = if d = c.val then { ctxOf s c.val with cur := w, codep := k } else ctxOf s d := by
  unfold issued
  dsimp only
  have base : ∀ e, ctxOf (modLant (fun l => { l with lastIssue := Fin.ofNat 4 c.val }) (modCtx c.val (fun x => { x with cur := w }) s)) e = ctxOf (modCtx c.val (fun x => { x with cur := w }) s) e := fun _ => rfl
  split
  · refine ⟨0, ?_⟩
    simp only [ctxOf_modCtx, base]; split <;> simp [*]
  · split <;> split
    all_goals
      simp only [ctxOf_modCtx, ctxOf_cachePut, base]
      by_cases h : d = c.val <;> simp [h]

theorem issued_rest (s : State) (c : Nat) (w : Word) (l : Lantern) : { issued c w s with lant := l } = { s with lant := l } := by
  unfold issued; dsimp only
  repeat' split
  all_goals simp only [modCtx_rest, modLant_rest, cachePut_rest]

@[simp] theorem issued_prog (s : State) (c : Nat) (w : Word) : (issued c w s).lant.prog = s.lant.prog := by
  unfold issued; dsimp only; repeat' (first | rfl | split)

@[simp] theorem issued_data (s : State) (c : Nat) (w : Word) : (issued c w s).lant.data = s.lant.data := by
  unfold issued; dsimp only; repeat' (first | rfl | split)

@[simp] theorem issued_progBad (s : State) (c : Nat) (w : Word) : (issued c w s).lant.progBad = s.lant.progBad := by
  unfold issued; dsimp only; repeat' (first | rfl | split)

@[simp] theorem issued_dataBad (s : State) (c : Nat) (w : Word) : (issued c w s).lant.dataBad = s.lant.dataBad := by
  unfold issued; dsimp only; repeat' (first | rfl | split)

theorem issued_fields (s : State) (c : Nat) (w : Word) : (issued c w s).dram = s.dram ∧ (issued c w s).spad = s.spad ∧ (issued c w s).ports = s.ports ∧
    (issued c w s).stalls = s.stalls ∧ (issued c w s).fab = s.fab ∧ (issued c w s).host = s.host := by
  have h := issued_rest s c w {}
  refine ⟨?_, ?_, ?_, ?_, ?_, ?_⟩
  · have := congrArg (fun t : State => t.dram) h; exact this
  · have := congrArg (fun t : State => t.spad) h; exact this
  · have := congrArg (fun t : State => t.ports) h; exact this
  · have := congrArg (fun t : State => t.stalls) h; exact this
  · have := congrArg (fun t : State => t.fab) h; exact this
  · have := congrArg (fun t : State => t.host) h; exact this

theorem issued_ctx_all (s : State) (c : Fin 4) (w : Word) : ∃ k, ∀ d : Fin 4, ctxOf (issued c.val w s) d.val = if d = c then { ctxOf s c.val with cur := w, codep := k } else ctxOf s d.val := by
  obtain ⟨k, hk⟩ := issued_ctx s c w c.val
  refine ⟨k, fun d => ?_⟩
  by_cases h : d = c
  · subst h; simpa using hk
  · obtain ⟨k', hk'⟩ := issued_ctx s c w d.val
    simpa [fval, h] using hk'

theorem begun_issued (s : State) (c : Fin 4) (w : Word) : Begun c w s (issued c.val w s) := by
  obtain ⟨k, hk⟩ := issued_ctx_all s c w
  have h1 := hk c; rw [if_pos rfl] at h1
  refine ⟨⟨by rw [issued_rest], issued_prog _ _ _, issued_data _ _ _, issued_progBad _ _ _, issued_dataBad _ _ _, ?_⟩, ?_⟩
  · intro d hd; rw [hk d, if_neg hd]
  · rw [h1]

/-- An issued instruction with no trap has the effect of its body. -/
theorem issue_some {s : State} {c : Fin 4} {w : Word} {body : State → Option State} {t : State} (h : Issues s c w)
    (hb : body (issued c.val w s) = some t) : lantIssue c.val w false false false body s = t := by
  obtain ⟨h1, h2, h3, h4⟩ := h
  simp [lantIssue, h1, h2, h3, h4, hb]

/-- A claim about an instruction follows from its body, run in the state that issue leaves. -/
theorem takes {s : State} {c : Fin 4} {i : Instr} {w : Word} {P} {body : State → Option State} (he : ∀ u, exec i u = .next (settle (lantIssue c.val w false false false body u)))
   (hb : Issues s c w → ∃ t, body (issued c.val w s) = some t ∧ P (issued c.val w s) t) : Takes s c i w P := by
  intro h
  obtain ⟨t, h1, h2⟩ := hb h
  exact ⟨_, t, begun_issued s c w, by rw [he, issue_some h h1], h2⟩

theorem runs {s : State} {c : Fin 4} {i : Instr} {w : Word} {P} {body : State → Option State} (he : ∀ u, exec i u = .next (settle (lantIssue c.val w false false false body u)))
   (hb : Issues s c w → ∃ t, body (issued c.val w s) = some t ∧ P t) : Runs s c i w P := by
  intro h
  obtain ⟨t, h1, h2⟩ := hb h
  exact ⟨t, by rw [he, issue_some h h1], h2⟩

/-! ### Completion -/

/-- A context update that touches only registers, flags, the issue's own fields and the end of the instruction. -/
theorem effect_of (s t : State) (c : Fin 4) (x : Ctx) (k) (w : Word) (pc rd v fl) (g)
    (ht : ∀ d, ctxOf t d = if d = c.val then x else ctxOf s d)
    (hx : x = { ctxOf s c.val with cur := w, codep := k, g := g, flags := fl, pc := pc, wait := .none, stopReq := false,
                                    st := if (ctxOf s c.val).stopReq then .stopped else .running })
    (hg : gpr { ctxOf s c.val with g := g } rd = (if rd = 0 then 0 else v) ∧ ∀ r, r ≠ rd → gpr { ctxOf s c.val with g := g } r = gpr (ctxOf s c.val) r)
    (hr : { t with lant := s.lant } = s) (hp : t.lant.prog = s.lant.prog) (hd : t.lant.data = s.lant.data)
    (hpb : t.lant.progBad = s.lant.progBad) (hdb : t.lant.dataBad = s.lant.dataBad) :
    RegEffect c s t pc rd v fl := by
  have hc : ctxOf t c.val = x := by simp [ht]
  refine ⟨⟨hr, hp, hd, hpb, hdb, ?_⟩, ?_, ?_, ?_, ?_⟩
  · intro d hd; rw [ht]; simp [fval, hd]
  · simp only [Completed, hc, hx, and_self]
  · simp only [Writes, hc, hx]; exact hg
  · simp only [SpecialsKept, hc, hx, and_self]
  · rw [hc, hx]

/-- Writing rd and completing is a register effect. -/
theorem retire_effect (s : State) (c : Fin 4) (w : Word) (pc rd v) :
    RegEffect c s (retire c.val pc (modCtx c.val (setGpr rd v) (issued c.val w s))) pc rd v (ctxOf s c.val).flags := by
  obtain ⟨k, hk⟩ := issued_ctx_all s c w
  refine effect_of s _ c _ k w pc rd v _ (setGpr rd v (ctxOf s c.val)).g ?_ rfl ?_ ?_ ?_ ?_ ?_ ?_
  · intro d
    obtain ⟨k', hk'⟩ := issued_ctx s c w d
    have h1 := hk c; rw [if_pos rfl] at h1
    by_cases hd : d = c.val
    · subst hd
      simp only [retire, ctxOf_modCtx, if_true, h1]
      unfold setGpr; split <;> rfl
    · simp [retire, ctxOf_modCtx, hd, hk']
  · exact ⟨by have h1 := gpr_setGpr rd rd v (ctxOf s c.val); simp only [if_true] at h1; exact h1, fun r hr => by
      have h1 := gpr_setGpr rd r v (ctxOf s c.val); simp only [hr, if_false] at h1; exact h1⟩
  · simp only [retire, modCtx_rest, issued_rest]
  · simp [retire]
  · simp [retire]
  · simp [retire]
  · simp [retire]

theorem retire_effect0 (s : State) (c : Fin 4) (w : Word) (pc) :
    RegEffect c s (retire c.val pc (issued c.val w s)) pc 0 0 (ctxOf s c.val).flags := by
  obtain ⟨k, hk⟩ := issued_ctx_all s c w
  refine effect_of s _ c _ k w pc 0 0 _ (ctxOf s c.val).g ?_ rfl ?_ ?_ ?_ ?_ ?_ ?_
  · intro d
    obtain ⟨k', hk'⟩ := issued_ctx s c w d
    have h1 := hk c; rw [if_pos rfl] at h1
    by_cases hd : d = c.val
    · subst hd
      simp only [retire, ctxOf_modCtx, if_true, h1]
    · simp [retire, ctxOf_modCtx, hd, hk']
  · exact ⟨by simp [gpr], fun r hr => rfl⟩
  · simp only [retire, modCtx_rest, issued_rest]
  · simp [retire]
  · simp [retire]
  · simp [retire]
  · simp [retire]

theorem nextPc_issued (s : State) (c : Fin 4) (w : Word) : nextPc (issued c.val w s) c.val = (ctxOf s c.val).pc + 4 := by
  obtain ⟨k, hk⟩ := issued_ctx s c w c.val
  simp [nextPc, hk]

theorem gpr_issued (s : State) (c : Fin 4) (w : Word) (r) : gpr (ctxOf (issued c.val w s) c.val) r = gpr (ctxOf s c.val) r := by
  obtain ⟨k, hk⟩ := issued_ctx s c w c.val
  simp [hk, gpr]

theorem flags_issued (s : State) (c : Fin 4) (w : Word) : (ctxOf (issued c.val w s) c.val).flags = (ctxOf s c.val).flags := by
  obtain ⟨k, hk⟩ := issued_ctx s c w c.val
  simp [hk]

theorem trapen_issued (s : State) (c : Fin 4) (w : Word) : (ctxOf (issued c.val w s) c.val).trapen = (ctxOf s c.val).trapen := by
  obtain ⟨k, hk⟩ := issued_ctx s c w c.val
  simp [hk]

theorem pc_issued (s : State) (c : Fin 4) (w : Word) : (ctxOf (issued c.val w s) c.val).pc = (ctxOf s c.val).pc := by
  obtain ⟨k, hk⟩ := issued_ctx s c w c.val
  simp [hk]

theorem done_effect (s : State) (c : Fin 4) (w : Word) (pc rd v) (f : Ctx → BitVec 6)
    (hf : ∀ x y : Ctx, x.flags = y.flags → f x = f y) :
    RegEffect c s (retire c.val pc (modCtx c.val (setGpr rd v) (modCtx c.val (fun x => { x with flags := f x }) (issued c.val w s)))) pc rd v (f (ctxOf s c.val)) := by
  obtain ⟨k, hk⟩ := issued_ctx s c w c.val
  simp only [if_true] at hk
  refine effect_of s _ c _ k w pc rd v _ (setGpr rd v (ctxOf s c.val)).g ?_ rfl ?_ ?_ ?_ ?_ ?_ ?_
  · intro d
    obtain ⟨k', hk'⟩ := issued_ctx s c w d
    by_cases hd : d = c.val
    · subst hd
      simp only [retire, ctxOf_modCtx, if_true, hk]
      have : f ({ ctxOf s c.val with cur := w, codep := k }) = f (ctxOf s c.val) := hf _ _ rfl
      simp only [this]
      unfold setGpr; split <;> rfl
    · simp [retire, ctxOf_modCtx, hd, hk']
  · have := gpr_setGpr rd
    refine ⟨?_, ?_⟩
    · have h1 := gpr_setGpr rd rd v (ctxOf s c.val)
      simp only [if_true] at h1
      exact h1
    · intro r hr
      have h1 := gpr_setGpr rd r v (ctxOf s c.val)
      simp only [hr, if_false] at h1
      exact h1
  · simp only [retire, modCtx_rest, issued_rest]
  · simp [retire]
  · simp [retire]
  · simp [retire]
  · simp [retire]

theorem nextPc_modCtx (t : State) (c : Nat) (g : Ctx → Ctx) (h : ∀ x, (g x).pc = x.pc) : nextPc (modCtx c g t) c = nextPc t c := by
  simp [nextPc, ctxOf_modCtx, h]

/-- Completing an ALU instruction is a register effect with the flags of R335. -/
theorem aluDone_effect (s : State) (c : Fin 4) (w : Word) (rd sf) (a : AluRes) :
    RegEffect c s (aluDone c.val rd sf a (issued c.val w s)) ((ctxOf s c.val).pc + 4) rd a.r (flagsAfter (ctxOf s c.val).flags sf a.r a.c a.v) := by
  have e : (fun x : Ctx => stickyOv (if sf = 1 then setZnvc x a else x) a.v) = fun x => { x with flags := flagsAfter x.flags sf a.r a.c a.v } := by
    funext x
    have := flags_eq x sf a
    rw [← this]
    simp only [stickyOv, setZnvc]
    repeat' split
    all_goals rfl
  unfold aluDone retireWith
  simp only [e]
  rw [nextPc_modCtx _ _ (fun x => { x with flags := flagsAfter x.flags sf a.r a.c a.v }) (fun x => rfl), nextPc_issued]
  exact done_effect s c w _ rd a.r (fun x => flagsAfter x.flags sf a.r a.c a.v) (fun x y e => by simp only [e])

/-! ### Traps -/

theorem bits_or_one (v : Nat) : bits ((v ||| 2 ^ (32 % 32)) % 2 ^ 32) 0 1 = 1 := by
  unfold bits
  simp only [Nat.mod_self, Nat.shiftRight_zero, pow_zero, pow_one]
  rw [Nat.mod_mod_of_dvd _ (by decide)]
  have := Nat.or_mod_two_pow (a := v) (b := 1) (n := 1)
  simp only [pow_one] at this
  rw [this]
  rcases Nat.mod_two_eq_zero_or_one v with h | h <;> simp [h]

theorem rsvHolds_lose (s : State) (m : Master) (f : Fld) (l : Nat) : rsvHolds (rsvLose m f s) m l = false := by
  unfold rsvLose rsvHolds
  split
  · simp [rsvDrop, modHome]
  · rename_i h
    simp only [List.any_eq_true, not_exists, not_and, decide_eq_true_eq] at h
    rw [Bool.eq_false_iff]; intro hm
    exact h _ (by simpa using hm) rfl

/-- What a trap makes of its context. -/
def trapped0 (code : Nat) (insn : Word) (mstat : BitVec 4) (x : Ctx) : Ctx := { x with
    st := .halted, wait := .none, stopReq := false, trapCode := BitVec.ofNat 8 code, trapValid := true, trapMstat := mstat
    tpc := x.pc, tinsn := insn }

/-- What a trap leaves alone, the cause that it raises, and the reservation that it ends (R349). -/
theorem trap_parts (c : Fin 4) (code insn mstat) (u : State) :
    let t := trapCtx c.val code insn mstat u
    t.lant = (modCtx c.val (trapped0 code insn mstat) u).lant ∧ t.dram = u.dram ∧ t.spad = u.spad ∧ t.ports = u.ports ∧ t.stalls = u.stalls ∧ t.fab = u.fab ∧ t.host = u.host ∧
    bits (regAt t 0x104 0) 0 1 = 1 ∧ ∀ l, rsvHolds t (.lant c) l = false := by
  intro t
  have key : ∀ v : State, (raise 32 (rsvLose (.lant c) HOME_RSV_LOSS_EXC v)).lant = v.lant ∧ (raise 32 (rsvLose (.lant c) HOME_RSV_LOSS_EXC v)).dram = v.dram ∧
     (raise 32 (rsvLose (.lant c) HOME_RSV_LOSS_EXC v)).spad = v.spad ∧ (raise 32 (rsvLose (.lant c) HOME_RSV_LOSS_EXC v)).ports = v.ports ∧
     (raise 32 (rsvLose (.lant c) HOME_RSV_LOSS_EXC v)).stalls = v.stalls ∧ (raise 32 (rsvLose (.lant c) HOME_RSV_LOSS_EXC v)).fab = v.fab ∧
     (raise 32 (rsvLose (.lant c) HOME_RSV_LOSS_EXC v)).host = v.host ∧ (raise 32 (rsvLose (.lant c) HOME_RSV_LOSS_EXC v)).home = (rsvLose (.lant c) HOME_RSV_LOSS_EXC v).home := by
    intro v; unfold raise rsvLose
    dsimp only
    split <;> refine ⟨rfl, rfl, rfl, rfl, rfl, rfl, rfl, rfl⟩
  have ht : t = raise 32 (rsvLose (.lant c) HOME_RSV_LOSS_EXC (modCtx c.val (trapped0 code insn mstat) u)) := by
    simp only [t, trapCtx, ofNat4]; rfl
  obtain ⟨k1, k2, k3, k4, k5, k6, k7, k8⟩ := key (modCtx c.val (trapped0 code insn mstat) u)
  rw [ht]
  refine ⟨k1, k2, k3, k4, k5, k6, k7, ?_, ?_⟩
  · unfold raise; dsimp only
    rw [regAt_setWord, if_pos (by decide)]
    exact bits_or_one _
  · intro l
    have := rsvHolds_lose (modCtx c.val (trapped0 code insn mstat) u) (.lant c) HOME_RSV_LOSS_EXC l
    unfold rsvHolds at this ⊢
    rw [k8]; exact this

theorem trapped_of (s u : State) (c : Fin 4) (code w m) (x k) (hu : ∀ d : Fin 4, ctxOf u d.val = if d = c then { ctxOf s c.val with cur := x, codep := k } else ctxOf s d.val)
   (hd : u.dram = s.dram ∧ u.spad = s.spad ∧ u.ports = s.ports ∧ u.stalls = s.stalls ∧ u.fab = s.fab ∧ u.host = s.host) (hp : u.lant.prog = s.lant.prog) (hq : u.lant.data = s.lant.data) :
    Trapped c s (trapCtx c.val code w m u) code w m := by
  obtain ⟨h1, h2, h3, h4, h5, h6, h7, h8, h9⟩ := trap_parts c code w m u
  have hc : ∀ d : Fin 4, ctxOf (trapCtx c.val code w m u) d.val = if d = c then trapped0 code w m { ctxOf s c.val with cur := x, codep := k } else ctxOf s d.val := by
    intro d
    have e : ctxOf (trapCtx c.val code w m u) d.val = ctxOf (modCtx c.val (trapped0 code w m) u) d.val := by
      unfold ctxOf; rw [h1]
    rw [e, ctxOf_modCtx]
    have := hu c; rw [if_pos rfl] at this
    by_cases hdc : d = c
    · subst hdc; simp [this]
    · simp [fval, hdc, hu d]
  have hcc := hc c; rw [if_pos rfl] at hcc
  simp only [Trapped, hcc, trapped0]
  refine ⟨trivial, trivial, trivial, trivial, trivial, trivial, trivial, trivial, trivial, trivial, trivial, trivial, trivial, trivial, h8, h9, ?_, ?_, ?_, ?_, ?_, ?_, ?_, ?_, ?_⟩
  · rw [h2]; exact hd.1
  · rw [h3]; exact hd.2.1
  · rw [h1]; exact hp
  · rw [h1]; exact hq
  · rw [h4]; exact hd.2.2.1
  · rw [h5]; exact hd.2.2.2.1
  · rw [h6]; exact hd.2.2.2.2.1
  · rw [h7]; exact hd.2.2.2.2.2
  · intro d hdc; rw [hc d, if_neg hdc]

/-- A trap of an issued instruction changes nothing of its context but its state and its record. -/
theorem trap_issued (s : State) (c : Fin 4) (code w m) : Trapped c s (trapCtx c.val code w m (issued c.val w s)) code w m := by
  obtain ⟨k, hk⟩ := issued_ctx_all s c w
  exact trapped_of s _ c code w m w k hk (issued_fields s c.val w) (issued_prog _ _ _) (issued_data _ _ _)

/-! ### Touching data RAM -/

theorem touch_issued (s : State) (c : Fin 4) (w : Word) (a n l) : touch (issued c.val w s) c.val a n l = touch s c.val a n l := by
  obtain ⟨k, hk⟩ := issued_ctx s c w c.val
  simp only [if_true] at hk
  simp only [touch, datBase, datSize, lineBusy, hk, issued_dataBad]
  rfl

theorem datBase_issued (s : State) (c : Fin 4) (w : Word) : datBase (issued c.val w s) c.val = datBase s c.val := by
  obtain ⟨k, hk⟩ := issued_ctx s c w c.val
  simp only [if_true] at hk
  simp only [datBase, hk]

/-- A touch that CanTouch allows meets nothing. -/
theorem touch_ok {s : State} {c : Fin 4} {a n : Nat} {l : Bool} (h : CanTouch s c a n l) : touch s c.val a n l = .ok := by
  obtain ⟨h1, h2, h3, h4, h5⟩ := h
  unfold touch
  simp only [show ¬ datSize s c.val < a + n by omega, h2, h3, h5, if_false, ne_eq, not_true_eq_false, Bool.false_eq_true]
  have : (l && (List.range n).any fun i => s.lant.dataBad.contains (datBase s c.val + a + i)) = false := by
    cases l
    · rfl
    · simp only [Bool.true_and]; rw [List.any_eq_false]; intro i hi; simp at hi; simpa using h4 rfl i hi
  simp only [this, Bool.false_eq_true, if_false]

theorem effAddr_issued (s : State) (c : Fin 4) (w : Word) (ra imm) : effAddr (ctxOf (issued c.val w s) c.val) ra imm = (gpr (ctxOf s c.val) ra + imm.signExtend 64).toNat := by
  simp only [effAddr, gpr_issued]; rfl

end Sys2Proof.Machine
end

