-- ==== Sys2Proof/Laws/PerInstr.lean ====
section
/-!
SUPPORT. The family HasMajor: every command whose operands stand in a word has a defined major opcode in it, so that no command's word is the
all-zero word (R333).
-/

namespace Sys2Proof.Laws

open Sys2Proof Sys2Proof.Machine

/-- A field above the lowest n bits of an append is a field of its upper part. -/
theorem upper {n k : Nat} (x : BitVec k) (y : BitVec n) (a w : Nat) (h : n ≤ a) : (x ++ y).extractLsb' a w = x.extractLsb' (a - n) w := by
  apply BitVec.eq_of_getLsbD_eq
  intro i hi
  simp only [BitVec.getLsbD_extractLsb', BitVec.getLsbD_append, hi, decide_true, Bool.true_and]
  rw [if_neg (by omega)]
  congr 1
  omega

theorem major_encR (m : Nat) (rd ra rb : BitVec 5) (sf : BitVec 1) (x : BitVec 4) (fn : Nat) : wMajor (encR m rd ra rb sf x fn) = m % 64 := by
  refine (congrArg BitVec.toNat ?_).trans (BitVec.toNat_ofNat m 6)
  exact (upper _ _ _ _ (by decide)).trans <| (upper _ _ _ _ (by decide)).trans <| (upper _ _ _ _ (by decide)).trans <|
    (upper _ _ _ _ (by decide)).trans <| (upper _ _ _ _ (by decide)).trans <| (upper _ _ _ _ (by decide)).trans (by simp)
theorem major_encI (m : Nat) (rd ra : BitVec 5) (imm : BitVec 16) : wMajor (encI m rd ra imm) = m % 64 := by
  refine (congrArg BitVec.toNat ?_).trans (BitVec.toNat_ofNat m 6)
  exact (upper _ _ _ _ (by decide)).trans <| (upper _ _ _ _ (by decide)).trans <| (upper _ _ _ _ (by decide)).trans (by simp)
theorem major_encC (m : Nat) (k : BitVec 4) (r : BitVec 6) (off : BitVec 16) : wMajor (encC m k r off) = m % 64 := by
  refine (congrArg BitVec.toNat ?_).trans (BitVec.toNat_ofNat m 6)
  exact (upper _ _ _ _ (by decide)).trans <| (upper _ _ _ _ (by decide)).trans <| (upper _ _ _ _ (by decide)).trans (by simp)
theorem major_encJ (m : Nat) (off : BitVec 26) : wMajor (encJ m off) = m % 64 := by
  refine (congrArg BitVec.toNat ?_).trans (BitVec.toNat_ofNat m 6)
  exact (upper _ _ _ _ (by decide)).trans (by simp)
theorem major_encB (m : Nat) (ra rb : BitVec 5) (off : BitVec 16) : wMajor (encB m ra rb off) = m % 64 := major_encI m ra rb off

/-- The word of the command, where it has one, does not have the undefined major opcode 0. -/
def HasMajor.Statement (i : Instr) : Prop := ∀ c w, encodeLant i = some (c, w) → wMajor w ≠ 0

theorem HasMajor.add (c : Fin 4) (rd ra rb : BitVec 5) (sf : BitVec 1) (x : BitVec 4) : HasMajor.Statement (.add c rd ra rb sf x) := by rintro _ _ ⟨⟩; simp [major_encR]
theorem HasMajor.sub (c : Fin 4) (rd ra rb : BitVec 5) (sf : BitVec 1) (x : BitVec 4) : HasMajor.Statement (.sub c rd ra rb sf x) := by rintro _ _ ⟨⟩; simp [major_encR]
theorem HasMajor.and (c : Fin 4) (rd ra rb : BitVec 5) (sf : BitVec 1) (x : BitVec 4) : HasMajor.Statement (.and c rd ra rb sf x) := by rintro _ _ ⟨⟩; simp [major_encR]
theorem HasMajor.or (c : Fin 4) (rd ra rb : BitVec 5) (sf : BitVec 1) (x : BitVec 4) : HasMajor.Statement (.or c rd ra rb sf x) := by rintro _ _ ⟨⟩; simp [major_encR]
theorem HasMajor.xor (c : Fin 4) (rd ra rb : BitVec 5) (sf : BitVec 1) (x : BitVec 4) : HasMajor.Statement (.xor c rd ra rb sf x) := by rintro _ _ ⟨⟩; simp [major_encR]
theorem HasMajor.andn (c : Fin 4) (rd ra rb : BitVec 5) (sf : BitVec 1) (x : BitVec 4) : HasMajor.Statement (.andn c rd ra rb sf x) := by rintro _ _ ⟨⟩; simp [major_encR]
theorem HasMajor.sll (c : Fin 4) (rd ra rb : BitVec 5) (sf : BitVec 1) (x : BitVec 4) : HasMajor.Statement (.sll c rd ra rb sf x) := by rintro _ _ ⟨⟩; simp [major_encR]
theorem HasMajor.srl (c : Fin 4) (rd ra rb : BitVec 5) (sf : BitVec 1) (x : BitVec 4) : HasMajor.Statement (.srl c rd ra rb sf x) := by rintro _ _ ⟨⟩; simp [major_encR]
theorem HasMajor.sra (c : Fin 4) (rd ra rb : BitVec 5) (sf : BitVec 1) (x : BitVec 4) : HasMajor.Statement (.sra c rd ra rb sf x) := by rintro _ _ ⟨⟩; simp [major_encR]
theorem HasMajor.slt (c : Fin 4) (rd ra rb : BitVec 5) (sf : BitVec 1) (x : BitVec 4) : HasMajor.Statement (.slt c rd ra rb sf x) := by rintro _ _ ⟨⟩; simp [major_encR]
theorem HasMajor.sltu (c : Fin 4) (rd ra rb : BitVec 5) (sf : BitVec 1) (x : BitVec 4) : HasMajor.Statement (.sltu c rd ra rb sf x) := by rintro _ _ ⟨⟩; simp [major_encR]
theorem HasMajor.min (c : Fin 4) (rd ra rb : BitVec 5) (sf : BitVec 1) (x : BitVec 4) : HasMajor.Statement (.min c rd ra rb sf x) := by rintro _ _ ⟨⟩; simp [major_encR]
theorem HasMajor.max (c : Fin 4) (rd ra rb : BitVec 5) (sf : BitVec 1) (x : BitVec 4) : HasMajor.Statement (.max c rd ra rb sf x) := by rintro _ _ ⟨⟩; simp [major_encR]
theorem HasMajor.minu (c : Fin 4) (rd ra rb : BitVec 5) (sf : BitVec 1) (x : BitVec 4) : HasMajor.Statement (.minu c rd ra rb sf x) := by rintro _ _ ⟨⟩; simp [major_encR]
theorem HasMajor.maxu (c : Fin 4) (rd ra rb : BitVec 5) (sf : BitVec 1) (x : BitVec 4) : HasMajor.Statement (.maxu c rd ra rb sf x) := by rintro _ _ ⟨⟩; simp [major_encR]
theorem HasMajor.neg (c : Fin 4) (rd ra rb : BitVec 5) (sf : BitVec 1) (x : BitVec 4) : HasMajor.Statement (.neg c rd ra rb sf x) := by rintro _ _ ⟨⟩; simp [major_encR]
theorem HasMajor.mul (c : Fin 4) (rd ra rb : BitVec 5) (sf : BitVec 1) (x : BitVec 4) : HasMajor.Statement (.mul c rd ra rb sf x) := by rintro _ _ ⟨⟩; simp [major_encR]
theorem HasMajor.mulh (c : Fin 4) (rd ra rb : BitVec 5) (sf : BitVec 1) (x : BitVec 4) : HasMajor.Statement (.mulh c rd ra rb sf x) := by rintro _ _ ⟨⟩; simp [major_encR]
theorem HasMajor.mulhu (c : Fin 4) (rd ra rb : BitVec 5) (sf : BitVec 1) (x : BitVec 4) : HasMajor.Statement (.mulhu c rd ra rb sf x) := by rintro _ _ ⟨⟩; simp [major_encR]
theorem HasMajor.div (c : Fin 4) (rd ra rb : BitVec 5) (sf : BitVec 1) (x : BitVec 4) : HasMajor.Statement (.div c rd ra rb sf x) := by rintro _ _ ⟨⟩; simp [major_encR]
theorem HasMajor.divu (c : Fin 4) (rd ra rb : BitVec 5) (sf : BitVec 1) (x : BitVec 4) : HasMajor.Statement (.divu c rd ra rb sf x) := by rintro _ _ ⟨⟩; simp [major_encR]
theorem HasMajor.rem (c : Fin 4) (rd ra rb : BitVec 5) (sf : BitVec 1) (x : BitVec 4) : HasMajor.Statement (.rem c rd ra rb sf x) := by rintro _ _ ⟨⟩; simp [major_encR]
theorem HasMajor.remu (c : Fin 4) (rd ra rb : BitVec 5) (sf : BitVec 1) (x : BitVec 4) : HasMajor.Statement (.remu c rd ra rb sf x) := by rintro _ _ ⟨⟩; simp [major_encR]
theorem HasMajor.clz (c : Fin 4) (rd ra rb : BitVec 5) (sf : BitVec 1) (x : BitVec 4) : HasMajor.Statement (.clz c rd ra rb sf x) := by rintro _ _ ⟨⟩; simp [major_encR]
theorem HasMajor.ctz (c : Fin 4) (rd ra rb : BitVec 5) (sf : BitVec 1) (x : BitVec 4) : HasMajor.Statement (.ctz c rd ra rb sf x) := by rintro _ _ ⟨⟩; simp [major_encR]
theorem HasMajor.popc (c : Fin 4) (rd ra rb : BitVec 5) (sf : BitVec 1) (x : BitVec 4) : HasMajor.Statement (.popc c rd ra rb sf x) := by rintro _ _ ⟨⟩; simp [major_encR]
theorem HasMajor.sext (c : Fin 4) (rd ra rb : BitVec 5) (sf : BitVec 1) (x : BitVec 4) : HasMajor.Statement (.sext c rd ra rb sf x) := by rintro _ _ ⟨⟩; simp [major_encR]
theorem HasMajor.adc (c : Fin 4) (rd ra rb : BitVec 5) (sf : BitVec 1) (x : BitVec 4) : HasMajor.Statement (.adc c rd ra rb sf x) := by rintro _ _ ⟨⟩; simp [major_encR]
theorem HasMajor.sbc (c : Fin 4) (rd ra rb : BitVec 5) (sf : BitVec 1) (x : BitVec 4) : HasMajor.Statement (.sbc c rd ra rb sf x) := by rintro _ _ ⟨⟩; simp [major_encR]
theorem HasMajor.addi (c : Fin 4) (rd ra : BitVec 5) (imm : BitVec 16) : HasMajor.Statement (.addi c rd ra imm) := by rintro _ _ ⟨⟩; simp [major_encI]
theorem HasMajor.andi (c : Fin 4) (rd ra : BitVec 5) (imm : BitVec 16) : HasMajor.Statement (.andi c rd ra imm) := by rintro _ _ ⟨⟩; simp [major_encI]
theorem HasMajor.ori (c : Fin 4) (rd ra : BitVec 5) (imm : BitVec 16) : HasMajor.Statement (.ori c rd ra imm) := by rintro _ _ ⟨⟩; simp [major_encI]
theorem HasMajor.xori (c : Fin 4) (rd ra : BitVec 5) (imm : BitVec 16) : HasMajor.Statement (.xori c rd ra imm) := by rintro _ _ ⟨⟩; simp [major_encI]
theorem HasMajor.shi (c : Fin 4) (rd ra : BitVec 5) (imm : BitVec 16) : HasMajor.Statement (.shi c rd ra imm) := by rintro _ _ ⟨⟩; simp [major_encI]
theorem HasMajor.hsetz (c : Fin 4) (rd ra : BitVec 5) (imm : BitVec 16) : HasMajor.Statement (.hsetz c rd ra imm) := by rintro _ _ ⟨⟩; simp [major_encI]
theorem HasMajor.hins (c : Fin 4) (rd ra : BitVec 5) (imm : BitVec 16) : HasMajor.Statement (.hins c rd ra imm) := by rintro _ _ ⟨⟩; simp [major_encI]
theorem HasMajor.slti (c : Fin 4) (rd ra : BitVec 5) (imm : BitVec 16) : HasMajor.Statement (.slti c rd ra imm) := by rintro _ _ ⟨⟩; simp [major_encI]
theorem HasMajor.sltiu (c : Fin 4) (rd ra : BitVec 5) (imm : BitVec 16) : HasMajor.Statement (.sltiu c rd ra imm) := by rintro _ _ ⟨⟩; simp [major_encI]
theorem HasMajor.cmpi (c : Fin 4) (rd ra : BitVec 5) (imm : BitVec 16) : HasMajor.Statement (.cmpi c rd ra imm) := by rintro _ _ ⟨⟩; simp [major_encI]
theorem HasMajor.bc (c : Fin 4) (cond : BitVec 4) (rsvd : BitVec 6) (off : BitVec 16) : HasMajor.Statement (.bc c cond rsvd off) := by rintro _ _ ⟨⟩; simp [major_encC]
theorem HasMajor.beq (c : Fin 4) (ra rb : BitVec 5) (off : BitVec 16) : HasMajor.Statement (.beq c ra rb off) := by rintro _ _ ⟨⟩; simp [major_encB]
theorem HasMajor.bne (c : Fin 4) (ra rb : BitVec 5) (off : BitVec 16) : HasMajor.Statement (.bne c ra rb off) := by rintro _ _ ⟨⟩; simp [major_encB]
theorem HasMajor.blt (c : Fin 4) (ra rb : BitVec 5) (off : BitVec 16) : HasMajor.Statement (.blt c ra rb off) := by rintro _ _ ⟨⟩; simp [major_encB]
theorem HasMajor.bge (c : Fin 4) (ra rb : BitVec 5) (off : BitVec 16) : HasMajor.Statement (.bge c ra rb off) := by rintro _ _ ⟨⟩; simp [major_encB]
theorem HasMajor.bltu (c : Fin 4) (ra rb : BitVec 5) (off : BitVec 16) : HasMajor.Statement (.bltu c ra rb off) := by rintro _ _ ⟨⟩; simp [major_encB]
theorem HasMajor.bgeu (c : Fin 4) (ra rb : BitVec 5) (off : BitVec 16) : HasMajor.Statement (.bgeu c ra rb off) := by rintro _ _ ⟨⟩; simp [major_encB]
theorem HasMajor.jal (c : Fin 4) (off : BitVec 26) : HasMajor.Statement (.jal c off) := by rintro _ _ ⟨⟩; simp [major_encJ]
theorem HasMajor.jalr (c : Fin 4) (rd ra : BitVec 5) (imm : BitVec 16) : HasMajor.Statement (.jalr c rd ra imm) := by rintro _ _ ⟨⟩; simp [major_encI]
theorem HasMajor.lbu (c : Fin 4) (rd ra : BitVec 5) (imm : BitVec 16) : HasMajor.Statement (.lbu c rd ra imm) := by rintro _ _ ⟨⟩; simp [major_encI]
theorem HasMajor.lhu (c : Fin 4) (rd ra : BitVec 5) (imm : BitVec 16) : HasMajor.Statement (.lhu c rd ra imm) := by rintro _ _ ⟨⟩; simp [major_encI]
theorem HasMajor.lwu (c : Fin 4) (rd ra : BitVec 5) (imm : BitVec 16) : HasMajor.Statement (.lwu c rd ra imm) := by rintro _ _ ⟨⟩; simp [major_encI]
theorem HasMajor.ld (c : Fin 4) (rd ra : BitVec 5) (imm : BitVec 16) : HasMajor.Statement (.ld c rd ra imm) := by rintro _ _ ⟨⟩; simp [major_encI]
theorem HasMajor.lb (c : Fin 4) (rd ra : BitVec 5) (imm : BitVec 16) : HasMajor.Statement (.lb c rd ra imm) := by rintro _ _ ⟨⟩; simp [major_encI]
theorem HasMajor.lh (c : Fin 4) (rd ra : BitVec 5) (imm : BitVec 16) : HasMajor.Statement (.lh c rd ra imm) := by rintro _ _ ⟨⟩; simp [major_encI]
theorem HasMajor.lw (c : Fin 4) (rd ra : BitVec 5) (imm : BitVec 16) : HasMajor.Statement (.lw c rd ra imm) := by rintro _ _ ⟨⟩; simp [major_encI]
theorem HasMajor.sb (c : Fin 4) (rd ra : BitVec 5) (imm : BitVec 16) : HasMajor.Statement (.sb c rd ra imm) := by rintro _ _ ⟨⟩; simp [major_encI]
theorem HasMajor.sh (c : Fin 4) (rd ra : BitVec 5) (imm : BitVec 16) : HasMajor.Statement (.sh c rd ra imm) := by rintro _ _ ⟨⟩; simp [major_encI]
theorem HasMajor.sw (c : Fin 4) (rd ra : BitVec 5) (imm : BitVec 16) : HasMajor.Statement (.sw c rd ra imm) := by rintro _ _ ⟨⟩; simp [major_encI]
theorem HasMajor.sd (c : Fin 4) (rd ra : BitVec 5) (imm : BitVec 16) : HasMajor.Statement (.sd c rd ra imm) := by rintro _ _ ⟨⟩; simp [major_encI]
theorem HasMajor.ldm (c : Fin 4) (rd ra : BitVec 5) (imm : BitVec 16) : HasMajor.Statement (.ldm c rd ra imm) := by rintro _ _ ⟨⟩; simp [major_encI]
theorem HasMajor.stm (c : Fin 4) (rd ra : BitVec 5) (imm : BitVec 16) : HasMajor.Statement (.stm c rd ra imm) := by rintro _ _ ⟨⟩; simp [major_encI]
theorem HasMajor.ldln (c : Fin 4) (rd ra rb : BitVec 5) (sf : BitVec 1) (x : BitVec 4) : HasMajor.Statement (.ldln c rd ra rb sf x) := by rintro _ _ ⟨⟩; simp [major_encR]
theorem HasMajor.stln (c : Fin 4) (rd ra rb : BitVec 5) (sf : BitVec 1) (x : BitVec 4) : HasMajor.Statement (.stln c rd ra rb sf x) := by rintro _ _ ⟨⟩; simp [major_encR]
theorem HasMajor.zln (c : Fin 4) (rd ra rb : BitVec 5) (sf : BitVec 1) (x : BitVec 4) : HasMajor.Statement (.zln c rd ra rb sf x) := by rintro _ _ ⟨⟩; simp [major_encR]
theorem HasMajor.lantLr (c : Fin 4) (rd ra rb : BitVec 5) (sf : BitVec 1) (x : BitVec 4) : HasMajor.Statement (.lantLr c rd ra rb sf x) := by rintro _ _ ⟨⟩; simp [major_encR]
theorem HasMajor.lantSc (c : Fin 4) (rd ra rb : BitVec 5) (sf : BitVec 1) (x : BitVec 4) : HasMajor.Statement (.lantSc c rd ra rb sf x) := by rintro _ _ ⟨⟩; simp [major_encR]
theorem HasMajor.lantAmo (c : Fin 4) (rd ra rb : BitVec 5) (sf : BitVec 1) (x : BitVec 4) : HasMajor.Statement (.lantAmo c rd ra rb sf x) := by rintro _ _ ⟨⟩; simp [major_encR]
theorem HasMajor.sput (c : Fin 4) (rd ra rb : BitVec 5) (sf : BitVec 1) (x : BitVec 4) : HasMajor.Statement (.sput c rd ra rb sf x) := by rintro _ _ ⟨⟩; simp [major_encR]
theorem HasMajor.sget (c : Fin 4) (rd ra rb : BitVec 5) (sf : BitVec 1) (x : BitVec 4) : HasMajor.Statement (.sget c rd ra rb sf x) := by rintro _ _ ⟨⟩; simp [major_encR]
theorem HasMajor.stly (c : Fin 4) (rd ra rb : BitVec 5) (sf : BitVec 1) (x : BitVec 4) : HasMajor.Statement (.stly c rd ra rb sf x) := by rintro _ _ ⟨⟩; simp [major_encR]
theorem HasMajor.scmd (c : Fin 4) (rd ra rb : BitVec 5) (sf : BitVec 1) (x : BitVec 4) : HasMajor.Statement (.scmd c rd ra rb sf x) := by rintro _ _ ⟨⟩; simp [major_encR]
theorem HasMajor.rdtb (c : Fin 4) (rd ra rb : BitVec 5) (sf : BitVec 1) (x : BitVec 4) : HasMajor.Statement (.rdtb c rd ra rb sf x) := by rintro _ _ ⟨⟩; simp [major_encR]
theorem HasMajor.wait (c : Fin 4) (rd ra rb : BitVec 5) (sf : BitVec 1) (x : BitVec 4) : HasMajor.Statement (.wait c rd ra rb sf x) := by rintro _ _ ⟨⟩; simp [major_encR]
theorem HasMajor.waitResume (c : Fin 4) : HasMajor.Statement (.waitResume c) := by rintro _ _ ⟨⟩
theorem HasMajor.launch (c : Fin 4) (rd ra rb : BitVec 5) (sf : BitVec 1) (x : BitVec 4) : HasMajor.Statement (.launch c rd ra rb sf x) := by rintro _ _ ⟨⟩; simp [major_encR]
theorem HasMajor.lcancel (c : Fin 4) (rd ra rb : BitVec 5) (sf : BitVec 1) (x : BitVec 4) : HasMajor.Statement (.lcancel c rd ra rb sf x) := by rintro _ _ ⟨⟩; simp [major_encR]
theorem HasMajor.bar (c : Fin 4) (rd ra rb : BitVec 5) (sf : BitVec 1) (x : BitVec 4) : HasMajor.Statement (.bar c rd ra rb sf x) := by rintro _ _ ⟨⟩; simp [major_encR]
theorem HasMajor.iflush (c : Fin 4) (rd ra rb : BitVec 5) (sf : BitVec 1) (x : BitVec 4) : HasMajor.Statement (.iflush c rd ra rb sf x) := by rintro _ _ ⟨⟩; simp [major_encR]
theorem HasMajor.hbind (c : Fin 4) (rd ra rb : BitVec 5) (sf : BitVec 1) (x : BitVec 4) : HasMajor.Statement (.hbind c rd ra rb sf x) := by rintro _ _ ⟨⟩; simp [major_encR]
theorem HasMajor.hdone (c : Fin 4) (rd ra rb : BitVec 5) (sf : BitVec 1) (x : BitVec 4) : HasMajor.Statement (.hdone c rd ra rb sf x) := by rintro _ _ ⟨⟩; simp [major_encR]
theorem HasMajor.brk (c : Fin 4) (rd ra rb : BitVec 5) (sf : BitVec 1) (x : BitVec 4) : HasMajor.Statement (.brk c rd ra rb sf x) := by rintro _ _ ⟨⟩; simp [major_encR]
theorem HasMajor.halt (c : Fin 4) (rd ra rb : BitVec 5) (sf : BitVec 1) (x : BitVec 4) : HasMajor.Statement (.halt c rd ra rb sf x) := by rintro _ _ ⟨⟩; simp [major_encR]
theorem HasMajor.eqEnergyTotal (c : Fin 4) (rd ra rb : BitVec 5) (sf : BitVec 1) : HasMajor.Statement (.eqEnergyTotal c rd ra rb sf) := by rintro _ _ ⟨⟩; simp [major_encR]
theorem HasMajor.eqUsableReserve (c : Fin 4) (rd ra rb : BitVec 5) (sf : BitVec 1) : HasMajor.Statement (.eqUsableReserve c rd ra rb sf) := by rintro _ _ ⟨⟩; simp [major_encR]
theorem HasMajor.eqDomainLow (c : Fin 4) (rd ra rb : BitVec 5) (sf : BitVec 1) : HasMajor.Statement (.eqDomainLow c rd ra rb sf) := by rintro _ _ ⟨⟩; simp [major_encR]
theorem HasMajor.eqDomainHigh (c : Fin 4) (rd ra rb : BitVec 5) (sf : BitVec 1) : HasMajor.Statement (.eqDomainHigh c rd ra rb sf) := by rintro _ _ ⟨⟩; simp [major_encR]
theorem HasMajor.eqRetention (c : Fin 4) (rd ra rb : BitVec 5) (sf : BitVec 1) : HasMajor.Statement (.eqRetention c rd ra rb sf) := by rintro _ _ ⟨⟩; simp [major_encR]
theorem HasMajor.eqAllowance (c : Fin 4) (rd ra rb : BitVec 5) (sf : BitVec 1) : HasMajor.Statement (.eqAllowance c rd ra rb sf) := by rintro _ _ ⟨⟩; simp [major_encR]
theorem HasMajor.eqStage (c : Fin 4) (rd ra rb : BitVec 5) (sf : BitVec 1) : HasMajor.Statement (.eqStage c rd ra rb sf) := by rintro _ _ ⟨⟩; simp [major_encR]
theorem HasMajor.mfs (c : Fin 4) (rd ra : BitVec 5) (imm : BitVec 16) : HasMajor.Statement (.mfs c rd ra imm) := by rintro _ _ ⟨⟩; simp [major_encI]
theorem HasMajor.mts (c : Fin 4) (rd ra : BitVec 5) (imm : BitVec 16) : HasMajor.Statement (.mts c rd ra imm) := by rintro _ _ ⟨⟩; simp [major_encI]
theorem HasMajor.mrw (c : Fin 4) (rd ra rb : BitVec 5) (sf : BitVec 1) (x : BitVec 4) : HasMajor.Statement (.mrw c rd ra rb sf x) := by rintro _ _ ⟨⟩; simp [major_encR]
theorem HasMajor.mrr (c : Fin 4) (rd ra rb : BitVec 5) (sf : BitVec 1) (x : BitVec 4) : HasMajor.Statement (.mrr c rd ra rb sf x) := by rintro _ _ ⟨⟩; simp [major_encR]
theorem HasMajor.refcRefNow (c : Fin 4) (rd ra rb : BitVec 5) (sf : BitVec 1) : HasMajor.Statement (.refcRefNow c rd ra rb sf) := by rintro _ _ ⟨⟩; simp [major_encR]
theorem HasMajor.refcSrEnter (c : Fin 4) (rd ra rb : BitVec 5) (sf : BitVec 1) : HasMajor.Statement (.refcSrEnter c rd ra rb sf) := by rintro _ _ ⟨⟩; simp [major_encR]
theorem HasMajor.refcSrExit (c : Fin 4) (rd ra rb : BitVec 5) (sf : BitVec 1) : HasMajor.Statement (.refcSrExit c rd ra rb sf) := by rintro _ _ ⟨⟩; simp [major_encR]
theorem HasMajor.refcZq (c : Fin 4) (rd ra rb : BitVec 5) (sf : BitVec 1) : HasMajor.Statement (.refcZq c rd ra rb sf) := by rintro _ _ ⟨⟩; simp [major_encR]
theorem HasMajor.rrepSoft (c : Fin 4) (rd ra rb : BitVec 5) (sf : BitVec 1) (x : BitVec 3) (freeResource : Bool) : HasMajor.Statement (.rrepSoft c rd ra rb sf x freeResource) := by rintro _ _ ⟨⟩
theorem HasMajor.rrepHard (c : Fin 4) (rd ra rb : BitVec 5) (sf : BitVec 1) (x : BitVec 3) : HasMajor.Statement (.rrepHard c rd ra rb sf x) := by rintro _ _ ⟨⟩
theorem HasMajor.trstep (c : Fin 4) (rd ra rb : BitVec 5) (sf : BitVec 1) (x : BitVec 4) (ok : Bool) : HasMajor.Statement (.trstep c rd ra rb sf x ok) := by rintro _ _ ⟨⟩
theorem HasMajor.rd (fp : Fin 32) (w : ReqWord) : HasMajor.Statement (.rd fp w) := by rintro _ _ ⟨⟩
theorem HasMajor.wr (fp : Fin 32) (w : ReqWord) : HasMajor.Statement (.wr fp w) := by rintro _ _ ⟨⟩
theorem HasMajor.wrz (fp : Fin 32) (w : ReqWord) : HasMajor.Statement (.wrz fp w) := by rintro _ _ ⟨⟩
theorem HasMajor.lr (fp : Fin 32) (w : ReqWord) : HasMajor.Statement (.lr fp w) := by rintro _ _ ⟨⟩
theorem HasMajor.sc (fp : Fin 32) (w : ReqWord) : HasMajor.Statement (.sc fp w) := by rintro _ _ ⟨⟩
theorem HasMajor.amo (fp : Fin 32) (w : ReqWord) : HasMajor.Statement (.amo fp w) := by rintro _ _ ⟨⟩
theorem HasMajor.order (fp : Fin 32) (w : ReqWord) : HasMajor.Statement (.order fp w) := by rintro _ _ ⟨⟩
theorem HasMajor.visible (fp : Fin 32) (w : ReqWord) : HasMajor.Statement (.visible fp w) := by rintro _ _ ⟨⟩
theorem HasMajor.durable (fp : Fin 32) (w : ReqWord) : HasMajor.Statement (.durable fp w) := by rintro _ _ ⟨⟩
theorem HasMajor.stallPut (fp : Fin 32) (w : ReqWord) : HasMajor.Statement (.stallPut fp w) := by rintro _ _ ⟨⟩
theorem HasMajor.stallWordRead (fp : Fin 32) (w : ReqWord) : HasMajor.Statement (.stallWordRead fp w) := by rintro _ _ ⟨⟩
theorem HasMajor.tallyFetch (fp : Fin 32) (w : ReqWord) : HasMajor.Statement (.tallyFetch fp w) := by rintro _ _ ⟨⟩
theorem HasMajor.drop (fp : Fin 32) (w : ReqWord) : HasMajor.Statement (.drop fp w) := by rintro _ _ ⟨⟩
theorem HasMajor.mark (fp : Fin 32) (w : ReqWord) : HasMajor.Statement (.mark fp w) := by rintro _ _ ⟨⟩
theorem HasMajor.rewind (fp : Fin 32) (w : ReqWord) : HasMajor.Statement (.rewind fp w) := by rintro _ _ ⟨⟩
theorem HasMajor.release (fp : Fin 32) (w : ReqWord) : HasMajor.Statement (.release fp w) := by rintro _ _ ⟨⟩
theorem HasMajor.flush (fp : Fin 32) (w : ReqWord) : HasMajor.Statement (.flush fp w) := by rintro _ _ ⟨⟩
theorem HasMajor.reqReservedOpcode (fp : Fin 32) (opc : BitVec 5) (w : ReqWord) : HasMajor.Statement (.reqReservedOpcode fp opc w) := by rintro _ _ ⟨⟩
theorem HasMajor.writeDataBeat (fp : Fin 32) (data : Line) (be : BitVec 64) (last : Bool) : HasMajor.Statement (.writeDataBeat fp data be last) := by rintro _ _ ⟨⟩
theorem HasMajor.readBeatAccept (fp : Fin 32) : HasMajor.Statement (.readBeatAccept fp) := by rintro _ _ ⟨⟩
theorem HasMajor.responseAccept (fp : Fin 32) : HasMajor.Statement (.responseAccept fp) := by rintro _ _ ⟨⟩
theorem HasMajor.urgChange (fp : Fin 32) (level : BitVec 2) : HasMajor.Statement (.urgChange fp level) := by rintro _ _ ⟨⟩
theorem HasMajor.exc (fp : Fin 32) : HasMajor.Statement (.exc fp) := by rintro _ _ ⟨⟩
theorem HasMajor.fabClkMeasure (fp : Fin 32) (khz : Nat) : HasMajor.Statement (.fabClkMeasure fp khz) := by rintro _ _ ⟨⟩
theorem HasMajor.burstTimeout (fp : Fin 32) : HasMajor.Statement (.burstTimeout fp) := by rintro _ _ ⟨⟩
theorem HasMajor.fabricPortBoundary (fp : Fin 32) : HasMajor.Statement (.fabricPortBoundary fp) := by rintro _ _ ⟨⟩
theorem HasMajor.pwbDrain (fp : Fin 32) (parityError : Bool) : HasMajor.Statement (.pwbDrain fp parityError) := by rintro _ _ ⟨⟩
theorem HasMajor.queueEntry (p : Fin 20) : HasMajor.Statement (.queueEntry p) := by rintro _ _ ⟨⟩
theorem HasMajor.lineDataReturn (p : Fin 20) (id : Nat) (err : Burst) : HasMajor.Statement (.lineDataReturn p id err) := by rintro _ _ ⟨⟩
theorem HasMajor.fpProtoClear (fp : Fin 32) (v : BitVec 32) : HasMajor.Statement (.fpProtoClear fp v) := by rintro _ _ ⟨⟩
theorem HasMajor.fpDurClear (fp : Fin 32) (v : BitVec 32) : HasMajor.Statement (.fpDurClear fp v) := by rintro _ _ ⟨⟩
theorem HasMajor.homeRsvClear (v : BitVec 32) : HasMajor.Statement (.homeRsvClear v) := by rintro _ _ ⟨⟩
theorem HasMajor.commandSlotSelect (p : Fin 20) (sub : Fin 4) (off : BitVec 4) : HasMajor.Statement (.commandSlotSelect p sub off) := by rintro _ _ ⟨⟩
theorem HasMajor.refreshDue (p : Fin 20) (rank : RankId) : HasMajor.Statement (.refreshDue p rank) := by rintro _ _ ⟨⟩
theorem HasMajor.rowTimeoutClose (p : Fin 20) (sub : Fin 4) (bank : BankId) (off : BitVec 4) : HasMajor.Statement (.rowTimeoutClose p sub bank off) := by rintro _ _ ⟨⟩
theorem HasMajor.hotRestore (p : Fin 20) (dimm : Fin 4) : HasMajor.Statement (.hotRestore p dimm) := by rintro _ _ ⟨⟩
theorem HasMajor.trainingPauseStart (p : Fin 20) : HasMajor.Statement (.trainingPauseStart p) := by rintro _ _ ⟨⟩
theorem HasMajor.pauseForce (p : Fin 20) : HasMajor.Statement (.pauseForce p) := by rintro _ _ ⟨⟩
theorem HasMajor.brMissClear (t : Fin 256) (v : BitVec 32) : HasMajor.Statement (.brMissClear t v) := by rintro _ _ ⟨⟩
theorem HasMajor.schMissLogClear (v : BitVec 32) : HasMajor.Statement (.schMissLogClear v) := by rintro _ _ ⟨⟩
theorem HasMajor.psCntClear (p : Fin 20) (v : BitVec 32) : HasMajor.Statement (.psCntClear p v) := by rintro _ _ ⟨⟩
theorem HasMajor.tbCountRead : HasMajor.Statement (.tbCountRead) := by rintro _ _ ⟨⟩
theorem HasMajor.softStep : HasMajor.Statement (.softStep) := by rintro _ _ ⟨⟩
theorem HasMajor.armEpochStep : HasMajor.Statement (.armEpochStep) := by rintro _ _ ⟨⟩
theorem HasMajor.abandonStep : HasMajor.Statement (.abandonStep) := by rintro _ _ ⟨⟩
theorem HasMajor.stepLoad : HasMajor.Statement (.stepLoad) := by rintro _ _ ⟨⟩
theorem HasMajor.stepArmTimeout : HasMajor.Statement (.stepArmTimeout) := by rintro _ _ ⟨⟩
theorem HasMajor.epochPulseIn (phase : BitVec 6) (width : Nat) : HasMajor.Statement (.epochPulseIn phase width) := by rintro _ _ ⟨⟩
theorem HasMajor.epochPulseOut (v : BitVec 32) : HasMajor.Statement (.epochPulseOut v) := by rintro _ _ ⟨⟩
theorem HasMajor.timeMarkStart (p : Fin 20) (fine : BitVec 8) : HasMajor.Statement (.timeMarkStart p fine) := by rintro _ _ ⟨⟩
theorem HasMajor.timeMarkAnswer (p : Fin 20) (t2 : BitVec 32) (t3 : BitVec 32) (fine : BitVec 8) (replayed : Bool) : HasMajor.Statement (.timeMarkAnswer p t2 t3 fine replayed) := by rintro _ _ ⟨⟩
theorem HasMajor.launchHold (l : Fin 8) : HasMajor.Statement (.launchHold l) := by rintro _ _ ⟨⟩
theorem HasMajor.launchStart (l : Fin 8) : HasMajor.Statement (.launchStart l) := by rintro _ _ ⟨⟩
theorem HasMajor.refHoldEnd (p : Fin 20) : HasMajor.Statement (.refHoldEnd p) := by rintro _ _ ⟨⟩
theorem HasMajor.streamLineEnter (p : Fin 20) (k : Nat) : HasMajor.Statement (.streamLineEnter p k) := by rintro _ _ ⟨⟩
theorem HasMajor.stallSwitch (a : BitVec 15) : HasMajor.Statement (.stallSwitch a) := by rintro _ _ ⟨⟩
theorem HasMajor.launchCancel (v : BitVec 32) : HasMajor.Statement (.launchCancel v) := by rintro _ _ ⟨⟩
theorem HasMajor.launchSelfWake : HasMajor.Statement (.launchSelfWake) := by rintro _ _ ⟨⟩
theorem HasMajor.tbAlarmWrite (reg : Fin 3) (v : BitVec 32) : HasMajor.Statement (.tbAlarmWrite reg v) := by rintro _ _ ⟨⟩
theorem HasMajor.tbAlarmFire : HasMajor.Statement (.tbAlarmFire) := by rintro _ _ ⟨⟩
theorem HasMajor.pwrGoodRise (p : Fin 20) : HasMajor.Statement (.pwrGoodRise p) := by rintro _ _ ⟨⟩
theorem HasMajor.pwrGoodTimeout (p : Fin 20) : HasMajor.Statement (.pwrGoodTimeout p) := by rintro _ _ ⟨⟩
theorem HasMajor.spdReadDone (p : Fin 20) (spd : List SpdSlot) : HasMajor.Statement (.spdReadDone p spd) := by rintro _ _ ⟨⟩
theorem HasMajor.initDone (p : Fin 20) (rfm : BitVec 20) : HasMajor.Statement (.initDone p rfm) := by rintro _ _ ⟨⟩
theorem HasMajor.zeroFillDone (p : Fin 20) : HasMajor.Statement (.zeroFillDone p) := by rintro _ _ ⟨⟩
theorem HasMajor.alert (p : Fin 20) : HasMajor.Statement (.alert p) := by rintro _ _ ⟨⟩
theorem HasMajor.alertRise (p : Fin 20) (clocks : Nat) : HasMajor.Statement (.alertRise p clocks) := by rintro _ _ ⟨⟩
theorem HasMajor.alertRecoveryDone (p : Fin 20) (trainOk : Bool) : HasMajor.Statement (.alertRecoveryDone p trainOk) := by rintro _ _ ⟨⟩
theorem HasMajor.commandKnownGood (p : Fin 20) : HasMajor.Statement (.commandKnownGood p) := by rintro _ _ ⟨⟩
theorem HasMajor.pwrGoodLost (p : Fin 20) : HasMajor.Statement (.pwrGoodLost p) := by rintro _ _ ⟨⟩
theorem HasMajor.autoSelfRefresh (p : Fin 20) : HasMajor.Statement (.autoSelfRefresh p) := by rintro _ _ ⟨⟩
theorem HasMajor.selfRefreshExit (p : Fin 20) : HasMajor.Statement (.selfRefreshExit p) := by rintro _ _ ⟨⟩
theorem HasMajor.zqStart (p : Fin 20) (rank : RankId) : HasMajor.Statement (.zqStart p rank) := by rintro _ _ ⟨⟩
theorem HasMajor.zqLatch (p : Fin 20) (rank : RankId) : HasMajor.Statement (.zqLatch p rank) := by rintro _ _ ⟨⟩
theorem HasMajor.dimmTempPoll (p : Fin 20) (t0 : Option (BitVec 8)) (t1 : Option (BitVec 8)) : HasMajor.Statement (.dimmTempPoll p t0 t1) := by rintro _ _ ⟨⟩
theorem HasMajor.dpCntClear (p : Fin 20) (v : BitVec 32) : HasMajor.Statement (.dpCntClear p v) := by rintro _ _ ⟨⟩
theorem HasMajor.linkup (p : Fin 20) (rx : BitVec 9) (tx : BitVec 9) : HasMajor.Statement (.linkup p rx tx) := by rintro _ _ ⟨⟩
theorem HasMajor.laneLockLoss (p : Fin 20) (lane : Fin 9) : HasMajor.Statement (.laneLockLoss p lane) := by rintro _ _ ⟨⟩
theorem HasMajor.laneWeak (p : Fin 20) (lane : Fin 9) (symbols : Nat) (uncorrectable : Nat) : HasMajor.Statement (.laneWeak p lane symbols uncorrectable) := by rintro _ _ ⟨⟩
theorem HasMajor.spareSwitch (p : Fin 20) (dir : Bool) : HasMajor.Statement (.spareSwitch p dir) := by rintro _ _ ⟨⟩
theorem HasMajor.takeoverTimeout (p : Fin 20) (dir : Bool) : HasMajor.Statement (.takeoverTimeout p dir) := by rintro _ _ ⟨⟩
theorem HasMajor.recalTurn (p : Fin 20) (dir : Bool) : HasMajor.Statement (.recalTurn p dir) := by rintro _ _ ⟨⟩
theorem HasMajor.recalReturn (p : Fin 20) (dir : Bool) (runs : List Meas) : HasMajor.Statement (.recalReturn p dir runs) := by rintro _ _ ⟨⟩
theorem HasMajor.relink (p : Fin 20) (seq : BitVec 12) : HasMajor.Statement (.relink p seq) := by rintro _ _ ⟨⟩
theorem HasMajor.linkTimeout (p : Fin 20) : HasMajor.Statement (.linkTimeout p) := by rintro _ _ ⟨⟩
theorem HasMajor.rateChange (p : Fin 20) : HasMajor.Statement (.rateChange p) := by rintro _ _ ⟨⟩
theorem HasMajor.packetCrcFail (p : Fin 20) : HasMajor.Statement (.packetCrcFail p) := by rintro _ _ ⟨⟩
theorem HasMajor.nakRepeat (p : Fin 20) : HasMajor.Statement (.nakRepeat p) := by rintro _ _ ⟨⟩
theorem HasMajor.nak (p : Fin 20) (ack : BitVec 12) : HasMajor.Statement (.nak p ack) := by rintro _ _ ⟨⟩
theorem HasMajor.creditAck (p : Fin 20) (ack : BitVec 12) (ctlcr : BitVec 4) : HasMajor.Statement (.creditAck p ack ctlcr) := by rintro _ _ ⟨⟩
theorem HasMajor.packetReserved (p : Fin 20) : HasMajor.Statement (.packetReserved p) := by rintro _ _ ⟨⟩
theorem HasMajor.readDataPacket (p : Fin 20) (sub : Fin 4) (stamp : BitVec 28) (poison : Bool) (data : Line) : HasMajor.Statement (.readDataPacket p sub stamp poison data) := by rintro _ _ ⟨⟩
theorem HasMajor.readDataLost (p : Fin 20) (id : Nat) : HasMajor.Statement (.readDataLost p id) := by rintro _ _ ⟨⟩
theorem HasMajor.refuse (p : Fin 20) (code : BitVec 4) (sub : Fin 4) (stamp : BitVec 28) : HasMajor.Statement (.refuse p code sub stamp) := by rintro _ _ ⟨⟩
theorem HasMajor.cap (p : Fin 20) (index : BitVec 8) (content : BitVec 56) : HasMajor.Statement (.cap p index content) := by rintro _ _ ⟨⟩
theorem HasMajor.err (p : Fin 20) (kind : BitVec 2) (sub : Fin 4) (stamp : BitVec 28) (sym : BitVec 5) : HasMajor.Statement (.err p kind sub stamp sym) := by rintro _ _ ⟨⟩
theorem HasMajor.alertPacket (p : Fin 20) (channel : Bool) (crc : Bool) (stamp : BitVec 28) : HasMajor.Statement (.alertPacket p channel crc stamp) := by rintro _ _ ⟨⟩
theorem HasMajor.temp (p : Fin 20) (t : BitVec 32) (valid : BitVec 4) : HasMajor.Statement (.temp p t valid) := by rintro _ _ ⟨⟩
theorem HasMajor.laneFault (p : Fin 20) (lane : Fin 9) (weak : Bool) : HasMajor.Statement (.laneFault p lane weak) := by rintro _ _ ⟨⟩
theorem HasMajor.regData (p : Fin 20) (reg : BitVec 16) (val : BitVec 32) : HasMajor.Statement (.regData p reg val) := by rintro _ _ ⟨⟩
theorem HasMajor.mrrData (p : Fin 20) (stamp : BitVec 28) (val : BitVec 8) (sub : Fin 4) : HasMajor.Statement (.mrrData p stamp val sub) := by rintro _ _ ⟨⟩
theorem HasMajor.pwr (p : Fin 20) (dimms : BitVec 4) : HasMajor.Statement (.pwr p dimms) := by rintro _ _ ⟨⟩
theorem HasMajor.resume (p : Fin 20) (seq : BitVec 12) (lost : BitVec 16) (sr : Bool) : HasMajor.Statement (.resume p seq lost sr) := by rintro _ _ ⟨⟩
theorem HasMajor.codeUpdate (p : Fin 20) : HasMajor.Statement (.codeUpdate p) := by rintro _ _ ⟨⟩
theorem HasMajor.slCntClear (p : Fin 20) (v : BitVec 32) : HasMajor.Statement (.slCntClear p v) := by rintro _ _ ⟨⟩
theorem HasMajor.laneSoak (p : Fin 20) (lane : Fin 9) (r : SoakResult) : HasMajor.Statement (.laneSoak p lane r) := by rintro _ _ ⟨⟩
theorem HasMajor.trackingRound (p : Fin 20) : HasMajor.Statement (.trackingRound p) := by rintro _ _ ⟨⟩
theorem HasMajor.trackReadPause (p : Fin 20) (ms : List Meas) : HasMajor.Statement (.trackReadPause p ms) := by rintro _ _ ⟨⟩
theorem HasMajor.trackWritePause (p : Fin 20) (ms : List Meas) (err0 : Burst) (err1 : Burst) : HasMajor.Statement (.trackWritePause p ms err0 err1) := by rintro _ _ ⟨⟩
theorem HasMajor.trackOscPause (p : Fin 20) (ms : List Meas) : HasMajor.Statement (.trackOscPause p ms) := by rintro _ _ ⟨⟩
theorem HasMajor.driftClamp (p : Fin 20) (lane : Fin 9) : HasMajor.Statement (.driftClamp p lane) := by rintro _ _ ⟨⟩
theorem HasMajor.trCntClear (p : Fin 20) (v : BitVec 32) : HasMajor.Statement (.trCntClear p v) := by rintro _ _ ⟨⟩
theorem HasMajor.gatherClose (p : Fin 20) (e : Fin 32) : HasMajor.Statement (.gatherClose p e) := by rintro _ _ ⟨⟩
theorem HasMajor.rmwReadDone (p : Fin 20) (e : Fin 32) (err : Burst) : HasMajor.Statement (.rmwReadDone p e err) := by rintro _ _ ⟨⟩
theorem HasMajor.scrubVisit (p : Fin 20) : HasMajor.Statement (.scrubVisit p) := by rintro _ _ ⟨⟩
theorem HasMajor.scrubVisitDone (p : Fin 20) (err : Burst) : HasMajor.Statement (.scrubVisitDone p err) := by rintro _ _ ⟨⟩
theorem HasMajor.ceWindowExpire (p : Fin 20) : HasMajor.Statement (.ceWindowExpire p) := by rintro _ _ ⟨⟩
theorem HasMajor.ceThRaise (p : Fin 20) : HasMajor.Statement (.ceThRaise p) := by rintro _ _ ⟨⟩
theorem HasMajor.logTailWrite (k : Fin 21) (v : BitVec 32) : HasMajor.Statement (.logTailWrite k v) := by rintro _ _ ⟨⟩
theorem HasMajor.elLostClear (v : BitVec 32) : HasMajor.Statement (.elLostClear v) := by rintro _ _ ⟨⟩
theorem HasMajor.ecCntClear (p : Fin 20) (v : BitVec 32) : HasMajor.Statement (.ecCntClear p v) := by rintro _ _ ⟨⟩
theorem HasMajor.remapAdd (p : Fin 20) (v : BitVec 32) : HasMajor.Statement (.remapAdd p v) := by rintro _ _ ⟨⟩
theorem HasMajor.remapCopyLine (p : Fin 20) (err : Burst) : HasMajor.Statement (.remapCopyLine p err) := by rintro _ _ ⟨⟩
theorem HasMajor.marchStart : HasMajor.Statement (.marchStart) := by rintro _ _ ⟨⟩
theorem HasMajor.marchAbort : HasMajor.Statement (.marchAbort) := by rintro _ _ ⟨⟩
theorem HasMajor.marchEnd (fails : List (BitVec 8 × BitVec 16)) : HasMajor.Statement (.marchEnd fails) := by rintro _ _ ⟨⟩
theorem HasMajor.spadClear (v : BitVec 32) : HasMajor.Statement (.spadClear v) := by rintro _ _ ⟨⟩
theorem HasMajor.stallEnable : HasMajor.Statement (.stallEnable) := by rintro _ _ ⟨⟩
theorem HasMajor.stallDisable : HasMajor.Statement (.stallDisable) := by rintro _ _ ⟨⟩
theorem HasMajor.stallReset : HasMajor.Statement (.stallReset) := by rintro _ _ ⟨⟩
theorem HasMajor.stallFlushTimer (st : BitVec 15) : HasMajor.Statement (.stallFlushTimer st) := by rintro _ _ ⟨⟩
theorem HasMajor.pairIdleRelease (st : BitVec 15) : HasMajor.Statement (.pairIdleRelease st) := by rintro _ _ ⟨⟩
theorem HasMajor.stallSpillDone (st : BitVec 15) : HasMajor.Statement (.stallSpillDone st) := by rintro _ _ ⟨⟩
theorem HasMajor.stallRefillDone (st : BitVec 15) (errs : List RefillErr) : HasMajor.Statement (.stallRefillDone st errs) := by rintro _ _ ⟨⟩
theorem HasMajor.stallFwaitResume (st : BitVec 15) : HasMajor.Statement (.stallFwaitResume st) := by rintro _ _ ⟨⟩
theorem HasMajor.stallCloseWord (st : BitVec 15) : HasMajor.Statement (.stallCloseWord st) := by rintro _ _ ⟨⟩
theorem HasMajor.pioPush (v : BitVec 32) : HasMajor.Statement (.pioPush v) := by rintro _ _ ⟨⟩
theorem HasMajor.pioPop (v : BitVec 32) : HasMajor.Statement (.pioPop v) := by rintro _ _ ⟨⟩
theorem HasMajor.pioPopDone : HasMajor.Statement (.pioPopDone) := by rintro _ _ ⟨⟩
theorem HasMajor.stEcntClear (v : BitVec 32) : HasMajor.Statement (.stEcntClear v) := by rintro _ _ ⟨⟩
theorem HasMajor.stErrClear (v : BitVec 32) : HasMajor.Statement (.stErrClear v) := by rintro _ _ ⟨⟩
theorem HasMajor.rds (h : RingHdr) (ecc : EccEvent) : HasMajor.Statement (.rds h ecc) := by rintro _ _ ⟨⟩
theorem HasMajor.rdu (h : RingHdr) (ecc : EccEvent) : HasMajor.Statement (.rdu h ecc) := by rintro _ _ ⟨⟩
theorem HasMajor.upg (h : RingHdr) (ecc : EccEvent) : HasMajor.Statement (.upg h ecc) := by rintro _ _ ⟨⟩
theorem HasMajor.wb (h : RingHdr) (d : Line) : HasMajor.Statement (.wb h d) := by rintro _ _ ⟨⟩
theorem HasMajor.rdo (h : RingHdr) (ecc : EccEvent) : HasMajor.Statement (.rdo h ecc) := by rintro _ _ ⟨⟩
theorem HasMajor.wru (h : RingHdr) (d : Line) (ecc : EccEvent) : HasMajor.Statement (.wru h d ecc) := by rintro _ _ ⟨⟩
theorem HasMajor.atom (h : RingHdr) (d : Line) (ecc : EccEvent) : HasMajor.Statement (.atom h d ecc) := by rintro _ _ ⟨⟩
theorem HasMajor.ringBar (h : RingHdr) : HasMajor.Statement (.ringBar h) := by rintro _ _ ⟨⟩
theorem HasMajor.nrd (h : RingHdr) : HasMajor.Statement (.nrd h) := by rintro _ _ ⟨⟩
theorem HasMajor.nwr (h : RingHdr) (d : Line) : HasMajor.Statement (.nwr h d) := by rintro _ _ ⟨⟩
theorem HasMajor.ringReqReserved (h : RingHdr) (op : BitVec 5) : HasMajor.Statement (.ringReqReserved h op) := by rintro _ _ ⟨⟩
theorem HasMajor.ans (h : RingHdr) (d : Option Line) : HasMajor.Statement (.ans h d) := by rintro _ _ ⟨⟩
theorem HasMajor.ack (h : RingHdr) : HasMajor.Statement (.ack h) := by rintro _ _ ⟨⟩
theorem HasMajor.snoopTimeout (laddr : BitVec 40) : HasMajor.Statement (.snoopTimeout laddr) := by rintro _ _ ⟨⟩
theorem HasMajor.agentReadmit (v : BitVec 32) : HasMajor.Statement (.agentReadmit v) := by rintro _ _ ⟨⟩
theorem HasMajor.homeCntClear (v : BitVec 32) : HasMajor.Statement (.homeCntClear v) := by rintro _ _ ⟨⟩
theorem HasMajor.ringDurClear (v : BitVec 32) : HasMajor.Statement (.ringDurClear v) := by rintro _ _ ⟨⟩
theorem HasMajor.undefinedInstruction (c : Fin 4) (w : BitVec 32) : HasMajor.Statement (.undefinedInstruction c w) := by rintro _ _ ⟨⟩
theorem HasMajor.ifetchMissDone (c : Fin 4) (err : Burst) : HasMajor.Statement (.ifetchMissDone c err) := by rintro _ _ ⟨⟩
theorem HasMajor.ldlnDataArrive (c : Fin 4) (err : Burst) : HasMajor.Statement (.ldlnDataArrive c err) := by rintro _ _ ⟨⟩
theorem HasMajor.postedStoreDone (c : Fin 4) (err : Burst) : HasMajor.Statement (.postedStoreDone c err) := by rintro _ _ ⟨⟩
theorem HasMajor.start (c : Fin 4) : HasMajor.Statement (.start c) := by rintro _ _ ⟨⟩
theorem HasMajor.stop (c : Fin 4) : HasMajor.Statement (.stop c) := by rintro _ _ ⟨⟩
theorem HasMajor.contextReset (c : Fin 4) : HasMajor.Statement (.contextReset c) := by rintro _ _ ⟨⟩
theorem HasMajor.lnIcInvalidate (v : BitVec 32) : HasMajor.Statement (.lnIcInvalidate v) := by rintro _ _ ⟨⟩
theorem HasMajor.programRamWrite (word : BitVec 16) (v : BitVec 32) : HasMajor.Statement (.programRamWrite word v) := by rintro _ _ ⟨⟩
theorem HasMajor.dataRamWrite (word : BitVec 15) (v : BitVec 32) : HasMajor.Statement (.dataRamWrite word v) := by rintro _ _ ⟨⟩
theorem HasMajor.lantDurClear (c : Fin 4) (v : BitVec 32) : HasMajor.Statement (.lantDurClear c v) := by rintro _ _ ⟨⟩
theorem HasMajor.doorbell (q : Fin 4) (v : BitVec 32) : HasMajor.Statement (.doorbell q v) := by rintro _ _ ⟨⟩
theorem HasMajor.descriptorRead (q : Fin 4) : HasMajor.Statement (.descriptorRead q) := by rintro _ _ ⟨⟩
theorem HasMajor.nop (h : BitVec 12) : HasMajor.Statement (.nop h) := by rintro _ _ ⟨⟩
theorem HasMajor.train (h : BitVec 12) (failed : BitVec 4) : HasMajor.Statement (.train h failed) := by rintro _ _ ⟨⟩
theorem HasMajor.retrainTrack (h : BitVec 12) : HasMajor.Statement (.retrainTrack h) := by rintro _ _ ⟨⟩
theorem HasMajor.retrainCsca (h : BitVec 12) (failed : BitVec 4) : HasMajor.Statement (.retrainCsca h failed) := by rintro _ _ ⟨⟩
theorem HasMajor.retrainFull (h : BitVec 12) (failed : BitVec 4) : HasMajor.Statement (.retrainFull h failed) := by rintro _ _ ⟨⟩
theorem HasMajor.scrub (h : BitVec 12) (errs : List (Nat × Burst)) : HasMajor.Statement (.scrub h errs) := by rintro _ _ ⟨⟩
theorem HasMajor.march (h : BitVec 12) (fails : List Nat) : HasMajor.Statement (.march h fails) := by rintro _ _ ⟨⟩
theorem HasMajor.copy (h : BitVec 12) (errs : List (Nat × Burst)) : HasMajor.Statement (.copy h errs) := by rintro _ _ ⟨⟩
theorem HasMajor.fill (h : BitVec 12) : HasMajor.Statement (.fill h) := by rintro _ _ ⟨⟩
theorem HasMajor.checkpoint (h : BitVec 12) : HasMajor.Statement (.checkpoint h) := by rintro _ _ ⟨⟩
theorem HasMajor.warmVerify (h : BitVec 12) (errs : List (Nat × Burst)) : HasMajor.Statement (.warmVerify h errs) := by rintro _ _ ⟨⟩
theorem HasMajor.rowRepairSoft (h : BitVec 12) (freeResource : Bool) : HasMajor.Statement (.rowRepairSoft h freeResource) := by rintro _ _ ⟨⟩
theorem HasMajor.rowRepairHard (h : BitVec 12) : HasMajor.Statement (.rowRepairHard h) := by rintro _ _ ⟨⟩
theorem HasMajor.linkLoop (h : BitVec 12) : HasMajor.Statement (.linkLoop h) := by rintro _ _ ⟨⟩
theorem HasMajor.fence (h : BitVec 12) : HasMajor.Statement (.fence h) := by rintro _ _ ⟨⟩
theorem HasMajor.unfence (h : BitVec 12) : HasMajor.Statement (.unfence h) := by rintro _ _ ⟨⟩
theorem HasMajor.loadProgram (h : BitVec 12) (errs : List (Nat × Burst)) : HasMajor.Statement (.loadProgram h errs) := by rintro _ _ ⟨⟩
theorem HasMajor.fedTimeSetArm (h : BitVec 12) : HasMajor.Statement (.fedTimeSetArm h) := by rintro _ _ ⟨⟩
theorem HasMajor.fedTimeSetPulse (h : BitVec 12) : HasMajor.Statement (.fedTimeSetPulse h) := by rintro _ _ ⟨⟩
theorem HasMajor.fedTimeSetTrim (h : BitVec 12) : HasMajor.Statement (.fedTimeSetTrim h) := by rintro _ _ ⟨⟩
theorem HasMajor.completionPush (q : Fin 4) : HasMajor.Statement (.completionPush q) := by rintro _ _ ⟨⟩
theorem HasMajor.abort (v : BitVec 32) : HasMajor.Statement (.abort v) := by rintro _ _ ⟨⟩
theorem HasMajor.cfgFenceRequest (fp : Fin 32) : HasMajor.Statement (.cfgFenceRequest fp) := by rintro _ _ ⟨⟩
theorem HasMajor.cfgFenceRelease (fp : Fin 32) : HasMajor.Statement (.cfgFenceRelease fp) := by rintro _ _ ⟨⟩
theorem HasMajor.fenceDrained (fp : Fin 32) : HasMajor.Statement (.fenceDrained fp) := by rintro _ _ ⟨⟩
theorem HasMajor.fenceTimeout (fp : Fin 32) : HasMajor.Statement (.fenceTimeout fp) := by rintro _ _ ⟨⟩
theorem HasMajor.meterInterval (events : List (Fin 51 × Fin 3 × Nat)) : HasMajor.Statement (.meterInterval events) := by rintro _ _ ⟨⟩
theorem HasMajor.adcSample (code : BitVec 14) : HasMajor.Statement (.adcSample code) := by rintro _ _ ⟨⟩
theorem HasMajor.busTrip : HasMajor.Statement (.busTrip) := by rintro _ _ ⟨⟩
theorem HasMajor.busClear : HasMajor.Statement (.busClear) := by rintro _ _ ⟨⟩
theorem HasMajor.reserveLowTrip : HasMajor.Statement (.reserveLowTrip) := by rintro _ _ ⟨⟩
theorem HasMajor.reserveRelease : HasMajor.Statement (.reserveRelease) := by rintro _ _ ⟨⟩
theorem HasMajor.powerFailConfirm : HasMajor.Statement (.powerFailConfirm) := by rintro _ _ ⟨⟩
theorem HasMajor.pfFlushDone : HasMajor.Statement (.pfFlushDone) := by rintro _ _ ⟨⟩
theorem HasMajor.pfCommit : HasMajor.Statement (.pfCommit) := by rintro _ _ ⟨⟩
theorem HasMajor.gaugeRebase : HasMajor.Statement (.gaugeRebase) := by rintro _ _ ⟨⟩
theorem HasMajor.packRemoval : HasMajor.Statement (.packRemoval) := by rintro _ _ ⟨⟩
theorem HasMajor.packReturn : HasMajor.Statement (.packReturn) := by rintro _ _ ⟨⟩
theorem HasMajor.chargerAdjust : HasMajor.Statement (.chargerAdjust) := by rintro _ _ ⟨⟩
theorem HasMajor.plannerRun : HasMajor.Statement (.plannerRun) := by rintro _ _ ⟨⟩
theorem HasMajor.busReturnResume : HasMajor.Statement (.busReturnResume) := by rintro _ _ ⟨⟩
theorem HasMajor.plnSlotpWrite (v : BitVec 32) : HasMajor.Statement (.plnSlotpWrite v) := by rintro _ _ ⟨⟩
theorem HasMajor.bbrWrite (word : BitVec 10) (v : BitVec 32) : HasMajor.Statement (.bbrWrite word v) := by rintro _ _ ⟨⟩
theorem HasMajor.energyReadLatch (which : Fin 3) : HasMajor.Statement (.energyReadLatch which) := by rintro _ _ ⟨⟩
theorem HasMajor.vbatLoss : HasMajor.Statement (.vbatLoss) := by rintro _ _ ⟨⟩
theorem HasMajor.idleE1 : HasMajor.Statement (.idleE1) := by rintro _ _ ⟨⟩
theorem HasMajor.idleE2 : HasMajor.Statement (.idleE2) := by rintro _ _ ⟨⟩
theorem HasMajor.wakeE0 (src : ReqSrc) : HasMajor.Statement (.wakeE0 src) := by rintro _ _ ⟨⟩
theorem HasMajor.enterE1 (src : ReqSrc) : HasMajor.Statement (.enterE1 src) := by rintro _ _ ⟨⟩
theorem HasMajor.enterE2 (src : ReqSrc) : HasMajor.Statement (.enterE2 src) := by rintro _ _ ⟨⟩
theorem HasMajor.enterE3 (src : ReqSrc) : HasMajor.Statement (.enterE3 src) := by rintro _ _ ⟨⟩
theorem HasMajor.enterE4 (src : ReqSrc) : HasMajor.Statement (.enterE4 src) := by rintro _ _ ⟨⟩
theorem HasMajor.entryCommit (t : TransId) : HasMajor.Statement (.entryCommit t) := by rintro _ _ ⟨⟩
theorem HasMajor.stateReached : HasMajor.Statement (.stateReached) := by rintro _ _ ⟨⟩
theorem HasMajor.prepTimeout (t : TransId) : HasMajor.Statement (.prepTimeout t) := by rintro _ _ ⟨⟩
theorem HasMajor.wakeSource (w : WakeSrc) : HasMajor.Statement (.wakeSource w) := by rintro _ _ ⟨⟩
theorem HasMajor.e3ExitDone : HasMajor.Statement (.e3ExitDone) := by rintro _ _ ⟨⟩
theorem HasMajor.domainOn (v : BitVec 32) : HasMajor.Statement (.domainOn v) := by rintro _ _ ⟨⟩
theorem HasMajor.domainOff (v : BitVec 32) : HasMajor.Statement (.domainOff v) := by rintro _ _ ⟨⟩
theorem HasMajor.domainOnDone (d : Fin 50) : HasMajor.Statement (.domainOnDone d) := by rintro _ _ ⟨⟩
theorem HasMajor.portOff (p : Fin 20) (src : ReqSrc) : HasMajor.Statement (.portOff p src) := by rintro _ _ ⟨⟩
theorem HasMajor.portOn (p : Fin 20) (src : ReqSrc) : HasMajor.Statement (.portOn p src) := by rintro _ _ ⟨⟩
theorem HasMajor.portSelfRefresh (p : Fin 20) (src : ReqSrc) : HasMajor.Statement (.portSelfRefresh p src) := by rintro _ _ ⟨⟩
theorem HasMajor.portWake (p : Fin 20) (src : ReqSrc) : HasMajor.Statement (.portWake p src) := by rintro _ _ ⟨⟩
theorem HasMajor.portReset (p : Fin 20) (src : ReqSrc) : HasMajor.Statement (.portReset p src) := by rintro _ _ ⟨⟩
theorem HasMajor.softReset : HasMajor.Statement (.softReset) := by rintro _ _ ⟨⟩
theorem HasMajor.softResetTimeout : HasMajor.Statement (.softResetTimeout) := by rintro _ _ ⟨⟩
theorem HasMajor.engineReset : HasMajor.Statement (.engineReset) := by rintro _ _ ⟨⟩
theorem HasMajor.engineResetRelease : HasMajor.Statement (.engineResetRelease) := by rintro _ _ ⟨⟩
theorem HasMajor.powerOnReset : HasMajor.Statement (.powerOnReset) := by rintro _ _ ⟨⟩
theorem HasMajor.supplyFailure : HasMajor.Statement (.supplyFailure) := by rintro _ _ ⟨⟩
theorem HasMajor.pwrCntClear (v : BitVec 32) : HasMajor.Statement (.pwrCntClear v) := by rintro _ _ ⟨⟩
theorem HasMajor.registerWrite (off : BitVec 22) (bytes : Fin 9) (v : BitVec 32) : HasMajor.Statement (.registerWrite off bytes v) := by rintro _ _ ⟨⟩
theorem HasMajor.globalBoundary : HasMajor.Statement (.globalBoundary) := by rintro _ _ ⟨⟩
theorem HasMajor.portBoundary (p : Fin 20) : HasMajor.Statement (.portBoundary p) := by rintro _ _ ⟨⟩
theorem HasMajor.stallPacketBoundary (st : BitVec 15) : HasMajor.Statement (.stallPacketBoundary st) := by rintro _ _ ⟨⟩
theorem HasMajor.cfgApplyHold (v : BitVec 32) : HasMajor.Statement (.cfgApplyHold v) := by rintro _ _ ⟨⟩
theorem HasMajor.cfgCommit (v : BitVec 32) : HasMajor.Statement (.cfgCommit v) := by rintro _ _ ⟨⟩
theorem HasMajor.crcPassEnd : HasMajor.Statement (.crcPassEnd) := by rintro _ _ ⟨⟩
theorem HasMajor.cfgRejClear (v : BitVec 32) : HasMajor.Statement (.cfgRejClear v) := by rintro _ _ ⟨⟩
theorem HasMajor.intSet (hi : Bool) (v : BitVec 32) : HasMajor.Statement (.intSet hi v) := by rintro _ _ ⟨⟩
theorem HasMajor.initialTrainingDone (p : Fin 20) (failed : BitVec 4) (timing : List (BitVec 32)) : HasMajor.Statement (.initialTrainingDone p failed timing) := by rintro _ _ ⟨⟩
theorem HasMajor.linkUpTimeout (p : Fin 20) : HasMajor.Statement (.linkUpTimeout p) := by rintro _ _ ⟨⟩
theorem HasMajor.laneLockAcquired (p : Fin 20) (lane : Fin 9) : HasMajor.Statement (.laneLockAcquired p lane) := by rintro _ _ ⟨⟩
theorem HasMajor.data (h : RingHdr) (d : Line) : HasMajor.Statement (.data h d) := by rintro _ _ ⟨⟩
theorem HasMajor.tsCntClear (p : Fin 20) (v : BitVec 32) : HasMajor.Statement (.tsCntClear p v) := by rintro _ _ ⟨⟩
theorem HasMajor.linkLoopDone (p : Fin 20) (bitErrors : BitVec 64) : HasMajor.Statement (.linkLoopDone p bitErrors) := by rintro _ _ ⟨⟩
theorem HasMajor.portStoppingDone (p : Fin 20) : HasMajor.Statement (.portStoppingDone p) := by rintro _ _ ⟨⟩

end Sys2Proof.Laws
end

