-- ==== Sys2Proof/Tests/Slice0.lean ====
section
/-!
SUPPORT. Tests: well-formed commands, single steps against values of the spec, its worked examples, and for every statement with
hypotheses states and operands that meet them, clause by clause.
-/

namespace Sys2Proof.Tests
open Sys2Proof Sys2Proof.Machine

set_option maxRecDepth 4000
set_option Elab.async false
set_option linter.unusedVariables false

/-! ### States -/


/-- Context 0 at offset 0 of its window, with the word w there and the rest as in x. -/
def core (x : Ctx) (w : Word) : State := { State.reset with
  lant := {
    ctx := [(0, { x with st := .running })]
    prog := [(0, w.extractLsb' 0 8), (1, w.extractLsb' 8 8), (2, w.extractLsb' 16 8), (3, w.extractLsb' 24 8)] } }

/-- The same for user context 1, whose program window is the 4 KiB behind context 0's. -/
def user (x : Ctx) (w : Word) : State := { State.reset with
  lant := {
    ctx := [(0, {}), (1, { x with st := .running, prgSize := 1 })]
    prog := [(0x20000, w.extractLsb' 0 8), (0x20001, w.extractLsb' 8 8), (0x20002, w.extractLsb' 16 8), (0x20003, w.extractLsb' 24 8)] } }

/-- General registers 1 and 2. -/
def regs (a b : W64) : Ctx := { g := [(1, a), (2, b)] }
/-- Context 0 with register 1 at 15, where that byte of data RAM has wrong parity. -/
def loadBad (w : Word) : State := let s := core (regs 15 0) w; { s with lant := { s.lant with dataBad := [15] } }
/-- Port 0 in service with one DIMM, and interleave set 0 mapping the lowest 16 GiB to it. -/
def served (s : State) : State :=
  setFld IS_CTL_EN 0 1 (setFld IS_SIZE_SIZE_G 0 16 (setFld DP_STAT_PRESENT 0 1 (setFld DP_POP_CAP_G 0 16 (setPstate 0 .service s))))
/-- Stall 5 on, produced and consumed by context 0, with no redirection. -/
def stalled (s : State) (rew : BitVec 32 := 0) : State := { s with stalls := [(5, { st := .on, cfg0 := 0x202000 + rew })] }
/-- Context 0 waits for the count to reach v. -/
def waitsCount (v : W64) : State := { State.reset with lant := { ctx := [(0, { st := .waiting, wait := .count v })] } }
/-- A launch list of n empty records stands at data RAM offset 0. -/
def listed (n : Byte) (s : State) : State := { s with lant := { s.lant with data := [(0, n)] } }
/-- Handle slot 0 runs, with its first generation. -/
def handled (s : State) : State := { s with host := { s.host with handles := [(0, { st := .running, gen := 1 })] } }
/-- Serial port p has a DIMM. -/
def fitted (p : Nat) (s : State) : State := setFld SP_STAT_PRESENT p 1 (setFld SP_POP_CAP_G p 16 s)
/-- An access of the given kind whose result has come. -/
def came (kind : Nat) : LAcc := { num := 1, kind := kind, addr := 64, dat := 3, res := some {} }
/-- The result of context 0's only access, of the given kind, has come; the context waits as w says. -/
def arrived (kind : Nat) (w : CtxWait) : State := { State.reset with lant := { ctx := [(0, { st := .waiting, wait := w, acc := [came kind] })] } }
/-- A request word with tag 9. -/
def word (addr : BitVec 46) (len : BitVec 6 := 0) (size : BitVec 3 := 0) (aop : BitVec 4 := 0) : ReqWord :=
  { addr := addr, len := len, tag := 9, tkt := 0, dlv := false, dl := 0, size := size, aop := aop, rsvd := 0 }
/-- Fabric port 0 with its clock good and f as its record, over the memory of `served`. -/
def fabbed (f : FabPort) : State := setFld FP_STATUS_CLK_OK 0 1 (served { State.reset with fab := [(0, f)] })
/-- Fabric port 0 with tallies, and stall 5 its own on both sides. -/
def fabStall (cfg0 : Word) : State := { fabbed { reqTly := 1, wdTly := 4 } with stalls := [(5, { st := .on, cfg0 := cfg0 })] }
/-- n beats are owed to request 7. -/
def owes (n : Nat) : BeatOwed := { req := some 7, left := n }
/-- A request of fabric port 0 that was accepted. -/
def asked (opc : BitVec 5) (w : ReqWord) : FabReq := { id := 7, opc := opc, w := w, attr := {}, lines := List.replicate (w.len.toNat + 1) {} }
/-- A read of the line at local address 0. -/
def rd0 : SubReq := { id := 3, owner := .post, la := 0, kind := .read }
/-- Port 0 of `served` with the scheduler q. -/
def sched (q : Sched) : State := modSched 0 (fun _ => q) (served State.reset)
/-- The column command that rd0 offers where its row is open. -/
def rdCand : Cand := { band := 12, tick := 0, op := .rd, loc := {}, pick := .req rd0, wr := some false, hit := true }
/-- The read rd0 in flight. -/
def fl0 : Flight := { id := 4, req := rd0, sub := 0 }
/-- The same for a request of kind k. -/
def flK (k : SubKind) (poison : Bool := false) : Flight := { fl0 with req := { rd0 with kind := k }, poison := poison }
/-- A row in its first copy, with n lines copied. -/
def copying (n : Nat) : Remap := { key := 0, st := .copy, copied := n }
/-- A merge entry of one byte. -/
def one : Merge := { la := 0, data := 5, be := 1, opened := 0 }
/-- A command of request r, issued at time 0. -/
def iss (o : Op) (r : SubReq) : Issued := { seq := 5, clk := 0, off := 0, op := o, loc := {}, req := some r }
/-- A write of a whole line at local address 0. -/
def wr0 : SubReq := { rd0 with kind := .write 9 allBytes false }
def pause (kind rank len : Nat) : Pause := { kind := kind, rank := rank, len := len, due := 0 }
/-- The state s at time t. -/
def at' (t : Nat) (s : State) : State := { s with clk := t }
/-- Entry 31 of port 0's merge buffer. -/
def merging (m : Merge) : State := modProt 0 (fun x => { x with merge := [(31, m)] }) (served State.reset)
/-- Stall 0 is x, in the memory of `served`. -/
def stallIn (x : Stall) : State := { served State.reset with stalls := [(0, x)] }
/-- The post unit produces and consumes. -/
def post0 : Stall := { st := .on, cfg0 := 0x252500 }
/-- A header of stop 5 to this engine's home, for line n. -/
def hdr (n : BitVec 40) (be : BitVec 64 := 0) (arg : BitVec 8 := 0) (off : BitVec 6 := 0) (poison : Bool := false) : RingHdr :=
  { src := 5, dst := 0, txn := 1, rqs := 0, rqt := 0, laddr := n, state := 0, sts := 0, poison := poison, dirty := false, fwd := false, note := false,
    nodata := false, hold := 0, arg := arg, off := off, rsvdLo := 0, be := be, rsvdHi := 0 }
/-- Stop 5 answers that it forwards line 64. -/
def answer : RingHdr := { hdr 64 with fwd := true, state := 4 }
/-- Stop 5 is an enabled agent, over the memory of `served`. -/
def ring : State := setFld HOME_AGT_EN_EN 0 0x20 (served State.reset)
/-- A request of the home. -/
def hreq (k : HKind) (p : HPhase) : HomeReq := { id := 7, kind := k, line := 64, stop := 5, phase := p }
def asks6 : HomeReq := { hreq .rds .snoop with stop := 6, await := [5] }
def fwd6 : HomeReq := { hreq .read .snoop with stop := 6, fwdBy := some 5 }
def granted5 : HomeReq := { hreq .rds .ack with granted := true }
def homed (r : HomeReq) : State := { ring with home := { reqs := [r] } }
/-- Serial port 4 in service over eight lanes, with the link record k. -/
def linked (k : Link := {}) : State :=
  modLink 4 (fun _ => k) (setFld SL_STAT_LSTATE 4 0 (setFld SL_STAT_WIDTH 4 1 (setPstate 4 .service (fitted 4 State.reset))))
/-- Time mark record m of that port. -/
def marked (m : Marks) : State := modMarks 4 (fun _ => m) linked
/-- A port action on port 0, and a stream of one line. -/
def act0 : Act := { act := 1, port := 0, off := 0, w1 := 0, w2 := 0, w3 := 0 }
def streamAct : Act := { act := 2, port := 0, off := 0, w1 := 0, w2 := 0x100000001, w3 := 0 }
def stream0 : Stream := { id := 1, t := 0, act := streamAct }
def launched (x : Act) : State := { State.reset with tb := { launches := [(7, { t := 0, acts := [x] })] } }
/-- A DIMM as the sideband reads it. -/
def dimm (width : Nat := 4) (density : Nat := 16) (present : Bool := true) (readable : Bool := true) (rdimm : Bool := true) : SpdSlot :=
  { present := present, readable := readable, rdimm := rdimm, width := width, density := density, pranks := 1, height := 1, maxSpd := 8000, dfe := true }
/-- Port p in state x. -/
def inState (p : Nat) (x : PState) : State := setPstate p x State.reset
def held0 : Act := { act0 with held := true }
def dimmStates (d : DramSt) : State := modDram 0 (fun _ => d) (served State.reset)
def lanes9 : SMap Lane := (List.range 9).map fun j => (j, { healthy := true })
def soak (ok : Bool) : SoakResult := { locked := ok, uncorrectable := 0, symbols := 0, agree := true, width := 0xFFF, height := 0x3FF, resid := 0 }
/-- Serial port 4 in state x, with the link record k. -/
def linkedIn (x : PState) (k : Link := {}) : State := setPstate 4 x (linked k)
/-- A measurement of step x, kind k. -/
def meas (x : BitVec 4) (k : Fin 3) (r : Int := 5) : Meas := { step := x, kind := k, ch := 0, sub := 0, rank := 0, bit := 0, r1 := r, r2 := r, width := 0xFFF, height := 0x3FF, resid := 0 }
def paused (x : Pause) : State := modSched 0 (fun q => { q with pause := some (x, 0) }) (served State.reset)
def badLanes : SMap Lane := [(0, { bad := true }), (15, { bad := true })]
def zqRun : SMap RankSt := (rankLocs ⟨0, 0, 0, 0⟩).foldl (fun m l => mput m (rankKey l) { zqStart := some 0 }) []
/-- The read rd0 in flight on serial port 4. -/
def flying : State := modSched 4 (fun q => { q with flight := [fl0] }) linked
/-- Its command, not yet known good. -/
def issued4 : State := modSched 4 (fun q => { q with retry := [iss .rd rd0] }) linked
/-- A mode register read of stamp 9 went out on serial port 4. -/
def read4 : State := modSched 4 (fun q => { q with subs := [(0, { hist := [{ iss .mrr rd0 with stamp := 0 }] })] }) linked
/-- Item (meas 5 0) of port 0 holds 5. -/
def known : State := modTrain 0 (fun t => { t with items := [(itemKey (meas 5 0), { val := 5 })] }) (served State.reset)
/-- Slot 7 holds a queued command with opcode n and the given arguments, over s. -/
def cmd (n : BitVec 8) (args : List (BitVec 64)) (s : State := served State.reset) : State :=
  { s with host := { s.host with handles := [(7, { st := .queued, opc := n, items := n.setWidth 64 :: args })] } }
/-- Queue 0 on, with its command and completion stalls x. -/
def queue (q : HQueue) (x : Stall := { post0 with wpos := 1 }) : State :=
  { setFld HC_QCFG_EN 0 1 (stallIn x) with host := { queues := [(0, q)], handles := [(0, { st := .bound, gen := 1 })] } }
/-- A command word: NOP with the tag of a whole packet, or a word of another shape. -/
def nopWord (tag : BitVec 16 := 0x1C0) : SWord := { data := 1, tag := tag }
/-- The battery-backed words of a committed image, with the CRC in word 2. -/
def img (crc : Nat) : State := { State.reset with bbr := [(0, 0xC3A5), (2, BitVec.ofNat 32 crc), (3, 1)] }
/-- The image of a power-fail sequence is committed. -/
def flagged : State := img (imageCrc (img 0))

theorem img_high (crc i : Nat) : bbrWord (img crc) (0x10 + i) = 0 := by
  have h : ∀ n : Nat, n ≤ 3 → ¬ n = 16 + i := by omega
  simp [bbrWord, mgetD, img, mget, h]

theorem crcBit_lt (c : Nat) (h : c < 2 ^ 32) : crcBit c < 2 ^ 32 := by
  unfold crcBit
  split
  · exact Nat.xor_lt_two_pow (by omega) (by decide)
  · omega

theorem crc32c_lt (l : List Nat) (h : ∀ b ∈ l, b < 2 ^ 32) : crc32c l < 2 ^ 32 := by
  have : ∀ (l : List Nat) (c : Nat), (∀ b ∈ l, b < 2 ^ 32) → c < 2 ^ 32 → l.foldl crcByte c < 2 ^ 32 := by
    intro l
    induction l with
    | nil => intro c _ hc; exact hc
    | cons b l ih =>
      intro c hb hc
      refine ih _ (fun x hx => hb x (by simp [hx])) ?_
      have := Nat.xor_lt_two_pow hc (hb b (by simp))
      unfold crcByte
      repeat apply crcBit_lt
      exact this
  exact Nat.xor_lt_two_pow (this l _ h (by decide)) (by decide)

theorem img_low (crc : Nat) : bbrWord (img crc) 0 = 0xC3A5 ∧ bbrWord (img crc) 2 = crc % 2 ^ 32 ∧ bits (bbrWord (img crc) 3) 0 1 = 1 :=
  ⟨rfl, BitVec.toNat_ofNat _ _, rfl⟩

theorem flagged_committed : committed flagged = true := by
  have h : ∀ c, imageCrc (img c) = imageCrc (img 0) := fun c => by simp only [imageCrc, img_high]
  have l : imageCrc (img 0) < 2 ^ 32 := crc32c_lt _ fun b hb => by
    simp only [List.mem_flatMap, leBytes, List.mem_map, bits] at hb
    obtain ⟨_, _, _, _, rfl⟩ := hb
    omega
  have k : ∀ c, imageCrc (img 0) = c → c < 2 ^ 32 → committed (img c) = true := fun c e b => by
    obtain ⟨x, y, z⟩ := img_low c
    simp only [committed, h, e, x, y, z, Nat.mod_eq_of_lt b, decide_true, Bool.and_self]
  exact k _ rfl l
theorem passTicks_clk (s : State) (c : Nat) : passTicks { s with clk := c } = passTicks s := rfl
/-- s at the time at which a pass that began at time 0 ends. -/
def passing (s : State) : State := { s with clk := passTicks s }
theorem passing_due (s : State) (h : s.cfg.crcAt = 0) : (passing s).cfg.crcAt + passTicks (passing s) ≤ (passing s).clk := by
  show s.cfg.crcAt + passTicks { s with clk := passTicks s } ≤ passTicks s
  rw [passTicks_clk, h, Nat.zero_add]
def en (e : Energy) : State := { State.reset with en := e }
/-- The engine in state n, and what else the power controller holds. -/
def pw (w : Power) : State := { State.reset with pw := w }
/-- A confirmed trip of the bus comparator. -/
def tripped (w : Power := {}) : State := setFld PF_CTL_EN 0 1 (at' 400 { en { busTrip := true } with pw := w })
/-- Every context stopped. -/
def still (w : Power := {}) : State := { pw w with lant := {} }
/-- A transition to engine state n, asked for by register; run: past its commit point. -/
def trans (n : BitVec 3) (run : Bool := false) (steps : Nat := 0) (wake : Bool := false) : EngTrans :=
  { tgt := n, src := .reg, start := 0, run := run, steps := steps, wake := wake }
def ptrans (op : BitVec 3) : PortTrans := { op := op, src := .reg, start := 0 }
/-- Port 0 in service with a transition of its own. -/
def portMoves (op : BitVec 3) (s : State := served State.reset) : State := { s with pw := { ports := [(0, { cur := some (ptrans op) })] } }
/-- The rows of the register table for FP_CTL of the fabric ports and for the first interrupt status word. -/
def fpCtl : RegDesc := { base := 786432, stride := 4096, first := 0, count := 32, rst := 4259586, rs := 8388595, rw := 0, w1c := 0, wo := 0, checks := [{ lo := 16, w := 7, min := 1, max := 64, reason := 1 }] }
def intStat : RegDesc := { base := 256, stride := 0, first := 0, count := 1, rst := 0, rs := 0, rw := 0, w1c := 4294967295, wo := 0, checks := [] }

/-! ### Well-formed commands: each check refuses an ill-formed term -/

/-- Rows of the serial ports, given to the direct port D0. -/
def serialOnly : List Instr :=
  [.timeMarkStart 0 0, .timeMarkAnswer 0 0 0 0 false, .linkup 0 0 0, .laneLockLoss 0 0, .laneWeak 0 0 0 0, .spareSwitch 0 false,
   .takeoverTimeout 0 false, .recalTurn 0 false, .recalReturn 0 false [], .relink 0 0, .linkTimeout 0, .rateChange 0, .packetCrcFail 0,
   .nakRepeat 0, .nak 0 0, .creditAck 0 0 0, .packetReserved 0, .readDataPacket 0 0 0 false 0, .readDataLost 0 0, .refuse 0 0 0 0]
theorem wf_serial_rows : serialOnly.all (fun i => !wellFormed i) = true := by decide +kernel
theorem wf_serial_rows2 :
  [Instr.cap 0 0 0, .err 0 0 0 0 0, .alertPacket 0 false false 0, .temp 0 0 0, .laneFault 0 0 false, .regData 0 0 0, .mrrData 0 0 0 0, .pwr 0 0,
   .resume 0 0 0 false, .codeUpdate 0, .slCntClear 0 0, .laneSoak 0 0 (soak true), .driftClamp 0 0, .linkUpTimeout 0, .laneLockAcquired 0 0,
   .linkLoopDone 0 0].all (fun i => !wellFormed i) = true := by
  decide +kernel
/-- Rows of the direct ports, given to the serial port S0. -/
theorem wf_direct_rows : [Instr.alert 4, .alertRise 4 0, .dimmTempPoll 4 none none].all (fun i => !wellFormed i) = true := by decide +kernel
/-- A measurement of no step, and a failed step beyond Table 8.3. -/
theorem wf_steps : [Instr.recalReturn 4 false [meas 0 0], .trackReadPause 0 [meas 13 0], .trackWritePause 0 [meas 0 0] 0 0,
    .trackOscPause 0 [meas 0 0], .train 0 13, .retrainCsca 0 13, .retrainFull 0 13, .initialTrainingDone 0 13 []].all
    (fun i => !wellFormed i) = true := by decide +kernel
/-- A good training gives nine timing words. -/
theorem wf_timing : wellFormed (.initialTrainingDone 0 0 [1, 2]) = false := by decide
/-- Defined opcodes are no reserved ones. -/
theorem wf_reserved : wellFormed (.reqReservedOpcode 0 0xA (word 0)) = false ∧ wellFormed (.ringReqReserved (hdr 0) 10) = false := by decide
/-- At most four DIMMs, of one or two package ranks. -/
theorem wf_spd : wellFormed (.spdReadDone 0 (List.replicate 5 dimm)) = false ∧ wellFormed (.spdReadDone 0 [{ dimm with pranks := 3 }]) = false := by
  decide
/-- A march names groups of Table 9.7 only, each row once; a refill and a meter interval name each word and unit once. -/
theorem wf_lists : [Instr.marchEnd [(0x79, 0)], .march 0 [3, 3], .stallRefillDone 0 [⟨1, false, 0⟩, ⟨1, true, 0⟩],
    .meterInterval [(0, 0, 1), (0, 0, 2)]].all (fun i => !wellFormed i) = true := by decide +kernel
/-- GO and ON select the row of a domain switch; a write has bytes; COMMIT makes the row of a commit. -/
theorem wf_values : [Instr.domainOn 0x40, .domainOn 0x80000000, .domainOff 0x80000040, .domainOff 0, .registerWrite 0 0 0, .cfgCommit 1].all
    (fun i => !wellFormed i) = true := by decide +kernel
/-- And a command of each kind passes. -/
theorem wf_good : [Instr.linkTimeout 4, .alert 0, .trackReadPause 0 [meas 5 0], .train 0 0xC, .reqReservedOpcode 0 0xB (word 0),
    .ringReqReserved (hdr 0) 11, .spdReadDone 0 [dimm], .march 0 [3, 4], .domainOn 0x80000069, .domainOff 0x80000029, .registerWrite 0 4 0,
    .cfgCommit 2].all wellFormed = true := by decide +kernel

/-! ### Lantern words, bit by bit (chapter 12) -/

/-- Loads and stores, line and special forms, jumps. -/
theorem word_lb : decodeLant 1 0b100100_00011_00001_0000000000001000#32 = some (.lb 1 3 1 8) := by decide +kernel
theorem word_jal : decodeLant 1 0b010111_00000000000000000000000100#32 = some (.jal 1 4) := by decide +kernel
theorem word_undefined : decodeLant 1 0b111111_00000000000000000000000000#32 = none := by decide +kernel

/-! ### Commands -/

/-- What a command of one step leaves, where it answers a next state. -/
def after (i : Instr) (s : State) (f : State → Bool) : Bool :=
  match step { s with pending := [i] } with
  | .next t => f t
  | _ => false

def gOf (t : State) (k : BitVec 5) : W64 := gpr (ctxOf t 0) k

/-- ADD wraps and SUB borrows (Table 12.4). -/
theorem test_add_wraps : after (.add 0 3 1 2 0 0) (core (regs 0xFFFFFFFFFFFFFFFF 1) (encR 1 3 1 2 0 0 0)) (fun t => gOf t 3 == 0) = true := by
  decide +kernel
theorem test_sub_borrows : after (.sub 0 3 1 2 0 0) (core (regs 0 1) (encR 1 3 1 2 0 0 1)) (fun t => gOf t 3 == 0xFFFFFFFFFFFFFFFF) = true := by
  decide +kernel
/-- Register 0 discards a result. -/
theorem test_add_r0 : after (.add 0 0 1 2 0 0) (core (regs 5 1) (encR 1 0 1 2 0 0 0)) (fun t => gOf t 0 == 0) = true := by decide +kernel
/-- SRA keeps the sign, SRL does not. -/
theorem test_sra_sign : after (.sra 0 3 1 2 0 0) (core (regs 0x8000000000000000 63) (encR 1 3 1 2 0 0 8)) (fun t => gOf t 3 == 0xFFFFFFFFFFFFFFFF) = true := by
  decide +kernel
theorem test_srl_zeros : after (.srl 0 3 1 2 0 0) (core (regs 0x8000000000000000 63) (encR 1 3 1 2 0 0 7)) (fun t => gOf t 3 == 1) = true := by
  decide +kernel
/-- SLT is signed, SLTU is not. -/
theorem test_slt_signed : after (.slt 0 3 1 2 0 0) (core (regs 0xFFFFFFFFFFFFFFFF 1) (encR 1 3 1 2 0 0 9)) (fun t => gOf t 3 == 1) = true := by
  decide +kernel
theorem test_sltu_unsigned : after (.sltu 0 3 1 2 0 0) (core (regs 0xFFFFFFFFFFFFFFFF 1) (encR 1 3 1 2 0 0 10)) (fun t => gOf t 3 == 0) = true := by
  decide +kernel
/-- MULH of minus one by minus one is 0. -/
theorem test_mulh_signed : after (.mulh 0 3 1 2 0 0) (core (regs 0xFFFFFFFFFFFFFFFF 0xFFFFFFFFFFFFFFFF) (encR 1 3 1 2 0 0 0x11)) (fun t => gOf t 3 == 0) = true := by
  decide +kernel
/-- ADDI extends the sign of its immediate. -/
theorem test_addi_sign : after (.addi 0 3 1 0xFFFF) (core (regs 5 0) (encI 2 3 1 0xFFFF)) (fun t => gOf t 3 == 4) = true := by decide +kernel
/-- A taken BEQ goes to its own address plus four times the offset; a BNE that is not taken goes on. -/
theorem test_beq_back : after (.beq 0 1 2 2) (core (regs 5 5) (encB 0x11 1 2 2)) (fun t => (ctxOf t 0).pc == 8) = true := by decide +kernel
theorem test_bne_falls : after (.bne 0 1 2 2) (core (regs 5 5) (encB 0x12 1 2 2)) (fun t => (ctxOf t 0).pc == 4) = true := by decide +kernel
/-- LB extends the sign, LBU extends zeros; data RAM begins at offset 0 of segment 3. -/
def ram (w : Word) : State := listed 0x80 (core (regs 0 0) w)
theorem test_lb_sign : after (.lb 0 3 1 0) (ram (encI 0x24 3 1 0)) (fun t => gOf t 3 == 0xFFFFFFFFFFFFFF80) = true := by decide +kernel
theorem test_lbu_zeros : after (.lbu 0 3 1 0) (ram (encI 0x20 3 1 0)) (fun t => gOf t 3 == 0x80) = true := by decide +kernel
/-- SH stores the low byte at the lower address. -/
theorem test_sh_order : after (.sh 0 2 1 8) (core (regs 0 0x1234) (encI 0x29 2 1 8)) (fun t => t.lant.data == [(8, 0x34), (9, 0x12)]) = true := by
  decide +kernel
/-- An idle engine counts the edge (R110). -/
theorem test_tick_counts : step State.reset = .next (idleTick State.reset) ∧ (idleTick State.reset).count = 1 := ⟨rfl, by decide +kernel⟩
/-- INT_SET raises cause 5, and one written to INT_STAT0 clears it again (R472). -/
theorem test_intSet : after (.intSet 0 0x20) State.reset (fun t => plainWord t 0x100 == 0x20) = true := by decide +kernel
theorem test_intClear : after (.registerWrite 0x100 4 0x20) (raise 5 State.reset) (fun t => plainWord t 0x100 == 0) = true := by decide +kernel
/-- A write of 8 bytes is rejected: WIDTH, 0x7 (Table 17.5). -/
theorem test_write_width : after (.registerWrite 0x200 8 1) State.reset (fun t => fld t CFG_REJ_REASON == 7 && fld t CFG_REJ_COUNT == 1) = true := by
  decide +kernel

/-! ### The spec's worked examples -/

/-- Set IS1 of Table 2.8: S0 to S7, 4 KiB chunks, from 4096 GiB. -/
def is1 (hash : Nat) : State :=
  let s := setFld IS_CTL_GRAN 1 4 (setFld IS_CTL_NLOG 1 3 (setFld IS_CTL_HASH 1 hash (setFld IS_CTL_EN 1 1 State.reset)))
  let t := setFld IS_BASE_BASE_G 1 4096 (setFld IS_SIZE_SIZE_G 1 16384 s)
  (List.range 8).foldl (fun u m => setWord (0x28110 + 4 * m) (4 + m) u) t
/-- The read of VX-31: member 7 at 0x6A40, with hashing member 1 at the same local address. -/
theorem test_decode_plain : target (is1 0) 0x040000037A40 = .dram 11 0x6A40 := by decide +kernel
theorem test_decode_hashed : target (is1 1) 0x040000037A40 = .dram 5 0x6A40 := by decide +kernel

/-- The DIMM under Table 6.2: 512 GiB. -/
theorem test_dimm_capacity : spdGib { dimm 4 64 with pranks := 2, height := 2 } = 512 := by decide

/-- Stall 291 of the worked example: its fetch grants 256 tallies. -/
def stall291 : Stall := { st := .on, cfg1 := BitVec.ofNat 32 (5 * 2 ^ 25) }
theorem test_tally_grant : (tallyFetch 291 { State.reset with stalls := [(291, stall291)] }).1 = BitVec.ofNat 512 (256 + 256 * 2 ^ 64) := by
  decide +kernel

/-- The check value of the CRC (R466). -/
theorem test_crc_check : crc32c [0x31, 0x32, 0x33, 0x34, 0x35, 0x36, 0x37, 0x38, 0x39] = 0xE3069283 := by decide +kernel

/-- The test head of chapter 14: 36 TiB in service, and the pack of the worked example with charge q in C. -/
def testHead (q : Nat) : State :=
  let s := setFld PLN_CTL_EN 0 1 (setFld PLN_CTL_DRST_HOLD 0 1 (setFld GA_STAT_PRESENT 0 1 (setFld GA_CFG_EFF 0 92 State.reset)))
  let t := (List.range 20).foldl (fun u p => setPstate p .service u) s
  let pt := fun k v c u => setFld GA_OCV_V k v (setFld GA_OCV_Q k c u)
  let u := pt 0 4200 0 (pt 1 5100 16000 (pt 2 5200 18000 t))
  { u with en := { u.en with qcnt := q * 1000, qv := q * 1000, tableOk := true } }
theorem test_usable_first : usable (testHead 18000) = 778319988 := by decide +kernel
theorem test_usable_second : usable (testHead 16000) = 684479988 := by decide +kernel
/-- The walk of the second case: slots 69 to 71 leave the domain, and the retention time is 3,633.12 s. -/
def members : State :=
  let s := setFld PLN_CTL_HOLD 0 3600 (setFld PLN_CTL_ADD 0 10 (setFld PLN_HOLDP_MW 0 9000 (testHead 16000)))
  let t := (List.range 20).foldl (fun u p =>
    if serial p then setFld SP_STAT_PRESENT p 15 (setFld SP_PASR_KEEP p 15 u) else setFld DP_STAT_PRESENT p 3 (setFld DP_PASR_KEEP p 3 u)) s
  setFoot3 0x300E0 (BitVec.ofNat 73 (2 ^ 72 - 1)) { t with en := { t.en with slotp := (List.range 72).map fun i => (i, 2600) } }
theorem test_plan_drops : domainNow (plan members) = BitVec.ofNat 73 (2 ^ 69 - 1) ∧ foot3 (plan members) 0x300F0 = BitVec.ofNat 73 (7 * 2 ^ 69) := by
  decide +kernel
theorem test_plan_retention : fld (plan members) PLN_RET_MS = 3633120 := by decide +kernel

/-! ### Each statement's hypotheses are met -/

theorem meets_LanternArithmetic :
    (∃ s : State, Issues s (0 : Fin 4) (encR 1 3#5 1#5 2#5 1#1 0#4 0)) ∧
    (∃ s : State, Issues s (0 : Fin 4) (encR 1 3#5 1#5 2#5 1#1 0#4 28)) ∧
    (∃ s : State, Issues s (0 : Fin 4) (encR 1 3#5 1#5 0#5 1#1 0#4 15)) :=
  ⟨⟨core {} (encR 1 3 1 2 1 0 0), by decide +kernel⟩,
   ⟨core (regs 5 7) (encR 1 3 1 2 1 0 0x1C), by decide +kernel⟩,
   ⟨core (regs 0x8000000000000000 7) (encR 1 3 1 0 1 0 0xF), by decide +kernel⟩⟩

theorem meets_LanternLogic :
    (∃ s : State, Issues s (0 : Fin 4) (encR 1 3#5 1#5 2#5 1#1 0#4 11)) ∧
    (∃ s : State, let a := gpr (ctxOf s 0) 1#5; 63 ≤ 64 ∧ (∀ i < 63, BitVec.getLsbD a (63 - i) = false) ∧
      (63 < 64 → BitVec.getLsbD a (63 - 63) = true) ∧ Issues s (0 : Fin 4) (encR 1 3#5 1#5 0#5 1#1 0#4 23)) ∧
    (∃ s : State, let a := gpr (ctxOf s 0) 1#5; 64 ≤ 64 ∧ (∀ i < 64, BitVec.getLsbD a i = false) ∧ (64 < 64 → BitVec.getLsbD a 64 = true) ∧
      Issues s (0 : Fin 4) (encR 1 3#5 1#5 0#5 1#1 0#4 24)) :=
  ⟨⟨core (regs 5 7) (encR 1 3 1 2 1 0 0xB), by decide +kernel⟩,
   ⟨core (regs 1 0) (encR 1 3 1 0 1 0 0x17), by decide +kernel⟩,
   ⟨core (regs 0 0) (encR 1 3 1 0 1 0 0x18), by decide +kernel⟩⟩

theorem meets_LanternDivision :
    (∃ s : State, let x := ctxOf s 0; let b := gpr x 2#5; b ≠ (0 : W64) ∧ Issues s (0 : Fin 4) (encR 1 3#5 1#5 2#5 1#1 0#4 19)) ∧
    (∃ s : State, let x := ctxOf s 0; let b := gpr x 2#5; b ≠ (0 : W64) ∧ Issues s (0 : Fin 4) (encR 1 3#5 1#5 2#5 1#1 0#4 21)) ∧
    (∃ s : State, let x := ctxOf s 0; let b := gpr x 2#5; b = (0 : W64) ∧ x.trapen.getLsbD 0 = false ∧
      Issues s (0 : Fin 4) (encR 1 3#5 1#5 2#5 1#1 0#4 19)) ∧
    (∃ s : State, let x := ctxOf s 0; let b := gpr x 2#5; b = (0 : W64) ∧ x.trapen.getLsbD 0 = true ∧
      Issues s (0 : Fin 4) (encR 1 3#5 1#5 2#5 1#1 0#4 19)) :=
  ⟨⟨core (regs 0x8000000000000000 (-1)) (encR 1 3 1 2 1 0 0x13), by decide +kernel⟩,
   ⟨core (regs (-7) 2) (encR 1 3 1 2 1 0 0x15), by decide +kernel⟩,
   ⟨core (regs 5 0) (encR 1 3 1 2 1 0 0x13), by decide +kernel⟩,
   ⟨core { regs 5 0 with trapen := 1 } (encR 1 3 1 2 1 0 0x13), by decide +kernel⟩⟩

theorem meets_LanternImmediates :
    (∃ s : State, Issues s (0 : Fin 4) (encI 2 3#5 1#5 1#16)) ∧
    (∃ s : State, Issues s (0 : Fin 4) (encI 9 3#5 1#5 65535#16)) ∧
    (∃ s : State, Issues s (0 : Fin 4) (encI 11 0#5 1#5 5#16)) ∧
    (∃ s : State, BitVec.extractLsb' 7 7 127#16 = 0#7 ∧ BitVec.extractLsb' 14 2 127#16 = 0#2 ∧ Issues s (0 : Fin 4) (encI 6 3#5 1#5 127#16)) ∧
    (∃ s : State, BitVec.extractLsb' 7 7 16385#16 = 0#7 ∧ BitVec.extractLsb' 14 2 16385#16 = 1#2 ∧ Issues s (0 : Fin 4) (encI 6 3#5 1#5 16385#16)) ∧
    (∃ s : State, BitVec.extractLsb' 7 7 32832#16 = 0#7 ∧ BitVec.extractLsb' 14 2 32832#16 = 2#2 ∧ Issues s (0 : Fin 4) (encI 6 3#5 1#5 32832#16)) ∧
    (∃ s : State, BitVec.toNat 3#5 < 4 ∧ Issues s (0 : Fin 4) (encI 7 4#5 3#5 43981#16)) ∧
    (∃ s : State, BitVec.toNat 3#5 < 4 ∧ Issues s (0 : Fin 4) (encI 8 4#5 3#5 43981#16)) ∧
    (∃ s : State, BitVec.extractLsb' 14 2 49152#16 = 3#2 ∧ Issues s (0 : Fin 4) (encI 6 3#5 1#5 49152#16)) ∧
    (∃ s : State, BitVec.extractLsb' 14 2 128#16 ≠ 3#2 ∧ BitVec.extractLsb' 7 7 128#16 ≠ 0#7 ∧ Issues s (0 : Fin 4) (encI 6 3#5 1#5 128#16)) ∧
    (∃ s : State, 4 ≤ BitVec.toNat 4#5 ∧ Issues s (0 : Fin 4) (encI 7 3#5 4#5 1#16)) ∧
    (∃ s : State, 4 ≤ BitVec.toNat 4#5 ∧ Issues s (0 : Fin 4) (encI 8 3#5 4#5 1#16)) ∧
    (∃ s : State, 3#5 ≠ 0#5 ∧ Issues s (0 : Fin 4) (encI 11 3#5 1#5 1#16)) :=
  ⟨⟨core (regs 0x7FFFFFFFFFFFFFFF 0) (encI 2 3 1 1), by decide +kernel⟩,
   ⟨core (regs 5 0) (encI 9 3 1 0xFFFF), by decide +kernel⟩,
   ⟨core (regs 5 0) (encI 0xB 0 1 5), by decide +kernel⟩,
   ⟨core (regs 5 0) (encI 6 3 1 0x007F), by decide +kernel⟩,
   ⟨core (regs 5 0) (encI 6 3 1 0x4001), by decide +kernel⟩,
   ⟨core (regs (-5) 0) (encI 6 3 1 0x8040), by decide +kernel⟩,
   ⟨core (regs 5 0) (encI 7 4 3 0xABCD), by decide +kernel⟩,
   ⟨core { g := [(4, -1)] } (encI 8 4 3 0xABCD), by decide +kernel⟩,
   ⟨core (regs 5 0) (encI 6 3 1 0xC000), by decide +kernel⟩,
   ⟨core (regs 5 0) (encI 6 3 1 0x0080), by decide +kernel⟩,
   ⟨core (regs 5 0) (encI 7 3 4 1), by decide +kernel⟩,
   ⟨core (regs 5 0) (encI 8 3 4 1), by decide +kernel⟩,
   ⟨core (regs 5 0) (encI 0xB 3 1 1), by decide +kernel⟩⟩

theorem meets_LanternBranches :
    (∃ s : State, let x := ctxOf s 0; let z := x.flags.getLsbD 0; let n := x.flags.getLsbD 1; let v := x.flags.getLsbD 2;
      let cy := x.flags.getLsbD 3; let conds := [true, z, !z, n, !n, cy, !cy, v, !v, cy && !z, !cy || z, n == v, n != v, !z && n == v, z || n != v];
        conds[BitVec.toNat 0#4]? = some true ∧ Issues s (0 : Fin 4) (encC 16 0#4 0#6 65535#16)) ∧
    (∃ s : State, let x := ctxOf s 0; let z := x.flags.getLsbD 0; let n := x.flags.getLsbD 1; let v := x.flags.getLsbD 2;
      let cy := x.flags.getLsbD 3; let conds := [true, z, !z, n, !n, cy, !cy, v, !v, cy && !z, !cy || z, n == v, n != v, !z && n == v, z || n != v];
        conds[BitVec.toNat 14#4]? = some false ∧ Issues s (0 : Fin 4) (encC 16 14#4 0#6 32768#16)) ∧
    (∃ s : State, Issues s (0 : Fin 4) (encB 19 1#5 2#5 4#16)) ∧
    (∃ s : State, Issues s (0 : Fin 4) (encJ 23 33554432#26)) ∧
    (∃ s : State, let x := ctxOf s 0; let a := gpr x 1#5; BitVec.extractLsb' 0 2 (a + BitVec.signExtend 64 65532#16) = 0#2 ∧
      Issues s (0 : Fin 4) (encI 24 3#5 1#5 65532#16)) ∧
    (∃ s : State, let x := ctxOf s 0; let a := gpr x 1#5; BitVec.extractLsb' 0 2 (a + BitVec.signExtend 64 65534#16) ≠ 0#2 ∧
      Issues s (0 : Fin 4) (encI 24 3#5 1#5 65534#16)) :=
  ⟨⟨core (regs 5 7) (encC 0x10 0 0 0xFFFF), by decide +kernel⟩,
   ⟨core (regs 5 7) (encC 0x10 14 0 0x8000), by decide +kernel⟩,
   ⟨core (regs 5 7) (encB 0x13 1 2 4), by decide +kernel⟩,
   ⟨core (regs 5 7) (encJ 0x17 0x2000000), by decide +kernel⟩,
   ⟨core (regs 8 7) (encI 0x18 3 1 0xFFFC), by decide +kernel⟩,
   ⟨core (regs 8 7) (encI 0x18 3 1 0xFFFE), by decide +kernel⟩⟩

theorem meets_LanternLoads :
    (∃ s : State, let x := ctxOf s 0; let a := BitVec.toNat (gpr x 1#5 + BitVec.signExtend 64 0#16); CanTouch s (0 : Fin 4) a 1 true ∧
      Issues s (0 : Fin 4) (encI 32 3#5 1#5 0#16)) ∧
    (∃ s : State, let x := ctxOf s 0; let a := BitVec.toNat (gpr x 1#5 + BitVec.signExtend 64 1#16); datSize s 0 < a + 1 ∧
      Issues s (0 : Fin 4) (encI 32 3#5 1#5 1#16)) ∧
    (∃ s : State, let x := ctxOf s 0; let a := BitVec.toNat (gpr x 1#5 + BitVec.signExtend 64 0#16); a + 1 ≤ datSize s 0 ∧ a % 1 = 0 ∧
      lineBusy x ((datBase s 0 + a) / 64) = false ∧ (∃ k < 1, s.lant.dataBad.contains (datBase s 0 + a + k) = true) ∧
        Issues s (0 : Fin 4) (encI 32 3#5 1#5 0#16)) ∧
    (∃ s : State, let x := ctxOf s 0; let a := BitVec.toNat (gpr x 1#5 + BitVec.signExtend 64 0#16); CanTouch s (0 : Fin 4) a 4 true ∧
      Issues s (0 : Fin 4) (encI 38 3#5 1#5 0#16)) ∧
    (∃ s : State, let x := ctxOf s 0; let a := BitVec.toNat (gpr x 1#5 + BitVec.signExtend 64 1#16); datSize s 0 < a + 4 ∧
      Issues s (0 : Fin 4) (encI 34 3#5 1#5 1#16)) ∧
    (∃ s : State, let x := ctxOf s 0; let a := BitVec.toNat (gpr x 1#5 + BitVec.signExtend 64 65535#16); a + 4 ≤ datSize s 0 ∧ a % 4 ≠ 0 ∧
      Issues s (0 : Fin 4) (encI 34 3#5 1#5 65535#16)) ∧
    (∃ s : State, let x := ctxOf s 0; let a := BitVec.toNat (gpr x 0#5 + BitVec.signExtend 64 8#16); a + 8 ≤ datSize s 0 ∧ a % 8 = 0 ∧
      lineBusy x ((datBase s 0 + a) / 64) = false ∧ (∃ k < 8, s.lant.dataBad.contains (datBase s 0 + a + k) = true) ∧
        Issues s (0 : Fin 4) (encI 35 3#5 0#5 8#16)) :=
  ⟨⟨core (regs 0xFFFF 0) (encI 0x20 3 1 0), by decide +kernel⟩,
   ⟨core (regs 0xFFFF 0) (encI 0x20 3 1 1), by decide +kernel⟩,
   ⟨loadBad (encI 0x20 3 1 0), by decide +kernel⟩,
   ⟨core (regs 0xFFFC 0) (encI 0x26 3 1 0), by decide +kernel⟩,
   ⟨core (regs 0xFFFC 0) (encI 0x22 3 1 1), by decide +kernel⟩,
   ⟨core (regs 0xFFFC 0) (encI 0x22 3 1 0xFFFF), by decide +kernel⟩,
   ⟨loadBad (encI 0x23 3 0 8), by decide +kernel⟩⟩

theorem meets_LanternStores :
    (∃ s : State, let x := ctxOf s 0; let a := BitVec.toNat (gpr x 1#5 + BitVec.signExtend 64 0#16); Memory.wf s.lant.data ∧
      CanTouch s (0 : Fin 4) a 8 false ∧ Issues s (0 : Fin 4) (encI 43 2#5 1#5 0#16)) ∧
    (∃ s : State, let x := ctxOf s 0; let a := BitVec.toNat (gpr x 1#5 + BitVec.signExtend 64 1#16); Memory.wf s.lant.data ∧ datSize s 0 < a + 1 ∧
      Issues s (0 : Fin 4) (encI 40 2#5 1#5 1#16)) ∧
    (∃ s : State, let x := ctxOf s 0; let a := BitVec.toNat (gpr x 1#5 + BitVec.signExtend 64 65534#16); Memory.wf s.lant.data ∧
      a + 2 ≤ datSize s 0 ∧ a % 2 ≠ 0 ∧ Issues s (0 : Fin 4) (encI 41 2#5 1#5 65534#16)) :=
  ⟨⟨core (regs 0xFFF8 0x1122334455667788) (encI 0x2B 2 1 0), by decide +kernel⟩,
   ⟨core (regs 0xFFFF 7) (encI 0x28 2 1 1), by decide +kernel⟩,
   ⟨core (regs 0xFFFF 7) (encI 0x29 2 1 0xFFFE), by decide +kernel⟩⟩

theorem meets_LanternAccesses :
    (∃ s : State, let x := ctxOf s 0; let a := BitVec.toNat (gpr x 1#5 + BitVec.signExtend 64 8#16); (a < 2 ^ 46 ∧ a % 8 = 0 ∧
      accReady x 0 a = true ∧ InDram s a ∧ homeImpl s.part.variant = true) ∧ Issues s (0 : Fin 4) (encI 44 3#5 1#5 8#16)) ∧
    (∃ s : State, let x := ctxOf s 0; let e := BitVec.toNat (gpr x 1#5); (e < 2 ^ 46 ∧ e % 8 = 0 ∧ accReady x 1 e = true ∧ InDram s e ∧
      homeImpl s.part.variant = true) ∧ Issues s (0 : Fin 4) (encR 46 3#5 1#5 0#5 0#1 0#4 3)) ∧
    (∃ s : State, let x := ctxOf s 0; let e := BitVec.toNat (gpr x 1#5); (e < 2 ^ 46 ∧ e % 8 = 0 ∧ accReady x 2 e = true ∧ InDram s e ∧
      homeImpl s.part.variant = true) ∧ Issues s (0 : Fin 4) (encR 46 3#5 1#5 2#5 0#1 0#4 4)) ∧
    (∃ s : State, let x := ctxOf s 0; let e := BitVec.toNat (gpr x 1#5); (e < 2 ^ 46 ∧ e % 8 = 0 ∧ accReady x 3 e = true ∧ InDram s e ∧
      homeImpl s.part.variant = true) ∧ BitVec.toNat 9#4 < 10 ∧ Issues s (0 : Fin 4) (encR 46 3#5 1#5 2#5 0#1 9#4 5)) ∧
    (∃ s : State, let x := ctxOf s 0; let a := BitVec.toNat (gpr x 1#5 + BitVec.signExtend 64 8#16); (a < 2 ^ 46 ∧ a % 8 = 0 ∧
      accReady x 4 a = true ∧ InDram s a ∧ homeImpl s.part.variant = true) ∧ Issues s (0 : Fin 4) (encI 45 3#5 1#5 8#16)) ∧
    (∃ s : State, let x := ctxOf s 0; let e := BitVec.toNat (gpr x 1#5); (e < 2 ^ 46 ∧ e % 64 = 0 ∧ accReady x 4 e = true ∧ InDram s e ∧
      homeImpl s.part.variant = true) ∧ Issues s (0 : Fin 4) (encR 46 0#5 1#5 0#5 0#1 0#4 2)) ∧
    (∃ s : State, let x := ctxOf s 0; let e := BitVec.toNat (gpr x 1#5); let d := BitVec.toNat (gpr x 2#5); (e < 2 ^ 46 ∧ e % 64 = 0 ∧
      accReady x 4 e = true ∧ InDram s e ∧ homeImpl s.part.variant = true) ∧ CanTouch s (0 : Fin 4) d 64 true ∧
        Issues s (0 : Fin 4) (encR 46 0#5 1#5 2#5 0#1 0#4 1)) ∧
    (∃ s : State, let x := ctxOf s 0; let e := BitVec.toNat (gpr x 1#5); let d := BitVec.toNat (gpr x 2#5); (e < 2 ^ 46 ∧ e % 64 = 0 ∧
      accReady x 5 e = true ∧ InDram s e ∧ homeImpl s.part.variant = true) ∧ CanTouch s (0 : Fin 4) d 64 false ∧
        ((List.filter (fun q => decide (q.kind = 5)) x.acc).length < 32) ∧ Issues s (0 : Fin 4) (encR 46 0#5 1#5 2#5 0#1 0#4 0)) :=
  ⟨⟨served (core (regs 0x1000 0) (encI 0x2C 3 1 8)), by decide +kernel⟩,
   ⟨served (core (regs 0x1008 0) (encR 0x2E 3 1 0 0 0 3)), by decide +kernel⟩,
   ⟨served (core (regs 0x1008 7) (encR 0x2E 3 1 2 0 0 4)), by decide +kernel⟩,
   ⟨served (core (regs 0x3FFFFFFF8 7) (encR 0x2E 3 1 2 0 9 5)), by decide +kernel⟩,
   ⟨served (core (regs 0x1008 7) (encI 0x2D 3 1 8)), by decide +kernel⟩,
   ⟨served (core (regs 0x1040 7) (encR 0x2E 0 1 0 0 0 2)), by decide +kernel⟩,
   ⟨served (core (regs 0x1040 0xFFC0) (encR 0x2E 0 1 2 0 0 1)), by decide +kernel⟩,
   ⟨served (core (regs 0x1040 0xFFC0) (encR 0x2E 0 1 2 0 0 0)), by decide +kernel⟩⟩

theorem meets_LanternStalls :
    (∃ s : State, let y := ctxOf s 0; let a := BitVec.toNat (gpr y 1#5); let eop := BitVec.getLsbD 8#4 3;
      let putAddr := (if eop = true then 2 ^ 15 else 0) + BitVec.toNat 8#4 % 8 * 2 ^ 19 + BitVec.toNat 0#1 * 2 ^ 22;
        stallRefuse s 0 9 a putAddr 0 = some 4#4 ∧ Issues s (0 : Fin 4) (encR 48 3#5 1#5 2#5 0#1 8#4 0)) ∧
    (∃ s : State, let y := ctxOf s 0; let a := BitVec.toNat (gpr y 1#5); let d := BitVec.toNat (gpr y 2#5); stallRefuse s 0 10 a 0 1 = some 4#4 ∧
      CanTouch s (0 : Fin 4) d 64 false ∧ Issues s (0 : Fin 4) (encR 48 3#5 1#5 2#5 0#1 0#4 1)) ∧
    (∃ s : State, let y := ctxOf s 0; let a := BitVec.toNat (gpr y 1#5); stallRefuse s 0 10 a (2 ^ 15) 0 = some 4#4 ∧
      Issues s (0 : Fin 4) (encR 48 3#5 1#5 0#5 0#1 0#4 2)) ∧
    (∃ s : State, let y := ctxOf s 0; let a := BitVec.toNat (gpr y 1#5); stallRefuse s 0 11 a (BitVec.toNat 1#4 * 2 ^ 15) 0 = some 4#4 ∧
      Issues s (0 : Fin 4) (encR 48 3#5 1#5 0#5 0#1 1#4 3)) ∧
    (∃ s : State, let y := ctxOf s 0; let a := BitVec.toNat (gpr y 1#5); let b := route s a; let eop := BitVec.getLsbD 15#4 3;
      let putAddr := (if eop = true then 2 ^ 15 else 0) + BitVec.toNat 15#4 % 8 * 2 ^ 19 + BitVec.toNat 0#1 * 2 ^ 22;
        stallRefuse s 0 9 a putAddr 0 = none ∧ ((y.acc.any fun e => decide (e.kind = 4) && !e.performed) = false) ∧ (stallOf s b).mismatch = false ∧
        pushReady s b = true ∧ Issues s (0 : Fin 4) (encR 48 3#5 1#5 2#5 0#1 15#4 0)) ∧
    (∃ s : State, let y := ctxOf s 0; let a := BitVec.toNat (gpr y 1#5); let d := BitVec.toNat (gpr y 2#5); stallRefuse s 0 10 a 0 1 = none ∧
      CanTouch s (0 : Fin 4) d 64 false ∧ (stallOf s a).mismatch = false ∧ (stallOf s a).reader = none ∧
        Issues s (0 : Fin 4) (encR 48 3#5 1#5 2#5 0#1 0#4 1)) ∧
    (∃ s : State, let y := ctxOf s 0; let a := BitVec.toNat (gpr y 1#5); let b := route s a; stallRefuse s 0 10 a (2 ^ 15) 0 = none ∧
      (stallOf s b).mismatch = false ∧ Issues s (0 : Fin 4) (encR 48 3#5 1#5 0#5 0#1 0#4 2)) ∧
    (∃ s : State, let y := ctxOf s 0; let a := BitVec.toNat (gpr y 1#5); stallRefuse s 0 11 a (BitVec.toNat 1#4 * 2 ^ 15) 0 = none ∧
      ((y.acc.any fun e => decide (e.kind = 4) && !e.performed) = false) ∧ (stallOf s a).mismatch = false ∧ 1 ≤ BitVec.toNat 1#4 ∧
        BitVec.toNat 1#4 ≤ 5 ∧ (1#4 = 3#4 → rewindReady s a = true) ∧ Issues s (0 : Fin 4) (encR 48 3#5 1#5 0#5 0#1 1#4 3)) ∧
    (∃ s : State, let y := ctxOf s 0; let a := BitVec.toNat (gpr y 1#5); stallRefuse s 0 11 a (BitVec.toNat 3#4 * 2 ^ 15) 0 = none ∧
      ((y.acc.any fun e => decide (e.kind = 4) && !e.performed) = false) ∧ (stallOf s a).mismatch = false ∧ 1 ≤ BitVec.toNat 3#4 ∧
        BitVec.toNat 3#4 ≤ 5 ∧ (3#4 = 3#4 → rewindReady s a = true) ∧ Issues s (0 : Fin 4) (encR 48 3#5 1#5 0#5 0#1 3#4 3)) ∧
    (∃ s : State, let y := ctxOf s 0; let a := BitVec.toNat (gpr y 1#5); stallRefuse s 0 11 a (BitVec.toNat 5#4 * 2 ^ 15) 0 = none ∧
      ((y.acc.any fun e => decide (e.kind = 4) && !e.performed) = false) ∧ (stallOf s a).mismatch = false ∧ 1 ≤ BitVec.toNat 5#4 ∧
        BitVec.toNat 5#4 ≤ 5 ∧ (5#4 = 3#4 → rewindReady s a = true) ∧ Issues s (0 : Fin 4) (encR 48 3#5 1#5 0#5 0#1 5#4 3)) :=
  ⟨⟨core (regs 0x8000 7) (encR 0x30 3 1 2 0 8 0), by decide +kernel⟩,
   ⟨core (regs 0x8000 64) (encR 0x30 3 1 2 0 0 1), by decide +kernel⟩,
   ⟨core (regs 0x8000 64) (encR 0x30 3 1 0 0 0 2), by decide +kernel⟩,
   ⟨core (regs 0x8000 64) (encR 0x30 3 1 0 0 1 3), by decide +kernel⟩,
   ⟨stalled (core (regs 5 64) (encR 0x30 3 1 2 0 15 0)), by decide +kernel⟩,
   ⟨stalled (core (regs 5 64) (encR 0x30 3 1 2 0 0 1)), by decide +kernel⟩,
   ⟨stalled (core (regs 5 64) (encR 0x30 3 1 0 0 0 2)), by decide +kernel⟩,
   ⟨stalled (core (regs 5 64) (encR 0x30 3 1 0 0 1 3)), by decide +kernel⟩,
   ⟨stalled (core (regs 5 64) (encR 0x30 3 1 0 0 3 3)) 0x40, by decide +kernel⟩,
   ⟨stalled (core (regs 5 64) (encR 0x30 3 1 0 0 5 3)), by decide +kernel⟩⟩

theorem meets_LanternTimebase :
    (∃ s : State, Issues s (0 : Fin 4) (encR 49 3#5 0#5 0#5 0#1 0#4 0)) ∧
    (∃ s : State, Issues s (0 : Fin 4) (encR 49 3#5 0#5 0#5 0#1 1#4 0)) ∧
    (∃ s : State, let y := ctxOf s 0; gpr y 1#5 ≤ countNow s ∧ Issues s (0 : Fin 4) (encR 49 0#5 1#5 0#5 0#1 0#4 1)) ∧
    (∃ s : State, let y := ctxOf s 0; countNow s < gpr y 1#5 ∧ Issues s (0 : Fin 4) (encR 49 0#5 1#5 0#5 0#1 0#4 1)) ∧
    (∃ s : State, let y := ctxOf s 0; y.st = CtxSt.waiting ∧ y.wait = CtxWait.count 0#64 ∧ lantClock s = true ∧ 0#64 ≤ countNow s) ∧
    (∃ s : State, let y := ctxOf s 0; let a := BitVec.toNat (gpr y 2#5); let n := bits (BitVec.toNat (datWord s 0 a)) 0 5; n ≤ 16 ∧
      CanTouch s (0 : Fin 4) a 8 true ∧ (∀ k < 4 * n, CanTouch s (0 : Fin 4) (a + 8 + 8 * k) 8 true) ∧
        Issues s (0 : Fin 4) (encR 49 3#5 1#5 2#5 0#1 0#4 2)) ∧
    (∃ s : State, let y := ctxOf s 0; gpr y 1#5 ≤ (7 : W64) ∧ Issues s (0 : Fin 4) (encR 49 0#5 1#5 0#5 0#1 0#4 3)) :=
  ⟨⟨core {} (encR 0x31 3 0 0 0 0 0), by decide +kernel⟩,
   ⟨core {} (encR 0x31 3 0 0 0 1 0), by decide +kernel⟩,
   ⟨core {} (encR 0x31 0 1 0 0 0 1), by decide +kernel⟩,
   ⟨core (regs 1 0) (encR 0x31 0 1 0 0 0 1), by decide +kernel⟩,
   ⟨waitsCount 0, by decide +kernel⟩,
   ⟨listed 16 (core (regs 9 0) (encR 0x31 3 1 2 0 0 2)), by decide +kernel⟩,
   ⟨core (regs 7 0) (encR 0x31 0 1 0 0 0 3), by decide +kernel⟩⟩

theorem meets_LanternSystem :
    (∃ s : State, Issues s (0 : Fin 4) (encR 50 3#5 0#5 0#5 0#1 0#4 0)) ∧
    (∃ s : State, (1#4 = 1#4 ∨ 1#4 = 2#4) ∧ Issues s (0 : Fin 4) (encR 50 3#5 0#5 0#5 0#1 1#4 0)) ∧
    (∃ s : State, (2#4 = 1#4 ∨ 2#4 = 2#4) ∧ Issues s (0 : Fin 4) (encR 50 3#5 0#5 0#5 0#1 2#4 0)) ∧
    (∃ s : State, Issues s (0 : Fin 4) (encR 50 0#5 0#5 0#5 0#1 0#4 1)) ∧
    (∃ s : State, Issues s (0 : Fin 4) (encR 50 0#5 1#5 0#5 0#1 1#4 1)) ∧
    (∃ s : State, let y := ctxOf s 0; let a := BitVec.toNat (gpr y 1#5); (0 : Fin 4) = (0 : Fin 4) ∧ a < 2 ^ 16 ∧ (liveSlot s a).isSome = true ∧
      Issues s (0 : Fin 4) (encR 50 0#5 1#5 0#5 0#1 0#4 2)) ∧
    (∃ s : State, (1 : Fin 4) ≠ (0 : Fin 4) ∧ Issues s (1 : Fin 4) (encR 50 0#5 1#5 0#5 0#1 0#4 2)) ∧
    (∃ s : State, let y := ctxOf s 0; ((0 : Fin 4) = (0 : Fin 4) ∨ y.handle = some (BitVec.extractLsb' 0 16 (gpr y 1#5))) ∧
      Issues s (0 : Fin 4) (encR 50 0#5 1#5 2#5 0#1 0#4 3)) ∧
    (∃ s : State, let y := ctxOf s 1; ((1 : Fin 4) = (0 : Fin 4) ∨ y.handle = some (BitVec.extractLsb' 0 16 (gpr y 1#5))) ∧
      Issues s (1 : Fin 4) (encR 50 0#5 1#5 2#5 0#1 0#4 3)) ∧
    (∃ s : State, Issues s (0 : Fin 4) (encR 50 0#5 0#5 0#5 0#1 0#4 4)) ∧
    (∃ s : State, let y := ctxOf s 0; y.handle = none ∧ Issues s (0 : Fin 4) (encR 50 0#5 0#5 0#5 0#1 0#4 5)) ∧
    (∃ s : State, wordDefined (4294967295 : Word) = false ∧ Issues s (0 : Fin 4) (4294967295 : Word)) :=
  ⟨⟨core {} (encR 0x32 3 0 0 0 0 0), by decide +kernel⟩,
   ⟨core {} (encR 0x32 3 0 0 0 1 0), by decide +kernel⟩,
   ⟨core {} (encR 0x32 3 0 0 0 2 0), by decide +kernel⟩,
   ⟨core {} (encR 0x32 0 0 0 0 0 1), by decide +kernel⟩,
   ⟨core (regs 64 0) (encR 0x32 0 1 0 0 1 1), by decide +kernel⟩,
   ⟨handled (core (regs 0x1000 0) (encR 0x32 0 1 0 0 0 2)), by decide +kernel⟩,
   ⟨user (regs 64 0) (encR 0x32 0 1 0 0 0 2), by decide +kernel⟩,
   ⟨core (regs 64 0) (encR 0x32 0 1 2 0 0 3), by decide +kernel⟩,
   ⟨user { handle := some 0xFFFF, g := [(1, 0x1FFFF)] } (encR 0x32 0 1 2 0 0 3), by decide +kernel⟩,
   ⟨core (regs 64 0) (encR 0x32 0 0 0 0 0 4), by decide +kernel⟩,
   ⟨core (regs 64 0) (encR 0x32 0 0 0 0 0 5), by decide +kernel⟩,
   ⟨core (regs 64 0) 0xFFFFFFFF, by decide +kernel⟩⟩

theorem meets_LanternSpecials :
    (∃ s : State, Issues s (0 : Fin 4) (encR 50 3#5 0#5 0#5 0#1 0#4 6)) ∧
    (∃ s : State, Issues s (0 : Fin 4) (encR 50 3#5 0#5 0#5 0#1 1#4 6)) ∧
    (∃ s : State, Issues s (0 : Fin 4) (encR 50 3#5 0#5 0#5 0#1 2#4 6)) ∧
    (∃ s : State, Issues s (0 : Fin 4) (encR 50 3#5 0#5 0#5 0#1 3#4 6)) ∧
    (∃ s : State, Issues s (0 : Fin 4) (encR 50 3#5 0#5 0#5 0#1 4#4 6)) ∧
    (∃ s : State, Issues s (0 : Fin 4) (encR 50 3#5 0#5 0#5 0#1 5#4 6)) ∧
    (∃ s : State, Issues s (0 : Fin 4) (encR 50 3#5 0#5 0#5 0#1 6#4 6)) ∧
    (∃ s : State, Issues s (0 : Fin 4) (encI 60 3#5 0#5 0#16)) ∧
    (∃ s : State, Issues s (1 : Fin 4) (encI 60 3#5 0#5 1#16)) ∧
    (∃ s : State, Issues s (0 : Fin 4) (encI 60 3#5 0#5 2#16)) ∧
    (∃ s : State, Issues s (0 : Fin 4) (encI 60 3#5 0#5 3#16)) ∧
    (∃ s : State, let y := ctxOf s 0; y.handle = none ∧ Issues s (0 : Fin 4) (encI 60 3#5 0#5 4#16)) ∧
    (∃ s : State, let y := ctxOf s 0; y.handle = some 65535#16 ∧ Issues s (0 : Fin 4) (encI 60 3#5 0#5 4#16)) ∧
    (∃ s : State, Issues s (0 : Fin 4) (encI 60 3#5 0#5 6#16)) ∧
    (∃ s : State, Issues s (0 : Fin 4) (encI 60 3#5 0#5 5#16)) ∧
    (∃ s : State, Issues s (0 : Fin 4) (encI 61 0#5 1#5 0#16)) ∧
    (∃ s : State, Issues s (0 : Fin 4) (encI 61 0#5 1#5 2#16)) ∧
    (∃ s : State, Issues s (0 : Fin 4) (encI 61 0#5 1#5 3#16)) :=
  ⟨⟨core (regs 64 0) (encR 0x32 3 0 0 0 0 6), by decide +kernel⟩,
   ⟨core (regs 64 0) (encR 0x32 3 0 0 0 1 6), by decide +kernel⟩,
   ⟨core (regs 64 0) (encR 0x32 3 0 0 0 2 6), by decide +kernel⟩,
   ⟨core { eqHigh := 5 } (encR 0x32 3 0 0 0 3 6), by decide +kernel⟩,
   ⟨core (regs 64 0) (encR 0x32 3 0 0 0 4 6), by decide +kernel⟩,
   ⟨core (regs 64 0) (encR 0x32 3 0 0 0 5 6), by decide +kernel⟩,
   ⟨core (regs 64 0) (encR 0x32 3 0 0 0 6 6), by decide +kernel⟩,
   ⟨core { flags := 63 } (encI 0x3C 3 0 0), by decide +kernel⟩,
   ⟨user { flags := 63 } (encI 0x3C 3 0 1), by decide +kernel⟩,
   ⟨core { trapen := 3 } (encI 0x3C 3 0 2), by decide +kernel⟩,
   ⟨core { mst := 127 } (encI 0x3C 3 0 3), by decide +kernel⟩,
   ⟨core {} (encI 0x3C 3 0 4), by decide +kernel⟩,
   ⟨core { handle := some 0xFFFF } (encI 0x3C 3 0 4), by decide +kernel⟩,
   ⟨core { tblat := 9 } (encI 0x3C 3 0 6), by decide +kernel⟩,
   ⟨core { codep := 9 } (encI 0x3C 3 0 5), by decide +kernel⟩,
   ⟨core (regs 0x7F 0) (encI 0x3D 0 1 0), by decide +kernel⟩,
   ⟨core (regs 0x7F 0) (encI 0x3D 0 1 2), by decide +kernel⟩,
   ⟨core (regs 0xFF 0) (encI 0x3D 0 1 3), by decide +kernel⟩⟩

theorem meets_LanternControl :
    (∃ s : State, let y := ctxOf s 0; let v := BitVec.toNat (gpr y 1#5); let w := BitVec.toNat (gpr y 2#5); let p := bits v 0 5; (NamesRank s v ∧
      pstate s p = PState.service) ∧ w < 2 ^ 16 ∧ MayControl s (0 : Fin 4) ∧ Issues s (0 : Fin 4) (encR 51 3#5 1#5 2#5 0#1 0#4 0)) ∧
    (∃ s : State, let y := ctxOf s 0; let v := BitVec.toNat (gpr y 1#5); let w := BitVec.toNat (gpr y 2#5); let p := bits v 0 5;
      let g := ctlTarget v; (NamesRank s v ∧ pstate s p = PState.service) ∧ w < 2 ^ 16 ∧
        mget (portOf s p).dram.modeRegs (modeKey g.loc (bits w 8 8)) = some 9#8 ∧ MayControl s (0 : Fin 4) ∧
        Issues s (0 : Fin 4) (encR 51 3#5 1#5 2#5 0#1 0#4 1)) ∧
    (∃ s : State, let y := ctxOf s 0; let v := BitVec.toNat (gpr y 1#5); let w := BitVec.toNat (gpr y 2#5); let p := bits v 0 5;
      let g := ctlTarget v; (NamesRank s v ∧ pstate s p = PState.service) ∧ w < 2 ^ 16 ∧
        mget (portOf s p).dram.modeRegs (modeKey g.loc (bits w 8 8)) = none ∧ MayControl s (0 : Fin 4) ∧
        Issues s (0 : Fin 4) (encR 51 3#5 1#5 2#5 0#1 0#4 1)) ∧
    (∃ s : State, let y := ctxOf s 0; let v := BitVec.toNat (gpr y 1#5); let p := bits v 0 5; (NamesRank s v ∧ pstate s p = PState.service) ∧
      MayControl s (0 : Fin 4) ∧ Issues s (0 : Fin 4) (encR 51 3#5 1#5 0#5 0#1 0#4 2)) ∧
    (∃ s : State, let y := ctxOf s 0; let v := BitVec.toNat (gpr y 1#5); let p := bits v 0 5; let g := ctlTarget v; (NamesRank s v ∧
      pstate s p = PState.service) ∧ mayIssue s p = true ∧ (rankSt s p (rankKey g.loc)).zqStart = none ∧ MayControl s (0 : Fin 4) ∧
        Issues s (0 : Fin 4) (encR 51 3#5 1#5 0#5 0#1 3#4 2)) ∧
    (∃ s : State, let y := ctxOf s 0; let v := BitVec.toNat (gpr y 1#5); let p := bits v 0 5; NamesRank s v ∧ portAllows (pstate s p) 2 = true ∧
      s.en.pf = PfSt.none ∧ fromDram s 0 = false ∧ MayControl s (0 : Fin 4) ∧ Issues s (0 : Fin 4) (encR 51 3#5 1#5 0#5 0#1 1#4 2)) ∧
    (∃ s : State, let y := ctxOf s 0; let v := BitVec.toNat (gpr y 1#5); let p := bits v 0 5; NamesRank s v ∧ portAllows (pstate s p) 3 = true ∧
      s.en.pf = PfSt.none ∧ MayControl s (0 : Fin 4) ∧ Issues s (0 : Fin 4) (encR 51 3#5 1#5 0#5 0#1 2#4 2)) ∧
    (∃ s : State, let y := ctxOf s 0; let v := BitVec.toNat (gpr y 1#5); let w := BitVec.toNat (gpr y 2#5); let p := bits v 0 5; (NamesRank s v ∧
      pstate s p = PState.service) ∧ rankThere s p { keyLoc w with bg := 0, bank := 0, row := 0 } = true ∧ w < 2 ^ 30 ∧ launchNames s p = false ∧
        repairSlot s p w = some 0 ∧ MayControl s (0 : Fin 4) ∧ Issues s (0 : Fin 4) (encR 51 3#5 1#5 2#5 0#1 0#4 3)) ∧
    (∃ s : State, let y := ctxOf s 0; let v := BitVec.toNat (gpr y 1#5); let w := BitVec.toNat (gpr y 2#5); let p := bits v 0 5; (NamesRank s v ∧
      pstate s p = PState.service) ∧ rankThere s p { keyLoc w with bg := 0, bank := 0, row := 0 } = true ∧ w < 2 ^ 30 ∧ launchNames s p = false ∧
        MayControl s (0 : Fin 4) ∧ Issues s (0 : Fin 4) (encR 51 3#5 1#5 2#5 0#1 1#4 3)) ∧
    (∃ s : State, let y := ctxOf s 0; let v := BitVec.toNat (gpr y 1#5); let p := bits v 0 5; NamesRank s v ∧
      (pstate s p = PState.train ∨ pstate s p = PState.test) ∧ 1 ≤ BitVec.toNat 10#4 ∧ BitVec.toNat 10#4 ≤ 12 ∧
        stepApplies p (BitVec.toNat 10#4) = true ∧ setNames s p = false ∧ MayControl s (0 : Fin 4) ∧
        Issues s (0 : Fin 4) (encR 51 3#5 1#5 0#5 0#1 10#4 5)) ∧
    (∃ s : State, let y := ctxOf s 0; let v := BitVec.toNat (gpr y 1#5); let p := bits v 0 5; NamesRank s v ∧
      (pstate s p = PState.train ∨ pstate s p = PState.test) ∧ 1 ≤ BitVec.toNat 12#4 ∧ BitVec.toNat 12#4 ≤ 12 ∧
        stepApplies p (BitVec.toNat 12#4) = true ∧ setNames s p = false ∧ MayControl s (0 : Fin 4) ∧
        Issues s (0 : Fin 4) (encR 51 3#5 1#5 0#5 0#1 12#4 5)) ∧
    (∃ s : State, let y := ctxOf s 1; (1 : Fin 4) ≠ (0 : Fin 4) ∧ y.priv = false ∧ Issues s (1 : Fin 4) (encR 51 3#5 1#5 2#5 0#1 0#4 0)) ∧
    (∃ s : State, let y := ctxOf s 1; 1 ≤ BitVec.toNat 12#4 ∧ BitVec.toNat 12#4 ≤ 12 ∧ (1 : Fin 4) ≠ (0 : Fin 4) ∧ y.priv = false ∧
      Issues s (1 : Fin 4) (encR 51 3#5 1#5 0#5 0#1 12#4 5)) :=
  ⟨⟨served (core (regs 0 0xFFFF) (encR 0x33 3 1 2 0 0 0)), by decide +kernel⟩,
   ⟨modDram 0 (fun d => { d with modeRegs := [(modeKey {} 7, 9)] }) (served (core (regs 0 0x700) (encR 0x33 3 1 2 0 0 1))), by decide +kernel⟩,
   ⟨served (core (regs 0 0x700) (encR 0x33 3 1 2 0 0 1)), by decide +kernel⟩,
   ⟨served (core (regs 0 0) (encR 0x33 3 1 0 0 0 2)), by decide +kernel⟩,
   ⟨served (core (regs 0 0) (encR 0x33 3 1 0 0 3 2)), by decide +kernel⟩,
   ⟨served (core (regs 0 0) (encR 0x33 3 1 0 0 1 2)), by decide +kernel⟩,
   ⟨setPstate 0 .selfRefresh (served (core (regs 0 0) (encR 0x33 3 1 0 0 2 2))), by decide +kernel⟩,
   ⟨modProt 0 (fun t => { t with remap := [(0, { key := 0, st := .active })] }) (served (core (regs 0 0) (encR 0x33 3 1 2 0 0 3))), by decide +kernel⟩,
   ⟨served (core (regs 0 0) (encR 0x33 3 1 2 0 1 3)), by decide +kernel⟩,
   ⟨setFld IS_CTL_EN 0 0 (setPstate 0 .train (served (core (regs 0 0) (encR 0x33 3 1 0 0 10 5)))), by decide +kernel⟩,
   ⟨setPstate 4 .test (fitted 4 (core (regs 4 0) (encR 0x33 3 1 0 0 12 5))), by decide +kernel⟩,
   ⟨user (regs 4 0) (encR 0x33 3 1 2 0 0 0), by decide +kernel⟩,
   ⟨user (regs 4 0) (encR 0x33 3 1 0 0 12 5), by decide +kernel⟩⟩

theorem meets_LanternWindow :
    (∃ s : State, let y := ctxOf s 1; userCtx s 1 = true ∧ y.st = CtxSt.stopped ∧ y.resetReq = false) ∧
    (∃ s : State, userCtx s 3 = true) ∧
    (∃ s : State, let y := ctxOf s 3; userCtx s 3 = true ∧ y.wait = CtxWait.none) ∧
    (∃ s : State, s.pw.inReset = false) ∧
    (∃ s : State, s.pw.inReset = false ∧ s.pw.st.toNat < 3 ∧ 131072 ≤ 4 * BitVec.toNat 32768#16 ∧ Memory.wf s.lant.prog ∧
      (∀ d ∈ [1, 2, 3], (ctxOf s d).st = CtxSt.stopped ∨ (ctxOf s d).st = CtxSt.halted)) ∧
    (∃ s : State, s.pw.inReset = false ∧ s.pw.st.toNat < 3 ∧ Memory.wf s.lant.data) ∧
    (∃ s : State, userCtx s 3 = true ∧ BitVec.getLsbD (1 : Word) 0 = true) ∧
    (∃ s : State, let y := ctxOf s 0; arrive 0 6 (0 : Burst) s = some (came 6, ({} : LineRes), s) ∧ y.resetReq = false ∧ y.wait = CtxWait.fetch 1 ∧
      ({} : LineRes).sts = 0#4 ∧ y.stopReq = false) ∧
    (∃ s : State, let y := ctxOf s 0; arrive 0 5 (0 : Burst) s = some (came 5, ({} : LineRes), s) ∧ y.resetReq = false ∧ ({} : LineRes).sts = 0#4) ∧
    (∃ s : State, let y := ctxOf s 0;
      (List.findSome? (fun e => if e.kind = 4 then Option.map (fun q => (e, q)) e.res else none) y.acc = some (came 4, ({} : LineRes))) ∧
        y.resetReq = false ∧ ({} : LineRes).sts = 0#4) :=
  ⟨⟨State.reset, by decide +kernel⟩,
   ⟨State.reset, by decide +kernel⟩,
   ⟨State.reset, by decide +kernel⟩,
   ⟨State.reset, by decide +kernel⟩,
   ⟨State.reset, by decide +kernel⟩,
   ⟨State.reset, by decide +kernel⟩,
   ⟨State.reset, by decide +kernel⟩,
   ⟨arrived 6 (.fetch 1), by decide +kernel⟩,
   ⟨arrived 5 .none, by decide +kernel⟩,
   ⟨arrived 4 .none, by decide +kernel⟩⟩

theorem meets_FabricRequests :
    (∃ s : State, let f := fabOf s 0; (fabImpl s.part.variant 0 = true ∧ s.pw.inReset = false ∧ s.pw.st.toNat ≤ 3 ∧ 0 < f.reqTly ∧
      (f.reqs.all fun r => !(r.live && r.w.tag == (word 17179869120#46).tag)) = true ∧ f.fenced = false ∧ flg s FP_STATUS_CLK_OK = true) ∧
        refusal s 0 0 (word 17179869120#46) = none) ∧
    (∃ s : State, let f := fabOf s 0; (fabImpl s.part.variant 0 = true ∧ s.pw.inReset = false ∧ s.pw.st.toNat ≤ 3 ∧ 0 < f.reqTly ∧
      (f.reqs.all fun r => !(r.live && r.w.tag == (word 4096#46 63#6).tag)) = true ∧ f.fenced = false ∧ flg s FP_STATUS_CLK_OK = true) ∧
        refusal s 0 1 (word 4096#46 63#6) = none) ∧
    (∃ s : State, let f := fabOf s 0; (fabImpl s.part.variant 0 = true ∧ s.pw.inReset = false ∧ s.pw.st.toNat ≤ 3 ∧ 0 < f.reqTly ∧
      (f.reqs.all fun r => !(r.live && r.w.tag == (word 4096#46 63#6).tag)) = true ∧ f.fenced = false ∧ flg s FP_STATUS_CLK_OK = true) ∧
        refusal s 0 2 (word 4096#46 63#6) = none) ∧
    (∃ s : State, let f := fabOf s 0; (fabImpl s.part.variant 0 = true ∧ s.pw.inReset = false ∧ s.pw.st.toNat ≤ 3 ∧ 0 < f.reqTly ∧
      (f.reqs.all fun r => !(r.live && r.w.tag == (word 4096#46).tag)) = true ∧ f.fenced = false ∧ flg s FP_STATUS_CLK_OK = true) ∧
        refusal s 0 3 (word 4096#46) = none) ∧
    (∃ s : State, let f := fabOf s 0; (fabImpl s.part.variant 0 = true ∧ s.pw.inReset = false ∧ s.pw.st.toNat ≤ 3 ∧ 0 < f.reqTly ∧
      (f.reqs.all fun r => !(r.live && r.w.tag == (word 4096#46).tag)) = true ∧ f.fenced = false ∧ flg s FP_STATUS_CLK_OK = true) ∧
        refusal s 0 4 (word 4096#46) = none) ∧
    (∃ s : State, let f := fabOf s 0; (fabImpl s.part.variant 0 = true ∧ s.pw.inReset = false ∧ s.pw.st.toNat ≤ 3 ∧ 0 < f.reqTly ∧
      (f.reqs.all fun r => !(r.live && r.w.tag == (word 4144#46 0#6 4#3 2#4).tag)) = true ∧ f.fenced = false ∧ flg s FP_STATUS_CLK_OK = true) ∧
        refusal s 0 5 (word 4144#46 0#6 4#3 2#4) = none) ∧
    (∃ s : State, let f := fabOf s 0; (fabImpl s.part.variant 0 = true ∧ s.pw.inReset = false ∧ s.pw.st.toNat ≤ 3 ∧ 0 < f.reqTly ∧
      (f.reqs.all fun r => !(r.live && r.w.tag == (word 0#46).tag)) = true ∧ f.fenced = false ∧ flg s FP_STATUS_CLK_OK = true) ∧
        refusal s 0 6 (word 0#46) = none) ∧
    (∃ s : State, let f := fabOf s 0; (fabImpl s.part.variant 0 = true ∧ s.pw.inReset = false ∧ s.pw.st.toNat ≤ 3 ∧ 0 < f.reqTly ∧
      (f.reqs.all fun r => !(r.live && r.w.tag == (word 0#46).tag)) = true ∧ f.fenced = false ∧ flg s FP_STATUS_CLK_OK = true) ∧
        refusal s 0 7 (word 0#46) = none) ∧
    (∃ s : State, let f := fabOf s 0; (fabImpl s.part.variant 0 = true ∧ s.pw.inReset = false ∧ s.pw.st.toNat ≤ 3 ∧ 0 < f.reqTly ∧
      (f.reqs.all fun r => !(r.live && r.w.tag == (word 0#46).tag)) = true ∧ f.fenced = false ∧ flg s FP_STATUS_CLK_OK = true) ∧
        refusal s 0 8 (word 0#46) = none) ∧
    (∃ s : State, let f := fabOf s 0; (fabImpl s.part.variant 0 = true ∧ s.pw.inReset = false ∧ s.pw.st.toNat ≤ 3 ∧ 0 < f.reqTly ∧
      (f.reqs.all fun r => !(r.live && r.w.tag == (word 32773#46 3#6).tag)) = true ∧ f.fenced = false ∧ flg s FP_STATUS_CLK_OK = true) ∧
        refusal s 0 9 (word 32773#46 3#6) = none) ∧
    (∃ s : State, let f := fabOf s 0; (fabImpl s.part.variant 0 = true ∧ s.pw.inReset = false ∧ s.pw.st.toNat ≤ 3 ∧ 0 < f.reqTly ∧
      (f.reqs.all fun r => !(r.live && r.w.tag == (word 5#46 32#6).tag)) = true ∧ f.fenced = false ∧ flg s FP_STATUS_CLK_OK = true) ∧
        refusal s 0 10 (withView false (word 5#46 32#6)) = none) ∧
    (∃ s : State, let f := fabOf s 0; (fabImpl s.part.variant 0 = true ∧ s.pw.inReset = false ∧ s.pw.st.toNat ≤ 3 ∧ 0 < f.reqTly ∧
      (f.reqs.all fun r => !(r.live && r.w.tag == (word 32773#46).tag)) = true ∧ f.fenced = false ∧ flg s FP_STATUS_CLK_OK = true) ∧
        refusal s 0 10 (withView true (word 32773#46)) = none) ∧
    (∃ s : State, let f := fabOf s 0; (fabImpl s.part.variant 0 = true ∧ s.pw.inReset = false ∧ s.pw.st.toNat ≤ 3 ∧ 0 < f.reqTly ∧
      (f.reqs.all fun r => !(r.live && r.w.tag == (word 5#46).tag)) = true ∧ f.fenced = false ∧ flg s FP_STATUS_CLK_OK = true) ∧
        refusal s 0 11 (withCmd 1 (word 5#46)) = none) ∧
    (∃ s : State, let f := fabOf s 0; (fabImpl s.part.variant 0 = true ∧ s.pw.inReset = false ∧ s.pw.st.toNat ≤ 3 ∧ 0 < f.reqTly ∧
      (f.reqs.all fun r => !(r.live && r.w.tag == (word 5#46).tag)) = true ∧ f.fenced = false ∧ flg s FP_STATUS_CLK_OK = true) ∧
        refusal s 0 11 (withCmd 2 (word 5#46)) = none) ∧
    (∃ s : State, let f := fabOf s 0; (fabImpl s.part.variant 0 = true ∧ s.pw.inReset = false ∧ s.pw.st.toNat ≤ 3 ∧ 0 < f.reqTly ∧
      (f.reqs.all fun r => !(r.live && r.w.tag == (word 5#46).tag)) = true ∧ f.fenced = false ∧ flg s FP_STATUS_CLK_OK = true) ∧
        refusal s 0 11 (withCmd 3 (word 5#46)) = none) ∧
    (∃ s : State, let f := fabOf s 0; (fabImpl s.part.variant 0 = true ∧ s.pw.inReset = false ∧ s.pw.st.toNat ≤ 3 ∧ 0 < f.reqTly ∧
      (f.reqs.all fun r => !(r.live && r.w.tag == (word 5#46).tag)) = true ∧ f.fenced = false ∧ flg s FP_STATUS_CLK_OK = true) ∧
        refusal s 0 11 (withCmd 4 (word 5#46)) = none) ∧
    (∃ s : State, let f := fabOf s 0; (fabImpl s.part.variant 0 = true ∧ s.pw.inReset = false ∧ s.pw.st.toNat ≤ 3 ∧ 0 < f.reqTly ∧
      (f.reqs.all fun r => !(r.live && r.w.tag == (word 5#46).tag)) = true ∧ f.fenced = false ∧ flg s FP_STATUS_CLK_OK = true) ∧
        refusal s 0 11 (withCmd 5 (word 5#46)) = none) ∧
    (∃ s : State, let f := fabOf s 0; (fabImpl s.part.variant 0 = true ∧ s.pw.inReset = false ∧ s.pw.st.toNat ≤ 3 ∧ 0 < f.reqTly ∧
      (f.reqs.all fun r => !(r.live && r.w.tag == (word 5#46).tag)) = true ∧ f.fenced = false ∧ flg s FP_STATUS_CLK_OK = true) ∧
        (12 ≤ BitVec.toNat 12#5 ∨ 12#5 = 11#5 ∧ ¬(1 ≤ cmdCode (word 5#46) ∧ cmdCode (word 5#46) ≤ 5))) ∧
    (∃ s : State, let f := fabOf s 0; (fabImpl s.part.variant 0 = true ∧ s.pw.inReset = false ∧ s.pw.st.toNat ≤ 3 ∧ 0 < f.reqTly ∧
      (f.reqs.all fun r => !(r.live && r.w.tag == (word 5#46).tag)) = true ∧ f.fenced = false ∧ flg s FP_STATUS_CLK_OK = true) ∧
        (12 ≤ BitVec.toNat 11#5 ∨ 11#5 = 11#5 ∧ ¬(1 ≤ cmdCode (word 5#46) ∧ cmdCode (word 5#46) ≤ 5))) :=
  ⟨⟨fabbed { reqTly := 1 }, by decide +kernel⟩,
   ⟨fabbed { reqTly := 1 }, by decide +kernel⟩,
   ⟨fabbed { reqTly := 1 }, by decide +kernel⟩,
   ⟨fabbed { reqTly := 1 }, by decide +kernel⟩,
   ⟨fabbed { reqTly := 1 }, by decide +kernel⟩,
   ⟨fabbed { reqTly := 1 }, by decide +kernel⟩,
   ⟨fabbed { reqTly := 1 }, by decide +kernel⟩,
   ⟨fabbed { reqTly := 1 }, by decide +kernel⟩,
   ⟨fabbed { reqTly := 1 }, by decide +kernel⟩,
   ⟨fabStall 0, by decide +kernel⟩,
   ⟨fabStall 0, by decide +kernel⟩,
   ⟨fabStall 0, by decide +kernel⟩,
   ⟨fabStall 0, by decide +kernel⟩,
   ⟨fabStall 0x40, by decide +kernel⟩,
   ⟨fabStall 0x40, by decide +kernel⟩,
   ⟨fabStall 0x40, by decide +kernel⟩,
   ⟨fabStall 0, by decide +kernel⟩,
   ⟨fabbed { reqTly := 1 }, by decide +kernel⟩,
   ⟨fabbed { reqTly := 1 }, by decide +kernel⟩⟩

theorem meets_FabricSignals :
    (∃ s : State, let f := fabOf s 0; fabImpl s.part.variant 0 = true ∧ s.pw.inReset = false ∧ s.pw.st.toNat ≤ 3 ∧ f.fenced = false ∧ 0 < f.wdTly ∧
      f.owed = [(owes 1)] ∧ (owes 1).req = some 7 ∧ true = decide ((owes 1).left ≤ 1)) ∧
    (∃ s : State, let f := fabOf s 0; fabImpl s.part.variant 0 = true ∧ s.pw.inReset = false ∧ s.pw.st.toNat ≤ 3 ∧ f.fenced = false ∧ 0 < f.wdTly ∧
      f.owed = [(owes 2)] ∧ (owes 2).req = some 7 ∧ false = decide ((owes 2).left ≤ 1)) ∧
    (∃ s : State, let f := fabOf s 0; fabImpl s.part.variant 0 = true ∧ flg s FP_STATUS_CLK_OK = true ∧
      f.rd = [{ req := 7, tag := 9#8, data := (5 : Line), bst := 0#2, idx := 0#6, last := true, sts := 0#4 }]) ∧
    (∃ s : State, let f := fabOf s 0; fabImpl s.part.variant 0 = true ∧ flg s FP_STATUS_CLK_OK = true ∧
      f.rsp = [{ req := 7, tag := 9#8, sts := 0#4 }]) ∧
    (∃ s : State, fabImpl s.part.variant 0 = true) ∧
    (∃ s : State, fabImpl s.part.variant 0 = true ∧ flg s FP_STATUS_CLK_OK = true ∧ (244999 < 245000 ∨ 1020000 < 244999)) ∧
    (∃ s : State, fabImpl s.part.variant 0 = true ∧ flg s FP_STATUS_CLK_OK = true ∧ (1020001 < 245000 ∨ 1020000 < 1020001)) ∧
    (∃ s : State, let f := fabOf s 31; fabImpl s.part.variant 31 = true ∧ flg s FP_STATUS_CLK_OK 31 = false ∧ f.clkOnce = true ∧ 245000 ≤ 1020000 ∧
      1020000 ≤ 1020000) ∧
    (∃ s : State, let f := fabOf s 31; fabImpl s.part.variant 31 = true ∧ flg s FP_STATUS_CLK_OK 31 = false ∧ f.clkOnce = false ∧ 245000 ≤ 245000 ∧
      245000 ≤ 1020000) :=
  ⟨⟨fabbed { wdTly := 1, reqs := [asked 1 (word 0x1000)], owed := [{ req := some 7, left := 1 }] }, by decide +kernel⟩,
   ⟨fabbed { wdTly := 1, reqs := [asked 1 (word 0x1000 1)], owed := [{ req := some 7, left := 2 }] }, by decide +kernel⟩,
   ⟨fabbed { rd := [{ req := 7, tag := 9, data := 5, bst := 0, idx := 0, last := true, sts := 0 }], rdHeld := 1 }, by decide +kernel⟩,
   ⟨fabbed { rsp := [{ req := 7, tag := 9, sts := 0 }] }, by decide +kernel⟩,
   ⟨fabbed {}, by decide +kernel⟩,
   ⟨fabbed {}, by decide +kernel⟩,
   ⟨fabbed {}, by decide +kernel⟩,
   ⟨{ State.reset with fab := [(31, { clkOnce := true })] }, by decide +kernel⟩,
   ⟨State.reset, by decide +kernel⟩⟩

theorem meets_FabricControl :
    (∃ s : State, fabImpl s.part.variant 0 = true ∧ burstDue s 0 = some (asked 1#5 (word 4096#46 1#6))) ∧
    (∃ s : State, let f := fabOf s 0; fabImpl s.part.variant 0 = true ∧ applyOpen s = true ∧ f.reqs.any FabReq.live = false ∧
      mget s.shadow (FP_ALLOC_RDLINES.off 0) = none ∧ flg s FP_CTL_EN = false ∧ staged s FP_CTL_EN = 1 ∧ f.fenced = false) ∧
    (∃ s : State, fabImpl s.part.variant 0 = true ∧ s.pw.st.toNat ≤ 1 ∧ s.pw.inReset = false ∧ drainHead s 0 = some (asked 2#5 (word 4096#46), 0) ∧
      (asked 2#5 (word 4096#46)).opc = 2#5 ∧ target s ((asked 2#5 (word 4096#46)).lineAddr 0) = Target.dram 0 4096) ∧
    (∃ s : State, fabImpl s.part.variant 0 = true ∧ s.pw.inReset = false) ∧
    (∃ s : State, fabImpl s.part.variant 0 = true ∧ s.pw.inReset = false ∧ BitVec.getLsbD (1 : Word) 0 = true) ∧
    (∃ s : State, let f := fabOf s 0; fabImpl s.part.variant 0 = true ∧ s.pw.inReset = false ∧ f.fenced = false ∧ f.owed = []) ∧
    (∃ s : State, let f := fabOf s 0; fabImpl s.part.variant 0 = true ∧ flg s FP_FENCE_STAT_CFG = true ∧ flg s FP_FENCE_STAT_HOST = false ∧
      flg s FP_FENCE_STAT_DRAINED = true ∧ f.fenced = true ∧ f.unfenceWait = [] ∧ s.en.pf = PfSt.none ∧ s.pw.st.toNat ≤ 3) ∧
    (∃ s : State, let f := fabOf s 0; fabImpl s.part.variant 0 = true ∧ f.fenced = true ∧ flg s FP_FENCE_STAT_DRAINED = false ∧
      f.reqs.any FabReq.live = false ∧ f.fenceWait = [] ∧ f.relHost = false ∧ f.relCfg = false ∧ flg s FP_FENCE_STAT_HOST = true) ∧
    (∃ s : State, let f := fabOf s 0; fabImpl s.part.variant 0 = true ∧
      ((f.fenceWait.any fun e => decide (e.2 ≠ 0) && decide (e.2 ≤ s.clk)) = true)) :=
  ⟨⟨setFld FP_CTL_BST_TMO 0 1 { fabbed { reqs := [asked 1 (word 0x1000 1)], owed := [{ req := some 7, left := 2 }] } with clk := 400 }, by decide +kernel⟩,
   ⟨{ State.reset with shadow := [(0xC0000, 0xFF81)] }, by decide +kernel⟩,
   ⟨fabbed { reqs := [asked 2 (word 0x1000)] }, by decide +kernel⟩,
   ⟨addFld FP_PROTO_CNT_COUNT 0 5 (setFld FP_PROTO_TLY_OVR 0 1 State.reset), by decide +kernel⟩,
   ⟨setFoot3 (fpFoot 0) 5 State.reset, by decide +kernel⟩,
   ⟨fabbed { reqTly := 1 }, by decide +kernel⟩,
   ⟨setFld FP_CTL_EN 0 1 (setFld FP_FENCE_STAT_CFG 0 1 (setFld FP_FENCE_STAT_DRAINED 0 1 (fabbed { fenced := true }))), by decide +kernel⟩,
   ⟨setFld FP_FENCE_STAT_HOST 0 1 (fabbed { fenced := true, reqTly := 3 }), by decide +kernel⟩,
   ⟨{ fabbed { fenceWait := [(0, 5)] } with clk := 5 }, by decide +kernel⟩⟩

theorem meets_FabricAbsent :
    ∃ s : State, fabImpl s.part.variant 16 = false :=
  ⟨{ State.reset with part := { variant := .cx3d } }, by decide +kernel⟩

theorem meets_SchedulerQueue :
    (∃ s : State, let q := (portOf s 0).sched; PortHere s (0 : Fin 20) ∧ q.wait = [rd0] ∧ rd0.kind = SubKind.read ∧ queueRoom s 0 rd0 = true ∧
      portFails s 0 = false ∧ (portOf s 0).link.timedOut = false ∧ (serial 0 = true → fld s SL_STAT_LSTATE ≠ 1)) ∧
    (∃ s : State, let q := (portOf s 0).sched; PortHere s (0 : Fin 20) ∧ q.wait = [rd0] ∧ portFails s 0 = true) ∧
    (∃ s : State, PortHere s (0 : Fin 20) ∧ mayIssue s 0 = true ∧ 0 < subCount s 0 ∧ BitVec.toNat 0#4 < clocksPerTick s 0 ∧
      select (countPromoted 0 s) 0 0 (slotClk (countPromoted 0 s) 0 (BitVec.toNat 0#4)) = (some rdCand, false) ∧ rdCand.pick = Pick.req rd0 ∧
        rdCand.op.isCol = true) ∧
    (∃ s : State, let q := (portOf s 0).sched; PortHere s (0 : Fin 20) ∧ (portOf s 0).dram.alertAt = none ∧ (portOf s 0).link.lost = false ∧
      q.retry = [iss Op.wr wr0] ∧ (iss Op.wr wr0).req = some wr0 ∧ goodDue s 0 (iss Op.wr wr0) = true ∧ acked s 0 (iss Op.wr wr0) = true ∧
        wr0.kind = SubKind.write (9 : Line) allBytes false ∧ wr0.owner = Owner.post) ∧
    (∃ s : State, let q := (portOf s 0).sched; PortHere s (0 : Fin 20) ∧ (portOf s 0).dram.alertAt = none ∧ (portOf s 0).link.lost = false ∧
      q.retry = [iss Op.rd rd0] ∧ (iss Op.rd rd0).req = some rd0 ∧ goodDue s 0 (iss Op.rd rd0) = true ∧ acked s 0 (iss Op.rd rd0) = true ∧
        rd0.kind = SubKind.read) ∧
    (∃ s : State, let q := (portOf s 0).sched; PortHere s (0 : Fin 20) ∧ (List.find? (fun g => decide (g.id = 4)) q.flight = some fl0) ∧
      fl0.req.kind = SubKind.read) :=
  ⟨⟨sched { wait := [rd0] }, by decide +kernel⟩,
   ⟨setPstate 0 .off (sched { wait := [rd0] }), by decide +kernel⟩,
   ⟨sched { queue := [rd0], subs := [(0, { openRows := [(0, 0)] })] }, by decide +kernel⟩,
   ⟨at' 1000 (sched { retry := [iss .wr wr0] }), by decide +kernel⟩,
   ⟨at' 1000 (sched { retry := [iss .rd rd0] }), by decide +kernel⟩,
   ⟨sched { flight := [fl0] }, by decide +kernel⟩⟩

theorem meets_SchedulerTime :
    (∃ s : State, PortHere s (0 : Fin 20) ∧ pstate s 0 = PState.service ∧
      (∀ l ∈ rankLocs { ch := (0 : Fin 2), dimm := (0 : Fin 2), prank := (0 : Fin 2), cid := (0 : Fin 8) }, rankThere s 0 l = true ∧
        0 < refInterval s 0 (dimmOf l) ∧ s.clk ≤ mgetD (portOf s 0).dram.tempAt (dimmOf l) 0 + 1000 * edgesMs ∧ (rankSt s 0 (rankKey l)).pulled = 0 ∧
        (rankSt s 0 (rankKey l)).start + refInterval s 0 (dimmOf l) ≤ s.clk)) ∧
    (∃ s : State, let q := (portOf s 0).sched; PortHere s (0 : Fin 20) ∧ mget q.cool 3 = some 0 ∧ 0 + 1000 * edgesMs ≤ s.clk) ∧
    (∃ s : State, let q := (portOf s 0).sched; PortHere s (0 : Fin 20) ∧ fld s PS_CTL_PAGE = 2 ∧ mayIssue s 0 = true ∧ flg s TB_STAT_HOLD = false ∧
      BitVec.toNat 0#4 < clocksPerTick s 0 ∧
        openRow s 0 (locOfBank 0 { dimm := (0 : Fin 2), prank := (0 : Fin 2), cid := (0 : Fin 8), bg := (0 : Fin 8), bank := (0 : Fin 4) }) = some 7 ∧ mget (subOf s 0 0).lastCol (bankNo (locOfBank 0 { dimm := (0 : Fin 2), prank := (0 : Fin 2), cid := (0 : Fin 8), bg := (0 : Fin 8), bank := (0 : Fin 4) })) = some 0 ∧ (∀ r ∈ q.queue ++ q.wait, sameRow (locOf s 0 r.la) { locOfBank 0 { dimm := (0 : Fin 2), prank := (0 : Fin 2), cid := (0 : Fin 8), bg := (0 : Fin 8), bank := (0 : Fin 4) } with row := 7 } = false) ∧ 0 + fld s PS_CTL_PG_TMO ≤ s.clk + leadOf s 0 ∧ (select s 0 0 (slotClk s 0 (BitVec.toNat 0#4))).1 = none ∧ ready s 0 0 Op.prePb { locOfBank 0 { dimm := (0 : Fin 2), prank := (0 : Fin 2), cid := (0 : Fin 8), bg := (0 : Fin 8), bank := (0 : Fin 4) } with row := 7 } false (slotClk s 0 (BitVec.toNat 0#4)) = true) ∧
    (∃ s : State, let q := (portOf s 0).sched; PortHere s (0 : Fin 20) ∧ (portOf s 0).prot.merge = [] ∧
      (List.find? (fun x => decide (x.due ≤ s.clk)) q.pauses = some (pause 0 0 400)) ∧ pauseClear s 0 (pause 0 0 400) = true ∧
        guardClear s 0 (pause 0 0 400).len = true) ∧
    (∃ s : State, let q := (portOf s 0).sched; PortHere s (0 : Fin 20) ∧ (portOf s 0).prot.merge = [] ∧
      (List.find? (fun x => decide (x.due ≤ s.clk)) q.pauses = some (pause 0 0 400)) ∧ pauseClear s 0 (pause 0 0 400) = true ∧
        (pause 0 0 400).due + fld s PS_SLOT_PWAIT * edgesMs ≤ s.clk) ∧
    (∃ s : State, s.pw.inReset = false ∧ BitVec.getLsbD (2147483648 : Word) 31 = true) ∧
    (∃ s : State, s.pw.inReset = false ∧ BitVec.getLsbD (256 : Word) 8 = true) ∧
    (∃ s : State, PortHere s (19 : Fin 20) ∧ s.pw.inReset = false ∧ BitVec.getLsbD (1 : Word) 0 = true) :=
  ⟨⟨setFld DP_T7_TREFI 0 9360 (at' 1560 (sched {})), by decide +kernel⟩,
   ⟨at' 400000000 (sched { cool := [(3, 0)] }), by decide +kernel⟩,
   ⟨setFld PS_CTL_PAGE 0 2 (at' 2000 (sched { subs := [(0, { openRows := [(0, 7)], lastCol := [(0, 0)] })] })), by decide +kernel⟩,
   ⟨sched { pauses := [pause 0 0 400] }, by decide +kernel⟩,
   ⟨at' 100000000 (sched { pauses := [pause 0 0 400] }), by decide +kernel⟩,
   ⟨State.reset, by decide +kernel⟩,
   ⟨State.reset, by decide +kernel⟩,
   ⟨addFld PS_CNT0_FORCED 19 3 State.reset, by decide +kernel⟩⟩

theorem meets_MergeAndScrub :
    (∃ s : State, let q := (portOf s 0).prot; PortHere s (0 : Fin 20) ∧ mget q.merge 31 = some one ∧ one.closed = false ∧
      one.opened + fld s EC_CTL_GATHER * 4 ≤ s.clk) ∧
    (∃ s : State, let q := (portOf s 0).prot; PortHere s (0 : Fin 20) ∧
      (List.find? (fun g => decide (g.req.kind = SubKind.rmw 31)) (portOf s 0).sched.flight = some (flK (SubKind.rmw 31))) ∧
        mget q.merge 31 = some one ∧ one.poison = false ∧
        ((decodeFlight (modSched 0 (fun x => { x with flight := List.filter (fun g => decide (g.id ≠ (flK (SubKind.rmw 31)).id)) x.flight }) s) 0 (flK (SubKind.rmw 31)) (0 : Burst)).1.tainted = false)) ∧
    (∃ s : State, let q := (portOf s 0).prot; PortHere s (0 : Fin 20) ∧
      (List.find? (fun g => decide (g.req.kind = SubKind.rmw 31)) (portOf s 0).sched.flight = some (flK (SubKind.rmw 31) true)) ∧
        mget q.merge 31 = some one ∧ one.poison = false ∧
        ((decodeFlight (modSched 0 (fun x => { x with flight := List.filter (fun g => decide (g.id ≠ (flK (SubKind.rmw 31) true).id)) x.flight }) s) 0 (flK (SubKind.rmw 31) true) (0 : Burst)).1.tainted = true)) ∧
    (∃ s : State, let q := (portOf s 0).prot; PortHere s (0 : Fin 20) ∧ flg s SCR_CTL_EN = true ∧ scrubOn s = true ∧ pstate s 0 = PState.service ∧
      s.pw.st.toNat ≤ 1 ∧ q.scrubDue ≤ s.clk ∧ q.scrubOut = false ∧ scrubLines s 0 ≠ 0 ∧
        (liveDimms s 0).contains (dimmOf (locOf s 0 (q.scrubPos * 64))) = true ∧ c7Deferred s = false ∧
        fld s PS_WM_RSV 0 < queueCap 0 - (portOf s 0).sched.queue.length) ∧
    (∃ s : State, PortHere s (0 : Fin 20) ∧
      (List.find? (fun g => decide (g.req.kind = SubKind.visit)) (portOf s 0).sched.flight = some (flK SubKind.visit)) ∧
        (flK SubKind.visit).overwritten = false ∧
        ((portOf (modProt 0 (fun x => { x with scrubPos := x.scrubPos + 1, scrubOut := false }) (visitOutcome 0 (flK SubKind.visit).req.la (decodeFlight (modSched 0 (fun x => { x with flight := List.filter (fun g => decide (g.id ≠ (flK SubKind.visit).id)) x.flight }) s) 0 (flK SubKind.visit) (0 : Burst)) (modSched 0 (fun x => { x with flight := List.filter (fun g => decide (g.id ≠ (flK SubKind.visit).id)) x.flight }) s))) 0).prot.scrubPos < capG (modProt 0 (fun x => { x with scrubPos := x.scrubPos + 1, scrubOut := false }) (visitOutcome 0 (flK SubKind.visit).req.la (decodeFlight (modSched 0 (fun x => { x with flight := List.filter (fun g => decide (g.id ≠ (flK SubKind.visit).id)) x.flight }) s) 0 (flK SubKind.visit) (0 : Burst)) (modSched 0 (fun x => { x with flight := List.filter (fun g => decide (g.id ≠ (flK SubKind.visit).id)) x.flight }) s))) 0 * 2 ^ 24)) ∧
    (∃ s : State, let q := (portOf s 0).prot; PortHere s (0 : Fin 20) ∧ q.ceOpen = some 0 ∧ 0 + 1000 * edgesMs ≤ s.clk) ∧
    (∃ s : State, let q := (portOf s 0).prot; PortHere s (0 : Fin 20) ∧ q.ceRaiseDue = true ∧
      (∀ (a : Nat), q.ceLast = some a → a + 1000 * edgesMs ≤ s.clk)) ∧
    (∃ s : State, PortHere s (19 : Fin 20) ∧ s.pw.inReset = false ∧ BitVec.getLsbD (1 : Word) 0 = true) :=
  ⟨⟨at' 1000 (merging one), by decide +kernel⟩,
   ⟨modSched 0 (fun q => { q with flight := [flK (.rmw 31)] }) (merging one), by decide +kernel⟩,
   ⟨modSched 0 (fun q => { q with flight := [flK (.rmw 31) true] }) (merging one), by decide +kernel⟩,
   ⟨setFld SCR_CTL_EN 0 1 (sched {}), by decide +kernel⟩,
   ⟨sched { flight := [flK .visit] }, by decide +kernel⟩,
   ⟨at' 400000000 (modProt 0 (fun x => { x with ceOpen := some 0 }) State.reset), by decide +kernel⟩,
   ⟨at' 400000000 (modProt 0 (fun x => { x with ceRaiseDue := true, ceLast := some 0 }) State.reset), by decide +kernel⟩,
   ⟨addFld EC_CNT0_CE 19 3 State.reset, by decide +kernel⟩⟩

theorem meets_LogsAndRemap :
    (∃ s : State, let l := mgetD s.logs 20 { slots := [], head := 0#6, tail := 0#6, lost := 0#8, ceLast := none }; s.pw.inReset = false ∧
      logCount { l with tail := BitVec.extractLsb' 8 6 (256 : Word) } ≤ 32) ∧
    (∃ s : State, s.pw.inReset = false) ∧
    (∃ s : State, PortHere s (0 : Fin 20) ∧ s.pw.inReset = false ∧ BitVec.getLsbD (2147483648 : Word) 31 = true ∧ copyRunning s 0 = true) ∧
    (∃ s : State, let la := laOf s 0 (keyLoc (BitVec.toNat (2147483648 : Word) % 2 ^ 30)); PortHere s (0 : Fin 20) ∧ s.pw.inReset = false ∧
      BitVec.getLsbD (2147483648 : Word) 31 = true ∧ copyRunning s 0 = false ∧ remapOf s 0 (rowKey (locOf s 0 la)) = none ∧ fld s RM_CTL_LOC ≠ 0 ∧
        freeSlot s 0 = some 0) ∧
    (∃ s : State, PortHere s (0 : Fin 20) ∧ softReady s 0 = none ∧
      (List.find? (fun e => decide (e.2.st = RowSt.copy) || decide (e.2.st = RowSt.ret)) (portOf s 0).prot.remap = some (0, copying 0)) ∧
        placeOf (syncLine 0 (laOf s 0 { keyLoc (copying 0).key with col := (copying 0).copied }) s) 0 (laOf s 0 { keyLoc (copying 0).key with col := (copying 0).copied }) = Place.dram 0 ∧ (decodeLine (syncLine 0 (laOf s 0 { keyLoc (copying 0).key with col := (copying 0).copied }) s) 0 (laOf s 0 { keyLoc (copying 0).key with col := (copying 0).copied }) (readStored (syncLine 0 (laOf s 0 { keyLoc (copying 0).key with col := (copying 0).copied }) s) 0 (laOf s 0 { keyLoc (copying 0).key with col := (copying 0).copied })).1 (readStored (syncLine 0 (laOf s 0 { keyLoc (copying 0).key with col := (copying 0).copied }) s) 0 (laOf s 0 { keyLoc (copying 0).key with col := (copying 0).copied })).2 (0 : Burst)).1.tainted = false ∧ (copying 0).copied + 1 < 2 ^ lineLog s 0) ∧
    (∃ s : State, PortHere s (0 : Fin 20) ∧ softReady s 0 = none ∧
      (List.find? (fun e => decide (e.2.st = RowSt.copy) || decide (e.2.st = RowSt.ret)) (portOf s 0).prot.remap = some (0, copying 127)) ∧
        placeOf (syncLine 0 (laOf s 0 { keyLoc (copying 127).key with col := (copying 127).copied }) s) 0 (laOf s 0 { keyLoc (copying 127).key with col := (copying 127).copied }) = Place.dram 127168 ∧ (decodeLine (syncLine 0 (laOf s 0 { keyLoc (copying 127).key with col := (copying 127).copied }) s) 0 (laOf s 0 { keyLoc (copying 127).key with col := (copying 127).copied }) (readStored (syncLine 0 (laOf s 0 { keyLoc (copying 127).key with col := (copying 127).copied }) s) 0 (laOf s 0 { keyLoc (copying 127).key with col := (copying 127).copied })).1 (readStored (syncLine 0 (laOf s 0 { keyLoc (copying 127).key with col := (copying 127).copied }) s) 0 (laOf s 0 { keyLoc (copying 127).key with col := (copying 127).copied })).2 (0 : Burst)).1.tainted = false ∧ (copying 127).copied + 1 = 2 ^ lineLog s 0 ∧ (copying 127).st = RowSt.copy) :=
  ⟨⟨{ State.reset with logs := [(20, { head := 33, tail := 0 })] }, by decide +kernel⟩,
   ⟨{ State.reset with logs := [(20, { lost := 3 })] }, by decide +kernel⟩,
   ⟨modProt 0 (fun x => { x with remap := [(0, copying 0)] }) State.reset, by decide +kernel⟩,
   ⟨setFld RM_CTL_LOC 0 2 (sched {}), by decide +kernel⟩,
   ⟨modProt 0 (fun x => { x with remap := [(0, copying 0)] }) (sched {}), by decide +kernel⟩,
   ⟨modProt 0 (fun x => { x with remap := [(0, copying 127)] }) (sched {}), by decide +kernel⟩⟩

theorem meets_MarchEngine :
    (∃ s : State, let g := fld s MT_CTL_GROUP; let destr := flg s MT_CTL_MODE; s.pw.inReset = false ∧ s.march.running = false ∧
      fld s MT_CTL_ALG < 2 ∧ (destr = true → fld s MT_CTL_BGS ≠ 0) ∧ scrubOn s = true ∧ g ≠ 255 ∧ groupAllowed s destr g = true) ∧
    (∃ s : State, s.pw.inReset = false ∧ s.march.running = true) ∧
    (∃ s : State, s.march.running = true) ∧
    (∃ s : State, s.march.running = true ∧ s.march.destr = false ∧ s.march.byReg = true) ∧
    (∃ s : State, 31 < 32 ∧ s.march.running = true ∧ s.march.destr = true ∧ s.march.aborted = false ∧ s.march.groups = [31] ∧ Memory.wf s.spad) ∧
    (∃ s : State, s.pw.inReset = false ∧ BitVec.getLsbD (1 : Word) 0 = true) :=
  ⟨⟨State.reset, by decide +kernel⟩,
   ⟨{ State.reset with march := { running := true } }, by decide +kernel⟩,
   ⟨{ State.reset with march := { running := true } }, by decide +kernel⟩,
   ⟨setFld MT_STAT_BUSY 0 1 { State.reset with march := { running := true } }, by decide +kernel⟩,
   ⟨{ State.reset with march := { running := true, groups := [31], destr := true, bgs := 1 } }, by decide +kernel⟩,
   ⟨setWord 0x3C0000 5 State.reset, by decide +kernel⟩⟩

theorem meets_StallWindow :
    (∃ s : State, let k := fld s ST_SEL_STALL; (s.pw.inReset = false ∧ k < stallCount s.part.variant ∧ s.pw.st.toNat < 3) ∧
      (stallOf s k).st = StallSt.off ∧ enableOk s k = true) ∧
    (∃ s : State, let k := fld s ST_SEL_STALL; (s.pw.inReset = false ∧ k < stallCount s.part.variant ∧ s.pw.st.toNat < 3) ∧
      (stallOf s k).st = StallSt.off ∧ enableOk s k = false) ∧
    (∃ s : State, let k := fld s ST_SEL_STALL; (s.pw.inReset = false ∧ k < stallCount s.part.variant ∧ s.pw.st.toNat < 3) ∧
      (stallOf s k).st ≠ StallSt.off) ∧
    (∃ s : State, let k := fld s ST_SEL_STALL; (s.pw.inReset = false ∧ k < stallCount s.part.variant ∧ s.pw.st.toNat < 3) ∧
      (stallOf s k).st = StallSt.off) ∧
    (∃ s : State, let b := bits (BitVec.toNat (2147516416 : Word)) 0 15; s.pw.inReset = false ∧ BitVec.getLsbD (2147516416 : Word) 31 = true ∧
      b < stallCount s.part.variant ∧ (stallOf s b).st ≠ StallSt.off ∧ (stallOf s b).prod = 37 ∧
        (BitVec.getLsbD (2147516416 : Word) 15 = true ∨ bits (BitVec.toNat (2147516416 : Word)) 16 3 = 7) ∧ route s b = b ∧
        (stallOf s b).mismatch = false ∧ (stallOf s b).o + (stallOf s b).items.length + 1 + (stallOf s b).gout ≤ (stallOf s b).slots - 8) ∧
    (∃ s : State, let b := bits (BitVec.toNat (2147483648 : Word)) 0 15; s.pw.inReset = false ∧ BitVec.getLsbD (2147483648 : Word) 31 = true ∧
      flg s ST_PIO_STAT_POPBUSY = false ∧ b < stallCount s.part.variant ∧ (stallOf s b).st ≠ StallSt.off ∧ (stallOf s b).cons = 37 ∧
        (stallOf s b).mismatch = false ∧ readerDone (startRead b Owner.post 1 s) b Owner.post = none) ∧
    (∃ s : State, flg s ST_PIO_STAT_POPBUSY = true ∧
      (List.find? (fun e => (readerDone s e.1 Owner.post).isSome) s.stalls = some (0, { post0 with reader := some { owner := Owner.post, len := 1, n := 1, got := [{ data := (5 : Line), tag := 6#16 }] } })) ∧ readerDone s (0, { post0 with reader := some { owner := Owner.post, len := 1, n := 1, got := [{ data := (5 : Line), tag := 6#16 }] } }).1 Owner.post = some [{ data := (5 : Line), tag := 6#16 }]) ∧
    (∃ s : State, s.pw.inReset = false ∧ BitVec.getLsbD (1 : Word) 0 = true) ∧
    (∃ s : State, let k := fld s ST_SEL_STALL; (s.pw.inReset = false ∧ k < stallCount s.part.variant ∧ s.pw.st.toNat < 3) ∧
      BitVec.getLsbD (1 : Word) 0 = true) ∧
    (∃ s : State, BitVec.toNat 0#15 < stallCount s.part.variant ∧ (stallOf s (BitVec.toNat 0#15)).cfg1New = some (281085696 : Word) ∧
      (stallOf s (BitVec.toNat 0#15)).pktOpen = false ∧ applyOpen s = true ∧
        (stallOf s (BitVec.toNat 0#15)).pktFits (bits (BitVec.toNat (281085696 : Word)) 8 13) = true ∧
        queueMaxOk s (BitVec.toNat 0#15) (bits (BitVec.toNat (281085696 : Word)) 8 13) = true) :=
  ⟨⟨stallIn { cfg0 := 0x252500 }, by decide +kernel⟩,
   ⟨State.reset, by decide +kernel⟩,
   ⟨stallIn post0, by decide +kernel⟩,
   ⟨setFld ST_SEL_STALL 0 0x7FFF State.reset, by decide +kernel⟩,
   ⟨stallIn post0, by decide +kernel⟩,
   ⟨stallIn { post0 with wpos := 1 }, by decide +kernel⟩,
   ⟨setFld ST_PIO_STAT_POPBUSY 0 1 (stallIn { post0 with reader := some { owner := .post, len := 1, n := 1, got := [{ data := 5, tag := 6 }] } }), by decide +kernel⟩,
   ⟨addFld ST_ECNT_PWAIT 0 3 State.reset, by decide +kernel⟩,
   ⟨stallIn { post0 with errOver := 3 }, by decide +kernel⟩,
   ⟨stallIn { post0 with cfg1New := some 0x10C10700 }, by decide +kernel⟩⟩

theorem meets_StallEngine :
    (∃ s : State, let n := BitVec.toNat 0#15; n < stallCount s.part.variant ∧ flushDue s n = true) ∧
    (∃ s : State, let n := BitVec.toNat 0#15; n < stallCount s.part.variant ∧ pairIdle s n = true) ∧
    (∃ s : State, let n := BitVec.toNat 0#15; let x := stallOf s n; n < stallCount s.part.variant ∧ x.st ≠ StallSt.off ∧ c7Deferred s = false ∧
      ringDown s x = false ∧ s.pw.st.toNat ≤ 1 ∧ x.rew = false ∧ x.fullWords ≠ []) ∧
    (∃ s : State, let n := BitVec.toNat 0#15; let x := stallOf s n; n < stallCount s.part.variant ∧ x.st ≠ StallSt.off ∧ x.h < x.spilled ∧
      x.h < x.wpos ∧ mget x.staged x.h = none ∧ pairReady s n = true ∧ s.pw.st.toNat ≤ 1 ∧ x.pair.isSome = true ∧ takePair n s = s) :=
  ⟨⟨at' 60000 (stallIn { post0 with part := some { items := 1, vb := 8, sop := true } }), by decide +kernel⟩,
   ⟨at' 600000 (stallIn { post0 with pair := some 0 }), by decide +kernel⟩,
   ⟨stallIn { post0 with pair := some 0, staged := [(0, { data := 5, tag := 6 })], wpos := 8, o := 64 }, by decide +kernel⟩,
   ⟨stallIn { post0 with pair := some 0, wpos := 9, o := 72, spilled := 8 }, by decide +kernel⟩⟩

theorem meets_RingRequests :
    (∃ s : State, let u := active s; let clean := hdrClean (hdr 64#40) false false false false; ((hdr 64#40).dst.toNat = ownStop s ∧
      ringOpen s = true) ∧ ringRefuse u (hdr 64#40) true true clean = none) ∧
    (∃ s : State, let u := active s; let clean := hdrClean (hdr 64#40) false false false false; ((hdr 64#40).dst.toNat = ownStop s ∧
      ringOpen s = true) ∧ ringRefuse u (hdr 64#40) true true clean = some 4#4) ∧
    (∃ s : State, let u := active s; ((hdr 64#40 0#64 0#8 0#6 true).dst.toNat = ownStop s ∧ ringOpen s = true) ∧
      ringRefuse u (hdr 64#40 0#64 0#8 0#6 true) true true (hdrClean (hdr 64#40 0#64 0#8 0#6 true) false false false true) = none) ∧
    (∃ s : State, let u := active s; let clean := hdrClean (hdr 64#40) false false false false; ((hdr 64#40).dst.toNat = ownStop s ∧
      ringOpen s = true) ∧ ringRefuse u (hdr 64#40) true false clean = none) ∧
    (∃ s : State, let u := active s; ((hdr 64#40 1#64).dst.toNat = ownStop s ∧ ringOpen s = true) ∧
      ringRefuse u (hdr 64#40 1#64) true false (hdrClean (hdr 64#40 1#64) false false true false) = none) ∧
    (∃ s : State, let u := active s;
      let atomOk := hdrClean (hdr 64#40 0#64 48#8 8#6) true true false false && atomicOk (bits (hdr 64#40 0#64 48#8 8#6).arg.toNat 0 4) (bits (hdr 64#40 0#64 48#8 8#6).arg.toNat 4 3) && decide (bits (hdr 64#40 0#64 48#8 8#6).arg.toNat 7 1 = 0) && decide ((hdr 64#40 0#64 48#8 8#6).off.toNat % 2 ^ bits (hdr 64#40 0#64 48#8 8#6).arg.toNat 4 3 = 0); ((hdr 64#40 0#64 48#8 8#6).dst.toNat = ownStop s ∧ ringOpen s = true) ∧ ringRefuse u (hdr 64#40 0#64 48#8 8#6) true false atomOk = none) ∧
    (∃ s : State, let u := active s;
      let atomOk := hdrClean (hdr 64#40 0#64 58#8 8#6) true true false false && atomicOk (bits (hdr 64#40 0#64 58#8 8#6).arg.toNat 0 4) (bits (hdr 64#40 0#64 58#8 8#6).arg.toNat 4 3) && decide (bits (hdr 64#40 0#64 58#8 8#6).arg.toNat 7 1 = 0) && decide ((hdr 64#40 0#64 58#8 8#6).off.toNat % 2 ^ bits (hdr 64#40 0#64 58#8 8#6).arg.toNat 4 3 = 0); ((hdr 64#40 0#64 58#8 8#6).dst.toNat = ownStop s ∧ ringOpen s = true) ∧ ringRefuse u (hdr 64#40 0#64 58#8 8#6) true false atomOk = some 4#4) ∧
    (∃ s : State, ((hdr 0#40).dst.toNat = ownStop s ∧ ringOpen s = true) ∧ homeImpl s.part.variant = true ∧
      failedAgent (active s) (hdr 0#40).src.toNat = false ∧
      hdrClean (hdr 0#40) true false false false = true ∧ (hdr 0#40).laddr = 0#40 ∧ (hdr 0#40).arg = 0#8) ∧
    (∃ s : State, ((hdr 0#40 0#64 2#8).dst.toNat = ownStop s ∧ ringOpen s = true) ∧ homeImpl s.part.variant = true ∧
      failedAgent (active s) (hdr 0#40 0#64 2#8).src.toNat = false ∧ hdrClean (hdr 0#40 0#64 2#8) true false false false = true ∧
        (hdr 0#40 0#64 2#8).laddr = 0#40 ∧ ((hdr 0#40 0#64 2#8).arg = 1#8 ∨ (hdr 0#40 0#64 2#8).arg = 2#8)) ∧
    (∃ s : State, ((hdr 0#40 0#64 2#8).dst.toNat = ownStop s ∧ ringOpen s = true) ∧ homeImpl s.part.variant = true ∧
      failedAgent (active s) (hdr 0#40 0#64 2#8).src.toNat = true ∧ hdrClean (hdr 0#40 0#64 2#8) true false false false = true ∧
        (hdr 0#40 0#64 2#8).laddr = 0#40 ∧ (hdr 0#40 0#64 2#8).arg.toNat ≤ 2) ∧
    (∃ s : State, let u := active s; let line := (hdr 64#40).laddr.toNat; let clean := hdrClean (hdr 64#40) false false false false;
      ((hdr 64#40).dst.toNat = ownStop s ∧ ringOpen s = true) ∧ ringRefuse u (hdr 64#40) false false clean = none ∧
        target u (line * 64) = Target.dram 0 4096 ∧ portFails u 0 = false ∧ stopAfter u (hdr 64#40).src.toNat .rdo = []) ∧
    (∃ s : State, let u := active s; let line := (hdr 64#40 1#64).laddr.toNat; ((hdr 64#40 1#64).dst.toNat = ownStop s ∧ ringOpen s = true) ∧
      ringRefuse u (hdr 64#40 1#64) false false (hdrClean (hdr 64#40 1#64) false false true false) = none ∧
        target u (line * 64) = Target.dram 0 4096 ∧ portFails u 0 = false ∧ stopAfter u (hdr 64#40 1#64).src.toNat .wru = []) ∧
    (∃ s : State, ((hdr 64#40).dst.toNat = ownStop s ∧ ringOpen s = true) ∧ (11#5 = 0#5 ∨ 10 < BitVec.toNat 11#5)) :=
  ⟨⟨ring, by decide +kernel⟩,
   ⟨served State.reset, by decide +kernel⟩,
   ⟨ring, by decide +kernel⟩,
   ⟨ring, by decide +kernel⟩,
   ⟨ring, by decide +kernel⟩,
   ⟨ring, by decide +kernel⟩,
   ⟨ring, by decide +kernel⟩,
   ⟨ring, by decide +kernel⟩,
   ⟨ring, by decide +kernel⟩,
   ⟨setFld HOME_AGT_FAIL_FAILED 0 0x20 ring, by decide +kernel⟩,
   ⟨ring, by decide +kernel⟩,
   ⟨ring, by decide +kernel⟩,
   ⟨ring, by decide +kernel⟩⟩

theorem meets_HomeAnswers :
    (∃ s : State, let line := answer.laddr.toNat; let stop := answer.src.toNat; (answer.dst.toNat = ownStop s ∧ homeImpl s.part.variant = true ∧
      failedAgent s stop = false) ∧ s.home.snpset = none ∧ awaiting s line stop = some asks6 ∧ ansClean answer = true ∧ answer.note = false) ∧
    (∃ s : State, let line := (hdr 64#40).laddr.toNat; let stop := (hdr 64#40).src.toNat; ((hdr 64#40).dst.toNat = ownStop s ∧
      homeImpl s.part.variant = true ∧ failedAgent s stop = false) ∧ s.home.snpset = none ∧ awaiting s line stop = none ∧ ansClean (hdr 64#40) = true) ∧
    (∃ s : State, let stop := (hdr 64#40 1#64).src.toNat; ((hdr 64#40 1#64).dst.toNat = ownStop s ∧
      homeImpl s.part.variant = true ∧ failedAgent s stop = false) ∧ ansClean (hdr 64#40 1#64) = false) ∧
    (∃ s : State, let line := (hdr 64#40).laddr.toNat; let stop := (hdr 64#40).src.toNat; ((hdr 64#40).dst.toNat = ownStop s ∧
      homeImpl s.part.variant = true ∧ failedAgent s stop = false) ∧ datClean (hdr 64#40) = true ∧
        (List.find? (fun r => decide (r.line = line) && decide (r.phase = HPhase.snoop) && takesLine r && r.fwdLine.isNone) s.home.reqs = some fwd6)) ∧
    (∃ s : State, let line := (hdr 64#40).laddr.toNat; let stop := (hdr 64#40).src.toNat; ((hdr 64#40).dst.toNat = ownStop s ∧
      homeImpl s.part.variant = true ∧ failedAgent s stop = false) ∧ ackClean (hdr 64#40) = true ∧
        (List.find? (fun r => decide (r.line = line) && r.granted && decide (r.stop = stop)) s.home.reqs = some granted5)) ∧
    (∃ s : State, (List.find? (fun r => decide (r.line = BitVec.toNat 64#40) && decide (r.phase = HPhase.snoop) && decide (r.snoopAt + fld s HOME_TMO_US * edgesUs ≤ s.clk)) s.home.reqs = some asks6) ∧ asks6.await.filter (fun a => (liveAgents s).contains a) ≠ []) ∧
    (∃ s : State, (homeImpl s.part.variant = true ∧ s.pw.inReset = false)) ∧
    (∃ s : State, (homeImpl s.part.variant = true ∧ s.pw.inReset = false) ∧ BitVec.getLsbD (1 : Word) 0 = true) ∧
    (∃ s : State, (homeImpl s.part.variant = true ∧ s.pw.inReset = false) ∧ BitVec.getLsbD (1 : Word) 0 = true) ∧
    (∃ s : State, (homeImpl s.part.variant = true ∧ s.pw.inReset = false) ∧ BitVec.getLsbD (1 : Word) 0 = true) :=
  ⟨⟨homed asks6, by decide +kernel⟩,
   ⟨ring, by decide +kernel⟩,
   ⟨ring, by decide +kernel⟩,
   ⟨homed fwd6, by decide +kernel⟩,
   ⟨homed granted5, by decide +kernel⟩,
   ⟨at' 400000 (homed asks6), by decide +kernel⟩,
   ⟨setFld HOME_AGT_FAIL_FAILED 0 0xFFFFFF State.reset, by decide +kernel⟩,
   ⟨setWord 0xA0020 5 State.reset, by decide +kernel⟩,
   ⟨setFoot3 ringFoot 5 State.reset, by decide +kernel⟩,
   ⟨addFld HOME_RSV_LOSS_STORE 0 5 State.reset, by decide +kernel⟩⟩

theorem meets_TimebaseSteps :
    (∃ s : State, s.pw.inReset = false) ∧
    (∃ s : State, (s.pw.inReset = false ∧ s.tb.launches = [] ∧ s.tb.step = StepSt.none)) ∧
    (∃ s : State, (s.pw.inReset = false ∧ (s.tb.launches ≠ [] ∨ s.tb.step ≠ StepSt.none))) ∧
    (∃ s : State, (s.pw.inReset = false ∧ (s.tb.launches ≠ [] ∨ s.tb.step ≠ StepSt.none))) ∧
    (∃ s : State, s.tb.step = StepSt.armed ∧ s.tb.fedArm = none) ∧
    (∃ s : State, stampsDone s = true ∧ s.tb.step = StepSt.soft) ∧
    (∃ s : State, stampsDone s = true ∧ s.tb.step = StepSt.armed ∧ flg s TB_STAT_ARMED = false) ∧
    (∃ s : State, s.tb.step = StepSt.armed ∧ flg s TB_STAT_ARMED = true ∧ s.tb.armEnd ≤ s.clk ∧ s.tb.fedArm = none) ∧
    (∃ s : State, s.pw.inReset = false ∧ s.pw.st.toNat < 3 ∧ 4 ≤ 4 ∧ s.tb.epochBlind ≤ s.clk ∧ flg s TB_FED_CHECK = true) ∧
    (∃ s : State, s.pw.inReset = false ∧ BitVec.getLsbD (1 : Word) 0 = true ∧ flg s TB_FED_EOUT_EN = true ∧ s.tb.epochOut ≤ s.clk) :=
  ⟨⟨{ State.reset with count := 0x500000007 }, by decide +kernel⟩,
   ⟨State.reset, by decide +kernel⟩,
   ⟨{ State.reset with tb := { step := .soft } }, by decide +kernel⟩,
   ⟨{ State.reset with tb := { launches := [(0, { t := 5, acts := [] })] } }, by decide +kernel⟩,
   ⟨{ State.reset with tb := { step := .armed } }, by decide +kernel⟩,
   ⟨{ State.reset with tb := { step := .soft } }, by decide +kernel⟩,
   ⟨{ State.reset with tb := { step := .armed } }, by decide +kernel⟩,
   ⟨setFld TB_STAT_ARMED 0 1 { State.reset with tb := { step := .armed, armEnd := 5 }, clk := 5 }, by decide +kernel⟩,
   ⟨setFld TB_FED_CHECK 0 1 State.reset, by decide +kernel⟩,
   ⟨setFld TB_FED_EOUT_EN 0 1 State.reset, by decide +kernel⟩⟩

theorem meets_TimeMarks :
    (∃ s : State, let m := (portOf s 4).marks; PortHere s (4 : Fin 20) ∧ linkUp s 4 = true ∧ m.t1 = none ∧ m.due ≤ s.clk) ∧
    (∃ s : State, let m := (portOf s 4).marks; PortHere s (4 : Fin 20) ∧ m.t1 = some (0 : Int) ∧ linkUp s 4 = true) ∧
    (∃ s : State, let m := (portOf s 4).marks; PortHere s (4 : Fin 20) ∧ m.t1 = some (0 : Int) ∧ linkUp s 4 = true ∧ m.void = false) ∧
    (∃ s : State, PortHere s (4 : Fin 20) ∧
      (asSigned 32 (((800 : Int) - (0 : Int)) % (2 : Int) ^ 32).toNat - asSigned 32 (((0 : Int) - (0 : Int)) % (2 : Int) ^ 32).toNat - asSigned 16 (fld s TS_ASYM_A 4)) % (2 : Int) = (0 : Int) ∧ fld s TS_CTL_TOL 4 < ((asSigned 32 (((800 : Int) - (0 : Int)) % (2 : Int) ^ 32).toNat - asSigned 32 (((0 : Int) - (0 : Int)) % (2 : Int) ^ 32).toNat - asSigned 16 (fld s TS_ASYM_A 4)) / (2 : Int)).natAbs) ∧
    (∃ s : State, PortHere s (4 : Fin 20) ∧ native s 4 = true ∧ s.pw.inReset = false ∧ BitVec.getLsbD (1 : Word) 0 = true) :=
  ⟨⟨marked {}, by decide +kernel⟩,
   ⟨marked { t1 := some 0 }, by decide +kernel⟩,
   ⟨marked { t1 := some 0 }, by decide +kernel⟩,
   ⟨marked { t1 := some 0 }, by decide +kernel⟩,
   ⟨addFld TS_CNT0_LATE 4 5 linked, by decide +kernel⟩⟩

theorem meets_Launches :
    (∃ s : State, mget s.tb.launches 7 = some { t := 0#64, acts := [act0] } ∧ act0.held = false ∧ act0.started = false ∧ act0.isPort = true ∧
      BitVec.toNat 0#64 ≤ s.count.toNat + leadOf s act0.port.toNat + fld s TB_LCTL_SETUP) ∧
    (∃ s : State, mget s.tb.launches 7 = some { t := 0#64, acts := [held0] } ∧ held0.started = false ∧ (held0.held = true ∨ held0.isPort = false) ∧
      BitVec.toNat 0#64 ≤ s.count.toNat + if held0.isPort = true then leadOf s held0.port.toNat else 0) ∧
    (∃ s : State, PortHere s (0 : Fin 20) ∧ (portOf s 0).sched.refHold ≤ s.clk) ∧
    (∃ s : State, PortHere s (0 : Fin 20) ∧
      (List.find? (fun z => decide (z.entered = 0) && decide (0 < streamLines z.act) && decide (z.t + ↑0 * ↑(streamPeriod z.act) - ↑(streamPre z.act) ≤ tick s)) (portOf s 0).streams = some stream0)) ∧
    (∃ s : State, s.pw.inReset = false ∧ BitVec.getLsbD (15 : Word) 3 = true) ∧
    (∃ s : State, 1 ≤ s.pw.st.toNat ∧ s.pw.st.toNat ≤ 3 ∧
      ((List.any s.tb.launches fun e => decide (e.2.t.toNat ≤ (countNow s).toNat + fld s TB_LCTL_SETUP + maxLead s + engineW s s.pw.st.toNat + 4096)) = true)) ∧
    (∃ s : State, (List.find? (fun e => decide (e.1 = BitVec.toNat 0#15)) s.tb.switches = some (BitVec.toNat 0#15, 1)) ∧
      (stallOf s (BitVec.toNat 0#15)).pktOpen = false ∧
        (switchOk (modTb (fun c => { c with switches := c.switches.erase (BitVec.toNat 0#15, 1) }) s) (BitVec.toNat 0#15) 1 = true)) ∧
    (∃ s : State, (List.find? (fun e => decide (e.1 = BitVec.toNat 0#15)) s.tb.switches = some (BitVec.toNat 0#15, 1)) ∧
      (stallOf s (BitVec.toNat 0#15)).pktOpen = false ∧
        (switchOk (modTb (fun c => { c with switches := c.switches.erase (BitVec.toNat 0#15, 1) }) s) (BitVec.toNat 0#15) 1 = false)) ∧
    (∃ s : State, s.pw.inReset = false) ∧
    (∃ s : State, s.tb.alarmArmed = true ∧ flg s TB_ALARM_CTL_EN = true ∧ alarmTick s ≤ (countNow s).toNat ∧ s.pw.inReset = false ∧
      flg s TB_ALARM_CTL_WAKE = false) :=
  ⟨⟨launched act0, by decide +kernel⟩,
   ⟨launched held0, by decide +kernel⟩,
   ⟨at' 5 (modSched 0 (fun q => { q with refHold := 5 }) State.reset), by decide +kernel⟩,
   ⟨modPort 0 (fun q => { q with streams := [stream0] }) (served State.reset), by decide +kernel⟩,
   ⟨launched act0, by decide +kernel⟩,
   ⟨{ launched act0 with pw := { st := 3 } }, by decide +kernel⟩,
   ⟨{ stallIn post0 with stalls := [(0, { st := .on }), (1, { st := .on })], tb := { switches := [(0, 1)] } }, by decide +kernel⟩,
   ⟨{ stallIn post0 with tb := { switches := [(0, 1)] } }, by decide +kernel⟩,
   ⟨State.reset, by decide +kernel⟩,
   ⟨setFld TB_ALARM_CTL_EN 0 1 { State.reset with tb := { alarmArmed := true } }, by decide +kernel⟩⟩

theorem meets_PortEnable :
    (∃ s : State, PortHere s (0 : Fin 20) ∧ pstate s 0 = PState.power) ∧
    (∃ s : State, let d := (portOf s 0).dram; PortHere s (0 : Fin 20) ∧ d.pwrEn = some 0 ∧ pstate s 0 = PState.power ∧ 0 + 50 * edgesMs ≤ s.clk) ∧
    (∃ s : State, let d := (portOf s 0).dram; PortHere s (0 : Fin 20) ∧ pstate s 0 = PState.power ∧ d.pwrEn = none ∧ (portPwr s 0).cur = none ∧
      (List.find? (fun e => decide (slotErr e.1 (if cx2 s 0 = true then 256 else 512) (serial 0 && (slotsOf 0 [dimm 4 16 true true false]).any fun e => decide (2 ≤ e.1) && e.2.present) e.2 ≠ 0)) (slotsOf 0 [dimm 4 16 true true false]) = some (0, dimm 4 16 true true false))) ∧
    (∃ s : State, let d := (portOf s 0).dram; PortHere s (0 : Fin 20) ∧ pstate s 0 = PState.power ∧ d.pwrEn = none ∧ (portPwr s 0).cur = none ∧
      serial 0 = false ∧ [dimm] = [dimm] ∧ slotErr 0 512 false dimm = 0 ∧ d.enable = Enable.cold ∧ shedSet s 0 = 0 ∧
        speedFor s 0 false [dimm] = some 4) ∧
    (∃ s : State, PortHere s (0 : Fin 20) ∧ pstate s 0 = PState.init) ∧
    (∃ s : State, let d := (portOf s 0).dram; PortHere s (0 : Fin 20) ∧ pstate s 0 = PState.train ∧ d.enable = Enable.cold ∧ 1#4 ≠ 0#4) ∧
    (∃ s : State, let d := (portOf s 0).dram; PortHere s (0 : Fin 20) ∧ pstate s 0 = PState.train ∧ d.enable = Enable.cold ∧ fillSet s 0 = 0 ∧
      (portPwr s 0).cur = none) ∧
    (∃ s : State, let d := (portOf s 0).dram; PortHere s (0 : Fin 20) ∧ d.enable = Enable.fill) :=
  ⟨⟨modDram 0 (fun x => { x with pwrEn := some 0 }) (inState 0 .power), by decide +kernel⟩,
   ⟨at' 20000000 (modDram 0 (fun x => { x with pwrEn := some 0 }) (inState 0 .power)), by decide +kernel⟩,
   ⟨inState 0 .power, by decide +kernel⟩,
   ⟨modDram 0 (fun x => { x with enable := .cold }) (inState 0 .power), by decide +kernel⟩,
   ⟨inState 0 .init, by decide +kernel⟩,
   ⟨modDram 0 (fun x => { x with enable := .cold }) (inState 0 .train), by decide +kernel⟩,
   ⟨modDram 0 (fun x => { x with enable := .cold }) (inState 0 .train), by decide +kernel⟩,
   ⟨modDram 0 (fun x => { x with enable := .fill }) (inState 0 .train), by decide +kernel⟩⟩

theorem meets_Alerts :
    (∃ s : State, let d := (portOf s 0).dram; PortHere s (0 : Fin 20) ∧ serial 0 = false ∧ pstate s 0 = PState.service ∧ d.alertAt = none ∧
      d.alertRise = none) ∧
    (∃ s : State, let d := (portOf s 0).dram; PortHere s (0 : Fin 20) ∧ serial 0 = false ∧ pstate s 0 = PState.service ∧ d.alertAt = none ∧
      d.alertRise ≠ none) ∧
    (∃ s : State, let d := (portOf s 0).dram; PortHere s (0 : Fin 20) ∧ d.alertAt ≠ none) ∧
    (∃ s : State, let d := (portOf s 0).dram; PortHere s (0 : Fin 20) ∧ d.alertRise = some 0 ∧ serial 0 = false ∧
      0 + 4 * fld s DP_ALERT_RECOV ≤ s.clk ∧ pstate s 0 = PState.service ∧ d.escalated = false ∧ d.alerts < fld s DP_ALERT_RETRY) ∧
    (∃ s : State, let d := (portOf s 0).dram; PortHere s (0 : Fin 20) ∧ d.alertRise = some 0 ∧ serial 0 = false ∧
      0 + 4 * fld s DP_ALERT_RECOV ≤ s.clk ∧ pstate s 0 = PState.service ∧ d.escalated = false ∧ fld s DP_ALERT_RETRY ≤ d.alerts) ∧
    (∃ s : State, let d := (portOf s 0).dram; PortHere s (0 : Fin 20) ∧ d.alertRise = some 0 ∧ serial 0 = false ∧
      0 + 4 * fld s DP_ALERT_RECOV ≤ s.clk ∧ pstate s 0 = PState.service ∧ (d.escalated = true ∨ true = false ∧ fld s DP_ALERT_RETRY ≤ d.alerts)) ∧
    (∃ s : State, PortHere s (0 : Fin 20) ∧ serial 0 = false ∧ inService s 0 = true) ∧
    (∃ s : State, PortHere s (0 : Fin 20)) :=
  ⟨⟨dimmStates {}, by decide +kernel⟩,
   ⟨dimmStates { alertRise := some 0 }, by decide +kernel⟩,
   ⟨dimmStates { alertAt := some 0 }, by decide +kernel⟩,
   ⟨at' 100000 (dimmStates { alertRise := some 0 }), by decide +kernel⟩,
   ⟨at' 100000 (dimmStates { alertRise := some 0, alerts := 100 }), by decide +kernel⟩,
   ⟨at' 100000 (dimmStates { alertRise := some 0, escalated := true }), by decide +kernel⟩,
   ⟨setPstate 0 .selfRefresh (dimmStates {}), by decide +kernel⟩,
   ⟨dimmStates {}, by decide +kernel⟩⟩

theorem meets_PortUpkeep :
    (∃ s : State, let q := (portOf s 0).sched; PortHere s (0 : Fin 20) ∧ pstate s 0 = PState.service ∧ fld s DP_SR_IDLE ≠ 0 ∧
      (portOf s 0).dram.idleAt + fld s DP_SR_IDLE * edgesUs ≤ s.clk ∧ portQuiet s 0 = true ∧ duePause s 0 = none ∧ q.pause = none ∧
        launchNames s 0 = false) ∧
    (∃ s : State, let q := (portOf s 0).sched; PortHere s (0 : Fin 20) ∧ srWaits s 0 = true ∧ q.wait ≠ [] ∧ serial 0 = false) ∧
    (∃ s : State, let q := (portOf s 0).sched; PortHere s (0 : Fin 20) ∧ (mayIssue s 0 = true ∧ q.retry.length < 63 ∧
      (portOf s 0).link.retry.length < 255) ∧ fld s DP_ZQ_PER ≠ 0 ∧
        (∀ l ∈ rankLocs { ch := (0 : Fin 2), dimm := (0 : Fin 2), prank := (0 : Fin 2), cid := (0 : Fin 8) }, rankThere s 0 l = true ∧
        (rankSt s 0 (rankKey l)).zqStart = none ∧ (rankSt s 0 (rankKey l)).zqLast + fld s DP_ZQ_PER * edgesMs ≤ s.clk)) ∧
    (∃ s : State, let q := (portOf s 0).sched; PortHere s (0 : Fin 20) ∧ (mayIssue s 0 = true ∧ q.retry.length < 63 ∧
      (portOf s 0).link.retry.length < 255) ∧ q.queue = [] ∧
        (∀ l ∈ rankLocs { ch := (0 : Fin 2), dimm := (0 : Fin 2), prank := (0 : Fin 2), cid := (0 : Fin 8) }, rankThere s 0 l = true ∧
        (subOf s 0 l.sub).openRows = [] ∧ (subOf s 0 l.sub).hist = [] ∧ (rankSt s 0 (rankKey l)).busy ≤ slotClk s 0 0 ∧
        ∃ z, (rankSt s 0 (rankKey l)).zqStart = some z ∧ z + edgesUs ≤ s.clk)) ∧
    (∃ s : State, PortHere s (0 : Fin 20) ∧ serial 0 = false ∧ pstate s 0 ≠ PState.off) ∧
    (∃ s : State, PortHere s (0 : Fin 20) ∧ (85 : Int) < (86 : Int)) ∧
    (∃ s : State, let q := (portOf s 0).sched; PortHere s (0 : Fin 20) ∧ (95 : Int) < (96 : Int) ∧ bits q.hot.toNat 1 1 = 0) ∧
    (∃ s : State, PortHere s (0 : Fin 20)) ∧
    (∃ s : State, PortHere s (19 : Fin 20) ∧ s.pw.inReset = false ∧ BitVec.getLsbD (1 : Word) 0 = true) :=
  ⟨⟨at' 4000000 (setFld DP_SR_IDLE 0 1 (sched {})), by decide +kernel⟩,
   ⟨setPstate 0 .selfRefresh (sched { wait := [rd0] }), by decide +kernel⟩,
   ⟨at' 400000 (setFld DP_ZQ_PER 0 1 (sched {})), by decide +kernel⟩,
   ⟨at' 400 (sched { ranks := zqRun }), by decide +kernel⟩,
   ⟨sched {}, by decide +kernel⟩,
   ⟨sched {}, by decide +kernel⟩,
   ⟨sched {}, by decide +kernel⟩,
   ⟨sched {}, by decide +kernel⟩,
   ⟨addFld DP_CNT0_PAR 19 5 State.reset, by decide +kernel⟩⟩

theorem meets_SerialLanes :
    (∃ s : State, PortHere s (4 : Fin 20) ∧ serial 4 = true ∧ pstate s 4 ≠ PState.off) ∧
    (∃ s : State, PortHere s (4 : Fin 20) ∧ serial 4 = true ∧ linkRuns s 4 = false) ∧
    (∃ s : State, PortHere s (4 : Fin 20) ∧ serial 4 = true ∧ native s 4 = true ∧ linkRuns s 4 = true ∧ fld s SL_FAULT_UNC 4 ≤ 1000) ∧
    (∃ s : State, PortHere s (4 : Fin 20) ∧ serial 4 = true ∧ native s 4 = true ∧ linkRuns s 4 = true ∧ 0 < fld s SL_FAULT_UNC 4 ∧
      fld s SL_FAULT_SYM 4 ≠ 0 ∧ fld s SL_FAULT_SYM 4 < 11) ∧
    (∃ s : State, PortHere s (4 : Fin 20) ∧ serial 4 = true ∧ linkRuns s 4 = true ∧ spareOf s 4 true = SpareUse.shadow 7 0 ∧ 7 < 8 ∧
      spareLane s 4 true = some 8 ∧ 8 < 9) ∧
    (∃ s : State, PortHere s (4 : Fin 20) ∧ serial 4 = true ∧ linkRuns s 4 = true ∧ spareOf s 4 false = SpareUse.shadow 7 0 ∧ 7 < 8 ∧
      spareLane s 4 false = some 8 ∧ 8 < 9) ∧
    (∃ s : State, PortHere s (4 : Fin 20) ∧ serial 4 = true ∧ spareOf s 4 true = SpareUse.shadow 0 0 ∧
      (laneOf (lanesOf s 4 true) (physOf s 4 true 0)).bad = true ∧ 0 + fld s SL_CTL_TKO 4 * edgesUs ≤ s.clk) ∧
    (∃ s : State, PortHere s (4 : Fin 20) ∧ serial 4 = true ∧ native s 4 = true ∧ linkRuns s 4 = true ∧ pstate s 4 = PState.service ∧
      fld s SL_STAT_LSTATE 4 = 0 ∧ flg s SL_RECAL_EN 4 = true ∧ rateWaits s 4 = false ∧ recalDueOf s 4 true ≤ s.clk ∧ s.pw.st.toNat ≤ 1 ∧
        spareUsed s 4 true = false ∧ spareOf s 4 true = SpareUse.idle ∧ spareLane s 4 true = some 8 ∧ (laneOf (lanesOf s 4 true) 8).bad = false) ∧
    (∃ s : State, PortHere s (4 : Fin 20) ∧ serial 4 = true ∧ spareOf s 4 true = SpareUse.turn 7 0 ∧ 0 + fld s SL_RECAL_HOLD 4 * edgesUs < s.clk) ∧
    (∃ s : State, PortHere s (4 : Fin 20) ∧ serial 4 = true ∧ pstate s 4 = PState.link) ∧
    (∃ s : State, PortHere s (4 : Fin 20) ∧ serial 4 = true) ∧
    (∃ s : State, PortHere s (4 : Fin 20) ∧ serial 4 = true ∧ fld s SL_STAT_LSTATE 4 = 0) :=
  ⟨⟨linkedIn .link, by decide +kernel⟩,
   ⟨inState 4 .link, by decide +kernel⟩,
   ⟨linked, by decide +kernel⟩,
   ⟨setFld SL_FAULT_SYM 4 10 linked, by decide +kernel⟩,
   ⟨linked { spareRx := .shadow 7 0, spareRxLane := some 8 }, by decide +kernel⟩,
   ⟨linked { spareTx := .shadow 7 0, spareTxLane := some 8 }, by decide +kernel⟩,
   ⟨at' 40000 (linked { spareRx := .shadow 0 0, rx := badLanes }), by decide +kernel⟩,
   ⟨setFld SL_RECAL_EN 4 1 (linked { spareRxLane := some 8 }), by decide +kernel⟩,
   ⟨at' 400000 (linked { spareRx := .turn 7 0 }), by decide +kernel⟩,
   ⟨inState 4 .link, by decide +kernel⟩,
   ⟨inState 4 .link, by decide +kernel⟩,
   ⟨linked, by decide +kernel⟩⟩

theorem meets_SerialLink :
    (∃ s : State, let a := healthyOf s 4 true 255#9; let b := healthyOf s 4 false 255#9; PortHere s (4 : Fin 20) ∧ serial 4 = true ∧
      pstate s 4 = PState.link ∧ 4 ≤ a.length ∧ 4 ≤ b.length) ∧
    (∃ s : State, let a := healthyOf s 4 true 15#9; let b := healthyOf s 4 false 511#9; PortHere s (4 : Fin 20) ∧ serial 4 = true ∧
      pstate s 4 = PState.link ∧ 4 ≤ a.length ∧ 4 ≤ b.length) ∧
    (∃ s : State, let k := (portOf s 4).link; PortHere s (4 : Fin 20) ∧ serial 4 = true ∧ k.lost = true ∧ k.relinked = false ∧ k.timedOut = false ∧
      linkRuns s 4 = true ∧ (k.txSeq - 4095#12).toNat ≤ k.retry.length) ∧
    (∃ s : State, let k := (portOf s 4).link; PortHere s (4 : Fin 20) ∧ serial 4 = true ∧ k.lost = true ∧ k.relinked = false ∧ k.timedOut = false ∧
      linkRuns s 4 = true ∧ (k.txSeq - 0#12).toNat ≤ k.retry.length) ∧
    (∃ s : State, let k := (portOf s 4).link; PortHere s (4 : Fin 20) ∧ serial 4 = true ∧ pstate s 4 = PState.linkDown ∧ k.lost = true ∧
      k.timedOut = false ∧ k.lostAt + fld s SL_CTL_TMO 4 * edgesMs ≤ s.clk) ∧
    (∃ s : State, let k := (portOf s 4).link; PortHere s (4 : Fin 20) ∧ serial 4 = true ∧ pstate s 4 = PState.link ∧
      k.linkAt + fld s SL_CTL_TMO 4 * edgesMs ≤ s.clk) ∧
    (∃ s : State, PortHere s (4 : Fin 20) ∧ serial 4 = true ∧ (portOf s 4).sched.pause = none ∧ rateWaits s 4 = true ∧ pstate s 4 = PState.service ∧
      (∀ m < 20, ((portOf s m).sched.pauses.all fun x => decide (x.kind ≠ kindRate)) = true)) ∧
    (∃ s : State, PortHere s (4 : Fin 20) ∧ serial 4 = true ∧ s.pw.inReset = false ∧ BitVec.getLsbD (1 : Word) 0 = true) :=
  ⟨⟨linkedIn .link { rx := lanes9 }, by decide +kernel⟩,
   ⟨linkedIn .link { rx := lanes9 }, by decide +kernel⟩,
   ⟨linkedIn .linkDown { lost := true, txSeq := 0, retry := [.credit 1 false] }, by decide +kernel⟩,
   ⟨linkedIn .linkDown { lost := true, txSeq := 0, retry := [.credit 1 false] }, by decide +kernel⟩,
   ⟨at' 400000000 (linkedIn .linkDown { lost := true }), by decide +kernel⟩,
   ⟨at' 400000000 (inState 4 .link), by decide +kernel⟩,
   ⟨linked { rate := 3 }, by decide +kernel⟩,
   ⟨addFld SL_CNT0_RETRY 4 5 linked, by decide +kernel⟩⟩

theorem meets_SerialPackets :
    (∃ s : State, let k := (portOf s 4).link; PortHere s (4 : Fin 20) ∧ linkRuns s 4 = true ∧ k.nakSent = false) ∧
    (∃ s : State, let k := (portOf s 4).link; PortHere s (4 : Fin 20) ∧ linkRuns s 4 = true ∧ k.nakSent = true ∧ k.nakAt + 2 * rttTicks s 4 ≤ s.clk) ∧
    (∃ s : State, let k := (portOf s 4).link; PortHere s (4 : Fin 20) ∧ (linkRuns s 4 = true ∧ (k.lost = false ∨ k.relinked = true)) ∧
      fld s SL_CTL_RETRY 4 ≤ 1) ∧
    (∃ s : State, let k := (portOf s 4).link; PortHere s (4 : Fin 20) ∧ (linkRuns s 4 = true ∧ (k.lost = false ∨ k.relinked = true))) ∧
    (∃ s : State, let k := (portOf s 4).link; PortHere s (4 : Fin 20) ∧ (linkRuns s 4 = true ∧ (k.lost = false ∨ k.relinked = true))) ∧
    (∃ s : State, let k := (portOf s 4).link; PortHere s (4 : Fin 20) ∧ (linkRuns s 4 = true ∧ (k.lost = false ∨ k.relinked = true)) ∧
      pstate s 4 ≠ PState.link) ∧
    (∃ s : State, let k := (portOf s 4).link; PortHere s (4 : Fin 20) ∧ (linkRuns s 4 = true ∧ (k.lost = false ∨ k.relinked = true)) ∧
      pstate s 4 = PState.link ∧ 0#8 = 0#8) ∧
    (∃ s : State, let k := (portOf s 4).link; PortHere s (4 : Fin 20) ∧ (linkRuns s 4 = true ∧ (k.lost = false ∨ k.relinked = true)) ∧
      pstate s 4 = PState.service ∧ (portOf s 4).dram.escalated = false ∧ fld s DP_ALERT_RETRY 4 ≤ (portOf s 4).dram.alerts + 1 ∧
        (portOf s 4).sched.retry = [] ∧ (portOf s 4).sched.pause = none) ∧
    (∃ s : State, let k := (portOf s 4).link; PortHere s (4 : Fin 20) ∧ (linkRuns s 4 = true ∧ (k.lost = false ∨ k.relinked = true)) ∧ 15#4 = 15#4 ∧
      (∀ d < 4, (BitVec.extractLsb' (8 * d) 8 1426063445#32).toInt ≤ (85 : Int))) ∧
    (∃ s : State, let k := (portOf s 4).link; PortHere s (4 : Fin 20) ∧ (linkRuns s 4 = true ∧ (k.lost = false ∨ k.relinked = true)) ∧
      (((subOf s 4 0).hist.any fun i => decide (i.op = Op.mrr) && decide (i.stamp = 0#28)) = true)) ∧
    (∃ s : State, let k := (portOf s 4).link; PortHere s (4 : Fin 20) ∧ (linkRuns s 4 = true ∧ (k.lost = false ∨ k.relinked = true)) ∧ 1#4 ≠ 0#4 ∧
      inService s 4 = true) ∧
    (∃ s : State, let k := (portOf s 4).link; PortHere s (4 : Fin 20) ∧ native s 4 = true ∧ k.codeDue = true ∧ k.codeSent = false ∧ k.lost = false ∧
      (portOf s 4).sched.flight = [] ∧ (portOf s 4).sched.retry = []) ∧
    (∃ s : State, let k := (portOf s 4).link; PortHere s (4 : Fin 20) ∧ k.loop = some (1, some 7, 0) ∧ 0 ≤ s.clk) :=
  ⟨⟨linked, by decide +kernel⟩,
   ⟨at' 100000 (linked { nakSent := true }), by decide +kernel⟩,
   ⟨setFld SL_CTL_RETRY 4 1 linked, by decide +kernel⟩,
   ⟨linked { ctlCredit := 1 }, by decide +kernel⟩,
   ⟨linked, by decide +kernel⟩,
   ⟨linked, by decide +kernel⟩,
   ⟨linkedIn .link, by decide +kernel⟩,
   ⟨setFld DP_ALERT_RETRY 4 1 linked, by decide +kernel⟩,
   ⟨linked, by decide +kernel⟩,
   ⟨read4, by decide +kernel⟩,
   ⟨linked, by decide +kernel⟩,
   ⟨linked { codeDue := true }, by decide +kernel⟩,
   ⟨{ linked { loop := some (1, some 7, 0) } with host := { handles := [(7, { st := .running })] } }, by decide +kernel⟩⟩

theorem meets_SerialData :
    (∃ s : State, let k := (portOf s 4).link; PortHere s (4 : Fin 20) ∧ serial 4 = true ∧ (linkRuns s 4 = true ∧
      (k.lost = false ∨ k.relinked = true)) ∧ readOf s 4 0 0#28 = none ∧ flightOf s 4 0 0#28 = some fl0 ∧ fl0.req.kind = SubKind.read) ∧
    (∃ s : State, let k := (portOf s 4).link; PortHere s (4 : Fin 20) ∧ serial 4 = true ∧ (linkRuns s 4 = true ∧
      (k.lost = false ∨ k.relinked = true)) ∧ readOf s 4 0 0#28 = none ∧ flightOf s 4 0 0#28 = none) ∧
    (∃ s : State, let k := (portOf s 4).link; PortHere s (4 : Fin 20) ∧ serial 4 = true ∧ (linkRuns s 4 = true ∧
      (k.lost = false ∨ k.relinked = true)) ∧ readOf s 4 0 0#28 = none ∧ flightOf s 4 0 0#28 = some fl0 ∧ 2#2 ≠ 3#2) ∧
    (∃ s : State, let q := (portOf s 4).sched; PortHere s (4 : Fin 20) ∧ serial 4 = true ∧
      (List.find? (fun g => decide (g.id = 4)) q.flight = some fl0) ∧ fl0.req.kind = SubKind.read ∧ fl0.overwritten = false) ∧
    (∃ s : State, let k := (portOf s 4).link; let q := (portOf s 4).sched; PortHere s (4 : Fin 20) ∧ serial 4 = true ∧ (linkRuns s 4 = true ∧
      (k.lost = false ∨ k.relinked = true)) ∧
        (List.find? (fun i => decide (i.loc.sub = 0) && decide (i.stamp = 0#28)) q.retry = some (iss Op.rd rd0)) ∧ 1#4 = 1#4) ∧
    (∃ s : State, let k := (portOf s 4).link; let q := (portOf s 4).sched; PortHere s (4 : Fin 20) ∧ serial 4 = true ∧ (linkRuns s 4 = true ∧
      (k.lost = false ∨ k.relinked = true)) ∧
        (List.find? (fun i => decide (i.loc.sub = 0) && decide (i.stamp = 0#28)) q.retry = some (iss Op.rd rd0)) ∧ 2#4 = 2#4) ∧
    (∃ s : State, let k := (portOf s 4).link; let q := (portOf s 4).sched; PortHere s (4 : Fin 20) ∧ serial 4 = true ∧ (linkRuns s 4 = true ∧
      (k.lost = false ∨ k.relinked = true)) ∧
        (List.find? (fun i => decide (i.loc.sub = 0) && decide (i.stamp = 0#28)) q.retry = some (iss Op.rd rd0)) ∧ 5#4 = 5#4) :=
  ⟨⟨flying, by decide +kernel⟩,
   ⟨linked, by decide +kernel⟩,
   ⟨flying, by decide +kernel⟩,
   ⟨flying, by decide +kernel⟩,
   ⟨issued4, by decide +kernel⟩,
   ⟨issued4, by decide +kernel⟩,
   ⟨issued4, by decide +kernel⟩⟩

theorem meets_Tracking :
    (∃ s : State, let t0 := (portOf s 0).train; PortHere s (0 : Fin 20) ∧ pstate s 0 = PState.service ∧ idleUs s 0 = false ∧ cx2 s 0 = false ∧
      flg s TR_CTL_EN = true ∧ t0.roundOn = false ∧ t0.roundDue ≤ s.clk) ∧
    (∃ s : State, PortHere s (0 : Fin 20) ∧ ((portOf s 0).sched.pause = some (pause 0 0 400, 0) ∧ 0 ≤ s.clk ∧ (pause 0 0 400).kind = 0)) ∧
    (∃ s : State, PortHere s (0 : Fin 20) ∧ ((portOf s 0).sched.pause = some (pause 2 0 400, 0) ∧ 0 ≤ s.clk ∧ (pause 2 0 400).kind = 2)) ∧
    (∃ s : State, PortHere s (0 : Fin 20) ∧ ((portOf s 0).sched.pause = some (pause 1 0 400, 0) ∧ 0 ≤ s.clk ∧ (pause 1 0 400).kind = 1) ∧
      (pause 1 0 400).len = 400) ∧
    (∃ s : State, PortHere s (0 : Fin 20) ∧ (meas 5#4 (0 : Fin 3)).step ≠ 10#4 ∧ dramSide (meas 5#4 (0 : Fin 3)) = false ∧
      resultOk s 0 (meas 5#4 (0 : Fin 3)) = true) ∧
    (∃ s : State, PortHere s (0 : Fin 20) ∧ resultOk s 0 (meas 5#4 (0 : Fin 3) (100000 : Int)) = false) ∧
    (∃ s : State, PortHere s (19 : Fin 20) ∧ s.pw.inReset = false ∧ BitVec.getLsbD (1 : Word) 0 = true) :=
  ⟨⟨modSched 0 (fun q => { q with queue := [rd0] }) (setFld TR_CTL_EN 0 1 (sched {})), by decide +kernel⟩,
   ⟨paused (pause 0 0 400), by decide +kernel⟩,
   ⟨paused (pause 2 0 400), by decide +kernel⟩,
   ⟨paused (pause 1 0 400), by decide +kernel⟩,
   ⟨known, by decide +kernel⟩,
   ⟨known, by decide +kernel⟩,
   ⟨addFld TR_CNT0_REJECT 19 5 State.reset, by decide +kernel⟩⟩

theorem meets_HostQueues :
    (∃ s : State, s.pw.inReset = false ∧ s.pw.st = 0#3 ∧ BitVec.getLsbD (1 : Word) 0 = true ∧ ringWhy s 0 = 0) ∧
    (∃ s : State, s.pw.inReset = false ∧ s.pw.st = 0#3 ∧ BitVec.getLsbD (1 : Word) 0 = true ∧ ringWhy s 3 ≠ 0) ∧
    (∃ s : State, let a := cmdStall s 0; s.pw.inReset = false ∧ s.pw.st.toNat ≤ 1 ∧ (stallOf s a).mismatch = false ∧ (queueOf s 0).bound = [0] ∧
      0 < 4096 ∧ mget (stallOf s a).staged (stallOf s a).h = some nopWord ∧
        (descRefuse (setHandle 0 { handleOf s 0 with st := HandleSt.queued, opc := BitVec.extractLsb' 0 8 nopWord.data, items := wordItems nopWord.data } (modQueue 0 (fun y => { y with bound := [] }) (putStall a ((stallOf (modStall a (fun x => { x with rstWord := none }) s) a).takeWord nopWord) (modStall a (fun x => { x with rstWord := none }) s)))) { handleOf s 0 with st := HandleSt.queued, opc := BitVec.extractLsb' 0 8 nopWord.data, items := wordItems nopWord.data } nopWord.tag = none)) ∧
    (∃ s : State, let a := cmdStall s 0; s.pw.inReset = false ∧ s.pw.st.toNat ≤ 1 ∧ (stallOf s a).mismatch = false ∧ (queueOf s 0).bound = [0] ∧
      0 < 4096 ∧ mget (stallOf s a).staged (stallOf s a).h = some (nopWord 0#16) ∧
        (descRefuse (setHandle 0 { handleOf s 0 with st := HandleSt.queued, opc := BitVec.extractLsb' 0 8 (nopWord 0#16).data, items := wordItems (nopWord 0#16).data } (modQueue 0 (fun y => { y with bound := [] }) (putStall a ((stallOf (modStall a (fun x => { x with rstWord := none }) s) a).takeWord (nopWord 0#16)) (modStall a (fun x => { x with rstWord := none }) s)))) { handleOf s 0 with st := HandleSt.queued, opc := BitVec.extractLsb' 0 8 (nopWord 0#16).data, items := wordItems (nopWord 0#16).data } (nopWord 0#16).tag = some 32)) ∧
    (∃ s : State, let c := cplStall s 0; s.pw.inReset = false ∧ s.pw.st.toNat ≤ 1 ∧ (stallOf s c).mismatch = false ∧ recordFits s c = true ∧
      (queueOf s 0).push = [0]) ∧
    (∃ s : State, s.pw.inReset = false ∧ s.pw.st.toNat ≤ 2 ∧ BitVec.getLsbD (2147549183 : Word) 31 = true ∧
      liveSlot s (bits (BitVec.toNat (2147549183 : Word)) 0 16) = none) ∧
    (∃ s : State, s.pw.inReset = false ∧ s.pw.st.toNat ≤ 2 ∧ BitVec.getLsbD (2147487744 : Word) 31 = true ∧
      liveSlot s (bits (BitVec.toNat (2147487744 : Word)) 0 16) = some 0 ∧ (handleOf s 0).st ≠ HandleSt.running) :=
  ⟨⟨setFld HC_QCFG_EN 0 1 (stallIn { post0 with wpos := 1 }), by decide +kernel⟩,
   ⟨State.reset, by decide +kernel⟩,
   ⟨queue { bound := [0] } { post0 with wpos := 1, staged := [(0, nopWord)] }, by decide +kernel⟩,
   ⟨queue { bound := [0] } { post0 with wpos := 1, staged := [(0, nopWord 0)] }, by decide +kernel⟩,
   ⟨queue { push := [0] } post0, by decide +kernel⟩,
   ⟨State.reset, by decide +kernel⟩,
   ⟨queue {}, by decide +kernel⟩⟩

theorem meets_HostRanges :
    (∃ s : State, let k := BitVec.toNat 7#12; mayStart s k 1 = true) ∧
    (∃ s : State, let k := BitVec.toNat 7#12; let u := modHandle k (fun x => { x with st := HandleSt.running }) (active s); let x := handleOf u k;
      let a := argN x; mayStart s k 7 = true ∧ (rangeRefuse u (rangeLines (a 1) (a 2)) = none ∧ rangeReady u (rangeLines (a 1) (a 2)) = true ∧
        (∀ y ∈ rangeLines (a 1) (a 2), held u y = false) ∧ ∀ p ∈ rangePorts u (rangeLines (a 1) (a 2)), pstate u p = PState.service)) ∧
    (∃ s : State, let k := BitVec.toNat 7#12; let u := modHandle k (fun x => { x with st := HandleSt.running }) (active s); let x := handleOf u k;
      let a := argN x; mayStart s k 7 = true ∧ rangeRefuse u (rangeLines (a 1) (a 2)) = some 4) ∧
    (∃ s : State, let k := BitVec.toNat 7#12; let u := modHandle k (fun x => { x with st := HandleSt.running }) (active s); let x := handleOf u k;
      let a := argN x; mayStart s k 6 = true ∧ (rangeRefuse u (rangeLines (a 1) (a 3) ++ rangeLines (a 2) (a 3)) = none ∧
        rangeReady u (rangeLines (a 1) (a 3) ++ rangeLines (a 2) (a 3)) = true ∧
        (∀ y ∈ rangeLines (a 1) (a 3) ++ rangeLines (a 2) (a 3), held u y = false) ∧
        ∀ p ∈ rangePorts u (rangeLines (a 1) (a 3) ++ rangeLines (a 2) (a 3)), pstate u p = PState.service)) ∧
    (∃ s : State, let k := BitVec.toNat 7#12; let u := modHandle k (fun x => { x with st := HandleSt.running }) (active s); let x := handleOf u k;
      let a := argN x; mayStart s k 4 = true ∧ scrubOn u = true ∧ (rangeRefuse u (rangeLines (a 1) (a 2)) = none ∧ rangeReady u (rangeLines (a 1) (a 2)) = true ∧
        (∀ y ∈ rangeLines (a 1) (a 2), held u y = false) ∧ ∀ p ∈ rangePorts u (rangeLines (a 1) (a 2)), pstate u p = PState.service)) ∧
    (∃ s : State, let k := BitVec.toNat 7#12; let u := modHandle k (fun x => { x with st := HandleSt.running }) (active s);
      mayStart s k 4 = true ∧ scrubOn u = false) ∧
    (∃ s : State, let k := BitVec.toNat 7#12; let u := modHandle k (fun x => { x with st := HandleSt.running }) (active s); let x := handleOf u k;
      let a := argN x; mayStart s k 5 = true ∧ bits (a 1) 0 1 = 1 ∧ bits (a 1) 1 1 = 0 ∧
        u.march = { running := false, groups := [], alg := 0#2, destr := false, bgs := 0#4, aborted := false, byReg := true } ∧ scrubOn u = true ∧
        groupAllowed u false (bits (a 1) 8 8) = true) ∧
    (∃ s : State, let k := BitVec.toNat 7#12; let u := modHandle k (fun x => { x with st := HandleSt.running }) (active s); let x := handleOf u k;
      let a := argN x; mayStart s k 5 = true ∧ bits (a 1) 0 1 = 0 ∧ bits (a 1) 1 1 = 1 ∧ scrubOn u = true ∧
        a 3 + 64 * a 4 ≤ capInG u (bits (a 2) 0 5) * 2 ^ 30 ∧ pstate u (bits (a 2) 0 5) = PState.service ∧
        meetsSet u (bits (a 2) 0 5) (a 3) (a 3 + 64 * a 4) = false ∧ meetsSlots u (bits (a 2) 0 5) (a 3) (a 3 + 64 * a 4) = false) ∧
    (∃ s : State, let k := BitVec.toNat 7#12; let u := modHandle k (fun x => { x with st := HandleSt.running }) (active s); let x := handleOf u k;
      let a := argN x; mayStart s k 8 = true ∧ (rangeRefuse u (rangeLines (a 1) (a 2 / 64)) = none ∧
        rangeReady u (rangeLines (a 1) (a 2 / 64)) = true ∧ (∀ y ∈ rangeLines (a 1) (a 2 / 64), held u y = false) ∧
        ∀ p ∈ rangePorts u (rangeLines (a 1) (a 2 / 64)), pstate u p = PState.service) ∧ a 2 < 65536 + 32 * (liveStalls u).length) ∧
    (∃ s : State, let k := BitVec.toNat 7#12; let u := modHandle k (fun x => { x with st := HandleSt.running }) (active s); let x := handleOf u k;
      let a := argN x; mayStart s k 8 = true ∧ (rangeRefuse u (rangeLines (a 1) (a 2 / 64)) = none ∧
        rangeReady u (rangeLines (a 1) (a 2 / 64)) = true ∧ (∀ y ∈ rangeLines (a 1) (a 2 / 64), held u y = false) ∧
        ∀ p ∈ rangePorts u (rangeLines (a 1) (a 2 / 64)), pstate u p = PState.service)) ∧
    (∃ s : State, let k := BitVec.toNat 7#12; let u := modHandle k (fun x => { x with st := HandleSt.running }) (active s); let x := handleOf u k;
      let a := argN x; mayStart s k 9 = true ∧ bits (bbrWord u 3) 1 1 = 1 ∧ bits (bbrWord u 3) 4 1 = 1 ∧ bits (a 1) 0 1 = 0 ∧
        crc32c (areaBytes (bbrWord u 23 + bbrWord u 24 * 2 ^ 32) (bbrWord u 25 + bbrWord u 26 * 2 ^ 32) u) = bbrWord u 27) ∧
    (∃ s : State, let k := BitVec.toNat 7#12; let u := modHandle k (fun x => { x with st := HandleSt.running }) (active s); mayStart s k 9 = true ∧
      bits (bbrWord u 3) 1 1 = 0) ∧
    (∃ s : State, let k := BitVec.toNat 7#12; let u := modHandle k (fun x => { x with st := HandleSt.running }) (active s); let x := handleOf u k;
      let a := argN x; mayStart s k 16 = true ∧ (ctxOf u (bits (a 3) 0 2)).st = CtxSt.stopped ∧ (ctxOf u (bits (a 3) 0 2)).resetReq = false ∧
        bound u k (bits (a 3) 0 2) = false ∧ a 2 ≤ prgSize u (bits (a 3) 0 2) ∧ (rangeRefuse u (rangeLines (a 1) ((a 2 + 63) / 64)) = none ∧
        rangeReady u (rangeLines (a 1) ((a 2 + 63) / 64)) = true ∧ (∀ y ∈ rangeLines (a 1) ((a 2 + 63) / 64), held u y = false) ∧
        ∀ p ∈ rangePorts u (rangeLines (a 1) ((a 2 + 63) / 64)), pstate u p = PState.service)) :=
  ⟨⟨cmd 1 [], by decide +kernel⟩,
   ⟨cmd 7 [0x3FFFFFF80, 2, 0xAA], by decide +kernel⟩,
   ⟨cmd 7 [0x3FFFFFF80, 3, 0xAA], by decide +kernel⟩,
   ⟨cmd 6 [0, 0x1000, 2], by decide +kernel⟩,
   ⟨cmd 4 [0, 2], by decide +kernel⟩,
   ⟨cmd 4 [0, 2] { served State.reset with pw := { (served State.reset).pw with doms := [(48, DomSt.off)] } }, by decide +kernel⟩,
   ⟨cmd 5 [1], by decide +kernel⟩,
   ⟨cmd 5 [0x12, 0, 0, 2] (setFld IS_CTL_EN 0 0 (served State.reset)), by decide +kernel⟩,
   ⟨cmd 8 [0, 64], by decide +kernel⟩,
   ⟨cmd 8 [0, 64], by decide +kernel⟩,
   ⟨cmd 9 [0] { served State.reset with bbr := [(3, 0x12)] }, by decide +kernel⟩,
   ⟨cmd 9 [0], by decide +kernel⟩,
   ⟨cmd 0x10 [0, 0, 3], by decide +kernel⟩⟩

theorem meets_HostUnits :
    (∃ s : State, let k := BitVec.toNat 7#12; let u := modHandle k (fun x => { x with st := HandleSt.running }) (active s); let x := handleOf u k;
      let a := argN x; let p := bits (a 1) 0 5; mayStart s k 2 = true ∧ launchNames u p = false ∧ pstate u p = PState.test) ∧
    (∃ s : State, let k := BitVec.toNat 7#12; let u := modHandle k (fun x => { x with st := HandleSt.running }) (active s); let x := handleOf u k;
      let a := argN x; let p := bits (a 1) 0 5; mayStart s k 3 = true ∧ bits (a 1) 5 2 = 0 ∧ pstate u p = PState.service ∧ cx2 u p = false ∧
        (portOf u p).train.roundOn = false ∧ (portOf u p).train.waiters = []) ∧
    (∃ s : State, let k := BitVec.toNat 7#12; let u := modHandle k (fun x => { x with st := HandleSt.running }) (active s); let x := handleOf u k;
      let a := argN x; let p := bits (a 1) 0 5; mayStart s k 3 = true ∧ bits (a 1) 5 2 = 1 ∧ pstate u p = PState.service) ∧
    (∃ s : State, let k := BitVec.toNat 7#12; let u := modHandle k (fun x => { x with st := HandleSt.running }) (active s); let x := handleOf u k;
      let a := argN x; let p := bits (a 1) 0 5; mayStart s k 3 = true ∧ bits (a 1) 5 2 = 2 ∧ pstate u p = PState.service ∧ setNames u p = false ∧
        portQuiet (closeAll p u) p = true) ∧
    (∃ s : State, let k := BitVec.toNat 7#12; let u := modHandle k (fun x => { x with st := HandleSt.running }) (active s); let x := handleOf u k;
      let a := argN x; let p := bits (a 1) 0 5; mayStart s k 10 = true ∧ bits (a 1) 5 1 = 0 ∧ repairRefuse u p (a 2) = none ∧
        repairSlot u p (a 2) = some 0) ∧
    (∃ s : State, let k := BitVec.toNat 7#12; let u := modHandle k (fun x => { x with st := HandleSt.running }) (active s); let x := handleOf u k;
      let a := argN x; let p := bits (a 1) 0 5; mayStart s k 10 = true ∧ bits (a 1) 5 1 = 1 ∧ repairRefuse u p (a 2) = none) ∧
    (∃ s : State, let k := BitVec.toNat 7#12; let u := modHandle k (fun x => { x with st := HandleSt.running }) (active s); let x := handleOf u k;
      let a := argN x; let p := bits (a 1) 0 5; mayStart s k 12 = true ∧ pstate u p = PState.test ∧ (portOf u p).link.loop = none) ∧
    (∃ s : State, let k := BitVec.toNat 7#12; let u := modHandle k (fun x => { x with st := HandleSt.running }) (active s); let x := handleOf u k;
      let a := argN x; let p := bits (a 1) 0 5;
        let held := modFab p (fun f => { f with relHost := false }) (setFld FP_FENCE_STAT_HOST p 1 (takeFence p u)); mayStart s k 14 = true ∧
        flg held FP_FENCE_STAT_DRAINED p = true) ∧
    (∃ s : State, let k := BitVec.toNat 7#12; let u := modHandle k (fun x => { x with st := HandleSt.running }) (active s); let x := handleOf u k;
      let a := argN x; let p := bits (a 1) 0 5;
        let held := modFab p (fun f => { f with relHost := false }) (setFld FP_FENCE_STAT_HOST p 1 (takeFence p u)); mayStart s k 14 = true ∧
        flg held FP_FENCE_STAT_DRAINED p = false) ∧
    (∃ s : State, let k := BitVec.toNat 7#12; let u := modHandle k (fun x => { x with st := HandleSt.running }) (active s); let x := handleOf u k;
      let a := argN x; let p := bits (a 1) 0 5; mayStart s k 15 = true ∧ flg u FP_FENCE_STAT_HOST p = true ∧ flg u FP_FENCE_STAT_CFG p = false) ∧
    (∃ s : State, let k := BitVec.toNat 7#12; let u := modHandle k (fun x => { x with st := HandleSt.running }) (active s); let x := handleOf u k;
      let a := argN x; let p := bits (a 1) 0 5; let f := fabOf u p; mayStart s k 15 = true ∧ flg u FP_FENCE_STAT_HOST p = true ∧
        flg u FP_FENCE_STAT_CFG p = true ∧ f.relCfg = false) ∧
    (∃ s : State, let k := BitVec.toNat 7#12; let u := modHandle k (fun x => { x with st := HandleSt.running }) (active s); let x := handleOf u k;
      let a := argN x; mayStart s k 17 = true ∧ bits (a 1) 0 2 = 0 ∧ u.tb.launches = [] ∧ u.tb.step = StepSt.none ∧ u.pw.inReset = false) ∧
    (∃ s : State, let k := BitVec.toNat 7#12; let u := modHandle k (fun x => { x with st := HandleSt.running }) (active s); let x := handleOf u k;
      let a := argN x; mayStart s k 17 = true ∧ bits (a 1) 0 2 = 1 ∧ flg u TB_FED_EOUT_EN = true) ∧
    (∃ s : State, let k := BitVec.toNat 7#12; let u := modHandle k (fun x => { x with st := HandleSt.running }) (active s); let x := handleOf u k;
      let a := argN x; mayStart s k 17 = true ∧ bits (a 1) 0 2 = 1 ∧ flg u TB_FED_EOUT_EN = false) ∧
    (∃ s : State, let k := BitVec.toNat 7#12; let u := modHandle k (fun x => { x with st := HandleSt.running }) (active s); let x := handleOf u k;
      let a := argN x; mayStart s k 17 = true ∧ bits (a 1) 0 2 = 2 ∧ u.tb.fedE = some (5 : Int)) :=
  ⟨⟨cmd 2 [0xFE4] (setPstate 4 .test State.reset), by decide +kernel⟩,
   ⟨cmd 3 [0], by decide +kernel⟩,
   ⟨cmd 3 [0x20], by decide +kernel⟩,
   ⟨cmd 3 [0x40] (setFld IS_CTL_EN 0 0 (served State.reset)), by decide +kernel⟩,
   ⟨cmd 0xA [0, 0] (modProt 0 (fun t => { t with remap := [(0, { key := 0, st := .active })] }) (served State.reset)), by decide +kernel⟩,
   ⟨cmd 0xA [0x20, 0], by decide +kernel⟩,
   ⟨cmd 0xC [4, 10] (setPstate 4 .test linked), by decide +kernel⟩,
   ⟨cmd 0xE [0, 10] (setFld FP_FENCE_STAT_DRAINED 0 1 (fabbed { fenced := true })), by decide +kernel⟩,
   ⟨cmd 0xE [0, 10] (fabbed { reqs := [asked 0 (word 0)] }), by decide +kernel⟩,
   ⟨cmd 0xF [0] (setFld FP_FENCE_STAT_HOST 0 1 State.reset), by decide +kernel⟩,
   ⟨cmd 0xF [31] (setFld FP_FENCE_STAT_CFG 31 1 (setFld FP_FENCE_STAT_HOST 31 1 State.reset)), by decide +kernel⟩,
   ⟨cmd 0x11 [0], by decide +kernel⟩,
   ⟨cmd 0x11 [1] (setFld TB_FED_EOUT_EN 0 1 State.reset), by decide +kernel⟩,
   ⟨cmd 0x11 [1], by decide +kernel⟩,
   ⟨cmd 0x11 [2] { State.reset with tb := { fedE := some 5 } }, by decide +kernel⟩⟩

theorem meets_EnergyMeter :
    (∃ s : State, let e := s.en; e.meterAt + 4000 ≤ s.clk) ∧
    (∃ s : State, let e := s.en; e.slot = (4 : Fin 10)) ∧
    (∃ s : State, let e := s.en; e.slot = (9 : Fin 10)) ∧
    (∃ s : State, let e := s.en; e.slot ≠ (4 : Fin 10) ∧ e.slot ≠ (9 : Fin 10) ∧ fld s SN_GAIN_FORCE = 0) ∧
    (∃ s : State, let e := s.en; e.slot ≠ (4 : Fin 10) ∧ e.slot ≠ (9 : Fin 10) ∧ fld s SN_GAIN_FORCE = 0) ∧
    (∃ s : State, let e := s.en; e.pf = PfSt.none ∧ s.pw.st.toNat ≤ 3) ∧
    (∃ s : State, let e := s.en; e.pf ≠ PfSt.none) ∧
    (∃ s : State, let e := s.en; let head := (↑(fld s SN_VBUS_CODE) - ↑(fld s SN_VRSV_CODE)) * (5 : Int);
      let hdr := ↑(fld s CH_CFG_HDR) * (100 : Int); let cmd := fld s CH_STAT_CMD; e.chgAt + 100 * edgesMs ≤ s.clk ∧ head < hdr ∧
        iNow s * (10 : ℚ) < ↑(9 * cmd)) ∧
    (∃ s : State, let e := s.en; let head := (↑(fld s SN_VBUS_CODE) - ↑(fld s SN_VRSV_CODE)) * (5 : Int);
      let hdr := ↑(fld s CH_CFG_HDR) * (100 : Int); let set := fld s CH_CTL_SET; let cmd := fld s CH_STAT_CMD; e.chgAt + 100 * edgesMs ≤ s.clk ∧
        hdr + (1000 : Int) ≤ head ∧ cmd < set) :=
  ⟨⟨at' 4000 State.reset, by decide +kernel⟩,
   ⟨en { slot := 4 }, by decide +kernel⟩,
   ⟨en { slot := 9 }, by decide +kernel⟩,
   ⟨State.reset, by decide +kernel⟩,
   ⟨en { slot := 8, blank := 3 }, by decide +kernel⟩,
   ⟨State.reset, by decide +kernel⟩,
   ⟨en { pf := .flush }, by decide +kernel⟩,
   ⟨at' 40000000 (setFld CH_STAT_CMD 0 100 (setFld CH_CFG_FS 0 1000 (setFld CH_CTL_SET 0 200 State.reset))), by decide +kernel⟩,
   ⟨at' 40000000 (setFld SN_VBUS_CODE 0 800 (setFld CH_STAT_CMD 0 100 (setFld CH_CFG_FS 0 1000 (setFld CH_CTL_SET 0 200 State.reset)))), by decide +kernel⟩⟩

theorem meets_EnergyReserve :
    (∃ s : State, let e := s.en; e.busTrip = false) ∧
    (∃ s : State, let e := s.en; e.busTrip = true) ∧
    (∃ s : State, let e := s.en; e.rsvTrip = false ∧ flg s PWR_WAKE_RSV = false) ∧
    (∃ s : State, let e := s.en; e.rsvTrip = false ∧ flg s PWR_WAKE_RSV = true ∧ s.pw.inReset = false ∧ e.pf = PfSt.none) ∧
    (∃ s : State, let e := s.en; e.restAt = some 0 ∧ 0 + 600000 * edgesMs ≤ s.clk) ∧
    (∃ s : State, let e := s.en; e.lost = false) ∧
    (∃ s : State, let e := s.en; e.lost = true ∧ e.backAt = some 0 ∧ 0 + 1000 * edgesMs ≤ s.clk) ∧
    (∃ s : State, let k := fld s PLN_SEL_SLOT; s.pw.inReset = false ∧ k < 72) ∧
    (∃ s : State, let k := fld s PLN_SEL_SLOT; s.pw.inReset = false ∧ 72 ≤ k) ∧
    (∃ s : State, let w := BitVec.toNat 16#10; s.pw.inReset = false ∧ 16 ≤ w ∧ w < 992 ∧ bbrWord s 0 ≠ 50085) ∧
    (∃ s : State, let w := BitVec.toNat 991#10; s.pw.inReset = false ∧ 16 ≤ w ∧ w < 992 ∧ bbrWord s 0 ≠ 50085) ∧
    (∃ s : State, let w := BitVec.toNat 992#10; s.pw.inReset = false ∧ (¬(16 ≤ w ∧ w < 992 ∧ bbrWord s 0 ≠ 50085))) ∧
    (∃ s : State, let w := BitVec.toNat 16#10; s.pw.inReset = false ∧ (¬(16 ≤ w ∧ w < 992 ∧ bbrWord s 0 ≠ 50085))) :=
  ⟨⟨State.reset, by decide +kernel⟩,
   ⟨en { busTrip := true }, by decide +kernel⟩,
   ⟨State.reset, by decide +kernel⟩,
   ⟨setFld PWR_WAKE_RSV 0 1 State.reset, by decide +kernel⟩,
   ⟨at' 240000000000 (en { restAt := some 0, qv := 7 }), by decide +kernel⟩,
   ⟨setFld PLN_CTL_HOLD 0 1 State.reset, by decide +kernel⟩,
   ⟨at' 400000000 (en { lost := true, backAt := some 0, qv := 7 }), by decide +kernel⟩,
   ⟨setFld PLN_SEL_SLOT 0 71 State.reset, by decide +kernel⟩,
   ⟨setFld PLN_SEL_SLOT 0 72 State.reset, by decide +kernel⟩,
   ⟨State.reset, by decide +kernel⟩,
   ⟨State.reset, by decide +kernel⟩,
   ⟨State.reset, by decide +kernel⟩,
   ⟨flagged, by decide +kernel⟩⟩

theorem meets_PowerFail :
    (∃ s : State, let e := s.en; (flg s PF_CTL_EN = true ∧ e.busTrip = true ∧ e.busAt + edgesUs ≤ s.clk ∧ e.pf = PfSt.none ∧ s.pw.st.toNat ≤ 3 ∧
      s.pw.inReset = false) ∧ s.pw.warm = false) ∧
    (∃ s : State, let e := s.en; (flg s PF_CTL_EN = true ∧ e.busTrip = true ∧ e.busAt + edgesUs ≤ s.clk ∧ e.pf = PfSt.none ∧ s.pw.st.toNat ≤ 3 ∧
      s.pw.inReset = false) ∧ s.pw.warm = true) ∧
    (∃ s : State, let e := s.en; let live := List.filter (fun p => portImpl s.part.variant p && inService s p) (List.range 20);
      let shut := List.foldl (fun t p => closeAll p t) s live; e.pf = PfSt.flush ∧ buffersEmpty shut = true ∧ live.all (portFlushed shut) = true) ∧
    (∃ s : State, let e := s.en; e.pf = PfSt.commit ∧ s.pw.resetWait = false) ∧
    (∃ s : State, let e := s.en; e.pf = PfSt.commit ∧ s.pw.resetWait = true) ∧
    (∃ s : State, let e := s.en; e.busBack = some 0 ∧ s.pw.st = 4#3 ∧ s.pw.e4cmd = false ∧ flg s PF_CTL_AUTO = true ∧ e.busTrip = false ∧
      0 + fld s PF_CTL_RET * edgesMs ≤ s.clk ∧ s.pw.inReset = false) :=
  ⟨⟨tripped, by decide +kernel⟩,
   ⟨tripped { warm := true }, by decide +kernel⟩,
   ⟨{ served (en { pf := .flush }) with fab := [(0, {})] }, by decide +kernel⟩,
   ⟨en { pf := .commit }, by decide +kernel⟩,
   ⟨{ en { pf := .commit } with pw := { resetWait := true } }, by decide +kernel⟩,
   ⟨at' 40000000 (setFld PF_CTL_AUTO 0 1 { en { busBack := some 0 } with pw := { st := 4 } }), by decide +kernel⟩⟩

theorem meets_EngineResets :
    (∃ s : State, (s.pw.inReset = false ∧ s.pw.soft = none ∧ s.en.pf = PfSt.none ∧ s.pw.st = 0#3) ∧ engineIdle s = true) ∧
    (∃ s : State, (s.pw.inReset = false ∧ s.pw.soft = none ∧ s.en.pf = PfSt.none ∧ s.pw.st = 0#3) ∧ engineIdle s = false) ∧
    (∃ s : State, s.pw.soft = some 0 ∧ 0 + fld s RST_CTL_TMO * edgesUs ≤ s.clk ∧ s.pw.inReset = false) ∧
    (∃ s : State, s.en.pf = PfSt.none) ∧
    (∃ s : State, s.en.pf ≠ PfSt.none) ∧
    (∃ s : State, s.pw.inReset = true) ∧
    (∃ s : State, bits (bbrWord s 3) 0 1 = 0) ∧
    (∃ s : State, committed s = true) :=
  ⟨⟨State.reset, by decide +kernel⟩,
   ⟨pw { exit := some (2, 0) }, by decide +kernel⟩,
   ⟨at' 40000 (pw { soft := some 0 }), by decide +kernel⟩,
   ⟨served State.reset, by decide +kernel⟩,
   ⟨en { pf := .flush }, by decide +kernel⟩,
   ⟨pw { inReset := true }, by decide +kernel⟩,
   ⟨at' 5 State.reset, by decide +kernel⟩,
   ⟨flagged, flagged_committed⟩⟩

theorem meets_EngineRequests :
    (∃ s : State, let forbids := launchForbids s (engineW s 1) fun x => true; (s.pw.inReset = false ∧ s.en.pf = PfSt.none ∧ s.pw.exit = none ∧
      s.pw.cur = none) ∧ s.pw.st = 0#3 ∧ forbids = false) ∧
    (∃ s : State, let forbids := launchForbids s (engineW s 1) fun x => true; (s.pw.inReset = false ∧ s.en.pf = PfSt.none ∧ s.pw.exit = none ∧
      s.pw.cur = none) ∧ s.pw.st = 0#3 ∧ forbids = true) ∧
    (∃ s : State, (s.pw.inReset = false ∧ s.en.pf = PfSt.none ∧ s.pw.exit = none ∧ s.pw.cur = none) ∧ s.pw.st = 0#3) ∧
    (∃ s : State, (s.pw.inReset = false ∧ s.en.pf = PfSt.none ∧ s.pw.exit = none ∧ s.pw.cur = none) ∧ s.pw.st = 1#3) ∧
    (∃ s : State, (s.pw.inReset = false ∧ s.en.pf = PfSt.none ∧ s.pw.exit = none ∧ s.pw.cur = none) ∧ (s.pw.st = 2#3 ∨ s.pw.st = 3#3)) ∧
    (∃ s : State, resumeAsked s = true ∧ s.pw.inReset = false) ∧
    (∃ s : State, let k := BitVec.toNat 7#12; mayStart s k 13 = true ∧ argN (handleOf s k) 1 = 0) ∧
    (∃ s : State, let k := BitVec.toNat 7#12; mayStart s k 13 = true ∧ argN (handleOf s k) 1 = 1) ∧
    (∃ s : State, let k := BitVec.toNat 7#12; mayStart s k 13 = true ∧ argN (handleOf s k) 1 = 2) ∧
    (∃ s : State, let k := BitVec.toNat 7#12; mayStart s k 13 = true ∧ argN (handleOf s k) 1 = 3) ∧
    (∃ s : State, let k := BitVec.toNat 7#12; mayStart s k 13 = true ∧ argN (handleOf s k) 1 = 4) ∧
    (∃ s : State, MayControl s (0 : Fin 4) ∧ s.en.pf = PfSt.none ∧ fromDram s 0 = false ∧
      Issues s (0 : Fin 4) (encR 51 3#5 0#5 0#5 0#1 (BitVec.ofNat 4 0) 6)) ∧
    (∃ s : State, let forbids := launchForbids s (engineW s 1) fun x => true; forbids = false ∧ MayControl s (0 : Fin 4) ∧ s.en.pf = PfSt.none ∧
      fromDram s 0 = false ∧ Issues s (0 : Fin 4) (encR 51 3#5 0#5 0#5 0#1 (BitVec.ofNat 4 1) 6)) ∧
    (∃ s : State, MayControl s (0 : Fin 4) ∧ s.en.pf = PfSt.none ∧ fromDram s 0 = false ∧
      Issues s (0 : Fin 4) (encR 51 3#5 0#5 0#5 0#1 (BitVec.ofNat 4 2) 6)) ∧
    (∃ s : State, MayControl s (0 : Fin 4) ∧ s.en.pf = PfSt.none ∧ fromDram s 0 = false ∧
      Issues s (0 : Fin 4) (encR 51 3#5 0#5 0#5 0#1 (BitVec.ofNat 4 3) 6)) ∧
    (∃ s : State, MayControl s (1 : Fin 4) ∧ s.en.pf = PfSt.none ∧ fromDram s 1 = false ∧
      Issues s (1 : Fin 4) (encR 51 3#5 0#5 0#5 0#1 (BitVec.ofNat 4 4) 6)) ∧
    (∃ s : State, (1 : Fin 4) ≠ (0 : Fin 4) ∧ (ctxOf s 1).priv = false ∧ Issues s (1 : Fin 4) (encR 51 3#5 0#5 0#5 0#1 2#4 6)) ∧
    (∃ s : State, let forbids := launchForbids s (engineW s 1) fun x => true; s.pw.st = 0#3 ∧ idleFor s (fld s PWR_IDLE_T1 * edgesUs) = true ∧
      forbids = false) ∧
    (∃ s : State, s.pw.st.toNat ≤ 1 ∧ idleFor s (fld s PWR_IDLE_T2 * 100 * edgesUs) = true) ∧
    (∃ s : State, let st := wakeState s; s.pw.inReset = false ∧ s.en.pf = PfSt.none ∧ ((st = 1 ∨ st = 2) ∧ flg s PWR_WAKE_FAB = true ∧
      (List.any s.fab fun e => e.2.reqs.any FabReq.live) = true)) ∧
    (∃ s : State, let st := wakeState s; s.pw.inReset = false ∧ s.en.pf = PfSt.none ∧ ((st = 1 ∨ st = 2) ∧ flg s PWR_WAKE_RING = true)) ∧
    (∃ s : State, let st := wakeState s; s.pw.inReset = false ∧ s.en.pf = PfSt.none ∧ (st = 1 ∨ st = 2)) ∧
    (∃ s : State, let st := wakeState s; s.pw.inReset = false ∧ s.en.pf = PfSt.none ∧ ((1 ≤ st ∧ st ≤ 3) ∧ flg s TB_ALARM_CTL_FIRED = true ∧
      flg s TB_ALARM_CTL_WAKE = true)) ∧
    (∃ s : State, let st := wakeState s; s.pw.inReset = false ∧ s.en.pf = PfSt.none ∧ ((1 ≤ st ∧ st ≤ 3) ∧ waitWakes s = true)) ∧
    (∃ s : State, let st := wakeState s; s.pw.inReset = false ∧ s.en.pf = PfSt.none ∧ ((1 ≤ st ∧ st ≤ 3) ∧ launchWakes s = true)) ∧
    (∃ s : State, let st := wakeState s; s.pw.inReset = false ∧ s.en.pf = PfSt.none ∧ ((1 ≤ st ∧ st ≤ 3) ∧ flg s PWR_WAKE_RSV = true ∧
      s.en.rsvTrip = true)) ∧
    (∃ s : State, let st := wakeState s; s.pw.inReset = false ∧ s.en.pf = PfSt.none ∧ ((st = 1 ∨ st = 2) ∨ st = 3 ∧ flg s PWR_WAKE_DB = true)) ∧
    (∃ s : State, 7 < 8 ∧ s.pw.cur = none ∧ s.pw.exit = none ∧ s.pw.st = 1#3) ∧
    (∃ s : State, 0 < 8 ∧ s.pw.cur = none ∧ s.pw.exit = none ∧ (s.pw.st = 2#3 ∨ s.pw.st = 3#3)) ∧
    (∃ s : State, 0 < 8 ∧ s.pw.cur = none ∧ s.pw.exit = none ∧ 1 ≤ s.pw.st.toNat ∧ s.pw.st.toNat ≤ 3) :=
  ⟨⟨State.reset, by decide +kernel⟩,
   ⟨launched act0, by decide +kernel⟩,
   ⟨State.reset, by decide +kernel⟩,
   ⟨pw { st := 1 }, by decide +kernel⟩,
   ⟨pw { st := 3 }, by decide +kernel⟩,
   ⟨pw { st := 4, e4cmd := true }, by decide +kernel⟩,
   ⟨cmd 0xD [0], by decide +kernel⟩,
   ⟨cmd 0xD [1], by decide +kernel⟩,
   ⟨cmd 0xD [2], by decide +kernel⟩,
   ⟨cmd 0xD [3], by decide +kernel⟩,
   ⟨cmd 0xD [4], by decide +kernel⟩,
   ⟨core {} (encR 0x33 3 0 0 0 0 6), by decide +kernel⟩,
   ⟨core {} (encR 0x33 3 0 0 0 1 6), by decide +kernel⟩,
   ⟨core {} (encR 0x33 3 0 0 0 2 6), by decide +kernel⟩,
   ⟨core {} (encR 0x33 3 0 0 0 3 6), by decide +kernel⟩,
   ⟨user { priv := true } (encR 0x33 3 0 0 0 4 6), by decide +kernel⟩,
   ⟨user {} (encR 0x33 3 0 0 0 2 6), by decide +kernel⟩,
   ⟨setFld PWR_IDLE_T1 0 1 (at' 400 (still)), by decide +kernel⟩,
   ⟨setFld PWR_IDLE_T2 0 1 (at' 40000 (still)), by decide +kernel⟩,
   ⟨setFld PWR_WAKE_FAB 0 1 { fabbed { reqs := [asked 0 (word 0)] } with pw := { st := 2 } }, by decide +kernel⟩,
   ⟨setFld PWR_WAKE_RING 0 1 (pw { st := 1 }), by decide +kernel⟩,
   ⟨pw { st := 2 }, by decide +kernel⟩,
   ⟨setFld TB_ALARM_CTL_FIRED 0 1 (setFld TB_ALARM_CTL_WAKE 0 1 (pw { st := 3 })), by decide +kernel⟩,
   ⟨{ waitsCount 0 with pw := { st := 3 } }, by decide +kernel⟩,
   ⟨{ launched act0 with pw := { st := 3 } }, by decide +kernel⟩,
   ⟨setFld PWR_WAKE_RSV 0 1 { pw { st := 3 } with en := { rsvTrip := true } }, by decide +kernel⟩,
   ⟨setFld PWR_WAKE_DB 0 1 (pw { st := 3 }), by decide +kernel⟩,
   ⟨pw { st := 1 }, by decide +kernel⟩,
   ⟨pw { st := 3 }, by decide +kernel⟩,
   ⟨pw { st := 3 }, by decide +kernel⟩⟩

theorem meets_EngineCommits :
    (∃ s : State, let own := match (Tests.trans 2#3).src with | ReqOf.handle k => some k | x => none; let shut := closePorts s;
      (s.pw.cur = some (Tests.trans 2#3) ∧ (Tests.trans 2#3).run = false ∧ s.pw.inReset = false ∧
        engineRefuser s (Tests.trans 2#3).tgt.toNat own = none) ∧ (Tests.trans 2#3).tgt = 2#3 ∧ portsQuiet shut = true) ∧
    (∃ s : State, let own := match (Tests.trans 3#3).src with | ReqOf.handle k => some k | x => none; (s.pw.cur = some (Tests.trans 3#3) ∧
      (Tests.trans 3#3).run = false ∧ s.pw.inReset = false ∧ engineRefuser s (Tests.trans 3#3).tgt.toNat own = none) ∧ (Tests.trans 3#3).tgt = 3#3 ∧
        (Tests.trans 3#3).steps = 0) ∧
    (∃ s : State, let own := match (Tests.trans 3#3 false 1).src with | ReqOf.handle k => some k | x => none;
      (s.pw.cur = some (Tests.trans 3#3 false 1) ∧ (Tests.trans 3#3 false 1).run = false ∧ s.pw.inReset = false ∧
        engineRefuser s (Tests.trans 3#3 false 1).tgt.toNat own = none) ∧ (Tests.trans 3#3 false 1).tgt = 3#3 ∧ (Tests.trans 3#3 false 1).steps = 1 ∧
        drained s = true) ∧
    (∃ s : State, let own := match (Tests.trans 3#3 false 2).src with | ReqOf.handle k => some k | x => none; let shut := closePorts s;
      (s.pw.cur = some (Tests.trans 3#3 false 2) ∧ (Tests.trans 3#3 false 2).run = false ∧ s.pw.inReset = false ∧
        engineRefuser s (Tests.trans 3#3 false 2).tgt.toNat own = none) ∧ (Tests.trans 3#3 false 2).tgt = 3#3 ∧ 2 ≤ (Tests.trans 3#3 false 2).steps ∧
        portsQuiet shut = true) ∧
    (∃ s : State, let own := match (Tests.trans 4#3).src with | ReqOf.handle k => some k | x => none; (s.pw.cur = some (Tests.trans 4#3) ∧
      (Tests.trans 4#3).run = false ∧ s.pw.inReset = false ∧ engineRefuser s (Tests.trans 4#3).tgt.toNat own = none) ∧ (Tests.trans 4#3).tgt = 4#3 ∧
        (Tests.trans 4#3).steps = 0) ∧
    (∃ s : State, let own := match (Tests.trans 4#3 false 1).src with | ReqOf.handle k => some k | x => none;
      (s.pw.cur = some (Tests.trans 4#3 false 1) ∧ (Tests.trans 4#3 false 1).run = false ∧ s.pw.inReset = false ∧
        engineRefuser s (Tests.trans 4#3 false 1).tgt.toNat own = none) ∧ (Tests.trans 4#3 false 1).tgt = 4#3 ∧ (Tests.trans 4#3 false 1).steps ≠ 0 ∧
        drained s = true) ∧
    (∃ s : State, mget s.pw.doms 49 = some (DomSt.prep 0) ∧ domRefuser s 49 = none ∧ s.pw.inReset = false) ∧
    (∃ s : State, (portPwr s 0).cur = some (ptrans 0#3) ∧ (ptrans 0#3).run = false ∧ portsMove s = true ∧
      portRefuser s 0 (ptrans 0#3).op.toNat = none ∧ portQuiet (closeAll 0 s) 0 = true ∧ pstate s 0 = PState.service ∧ (ptrans 0#3).op = 0#3) ∧
    (∃ s : State, (portPwr s 0).cur = some (ptrans 2#3) ∧ (ptrans 2#3).run = false ∧ portsMove s = true ∧
      portRefuser s 0 (ptrans 2#3).op.toNat = none ∧ portQuiet (closeAll 0 s) 0 = true ∧ pstate s 0 = PState.service ∧ (ptrans 2#3).op = 2#3 ∧
        serial 0 = false) ∧
    (∃ s : State, s.pw.cur = some (Tests.trans 3#3 true) ∧ (Tests.trans 3#3 true).run = true ∧ s.pw.inReset = false ∧
      (Tests.trans 3#3 true).wake = false ∧ s.pw.pend = none ∧ s.pw.softWait = false) ∧
    (∃ s : State, s.pw.cur = some (Tests.trans 3#3 true 0 true) ∧ (Tests.trans 3#3 true 0 true).run = true ∧ s.pw.inReset = false ∧
      (Tests.trans 3#3 true 0 true).wake = true) ∧
    (∃ s : State, s.pw.cur = none ∧ s.pw.exit = some (2#3, 0) ∧ 0 + engineW s 2 ≤ s.clk) ∧
    (∃ s : State, s.pw.exit = some (3#3, 0) ∧ 0 + engineW s 3 ≤ s.clk) ∧
    (∃ s : State, s.pw.pend = none ∧ s.pw.softWait = false) ∧
    (∃ s : State, let own := match (Tests.trans 2#3).src with | ReqOf.handle k => some k | x => none; s.pw.cur = some (Tests.trans 2#3) ∧
      (Tests.trans 2#3).run = false ∧ engineRefuser s (Tests.trans 2#3).tgt.toNat own = some 3 ∧
        (Tests.trans 2#3).start + fld s PWR_CTL_PREP * edgesUs ≤ s.clk) ∧
    (∃ s : State, (portPwr s 0).cur = some (ptrans 0#3) ∧ (ptrans 0#3).run = false ∧ portRefuser s 0 (ptrans 0#3).op.toNat = some 7 ∧
      (ptrans 0#3).start + fld s PWR_CTL_PREP * edgesUs ≤ s.clk) ∧
    (∃ s : State, mget s.pw.doms 41 = some (DomSt.prep 0) ∧ domRefuser s 41 = some 2 ∧ 0 + fld s PWR_CTL_PREP * edgesUs ≤ s.clk) :=
  ⟨⟨still { cur := some (trans 2) }, by decide +kernel⟩,
   ⟨still { cur := some (trans 3) }, by decide +kernel⟩,
   ⟨still { cur := some (trans 3 false 1) }, by decide +kernel⟩,
   ⟨still { cur := some (trans 3 false 2) }, by decide +kernel⟩,
   ⟨still { cur := some (trans 4) }, by decide +kernel⟩,
   ⟨still { cur := some (trans 4 false 1) }, by decide +kernel⟩,
   ⟨still { doms := [(49, .prep 0)] }, by decide +kernel⟩,
   ⟨portMoves 0 (setFld IS_CTL_EN 0 0 (served State.reset)), by decide +kernel⟩,
   ⟨portMoves 2, by decide +kernel⟩,
   ⟨still { cur := some (trans 3 true) }, by decide +kernel⟩,
   ⟨still { cur := some (trans 3 true 0 true) }, by decide +kernel⟩,
   ⟨at' 80000 (still { st := 2, exit := some (2, 0) }), by decide +kernel⟩,
   ⟨at' 800000 (still { st := 3, exit := some (3, 0) }), by decide +kernel⟩,
   ⟨still { st := 3, exit := some (3, 0) }, by decide +kernel⟩,
   ⟨at' 400000 (pw { cur := some (trans 2) }), by decide +kernel⟩,
   ⟨at' 400000 (portMoves 0), by decide +kernel⟩,
   ⟨at' 400000 (setFld HOME_AGT_EN_EN 0 1 (still { doms := [(41, .prep 0)] })), by decide +kernel⟩⟩

theorem meets_Domains :
    (∃ s : State, let k := bits (BitVec.toNat (2147483761 : Word)) 0 6; let now := mgetD s.pw.doms k DomSt.on;
      ((BitVec.getLsbD (2147483761 : Word) 31 = true ∧ s.pw.inReset = false ∧ s.pw.st.toNat ≤ 3) ∧ k ∈ [41, 43, 44, 45, 46, 48, 49] ∧
        domImpl s.part.variant k = true ∧ s.en.pf = PfSt.none) ∧ BitVec.getLsbD (2147483761 : Word) 6 = true ∧ now = DomSt.off) ∧
    (∃ s : State, let k := bits (BitVec.toNat (2147483753 : Word)) 0 6; let now := mgetD s.pw.doms k DomSt.on;
      ((BitVec.getLsbD (2147483753 : Word) 31 = true ∧ s.pw.inReset = false ∧ s.pw.st.toNat ≤ 3) ∧ k ∈ [41, 43, 44, 45, 46, 48, 49] ∧
        domImpl s.part.variant k = true ∧ s.en.pf = PfSt.none) ∧ BitVec.getLsbD (2147483753 : Word) 6 = true ∧ now = DomSt.prep 0) ∧
    (∃ s : State, let k := bits (BitVec.toNat (2147483697 : Word)) 0 6; let now := mgetD s.pw.doms k DomSt.on;
      ((BitVec.getLsbD (2147483697 : Word) 31 = true ∧ s.pw.inReset = false ∧ s.pw.st.toNat ≤ 3) ∧ k ∈ [41, 43, 44, 45, 46, 48, 49] ∧
        domImpl s.part.variant k = true ∧ s.en.pf = PfSt.none) ∧ BitVec.getLsbD (2147483697 : Word) 6 = false ∧ now = DomSt.on) ∧
    (∃ s : State, let k := bits (BitVec.toNat (2147483697 : Word)) 0 6; let now := mgetD s.pw.doms k DomSt.on;
      ((BitVec.getLsbD (2147483697 : Word) 31 = true ∧ s.pw.inReset = false ∧ s.pw.st.toNat ≤ 3) ∧ k ∈ [41, 43, 44, 45, 46, 48, 49] ∧
        domImpl s.part.variant k = true ∧ s.en.pf = PfSt.none) ∧ BitVec.getLsbD (2147483697 : Word) 6 = false ∧ now = DomSt.rising 5 false) ∧
    (∃ s : State, let k := bits (BitVec.toNat (2147483754 : Word)) 0 6; (BitVec.getLsbD (2147483754 : Word) 31 = true ∧ s.pw.inReset = false ∧
      s.pw.st.toNat ≤ 3) ∧ k ∉ [41, 43, 44, 45, 46, 48, 49]) ∧
    (∃ s : State, let k := bits (BitVec.toNat (2147483753 : Word)) 0 6; (BitVec.getLsbD (2147483753 : Word) 31 = true ∧ s.pw.inReset = false ∧
      s.pw.st.toNat ≤ 3) ∧ k ∈ [41, 43, 44, 45, 46, 48, 49] ∧ domImpl s.part.variant k = false) ∧
    (∃ s : State, mget s.pw.doms 49 = some (DomSt.rising 5 false) ∧ 5 ≤ s.clk ∧ s.pw.inReset = false) ∧
    (∃ s : State, s.pw.inReset = false ∧ BitVec.getLsbD (1 : Word) 0 = true) :=
  ⟨⟨pw { doms := [(49, .off)] }, by decide +kernel⟩,
   ⟨pw { doms := [(41, .prep 0)] }, by decide +kernel⟩,
   ⟨State.reset, by decide +kernel⟩,
   ⟨pw { doms := [(49, .rising 5 false)] }, by decide +kernel⟩,
   ⟨State.reset, by decide +kernel⟩,
   ⟨{ State.reset with part := { variant := .cx3d } }, by decide +kernel⟩,
   ⟨at' 5 (pw { doms := [(49, .rising 5 false)] }), by decide +kernel⟩,
   ⟨addFld PWR_REF_CNT 0 5 State.reset, by decide +kernel⟩⟩

theorem meets_PortTransitions :
    (∃ s : State, (PortHere s (0 : Fin 20) ∧ s.pw.inReset = false ∧ s.en.pf = PfSt.none ∧ s.pw.st.toNat ≤ 1 ∧ (portPwr s 0).cur = none) ∧
      portAllows (pstate s 0) 0 = true) ∧
    (∃ s : State, (PortHere s (0 : Fin 20) ∧ s.pw.inReset = false ∧ s.en.pf = PfSt.none ∧ s.pw.st.toNat ≤ 1 ∧ (portPwr s 0).cur = none) ∧
      portAllows (pstate s 0) 2 = true) ∧
    (∃ s : State, (PortHere s (19 : Fin 20) ∧ s.pw.inReset = false ∧ s.en.pf = PfSt.none ∧ s.pw.st.toNat ≤ 1 ∧ (portPwr s 19).cur = none) ∧
      portAllows (pstate s 19) 0 = false) ∧
    (∃ s : State, (PortHere s (0 : Fin 20) ∧ s.pw.inReset = false ∧ s.en.pf = PfSt.none ∧ s.pw.st.toNat ≤ 1 ∧ (portPwr s 0).cur = none) ∧
      portAllows (pstate s 0) 1 = false) ∧
    (∃ s : State, (PortHere s (0 : Fin 20) ∧ s.pw.inReset = false ∧ s.en.pf = PfSt.none ∧ s.pw.st.toNat ≤ 1 ∧ (portPwr s 0).cur = none) ∧
      portAllows (pstate s 0) 2 = false) ∧
    (∃ s : State, (PortHere s (0 : Fin 20) ∧ s.pw.inReset = false ∧ s.en.pf = PfSt.none ∧ s.pw.st.toNat ≤ 1 ∧ (portPwr s 0).cur = none) ∧
      portAllows (pstate s 0) 3 = false) ∧
    (∃ s : State, (PortHere s (0 : Fin 20) ∧ s.pw.inReset = false ∧ s.en.pf = PfSt.none ∧ s.pw.st.toNat ≤ 1 ∧ (portPwr s 0).cur = none) ∧
      portsMove s = true ∧ pstate s 0 = PState.off) ∧
    (∃ s : State, (PortHere s (0 : Fin 20) ∧ s.pw.inReset = false ∧ s.en.pf = PfSt.none ∧ s.pw.st.toNat ≤ 1 ∧ (portPwr s 0).cur = none) ∧
      portsMove s = true ∧ pstate s 0 = PState.selfRefresh ∧ serial 0 = false) ∧
    (∃ s : State, (PortHere s (0 : Fin 20) ∧ s.pw.inReset = false ∧ s.en.pf = PfSt.none ∧ s.pw.st.toNat ≤ 1 ∧ (portPwr s 0).cur = none) ∧
      portsMove s = true ∧ pstate s 0 ≠ PState.off) ∧
    (∃ s : State, let k := BitVec.toNat 7#12; let a := argN (handleOf s k) 1; mayStart s k 11 = true ∧ bits a 0 5 = 0 ∧ bits a 8 4 = 0) ∧
    (∃ s : State, let k := BitVec.toNat 7#12; let a := argN (handleOf s k) 1; mayStart s k 11 = true ∧ bits a 0 5 = 19 ∧ bits a 8 4 = 1) ∧
    (∃ s : State, let k := BitVec.toNat 7#12; let a := argN (handleOf s k) 1; mayStart s k 11 = true ∧ bits a 0 5 = 0 ∧ bits a 8 4 = 2) ∧
    (∃ s : State, let k := BitVec.toNat 7#12; let a := argN (handleOf s k) 1; mayStart s k 11 = true ∧ bits a 0 5 = 0 ∧ bits a 8 4 = 3) ∧
    (∃ s : State, let k := BitVec.toNat 7#12; let a := argN (handleOf s k) 1; mayStart s k 11 = true ∧ bits a 0 5 = 0 ∧ bits a 8 4 = 4) ∧
    (∃ s : State, let v := BitVec.toNat (gpr (ctxOf s 0) 1#5); MayControl s (0 : Fin 4) ∧ v = 0 ∧ portImpl s.part.variant 0 = true ∧
      portAllows (pstate s 0) 0 = true ∧ fromDram s 0 = false ∧ s.en.pf = PfSt.none ∧
        Issues s (0 : Fin 4) (encR 51 3#5 1#5 0#5 0#1 (BitVec.ofNat 4 0) 4)) ∧
    (∃ s : State, let v := BitVec.toNat (gpr (ctxOf s 0) 1#5); MayControl s (0 : Fin 4) ∧ v = 19 ∧ portImpl s.part.variant 19 = true ∧
      portAllows (pstate s 19) 1 = true ∧ fromDram s 0 = false ∧ s.en.pf = PfSt.none ∧
        Issues s (0 : Fin 4) (encR 51 3#5 1#5 0#5 0#1 (BitVec.ofNat 4 1) 4)) ∧
    (∃ s : State, let v := BitVec.toNat (gpr (ctxOf s 0) 1#5); MayControl s (0 : Fin 4) ∧ v = 0 ∧ portImpl s.part.variant 0 = true ∧
      portAllows (pstate s 0) 2 = true ∧ fromDram s 0 = false ∧ s.en.pf = PfSt.none ∧
        Issues s (0 : Fin 4) (encR 51 3#5 1#5 0#5 0#1 (BitVec.ofNat 4 2) 4)) ∧
    (∃ s : State, let v := BitVec.toNat (gpr (ctxOf s 0) 1#5); MayControl s (0 : Fin 4) ∧ v = 0 ∧ portImpl s.part.variant 0 = true ∧
      portAllows (pstate s 0) 3 = true ∧ fromDram s 0 = false ∧ s.en.pf = PfSt.none ∧
        Issues s (0 : Fin 4) (encR 51 3#5 1#5 0#5 0#1 (BitVec.ofNat 4 3) 4)) ∧
    (∃ s : State, let v := BitVec.toNat (gpr (ctxOf s 1) 1#5); MayControl s (1 : Fin 4) ∧ v = 0 ∧ portImpl s.part.variant 0 = true ∧
      portAllows (pstate s 0) 4 = true ∧ fromDram s 1 = false ∧ s.en.pf = PfSt.none ∧
        Issues s (1 : Fin 4) (encR 51 3#5 1#5 0#5 0#1 (BitVec.ofNat 4 4) 4)) ∧
    (∃ s : State, PortHere s (0 : Fin 20) ∧ pstate s 0 = PState.stopping) :=
  ⟨⟨served State.reset, by decide +kernel⟩,
   ⟨served State.reset, by decide +kernel⟩,
   ⟨State.reset, by decide +kernel⟩,
   ⟨served State.reset, by decide +kernel⟩,
   ⟨State.reset, by decide +kernel⟩,
   ⟨State.reset, by decide +kernel⟩,
   ⟨State.reset, by decide +kernel⟩,
   ⟨setPstate 0 .selfRefresh (served State.reset), by decide +kernel⟩,
   ⟨setPstate 0 .halted (served State.reset), by decide +kernel⟩,
   ⟨cmd 0xB [0], by decide +kernel⟩,
   ⟨cmd 0xB [0x113], by decide +kernel⟩,
   ⟨cmd 0xB [0x200], by decide +kernel⟩,
   ⟨cmd 0xB [0x300], by decide +kernel⟩,
   ⟨cmd 0xB [0x400], by decide +kernel⟩,
   ⟨served (core (regs 0 0) (encR 0x33 3 1 0 0 0 4)), by decide +kernel⟩,
   ⟨core (regs 19 0) (encR 0x33 3 1 0 0 1 4), by decide +kernel⟩,
   ⟨served (core (regs 0 0) (encR 0x33 3 1 0 0 2 4)), by decide +kernel⟩,
   ⟨served (core (regs 0 0) (encR 0x33 3 1 0 0 3 4)), by decide +kernel⟩,
   ⟨served (user { priv := true } (encR 0x33 3 1 0 0 4 4)), by decide +kernel⟩,
   ⟨inState 0 .stopping, by decide +kernel⟩⟩

theorem meets_RegisterWrites :
    (∃ s : State, s.pw.inReset = true) ∧
    (∃ s : State, let k := BitVec.toNat 0#22; s.pw.inReset = false ∧ ((8 : Fin 9) ≠ (4 : Fin 9) ∨ k % 4 ≠ 0)) ∧
    (∃ s : State, let k := BitVec.toNat 3#22; s.pw.inReset = false ∧ ((4 : Fin 9) ≠ (4 : Fin 9) ∨ k % 4 ≠ 0)) ∧
    (∃ s : State, let k := BitVec.toNat 4194300#22; s.pw.inReset = false ∧ k % 4 = 0) ∧
    (∃ s : State, let k := BitVec.toNat 655360#22; unitThere s k = false) ∧
    (∃ s : State, s.pw.st = 0#3 ∧ s.pw.cur = none ∧ s.en.pf = PfSt.none) ∧
    (∃ s : State, s.pw.inReset = false) ∧
    (∃ s : State, s.pw.inReset = false ∧ BitVec.getLsbD (1 : Word) 0 = true) :=
  ⟨⟨pw { inReset := true }, by decide +kernel⟩,
   ⟨State.reset, by decide +kernel⟩,
   ⟨State.reset, by decide +kernel⟩,
   ⟨State.reset, by decide +kernel⟩,
   ⟨{ State.reset with part := { variant := .cx3d } }, by decide +kernel⟩,
   ⟨State.reset, by decide +kernel⟩,
   ⟨State.reset, by decide +kernel⟩,
   ⟨addFld CFG_REJ_COUNT 0 5 State.reset, by decide +kernel⟩⟩

theorem meets_RegisterFields :
    (∃ s : State, s.pw.inReset = false ∧ s.part.variant = Variant.cx3f) ∧
    (∃ s : State, s.pw.inReset = false ∧ s.part.variant = Variant.cx3m) ∧
    (∃ s : State, s.pw.inReset = false ∧ s.part.variant = Variant.cx3d) ∧
    (∃ s : State, 31 < 32) ∧
    (∃ s : State, regFind 786432 = some (fpCtl, 0) ∧ 786432 ∉ [512, 131084, 196648, 262204, 262208, 393260] ∧ fpCtl.base ≠ 135176) ∧
    (∃ s : State, let w := unitBits s.part.variant 786432 0; let r := writeFail s fpCtl 0 786432 w; regFind 786432 = some (fpCtl, 0) ∧
      (fpCtl.rs ≠ 0 ∨ fpCtl.rw ≠ 0 ∨ fpCtl.w1c ≠ 0) ∧ 0 < 2 ^ 32 ∧ r ≠ 0) ∧
    (∃ s : State, let w := unitBits s.part.variant 786432 65536; let r := writeFail s fpCtl 0 786432 w; regFind 786432 = some (fpCtl, 0) ∧
      (fpCtl.rs ≠ 0 ∨ fpCtl.rw ≠ 0 ∨ fpCtl.w1c ≠ 0) ∧ 65536 < 2 ^ 32 ∧ r = 0) ∧
    (∃ s : State, let w := unitBits s.part.variant 786432 4194304; let r := writeFail s fpCtl 0 786432 w; regFind 786432 = some (fpCtl, 0) ∧
      (fpCtl.rs ≠ 0 ∨ fpCtl.rw ≠ 0 ∨ fpCtl.w1c ≠ 0) ∧ 4194304 < 2 ^ 32 ∧ r = 0) ∧
    (∃ s : State, let w := unitBits s.part.variant 256 4294967295; let r := writeFail s intStat 0 256 w; regFind 256 = some (intStat, 0) ∧
      (intStat.rs ≠ 0 ∨ intStat.rw ≠ 0 ∨ intStat.w1c ≠ 0) ∧ 4294967295 < 2 ^ 32 ∧ r = 0) :=
  ⟨⟨State.reset, by decide +kernel⟩,
   ⟨{ State.reset with part := { variant := .cx3m } }, by decide +kernel⟩,
   ⟨{ State.reset with part := { variant := .cx3d } }, by decide +kernel⟩,
   ⟨State.reset, by decide +kernel⟩,
   ⟨State.reset, by decide +kernel⟩,
   ⟨State.reset, by decide +kernel⟩,
   ⟨State.reset, by decide +kernel⟩,
   ⟨State.reset, by decide +kernel⟩,
   ⟨State.reset, by decide +kernel⟩⟩

theorem meets_RegisterBoundaries :
    (∃ s : State, globalDue s = true ∧ flg s CFG_APPLY_HOLD = false) ∧
    (∃ s : State, globalDue s = true ∧ flg s CFG_APPLY_HOLD = true) ∧
    (∃ s : State, globalDue s = false) ∧
    (∃ s : State, ((pendingIn s fun _ => true) = [768]) ∧ false = false) ∧
    (∃ s : State, ((pendingIn s fun _ => true) = [768]) ∧ true = true) ∧
    (∃ s : State, let staged' := List.filter (fun off => !flg s CFG_APPLY_HOLD || s.cfg.own.contains off) (pendingIn s fun off => decide (2097152 + 0 * 65536 ≤ off) && decide (off < 2162688 + 0 * 65536)); let w := mainTap 0 (loopSet 0 (List.foldl (applyPortReg 0) s staged')); PortHere s (0 : Fin 20) ∧ boundaryOpen s = true ∧ portDue s 0 = true ∧ (portOf w 0).marks.leadNew = none) ∧
    (∃ s : State, (flg s CFG_CRC_STAT_BUSY = true ∧ boundaryOpen s = true ∧ s.cfg.crcAt + passTicks s ≤ s.clk) ∧ s.cfg.byCommit = true) ∧
    (∃ s : State, (flg s CFG_CRC_STAT_BUSY = true ∧ boundaryOpen s = true ∧ s.cfg.crcAt + passTicks s ≤ s.clk) ∧ s.cfg.byCommit = false ∧
      flg s CFG_CRC_CTL_EN = true ∧ flg s CFG_CRC_STAT_ARMED = false) :=
  ⟨⟨at' 65536 State.reset, by decide +kernel⟩,
   ⟨at' 65536 (setFld CFG_APPLY_HOLD 0 1 State.reset), by decide +kernel⟩,
   ⟨State.reset, by decide +kernel⟩,
   ⟨{ State.reset with shadow := [(0x300, 5)] }, by decide +kernel⟩,
   ⟨{ State.reset with shadow := [(0x300, 5)] }, by decide +kernel⟩,
   ⟨State.reset, by decide +kernel⟩,
   ⟨passing (setFld CFG_CRC_STAT_BUSY 0 1 { State.reset with cfg := { byCommit := true } }), ⟨by decide +kernel, by decide +kernel, passing_due _ (by decide +kernel)⟩, by decide +kernel⟩,
   ⟨passing (setFld CFG_CRC_CTL_EN 0 1 (setFld CFG_CRC_STAT_BUSY 0 1 State.reset)), ⟨by decide +kernel, by decide +kernel, passing_due _ (by decide +kernel)⟩, ⟨by decide +kernel, by decide +kernel, by decide +kernel⟩⟩⟩

theorem meets_RegisterAbsent :
    ∃ s : State, let x := s.part.variant; ((∃ p < 20, portImpl x p = false ∧ (2097152 + 65536 * p ≤ 659452 ∧
      659452 < 2097152 + 65536 * (p + 1) ∨ 393472 + 4 * p ≤ 659452 ∧ 659452 < 393472 + 4 * (p + 1) ∨ 393728 + 4 * p ≤ 659452 ∧
        659452 < 393728 + 4 * (p + 1))) ∨ (∃ n < 32, fabImpl x n = false ∧ 786432 + 4096 * n ≤ 659452 ∧
        659452 < 786432 + 4096 * (n + 1)) ∨ homeImpl x = false ∧ 655360 + 4096 * 0 ≤ 659452 ∧
        659452 < 655360 + 4096 * (0 + 1) ∨ (∃ c < 4, ctxCount x ≤ c ∧ 524544 + 256 * c ≤ 659452 ∧
        659452 < 524544 + 256 * (c + 1)) ∨ (∃ m < 4, stallCount x ≤ 8192 * m ∧ 3672064 + 4 * m ≤ 659452 ∧
        659452 < 3672064 + 4 * (m + 1)) ∨ ∃ g < 128, stallCount x ≤ 256 * g ∧ 3674112 + 8 * g ≤ 659452 ∧ 659452 < 3674112 + 8 * (g + 1)) :=
  ⟨{ State.reset with part := { variant := .cx3d } }, by decide +kernel⟩

theorem meets_Settling :
    ∃ s : State, Quiet s :=
  ⟨State.reset, by decide +kernel⟩

theorem meets_LanternRoundTrip :
    (∃ (i : Instr) (c : Fin 4) (w : Word), encodeLant i = some (c, w) ∧ wordDefined w = true) ∧
    (∃ (i : Instr) (c : Fin 4) (w : Word), decodeLant c w = some i) :=
  ⟨⟨.addi 1 4 5 0xFFFF, 1, encI 2 4 5 0xFFFF, by decide +kernel⟩, ⟨.addi 1 4 5 0xFFFF, 1, encI 2 4 5 0xFFFF, by decide +kernel⟩⟩

theorem meets_StepKeepsPart : ∃ s t : State, step s = .next t := ⟨State.reset, _, rfl⟩

theorem meets_StepKeepsMemory : ∃ s t : State, MemOk s ∧ step s = .next t := ⟨State.reset, _, by decide +kernel, rfl⟩

end Sys2Proof.Tests
end

section
/-!
What every step keeps: the part, the queue behind the command that it takes, and the canonical form of the memories. `Keeps` says it
of one state against another. Each function of the model keeps it of the state it is given (`raise_keeps` for `raise`, and so on, in
the order of the model's files), so every command does (`exec_keeps`), and so does a step (`step_keeps`).
-/

namespace Sys2Proof.Machine

/-- What every step keeps of the state `r`: `s` has its part and its queue, and memories in canonical form where those of `r` are. -/
structure Keeps (r s : State) : Prop where
  part : s.part = r.part
  pending : s.pending = r.pending
  mem : MemOk r → MemOk s

/-- The fields of the state that `Keeps` speaks of. -/
def core (s : State) : Part × List Instr × SMap Byte × SMap Byte × SMap Byte × SMap Byte :=
  (s.part, s.pending, s.dram, s.spad, s.lant.prog, s.lant.data)

/-- `Keeps` of an answer that may hold no state. -/
def KeepsSome (s₀ : State) (o : Option State) : Prop := ∀ t, o = some t → Keeps s₀ t

/-- `Keeps` of an answer that may hold a value and a state. -/
def KeepsPair {α : Type} (s₀ : State) (o : Option (α × State)) : Prop := ∀ x, o = some x → Keeps s₀ x.2

/-- `Keeps` of the state that a command leads to, if it leads to one. -/
def KeepsOut (s₀ : State) (o : Out) : Prop := ∀ t, o = .next t → Keeps s₀ t

variable {s₀ s : State} {p n a c k id off la line v : Nat}

theorem Keeps.refl (s : State) : Keeps s s := ⟨rfl, rfl, fun h => h⟩

/-- An update of other fields: `h.upd rfl`. -/
theorem Keeps.upd {s t : State} (h : Keeps s₀ s) (e : core t = core s) : Keeps s₀ t := by
  simp only [core, Prod.mk.injEq] at e
  obtain ⟨hpart, hpend, hdram, hspad, hprog, hdata⟩ := e
  exact ⟨hpart.trans h.part, hpend.trans h.pending, fun hr => by simpa only [MemOk, hdram, hspad, hprog, hdata] using h.mem hr⟩

/-- An update of the memories. -/
theorem Keeps.mod {s t : State} (h : Keeps s₀ s) (hpart : t.part = s.part) (hpend : t.pending = s.pending)
    (hmem : MemOk s → MemOk t) : Keeps s₀ t :=
  ⟨hpart.trans h.part, hpend.trans h.pending, fun hr => hmem (h.mem hr)⟩

/-! ### The forms that the model's functions are built from -/

theorem ite_keeps {c : Prop} [Decidable c] {s t : State} (hs : Keeps s₀ s) (ht : Keeps s₀ t) : Keeps s₀ (if c then s else t) := by
  split <;> assumption

theorem iteSome_keeps {c : Prop} [Decidable c] {s t : Option State} (hs : KeepsSome s₀ s) (ht : KeepsSome s₀ t) :
    KeepsSome s₀ (if c then s else t) := by
  split <;> assumption

theorem iteOut_keeps {c : Prop} [Decidable c] {s t : Out} (hs : KeepsOut s₀ s) (ht : KeepsOut s₀ t) :
    KeepsOut s₀ (if c then s else t) := by
  split <;> assumption

theorem none_keeps : KeepsSome s₀ none := fun t e => (Option.some_ne_none t e.symm).elim

theorem some_keeps {s : State} (h : Keeps s₀ s) : KeepsSome s₀ (some s) := fun _ e => Option.some.inj e ▸ h

theorem nonePair_keeps {α : Type} : KeepsPair (α := α) s₀ none := fun x e => (Option.some_ne_none x e.symm).elim

theorem somePair_keeps {α : Type} {x : α × State} (h : Keeps s₀ x.2) : KeepsPair s₀ (some x) := fun _ e => Option.some.inj e ▸ h

theorem next_keeps {s : State} (h : Keeps s₀ s) : KeepsOut s₀ (.next s) := fun _ e => Host.Outcome.next.inj e ▸ h

theorem fault_keeps {f : Fault} : KeepsOut s₀ (.fault f) := by simp only [KeepsOut, reduceCtorEq, false_implies, implies_true]

theorem pair_keeps {α : Type} {x : α} {t : State} (h : Keeps s₀ t) : Keeps s₀ (x, t).2 := h

theorem pairPair_keeps {α β : Type} {x : α} {y : β × State} (h : Keeps s₀ y.2) : Keeps s₀ (x, y).2.2 := h

theorem foldl_keeps {α : Type} {l : List α} {g : State → α → State} {s : State} (h : Keeps s₀ s)
    (hg : ∀ t x, Keeps s₀ t → Keeps s₀ (g t x)) : Keeps s₀ (l.foldl g s) := by
  induction l generalizing s with
  | nil => exact h
  | cons x l ih => exact ih (hg s x h)

theorem foldlSnd_keeps {α β : Type} {l : List α} {g : β × State → α → β × State} {s : β × State} (h : Keeps s₀ s.2)
    (hg : ∀ t x, Keeps s₀ t.2 → Keeps s₀ (g t x).2) : Keeps s₀ (l.foldl g s).2 := by
  induction l generalizing s with
  | nil => exact h
  | cons x l ih => exact ih (hg s x h)

theorem getD_keeps {o : Option State} (ho : KeepsSome s₀ o) (h : Keeps s₀ s) : Keeps s₀ (o.getD s) := by
  cases o with
  | none => exact h
  | some t => exact ho t rfl

theorem map_keeps {α : Type} {o : Option α} {f : α → State} (hf : ∀ x, Keeps s₀ (f x)) : KeepsSome s₀ (o.map f) := by
  cases o with
  | none => exact none_keeps
  | some x => exact some_keeps (hf x)

theorem mapSome_keeps {o : Option State} {f : State → State} (ho : KeepsSome s₀ o) (hf : ∀ t, Keeps s₀ t → Keeps s₀ (f t)) :
    KeepsSome s₀ (o.map f) := by
  cases o with
  | none => exact none_keeps
  | some t => exact some_keeps (hf t (ho t rfl))

theorem mapPair_keeps {α : Type} {o : Option (α × State)} {f : α × State → State} (ho : KeepsPair s₀ o)
    (hf : ∀ x, Keeps s₀ x.2 → Keeps s₀ (f x)) : KeepsSome s₀ (o.map f) := by
  cases o with
  | none => exact none_keeps
  | some x => exact some_keeps (hf x (ho x rfl))

theorem mapToPair_keeps {α : Type} {o : Option State} {f : State → α × State} (ho : KeepsSome s₀ o)
    (hf : ∀ t, Keeps s₀ t → Keeps s₀ (f t).2) : KeepsPair s₀ (o.map f) := by
  cases o with
  | none => exact nonePair_keeps
  | some t => exact somePair_keeps (hf t (ho t rfl))

theorem findSome_keeps {α : Type} {l : List α} {f : α → Option State} (hf : ∀ x, KeepsSome s₀ (f x)) :
    KeepsSome s₀ (l.findSome? f) := by
  intro t ht
  obtain ⟨_, x, _, _, hx, _⟩ := List.findSome?_eq_some_iff.1 ht
  exact hf x t hx

/-! ### Machine/Ops -/

theorem setWord_keeps (h : Keeps s₀ s) : Keeps s₀ (setWord off v s) := h.upd rfl

theorem setFld_keeps {f : Fld} {i : Nat} (h : Keeps s₀ s) : Keeps s₀ (setFld f i v s) := setWord_keeps h

theorem addFld_keeps {f : Fld} {i : Nat} (h : Keeps s₀ s) : Keeps s₀ (addFld f i n s) := setFld_keeps h

theorem applyShadow_keeps (h : Keeps s₀ s) : Keeps s₀ (applyShadow off s) := by
  unfold applyShadow
  split
  · exact h
  · extract_lets rst src
    have hsrc : Keeps s₀ src := setWord_keeps h
    exact hsrc.upd rfl

theorem dropShadow_keeps (h : Keeps s₀ s) : Keeps s₀ (dropShadow off s) := h.upd rfl

theorem raise_keeps {u : Option Nat} (h : Keeps s₀ s) : Keeps s₀ (raise c s u) := by
  unfold raise
  extract_lets off s1
  have hs1 : Keeps s₀ s1 := setWord_keeps h
  split
  · exact hs1
  · exact ite_keeps (setWord_keeps hs1) hs1

theorem setFab_keeps {f : FabPort} (h : Keeps s₀ s) : Keeps s₀ (setFab n f s) := h.upd rfl

theorem modFab_keeps {g : FabPort → FabPort} (h : Keeps s₀ s) : Keeps s₀ (modFab n g s) := setFab_keeps h

theorem setPort_keeps {q : Port} (h : Keeps s₀ s) : Keeps s₀ (setPort p q s) := h.upd rfl

theorem modPort_keeps {g : Port → Port} (h : Keeps s₀ s) : Keeps s₀ (modPort p g s) := setPort_keeps h

theorem modSched_keeps {g : Sched → Sched} (h : Keeps s₀ s) : Keeps s₀ (modSched p g s) := modPort_keeps h

theorem modDram_keeps {g : DramSt → DramSt} (h : Keeps s₀ s) : Keeps s₀ (modDram p g s) := modPort_keeps h

theorem modLink_keeps {g : Link → Link} (h : Keeps s₀ s) : Keeps s₀ (modLink p g s) := modPort_keeps h

theorem modTrain_keeps {g : Train → Train} (h : Keeps s₀ s) : Keeps s₀ (modTrain p g s) := modPort_keeps h

theorem modProt_keeps {g : Protect → Protect} (h : Keeps s₀ s) : Keeps s₀ (modProt p g s) := modPort_keeps h

theorem modMarks_keeps {g : Marks → Marks} (h : Keeps s₀ s) : Keeps s₀ (modMarks p g s) := modPort_keeps h

theorem drawFree_keeps (h : Keeps s₀ s) : Keeps s₀ (drawFree s).2 := pair_keeps (h.upd rfl)

theorem newId_keeps (h : Keeps s₀ s) : Keeps s₀ (newId s).2 := pair_keeps (h.upd rfl)

theorem setPstate_keeps {x : PState} (h : Keeps s₀ s) : Keeps s₀ (setPstate p x s) := ite_keeps (setFld_keeps h) (setFld_keeps h)

theorem setPopErr_keeps {e : Nat} (h : Keeps s₀ s) : Keeps s₀ (setPopErr p e s) := ite_keeps (setFld_keeps h) (setFld_keeps h)

theorem setShed_keeps (h : Keeps s₀ s) : Keeps s₀ (setShed p v s) := ite_keeps (setFld_keeps h) (setFld_keeps h)

theorem setLost_keeps (h : Keeps s₀ s) : Keeps s₀ (setLost p v s) := ite_keeps (setFld_keeps h) (setFld_keeps h)

theorem active_keeps (h : Keeps s₀ s) : Keeps s₀ (active s) := by
  unfold active
  extract_lets src s1
  have hs1 : Keeps s₀ s1 := h.upd rfl
  exact ite_keeps (setFld_keeps hs1) hs1

theorem logPush_keeps {e : LogEntry} (h : Keeps s₀ s) : Keeps s₀ (logPush k e s) := by
  unfold logPush
  exact h.upd rfl

theorem logEngine_keeps {typ w1 detail : Nat} (h : Keeps s₀ s) : Keeps s₀ (logEngine typ w1 detail s) := logPush_keeps h

theorem logPort_keeps {typ dev : Nat} {la : Option Nat} {detail : Nat} (h : Keeps s₀ s) :
    Keeps s₀ (logPort p typ dev la detail s) := by
  unfold logPort
  exact logPush_keeps h

theorem logCe_keeps {dev detail : Nat} (h : Keeps s₀ s) : Keeps s₀ (logCe p dev la detail s) := by
  unfold logCe
  extract_lets l gap
  split
  · exact ite_keeps h (logPort_keeps (h.upd rfl))
  · exact logPort_keeps (h.upd rfl)

theorem reject_keeps {reason src st : Nat} (h : Keeps s₀ s) : Keeps s₀ (reject off reason s src st) := by
  unfold reject
  exact raise_keeps (addFld_keeps (setFld_keeps (setFld_keeps (logEngine_keeps h))))

theorem crcRestart_keeps {s1 : State} (hs1 : Keeps s₀ s1) : Keeps s₀ (crcRestart s s1) := ite_keeps (hs1.upd rfl) hs1

theorem engWord_keeps {rst mask src : Nat} (h : Keeps s₀ s) : Keeps s₀ (engWord off rst mask v src s) := by
  unfold engWord
  extract_lets cur pend lost s1 w s2 s3
  have hs1 : Keeps s₀ s1 := setWord_keeps h
  have hs2 : Keeps s₀ s2 := by
    unfold s2
    split
    · exact hs1
    · exact ite_keeps (hs1.upd rfl) (hs1.upd rfl)
  have hs3 : Keeps s₀ s3 := ite_keeps hs2 (crcRestart_keeps (setFld_keeps hs2))
  exact ite_keeps (reject_keeps hs3) hs3

theorem engFld_keeps {f : Fld} {i src : Nat} (h : Keeps s₀ s) : Keeps s₀ (engFld f i v s src) := engWord_keeps h

theorem marksNew_keeps (h : Keeps s₀ s) : Keeps s₀ (marksNew p s) := ite_keeps (modLink_keeps h) h

theorem stageFld_keeps {f : Fld} {i : Nat} (h : Keeps s₀ s) : Keeps s₀ (stageFld f i v s) := by
  unfold stageFld
  extract_lets off pend src s1
  have hs1 : Keeps s₀ s1 := h.upd rfl
  exact ite_keeps (reject_keeps hs1) hs1

theorem setPoison_keeps {b : Bool} (h : Keeps s₀ s) : Keeps s₀ (setPoison p la b s) := by
  unfold setPoison
  split
  · exact h.upd rfl
  · exact modProt_keeps h

theorem writeBytes_keeps {d : Line} {be : BitVec 64} (h : Keeps s₀ s) : Keeps s₀ (writeBytes p la d be s) := by
  refine ⟨?_, ?_, fun hm => memOk_writeBytes _ _ _ _ _ (h.mem hm)⟩ <;> unfold writeBytes <;> split
  exacts [h.part, h.part, h.pending, h.pending]

theorem storeLine_keeps {d : Line} {poison : Bool} {origin : Nat} (h : Keeps s₀ s) : Keeps s₀ (storeLine p la d poison origin s) :=
    by
  unfold storeLine
  extract_lets s1
  have hs1 : Keeps s₀ s1 := writeBytes_keeps h
  exact ite_keeps (setPoison_keeps (logPort_keeps (addFld_keeps hs1))) (setPoison_keeps hs1)

theorem loseDimms_keeps {gone : Nat → Bool} (h : Keeps s₀ s) : Keeps s₀ (loseDimms p gone s) :=
  ⟨h.part, h.pending, fun hm => memOk_loseDimms _ _ _ (h.mem hm)⟩

theorem zeroDimm_keeps {dimm : Nat} (h : Keeps s₀ s) : Keeps s₀ (zeroDimm p dimm s) := loseDimms_keeps h

theorem sramRemap_keeps {g w : Nat} (h : Keeps s₀ s) : Keeps s₀ (sramRemap g w s) := by
  unfold sramRemap
  exact ite_keeps h (ite_keeps (logEngine_keeps (h.upd rfl)) (ite_keeps h (raise_keeps (h.upd rfl))))

theorem sramError_keeps {typ g w : Nat} (h : Keeps s₀ s) : Keeps s₀ (sramError typ g w s) := by
  unfold sramError
  extract_lets q s1
  have hs1 : Keeps s₀ s1 := logEngine_keeps (h.upd rfl)
  exact ite_keeps (sramRemap_keeps hs1) hs1

theorem spadParity_keeps (h : Keeps s₀ s) : Keeps s₀ (spadParity off s) := by
  unfold spadParity
  exact sramError_keeps (setFld_keeps (setFld_keeps (addFld_keeps h)))

theorem spadRead_keeps (h : Keeps s₀ s) : Keeps s₀ (spadRead s off).2 := by
  unfold spadRead
  split
  · exact pair_keeps (spadParity_keeps h)
  · exact pair_keeps h

theorem spadWrite_keeps {d : Line} {be : BitVec 64} {poison : Bool} (h : Keeps s₀ s) : Keeps s₀ (spadWrite off d be poison s) :=
  ⟨h.part, h.pending, fun hm => memOk_spadWrite _ _ _ _ _ (h.mem hm)⟩

theorem setFoot3_keeps {v : BitVec 73} (h : Keeps s₀ s) : Keeps s₀ (setFoot3 off v s) :=
  setWord_keeps (setWord_keeps (setWord_keeps h))

theorem addFoot_keeps {i : Nat} (h : Keeps s₀ s) : Keeps s₀ (addFoot off i s) := setFoot3_keeps h

/-! ### Machine/Flags -/

theorem ceThRaise_keeps (h : Keeps s₀ s) : Keeps s₀ (ceThRaise p s) := by
  unfold ceThRaise
  extract_lets q
  split
  · exact ite_keeps (modProt_keeps h) (raise_keeps (modProt_keeps h))
  · exact raise_keeps (modProt_keeps h)

theorem ceWindow_keeps (h : Keeps s₀ s) : Keeps s₀ (ceWindow p s) := by
  unfold ceWindow
  exact ite_keeps (ceThRaise_keeps (modProt_keeps h)) (modProt_keeps h)

theorem remapFull_keeps {cause : Nat} (h : Keeps s₀ s) : Keeps s₀ (remapFull p la cause s) := by
  unfold remapFull
  extract_lets s1 s2
  have hs1 : Keeps s₀ s1 := logPort_keeps h
  have hs2 : Keeps s₀ s2 := setFld_keeps hs1
  exact ite_keeps hs1 (ite_keeps hs2 (raise_keeps (modProt_keeps hs2)))

theorem remapStat_keeps (h : Keeps s₀ s) : Keeps s₀ (remapStat p s) := setFld_keeps (setFld_keeps h)

theorem remapTrigger_keeps {cause : Nat} (h : Keeps s₀ s) : Keeps s₀ (remapTrigger p la cause s) := by
  unfold remapTrigger
  extract_lets key
  refine ite_keeps h ?_
  refine ite_keeps h ?_
  refine ite_keeps (remapFull_keeps h) ?_
  split
  · exact remapFull_keeps h
  · exact raise_keeps (logPort_keeps (remapStat_keeps (modProt_keeps h)))

theorem noteDecode_keeps {d : Dec} {origin : Nat} {wb : Bool} (h : Keeps s₀ s) : Keeps s₀ (noteDecode p la d origin wb s) := by
  unfold noteDecode
  extract_lets s1 s2 fixed s12 s22
  have hs1 : Keeps s₀ s1 := addFld_keeps h
  have hfixed : ∀ x x1, Keeps s₀ (fixed x x1) := fun _ _ => ceWindow_keeps (logCe_keeps (ite_keeps (addFld_keeps hs1) hs1))
  have hs22 : Keeps s₀ s22 := raise_keeps (logPort_keeps (addFld_keeps h))
  split
  · exact h
  · exact h
  · exact hfixed _ _
  · exact hfixed _ _
  · exact ite_keeps (remapTrigger_keeps hs22) hs22

theorem notePoisonRead_keeps {d : Dec} {origin : Nat} (h : Keeps s₀ s) : Keeps s₀ (notePoisonRead p la d origin s) :=
  ite_keeps (logPort_keeps (addFld_keeps h)) h

theorem storePoisoned_keeps {d : Line} {origin : Nat} (h : Keeps s₀ s) : Keeps s₀ (storePoisoned p la d origin s) :=
  ite_keeps (storeLine_keeps h) (storeLine_keeps (logPort_keeps (addFld_keeps h)))

/-! ### Machine/Operands -/

theorem bind_keeps {t : Nat} {dl : Option Int} {fp : Option (Fin 32)} (h : Keeps s₀ s) : Keeps s₀ (bind t dl fp s).2 := by
  unfold bind
  exact pair_keeps (addFld_keeps h)

theorem unbind_keeps {a : ReqAttr} (h : Keeps s₀ s) : Keeps s₀ (unbind a s) := by
  unfold unbind
  split
  · exact h
  · exact setFld_keeps h

theorem judge_keeps {a : ReqAttr} (h : Keeps s₀ s) : Keeps s₀ (judge a s) := by
  unfold judge
  split
  · exact h
  · extract_lets late s1 s2 quiet src
    have hs1 : Keeps s₀ s1 := addFld_keeps h
    have hs2 : Keeps s₀ s2 := ite_keeps hs1 (setFld_keeps (setFld_keeps hs1))
    exact ite_keeps h (ite_keeps (addFld_keeps hs2) (raise_keeps (hs2.upd rfl)))

/-! ### Machine/Path -/

theorem fabLine_keeps {g : FLine → FLine} (h : Keeps s₀ s) : Keeps s₀ (fabLine n id k g s) := modFab_keeps h

theorem fabPerformed_keeps (h : Keeps s₀ s) : Keeps s₀ (fabPerformed n id k s) := by
  unfold fabPerformed
  split
  · exact h
  · extract_lets was s1
    have hs1 : Keeps s₀ s1 := fabLine_keeps h
    exact ite_keeps hs1 (modFab_keeps hs1)

theorem fabLineDone_keeps {res : LineRes} (h : Keeps s₀ s) : Keeps s₀ (fabLineDone n id k res s) := by
  unfold fabLineDone
  split
  · exact ite_keeps (modFab_keeps h) h
  · extract_lets s1
    have hs1 : Keeps s₀ s1 := fabLine_keeps (fabPerformed_keeps h)
    exact ite_keeps (modFab_keeps hs1) hs1

theorem setCtx_keeps {x : Ctx} (h : Keeps s₀ s) : Keeps s₀ (setCtx c x s) := h.upd rfl

theorem modCtx_keeps {g : Ctx → Ctx} (h : Keeps s₀ s) : Keeps s₀ (modCtx c g s) := setCtx_keeps h

theorem answered_keeps {a : ReqAttr} (h : Keeps s₀ s) : Keeps s₀ (answered a s) := unbind_keeps (judge_keeps h)

theorem lantLineDone_setLant_keeps {num : Nat} {res : LineRes} (h : Keeps s₀ s) : Keeps s₀ (lantLineDone.setLant c num res s) :=
  modCtx_keeps h

theorem lantLineDone_keeps {num : Nat} {res : LineRes} (h : Keeps s₀ s) : Keeps s₀ (lantLineDone c num res s) := by
  unfold lantLineDone
  extract_lets s0
  have hs0 : Keeps s₀ s0 := by
    unfold s0
    split
    · exact answered_keeps h
    · exact h
  exact lantLineDone_setLant_keeps hs0

theorem lantPerformed_keeps {num : Nat} (h : Keeps s₀ s) : Keeps s₀ (lantPerformed c num s) := modCtx_keeps h

theorem modFeet_keeps {g : List FootPend → List FootPend} (h : Keeps s₀ s) : Keeps s₀ (modFeet g s) := h.upd rfl

theorem footFirm_keeps {slot : Nat} (h : Keeps s₀ s) : Keeps s₀ (footFirm off slot s) := modFeet_keeps (addFoot_keeps h)

theorem setFoot_keeps {o : Owner} {slot : Nat} (h : Keeps s₀ s) : Keeps s₀ (setFoot o slot s) := by
  unfold setFoot
  split
  · exact h
  · exact footFirm_keeps h

theorem footPerform_keeps {key o : Owner} {ring : Bool} {slot : Nat} (h : Keeps s₀ s) : Keeps s₀ (footPerform key o ring slot s) :=
    by
  unfold footPerform
  split
  · exact h
  · exact modFeet_keeps (addFoot_keeps h)

theorem footEnd_keeps {e : FootPend} {ok : Bool} (h : Keeps s₀ s) : Keeps s₀ (footEnd e ok s) := by
  unfold footEnd
  extract_lets same
  refine ite_keeps (modFeet_keeps h) ?_
  refine ite_keeps h ?_
  split
  · exact modFeet_keeps h
  · exact setFoot3_keeps h

theorem footSettle_keeps {key : Owner} {ok : Bool} (h : Keeps s₀ s) : Keeps s₀ (footSettle key ok s) := by
  unfold footSettle
  exact foldl_keeps (modFeet_keeps h) (fun _ _ ht => footEnd_keeps ht)

theorem footClear_keeps (h : Keeps s₀ s) : Keeps s₀ (footClear off s) := setFoot3_keeps (modFeet_keeps h)

theorem modHome_keeps {g : Home → Home} (h : Keeps s₀ s) : Keeps s₀ (modHome g s) := h.upd rfl

theorem rsvTake_keeps {m : Master} (h : Keeps s₀ s) : Keeps s₀ (rsvTake m line s) := by
  unfold rsvTake
  exact modHome_keeps (ite_keeps (addFld_keeps h) h)

theorem rsvDrop_keeps {m : Master} (h : Keeps s₀ s) : Keeps s₀ (rsvDrop m s) := modHome_keeps h

theorem rsvLose_keeps {m : Master} {f : Fld} (h : Keeps s₀ s) : Keeps s₀ (rsvLose m f s) :=
  ite_keeps (rsvDrop_keeps (addFld_keeps h)) h

theorem rsvStore_keeps {m : Option Master} (h : Keeps s₀ s) : Keeps s₀ (rsvStore m line s) := by
  unfold rsvStore
  exact modHome_keeps (addFld_keeps h)

theorem rsvLoseAll_keeps (h : Keeps s₀ s) : Keeps s₀ (rsvLoseAll s) := modHome_keeps (addFld_keeps h)

theorem portAdd_keeps {owner : Owner} {kind : SubKind} {a : ReqAttr} (h : Keeps s₀ s) : Keeps s₀ (portAdd p owner la kind a s) := by
  unfold portAdd
  exact modDram_keeps (modSched_keeps (newId_keeps h))

theorem closeEntry_keeps {e : Nat} (h : Keeps s₀ s) : Keeps s₀ (closeEntry p e s) := by
  unfold closeEntry
  split
  · exact h
  · exact ite_keeps h (modSched_keeps (modProt_keeps (newId_keeps h)))

theorem closeAll_keeps (h : Keeps s₀ s) : Keeps s₀ (closeAll p s) := foldl_keeps h (fun _ _ ht => closeEntry_keeps ht)

theorem mergeIn_keeps {d : Line} {be : BitVec 64} {poison : Bool} {a : ReqAttr} {o : Owner} (h : Keeps s₀ s) :
    Keeps s₀ (mergeIn p la d be poison a o s).2 := by
  unfold mergeIn
  extract_lets after m
  have hafter : ∀ x x1 t, Keeps s₀ t → Keeps s₀ (after x x1 t) := fun _ _ _ ht => ite_keeps (closeEntry_keeps ht) ht
  split
  · exact pair_keeps (hafter _ _ _ (modProt_keeps h))
  · split
    · exact pair_keeps (hafter _ _ _ (modProt_keeps h))
    · split
      · exact pair_keeps (closeEntry_keeps h)
      · exact pair_keeps h

theorem setWays_keeps {w : List LedEntry} (h : Keeps s₀ s) : Keeps s₀ (setWays line w s) := by
  unfold setWays
  exact modHome_keeps h

theorem ledgerTouch_keeps {susp : Bool} (h : Keeps s₀ s) : Keeps s₀ (ledgerTouch line susp s) := setWays_keeps h

theorem ledgerFree_keeps (h : Keeps s₀ s) : Keeps s₀ (ledgerFree line s) := setWays_keeps h

theorem ringSend_keeps {m : RingOut} (h : Keeps s₀ s) : Keeps s₀ (ringSend m s) := modHome_keeps h

theorem ringComp_keeps {stop : Nat} {txn : BitVec 8} {sts : BitVec 4} (h : Keeps s₀ s) : Keeps s₀ (ringComp stop txn line sts s) :=
  ringSend_keeps h

theorem logHome_keeps {stop event op : Nat} {more : Bool} (h : Keeps s₀ s) : Keeps s₀ (logHome line stop event op more s) := by
  unfold logHome
  exact logPush_keeps h

theorem homeProto_keeps {stop op : Nat} (h : Keeps s₀ s) : Keeps s₀ (homeProto line stop op s) :=
  raise_keeps (logHome_keeps (addFld_keeps h))

theorem homeDrop_keeps (h : Keeps s₀ s) : Keeps s₀ (homeDrop id s) := modHome_keeps h

theorem homeMod_keeps {g : HomeReq → HomeReq} (h : Keeps s₀ s) : Keeps s₀ (homeMod id g s) := modHome_keeps h

theorem homeAnswer_keeps {r : HomeReq} {res : LineRes} (h : Keeps s₀ s) : Keeps s₀ (homeAnswer r res s) := by
  unfold homeAnswer
  split
  · exact fabLineDone_keeps h
  · exact lantLineDone_keeps h
  · refine ite_keeps h ?_
    refine answered_keeps ?_
    refine ite_keeps (ringComp_keeps h) ?_
    split
    · exact ringSend_keeps h
    · exact ringSend_keeps h
    · exact ringComp_keeps h

theorem homeStored_keeps {r : HomeReq} (h : Keeps s₀ s) : Keeps s₀ (homeStored r s) := by
  unfold homeStored
  split
  · extract_lets s1
    have hs1 : Keeps s₀ s1 := footPerform_keeps h
    split
    · exact fabPerformed_keeps hs1
    · exact lantPerformed_keeps hs1
    · exact hs1
  · exact h

theorem homeRelease_keeps (h : Keeps s₀ s) : Keeps s₀ (homeRelease id s) := by
  unfold homeRelease
  split
  · exact h
  · refine ite_keeps h ?_
    extract_lets s1
    have hs1 : Keeps s₀ s1 := homeMod_keeps h
    split
    · exact ite_keeps (homeAnswer_keeps (homeStored_keeps hs1)) (homeStored_keeps hs1)
    · exact ite_keeps (homeAnswer_keeps (homeStored_keeps hs1)) (homeStored_keeps hs1)
    · exact homeAnswer_keeps (homeStored_keeps hs1)
    · exact homeStored_keeps hs1
    · exact ite_keeps (homeStored_keeps hs1) hs1
    · exact ite_keeps (homeStored_keeps hs1) hs1
    · split
      · exact fabPerformed_keeps hs1
      · exact lantPerformed_keeps hs1
      · exact hs1
    · exact hs1

theorem homeGrant_keeps {r : HomeReq} {state : BitVec 3} {fwd : Bool} {line : Option (Line × Bool)} (h : Keeps s₀ s) :
    Keeps s₀ (homeGrant r state fwd line s) := by
  unfold homeGrant
  extract_lets s1 s2 pois s3
  have hs1 : Keeps s₀ s1 := ledgerTouch_keeps h
  exact answered_keeps (homeMod_keeps (ringSend_keeps (ite_keeps (rsvStore_keeps hs1) hs1)))

theorem homeEnd_keeps {r : HomeReq} {sts : BitVec 4} (h : Keeps s₀ s) : Keeps s₀ (homeEnd r sts s) :=
  homeDrop_keeps (homeAnswer_keeps h)

theorem homePoison_keeps {r : HomeReq} (h : Keeps s₀ s) : Keeps s₀ (homePoison r s) := by
  unfold homePoison
  split
  · exact h
  · refine ite_keeps h ?_
    extract_lets s1
    have hs1 : Keeps s₀ s1 := portAdd_keeps h
    exact ite_keeps (logHome_keeps hs1) hs1

theorem homeWrite_keeps {r : HomeReq} {d : Line} {be : BitVec 64} {poison : Bool} (h : Keeps s₀ s) :
    Keeps s₀ (homeWrite r d be poison s) := by
  unfold homeWrite
  split
  · exact homeEnd_keeps h
  · exact ite_keeps (homeEnd_keeps h) (homeMod_keeps (portAdd_keeps h))

theorem homeAsk_keeps {r : HomeReq} (h : Keeps s₀ s) : Keeps s₀ (homeAsk r s) := by
  unfold homeAsk
  split
  · exact homeEnd_keeps h
  · exact ite_keeps (homeEnd_keeps h) (homeMod_keeps (portAdd_keeps h))

theorem homeAtomic_keeps {r : HomeReq} {line : Line} {pois : Bool} (h : Keeps s₀ s) : Keeps s₀ (homeAtomic r line pois s) := by
  unfold homeAtomic
  exact ite_keeps (homeDrop_keeps (homeAnswer_keeps h)) (homeWrite_keeps (homeAnswer_keeps h))

theorem homeUse_keeps {r : HomeReq} {mem : LineRes} (h : Keeps s₀ s) : Keeps s₀ (homeUse r mem s) := by
  unfold homeUse
  extract_lets res
  split
  · exact ite_keeps (homeEnd_keeps h) (homeGrant_keeps h)
  · exact ite_keeps (homeEnd_keeps h) (homeGrant_keeps h)
  · exact ite_keeps (homeEnd_keeps h) (homeGrant_keeps h)
  · exact ite_keeps (homeEnd_keeps h) (homeAtomic_keeps h)
  · exact ite_keeps (homeEnd_keeps h) (homeAtomic_keeps h)
  · exact homeDrop_keeps (homeAnswer_keeps h)

theorem homeData_keeps {res : LineRes} (h : Keeps s₀ s) : Keeps s₀ (homeData id res s) := by
  unfold homeData
  split
  · exact h
  · exact ite_keeps (homeDrop_keeps (homeAnswer_keeps (ite_keeps h (homeStored_keeps h)))) (ite_keeps (ite_keeps (homeDrop_keeps h)
      (ite_keeps (ite_keeps (homeDrop_keeps (homeAnswer_keeps h)) (homeDrop_keeps h)) (homeDrop_keeps (homeAnswer_keeps h))))
      (ite_keeps (homeMod_keeps h) (homeUse_keeps h)))

theorem homeDecide_writeBack_keeps {r : HomeReq} {bad : Bool} {t : State} (h : Keeps s₀ t) :
    Keeps s₀ (homeDecide.writeBack r bad t) := by
  unfold homeDecide.writeBack
  refine ite_keeps (homeWrite_keeps h) ?_
  refine ite_keeps (homeWrite_keeps (homePoison_keeps h)) ?_
  split
  · exact ite_keeps (homeWrite_keeps h) (homeWrite_keeps h)
  · exact homeWrite_keeps h

theorem homeDecide_keeps {q : HomeReq} (h : Keeps s₀ s) : Keeps s₀ (homeDecide q s) := by
  unfold homeDecide
  extract_lets r fwd bad s1 s2 mem s3 s32
  have hs1 : Keeps s₀ s1 := ite_keeps (addFld_keeps h) h
  have hs2 : Keeps s₀ s2 := ite_keeps (ledgerFree_keeps hs1) hs1
  have hmem : ∀ t, Keeps s₀ t → Keeps s₀ (mem t) := by
    intro _ ht
    unfold mem
    extract_lets t1
    have ht1 : Keeps s₀ t1 := homeMod_keeps ht
    split
    · exact homeUse_keeps ht1
    · exact ite_keeps ht1 (homeAsk_keeps ht1)
  have hs3 : Keeps s₀ s3 := by
    unfold s3
    split
    · exact portAdd_keeps hs2
    · exact hs2
  have hs32 : Keeps s₀ s32 := ledgerFree_keeps hs2
  split
  · exact ite_keeps (homePoison_keeps (hmem _ hs2)) (ite_keeps (homeGrant_keeps hs3) (hmem _ hs2))
  · exact ite_keeps (homePoison_keeps (hmem _ hs2)) (ite_keeps (homeGrant_keeps hs2) (hmem _ hs2))
  · exact ite_keeps (homeGrant_keeps hs2) (ite_keeps (homePoison_keeps (hmem _ hs2)) (ite_keeps (homeGrant_keeps hs2) (hmem _ hs2)))
  · refine ite_keeps (homePoison_keeps (hmem _ hs2)) ?_
    split
    · exact homeAtomic_keeps hs2
    · exact hmem _ hs2
  · refine ite_keeps (homePoison_keeps (hmem _ hs2)) ?_
    split
    · exact homeAtomic_keeps hs2
    · exact hmem _ hs2
  · refine ite_keeps (homeDrop_keeps (homePoison_keeps hs32)) ?_
    split
    · exact homeDrop_keeps (portAdd_keeps hs32)
    · exact homeDrop_keeps hs32
  · exact homeWrite_keeps hs2
  · exact homeDecide_writeBack_keeps hs2
  · exact homeDecide_writeBack_keeps hs2
  · exact ite_keeps (homeEnd_keeps hs2) (homeDecide_writeBack_keeps (rsvStore_keeps hs2))
  · refine ite_keeps (homePoison_keeps (hmem _ hs2)) ?_
    split
    · exact homeDrop_keeps (homeAnswer_keeps hs2)
    · exact hmem _ hs2

theorem homeSnoop_keeps {r : HomeReq} {op : Nat} {nodata : Bool} (h : Keeps s₀ s) : Keeps s₀ (homeSnoop r op nodata s) := by
  unfold homeSnoop
  extract_lets live s1 r1 s2 needs
  have hs2 : Keeps s₀ s2 := homeMod_keeps (ringSend_keeps (addFld_keeps h))
  exact ite_keeps (homeDecide_keeps (homeMod_keeps h)) (ite_keeps (homeAsk_keeps hs2) hs2)

theorem plainStart_keeps {r : HomeReq} (h : Keeps s₀ s) : Keeps s₀ (plainStart r s) := by
  unfold plainStart
  split
  · exact ite_keeps (homeDrop_keeps (ringComp_keeps h)) (ite_keeps (homeDrop_keeps (ringSend_keeps (spadRead_keeps h)))
      (homeDrop_keeps (ringComp_keeps (addFoot_keeps (spadWrite_keeps h)))))
  · exact ite_keeps (homeDrop_keeps (ringComp_keeps h)) (portAdd_keeps (homeMod_keeps h))
  · exact homeDrop_keeps (ringComp_keeps h)

theorem homeStart_far_keeps {x : HomeReq} {t : State} (h : Keeps s₀ t) : Keeps s₀ (homeStart.far x t) := by
  unfold homeStart.far
  extract_lets t1
  have ht1 : Keeps s₀ t1 := homeMod_keeps (rsvStore_keeps h)
  split
  · exact ht1
  · exact portAdd_keeps ht1

theorem homeStart_keeps {r : HomeReq} (h : Keeps s₀ s) : Keeps s₀ (homeStart r s) := by
  unfold homeStart
  refine ite_keeps (plainStart_keeps h) ?_
  extract_lets failed hit note dropNote susp s1 r1 s2 go i
  have hdropNote : ∀ t, Keeps s₀ t → Keeps s₀ (dropNote t) := fun _ ht => modHome_keeps ht
  have hs2 : Keeps s₀ s2 := homeMod_keeps (ite_keeps (ledgerTouch_keeps h) h)
  have hgo : ∀ x t, Keeps s₀ t → Keeps s₀ (go x t) := by
    intro _ _ ht
    unfold go
    clear_value hit
    split
    · exact homeSnoop_keeps (homeMod_keeps ht)
    · exact homeDecide_keeps (homeMod_keeps ht)
  refine ite_keeps (homeEnd_keeps h) ?_
  refine ite_keeps ?_ ?_
  · split
    · exact h
    · exact homeSnoop_keeps (addFld_keeps (modHome_keeps (newId_keeps h)))
  · split
    · clear_value note
      split
      · exact homeDrop_keeps (homeAnswer_keeps (hdropNote _ h))
      · exact hgo _ _ (ite_keeps (homeProto_keeps hs2) hs2)
    · clear_value note
      split
      · exact hgo _ _ (hdropNote _ hs2)
      · exact ite_keeps (hgo _ _ (homeProto_keeps hs2)) (hgo _ _ hs2)
    · refine hgo _ _ ?_
      split
      · exact rsvTake_keeps hs2
      · exact hs2
    · split
      · exact homeEnd_keeps hs2
      · exact ite_keeps (hgo _ _ (rsvDrop_keeps hs2)) (homeDrop_keeps (homeAnswer_keeps (rsvDrop_keeps hs2)))
    · exact ite_keeps (homeStart_far_keeps hs2) (hgo _ _ (rsvStore_keeps hs2))
    · exact ite_keeps (homeStart_far_keeps hs2) (hgo _ _ (rsvStore_keeps hs2))
    · exact hgo _ _ (rsvStore_keeps hs2)
    · exact hgo _ _ (rsvStore_keeps hs2)
    · exact hgo _ _ hs2

theorem homePump_keeps {n : Nat} (h : Keeps s₀ s) : Keeps s₀ (homePump n s) := by
  induction n generalizing s with
  | zero => exact h
  | succ n ih =>
    unfold homePump
    split
    · exact h
    · exact ih (homeStart_keeps h)

theorem barPump_keeps (h : Keeps s₀ s) : Keeps s₀ (barPump s) := by
  unfold barPump
  refine foldl_keeps h ?_
  intro _ _ ht
  refine ite_keeps ht ?_
  extract_lets u
  have hu : Keeps s₀ u := modHome_keeps ht
  exact ite_keeps hu (ringComp_keeps hu)

theorem homeRun_keeps (h : Keeps s₀ s) : Keeps s₀ (homeRun s) := barPump_keeps (homePump_keeps h)

theorem homeSubmit_keeps {r : HomeReq} (h : Keeps s₀ s) : Keeps s₀ (homeSubmit r s) := by
  unfold homeSubmit
  exact homeRun_keeps (modHome_keeps (newId_keeps h))

theorem deliver_keeps {o : Owner} {res : LineRes} (h : Keeps s₀ s) : Keeps s₀ (deliver o res s) := by
  unfold deliver
  extract_lets ok
  split
  · exact fabLineDone_keeps (footSettle_keeps h)
  · exact lantLineDone_keeps (footSettle_keeps h)
  · exact homeRun_keeps (footSettle_keeps (homeData_keeps h))
  · exact modPort_keeps h
  · exact h

theorem homeWake_keeps (h : Keeps s₀ s) : Keeps s₀ (homeWake s) := by
  unfold homeWake
  split
  · exact h.upd rfl
  · exact h

theorem lineAccess_keeps {o : Owner} {addr : Nat} {op : LineOp} {a : ReqAttr} (h : Keeps s₀ s) :
    Keeps s₀ (lineAccess o addr op a s) := by
  unfold lineAccess
  extract_lets line needsHome s1 base
  refine ite_keeps (homeSubmit_keeps (ite_keeps h (homeWake_keeps h))) ?_
  split
  · refine ite_keeps (deliver_keeps h) ?_
    split <;> exact portAdd_keeps h
  · exact deliver_keeps h

theorem entered_keeps {r : SubReq} (h : Keeps s₀ s) : Keeps s₀ (entered p r s) := by
  unfold entered
  split
  · exact homeRun_keeps (homeRelease_keeps h)
  · split
    · extract_lets s1
      have hs1 : Keeps s₀ s1 := fabPerformed_keeps (footPerform_keeps h)
      exact ite_keeps (fabLineDone_keeps hs1) hs1
    · exact fabPerformed_keeps h
  · split
    · exact lantPerformed_keeps (footPerform_keeps h)
    · exact lantPerformed_keeps h
  · exact h

/-! ### Machine/PortOps -/

theorem sendPacket_keeps {x : Packet} (h : Keeps s₀ s) : Keeps s₀ (sendPacket p x s) := ite_keeps (modLink_keeps h) h

theorem takeFlight_keeps {k : Flight → Bool} (h : Keeps s₀ s) : KeepsPair s₀ (takeFlight p k s) := by
  unfold takeFlight
  split
  · exact nonePair_keeps
  · exact somePair_keeps (pair_keeps (modSched_keeps h))

theorem mergeDone_keeps {e : Nat} {sts : BitVec 4} (h : Keeps s₀ s) : Keeps s₀ (mergeDone p e sts s) := by
  unfold mergeDone
  split
  · exact h
  · exact foldl_keeps (modDram_keeps (modProt_keeps h)) (fun _ _ ht => deliver_keeps ht)

theorem rmwFinish_keeps {e : Nat} {f : Flight} {err : Burst} (h : Keeps s₀ s) : Keeps s₀ (rmwFinish p e f err s) := by
  unfold rmwFinish
  split
  · exact h
  · extract_lets d line s2
    have hs2 : Keeps s₀ s2 := noteDecode_keeps h
    exact ite_keeps (mergeDone_keeps (storePoisoned_keeps hs2)) (mergeDone_keeps (storeLine_keeps hs2))

theorem markOver_keeps (h : Keeps s₀ s) : Keeps s₀ (markOver p la s) := modSched_keeps h

theorem fly_keeps {q : SubReq} {stamp : BitVec 28} {data : Line} {poison : Bool} (h : Keeps s₀ s) :
    Keeps s₀ (fly p q stamp data poison s) := by
  unfold fly
  exact modSched_keeps (newId_keeps h)

theorem colEffect_keeps {q : SubReq} {stamp : BitVec 28} (h : Keeps s₀ s) : Keeps s₀ (colEffect p q stamp s) := by
  unfold colEffect
  extract_lets st s1
  have hs1 : Keeps s₀ s1 := markOver_keeps h
  split
  · extract_lets s2
    have hs2 : Keeps s₀ s2 := ite_keeps (storePoisoned_keeps hs1) (ite_keeps (storePoisoned_keeps hs1) (storeLine_keeps hs1))
    split
    · exact mergeDone_keeps hs2
    · exact deliver_keeps hs2
  · exact ite_keeps (fly_keeps h) (fly_keeps (storeLine_keeps (markOver_keeps h)))
  · exact fly_keeps h

theorem goodOldest_keeps (h : Keeps s₀ s) : Keeps s₀ (goodOldest p s) := by
  unfold goodOldest
  split
  · exact h
  · extract_lets s1
    have hs1 : Keeps s₀ s1 := modDram_keeps (modSched_keeps h)
    split
    · exact hs1
    · exact colEffect_keeps hs1

theorem goodAll_keeps {p n : Nat} (h : Keeps s₀ s) : Keeps s₀ (goodAll p n s) := by
  induction n generalizing s with
  | zero => exact h
  | succ n ih => exact ih (goodOldest_keeps h)

theorem syncLine_keeps (h : Keeps s₀ s) : Keeps s₀ (syncLine p la s) := by
  unfold syncLine
  extract_lets open1 s1 r s2 mine s3 rm
  have hs1 : Keeps s₀ s1 := foldl_keeps h (fun _ _ ht => closeEntry_keeps ht)
  exact foldl_keeps (foldl_keeps (ite_keeps (goodAll_keeps hs1) hs1) (fun _ _ ht => colEffect_keeps (modSched_keeps ht))) (fun _ _
    ht => rmwFinish_keeps (modSched_keeps ht))

theorem readNow_keeps (h : Keeps s₀ s) : Keeps s₀ (readNow p la s).2 := by
  unfold readNow
  exact pair_keeps (syncLine_keeps h)

/-! ### Machine/Energy -/

theorem modEn_keeps {g : Energy → Energy} (h : Keeps s₀ s) : Keeps s₀ (modEn g s) := h.upd rfl

theorem showEnergy_keeps (h : Keeps s₀ s) : Keeps s₀ (showEnergy s) := by
  unfold showEnergy
  exact setFld_keeps (setFld_keeps h)

theorem stageStep_keeps (h : Keeps s₀ s) : Keeps s₀ (stageStep n s) := by
  unfold stageStep
  exact raise_keeps (setFld_keeps (modEn_keeps (addFld_keeps (setFld_keeps h))))

theorem stageUp_keeps (h : Keeps s₀ s) : Keeps s₀ (stageUp s) := by
  unfold stageUp
  extract_lets n s1
  have hs1 : Keeps s₀ s1 := modEn_keeps h
  exact ite_keeps (stageStep_keeps h) (ite_keeps (setFld_keeps hs1) (ite_keeps hs1 (raise_keeps (addFld_keeps (setFld_keeps
    (modEn_keeps hs1))))))

theorem stageDown_keeps (h : Keeps s₀ s) : Keeps s₀ (stageDown s) := by
  unfold stageDown
  exact ite_keeps (modEn_keeps h) (ite_keeps (setFld_keeps (modEn_keeps h)) (stageStep_keeps h))

theorem window_keeps (h : Keeps s₀ s) : Keeps s₀ (window p s) := by
  unfold window
  extract_lets a cap b s1 hot low s2
  have hs2 : Keeps s₀ s2 := modEn_keeps (setFld_keeps (setFld_keeps h))
  exact ite_keeps (stageUp_keeps hs2) (ite_keeps (stageDown_keeps hs2) hs2)

theorem parkPort_keeps (h : Keeps s₀ s) : Keeps s₀ (parkPort s p) := by
  unfold parkPort
  exact ite_keeps h (ite_keeps (ite_keeps (setFld_keeps h) h) (ite_keeps (setFld_keeps h) h))

theorem parkPorts_keeps (h : Keeps s₀ s) : Keeps s₀ (parkPorts s) := foldl_keeps h (fun _ _ ht => parkPort_keeps ht)

theorem execMeterInterval_keeps {events} (h : Keeps s₀ s) : KeepsOut s₀ (execMeterInterval events s) :=
  next_keeps (ite_keeps h (showEnergy_keeps (parkPorts_keeps (window_keeps (setFld_keeps (modEn_keeps h))))))

theorem execEnergyReadLatch_keeps {which} (h : Keeps s₀ s) : KeepsOut s₀ (execEnergyReadLatch which s) := by
  unfold execEnergyReadLatch
  refine next_keeps ?_
  extract_lets s1
  split <;> exact setFld_keeps (showEnergy_keeps h)

theorem setDomain_keeps {dom : BitVec 73} (h : Keeps s₀ s) : Keeps s₀ (setDomain dom s) := by
  unfold setDomain
  extract_lets gone s1
  have hs1 : Keeps s₀ s1 := setFoot3_keeps h
  exact ite_keeps hs1 (raise_keeps (setFoot3_keeps hs1))

theorem plan_keeps (h : Keeps s₀ s) : Keeps s₀ (plan s) :=
  ite_keeps h (setFld_keeps (setFld_keeps (modEn_keeps (setDomain_keeps h))))

theorem replan_keeps (h : Keeps s₀ s) : Keeps s₀ (replan s) := by
  unfold replan
  exact ite_keeps h (plan_keeps (modEn_keeps h))

theorem execPlannerRun_keeps (h : Keeps s₀ s) : KeepsOut s₀ (execPlannerRun s) := next_keeps (plan_keeps h)

theorem charger_keeps (h : Keeps s₀ s) : Keeps s₀ (charger s) := by
  unfold charger
  exact setFld_keeps h

theorem execChargerAdjust_keeps (h : Keeps s₀ s) : KeepsOut s₀ (execChargerAdjust s) := by
  unfold execChargerAdjust
  refine next_keeps ?_
  refine ite_keeps h ?_
  extract_lets s0 set cmd head hdr duty s1 n
  have hs0 : Keeps s₀ s0 := modEn_keeps h
  have hs1 : Keeps s₀ s1 := setFld_keeps hs0
  exact ite_keeps (ite_keeps hs1 (raise_keeps (setFld_keeps hs1))) (ite_keeps (setFld_keeps (ite_keeps (setFld_keeps hs0) hs0)) hs0)

theorem gauges_keeps (h : Keeps s₀ s) : Keeps s₀ (gauges s) := by
  unfold gauges
  extract_lets e diff tol s1 s2
  have hs1 : Keeps s₀ s1 := setFld_keeps (setFld_keeps (setFld_keeps h))
  have hs2 : Keeps s₀ s2 := setFld_keeps hs1
  exact ite_keeps (ite_keeps (raise_keeps (modEn_keeps hs2)) hs2) (ite_keeps (modEn_keeps hs1) hs1)

theorem estimate_keeps (h : Keeps s₀ s) : Keeps s₀ (estimate s) := by
  unfold estimate
  exact modEn_keeps h

theorem restTimer_keeps (h : Keeps s₀ s) : Keeps s₀ (restTimer s) := by
  unfold restTimer
  exact setFld_keeps (modEn_keeps h)

theorem packLoss_keeps (h : Keeps s₀ s) : Keeps s₀ (packLoss s) := by
  unfold packLoss
  extract_lets good s1 s2 s3
  have hs2 : Keeps s₀ s2 := gauges_keeps (raise_keeps (setFld_keeps (modEn_keeps h)))
  exact plan_keeps (charger_keeps (ite_keeps (setDomain_keeps hs2) hs2))

theorem execPackRemoval_keeps (h : Keeps s₀ s) : KeepsOut s₀ (execPackRemoval s) := by
  unfold execPackRemoval
  refine next_keeps ?_
  extract_lets s1
  have hs1 : Keeps s₀ s1 := setFld_keeps h
  exact ite_keeps (charger_keeps (modEn_keeps hs1)) (modEn_keeps (packLoss_keeps hs1))

theorem execPackReturn_keeps (h : Keeps s₀ s) : KeepsOut s₀ (execPackReturn s) := by
  unfold execPackReturn
  refine next_keeps ?_
  refine ite_keeps h ?_
  split
  · exact h
  · exact ite_keeps h (plan_keeps (charger_keeps (gauges_keeps (modEn_keeps (setFld_keeps h)))))

theorem execGaugeRebase_keeps (h : Keeps s₀ s) : KeepsOut s₀ (execGaugeRebase s) := by
  unfold execGaugeRebase
  refine next_keeps ?_
  split
  · exact h
  · exact ite_keeps h (plan_keeps (gauges_keeps (setFld_keeps (modEn_keeps h))))

theorem setGain_keeps {high : Bool} (h : Keeps s₀ s) : Keeps s₀ (setGain high s) := ite_keeps h (setFld_keeps (modEn_keeps h))

theorem sampleCurrent_keeps {code : Nat} (h : Keeps s₀ s) : Keeps s₀ (sampleCurrent code s) := by
  unfold sampleCurrent
  extract_lets s0 high blank g i mag s1 s3 s2 q
  have hs0 : Keeps s₀ s0 := by
    unfold s0
    split
    · exact setGain_keeps h
    · exact setGain_keeps h
    · exact h
  have hs1 : Keeps s₀ s1 := setFld_keeps (setFld_keeps (setFld_keeps hs0))
  have hs3 : Keeps s₀ s3 := setFld_keeps (modEn_keeps hs1)
  have hs2 : Keeps s₀ s2 := ite_keeps (modEn_keeps hs1) (ite_keeps hs3 (ite_keeps (ite_keeps (setGain_keeps hs3) hs3) (ite_keeps
    (ite_keeps (setGain_keeps hs3) (modEn_keeps hs3)) (modEn_keeps hs3))))
  exact restTimer_keeps (gauges_keeps (estimate_keeps (modEn_keeps hs2)))

theorem sampleReserve_keeps {code : Nat} (h : Keeps s₀ s) : Keeps s₀ (sampleReserve code s) := by
  unfold sampleReserve
  extract_lets old fell s1 s2 good
  have hs1 : Keeps s₀ s1 := gauges_keeps (estimate_keeps (modEn_keeps (setFld_keeps h)))
  exact modEn_keeps (ite_keeps (packLoss_keeps hs1) hs1)

theorem execAdcSample_keeps {code} (h : Keeps s₀ s) : KeepsOut s₀ (execAdcSample code s) := by
  unfold execAdcSample
  refine next_keeps ?_
  extract_lets k s1
  have hs1 : Keeps s₀ s1 := modEn_keeps h
  exact ite_keeps (setFld_keeps hs1) (ite_keeps (sampleReserve_keeps hs1) (sampleCurrent_keeps hs1))

theorem execBusTrip_keeps (h : Keeps s₀ s) : KeepsOut s₀ (execBusTrip s) := next_keeps (ite_keeps h (charger_keeps (modEn_keeps h)))

theorem execBusClear_keeps (h : Keeps s₀ s) : KeepsOut s₀ (execBusClear s) :=
  next_keeps (ite_keeps h (charger_keeps (modEn_keeps h)))

theorem execReserveRelease_keeps (h : Keeps s₀ s) : KeepsOut s₀ (execReserveRelease s) := next_keeps (modEn_keeps h)

theorem execPlnSlotpWrite_keeps {v} (h : Keeps s₀ s) : KeepsOut s₀ (execPlnSlotpWrite v s) :=
  next_keeps (ite_keeps h (ite_keeps (reject_keeps h) (modEn_keeps (h.upd rfl))))

theorem setBbr_keeps (h : Keeps s₀ s) : Keeps s₀ (setBbr k v s) := h.upd rfl

theorem setImage_keeps (h : Keeps s₀ s) : Keeps s₀ (setImage k v s) := setBbr_keeps (setBbr_keeps h)

theorem bbrOpen_keeps (h : Keeps s₀ s) : Keeps s₀ (bbrOpen s) := ite_keeps h (setBbr_keeps h)

theorem execBbrWrite_keeps {word v} (h : Keeps s₀ s) : KeepsOut s₀ (execBbrWrite word v s) :=
  next_keeps (ite_keeps h (ite_keeps (setImage_keeps h) (reject_keeps h)))

theorem firstLeaves_keeps (h : Keeps s₀ s) : Keeps s₀ (firstLeaves s) := ite_keeps (raise_keeps (setBbr_keeps (h.upd rfl))) h

theorem execVbatLoss_keeps (h : Keeps s₀ s) : KeepsOut s₀ (execVbatLoss s) := next_keeps (setBbr_keeps h)

/-! ### Machine/HostOps -/

theorem setHandle_keeps {h : Handle} (hs : Keeps s₀ s) : Keeps s₀ (setHandle k h s) := hs.upd rfl

theorem modHandle_keeps {g : Handle → Handle} (h : Keeps s₀ s) : Keeps s₀ (modHandle k g s) := setHandle_keeps h

theorem modQueue_keeps {q : Nat} {g : HQueue → HQueue} (h : Keeps s₀ s) : Keeps s₀ (modQueue q g s) := h.upd rfl

theorem hostStat_keeps (h : Keeps s₀ s) : Keeps s₀ (hostStat s) := by
  unfold hostStat
  exact foldl_keeps (setFld_keeps (setFld_keeps h)) (fun _ _ ht => setFld_keeps ht)

theorem endHandle_keeps {sts detail result : Nat} (h : Keeps s₀ s) : Keeps s₀ (endHandle k sts detail result s) := by
  unfold endHandle
  exact ite_keeps h (modQueue_keeps (setHandle_keeps h))

theorem hostStallReset_keeps {off : Bool} (h : Keeps s₀ s) : Keeps s₀ (hostStallReset a off s) := by
  unfold hostStallReset
  extract_lets s1
  have hs1 : Keeps s₀ s1 := foldl_keeps h (fun _ _ ht => modQueue_keeps (foldl_keeps ht (fun _ _ ht1 => endHandle_keeps ht1)))
  refine foldl_keeps (foldl_keeps hs1 (fun _ _ ht => ite_keeps (setFld_keeps ht) ht)) ?_
  intro _ _ ht
  extract_lets lost sorted t1 t2 t3
  have ht2 : Keeps s₀ t2 := modQueue_keeps (foldl_keeps ht (fun _ _ ht1 => modHandle_keeps ht1))
  have ht3 : Keeps s₀ t3 := ite_keeps (setFld_keeps ht2) ht2
  exact ite_keeps ht3 (setFld_keeps ht3)

theorem freeHandles_keeps {h : Nat → Nat} (hs : Keeps s₀ s) : Keeps s₀ (freeHandles h s) := by
  unfold freeHandles
  exact ite_keeps hs (hostStat_keeps (foldl_keeps hs (fun _ _ ht => setHandle_keeps ht)))

/-! ### Machine/StallOps -/

theorem stallErr_keeps {cause count : Nat} (h : Keeps s₀ s) : Keeps s₀ (stallErr cause a count s) := raise_keeps (logEngine_keeps h)

theorem putStall_keeps {x : Stall} (h : Keeps s₀ s) : Keeps s₀ (putStall a x s) := by
  unfold putStall
  extract_lets g before s1 now s2 lvl old s3
  have hs1 : Keeps s₀ s1 := h.upd rfl
  have hs2 : Keeps s₀ s2 := setFld_keeps hs1
  have hs3 : Keeps s₀ s3 := setFld_keeps hs2
  exact ite_keeps hs1 (ite_keeps hs2 (ite_keeps hs3 (raise_keeps hs3)))

theorem modStall_keeps {g : Stall → Stall} (h : Keeps s₀ s) : Keeps s₀ (modStall a g s) := putStall_keeps h

theorem ringWrite_keeps {addr : Nat} {d : Line} {be : BitVec 64} (h : Keeps s₀ s) : Keeps s₀ (ringWrite addr d be s) := by
  unfold ringWrite
  split
  · extract_lets s2 old
    have hs2 : Keeps s₀ s2 := markOver_keeps (syncLine_keeps h)
    exact ite_keeps (storeLine_keeps hs2) (ite_keeps (storePoisoned_keeps hs2) (storeLine_keeps hs2))
  · exact h

theorem ringPut_keeps {x : Stall} {pos : Nat} {w : SWord} (h : Keeps s₀ s) : Keeps s₀ (ringPut x pos w s) := by
  unfold ringPut
  exact ringWrite_keeps (ringWrite_keeps h)

theorem ringPutAll_keeps {x : Stall} {l : Sys2Proof.SMap SWord} (h : Keeps s₀ s) : Keeps s₀ (ringPutAll x l s) :=
  foldl_keeps h (fun _ _ ht => ringPut_keeps ht)

theorem spillAll_keeps (h : Keeps s₀ s) : Keeps s₀ (spillAll a s) := by
  unfold spillAll
  exact modStall_keeps (ringPutAll_keeps h)

theorem takePair_keeps (h : Keeps s₀ s) : Keeps s₀ (takePair a s) := by
  unfold takePair
  refine ite_keeps h ?_
  refine ite_keeps ?_ ?_
  · split
    · exact h.upd rfl
    · exact h
  · split
    · exact modStall_keeps h
    · split
      · exact h
      · exact modStall_keeps (modStall_keeps (spillAll_keeps h))

theorem skipRun_keeps {a n : Nat} (h : Keeps s₀ s) : Keeps s₀ (skipRun a n s) := by
  induction n generalizing s with
  | zero => exact h
  | succ n ih =>
    unfold skipRun
    exact ite_keeps h (ih (putStall_keeps h))

theorem skipNow_keeps (h : Keeps s₀ s) : Keeps s₀ (skipNow a s) := skipRun_keeps h

theorem endPacket_keeps (h : Keeps s₀ s) : Keeps s₀ (endPacket a s) := by
  unfold endPacket
  exact modStall_keeps (ite_keeps h (stallErr_keeps h))

theorem resumeWait_keeps (h : Keeps s₀ s) : Keeps s₀ (resumeWait a s) := by
  unfold resumeWait
  extract_lets x
  split
  · exact h
  · refine ite_keeps h ?_
    extract_lets fl s1
    have hs1 : Keeps s₀ s1 := putStall_keeps h
    exact skipNow_keeps (ite_keeps (endPacket_keeps hs1) hs1)

theorem tryClose_keeps (h : Keeps s₀ s) : Keeps s₀ (tryClose a s) := by
  unfold tryClose
  extract_lets x s1
  have hs1 : Keeps s₀ s1 := putStall_keeps h
  split
  · exact h
  · refine ite_keeps h ?_
    split
    · exact resumeWait_keeps (putStall_keeps h)
    · exact ite_keeps (endPacket_keeps (ite_keeps hs1 (stallErr_keeps hs1))) (ite_keeps h (skipNow_keeps (endPacket_keeps
        (putStall_keeps h))))

theorem flushPart_keeps (h : Keeps s₀ s) : Keeps s₀ (flushPart a s) := by
  unfold flushPart
  extract_lets x
  split
  · exact h
  · exact ite_keeps h (resumeWait_keeps (putStall_keeps h))

theorem pushItem_keeps {it : SItem} (h : Keeps s₀ s) : Keeps s₀ (pushItem a it s) := by
  unfold pushItem
  extract_lets s0 x x1 paid x2 x22 q src q2 n v q1 x23 src2
  have hs0 : Keeps s₀ s0 := takePair_keeps h
  refine ite_keeps (ite_keeps (endPacket_keeps (stallErr_keeps (putStall_keeps hs0))) (putStall_keeps hs0)) ?_
  refine ite_keeps ?_ (ite_keeps (resumeWait_keeps (putStall_keeps hs0)) (ite_keeps (resumeWait_keeps (putStall_keeps hs0))
    (ite_keeps (skipNow_keeps (putStall_keeps hs0)) (putStall_keeps hs0))))
  refine ite_keeps (ite_keeps (resumeWait_keeps (putStall_keeps hs0)) (putStall_keeps hs0)) ?_
  split
  · exact resumeWait_keeps (putStall_keeps hs0)
  · exact tryClose_keeps (putStall_keeps hs0)

theorem pushItems_keeps {a : Nat} {l : List SItem} (h : Keeps s₀ s) : Keeps s₀ (pushItems a l s).2 := by
  induction l generalizing s with
  | nil => exact h
  | cons it l ih =>
    unfold pushItems
    split
    · exact stallErr_keeps h
    · split
      · exact ih (pushItem_keeps h)
      · exact ite_keeps (takePair_keeps (addFld_keeps (modStall_keeps h))) h

theorem pumpItems_keeps (h : Keeps s₀ s) : Keeps s₀ (pumpItems a s) := by
  unfold pumpItems
  exact modStall_keeps (pushItems_keeps h)

theorem tallyFetch_keeps (h : Keeps s₀ s) : Keeps s₀ (tallyFetch a s).2 := by
  unfold tallyFetch
  exact pair_keeps (putStall_keeps h)

theorem runReader_keeps {a n : Nat} (h : Keeps s₀ s) : Keeps s₀ (runReader a n s) := by
  induction n generalizing s with
  | zero => exact h
  | succ n ih =>
    unfold runReader
    extract_lets x
    split
    · exact h
    · refine ite_keeps h ?_
      split
      · exact h
      · exact ih (putStall_keeps h)

theorem startRead_keeps {o : Owner} {len : Nat} (h : Keeps s₀ s) : Keeps s₀ (startRead a o len s) := by
  unfold startRead
  exact runReader_keeps (takePair_keeps (putStall_keeps h))

theorem dropReader_keeps (h : Keeps s₀ s) : Keeps s₀ (dropReader a s) := modStall_keeps h

theorem stallDrop_keeps (h : Keeps s₀ s) : Keeps s₀ (stallDrop a s) := ite_keeps h (skipNow_keeps (modStall_keeps h))

theorem stallMark_keeps (h : Keeps s₀ s) : Keeps s₀ (stallMark a s) := modStall_keeps h

theorem stallRewind_keeps (h : Keeps s₀ s) : Keeps s₀ (stallRewind a s) := modStall_keeps h

theorem stallRelease_keeps (h : Keeps s₀ s) : Keeps s₀ (stallRelease a s) := modStall_keeps h

theorem resetStall_keeps {cause : Nat} (h : Keeps s₀ s) : Keeps s₀ (resetStall a cause s) := by
  unfold resetStall
  extract_lets x d rw rd arm next keep y s1 s2
  have hs1 : Keeps s₀ s1 := putStall_keeps (hostStallReset_keeps h)
  have hs2 : Keeps s₀ s2 := ite_keeps hs1 (stallErr_keeps hs1)
  exact ite_keeps (stallErr_keeps (addFld_keeps hs2)) hs2

theorem checkStall_keeps (h : Keeps s₀ s) : Keeps s₀ (checkStall a s) := ite_keeps (resetStall_keeps h) h

theorem enableStall_keeps (h : Keeps s₀ s) : Keeps s₀ (enableStall a s) := by
  unfold enableStall
  exact ite_keeps h (ite_keeps (putStall_keeps h) (reject_keeps (modStall_keeps h)))

theorem closePacket_keeps {fence : Bool} (h : Keeps s₀ s) : Keeps s₀ (closePacket a fence s) := by
  unfold closePacket
  exact ite_keeps (ite_keeps (flushPart_keeps h) h) (tryClose_keeps (stallErr_keeps (modStall_keeps h)))

/-! ### Machine/FabOps -/

theorem fabStat_keeps (h : Keeps s₀ s) : Keeps s₀ (fabStat n s) := by
  unfold fabStat
  exact setFld_keeps (setFld_keeps h)

theorem proto_keeps {f : Fld} {tag : Option Nat} (h : Keeps s₀ s) : Keeps s₀ (proto n f tag s) := by
  unfold proto
  extract_lets s1
  have hs1 : Keeps s₀ s1 := addFld_keeps (setFld_keeps h)
  refine raise_keeps ?_
  split
  · exact setFld_keeps hs1
  · exact hs1

theorem fabRequest_keeps {opc : Nat} {w : ReqWord} (h : Keeps s₀ s) : Keeps s₀ (fabRequest n opc w s) := by
  unfold fabRequest
  refine ite_keeps h ?_
  extract_lets f s0 i shut sts owes dl b r
  have hi : Keeps s₀ i.2 := newId_keeps (modFab_keeps (active_keeps h))
  refine ite_keeps (proto_keeps h) ?_
  refine ite_keeps (proto_keeps h) ?_
  clear_value sts
  split
  · exact modFab_keeps hi
  · exact modFab_keeps (bind_keeps hi)

theorem setLines_keeps {l : List LineRes} (h : Keeps s₀ s) : Keeps s₀ (setLines n id l s) := modFab_keeps h

theorem loadLine_keeps {e : List FabReq} {r : FabReq} (h : Keeps s₀ s) : KeepsSome s₀ (loadLine n e r k s) := by
  unfold loadLine
  refine iteSome_keeps none_keeps ?_
  extract_lets a ok s1
  have hok : ∀ x t, Keeps s₀ t → Keeps s₀ (ok x t) := fun _ _ ht => fabLineDone_keeps ht
  split
  · exact none_keeps
  · exact iteSome_keeps none_keeps (some_keeps (hok _ _ h))
  · split
    · exact iteSome_keeps (some_keeps (hok _ _ (spadRead_keeps h))) (some_keeps (hok _ _ h))
    · exact some_keeps (lineAccess_keeps (fabLine_keeps h))
    · exact some_keeps (hok _ _ h)

theorem stallGet_keeps {e : List FabReq} {r : FabReq} (h : Keeps s₀ s) : KeepsSome s₀ (stallGet n e r s) := by
  unfold stallGet
  extract_lets a o x s1
  refine iteSome_keeps none_keeps ?_
  refine iteSome_keeps (some_keeps (setLines_keeps (tallyFetch_keeps (checkStall_keeps h)))) ?_
  split
  · exact some_keeps (startRead_keeps (checkStall_keeps h))
  · split
    · exact some_keeps (setLines_keeps (dropReader_keeps h))
    · exact none_keeps

theorem stallCmd_keeps {e : List FabReq} {r : FabReq} (h : Keeps s₀ s) : KeepsSome s₀ (stallCmd n e r s) := by
  unfold stallCmd
  extract_lets a fin s1
  have hfin : ∀ t, Keeps s₀ t → Keeps s₀ (fin t) := fun _ ht => setLines_keeps ht
  have hs1 : Keeps s₀ s1 := checkStall_keeps h
  refine iteSome_keeps none_keeps ?_
  split
  · exact some_keeps (hfin _ (stallDrop_keeps hs1))
  · exact some_keeps (hfin _ (stallMark_keeps hs1))
  · exact iteSome_keeps (some_keeps (hfin _ (stallRewind_keeps hs1))) none_keeps
  · exact some_keeps (hfin _ (stallRelease_keeps hs1))
  · exact some_keeps (hfin _ (flushPart_keeps hs1))

theorem barAnswer_keeps {e : List FabReq} {r : FabReq} (h : Keeps s₀ s) : KeepsPair s₀ (barAnswer n e r s) := by
  unfold barAnswer
  split
  · exact nonePair_keeps
  · split
    · exact somePair_keeps (pair_keeps h)
    · split
      · exact nonePair_keeps
      · split
        · exact somePair_keeps (pair_keeps (modFab_keeps h))
        · exact somePair_keeps (pair_keeps h)

theorem respond_keeps {r : FabReq} {sts : BitVec 4} (h : Keeps s₀ s) : Keeps s₀ (respond n r sts s) := judge_keeps (modFab_keeps h)

theorem offer_keeps {r : FabReq} {i : Nat} {takes : Bool} (h : Keeps s₀ s) : Keeps s₀ (offer n r i takes s) := by
  unfold offer
  extract_lets last x sts b s1
  have hs1 : Keeps s₀ s1 := modFab_keeps h
  exact ite_keeps (judge_keeps hs1) hs1

theorem offerRefusal_keeps {r : FabReq} {sts : BitVec 4} (h : Keeps s₀ s) : Keeps s₀ (offerRefusal n r sts s) := modFab_keeps h

theorem grant_keeps (h : Keeps s₀ s) : KeepsSome s₀ (grant n s) := by
  unfold grant
  refine iteSome_keeps none_keeps ?_
  split
  · exact none_keeps
  · split
    · exact some_keeps (offerRefusal_keeps h)
    · refine iteSome_keeps (some_keeps (offer_keeps h)) ?_
      split
      · exact none_keeps
      · exact some_keeps (modFab_keeps (fabLine_keeps h))

theorem endReq_keeps (h : Keeps s₀ s) : Keeps s₀ (endReq n id s) := by
  unfold endReq
  split
  · exact h
  · extract_lets s1
    have hs1 : Keeps s₀ s1 := modFab_keeps h
    exact ite_keeps hs1 (unbind_keeps hs1)

theorem takeBeat_keeps (h : Keeps s₀ s) : KeepsSome s₀ (takeBeat n s) := by
  unfold takeBeat
  split
  · exact none_keeps
  · extract_lets gone s1
    have hs1 : Keeps s₀ s1 := modFab_keeps h
    exact some_keeps (ite_keeps (endReq_keeps hs1) hs1)

theorem takeRsp_keeps (h : Keeps s₀ s) : KeepsSome s₀ (takeRsp n s) := by
  unfold takeRsp
  split
  · exact none_keeps
  · exact some_keeps (endReq_keeps (modFab_keeps h))

theorem dropOne_keeps (h : Keeps s₀ s) : KeepsSome s₀ (dropOne n s) := by
  unfold dropOne
  refine iteSome_keeps none_keeps ?_
  split
  · rename_i v hv
    replace hv := (takeRsp_keeps h) _ hv
    exact some_keeps (addFld_keeps hv)
  · split
    · exact none_keeps
    · exact mapSome_keeps (takeBeat_keeps h) (fun _ ht => ite_keeps (addFld_keeps ht) ht)

theorem firstReq_keeps {g : List FabReq → FabReq → Option State} {l m : List FabReq} (hg : ∀ e q, KeepsSome s₀ (g e q)) :
    KeepsSome s₀ (firstReq g l m) := by
  induction m with
  | nil => exact none_keeps
  | cons q m ih =>
    unfold firstReq
    split
    · rename_i v hv
      exact some_keeps (hg _ _ _ hv)
    · exact ih

theorem reqStep_keeps {e : List FabReq} {r : FabReq} (h : Keeps s₀ s) : KeepsSome s₀ (reqStep n s e r) := by
  unfold reqStep
  refine iteSome_keeps (iteSome_keeps none_keeps (some_keeps (respond_keeps h))) ?_
  refine iteSome_keeps (some_keeps (modFab_keeps h)) ?_
  extract_lets run load
  have hrun : KeepsSome s₀ run := iteSome_keeps (stallGet_keeps h) (iteSome_keeps (stallCmd_keeps h) none_keeps)
  have hload : KeepsSome s₀ load := iteSome_keeps (findSome_keeps (fun _ => iteSome_keeps (loadLine_keeps h) none_keeps)) none_keeps
  clear_value run
  split
  · rename_i v
    have hv := hrun _ rfl
    exact some_keeps hv
  · clear_value load
    split
    · rename_i v
      have hv := hload _ rfl
      exact some_keeps hv
    · exact iteSome_keeps none_keeps (iteSome_keeps (mapPair_keeps (barAnswer_keeps h) (fun _ ht => respond_keeps ht))
        (iteSome_keeps (map_keeps (fun _ => respond_keeps h)) (iteSome_keeps (some_keeps (offer_keeps h)) none_keeps)))

theorem fabStep_keeps (h : Keeps s₀ s) : KeepsSome s₀ (fabStep n s) := by
  unfold fabStep
  extract_lets f
  refine iteSome_keeps none_keeps ?_
  split
  · rename_i v hv
    replace hv := (firstReq_keeps (fun _ _ => reqStep_keeps h)) _ hv
    exact some_keeps hv
  · split
    · rename_i v hv
      replace hv := (grant_keeps h) _ hv
      exact some_keeps hv
    · exact dropOne_keeps h

theorem fabPump_keeps {n k : Nat} {s : State} (h : Keeps s₀ s) : Keeps s₀ (fabPump n k s) := by
  induction k generalizing s with
  | zero => exact h
  | succ k ih =>
    unfold fabPump
    split
    · exact h
    · rename_i v hv
      exact ih (fabStep_keeps h _ hv)

theorem fenceClose_keeps (h : Keeps s₀ s) : Keeps s₀ (fenceClose n s) := by
  unfold fenceClose
  exact ite_keeps h (foldl_keeps h (fun _ _ ht => closePacket_keeps ht))

theorem fabSettle_keeps (h : Keeps s₀ s) : Keeps s₀ (fabSettle s n) := fenceClose_keeps (fabStat_keeps (fabPump_keeps h))

theorem cutBurst_keeps (h : Keeps s₀ s) : Keeps s₀ (cutBurst n id s) := modFab_keeps h

theorem cutClose_keeps (h : Keeps s₀ s) : Keeps s₀ (cutClose n id s) := by
  unfold cutClose
  split
  · exact h
  · exact ite_keeps (closePacket_keeps h) h

theorem grantTallies_keeps (h : Keeps s₀ s) : Keeps s₀ (grantTallies n s) := modFab_keeps h

theorem clearTallies_keeps (h : Keeps s₀ s) : Keeps s₀ (clearTallies n s) := modFab_keeps h

/-! ### Machine/LantOps -/

theorem modLant_keeps {g : Lantern → Lantern} (h : Keeps s₀ s) (hg : ∀ l, (g l).prog = l.prog ∧ (g l).data = l.data) :
    Keeps s₀ (modLant g s) := h.upd (by simp only [core, modLant, hg])

theorem trapCtx_keeps {code : Nat} {insn : Word} {mstat : BitVec 4} (h : Keeps s₀ s) : Keeps s₀ (trapCtx c code insn mstat s) := by
  unfold trapCtx
  exact raise_keeps (rsvLose_keeps (modCtx_keeps h))

theorem retire_keeps {pc : W64} (h : Keeps s₀ s) : Keeps s₀ (retire c pc s) := modCtx_keeps h

theorem retireWith_keeps {rd : BitVec 5} {v : W64} (h : Keeps s₀ s) : Keeps s₀ (retireWith c rd v s) :=
  retire_keeps (modCtx_keeps h)

theorem putData_keeps {abs : Nat} (h : Keeps s₀ s) : Keeps s₀ (putData abs n v s) :=
  h.mod rfl rfl (memOk_putData abs n v s)

theorem lantBind_keeps (h : Keeps s₀ s) : Keeps s₀ (lantBind c s).2 := by
  unfold lantBind
  extract_lets bound
  split
  · exact bind_keeps h
  · exact bind_keeps h
  · exact bind_keeps h
  · clear_value bound
    split
    · exact bind_keeps h
    · exact pair_keeps h

theorem startAcc_keeps {kind addr dat : Nat} {op : LineOp} (h : Keeps s₀ s) : Keeps s₀ (startAcc c kind addr dat op s) := by
  unfold startAcc
  extract_lets b i a s1 fin bad homeOp
  have hs1 : Keeps s₀ s1 := modCtx_keeps (newId_keeps (lantBind_keeps h))
  have hfin : ∀ x t, Keeps s₀ t → Keeps s₀ (fin x t) := fun _ _ ht => lantLineDone_keeps ht
  have hbad : ∀ x, Keeps s₀ (bad x) := fun _ => hfin _ _ hs1
  refine ite_keeps (hbad _) ?_
  split
  · exact lineAccess_keeps hs1
  · exact ite_keeps (hbad _) (hbad _)
  · exact hbad _
  · refine ite_keeps (hbad _) ?_
    split
    · exact hfin _ _ (addFoot_keeps (spadWrite_keeps hs1))
    · exact hfin _ _ (spadRead_keeps hs1)

theorem cachePut_keeps {d : Line} (h : Keeps s₀ s) : Keeps s₀ (cachePut line d s) := by
  unfold cachePut
  exact modLant_keeps h (fun _ => ⟨rfl, rfl⟩)

theorem issued_keeps {w : Word} (h : Keeps s₀ s) : Keeps s₀ (issued c w s) := by
  unfold issued
  extract_lets pc s1 a s2
  have hs1 : Keeps s₀ s1 := modLant_keeps (modCtx_keeps h) (fun _ => ⟨rfl, rfl⟩)
  have hs2 : Keeps s₀ s2 := by
    unfold s2
    split
    · exact cachePut_keeps hs1
    · exact hs1
  refine ite_keeps (modCtx_keeps hs1) ?_
  split
  · exact modCtx_keeps hs2
  · exact hs2

theorem lantIssue_keeps {w : Word} {undef rsvd priv : Bool} {body : State → Option State} (hbody : ∀ t, Keeps s₀ t → KeepsSome s₀
    (body t)) (h : Keeps s₀ s) :
    Keeps s₀ (lantIssue c w undef rsvd priv body s) := by
  unfold lantIssue
  refine ite_keeps h ?_
  split
  · exact trapCtx_keeps h
  · exact startAcc_keeps (addFld_keeps (modCtx_keeps h))
  · refine ite_keeps h ?_
    extract_lets s1
    have hs1 : Keeps s₀ s1 := issued_keeps h
    refine ite_keeps (trapCtx_keeps hs1) ?_
    refine ite_keeps (trapCtx_keeps hs1) ?_
    refine ite_keeps (trapCtx_keeps hs1) ?_
    split
    · exact h
    · rename_i v hv
      replace hv := (hbody _ hs1) _ hv
      exact hv

theorem memDone_keeps {a : LAcc} {res : LineRes} {rd : BitVec 5} (h : Keeps s₀ s) : Keeps s₀ (memDone c a res rd s) := by
  unfold memDone
  extract_lets s1 x pz v
  have hs1 : Keeps s₀ s1 := modCtx_keeps h
  have hpz : ∀ t, Keeps s₀ t → Keeps s₀ (pz t) := fun _ ht => ite_keeps (modCtx_keeps ht) ht
  exact ite_keeps (trapCtx_keeps hs1) (ite_keeps (trapCtx_keeps hs1) (ite_keeps (retireWith_keeps (hpz _ hs1)) (retireWith_keeps
    (hpz _ hs1))))

theorem barDone_keeps {kind : BitVec 2} {rd : BitVec 5} (h : Keeps s₀ s) : Keeps s₀ (barDone c kind rd s) := by
  unfold barDone
  exact ite_keeps (trapCtx_keeps h) (retireWith_keeps h)

theorem hdoneDone_keeps {a b : W64} (h : Keeps s₀ s) : Keeps s₀ (hdoneDone c a b s) := by
  unfold hdoneDone
  extract_lets x hd sts unb
  refine ite_keeps (trapCtx_keeps h) ?_
  split
  · exact trapCtx_keeps h
  · exact retire_keeps (modCtx_keeps (ite_keeps (endHandle_keeps h) (endHandle_keeps h)))

theorem sgetDone_keeps {rd : BitVec 5} {dat : Nat} {w : SWord} (h : Keeps s₀ s) : Keeps s₀ (sgetDone c a rd dat w s) := by
  unfold sgetDone
  exact retireWith_keeps (putData_keeps (dropReader_keeps h))

theorem ctxResetNow_keeps (h : Keeps s₀ s) : Keeps s₀ (ctxResetNow c s) := by
  unfold ctxResetNow
  extract_lets x s1 kept
  have hs1 : Keeps s₀ s1 := by
    unfold s1
    split
    · split
      · exact endHandle_keeps h
      · exact h
    · exact h
  exact rsvLose_keeps (setCtx_keeps hs1)

theorem lantStep_keeps (h : Keeps s₀ s) : KeepsSome s₀ (lantStep c s) := by
  unfold lantStep
  extract_lets x o s1 src s2
  have hs1 : Keeps s₀ s1 := modCtx_keeps h
  have hs2 : Keeps s₀ s2 := ite_keeps (hs1.upd rfl) hs1
  refine iteSome_keeps ?_ ?_
  · split
    · split
      · exact some_keeps (modCtx_keeps (dropReader_keeps h))
      · exact none_keeps
    · exact iteSome_keeps (some_keeps (ctxResetNow_keeps h)) none_keeps
  · split
    · split
      · exact none_keeps
      · refine iteSome_keeps none_keeps ?_
        split
        · exact some_keeps (endHandle_keeps hs2)
        · exact some_keeps hs2
    · exact iteSome_keeps (some_keeps (modCtx_keeps h)) none_keeps
    · exact none_keeps
    · split
      · split
        · exact map_keeps (fun _ => memDone_keeps h)
        · exact none_keeps
      · exact iteSome_keeps (some_keeps (barDone_keeps h)) none_keeps
      · exact iteSome_keeps (some_keeps (hdoneDone_keeps h)) none_keeps
      · split
        · exact some_keeps (sgetDone_keeps h)
        · exact none_keeps
      · exact none_keeps

theorem lantPump_keeps {c k : Nat} {s : State} (h : Keeps s₀ s) : Keeps s₀ (lantPump c k s) := by
  induction k generalizing s with
  | zero => exact h
  | succ k ih =>
    unfold lantPump
    split
    · exact h
    · rename_i v hv
      exact ih (lantStep_keeps h _ hv)

theorem streamPush_keeps {x : Stream} (h : Keeps s₀ s) : Keeps s₀ (streamPush p x s) := by
  unfold streamPush
  split
  · exact h
  · extract_lets a s1 y fin keep s2 s3
    have hs1 : Keeps s₀ s1 := checkStall_keeps h
    have hs2 : Keeps s₀ s2 := by
      unfold s2
      split
      · exact answered_keeps hs1
      · exact hs1
    exact ite_keeps hs1 (pumpItems_keeps (modStall_keeps (modPort_keeps hs2)))

theorem streamPump_keeps (h : Keeps s₀ s) : Keeps s₀ (streamPump s p) := foldl_keeps h (fun _ _ ht => streamPush_keeps ht)

theorem settle_keeps (h : Keeps s₀ s) : Keeps s₀ (settle s) := by
  unfold settle
  extract_lets s0 s1 s2
  have hs2 : Keeps s₀ s2 := foldl_keeps (foldl_keeps (foldl_keeps (replan_keeps h) (fun _ _ ht => fabSettle_keeps ht)) (fun _ _ ht
    => streamPump_keeps ht)) (fun _ _ ht => lantPump_keeps ht)
  exact freeHandles_keeps hs2

theorem onPort_keeps {p : Fin 20} {f : State → State} (h : Keeps s₀ s) (hf : ∀ t, Keeps s₀ t → Keeps s₀ (f t)) :
    KeepsOut s₀ (onPort p s f) :=
  next_keeps (ite_keeps (settle_keeps (hf _ h)) h)

theorem onPin_keeps {p : Fin 20} {f : State → State} (h : Keeps s₀ s) (hf : ∀ t, Keeps s₀ t → Keeps s₀ (f t)) :
    KeepsOut s₀ (onPin p s f) :=
  iteOut_keeps (next_keeps (settle_keeps (hf _ h))) fault_keeps

theorem onFab_keeps {n : Fin 32} {f : State → State} (h : Keeps s₀ s) (hf : ∀ t, Keeps s₀ t → Keeps s₀ (f t)) :
    KeepsOut s₀ (onFab n s f) :=
  iteOut_keeps (next_keeps (settle_keeps (hf _ h))) fault_keeps

theorem onFabReg_keeps {n : Fin 32} {f : State → State} (h : Keeps s₀ s) (hf : ∀ t, Keeps s₀ t → Keeps s₀ (f t)) :
    KeepsOut s₀ (onFabReg n s f) :=
  next_keeps (ite_keeps (settle_keeps (hf _ h)) h)

/-! ### Machine/Fabric -/

theorem execRd_keeps {fp w} (h : Keeps s₀ s) : KeepsOut s₀ (execRd fp w s) := onFab_keeps h (fun _ ht => fabRequest_keeps ht)

theorem execWr_keeps {fp w} (h : Keeps s₀ s) : KeepsOut s₀ (execWr fp w s) := onFab_keeps h (fun _ ht => fabRequest_keeps ht)

theorem execWrz_keeps {fp w} (h : Keeps s₀ s) : KeepsOut s₀ (execWrz fp w s) := onFab_keeps h (fun _ ht => fabRequest_keeps ht)

theorem execLr_keeps {fp w} (h : Keeps s₀ s) : KeepsOut s₀ (execLr fp w s) := onFab_keeps h (fun _ ht => fabRequest_keeps ht)

theorem execSc_keeps {fp w} (h : Keeps s₀ s) : KeepsOut s₀ (execSc fp w s) := onFab_keeps h (fun _ ht => fabRequest_keeps ht)

theorem execAmo_keeps {fp w} (h : Keeps s₀ s) : KeepsOut s₀ (execAmo fp w s) := onFab_keeps h (fun _ ht => fabRequest_keeps ht)

theorem execOrder_keeps {fp w} (h : Keeps s₀ s) : KeepsOut s₀ (execOrder fp w s) := onFab_keeps h (fun _ ht => fabRequest_keeps ht)

theorem execVisible_keeps {fp w} (h : Keeps s₀ s) : KeepsOut s₀ (execVisible fp w s) :=
  onFab_keeps h (fun _ ht => fabRequest_keeps ht)

theorem execDurable_keeps {fp w} (h : Keeps s₀ s) : KeepsOut s₀ (execDurable fp w s) :=
  onFab_keeps h (fun _ ht => fabRequest_keeps ht)

theorem execStallPut_keeps {fp w} (h : Keeps s₀ s) : KeepsOut s₀ (execStallPut fp w s) :=
  onFab_keeps h (fun _ ht => fabRequest_keeps ht)

theorem execStallWordRead_keeps {fp w} (h : Keeps s₀ s) : KeepsOut s₀ (execStallWordRead fp w s) :=
  onFab_keeps h (fun _ ht => fabRequest_keeps ht)

theorem execTallyFetch_keeps {fp w} (h : Keeps s₀ s) : KeepsOut s₀ (execTallyFetch fp w s) :=
  onFab_keeps h (fun _ ht => fabRequest_keeps ht)

theorem execDrop_keeps {fp w} (h : Keeps s₀ s) : KeepsOut s₀ (execDrop fp w s) := onFab_keeps h (fun _ ht => fabRequest_keeps ht)

theorem execMark_keeps {fp w} (h : Keeps s₀ s) : KeepsOut s₀ (execMark fp w s) := onFab_keeps h (fun _ ht => fabRequest_keeps ht)

theorem execRewind_keeps {fp w} (h : Keeps s₀ s) : KeepsOut s₀ (execRewind fp w s) :=
  onFab_keeps h (fun _ ht => fabRequest_keeps ht)

theorem execRelease_keeps {fp w} (h : Keeps s₀ s) : KeepsOut s₀ (execRelease fp w s) :=
  onFab_keeps h (fun _ ht => fabRequest_keeps ht)

theorem execFlush_keeps {fp w} (h : Keeps s₀ s) : KeepsOut s₀ (execFlush fp w s) := onFab_keeps h (fun _ ht => fabRequest_keeps ht)

theorem execReqReservedOpcode_keeps {fp opc w} (h : Keeps s₀ s) : KeepsOut s₀ (execReqReservedOpcode fp opc w s) :=
  onFab_keeps h (fun _ ht => ite_keeps (fabRequest_keeps ht) ht)

theorem payBeat_keeps (h : Keeps s₀ s) : Keeps s₀ (payBeat n s) := modFab_keeps h

theorem writeBeat_keeps {data : Line} {be : BitVec 64} {last : Bool} (h : Keeps s₀ s) : Keeps s₀ (writeBeat n data be last s) := by
  unfold writeBeat
  extract_lets f add
  refine ite_keeps (modFab_keeps h) ?_
  refine ite_keeps (proto_keeps h) ?_
  split
  · exact proto_keeps h
  · extract_lets s1
    have hs1 : Keeps s₀ s1 := ite_keeps h (addFld_keeps (setFld_keeps h))
    split
    · exact payBeat_keeps hs1
    · exact payBeat_keeps (modFab_keeps (active_keeps hs1))

theorem execWriteDataBeat_keeps {fp data be last} (h : Keeps s₀ s) : KeepsOut s₀ (execWriteDataBeat fp data be last s) :=
  onFab_keeps h (fun _ ht => ite_keeps ht (writeBeat_keeps ht))

theorem execReadBeatAccept_keeps {fp} (h : Keeps s₀ s) : KeepsOut s₀ (execReadBeatAccept fp s) :=
  onFab_keeps h (fun _ ht => ite_keeps (getD_keeps (takeBeat_keeps ht) ht) ht)

theorem execResponseAccept_keeps {fp} (h : Keeps s₀ s) : KeepsOut s₀ (execResponseAccept fp s) :=
  onFab_keeps h (fun _ ht => ite_keeps (getD_keeps (takeRsp_keeps ht) ht) ht)

theorem execUrgChange_keeps {fp level} (h : Keeps s₀ s) : KeepsOut s₀ (execUrgChange fp level s) :=
  onFab_keeps h (fun _ ht => modFab_keeps ht)

theorem execExc_keeps {fp} (h : Keeps s₀ s) : KeepsOut s₀ (execExc fp s) := onFab_keeps h (fun _ ht => rsvLose_keeps ht)

theorem clkMeasure_keeps {khz : Nat} (h : Keeps s₀ s) : Keeps s₀ (clkMeasure n khz s) := by
  unfold clkMeasure
  exact ite_keeps (ite_keeps h (raise_keeps (setFld_keeps (modFab_keeps h)))) (ite_keeps (modFab_keeps h) (ite_keeps (setFld_keeps
    (modFab_keeps h)) (modFab_keeps h)))

theorem execFabClkMeasure_keeps {fp khz} (h : Keeps s₀ s) : KeepsOut s₀ (execFabClkMeasure fp khz s) :=
  onFabReg_keeps h (fun _ ht => clkMeasure_keeps ht)

theorem execBurstTimeout_keeps {fp} (h : Keeps s₀ s) : KeepsOut s₀ (execBurstTimeout fp s) := by
  unfold execBurstTimeout
  refine onFabReg_keeps h ?_
  intro _ ht
  split
  · exact ht
  · exact cutClose_keeps (setFld_keeps (modFab_keeps (cutBurst_keeps ht)))

theorem fabBoundary_keeps (h : Keeps s₀ s) : Keeps s₀ (fabBoundary n s) := by
  unfold fabBoundary
  extract_lets f aOff s1 s2 was now s3
  have hs1 : Keeps s₀ s1 := ite_keeps h (ite_keeps (applyShadow_keeps h) (reject_keeps (dropShadow_keeps h)))
  have hs2 : Keeps s₀ s2 := crcRestart_keeps (applyShadow_keeps hs1)
  have hs3 : Keeps s₀ s3 := setFld_keeps hs2
  exact ite_keeps h (ite_keeps (ite_keeps hs3 (grantTallies_keeps hs3)) (ite_keeps (setFld_keeps (clearTallies_keeps hs2)) hs2))

theorem execFabricPortBoundary_keeps {fp} (h : Keeps s₀ s) : KeepsOut s₀ (execFabricPortBoundary fp s) :=
  onFabReg_keeps h (fun _ ht => fabBoundary_keeps ht)

/- `delta` in a hypothesis about the function alone: asked whether a call equals its `match`, the kernel would evaluate the
address map at the call's address. -/
theorem ringFootBit_keeps {o : Owner} {x : Stall} {pos : Nat} (h : Keeps s₀ s) : Keeps s₀ (ringFootBit o x pos s) := by
  generalize hF : ringFootBit = F
  delta ringFootBit at hF
  subst hF
  beta_reduce
  cases target s (x.wordAddr pos) with
  | dram p la => exact setFoot_keeps h
  | _ => exact h

theorem drainPut_keeps {r : FabReq} {b : Beat} {bad : Bool} (h : Keeps s₀ s) : Keeps s₀ (drainPut n r k b bad s) := by
  unfold drainPut
  extract_lets a s0 x items res y o s1
  have hres : Keeps s₀ res.2 := pushItems_keeps (checkStall_keeps h)
  have hs1 : Keeps s₀ s1 := ite_keeps hres (ringFootBit_keeps (ite_keeps hres (ringFootBit_keeps hres)))
  exact ite_keeps (cutClose_keeps (fabLineDone_keeps (modFab_keeps hs1))) (modFab_keeps hs1)

theorem drainLine_keeps {r : FabReq} {bad : Bool} (h : Keeps s₀ s) : Keeps s₀ (drainLine n r k bad s) := by
  unfold drainLine
  extract_lets b bad1 x s0 o a go
  have hs0 : Keeps s₀ s0 := ite_keeps (sramError_keeps (drawFree_keeps h)) h
  have hgo : ∀ x, Keeps s₀ (go x) := fun _ => lineAccess_keeps (fabLine_keeps hs0)
  refine ite_keeps (drainPut_keeps hs0) ?_
  refine ite_keeps (hgo _) ?_
  refine ite_keeps (hgo _) ?_
  refine ite_keeps (fabLineDone_keeps hs0) ?_
  split
  · exact hgo _
  · exact ite_keeps (fabLineDone_keeps (addFoot_keeps (spadWrite_keeps hs0))) (fabLineDone_keeps hs0)
  · exact fabLineDone_keeps hs0

theorem execPwbDrain_keeps {fp parityError} (h : Keeps s₀ s) : KeepsOut s₀ (execPwbDrain fp parityError s) := by
  unfold execPwbDrain
  refine onFabReg_keeps h ?_
  intro _ ht
  refine ite_keeps ht ?_
  split
  · exact ht
  · exact drainLine_keeps ht

theorem writeProto_keeps {v : Word} (h : Keeps s₀ s) : Keeps s₀ (writeProto n v s) := by
  unfold writeProto
  extract_lets off clr old s1
  have hs1 : Keeps s₀ s1 := setWord_keeps h
  exact ite_keeps (setFld_keeps hs1) hs1

theorem execFpProtoClear_keeps {fp v} (h : Keeps s₀ s) : KeepsOut s₀ (execFpProtoClear fp v s) :=
  onFabReg_keeps h (fun _ ht => ite_keeps ht (writeProto_keeps ht))

theorem writeDurCtl_keeps {v : Word} (h : Keeps s₀ s) : Keeps s₀ (writeDurCtl n v s) := ite_keeps (footClear_keeps h) h

theorem execFpDurClear_keeps {fp v} (h : Keeps s₀ s) : KeepsOut s₀ (execFpDurClear fp v s) :=
  onFabReg_keeps h (fun _ ht => ite_keeps ht (writeDurCtl_keeps ht))

theorem takeFence_keeps (h : Keeps s₀ s) : Keeps s₀ (takeFence n s) :=
  ite_keeps h (rsvLose_keeps (foldl_keeps (setFld_keeps (setFld_keeps (setFld_keeps (modFab_keeps h)))) (fun _ _ ht =>
    cutClose_keeps (cutBurst_keeps ht))))

theorem releaseFence_keeps (h : Keeps s₀ s) : Keeps s₀ (releaseFence n s) := by
  unfold releaseFence
  extract_lets f s1 s2 s3 s4 s5
  have hs1 : Keeps s₀ s1 := ite_keeps (setFld_keeps h) h
  have hs3 : Keeps s₀ s3 := modFab_keeps (ite_keeps (setFld_keeps hs1) hs1)
  have hs5 : Keeps s₀ s5 := modFab_keeps (setFld_keeps (setFld_keeps (foldl_keeps hs3 (fun _ _ ht => endHandle_keeps ht))))
  exact ite_keeps h (ite_keeps hs3 (ite_keeps (modFab_keeps (foldl_keeps hs3 (fun _ _ ht => endHandle_keeps ht))) (ite_keeps
    (grantTallies_keeps hs5) hs5)))

theorem drainedNow_keeps (h : Keeps s₀ s) : Keeps s₀ (drainedNow n s) := by
  unfold drainedNow
  exact ite_keeps h (releaseFence_keeps (modFab_keeps (foldl_keeps (clearTallies_keeps (setFld_keeps h)) (fun _ _ ht =>
    endHandle_keeps ht))))

theorem execCfgFenceRequest_keeps {fp} (h : Keeps s₀ s) : KeepsOut s₀ (execCfgFenceRequest fp s) :=
  onFab_keeps h (fun _ ht => ite_keeps ht (modFab_keeps (setFld_keeps (takeFence_keeps ht))))

theorem execCfgFenceRelease_keeps {fp} (h : Keeps s₀ s) : KeepsOut s₀ (execCfgFenceRelease fp s) :=
  onFab_keeps h (fun _ ht => ite_keeps ht (releaseFence_keeps (modFab_keeps ht)))

theorem execFenceDrained_keeps {fp} (h : Keeps s₀ s) : KeepsOut s₀ (execFenceDrained fp s) :=
  onFabReg_keeps h (fun _ ht => drainedNow_keeps ht)

theorem execFenceTimeout_keeps {fp} (h : Keeps s₀ s) : KeepsOut s₀ (execFenceTimeout fp s) :=
  onFabReg_keeps h (fun _ ht => ite_keeps (modFab_keeps ht) ht)

/-! ### Machine/Home -/

theorem clearSet_keeps (h : Keeps s₀ s) : Keeps s₀ (clearSet k s) := raise_keeps (logHome_keeps (addFld_keeps (modHome_keeps h)))

theorem ledgerEcc_keeps {ecc : EccEvent} (h : Keeps s₀ s) : Keeps s₀ (ledgerEcc line ecc s) := by
  unfold ledgerEcc
  split
  · exact h
  · exact addFld_keeps h
  · exact ite_keeps (clearSet_keeps h) (modHome_keeps (ringSend_keeps (addFld_keeps h)))

theorem ringReq_keeps {h : RingHdr} {kind : HKind} {d : Line} {ecc : EccEvent} {coherent agentOnly clean : Bool} (hs : Keeps s₀ s) :
    Keeps s₀ (ringReq h kind d ecc coherent agentOnly clean s) := by
  unfold ringReq
  refine ite_keeps hs ?_
  extract_lets s0 b r
  have hs0 : Keeps s₀ s0 := active_keeps hs
  split
  · exact ringComp_keeps hs0
  · exact homeSubmit_keeps (ledgerEcc_keeps (bind_keeps hs0))

theorem execRds_keeps {h ecc} (hs : Keeps s₀ s) : KeepsOut s₀ (execRds h ecc s) := next_keeps (settle_keeps (ringReq_keeps hs))

theorem execRdu_keeps {h ecc} (hs : Keeps s₀ s) : KeepsOut s₀ (execRdu h ecc s) := next_keeps (settle_keeps (ringReq_keeps hs))

theorem execUpg_keeps {h ecc} (hs : Keeps s₀ s) : KeepsOut s₀ (execUpg h ecc s) := next_keeps (settle_keeps (ringReq_keeps hs))

theorem execWb_keeps {h d} (hs : Keeps s₀ s) : KeepsOut s₀ (execWb h d s) := next_keeps (settle_keeps (ringReq_keeps hs))

theorem execRdo_keeps {h ecc} (hs : Keeps s₀ s) : KeepsOut s₀ (execRdo h ecc s) := next_keeps (settle_keeps (ringReq_keeps hs))

theorem execWru_keeps {h d ecc} (hs : Keeps s₀ s) : KeepsOut s₀ (execWru h d ecc s) := next_keeps (settle_keeps (ringReq_keeps hs))

theorem execAtom_keeps {h d ecc} (hs : Keeps s₀ s) : KeepsOut s₀ (execAtom h d ecc s) := by
  unfold execAtom
  exact next_keeps (settle_keeps (ringReq_keeps hs))

theorem execRingBar_keeps {h} (hs : Keeps s₀ s) : KeepsOut s₀ (execRingBar h s) := by
  unfold execRingBar
  refine next_keeps ?_
  refine settle_keeps ?_
  refine ite_keeps hs ?_
  extract_lets s0 kind s1
  have hs0 : Keeps s₀ s0 := active_keeps hs
  exact ite_keeps (ringComp_keeps hs0) (ite_keeps (ringComp_keeps hs0) (ite_keeps (ringComp_keeps hs0) (barPump_keeps (modHome_keeps
    (ite_keeps (ringComp_keeps hs0) hs0)))))

theorem ringPlain_keeps {h : RingHdr} {kind : HKind} {d : Line} {be : BitVec 64} {clean : Bool} (hs : Keeps s₀ s) :
    Keeps s₀ (ringPlain h kind d be clean s) := by
  unfold ringPlain
  refine ite_keeps hs ?_
  extract_lets s0 b i r s1
  have hs0 : Keeps s₀ s0 := active_keeps hs
  have hs1 : Keeps s₀ s1 := modHome_keeps (newId_keeps (bind_keeps hs0))
  split
  · exact ringComp_keeps hs0
  · exact ite_keeps hs1 (plainStart_keeps hs1)

theorem execNrd_keeps {h} (hs : Keeps s₀ s) : KeepsOut s₀ (execNrd h s) := next_keeps (settle_keeps (ringPlain_keeps hs))

theorem execNwr_keeps {h d} (hs : Keeps s₀ s) : KeepsOut s₀ (execNwr h d s) := next_keeps (settle_keeps (ringPlain_keeps hs))

theorem execRingReqReserved_keeps {h op} (hs : Keeps s₀ s) : KeepsOut s₀ (execRingReqReserved h op s) :=
  next_keeps (settle_keeps (ite_keeps hs (ringComp_keeps (active_keeps hs))))

theorem homeCheck_keeps (h : Keeps s₀ s) : Keeps s₀ (homeCheck id s) := by
  unfold homeCheck
  split
  · exact h
  · exact ite_keeps (homeRun_keeps (homeDecide_keeps h)) h

theorem takeNote_keeps {h : RingHdr} (hs : Keeps s₀ s) : Keeps s₀ (takeNote h s) := ite_keeps hs (modHome_keeps hs)

theorem execAns_plain_keeps {h : RingHdr} {d : Option Line} (hs : Keeps s₀ s) : Keeps s₀ (execAns.plain h d s) := by
  unfold execAns.plain
  split
  · exact homeProto_keeps hs
  · exact homeCheck_keeps (homeMod_keeps (takeNote_keeps hs))

theorem execAns_keeps {h d} (hs : Keeps s₀ s) : KeepsOut s₀ (execAns h d s) := by
  unfold execAns
  refine next_keeps ?_
  refine settle_keeps ?_
  refine ite_keeps hs ?_
  refine ite_keeps hs ?_
  refine ite_keeps (homeProto_keeps hs) ?_
  split
  · exact ite_keeps (ite_keeps (homeRun_keeps (clearSet_keeps hs)) (modHome_keeps hs)) (execAns_plain_keeps hs)
  · exact execAns_plain_keeps hs

theorem execData_keeps {h d} (hs : Keeps s₀ s) : KeepsOut s₀ (execData h d s) := by
  unfold execData
  refine next_keeps ?_
  refine settle_keeps ?_
  refine ite_keeps hs ?_
  refine ite_keeps hs ?_
  split
  · exact homeProto_keeps hs
  · exact ite_keeps (homeProto_keeps hs) (homeCheck_keeps (homeMod_keeps hs))

theorem execAck_keeps {h} (hs : Keeps s₀ s) : KeepsOut s₀ (execAck h s) := by
  unfold execAck
  refine next_keeps ?_
  refine settle_keeps ?_
  refine ite_keeps hs ?_
  refine ite_keeps hs ?_
  split
  · exact homeProto_keeps hs
  · exact ite_keeps (homeRun_keeps (homeDrop_keeps hs)) (homeProto_keeps hs)

theorem failAgent_keeps {op : Nat} {more : Bool} (h : Keeps s₀ s) : Keeps s₀ (failAgent line op more s a) := by
  unfold failAgent
  extract_lets s1 s2 own s3 bars
  have hs3 : Keeps s₀ s3 := foldl_keeps (raise_keeps (addFld_keeps (logHome_keeps (setFld_keeps h)))) (fun _ _ ht => homeDrop_keeps
    (ite_keeps (ringComp_keeps ht) (homeAnswer_keeps ht)))
  exact foldl_keeps (modHome_keeps hs3) (fun _ _ ht => ite_keeps ht (ringComp_keeps ht))

theorem suspectSweep_keeps (h : Keeps s₀ s) : Keeps s₀ (suspectSweep s) := ite_keeps h (modHome_keeps h)

theorem failSilent_keeps {op : Nat} {await : List Nat} (h : Keeps s₀ s) : Keeps s₀ (failSilent line op await s) := by
  unfold failSilent
  exact ite_keeps h (suspectSweep_keeps (foldl_keeps h (fun _ _ ht => failAgent_keeps ht)))

theorem setTimeout_keeps {laddr : Nat} (h : Keeps s₀ s) : Keeps s₀ (setTimeout laddr s) := by
  unfold setTimeout
  split
  · exact ite_keeps (homeRun_keeps (clearSet_keeps (failSilent_keeps h))) h
  · exact h

theorem execSnoopTimeout_keeps {laddr} (h : Keeps s₀ s) : KeepsOut s₀ (execSnoopTimeout laddr s) := by
  unfold execSnoopTimeout
  refine next_keeps ?_
  refine settle_keeps ?_
  split
  · exact setTimeout_keeps h
  · extract_lets s2
    have hs2 : Keeps s₀ s2 := failSilent_keeps h
    split
    · exact homeRun_keeps hs2
    · exact homeRun_keeps (homeDecide_keeps (homeMod_keeps hs2))

theorem execAgentReadmit_keeps {v} (h : Keeps s₀ s) : KeepsOut s₀ (execAgentReadmit v s) :=
  next_keeps (ite_keeps h (setFld_keeps h))

theorem execHomeCntClear_keeps {v} (h : Keeps s₀ s) : KeepsOut s₀ (execHomeCntClear v s) :=
  next_keeps (ite_keeps h (setWord_keeps (setWord_keeps (setWord_keeps h))))

theorem execRingDurClear_keeps {v} (h : Keeps s₀ s) : KeepsOut s₀ (execRingDurClear v s) :=
  next_keeps (ite_keeps h (footClear_keeps h))

theorem execHomeRsvClear_keeps {v} (h : Keeps s₀ s) : KeepsOut s₀ (execHomeRsvClear v s) :=
  next_keeps (ite_keeps h (setWord_keeps h))

/-! ### Machine/Timing -/

theorem modSub_keeps {g : SubCh → SubCh} (h : Keeps s₀ s) : Keeps s₀ (modSub p c g s) := modSched_keeps h

theorem modRank_keeps {g : RankSt → RankSt} (h : Keeps s₀ s) : Keeps s₀ (modRank p k g s) := modSched_keeps h

theorem issueOp_keeps {o : Op} {l : Loc} {q : Option SubReq} {unblk : Bool} (h : Keeps s₀ s) :
    Keeps s₀ (issueOp p c off o l q unblk s) := by
  unfold issueOp
  extract_lets i counted stamp hd t n s1 s2 s3
  have hs2 : Keeps s₀ s2 := modSched_keeps (modSub_keeps (newId_keeps h))
  exact sendPacket_keeps (ite_keeps (modSched_keeps hs2) hs2)

theorem rfmDue_keeps {l : Loc} (h : Keeps s₀ s) : Keeps s₀ (rfmDue p l s) := ite_keeps h (modRank_keeps h)

theorem raaSub_keeps {l : Loc} {b : Option (Fin 4)} (h : Keeps s₀ s) : Keeps s₀ (raaSub p l b n s) := by
  unfold raaSub
  exact modSched_keeps h

theorem forcedCheck_keeps (h : Keeps s₀ s) : Keeps s₀ (forcedCheck p k s) := by
  unfold forcedCheck
  exact ite_keeps (addFld_keeps (modRank_keeps h)) h

theorem issueJob_keeps {x : Cand} (h : Keeps s₀ s) : Keeps s₀ (issueJob p c off x k s) := by
  unfold issueJob
  extract_lets t l src s1 imt
  have hs1 : Keeps s₀ s1 := issueOp_keeps h
  split
  · exact h
  · refine ite_keeps (modRank_keeps hs1) ?_
    extract_lets trfc dec done s2 s3
    have hs3 : Keeps s₀ s3 := raaSub_keeps (modRank_keeps hs1)
    exact ite_keeps (addFld_keeps hs3) (forcedCheck_keeps hs3)

theorem issueCol_keeps {x : Cand} {q : SubReq} {unblk : Bool} (h : Keeps s₀ s) : Keeps s₀ (issueCol p c off x q unblk s) := by
  unfold issueCol
  exact issueOp_keeps (modDram_keeps (modSched_keeps (modSub_keeps h)))

theorem countPromoted_keeps (h : Keeps s₀ s) : Keeps s₀ (countPromoted p s) := by
  unfold countPromoted
  exact ite_keeps h (addFld_keeps (modSched_keeps h))

theorem setDir_keeps {dir : Bool} (h : Keeps s₀ s) : Keeps s₀ (setDir p c dir s) := by
  unfold setDir
  exact setFld_keeps (modSub_keeps h)

theorem replayBusy_keeps {x : Cand} (h : Keeps s₀ s) : Keeps s₀ (replayBusy p x off s) := ite_keeps h (modRank_keeps h)

theorem slotSelect_keeps (h : Keeps s₀ s) : Keeps s₀ (slotSelect p c off s) := by
  unfold slotSelect
  refine ite_keeps h ?_
  extract_lets s0 r s1
  have hs1 : Keeps s₀ s1 := setDir_keeps (countPromoted_keeps h)
  split
  · exact hs1
  · split
    · exact issueJob_keeps hs1
    · exact issueOp_keeps hs1
    · refine ite_keeps (issueCol_keeps hs1) ?_
      extract_lets s2
      have hs2 : Keeps s₀ s2 := issueOp_keeps hs1
      exact ite_keeps (rfmDue_keeps hs2) hs2
    · extract_lets s2
      have hs2 : Keeps s₀ s2 := issueOp_keeps hs1
      exact ite_keeps hs2 (replayBusy_keeps (modSched_keeps hs2))

/-! ### Machine/Scheduler -/

theorem removeWait_keeps (h : Keeps s₀ s) : Keeps s₀ (removeWait p id s) := modSched_keeps h

theorem rowMatch_keeps (h : Keeps s₀ s) : Keeps s₀ (rowMatch p la s) := by
  unfold rowMatch
  exact foldl_keeps h (fun _ _ ht => closeEntry_keeps ht)

theorem enterQueue_keeps {r : SubReq} (h : Keeps s₀ s) : KeepsSome s₀ (enterQueue p r s) := by
  unfold enterQueue
  extract_lets toQueue
  have htoQueue : ∀ t, Keeps s₀ t → Keeps s₀ (toQueue t) := fun _ ht => entered_keeps (modSched_keeps (rowMatch_keeps
    (removeWait_keeps ht)))
  split
  · refine iteSome_keeps (iteSome_keeps (some_keeps (htoQueue _ h)) none_keeps) ?_
    extract_lets x
    have hx : Keeps s₀ x.2 := mergeIn_keeps h
    exact iteSome_keeps (some_keeps (entered_keeps (removeWait_keeps hx))) (some_keeps hx)
  · exact iteSome_keeps (some_keeps (htoQueue _ h)) none_keeps

theorem execQueueEntry_keeps {p} (h : Keeps s₀ s) : KeepsOut s₀ (execQueueEntry p s) := by
  unfold execQueueEntry
  refine onPort_keeps h ?_
  intro _ ht
  refine ite_keeps (setFld_keeps ht) ?_
  refine ite_keeps ?_ ?_
  · split
    · exact ht
    · exact deliver_keeps (removeWait_keeps ht)
  · split
    · exact ht
    · exact getD_keeps (enterQueue_keeps ht) ht

theorem landFlight_keeps {f : Flight} {err : Burst} (h : Keeps s₀ s) : Keeps s₀ (landFlight p f err s) := by
  unfold landFlight
  exact deliver_keeps (notePoisonRead_keeps (noteDecode_keeps h))

theorem returnFlight_keeps {err : Burst} (h : Keeps s₀ s) : Keeps s₀ (returnFlight p id err s) := by
  unfold returnFlight
  extract_lets demand
  split
  · exact h
  · rename_i _ v hv
    replace hv : Keeps s₀ v := (takeFlight_keeps h) _ hv
    exact landFlight_keeps hv

theorem execLineDataReturn_keeps {p id err} (h : Keeps s₀ s) : KeepsOut s₀ (execLineDataReturn p id err s) :=
  onPort_keeps h (fun _ ht => returnFlight_keeps ht)

theorem execCommandSlotSelect_keeps {p sub off} (h : Keeps s₀ s) : KeepsOut s₀ (execCommandSlotSelect p sub off s) :=
  onPort_keeps h (fun _ ht => slotSelect_keeps ht)

theorem execCommandKnownGood_keeps {p} (h : Keeps s₀ s) : KeepsOut s₀ (execCommandKnownGood p s) := by
  unfold execCommandKnownGood
  refine onPort_keeps h ?_
  intro _ ht
  refine ite_keeps ht ?_
  split
  · exact ite_keeps (goodOldest_keeps ht) ht
  · exact ht

theorem heat_keeps {dimm : Nat} (h : Keeps s₀ s) : Keeps s₀ (heat p dimm s) := setFld_keeps (modSched_keeps h)

theorem staleHeat_keeps {dimm : Nat} (h : Keeps s₀ s) : Keeps s₀ (staleHeat p dimm s) := ite_keeps (heat_keeps h) h

theorem freshRanks_keeps (h : Keeps s₀ s) : Keeps s₀ (freshRanks p s) := by
  unfold freshRanks
  exact modSched_keeps h

theorem rankDue_keeps {interval : Nat} (h : Keeps s₀ s) : Keeps s₀ (rankDue p k interval s) := by
  unfold rankDue
  exact forcedCheck_keeps (modRank_keeps (ite_keeps (addFld_keeps h) h))

theorem execRefreshDue_keeps {p rank} (h : Keeps s₀ s) : KeepsOut s₀ (execRefreshDue p rank s) := by
  unfold execRefreshDue
  refine onPort_keeps h ?_
  intro _ ht
  refine foldl_keeps ht ?_
  intro _ _ ht1
  refine ite_keeps ht1 ?_
  extract_lets t1 n
  have ht1 : Keeps s₀ t1 := staleHeat_keeps ht1
  exact ite_keeps ht1 (rankDue_keeps ht1)

theorem execHotRestore_keeps {p dimm} (h : Keeps s₀ s) : KeepsOut s₀ (execHotRestore p dimm s) := by
  unfold execHotRestore
  refine onPort_keeps h ?_
  intro _ ht
  split
  · exact ite_keeps (setFld_keeps (modSched_keeps ht)) ht
  · exact ht

theorem execRowTimeoutClose_keeps {p sub bank off} (h : Keeps s₀ s) : KeepsOut s₀ (execRowTimeoutClose p sub bank off s) := by
  unfold execRowTimeoutClose
  refine onPort_keeps h ?_
  intro _ ht
  extract_lets l t
  refine ite_keeps ht ?_
  split
  · exact ite_keeps ht (ite_keeps ht (issueOp_keeps ht))
  · exact ht

theorem beginPause_keeps {x : Pause} {forced : Bool} (h : Keeps s₀ s) : Keeps s₀ (beginPause p x forced s) := by
  unfold beginPause
  refine ite_keeps (closeAll_keeps h) ?_
  extract_lets s1
  have hs1 : Keeps s₀ s1 := modDram_keeps (modSched_keeps h)
  exact ite_keeps (addFld_keeps hs1) hs1

theorem execTrainingPauseStart_keeps {p} (h : Keeps s₀ s) : KeepsOut s₀ (execTrainingPauseStart p s) := by
  unfold execTrainingPauseStart
  refine onPort_keeps h ?_
  intro _ ht
  split
  · exact ht
  · exact ite_keeps (beginPause_keeps ht) ht

theorem execPauseForce_keeps {p} (h : Keeps s₀ s) : KeepsOut s₀ (execPauseForce p s) := by
  unfold execPauseForce
  refine onPort_keeps h ?_
  intro _ ht
  split
  · exact ht
  · exact ite_keeps (beginPause_keeps ht) ht

theorem execBrMissClear_keeps {t v} (h : Keeps s₀ s) : KeepsOut s₀ (execBrMissClear t v s) :=
  next_keeps (ite_keeps (setFld_keeps h) h)

theorem execSchMissLogClear_keeps {v} (h : Keeps s₀ s) : KeepsOut s₀ (execSchMissLogClear v s) :=
  next_keeps (ite_keeps (setWord_keeps h) h)

theorem execPsCntClear_keeps {p v} (h : Keeps s₀ s) : KeepsOut s₀ (execPsCntClear p v s) :=
  onPort_keeps h (fun _ ht => ite_keeps (setWord_keeps (setWord_keeps ht)) ht)

/-! ### Machine/PortCtl -/

theorem setPortPwr_keeps {x : PortPwr} (h : Keeps s₀ s) : Keeps s₀ (setPortPwr p x s) := h.upd rfl

theorem ppStat_keeps (h : Keeps s₀ s) : Keeps s₀ (ppStat p s) := by
  unfold ppStat
  extract_lets x waiting run s1
  clear_value waiting
  split <;> exact setFld_keeps (setFld_keeps (setFld_keeps h))

theorem srcDone_keeps {src : ReqOf} {sts result : Nat} (h : Keeps s₀ s) : Keeps s₀ (srcDone src sts result s) := by
  unfold srcDone
  split
  · exact endHandle_keeps h
  · exact h

theorem transEnd_keeps {sts result : Nat} (h : Keeps s₀ s) : Keeps s₀ (transEnd p sts result s) := by
  unfold transEnd
  extract_lets x next
  split
  · exact h
  · exact ite_keeps h (plan_keeps (ppStat_keeps (srcDone_keeps (setPortPwr_keeps h))))

theorem setPop_keeps (h : Keeps s₀ s) : Keeps s₀ (setPop p v s) := setWord_keeps h

theorem portDown_keeps {s0 : State} (h : Keeps s₀ s0) : Keeps s₀ (portDown p s0) := by
  unfold portDown
  extract_lets s s1
  have hs1 : Keeps s₀ s1 := modDram_keeps (modSched_keeps (setPstate_keeps (setShed_keeps (loseDimms_keeps h))))
  exact ite_keeps (setFld_keeps (setFld_keeps (setFld_keeps (setFld_keeps (setFld_keeps (setFld_keeps (setFld_keeps (modMarks_keeps
    hs1)))))))) hs1

theorem refusePort_keeps {err ch slot : Nat} (h : Keeps s₀ s) : Keeps s₀ (refusePort p err ch slot s) := by
  unfold refusePort
  extract_lets s1 s2
  have hs1 : Keeps s₀ s1 := setPop_keeps (setPopErr_keeps (portDown_keeps h))
  exact transEnd_keeps (raise_keeps (ite_keeps (setFld_keeps (setFld_keeps hs1)) (setFld_keeps hs1)))

theorem enterService_keeps (h : Keeps s₀ s) : Keeps s₀ (enterService p s) := by
  unfold enterService
  exact transEnd_keeps (modProt_keeps (modTrain_keeps (modDram_keeps (freshRanks_keeps (setPstate_keeps h)))))

theorem srEnter_keeps {cmd shed : Bool} (h : Keeps s₀ s) : Keeps s₀ (srEnter p cmd shed s) := by
  unfold srEnter
  extract_lets s1 s2 stop s3 gone s4
  have hs3 : Keeps s₀ s3 := modDram_keeps (modSched_keeps (setPstate_keeps (freshRanks_keeps (addFld_keeps h))))
  have hs4 : Keeps s₀ s4 := ite_keeps (modDram_keeps hs3) hs3
  exact ite_keeps hs3 (ite_keeps hs4 (loseDimms_keeps (setLost_keeps (setShed_keeps hs4))))

theorem srExit_keeps (h : Keeps s₀ s) : Keeps s₀ (srExit p s) := by
  unfold srExit
  exact modLink_keeps (modDram_keeps (modSched_keeps (freshRanks_keeps (setPstate_keeps h))))

theorem portHalt_keeps {cause : Nat} (h : Keeps s₀ s) : Keeps s₀ (portHalt p cause s) := by
  unfold portHalt
  extract_lets s1 s2
  have hs1 : Keeps s₀ s1 := modSched_keeps (modDram_keeps (setPstate_keeps h))
  exact raise_keeps (ite_keeps (setFld_keeps hs1) (setFld_keeps hs1))

theorem farLost_keeps {q : SubReq} (h : Keeps s₀ s) : Keeps s₀ (farLost p q s) := by
  unfold farLost
  split
  · exact logPort_keeps h
  · exact h

theorem failOne_keeps {started : Bool} {q : SubReq} (h : Keeps s₀ s) : Keeps s₀ (failOne p started s q) := by
  unfold failOne
  extract_lets s1
  have hs1 : Keeps s₀ s1 := ite_keeps (farLost_keeps h) h
  split
  · exact mergeDone_keeps hs1
  · exact modProt_keeps hs1
  · exact deliver_keeps hs1

theorem failAll_keeps (h : Keeps s₀ s) : Keeps s₀ (failAll p s).2 := by
  unfold failAll
  exact pair_keeps (foldl_keeps (foldl_keeps (foldl_keeps (modSched_keeps h) (fun _ _ ht => failOne_keeps ht)) (fun _ _ ht =>
    failOne_keeps ht)) (fun _ _ ht => mergeDone_keeps ht))

theorem clearTrained_keeps (h : Keeps s₀ s) : Keeps s₀ (clearTrained p s) := by
  unfold clearTrained
  exact modProt_keeps (modTrain_keeps (engFld_keeps (engFld_keeps h)))

/-! ### Machine/PowerOps -/

theorem modPw_keeps {g : Power → Power} (h : Keeps s₀ s) : Keeps s₀ (modPw g s) := h.upd rfl

theorem tickStep_keeps (h : Keeps s₀ s) : Keeps s₀ (tickStep s) := h.upd rfl

theorem pwrStat_keeps (h : Keeps s₀ s) : Keeps s₀ (pwrStat s) := by
  unfold pwrStat
  extract_lets prep run s1
  split <;> exact setFld_keeps (setFld_keeps (setFld_keeps (setFld_keeps (setFld_keeps h))))

theorem recordRef_keeps {code tgt unit : Nat} {abort : Bool} (h : Keeps s₀ s) : Keeps s₀ (recordRef code tgt unit abort s) :=
  raise_keeps (addFld_keeps (setFld_keeps (setFld_keeps (setFld_keeps (setFld_keeps h)))))

theorem nextTrans_keeps (h : Keeps s₀ s) : Keeps s₀ (nextTrans s) := modPw_keeps h

theorem undoPrep_keeps (h : Keeps s₀ s) : Keeps s₀ (undoPrep s) :=
  modHome_keeps (setFld_keeps (foldl_keeps h (fun _ _ ht => ite_keeps ht (grantTallies_keeps ht))))

theorem refusePrep_keeps {code : Nat} {abort : Bool} (h : Keeps s₀ s) : Keeps s₀ (refusePrep code abort s) := by
  unfold refusePrep
  split
  · exact h
  · exact pwrStat_keeps (nextTrans_keeps (undoPrep_keeps (srcDone_keeps (recordRef_keeps h))))

theorem wakeBy_keeps {bit : Option Nat} (h : Keeps s₀ s) : Keeps s₀ (wakeBy bit s) := by
  unfold wakeBy
  extract_lets mark
  have hmark : ∀ t, Keeps s₀ t → Keeps s₀ (mark t) := by
    intro _ ht
    unfold mark
    split
    · exact setFld_keeps ht
    · exact ht
  split
  · exact ite_keeps (ite_keeps (hmark _ (modPw_keeps h)) (hmark _ (refusePrep_keeps h))) h
  · exact ite_keeps h (ite_keeps (pwrStat_keeps (hmark _ (active_keeps h))) (ite_keeps (pwrStat_keeps (hmark _ (modPw_keeps h))) h))

theorem wake_keeps {bit : Nat} (h : Keeps s₀ s) : Keeps s₀ (wake bit s) := wakeBy_keeps h

/-! ### Machine/Timebase -/

theorem modTb_keeps {g : Timebase → Timebase} (h : Keeps s₀ s) : Keeps s₀ (modTb g s) := h.upd rfl

theorem execTbCountRead_keeps (h : Keeps s₀ s) : KeepsOut s₀ (execTbCountRead s) := next_keeps (ite_keeps h (setFld_keeps h))

theorem stepHold_keeps (h : Keeps s₀ s) : Keeps s₀ (stepHold s) :=
  foldl_keeps (setFld_keeps h) (fun _ _ ht => modLink_keeps (modSched_keeps (addFld_keeps ht)))

theorem stepFinish_keeps (h : Keeps s₀ s) : Keeps s₀ (stepFinish s) :=
  ite_keeps h (raise_keeps (setFld_keeps (setFld_keeps (modTb_keeps (foldl_keeps h (fun _ _ ht => srExit_keeps ht))))))

theorem stepAlign_keeps (h : Keeps s₀ s) : Keeps s₀ (stepAlign s) :=
  stepFinish_keeps (foldl_keeps (modTb_keeps h) (fun _ _ ht => setFld_keeps (modMarks_keeps ht)))

theorem loadCount_keeps {v : BitVec 64} (h : Keeps s₀ s) : Keeps s₀ (loadCount v s) := by
  unfold loadCount
  exact setFld_keeps (h.upd rfl)

theorem stepStart_keeps {armed : Bool} (h : Keeps s₀ s) : Keeps s₀ (stepStart armed s) :=
  ite_keeps h (ite_keeps (setFld_keeps h) (ite_keeps (modTb_keeps (stepHold_keeps h)) (modTb_keeps (stepHold_keeps h))))

theorem armStep_keeps (h : Keeps s₀ s) : Keeps s₀ (arm s) := ite_keeps (setFld_keeps (modTb_keeps h)) h

theorem execSoftStep_keeps (h : Keeps s₀ s) : KeepsOut s₀ (execSoftStep s) := next_keeps (settle_keeps (stepStart_keeps h))

theorem execArmEpochStep_keeps (h : Keeps s₀ s) : KeepsOut s₀ (execArmEpochStep s) :=
  next_keeps (settle_keeps (armStep_keeps (stepStart_keeps h)))

theorem stepAbandon_keeps (h : Keeps s₀ s) : Keeps s₀ (stepAbandon s) := by
  unfold stepAbandon
  refine ite_keeps h ?_
  extract_lets s1
  have hs1 : Keeps s₀ s1 := by
    unfold s1
    split
    · exact endHandle_keeps (modTb_keeps h)
    · exact h
  exact stepAlign_keeps (setFld_keeps hs1)

theorem execAbandonStep_keeps (h : Keeps s₀ s) : KeepsOut s₀ (execAbandonStep s) := next_keeps (settle_keeps (stepAbandon_keeps h))

theorem execStepLoad_keeps (h : Keeps s₀ s) : KeepsOut s₀ (execStepLoad s) := by
  unfold execStepLoad
  refine next_keeps ?_
  refine settle_keeps ?_
  refine ite_keeps h ?_
  split
  · exact stepAlign_keeps (loadCount_keeps h)
  · exact armStep_keeps h
  · exact h

theorem execStepArmTimeout_keeps (h : Keeps s₀ s) : KeepsOut s₀ (execStepArmTimeout s) :=
  next_keeps (settle_keeps (ite_keeps (setFld_keeps (stepAbandon_keeps h)) h))

theorem epochEdge_keeps {phase : Nat} (h : Keeps s₀ s) : Keeps s₀ (epochEdge phase s) := by
  unfold epochEdge
  extract_lets c s1 d s2 s22 s3
  have hs1 : Keeps s₀ s1 := setFld_keeps (setFld_keeps (setFld_keeps h))
  have hs2 : Keeps s₀ s2 := setFld_keeps hs1
  have hs22 : Keeps s₀ s22 := loadCount_keeps hs1
  have hs3 : Keeps s₀ s3 := by
    unfold s3
    split
    · exact endHandle_keeps (modTb_keeps hs22)
    · exact hs22
  exact ite_keeps (ite_keeps (raise_keeps (setFld_keeps hs2)) hs2) (stepAlign_keeps (setFld_keeps hs3))

theorem execEpochPulseIn_keeps {phase width} (h : Keeps s₀ s) : KeepsOut s₀ (execEpochPulseIn phase width s) :=
  next_keeps (settle_keeps (ite_keeps h (epochEdge_keeps (tickStep_keeps (tickStep_keeps (modTb_keeps h))))))

theorem epochPulse_keeps (h : Keeps s₀ s) : Keeps s₀ (epochPulse s) := ite_keeps h (modTb_keeps h)

theorem execEpochPulseOut_keeps {v} (h : Keeps s₀ s) : KeepsOut s₀ (execEpochPulseOut v s) :=
  next_keeps (ite_keeps (epochPulse_keeps h) h)

theorem execTimeMarkStart_keeps {p fine} (h : Keeps s₀ s) : KeepsOut s₀ (execTimeMarkStart p fine s) :=
  onPort_keeps h (fun _ ht => ite_keeps ht (sendPacket_keeps (modMarks_keeps ht)))

theorem alignedNow_keeps (h : Keeps s₀ s) : Keeps s₀ (alignedNow p s) := by
  unfold alignedNow
  extract_lets d s2 was s1
  have hs2 : Keeps s₀ s2 := modLink_keeps h
  have hs1 : Keeps s₀ s1 := by
    unfold s1
    split
    · exact setPstate_keeps (modDram_keeps h)
    · exact ite_keeps (setPstate_keeps hs2) (ite_keeps (setPstate_keeps hs2) (ite_keeps (srExit_keeps hs2) (setPstate_keeps hs2)))
    · exact h
  exact stepFinish_keeps hs1

theorem setLead_keeps {l : Nat} (h : Keeps s₀ s) : Keeps s₀ (setLead p l s) := setFld_keeps (modMarks_keeps h)

theorem markDone_keeps {t1 t2 t3 t4 : Int} (h : Keeps s₀ s) : Keeps s₀ (markDone p t1 t2 t3 t4 s) := by
  unfold markDone
  extract_lets a fwd rev rtt twice f theta s0 dfwd s1 l s2 s3 step s4 s5 quiet
  have hs1 : Keeps s₀ s1 := setFld_keeps (setFld_keeps (setFld_keeps (ite_keeps h (drawFree_keeps h))))
  have hs3 : Keeps s₀ s3 := modMarks_keeps (ite_keeps (setLead_keeps hs1) (modMarks_keeps hs1))
  have hs4 : Keeps s₀ s4 := ite_keeps hs3 (sendPacket_keeps hs3)
  exact ite_keeps (alignedNow_keeps (setFld_keeps (modMarks_keeps (ite_keeps (addFld_keeps hs4) hs4)))) (sendPacket_keeps
    (raise_keeps (setFld_keeps (modMarks_keeps hs3))))

theorem execTimeMarkAnswer_keeps {p t2 t3 fine replayed} (h : Keeps s₀ s) :
    KeepsOut s₀ (execTimeMarkAnswer p t2 t3 fine replayed s) := by
  unfold execTimeMarkAnswer
  refine onPin_keeps h ?_
  intro _ ht
  split
  · exact ht
  · exact ite_keeps ht (ite_keeps (modMarks_keeps ht) (markDone_keeps ht))

theorem execTsCntClear_keeps {p v} (h : Keeps s₀ s) : KeepsOut s₀ (execTsCntClear p v s) :=
  onPort_keeps h (fun _ ht => ite_keeps (setWord_keeps (setWord_keeps ht)) ht)

theorem launchStat_keeps (h : Keeps s₀ s) : Keeps s₀ (launchStat s) := setFld_keeps h

theorem launchTake_keeps {t : W64} {bad : Bool} {l : List Act} (h : Keeps s₀ s) : Keeps s₀ (launchTake t bad l s).2 := by
  unfold launchTake
  split
  · exact pair_keeps (launchStat_keeps (modTb_keeps h))
  · exact pair_keeps (addFld_keeps h)

theorem streamEnter_keeps {x : Stream} (h : Keeps s₀ s) : Keeps s₀ (streamEnter p x s) := by
  unfold streamEnter
  extract_lets k dl b i r note s1
  have hs1 : Keeps s₀ s1 := modPort_keeps (newId_keeps (bind_keeps h))
  refine ite_keeps (deliver_keeps hs1) ?_
  split
  · rename_i v hv
    replace hv := (enterQueue_keeps hs1) _ hv
    exact hv
  · exact modSched_keeps hs1

theorem holdAct_keeps {l i : Nat} {t : BitVec 64} {a : Act} (h : Keeps s₀ s) : Keeps s₀ (holdAct l i t a s) := by
  unfold holdAct
  extract_lets p s1 x
  have hs1 : Keeps s₀ s1 := modSched_keeps h
  exact ite_keeps hs1 (streamEnter_keeps (modPort_keeps hs1))

theorem setAct_keeps {l i : Nat} {a : Act} (h : Keeps s₀ s) : Keeps s₀ (setAct l i a s) := modTb_keeps h

theorem execLaunchHold_keeps {l} (h : Keeps s₀ s) : KeepsOut s₀ (execLaunchHold l s) :=
  next_keeps (settle_keeps (foldl_keeps h (fun _ _ ht => ite_keeps ht (holdAct_keeps (setAct_keeps ht)))))

theorem launchSlip_keeps (h : Keeps s₀ s) : Keeps s₀ (launchSlip s) := raise_keeps (addFld_keeps h)

theorem streamStart_keeps {a : Act} (h : Keeps s₀ s) : Keeps s₀ (streamStart a s) := by
  unfold streamStart
  exact ite_keeps (rfmDue_keeps (issueOp_keeps h)) (launchSlip_keeps h)

theorem refNowRank_keeps {t : State} {l : Loc} (h : Keeps s₀ t) : Keeps s₀ (refNowRank p t l) := by
  unfold refNowRank
  exact ite_keeps h (modRank_keeps h)

theorem refNow_keeps (h : Keeps s₀ s) : Keeps s₀ (refNow p s) := foldl_keeps h (fun _ _ ht => refNowRank_keeps ht)

theorem startAct_keeps {l i : Nat} {a : Act} (h : Keeps s₀ s) : Keeps s₀ (startAct l i a s) := by
  unfold startAct
  extract_lets p free s1
  have hfree : ∀ t, Keeps s₀ t → Keeps s₀ (free t) := fun _ ht => modSched_keeps ht
  have hs1 : Keeps s₀ s1 := refNow_keeps (hfree _ h)
  split
  · exact streamStart_keeps (hfree _ h)
  · exact modSched_keeps h
  · exact ite_keeps hs1 (launchSlip_keeps hs1)
  · exact modTb_keeps h
  · exact raise_keeps h
  · exact epochPulse_keeps h

theorem launchDrop_keeps {l : Nat} (h : Keeps s₀ s) : Keeps s₀ (launchDrop l s) := by
  unfold launchDrop
  exact launchStat_keeps (modTb_keeps (foldl_keeps h (fun _ _ ht => ite_keeps (modDram_keeps ht) ht)))

theorem launchEnd_keeps {l : Nat} (h : Keeps s₀ s) : Keeps s₀ (launchEnd l s) := by
  unfold launchEnd
  split
  · exact h
  · exact ite_keeps (launchDrop_keeps h) h

theorem execLaunchStart_keeps {l} (h : Keeps s₀ s) : KeepsOut s₀ (execLaunchStart l s) :=
  next_keeps (settle_keeps (launchEnd_keeps (foldl_keeps h (fun _ _ ht => ite_keeps ht (startAct_keeps (setAct_keeps ht))))))

theorem execRefHoldEnd_keeps {p} (h : Keeps s₀ s) : KeepsOut s₀ (execRefHoldEnd p s) :=
  onPort_keeps h (fun _ ht => ite_keeps (modSched_keeps ht) ht)

theorem execStreamLineEnter_keeps {p k} (h : Keeps s₀ s) : KeepsOut s₀ (execStreamLineEnter p k s) := by
  unfold execStreamLineEnter
  refine onPort_keeps h ?_
  intro _ ht
  split
  · exact streamEnter_keeps ht
  · exact ht

theorem launchCancel_keeps {l : Nat} (h : Keeps s₀ s) : Keeps s₀ (launchCancel l s) := by
  unfold launchCancel
  split
  · exact h
  · exact launchEnd_keeps (foldl_keeps (modTb_keeps h) (fun _ _ ht => ite_keeps ht (modSched_keeps ht)))

theorem execLaunchCancel_keeps {v} (h : Keeps s₀ s) : KeepsOut s₀ (execLaunchCancel v s) :=
  next_keeps (ite_keeps (settle_keeps (launchCancel_keeps h)) h)

theorem execLaunchSelfWake_keeps (h : Keeps s₀ s) : KeepsOut s₀ (execLaunchSelfWake s) :=
  next_keeps (settle_keeps (ite_keeps h (ite_keeps (wake_keeps h) h)))

theorem execStallSwitch_keeps {a} (h : Keeps s₀ s) : KeepsOut s₀ (execStallSwitch a s) := by
  unfold execStallSwitch
  refine next_keeps ?_
  refine settle_keeps ?_
  split
  · exact h
  · refine ite_keeps h ?_
    extract_lets s1 g
    have hs1 : Keeps s₀ s1 := modTb_keeps h
    exact ite_keeps (stallErr_keeps hs1) (modStall_keeps (modStall_keeps hs1))

theorem writeAlarm_keeps {reg : Nat} {v : Word} (h : Keeps s₀ s) : Keeps s₀ (writeAlarm reg v s) := by
  unfold writeAlarm
  extract_lets armNow s1 s2
  have harmNow : ∀ t, Keeps s₀ t → Keeps s₀ (armNow t) := fun _ ht => modTb_keeps ht
  have hs2 : Keeps s₀ s2 := setFld_keeps (setFld_keeps (ite_keeps (setFld_keeps h) h))
  split
  · exact ite_keeps (harmNow _ hs2) hs2
  · extract_lets s12
    have hs12 : Keeps s₀ s12 := ite_keeps (setFld_keeps h) (setFld_keeps h)
    exact ite_keeps (harmNow _ hs12) hs12

theorem execTbAlarmWrite_keeps {reg v} (h : Keeps s₀ s) : KeepsOut s₀ (execTbAlarmWrite reg v s) :=
  next_keeps (ite_keeps h (writeAlarm_keeps h))

theorem execTbAlarmFire_keeps (h : Keeps s₀ s) : KeepsOut s₀ (execTbAlarmFire s) := by
  unfold execTbAlarmFire
  refine next_keeps ?_
  refine settle_keeps ?_
  refine ite_keeps h ?_
  extract_lets s1
  have hs1 : Keeps s₀ s1 := raise_keeps (setFld_keeps (modTb_keeps h))
  exact ite_keeps (wake_keeps hs1) hs1

/-! ### Machine/Direct -/

theorem applyTrims_keeps (h : Keeps s₀ s) : Keeps s₀ (applyTrims p s) := modTrain_keeps h

theorem portStart_keeps {kind : Enable} {hold : Bool} (h : Keeps s₀ s) : Keeps s₀ (portStart p kind hold s) := by
  unfold portStart
  extract_lets kept s1 warm shed rows s2 s3
  have hs1 : Keeps s₀ s1 := setPopErr_keeps (setPstate_keeps h)
  have hs2 : Keeps s₀ s2 := ite_keeps hs1 (applyTrims_keeps (clearTrained_keeps (remapStat_keeps (modProt_keeps hs1))))
  exact modLink_keeps (modDram_keeps (modTrain_keeps (hs2.upd rfl)))

theorem execPwrGoodRise_keeps {p} (h : Keeps s₀ s) : KeepsOut s₀ (execPwrGoodRise p s) :=
  onPin_keeps h (fun _ ht => ite_keeps (modDram_keeps ht) ht)

theorem execPwrGoodTimeout_keeps {p} (h : Keeps s₀ s) : KeepsOut s₀ (execPwrGoodTimeout p s) := by
  unfold execPwrGoodTimeout
  refine onPort_keeps h ?_
  intro _ ht
  split
  · exact ite_keeps (refusePort_keeps ht) ht
  · exact ht

theorem setPresent_keeps (h : Keeps s₀ s) : Keeps s₀ (setPresent p v s) := ite_keeps (setFld_keeps h) (setFld_keeps h)

theorem setSpeed_keeps (h : Keeps s₀ s) : Keeps s₀ (setSpeed p v s) := ite_keeps (setFld_keeps h) (setFld_keeps h)

theorem populate_keeps {two ch1 : Bool} {speed : Nat} {fit all : List SpdSlot} (h : Keeps s₀ s) :
    Keeps s₀ (populate p two ch1 speed fit all s) := by
  unfold populate
  extract_lets s1 s2 s3 kept warm
  have hs1 : Keeps s₀ s1 := setPop_keeps (setSpeed_keeps h)
  have hs3 : Keeps s₀ s3 := modDram_keeps (ite_keeps (engFld_keeps hs1) hs1)
  refine ite_keeps hs3 ?_
  refine ite_keeps (enterService_keeps (srExit_keeps (firstLeaves_keeps hs3))) ?_
  split
  · exact firstLeaves_keeps (setFld_keeps (modDram_keeps (setPstate_keeps hs3)))
  · exact setFld_keeps (modDram_keeps (setPstate_keeps hs3))

theorem spdDone_keeps {spd : List SpdSlot} (h : Keeps s₀ s) : Keeps s₀ (spdDone p spd s) := by
  unfold spdDone
  extract_lets l ch1 cap s1 fit two per same
  have hs1 : Keeps s₀ s1 := setPresent_keeps h
  split
  · exact refusePort_keeps (setPresent_keeps h)
  · refine ite_keeps (refusePort_keeps hs1) ?_
    split
    · exact refusePort_keeps hs1
    · exact populate_keeps hs1

theorem execSpdReadDone_keeps {p spd} (h : Keeps s₀ s) : KeepsOut s₀ (execSpdReadDone p spd s) :=
  onPin_keeps h (fun _ ht => ite_keeps (spdDone_keeps ht) ht)

theorem applyHard_keeps (h : Keeps s₀ s) : Keeps s₀ (applyHard p s) := by
  unfold applyHard
  exact remapStat_keeps (modProt_keeps (modDram_keeps (setFld_keeps (addFld_keeps h))))

theorem execInitDone_keeps {p rfm} (h : Keeps s₀ s) : KeepsOut s₀ (execInitDone p rfm s) :=
  onPin_keeps h (fun _ ht => ite_keeps ht (setPstate_keeps (modDram_keeps (modSched_keeps (setWord_keeps (applyHard_keeps ht))))))

theorem trainedOk_keeps (h : Keeps s₀ s) : Keeps s₀ (trainedOk p s) := ite_keeps (enterService_keeps h) (modDram_keeps h)

theorem execZeroFillDone_keeps {p} (h : Keeps s₀ s) : KeepsOut s₀ (execZeroFillDone p s) :=
  onPort_keeps h (fun _ ht => ite_keeps ht (enterService_keeps (setShed_keeps (modDram_keeps (foldl_keeps ht (fun _ _ ht1 =>
    zeroDimm_keeps ht1))))))

theorem abortPause_keeps (h : Keeps s₀ s) : Keeps s₀ (abortPause p s) := by
  unfold abortPause
  split
  · exact h
  · exact ite_keeps h (addFld_keeps (modSched_keeps h))

theorem execAlert_keeps {p} (h : Keeps s₀ s) : KeepsOut s₀ (execAlert p s) := by
  unfold execAlert
  refine onPin_keeps h ?_
  intro _ ht
  extract_lets d spurious
  have hspurious : Keeps s₀ spurious := addFld_keeps ht
  refine ite_keeps ht ?_
  split
  · exact ite_keeps ht (ite_keeps hspurious (abortPause_keeps (modDram_keeps ht)))
  · exact hspurious
  · exact hspurious
  · exact hspurious
  · exact ht

theorem countAlert_keeps {crc : Bool} (h : Keeps s₀ s) : Keeps s₀ (countAlert p crc s) := by
  unfold countAlert
  exact raise_keeps (modDram_keeps (ite_keeps (addFld_keeps h) (addFld_keeps h)))

theorem execAlertRise_keeps {p clocks} (h : Keeps s₀ s) : KeepsOut s₀ (execAlertRise p clocks s) :=
  onPin_keeps h (fun _ ht => ite_keeps ht (countAlert_keeps (modDram_keeps ht)))

theorem clearParity_keeps {ch : Nat} (h : Keeps s₀ s) : Keeps s₀ (clearParity p ch s) := by
  unfold clearParity
  exact foldl_keeps h (fun _ _ ht => issueOp_keeps ht)

theorem noteReplays_keeps {ch : Nat} (h : Keeps s₀ s) : Keeps s₀ (noteReplays p ch s) := by
  unfold noteReplays
  exact clearParity_keeps (addFld_keeps (modSched_keeps h))

theorem caPause_keeps (h : Keeps s₀ s) : Keeps s₀ (caPause p s) := by
  unfold caPause
  exact modSched_keeps h

theorem alertGo_keeps {ch : Nat} {trainOk : Bool} (h : Keeps s₀ s) : Keeps s₀ (alertGo p ch trainOk s) := by
  unfold alertGo
  extract_lets d s0
  have hs0 : Keeps s₀ s0 := modDram_keeps h
  exact ite_keeps (portHalt_keeps hs0) (ite_keeps (noteReplays_keeps hs0) (ite_keeps (portHalt_keeps hs0) (modDram_keeps
    (caPause_keeps (noteReplays_keeps hs0)))))

theorem execAlertRecoveryDone_keeps {p trainOk} (h : Keeps s₀ s) : KeepsOut s₀ (execAlertRecoveryDone p trainOk s) := by
  unfold execAlertRecoveryDone
  refine onPort_keeps h ?_
  intro _ ht
  split
  · exact ite_keeps (alertGo_keeps ht) ht
  · exact ht

theorem execPwrGoodLost_keeps {p} (h : Keeps s₀ s) : KeepsOut s₀ (execPwrGoodLost p s) :=
  onPin_keeps h (fun _ ht => ite_keeps (portHalt_keeps ht) ht)

theorem execAutoSelfRefresh_keeps {p} (h : Keeps s₀ s) : KeepsOut s₀ (execAutoSelfRefresh p s) :=
  onPort_keeps h (fun _ ht => ite_keeps (srEnter_keeps ht) ht)

theorem execSelfRefreshExit_keeps {p} (h : Keeps s₀ s) : KeepsOut s₀ (execSelfRefreshExit p s) :=
  onPort_keeps h (fun _ ht => ite_keeps (ite_keeps (setFld_keeps (srExit_keeps ht)) (srExit_keeps ht)) ht)

theorem execZqStart_keeps {p rank} (h : Keeps s₀ s) : KeepsOut s₀ (execZqStart p rank s) :=
  onPort_keeps h (fun _ ht => foldl_keeps ht (fun _ _ ht1 => ite_keeps ht1 (modRank_keeps (issueOp_keeps ht1))))

theorem execZqLatch_keeps {p rank} (h : Keeps s₀ s) : KeepsOut s₀ (execZqLatch p rank s) := by
  unfold execZqLatch
  refine onPort_keeps h ?_
  intro _ ht
  refine foldl_keeps ht ?_
  intro _ _ ht1
  split
  · exact ht1
  · exact ite_keeps ht1 (ite_keeps (ite_keeps (issueOp_keeps ht1) ht1) (ite_keeps ht1 (modRank_keeps (issueOp_keeps ht1))))

theorem heard_keeps {dimm : Nat} {c : Int} (h : Keeps s₀ s) : Keeps s₀ (heard p dimm c s) := by
  unfold heard
  extract_lets s1 s2 was mark
  have hs1 : Keeps s₀ s1 := modDram_keeps h
  have hs2 : Keeps s₀ s2 := ite_keeps (heat_keeps hs1) (ite_keeps (modSched_keeps hs1) hs1)
  have hmark : ∀ x t, Keeps s₀ t → Keeps s₀ (mark x t) := fun _ _ ht => modSched_keeps ht
  exact ite_keeps (ite_keeps hs2 (raise_keeps (hmark _ _ hs2))) (hmark _ _ hs2)

theorem polled_keeps {dimm : Nat} {t : Option (BitVec 8)} (h : Keeps s₀ s) : Keeps s₀ (polled p dimm t s) := by
  unfold polled
  extract_lets tf vf
  split
  · exact heard_keeps (setFld_keeps (setFld_keeps h))
  · exact ite_keeps (setFld_keeps (staleHeat_keeps h)) h

theorem execDimmTempPoll_keeps {p t0 t1} (h : Keeps s₀ s) : KeepsOut s₀ (execDimmTempPoll p t0 t1 s) :=
  onPin_keeps h (fun _ ht => ite_keeps ht (polled_keeps (polled_keeps ht)))

theorem execDpCntClear_keeps {p v} (h : Keeps s₀ s) : KeepsOut s₀ (execDpCntClear p v s) :=
  onPort_keeps h (fun _ ht => ite_keeps (setWord_keeps (setWord_keeps (setWord_keeps ht))) ht)

/-! ### Machine/Training -/

theorem pendStat_keeps (h : Keeps s₀ s) : Keeps s₀ (pendStat p s) := setFld_keeps h

theorem setItem_keeps {i : Item} (h : Keeps s₀ s) : Keeps s₀ (setItem p k i s) := pendStat_keeps (modTrain_keeps h)

theorem noteQuality_keeps {first : Bool} {m : Meas} {rej : Bool} (h : Keeps s₀ s) : Keeps s₀ (noteQuality p k first m rej s) := by
  unfold noteQuality
  exact modTrain_keeps h

theorem accept_keeps {m : Meas} (h : Keeps s₀ s) : Keeps s₀ (accept p m s) := by
  unfold accept
  extract_lets k i v s1
  have hs1 : Keeps s₀ s1 := addFld_keeps h
  exact ite_keeps (setItem_keeps (setItem_keeps hs1)) (ite_keeps (setItem_keeps hs1) (setItem_keeps hs1))

theorem logReject_keeps {m : Meas} (h : Keeps s₀ s) : Keeps s₀ (logReject p m s) := by
  unfold logReject
  exact logPush_keeps h

theorem rejectItem_keeps {m : Meas} (h : Keeps s₀ s) : Keeps s₀ (rejectItem p m s).2 := by
  unfold rejectItem
  exact pair_keeps (setItem_keeps (logReject_keeps (setFld_keeps (addFld_keeps h))))

theorem judgeItem_keeps {m : Meas} (h : Keeps s₀ s) : Keeps s₀ (judgeItem p m s) := by
  unfold judgeItem
  refine ite_keeps (accept_keeps h) ?_
  extract_lets r
  have hr : Keeps s₀ r.2 := rejectItem_keeps h
  exact ite_keeps (raise_keeps (setFld_keeps hr)) hr

theorem judgeAll_keeps {p : Nat} {seen : List Nat} {l : List Meas} (h : Keeps s₀ s) : Keeps s₀ (judgeAll p seen l s) := by
  induction l generalizing seen s with
  | nil => unfold judgeAll; exact h
  | cons m l ih =>
    unfold judgeAll
    extract_lets kind ok s1
    clear_value kind
    split
    · exact ih (judgeItem_keeps h)
    · exact ih (noteQuality_keeps (judgeItem_keeps h))

theorem loadTiming_keeps {w : BitVec 32} (h : Keeps s₀ s) : Keeps s₀ (loadTiming p k w s) := by
  unfold loadTiming
  extract_lets off v s1
  have hs1 : Keeps s₀ s1 := engWord_keeps h
  exact hs1.upd rfl

theorem loadTimings_keeps {p k : Nat} {l : List (BitVec 32)} (h : Keeps s₀ s) : Keeps s₀ (loadTimings p k l s) := by
  induction l generalizing k s with
  | nil => unfold loadTimings; exact h
  | cons w l ih =>
    unfold loadTimings
    exact ite_keeps (ih (loadTiming_keeps h)) h

theorem trainingDone_keeps {failed : Nat} {timing : List (BitVec 32)} (h : Keeps s₀ s) :
    Keeps s₀ (trainingDone p failed timing s) :=
  ite_keeps (refusePort_keeps (setFld_keeps h)) (trainedOk_keeps (loadTimings_keeps (setFld_keeps h)))

theorem execInitialTrainingDone_keeps {p failed timing} (h : Keeps s₀ s) :
    KeepsOut s₀ (execInitialTrainingDone p failed timing s) :=
  onPin_keeps h (fun _ ht => ite_keeps (trainingDone_keeps ht) ht)

theorem startRound_keeps (h : Keeps s₀ s) : Keeps s₀ (startRound p s) := by
  unfold startRound
  exact setFld_keeps (modTrain_keeps (modSched_keeps h))

theorem endRound_keeps (h : Keeps s₀ s) : Keeps s₀ (endRound p s) := by
  unfold endRound
  exact foldl_keeps (setFld_keeps (modTrain_keeps h)) (fun _ _ ht => endHandle_keeps ht)

theorem applyPend_keeps {rank : Option Nat} (h : Keeps s₀ s) : Keeps s₀ (applyPend p rank s) := by
  unfold applyPend
  exact pendStat_keeps (modTrain_keeps h)

theorem execTrackingRound_keeps {p} (h : Keeps s₀ s) : KeepsOut s₀ (execTrackingRound p s) := by
  unfold execTrackingRound
  refine onPort_keeps h ?_
  intro _ ht
  extract_lets s0 t
  have hs0 : Keeps s₀ s0 := ite_keeps (applyPend_keeps ht) ht
  exact ite_keeps (startRound_keeps hs0) hs0

theorem endPause_keeps (h : Keeps s₀ s) : Keeps s₀ (endPause p s) := by
  unfold endPause
  extract_lets s1
  have hs1 : Keeps s₀ s1 := modTrain_keeps (modSched_keeps h)
  exact ite_keeps (endRound_keeps hs1) hs1

theorem execTrackReadPause_keeps {p ms} (h : Keeps s₀ s) : KeepsOut s₀ (execTrackReadPause p ms s) := by
  unfold execTrackReadPause
  refine onPin_keeps h ?_
  intro _ ht
  split
  · exact ht
  · exact endPause_keeps (judgeAll_keeps (applyPend_keeps ht))

theorem saveLine_keeps {err : Burst} (h : Keeps s₀ s) : Keeps s₀ (saveLine p la err s).2 := by
  unfold saveLine
  extract_lets st d
  split
  · exact pair_keeps (addFld_keeps (noteDecode_keeps h))
  · exact pair_keeps (storeLine_keeps (noteDecode_keeps h))

theorem execTrackWritePause_keeps {p ms err0 err1} (h : Keeps s₀ s) : KeepsOut s₀ (execTrackWritePause p ms err0 err1 s) := by
  unfold execTrackWritePause
  refine onPin_keeps h ?_
  intro _ ht
  split
  · exact ht
  · exact endPause_keeps (judgeAll_keeps (saveLine_keeps (saveLine_keeps (applyPend_keeps ht))))

theorem execTrackOscPause_keeps {p ms} (h : Keeps s₀ s) : KeepsOut s₀ (execTrackOscPause p ms s) := by
  unfold execTrackOscPause
  refine onPin_keeps h ?_
  intro _ ht
  split
  · exact ht
  · exact endPause_keeps (judgeAll_keeps (applyPend_keeps ht))

theorem laneSoak_keeps {j : Nat} {r : SoakResult} (h : Keeps s₀ s) : Keeps s₀ (laneSoak p j r s) := by
  unfold laneSoak
  exact noteQuality_keeps (modLink_keeps h)

theorem execLaneSoak_keeps {p lane r} (h : Keeps s₀ s) : KeepsOut s₀ (execLaneSoak p lane r s) :=
  onPin_keeps h (fun _ ht => ite_keeps (laneSoak_keeps ht) ht)

theorem execDriftClamp_keeps {p lane} (h : Keeps s₀ s) : KeepsOut s₀ (execDriftClamp p lane s) :=
  onPort_keeps h (fun _ ht => ite_keeps ht (addFld_keeps (modLink_keeps ht)))

theorem execTrCntClear_keeps {p v} (h : Keeps s₀ s) : KeepsOut s₀ (execTrCntClear p v s) :=
  onPort_keeps h (fun _ ht => ite_keeps (setWord_keeps (setWord_keeps ht)) ht)

/-! ### Machine/Image -/

theorem imagePut_keeps {ws : List Nat} (h : Keeps s₀ s) : Keeps s₀ (imagePut k ws s) := by
  unfold imagePut
  exact ite_keeps h (foldl_keeps (ite_keeps h (bbrOpen_keeps h)) (fun _ _ ht => setImage_keeps ht))

theorem saveTrims_keeps (h : Keeps s₀ s) : Keeps s₀ (saveTrims s p) := ite_keeps h (imagePut_keeps h)

theorem recVoid_keeps (h : Keeps s₀ s) : Keeps s₀ (recVoid p s) := by
  unfold recVoid
  exact imagePut_keeps h

theorem loadTrims_keeps (h : Keeps s₀ s) : Keeps s₀ (loadTrims p s) := by
  unfold loadTrims
  extract_lets b word reg
  have hreg : ∀ x x1 t, Keeps s₀ t → Keeps s₀ (reg x x1 t) := fun _ _ _ ht => engWord_keeps ht
  exact ite_keeps (modLink_keeps (setFld_keeps (setFld_keeps (engFld_keeps (engFld_keeps (hreg _ _ _ (hreg _ _ _ (hreg _ _ _ (hreg _
    _ _ h))))))))) (modTrain_keeps (engFld_keeps h))

theorem savePool_keeps (h : Keeps s₀ s) : Keeps s₀ (savePool s) := imagePut_keeps h

theorem loadPool_keeps (h : Keeps s₀ s) : Keeps s₀ (loadPool p s) := by
  unfold loadPool
  exact remapStat_keeps (modProt_keeps h)

theorem saveImages_keeps (h : Keeps s₀ s) : Keeps s₀ (saveImages s) :=
  savePool_keeps (foldl_keeps h (fun _ _ ht => saveTrims_keeps ht))

theorem bbrStat_keeps {bit : Nat} {b : Bool} (h : Keeps s₀ s) : Keeps s₀ (bbrStat bit b s) := setBbr_keeps h

theorem commitImage_keeps {states : List Nat} (h : Keeps s₀ s) : Keeps s₀ (commitImage states s) := by
  unfold commitImage
  exact setBbr_keeps (setBbr_keeps (bbrStat_keeps (bbrStat_keeps (bbrStat_keeps (setBbr_keeps (savePool_keeps (foldl_keeps h (fun _
    _ ht => setImage_keeps ht))))))))

/-! ### Machine/Serial -/

theorem modLane_keeps {rx : Bool} {j : Nat} {g : Lane → Lane} (h : Keeps s₀ s) : Keeps s₀ (modLane p rx j g s) := modLink_keeps h

theorem setSpare_keeps {rx : Bool} {u : SpareUse} (h : Keeps s₀ s) : Keeps s₀ (setSpare p rx u s) := by
  unfold setSpare
  exact setFld_keeps (modLink_keeps h)

theorem setMap_keeps {rx : Bool} (h : Keeps s₀ s) : Keeps s₀ (setMap p rx v s) := ite_keeps (setFld_keeps h) (setFld_keeps h)

theorem mapLane_keeps {rx : Bool} {j : Nat} (h : Keeps s₀ s) : Keeps s₀ (mapLane p rx k j s) := setMap_keeps h

theorem badBit_keeps {rx : Bool} {j b : Nat} (h : Keeps s₀ s) : Keeps s₀ (badBit p rx j b s) :=
  ite_keeps (setFld_keeps h) (setFld_keeps h)

theorem lanesDown_keeps (h : Keeps s₀ s) : Keeps s₀ (lanesDown p s) := by
  unfold lanesDown
  exact setSpare_keeps (setSpare_keeps (setFld_keeps (setFld_keeps (setMap_keeps (setMap_keeps (modLink_keeps h))))))

theorem linkLoss_keeps (h : Keeps s₀ s) : Keeps s₀ (linkLoss p s) := by
  unfold linkLoss
  refine ite_keeps h ?_
  extract_lets s1 s2 s3 s4 s5
  have hs1 : Keeps s₀ s1 := abortPause_keeps h
  have hs4 : Keeps s₀ s4 := modLink_keeps (lanesDown_keeps (modMarks_keeps (setFld_keeps (ite_keeps hs1 (modLink_keeps hs1)))))
  exact raise_keeps (addFld_keeps (ite_keeps hs4 (setPstate_keeps hs4)))

theorem endLoop_keeps (h : Keeps s₀ s) : Keeps s₀ (endLoop p s) := by
  unfold endLoop
  split
  · exact h
  · extract_lets s1 e
    have hs1 : Keeps s₀ s1 := modLink_keeps (addFld_keeps h)
    split
    · exact endHandle_keeps (drawFree_keeps hs1)
    · exact hs1

theorem shadow_keeps {rx : Bool} (h : Keeps s₀ s) : Keeps s₀ (shadow p rx k s) := by
  unfold shadow
  exact setSpare_keeps (sendPacket_keeps (endLoop_keeps h))

theorem laneFault_keeps {rx : Bool} {j : Nat} (h : Keeps s₀ s) : Keeps s₀ (laneFault p rx j s) := by
  unfold laneFault
  extract_lets s1
  have hs1 : Keeps s₀ s1 := badBit_keeps (modLane_keeps h)
  refine ite_keeps ?_ ?_
  · split
    · exact linkLoss_keeps hs1
    · exact setSpare_keeps (modLink_keeps hs1)
  · split
    · exact hs1
    · split
      · exact linkLoss_keeps hs1
      · exact shadow_keeps hs1

theorem laneWeak_keeps {rx : Bool} {j : Nat} (h : Keeps s₀ s) : Keeps s₀ (laneWeak p rx j s) := by
  unfold laneWeak
  extract_lets s1
  have hs1 : Keeps s₀ s1 := badBit_keeps (modLane_keeps h)
  split
  · exact shadow_keeps hs1
  · exact hs1

theorem execLaneLockLoss_keeps {p lane} (h : Keeps s₀ s) : KeepsOut s₀ (execLaneLockLoss p lane s) := by
  unfold execLaneLockLoss
  refine onPin_keeps h ?_
  intro _ ht
  refine ite_keeps ht ?_
  extract_lets s1 s2
  have hs1 : Keeps s₀ s1 := setFld_keeps (modLane_keeps ht)
  exact ite_keeps hs1 (laneFault_keeps (ite_keeps (sendPacket_keeps (modLink_keeps hs1)) hs1))

theorem execLaneLockAcquired_keeps {p lane} (h : Keeps s₀ s) : KeepsOut s₀ (execLaneLockAcquired p lane s) :=
  onPin_keeps h (fun _ ht => ite_keeps ht (setFld_keeps (modLane_keeps ht)))

theorem execLaneWeak_keeps {p lane symbols uncorrectable} (h : Keeps s₀ s) :
    KeepsOut s₀ (execLaneWeak p lane symbols uncorrectable s) := by
  unfold execLaneWeak
  refine onPin_keeps h ?_
  intro _ ht
  refine ite_keeps ht ?_
  extract_lets s1
  have hs1 : Keeps s₀ s1 := addFld_keeps ht
  exact ite_keeps (laneFault_keeps hs1) (ite_keeps (laneWeak_keeps hs1) hs1)

theorem spareSwitch_keeps {rx : Bool} (h : Keeps s₀ s) : Keeps s₀ (spareSwitch p rx s) := by
  unfold spareSwitch
  split
  · extract_lets old was s1 s2
    have hs2 : Keeps s₀ s2 := modLink_keeps (mapLane_keeps (setSpare_keeps h))
    exact ite_keeps (raise_keeps (addFld_keeps hs2)) (raise_keeps hs2)
  · exact h

theorem execSpareSwitch_keeps {p dir} (h : Keeps s₀ s) : KeepsOut s₀ (execSpareSwitch p dir s) :=
  onPin_keeps h (fun _ ht => ite_keeps (spareSwitch_keeps ht) ht)

theorem execTakeoverTimeout_keeps {p dir} (h : Keeps s₀ s) : KeepsOut s₀ (execTakeoverTimeout p dir s) := by
  unfold execTakeoverTimeout
  refine onPort_keeps h ?_
  intro _ ht
  split
  · exact ite_keeps (linkLoss_keeps ht) ht
  · exact ht

theorem execRecalTurn_keeps {p dir} (h : Keeps s₀ s) : KeepsOut s₀ (execRecalTurn p dir s) :=
  onPort_keeps h (fun _ ht => ite_keeps ht (modLink_keeps (setSpare_keeps ht)))

theorem judgeLane_keeps {rx : Bool} {j : Nat} {m : Meas} (h : Keeps s₀ s) : Keeps s₀ (judgeLane p rx j m s) := by
  unfold judgeLane
  refine ite_keeps (accept_keeps h) ?_
  extract_lets r
  have hr : Keeps s₀ r.2 := rejectItem_keeps h
  exact ite_keeps (laneWeak_keeps hr) hr

theorem judgeTurn_keeps {p j : Nat} {rx first : Bool} {l : List Meas} (h : Keeps s₀ s) :
    Keeps s₀ (judgeTurn p rx j first l s) := by
  induction l generalizing first s with
  | nil => unfold judgeTurn; exact h
  | cons m l ih =>
    unfold judgeTurn
    exact ih (noteQuality_keeps (judgeLane_keeps h))

theorem execRecalReturn_keeps {p dir runs} (h : Keeps s₀ s) : KeepsOut s₀ (execRecalReturn p dir runs s) := by
  unfold execRecalReturn
  refine onPin_keeps h ?_
  intro _ ht
  split
  · extract_lets j s1 s2
    have hs1 : Keeps s₀ s1 := setSpare_keeps ht
    exact sendPacket_keeps (modLink_keeps (ite_keeps (judgeTurn_keeps hs1) hs1))
  · exact ht

theorem linkMap_keeps {rx tx : List Nat} (h : Keeps s₀ s) : Keeps s₀ (linkMap p rx tx s) := by
  unfold linkMap
  extract_lets full n clean s1 s2
  have hs2 : Keeps s₀ s2 := setFld_keeps (setFld_keeps (setFld_keeps (setFld_keeps (setMap_keeps (setMap_keeps (modLink_keeps
    h))))))
  exact ite_keeps hs2 (raise_keeps hs2)

theorem resetSeq_keeps (h : Keeps s₀ s) : Keeps s₀ (resetSeq p s) := modLink_keeps h

theorem linkup_keeps {rx tx : BitVec 9} (h : Keeps s₀ s) : Keeps s₀ (linkup p rx tx s) := by
  unfold linkup
  exact ite_keeps h (ite_keeps (resetSeq_keeps (modLink_keeps (linkMap_keeps h))) (ite_keeps (linkMap_keeps h) h))

theorem execLinkup_keeps {p rx tx} (h : Keeps s₀ s) : KeepsOut s₀ (execLinkup p rx tx s) :=
  onPin_keeps h (fun _ ht => ite_keeps (linkup_keeps ht) ht)

theorem ackTo_keeps {ack : BitVec 12} (h : Keeps s₀ s) : Keeps s₀ (ackTo p ack s) := by
  unfold ackTo
  exact ite_keeps h (modLink_keeps h)

theorem voidMarks_keeps (h : Keeps s₀ s) : Keeps s₀ (voidMarks p s) := by
  unfold voidMarks
  exact ite_keeps (modMarks_keeps h) h

theorem resumeFrom_keeps {seq : BitVec 12} (h : Keeps s₀ s) : Keeps s₀ (resumeFrom p seq s) := by
  unfold resumeFrom
  extract_lets k go s1 s2
  have hgo : ∀ t, Keeps s₀ t → Keeps s₀ (go t) := fun _ ht => modMarks_keeps (modLink_keeps ht)
  have hs1 : Keeps s₀ s1 := voidMarks_keeps (ackTo_keeps h)
  have hs2 : Keeps s₀ s2 := ite_keeps hs1 (addFld_keeps hs1)
  exact ite_keeps h (ite_keeps (hgo _ (resetSeq_keeps h)) (ite_keeps (linkLoss_keeps h) (ite_keeps (alignedNow_keeps (hgo _ hs2))
    (hgo _ hs2))))

theorem execRelink_keeps {p seq} (h : Keeps s₀ s) : KeepsOut s₀ (execRelink p seq s) :=
  onPin_keeps h (fun _ ht => resumeFrom_keeps ht)

theorem execResume_keeps {p seq _lost sr} (h : Keeps s₀ s) : KeepsOut s₀ (execResume p seq _lost sr s) := by
  unfold execResume
  refine onPin_keeps h ?_
  intro _ ht
  refine ite_keeps ht ?_
  extract_lets s1 s2
  have hs1 : Keeps s₀ s1 := modLink_keeps ht
  exact resumeFrom_keeps (ite_keeps (modSched_keeps hs1) hs1)

theorem execLinkTimeout_keeps {p} (h : Keeps s₀ s) : KeepsOut s₀ (execLinkTimeout p s) :=
  onPort_keeps h (fun _ ht => ite_keeps ht (modLink_keeps (addFld_keeps (failAll_keeps (goodAll_keeps ht)))))

theorem execLinkUpTimeout_keeps {p} (h : Keeps s₀ s) : KeepsOut s₀ (execLinkUpTimeout p s) :=
  onPort_keeps h (fun _ ht => ite_keeps (refusePort_keeps ht) ht)

theorem rateChange_keeps (h : Keeps s₀ s) : Keeps s₀ (rateChange p s) := by
  unfold rateChange
  extract_lets q queued s1 s12
  have hs12 : Keeps s₀ s12 := modSched_keeps h
  split
  · exact ite_keeps h (ite_keeps (ite_keeps h (modMarks_keeps (setFld_keeps (modLink_keeps (sendPacket_keeps h))))) (ite_keeps
      (ite_keeps hs12 (addFld_keeps hs12)) h))
  · exact ite_keeps (modSched_keeps h) h

theorem execRateChange_keeps {p} (h : Keeps s₀ s) : KeepsOut s₀ (execRateChange p s) :=
  onPort_keeps h (fun _ ht => rateChange_keeps ht)

theorem rxPacket_keeps (h : Keeps s₀ s) : Keeps s₀ (rxPacket p s) := modLink_keeps h

theorem onLink_keeps {p : Fin 20} {f : State → State} (h : Keeps s₀ s) (hf : ∀ t, Keeps s₀ t → Keeps s₀ (f t)) :
    KeepsOut s₀ (onLink p s f) :=
  onPin_keeps h (fun _ ht => ite_keeps (hf _ (rxPacket_keeps ht)) ht)

theorem linkProto_keeps (h : Keeps s₀ s) : Keeps s₀ (linkProto p s) := raise_keeps (addFld_keeps h)

theorem execPacketReserved_keeps {p} (h : Keeps s₀ s) : KeepsOut s₀ (execPacketReserved p s) :=
  onLink_keeps h (fun _ ht => linkProto_keeps ht)

theorem execPacketCrcFail_keeps {p} (h : Keeps s₀ s) : KeepsOut s₀ (execPacketCrcFail p s) := by
  unfold execPacketCrcFail
  refine onPin_keeps h ?_
  intro _ ht
  refine ite_keeps ht ?_
  extract_lets s1
  have hs1 : Keeps s₀ s1 := addFld_keeps ht
  exact ite_keeps hs1 (sendPacket_keeps (modLink_keeps hs1))

theorem execNakRepeat_keeps {p} (h : Keeps s₀ s) : KeepsOut s₀ (execNakRepeat p s) :=
  onPort_keeps h (fun _ ht => ite_keeps (sendPacket_keeps (modLink_keeps ht)) ht)

theorem execNak_keeps {p ack} (h : Keeps s₀ s) : KeepsOut s₀ (execNak p ack s) := by
  unfold execNak
  refine onLink_keeps h ?_
  intro _ ht
  extract_lets s1 k n s2
  have hs2 : Keeps s₀ s2 := voidMarks_keeps (addFld_keeps (modLink_keeps (ackTo_keeps ht)))
  exact ite_keeps (linkLoss_keeps hs2) hs2

theorem execCreditAck_keeps {p ack ctlcr} (h : Keeps s₀ s) : KeepsOut s₀ (execCreditAck p ack ctlcr s) :=
  onLink_keeps h (fun _ ht => ackTo_keeps (modLink_keeps ht))

theorem identified_keeps {kind : Nat} (h : Keeps s₀ s) : Keeps s₀ (identified p kind s) := by
  unfold identified
  refine ite_keeps (refusePort_keeps h) ?_
  refine ite_keeps (refusePort_keeps h) ?_
  extract_lets s1 a
  have hs1 : Keeps s₀ s1 := setFld_keeps h
  exact ite_keeps (setPstate_keeps (modDram_keeps hs1)) (modMarks_keeps (setPstate_keeps (engFld_keeps (drawFree_keeps hs1))))

theorem execCap_keeps {p index content} (h : Keeps s₀ s) : KeepsOut s₀ (execCap p index content s) := by
  unfold execCap
  refine onLink_keeps h ?_
  intro _ ht
  extract_lets s1
  have hs1 : Keeps s₀ s1 := modLink_keeps ht
  exact ite_keeps (identified_keeps hs1) hs1

theorem executed_keeps {p sub stamp} (h : Keeps s₀ s) : Keeps s₀ (executed p sub stamp s) := by
  unfold executed
  split
  · exact h
  · exact goodAll_keeps h

theorem execReadDataPacket_keeps {p sub stamp poison data} (h : Keeps s₀ s) :
    KeepsOut s₀ (execReadDataPacket p sub stamp poison data s) := by
  unfold execReadDataPacket
  refine onLink_keeps h ?_
  intro _ ht
  extract_lets s1
  have hs1 : Keeps s₀ s1 := executed_keeps ht
  split
  · exact linkProto_keeps hs1
  · exact ite_keeps (landFlight_keeps (modSched_keeps hs1)) (modSched_keeps hs1)

theorem execReadDataLost_keeps {p id} (h : Keeps s₀ s) : KeepsOut s₀ (execReadDataLost p id s) := by
  unfold execReadDataLost
  refine onPort_keeps h ?_
  intro _ ht
  refine ite_keeps ht ?_
  split
  · exact ht
  · rename_i _ v hv
    replace hv : Keeps s₀ v := (takeFlight_keeps ht) _ hv
    exact ite_keeps (failOne_keeps (addFld_keeps hv)) (modSched_keeps hv)

theorem execErr_keeps {p kind sub stamp sym} (h : Keeps s₀ s) : KeepsOut s₀ (execErr p kind sub stamp sym s) := by
  unfold execErr
  refine onLink_keeps h ?_
  intro _ ht
  refine ite_keeps (linkProto_keeps ht) ?_
  extract_lets s1 n
  have hs1 : Keeps s₀ s1 := executed_keeps ht
  split
  · exact linkProto_keeps hs1
  · exact modSched_keeps (drawFree_keeps hs1)

theorem restamp_keeps {i : Issued} {late : Bool} (h : Keeps s₀ s) : Keeps s₀ (restamp p i late s) := by
  unfold restamp
  exact addFld_keeps (modSched_keeps h)

theorem refusedFar_keeps {i : Issued} (h : Keeps s₀ s) : Keeps s₀ (refusedFar p i s) := by
  unfold refusedFar
  split
  · exact restamp_keeps h
  · exact ite_keeps (failOne_keeps (modSched_keeps h)) (restamp_keeps (modLink_keeps h))

theorem execRefuse_keeps {p code sub stamp} (h : Keeps s₀ s) : KeepsOut s₀ (execRefuse p code sub stamp s) := by
  unfold execRefuse
  refine onLink_keeps h ?_
  intro _ ht
  split
  · exact linkProto_keeps ht
  · split
    · exact restamp_keeps (addFld_keeps ht)
    · exact restamp_keeps ht
    · exact refusedFar_keeps (linkProto_keeps ht)
    · exact refusedFar_keeps (linkProto_keeps ht)
    · exact restamp_keeps (modMarks_keeps (setFld_keeps ht))
    · exact linkProto_keeps ht

theorem goodBefore_keeps {ch : Nat} {stamp : BitVec 28} (h : Keeps s₀ s) : Keeps s₀ (goodBefore p ch stamp s) := by
  unfold goodBefore
  extract_lets mine early
  refine ite_keeps h ?_
  refine foldl_keeps h ?_
  intro _ _ ht
  extract_lets t1
  have ht1 : Keeps s₀ t1 := modSched_keeps ht
  split
  · exact ht1
  · exact colEffect_keeps ht1

theorem execAlertPacket_keeps {p channel crc stamp} (h : Keeps s₀ s) : KeepsOut s₀ (execAlertPacket p channel crc stamp s) := by
  unfold execAlertPacket
  refine onLink_keeps h ?_
  intro _ ht
  extract_lets ch s1 d
  have hs1 : Keeps s₀ s1 := abortPause_keeps (goodBefore_keeps (countAlert_keeps ht))
  split
  · exact ite_keeps (alertGo_keeps hs1) (modDram_keeps hs1)
  · exact addFld_keeps ht
  · exact addFld_keeps ht
  · exact addFld_keeps ht
  · exact ht

theorem tempOne_keeps {t : BitVec 32} {valid : BitVec 4} {d : Nat} (h : Keeps s₀ s) : Keeps s₀ (tempOne p t valid s d) :=
  ite_keeps (heard_keeps (setFld_keeps (setFld_keeps h))) (ite_keeps (setFld_keeps (staleHeat_keeps h)) h)

theorem execTemp_keeps {p t valid} (h : Keeps s₀ s) : KeepsOut s₀ (execTemp p t valid s) :=
  onLink_keeps h (fun _ ht => foldl_keeps ht (fun _ _ ht1 => tempOne_keeps ht1))

theorem execLaneFault_keeps {p lane weak} (h : Keeps s₀ s) : KeepsOut s₀ (execLaneFault p lane weak s) :=
  onLink_keeps h (fun _ ht => ite_keeps (laneWeak_keeps ht) (laneFault_keeps ht))

theorem execRegData_keeps {p reg val} (h : Keeps s₀ s) : KeepsOut s₀ (execRegData p reg val s) :=
  onLink_keeps h (fun _ ht => modLink_keeps ht)

theorem execMrrData_keeps {p stamp val sub} (h : Keeps s₀ s) : KeepsOut s₀ (execMrrData p stamp val sub s) :=
  onLink_keeps h (fun _ ht => ite_keeps (modLink_keeps ht) (linkProto_keeps ht))

theorem execPwr_keeps {p dimms} (h : Keeps s₀ s) : KeepsOut s₀ (execPwr p dimms s) :=
  onLink_keeps h (fun _ ht => ite_keeps (portHalt_keeps ht) ht)

theorem execCodeUpdate_keeps {p} (h : Keeps s₀ s) : KeepsOut s₀ (execCodeUpdate p s) :=
  onPort_keeps h (fun _ ht => ite_keeps ht (modLink_keeps (sendPacket_keeps ht)))

theorem execSlCntClear_keeps {p v} (h : Keeps s₀ s) : KeepsOut s₀ (execSlCntClear p v s) :=
  onPort_keeps h (fun _ ht => ite_keeps (setWord_keeps (setWord_keeps (setWord_keeps ht))) ht)

theorem execLinkLoopDone_keeps {p bitErrors} (h : Keeps s₀ s) : KeepsOut s₀ (execLinkLoopDone p bitErrors s) := by
  unfold execLinkLoopDone
  refine onPort_keeps h ?_
  intro _ ht
  split
  · refine ite_keeps ht ?_
    extract_lets keep s1
    have hs1 : Keeps s₀ s1 := modLink_keeps (addFld_keeps ht)
    split
    · exact endHandle_keeps hs1
    · exact hs1
  · exact ht

/-! ### Machine/HostRun -/

theorem ringTake_keeps {q : Nat} (h : Keeps s₀ s) : Keeps s₀ (ringTake q s) := by
  unfold ringTake
  exact hostStat_keeps (setFld_keeps (setFld_keeps (setFld_keeps (modQueue_keeps (setHandle_keeps (h.upd rfl))))))

theorem ring_keeps {q : Nat} {v : Word} (h : Keeps s₀ s) : Keeps s₀ (ring q v s) := by
  unfold ring
  refine ite_keeps h ?_
  split
  · exact ringTake_keeps h
  · exact addFld_keeps (setFld_keeps (setFld_keeps h))

theorem execDoorbell_keeps {q v} (h : Keeps s₀ s) : KeepsOut s₀ (execDoorbell q v s) :=
  next_keeps (settle_keeps (ring_keeps (ite_keeps (wake_keeps h) (ite_keeps (wake_keeps h) h))))

theorem described_keeps {w : SWord} (h : Keeps s₀ s) : Keeps s₀ (described k w s) := by
  unfold described
  extract_lets h0 l hd s1
  have hs1 : Keeps s₀ s1 := setHandle_keeps h
  split
  · exact endHandle_keeps hs1
  · exact hs1

theorem descriptorRead_keeps {q : Nat} (h : Keeps s₀ s) : Keeps s₀ (descriptorRead q s) := by
  unfold descriptorRead
  refine ite_keeps h ?_
  split
  · exact h
  · extract_lets a s1 x
    have hs1 : Keeps s₀ s1 := modStall_keeps (checkStall_keeps h)
    split
    · exact takePair_keeps hs1
    · extract_lets s2
      have hs2 : Keeps s₀ s2 := modQueue_keeps (putStall_keeps hs1)
      exact ite_keeps hs2 (described_keeps hs2)

theorem execDescriptorRead_keeps {q} (h : Keeps s₀ s) : KeepsOut s₀ (execDescriptorRead q s) :=
  next_keeps (settle_keeps (descriptorRead_keeps h))

theorem hostCommand_keeps {opc : Nat} {body : Handle → State → State} (hbody : ∀ x t, Keeps s₀ t → Keeps s₀ (body x t)) (h : Keeps
    s₀ s) :
    Keeps s₀ (hostCommand k opc body s) :=
  ite_keeps h (hbody _ _ (modHandle_keeps (active_keeps h)))

theorem hostLong_keeps {opc : Nat} {first more : Handle → State → State} (hfirst : ∀ x t, Keeps s₀ t → Keeps s₀ (first x t)) (hmore
    : ∀ x t, Keeps s₀ t → Keeps s₀ (more x t)) (h : Keeps s₀ s) :
    Keeps s₀ (hostLong k opc first more s) := by
  unfold hostLong
  exact ite_keeps (hmore _ _ h) (hostCommand_keeps (fun _ _ ht => hfirst _ _ ht) h)

theorem pushRecord_keeps {q : Nat} (h : Keeps s₀ s) : Keeps s₀ (pushRecord q s) := by
  unfold pushRecord
  split
  · exact setFld_keeps h
  · extract_lets a s0 pos items s1 hd s2 more s3
    have hs0 : Keeps s₀ s0 := checkStall_keeps h
    have hs2 : Keeps s₀ s2 := modQueue_keeps (setHandle_keeps (pushItems_keeps hs0))
    have hs3 : Keeps s₀ s3 := setFld_keeps (ite_keeps hs2 (setFld_keeps hs2))
    exact ite_keeps (setFld_keeps hs0) (ite_keeps (raise_keeps hs3) hs3)

theorem pushAll_keeps {q n : Nat} (h : Keeps s₀ s) : Keeps s₀ (pushAll q n s) := by
  induction n generalizing s with
  | zero => exact h
  | succ n ih =>
    unfold pushAll
    exact ite_keeps h (ih (pushRecord_keeps h))

theorem execCompletionPush_keeps {q} (h : Keeps s₀ s) : KeepsOut s₀ (execCompletionPush q s) :=
  next_keeps (ite_keeps h (settle_keeps (pushRecord_keeps h)))

/-! ### Machine/Protect -/

theorem execGatherClose_keeps {p e} (h : Keeps s₀ s) : KeepsOut s₀ (execGatherClose p e s) := by
  unfold execGatherClose
  refine onPort_keeps h ?_
  intro _ ht
  split
  · exact ht
  · exact ite_keeps (closeEntry_keeps ht) ht

theorem execRmwReadDone_keeps {p e err} (h : Keeps s₀ s) : KeepsOut s₀ (execRmwReadDone p e err s) := by
  unfold execRmwReadDone
  refine onPort_keeps h ?_
  intro _ ht
  split
  · exact ht
  · rename_i _ v hv
    replace hv : Keeps s₀ v := (takeFlight_keeps ht) _ hv
    exact rmwFinish_keeps hv

theorem execScrubVisit_keeps {p} (h : Keeps s₀ s) : KeepsOut s₀ (execScrubVisit p s) := by
  unfold execScrubVisit
  refine onPort_keeps h ?_
  intro _ ht
  extract_lets q n s0 q0 la due i r late
  have hs0 : Keeps s₀ s0 := ite_keeps (modProt_keeps ht) ht
  exact ite_keeps ht (ite_keeps (modProt_keeps hs0) (ite_keeps (modProt_keeps hs0) (modProt_keeps (modSched_keeps (newId_keeps
    hs0)))))

theorem passEnd_keeps (h : Keeps s₀ s) : Keeps s₀ (passEnd p s) := by
  unfold passEnd
  extract_lets q s1 late s2
  have hs1 : Keeps s₀ s1 := addFld_keeps (setFld_keeps h)
  exact modProt_keeps (ite_keeps (raise_keeps (setFld_keeps hs1)) hs1)

theorem autoMark_keeps {dev : Nat} (h : Keeps s₀ s) : Keeps s₀ (autoMark p k dev la s) := by
  unfold autoMark
  extract_lets mode src f
  refine ite_keeps h ?_
  split
  · exact raise_keeps (logPort_keeps h)
  · exact raise_keeps (logPort_keeps (addFld_keeps (marksNew_keeps (engFld_keeps h))))

theorem feedDevice_keeps {dev : Option Nat} (h : Keeps s₀ s) : Keeps s₀ (feedDevice p la dev s) := by
  unfold feedDevice
  split
  · exact h
  · extract_lets k key n s1
    have hs1 : Keeps s₀ s1 := modProt_keeps h
    exact ite_keeps (autoMark_keeps hs1) hs1

theorem feedRow_keeps (h : Keeps s₀ s) : Keeps s₀ (feedRow p la s) := by
  unfold feedRow
  extract_lets l key q old cols rest s1
  have hs1 : Keeps s₀ s1 := modProt_keeps h
  exact ite_keeps (remapTrigger_keeps hs1) hs1

theorem visitOutcome_keeps {d : Dec × Line} {s1 : State} (h : Keeps s₀ s1) : Keeps s₀ (visitOutcome p la d s1) := by
  unfold visitOutcome
  split
  · exact h
  · exact h
  · exact feedRow_keeps (feedDevice_keeps (noteDecode_keeps (storeLine_keeps h)))
  · exact feedRow_keeps (feedDevice_keeps (noteDecode_keeps (storeLine_keeps h)))
  · exact noteDecode_keeps (storePoisoned_keeps h)

theorem execScrubVisitDone_keeps {p err} (h : Keeps s₀ s) : KeepsOut s₀ (execScrubVisitDone p err s) := by
  unfold execScrubVisitDone
  refine onPort_keeps h ?_
  intro _ ht
  split
  · exact ht
  · rename_i _ v hv
    replace hv : Keeps s₀ v := (takeFlight_keeps ht) _ hv
    extract_lets la d s2 s3 pos total
    have hs3 : Keeps s₀ s3 := modProt_keeps (visitOutcome_keeps hv)
    exact ite_keeps (passEnd_keeps hs3) (setFld_keeps hs3)

theorem execCeWindowExpire_keeps {p} (h : Keeps s₀ s) : KeepsOut s₀ (execCeWindowExpire p s) := by
  unfold execCeWindowExpire
  refine onPort_keeps h ?_
  intro _ ht
  split
  · exact ite_keeps (modProt_keeps ht) ht
  · exact ht

theorem execCeThRaise_keeps {p} (h : Keeps s₀ s) : KeepsOut s₀ (execCeThRaise p s) :=
  onPort_keeps h (fun _ ht => ite_keeps (ceThRaise_keeps ht) ht)

theorem execLogTailWrite_keeps {k v} (h : Keeps s₀ s) : KeepsOut s₀ (execLogTailWrite k v s) := next_keeps (ite_keeps h (h.upd rfl))

theorem execElLostClear_keeps {v} (h : Keeps s₀ s) : KeepsOut s₀ (execElLostClear v s) := next_keeps (h.upd rfl)

theorem execEcCntClear_keeps {p v} (h : Keeps s₀ s) : KeepsOut s₀ (execEcCntClear p v s) :=
  onPort_keeps h (fun _ ht => ite_keeps ht (setWord_keeps (setWord_keeps (setWord_keeps ht))))

theorem execRemapAdd_keeps {p v} (h : Keeps s₀ s) : KeepsOut s₀ (execRemapAdd p v s) :=
  onPort_keeps h (fun _ ht => ite_keeps ht (ite_keeps (setFld_keeps ht) (remapTrigger_keeps ht)))

theorem softBegin_keeps (h : Keeps s₀ s) : Keeps s₀ (softBegin p s) := by
  unfold softBegin
  refine ite_keeps h ?_
  split
  · exact h
  · exact modProt_keeps h

theorem softDone_keeps {key : Nat} (h : Keeps s₀ s) : Keeps s₀ (softDone p k key s) := by
  unfold softDone
  extract_lets s1 s2
  have hs2 : Keeps s₀ s2 := addFld_keeps (modDram_keeps (remapStat_keeps (modProt_keeps h)))
  split
  · exact endHandle_keeps hs2
  · exact hs2

theorem copyStep_keeps {err : Burst} {s0 : State} (h : Keeps s₀ s0) : Keeps s₀ (copyStep p err s0) := by
  unfold copyStep
  split
  · exact h
  · extract_lets n src la s st onPad d s1 s2 s3
    have hs2 : Keeps s₀ s2 := modProt_keeps (noteDecode_keeps (syncLine_keeps h))
    have hs3 : Keeps s₀ s3 := ite_keeps (storePoisoned_keeps hs2) (storeLine_keeps hs2)
    refine ite_keeps hs3 ?_
    split
    · exact remapStat_keeps (modProt_keeps hs3)
    · exact ite_keeps (softDone_keeps hs3) (remapStat_keeps (modProt_keeps hs3))

theorem execRemapCopyLine_keeps {p err} (h : Keeps s₀ s) : KeepsOut s₀ (execRemapCopyLine p err s) :=
  onPort_keeps h (fun _ ht => copyStep_keeps (softBegin_keeps ht))

theorem execMarchStart_keeps (h : Keeps s₀ s) : KeepsOut s₀ (execMarchStart s) := by
  unfold execMarchStart
  refine next_keeps ?_
  extract_lets g destr alg bgs groups s1
  have hs1 : Keeps s₀ s1 := setFld_keeps (setFld_keeps (setFld_keeps h))
  exact ite_keeps h (ite_keeps (setFld_keeps h) (hs1.upd (by simp only [core])))

theorem marchStop_keeps (h : Keeps s₀ s) : Keeps s₀ (marchStop s) := ite_keeps (setFld_keeps (h.upd rfl)) h

theorem execMarchAbort_keeps (h : Keeps s₀ s) : KeepsOut s₀ (execMarchAbort s) := next_keeps (marchStop_keeps h)

theorem marchFail_keeps {f : BitVec 8 × BitVec 16} (h : Keeps s₀ s) : Keeps s₀ (marchFail s f) := by
  unfold marchFail
  exact sramRemap_keeps (addFld_keeps (logEngine_keeps h))

theorem wf_bgBytes (bank b n : Nat) :
    Memory.wf (((List.range n).filter fun i => bgByte b i ≠ 0).map fun i => (bank * 524288 + i, bgByte b i)) := by
  refine ⟨?_, ?_⟩
  · unfold Rising
    rw [List.map_map]
    refine List.pairwise_map.2 ((List.pairwise_lt_range.filter _).imp ?_)
    intro i j hij
    exact Nat.add_lt_add_left hij _
  · simp only [List.mem_map, List.mem_filter, decide_eq_true_eq]
    rintro _ ⟨i, ⟨_, hi⟩, rfl⟩
    exact hi

/-- Tables whose address ranges follow one another join to a table in canonical form. -/
theorem wf_append {l m : SMap Byte} (hl : Memory.wf l) (hm : Memory.wf m) (hlt : ∀ x ∈ l, ∀ y ∈ m, x.1 < y.1) : Memory.wf (l ++ m)
    :=
  ⟨by
    unfold Rising
    rw [List.map_append]
    exact List.pairwise_append.2 ⟨hl.1, hm.1, by simpa only [List.forall_mem_map] using hlt⟩, fun e he => (List.mem_append.1
      he).elim (hl.2 e) (hm.2 e)⟩

theorem fillBank_keeps {bank b : Nat} (h : Keeps s₀ s) : Keeps s₀ (fillBank bank b s) := by
  refine h.mod rfl rfl fun ⟨hdram, hspad, hlant⟩ => ⟨hdram, ?_, hlant⟩
  have hkeep := wf_filter _ (fun e => e.1 / 524288 ≠ bank) hspad
  have hmid : ∀ e ∈ ((List.range 524288).filter fun i => bgByte b i ≠ 0).map fun i => (bank * 524288 + i, bgByte b i),
      e.1 / 524288 = bank := by
    simp only [List.mem_map, List.mem_filter, List.mem_range]
    rintro _ ⟨i, ⟨hi, _⟩, rfl⟩
    show (bank * 524288 + i) / 524288 = bank
    omega
  refine wf_append (wf_append (wf_filter _ _ hkeep) (wf_bgBytes bank b _) ?_) (wf_filter _ _ hkeep) ?_
  · intro x hx y hy
    have hx1 := of_decide_eq_true (List.mem_filter.1 hx).2
    have hy1 := hmid y hy
    omega
  · intro x hx y hy
    have hy1 := of_decide_eq_true (List.mem_filter.1 hy).2
    rcases List.mem_append.1 hx with hx | hx
    · have hx1 := of_decide_eq_true (List.mem_filter.1 hx).2
      omega
    · have hx1 := hmid x hx
      omega

theorem execMarchEnd_keeps {fails} (h : Keeps s₀ s) : KeepsOut s₀ (execMarchEnd fails s) := by
  unfold execMarchEnd
  refine next_keeps ?_
  refine ite_keeps h ?_
  extract_lets own s1 b s2 s3
  have hs1 : Keeps s₀ s1 := foldl_keeps h (fun _ _ ht => marchFail_keeps ht)
  have hs2 : Keeps s₀ s2 := ite_keeps (foldl_keeps hs1 (fun _ _ ht => fillBank_keeps ht)) hs1
  have hs3 : Keeps s₀ s3 := setFld_keeps (hs2.upd rfl)
  exact ite_keeps (raise_keeps (setFld_keeps hs3)) hs3

theorem execSpadClear_keeps {v} (h : Keeps s₀ s) : KeepsOut s₀ (execSpadClear v s) :=
  next_keeps (ite_keeps h (setWord_keeps (setWord_keeps h)))

/-! ### Machine/Power -/

theorem softStart_keeps (h : Keeps s₀ s) : Keeps s₀ (softStart s) := by
  unfold softStart
  exact setFld_keeps (setFld_keeps (modPw_keeps (foldl_keeps h (fun _ _ ht => setFld_keeps (takeFence_keeps ht)))))

theorem softNext_keeps (h : Keeps s₀ s) : Keeps s₀ (softNext s) := ite_keeps (softStart_keeps h) h

theorem superseded_keeps {src : ReqOf} (h : Keeps s₀ s) : Keeps s₀ (superseded src s) := srcDone_keeps (addFld_keeps h)

theorem enterIdle_keeps {src : ReqOf} (h : Keeps s₀ s) : Keeps s₀ (enterIdle src s) :=
  ite_keeps (srcDone_keeps (recordRef_keeps h)) (pwrStat_keeps (srcDone_keeps (modPw_keeps h)))

theorem exitFirst_keeps {t : EngTrans} (h : Keeps s₀ s) : Keeps s₀ (exitFirst t s) := modPw_keeps h

theorem beginTrans_keeps {t : EngTrans} (h : Keeps s₀ s) : Keeps s₀ (beginTrans t s) := by
  unfold beginTrans
  extract_lets go
  have hgo : ∀ t, Keeps s₀ t → Keeps s₀ (go t) := fun _ ht => modPw_keeps ht
  refine ite_keeps ?_ (ite_keeps (hgo _ h) (exitFirst_keeps h))
  split
  · exact srcDone_keeps (active_keeps h)
  · exact enterIdle_keeps h
  · exact hgo _ h

theorem takePend_keeps (h : Keeps s₀ s) : Keeps s₀ (takePend s) := by
  unfold takePend
  split
  · exact softNext_keeps (pwrStat_keeps h)
  · exact pwrStat_keeps (beginTrans_keeps (modPw_keeps h))

theorem engineReq_keeps {tgt : Nat} {src : ReqOf} (h : Keeps s₀ s) : Keeps s₀ (engineReq tgt src s) := by
  unfold engineReq
  extract_lets t wait
  have hwait : ∀ t, Keeps s₀ t → Keeps s₀ (wait t) := by
    intro _ ht
    unfold wait
    extract_lets v
    have hv : Keeps s₀ v := by
      unfold v
      split
      · exact superseded_keeps ht
      · exact ht
    exact modPw_keeps hv
  refine ite_keeps h ?_
  refine ite_keeps (srcDone_keeps (ite_keeps h (recordRef_keeps h))) ?_
  refine ite_keeps (pwrStat_keeps (hwait _ h)) ?_
  split
  · exact ite_keeps (pwrStat_keeps (hwait _ (ite_keeps (wakeBy_keeps h) h))) (ite_keeps (srcDone_keeps (wakeBy_keeps h))
      (pwrStat_keeps (beginTrans_keeps (undoPrep_keeps (modPw_keeps (superseded_keeps h))))))
  · exact ite_keeps (pwrStat_keeps (modPw_keeps (wake_keeps h))) (pwrStat_keeps (beginTrans_keeps (ite_keeps (wake_keeps h) h)))

theorem stopReads_keeps (h : Keeps s₀ s) : Keeps s₀ (stopReads n s) := by
  unfold stopReads
  exact modFab_keeps h

theorem abortHandles_keeps (h : Keeps s₀ s) : Keeps s₀ (abortHandles s) := foldl_keeps h (fun _ _ ht => endHandle_keeps ht)

theorem pushRecords_keeps (h : Keeps s₀ s) : Keeps s₀ (pushRecords s) := foldl_keeps h (fun _ _ ht => pushAll_keeps ht)

theorem dropReads_keeps (h : Keeps s₀ s) : Keeps s₀ (dropReads s) := by
  unfold dropReads
  exact foldl_keeps h (fun _ _ ht => foldl_keeps (modSched_keeps ht) (fun _ _ ht1 => deliver_keeps ht1))

theorem pfStart_keeps {reason : Nat} (h : Keeps s₀ s) : Keeps s₀ (pfStart reason s) := by
  unfold pfStart
  extract_lets s0 dom keep s1 s2 s3 s4 s5 s6 waiting
  have hs0 : Keeps s₀ s0 := foldl_keeps (stepAbandon_keeps h) (fun _ _ ht => launchCancel_keeps ht)
  exact pwrStat_keeps (modPw_keeps (modEn_keeps (pushRecords_keeps (abortHandles_keeps (foldl_keeps (foldl_keeps (dropReads_keeps
    (foldl_keeps (setFld_keeps (charger_keeps (modEn_keeps (setDomain_keeps hs0)))) (fun _ _ ht => stopReads_keeps (takeFence_keeps
    ht)))) (fun _ _ ht => modCtx_keeps ht)) (fun _ _ ht => flushPart_keeps ht))))))

theorem lanesTo_keeps {v : Nat → Nat} (h : Keeps s₀ s) : Keeps s₀ (lanesTo v s) := foldl_keeps h (fun _ _ ht => setFld_keeps ht)

theorem closePorts_keeps (h : Keeps s₀ s) : Keeps s₀ (closePorts s) := foldl_keeps h (fun _ _ ht => closeAll_keeps ht)

theorem runTrans_keeps (h : Keeps s₀ s) : Keeps s₀ (runTrans s) := modPw_keeps h

theorem stepTrans_keeps (h : Keeps s₀ s) : Keeps s₀ (stepTrans k s) := modPw_keeps h

theorem commitNap_keeps {t : EngTrans} (h : Keeps s₀ s) : Keeps s₀ (commitNap t s) := by
  unfold commitNap
  extract_lets s1 s2
  have hs1 : Keeps s₀ s1 := closePorts_keeps h
  exact ite_keeps hs1 (runTrans_keeps (lanesTo_keeps (foldl_keeps (srcDone_keeps (rsvLoseAll_keeps (marchStop_keeps hs1))) (fun _ _
    ht => srEnter_keeps ht))))

theorem drainLedger_keeps (h : Keeps s₀ s) : Keeps s₀ (drainLedger s) :=
  foldl_keeps (setFld_keeps (modHome_keeps h)) (fun _ _ ht => homeSubmit_keeps ht)

theorem drainEnd_keeps (h : Keeps s₀ s) : Keeps s₀ (drainEnd s) := setFld_keeps (modHome_keeps h)

theorem emptyStaging_keeps (h : Keeps s₀ s) : Keeps s₀ (emptyStaging s) :=
  foldl_keeps h (fun _ _ ht => modStall_keeps (spillAll_keeps (flushPart_keeps ht)))

theorem commitDeep_keeps {t : EngTrans} (h : Keeps s₀ s) : Keeps s₀ (commitDeep t s) := by
  unfold commitDeep
  split
  · exact stepTrans_keeps (drainLedger_keeps (foldl_keeps h (fun _ _ ht => clearTallies_keeps ht)))
  · exact ite_keeps (stepTrans_keeps (saveImages_keeps (emptyStaging_keeps (drainEnd_keeps h)))) h
  · extract_lets s1 s2
    have hs1 : Keeps s₀ s1 := closePorts_keeps h
    have hs2 : Keeps s₀ s2 := emptyStaging_keeps (pushRecords_keeps (srcDone_keeps (rsvLoseAll_keeps (marchStop_keeps hs1))))
    exact ite_keeps hs1 (runTrans_keeps (foldl_keeps hs2 (fun _ _ ht => srEnter_keeps ht)))

theorem commitOff_keeps {t : EngTrans} (h : Keeps s₀ s) : Keeps s₀ (commitOff t s) :=
  ite_keeps (stepTrans_keeps (drainLedger_keeps h)) (ite_keeps (pfStart_keeps (modPw_keeps (srcDone_keeps (drainEnd_keeps h)))) h)

theorem commitEngine_keeps (h : Keeps s₀ s) : Keeps s₀ (commitEngine s) := by
  unfold commitEngine
  split
  · exact h
  · extract_lets own
    refine ite_keeps h ?_
    refine pwrStat_keeps ?_
    split
    · exact commitNap_keeps h
    · exact commitDeep_keeps h
    · exact commitOff_keeps h

theorem modDom_keeps {d : Nat} {x : DomSt} (h : Keeps s₀ s) : Keeps s₀ (modDom d x s) := modPw_keeps h

theorem domOff_keeps {d : Nat} (h : Keeps s₀ s) : Keeps s₀ (domOff d s) := by
  unfold domOff
  extract_lets s1
  have hs1 : Keeps s₀ s1 := modDom_keeps h
  exact ite_keeps (modHome_keeps hs1) (ite_keeps (hs1.mod rfl rfl fun ⟨hdram, _, hlant⟩ => ⟨hdram, wf_nil, hlant⟩) hs1)

theorem domReq_keeps {v : Word} (h : Keeps s₀ s) : Keeps s₀ (domReq v s) := by
  unfold domReq
  extract_lets d
  refine ite_keeps h ?_
  refine ite_keeps (reject_keeps h) ?_
  refine ite_keeps (reject_keeps h) ?_
  refine ite_keeps (recordRef_keeps h) ?_
  split
  · exact modDom_keeps (addFld_keeps h)
  · exact modDom_keeps h
  · exact modDom_keeps (addFld_keeps h)
  · exact modDom_keeps h
  · exact modDom_keeps h
  · exact h

theorem execDomainOn_keeps {v} (h : Keeps s₀ s) : KeepsOut s₀ (execDomainOn v s) := next_keeps (settle_keeps (domReq_keeps h))

theorem execDomainOff_keeps {v} (h : Keeps s₀ s) : KeepsOut s₀ (execDomainOff v s) := next_keeps (settle_keeps (domReq_keeps h))

theorem execDomainOnDone_keeps {d} (h : Keeps s₀ s) : KeepsOut s₀ (execDomainOnDone d s) := by
  unfold execDomainOnDone
  refine next_keeps ?_
  refine settle_keeps ?_
  split
  · refine ite_keeps h ?_
    extract_lets s1
    have hs1 : Keeps s₀ s1 := modDom_keeps h
    exact ite_keeps (homeRun_keeps hs1) hs1
  · exact h

theorem resetRings_keeps (h : Keeps s₀ s) : Keeps s₀ (resetRings p s) := foldl_keeps h (fun _ _ ht => resetStall_keeps ht)

theorem endPortWork_keeps (h : Keeps s₀ s) : Keeps s₀ (endPortWork p s) := by
  unfold endPortWork
  extract_lets s0 w s1 s2
  have hs2 : Keeps s₀ s2 := modTrain_keeps (foldl_keeps (modProt_keeps h) (fun _ _ ht => endHandle_keeps ht))
  split
  · exact modLink_keeps (endHandle_keeps hs2)
  · exact modLink_keeps hs2

theorem portResetNow_keeps (h : Keeps s₀ s) : Keeps s₀ (portResetNow p s) := by
  unfold portResetNow
  extract_lets s1 s2 s3
  have hs3 : Keeps s₀ s3 := recVoid_keeps (clearTrained_keeps (remapStat_keeps (modProt_keeps (resetRings_keeps (endPortWork_keeps
    (failAll_keeps (ite_keeps (resetSeq_keeps (sendPacket_keeps h)) h)))))))
  exact modDram_keeps (setPopErr_keeps (portDown_keeps hs3))

theorem runPort_keeps (h : Keeps s₀ s) : Keeps s₀ (runPort p s) := by
  unfold runPort
  exact ppStat_keeps (setPortPwr_keeps h)

theorem commitPort_keeps (h : Keeps s₀ s) : Keeps s₀ (commitPort p s) := by
  unfold commitPort
  split
  · exact h
  · extract_lets op s1 s2 s12
    have hs1 : Keeps s₀ s1 := closeAll_keeps h
    have hs2 : Keeps s₀ s2 := srEnter_keeps (runPort_keeps hs1)
    have hs12 : Keeps s₀ s12 := srExit_keeps (runPort_keeps h)
    refine ite_keeps h ?_
    refine ite_keeps (transEnd_keeps (runPort_keeps h)) ?_
    refine ite_keeps h ?_
    clear_value op
    split
    · exact ite_keeps (ite_keeps (setPstate_keeps (runPort_keeps (endPortWork_keeps hs1))) hs1) (setPstate_keeps (runPort_keeps
        (endPortWork_keeps (failAll_keeps h))))
    · exact ite_keeps (portStart_keeps (runPort_keeps h)) h
    · exact ite_keeps hs1 (transEnd_keeps (ite_keeps (setFld_keeps hs2) hs2))
    · exact ite_keeps (transEnd_keeps (ite_keeps (setFld_keeps hs12) hs12)) (transEnd_keeps (runPort_keeps h))
    · exact ite_keeps (transEnd_keeps (runPort_keeps h)) (transEnd_keeps (portResetNow_keeps (runPort_keeps h)))

theorem portReq_keeps {op : Nat} {src : ReqOf} (h : Keeps s₀ s) : Keeps s₀ (portReq p op src s) := by
  unfold portReq
  extract_lets t x rev s1 src2 s12
  have hrev : ∀ t, Keeps s₀ t → Keeps s₀ (rev t) := fun _ ht => ite_keeps (addFld_keeps ht) ht
  have hs1 : Keeps s₀ s1 := by
    unfold s1
    split
    · exact superseded_keeps h
    · exact h
  have hs12 : Keeps s₀ s12 := ppStat_keeps (hrev _ (setPortPwr_keeps h))
  refine ite_keeps h ?_
  refine ite_keeps (srcDone_keeps (recordRef_keeps h)) ?_
  refine ite_keeps (srcDone_keeps h) ?_
  split
  · refine ite_keeps (ppStat_keeps (hrev _ (setPortPwr_keeps hs1))) ?_
    extract_lets s13 src3 s2
    have hs2 : Keeps s₀ s2 := ppStat_keeps (setPortPwr_keeps (superseded_keeps h))
    exact ite_keeps hs2 (commitPort_keeps hs2)
  · exact ite_keeps hs12 (commitPort_keeps hs12)

theorem stoppingDone_keeps (h : Keeps s₀ s) : Keeps s₀ (stoppingDone p s) := ite_keeps h (transEnd_keeps (portDown_keeps h))

theorem execPortStoppingDone_keeps {p} (h : Keeps s₀ s) : KeepsOut s₀ (execPortStoppingDone p s) :=
  onPort_keeps h (fun _ ht => stoppingDone_keeps ht)

theorem regEngine_keeps {tgt : Nat} (h : Keeps s₀ s) : Keeps s₀ (regEngine tgt s) := engineReq_keeps h

theorem hostEngine_keeps {tgt : Nat} (h : Keeps s₀ s) : Keeps s₀ (hostEngine k tgt s) :=
  ite_keeps (hostCommand_keeps (fun _ _ ht => engineReq_keeps ht) h) h

theorem hostPortPower_keeps {op : Nat} (h : Keeps s₀ s) : Keeps s₀ (hostPortPower k p op s) := by
  unfold hostPortPower
  exact ite_keeps (hostCommand_keeps (fun _ _ ht => portReq_keeps ht) h) h

theorem dramControl_keeps {rd ra rb : BitVec 5} {sf : BitVec 1} {x : BitVec 4} {fn : Nat} {undef rsvd : Bool} {body : State → Option
    (W64 × State)} (hbody : ∀ t, Keeps s₀ t → KeepsPair s₀ (body t)) (h : Keeps s₀ s) :
    Keeps s₀ (dramControl c rd ra rb sf x fn undef rsvd body s) :=
  lantIssue_keeps (fun _ ht => mapPair_keeps (hbody _ ht) (fun _ ht1 => retireWith_keeps ht1)) h

theorem lantEngine_keeps {c : Fin 4} {rd ra rb : BitVec 5} {sf : BitVec 1} {tgt : Nat} (h : Keeps s₀ s) :
    Keeps s₀ (lantEngine c rd ra rb sf tgt s) := by
  unfold lantEngine
  refine dramControl_keeps ?_ h
  intro _ ht
  split
  · exact somePair_keeps (pair_keeps ht)
  · exact somePair_keeps (pair_keeps (engineReq_keeps ht))

theorem lantPort_keeps {c : Fin 4} {rd ra rb : BitVec 5} {sf : BitVec 1} {op : Nat} (h : Keeps s₀ s) :
    Keeps s₀ (lantPort c rd ra rb sf p op s) := by
  unfold lantPort
  extract_lets v q
  refine ite_keeps h ?_
  refine dramControl_keeps ?_ h
  intro _ ht
  extract_lets ok
  split
  · exact somePair_keeps (pair_keeps (portReq_keeps ht))
  · split
    · exact somePair_keeps (pair_keeps ht)
    · exact somePair_keeps (pair_keeps (portReq_keeps ht))

theorem engineFrom_keeps {tgt : Nat} {src : ReqSrc} (h : Keeps s₀ s) : Keeps s₀ (engineFrom tgt src s) := by
  unfold engineFrom
  split
  · exact regEngine_keeps h
  · exact hostEngine_keeps h
  · exact lantEngine_keeps h

theorem portFrom_keeps {op : Nat} {src : ReqSrc} (h : Keeps s₀ s) : Keeps s₀ (portFrom p op src s) := by
  unfold portFrom
  split
  · exact ite_keeps (portReq_keeps (ite_keeps (wake_keeps h) h)) h
  · exact hostPortPower_keeps h
  · exact lantPort_keeps h

theorem execPortOff_keeps {p src} (h : Keeps s₀ s) : KeepsOut s₀ (execPortOff p src s) :=
  next_keeps (settle_keeps (portFrom_keeps h))

theorem execPortOn_keeps {p src} (h : Keeps s₀ s) : KeepsOut s₀ (execPortOn p src s) := next_keeps (settle_keeps (portFrom_keeps h))

theorem execPortSelfRefresh_keeps {p src} (h : Keeps s₀ s) : KeepsOut s₀ (execPortSelfRefresh p src s) :=
  next_keeps (settle_keeps (portFrom_keeps h))

theorem execPortWake_keeps {p src} (h : Keeps s₀ s) : KeepsOut s₀ (execPortWake p src s) :=
  next_keeps (settle_keeps (portFrom_keeps h))

theorem execPortReset_keeps {p src} (h : Keeps s₀ s) : KeepsOut s₀ (execPortReset p src s) :=
  next_keeps (settle_keeps (portFrom_keeps h))

theorem execEnterE1_keeps {src} (h : Keeps s₀ s) : KeepsOut s₀ (execEnterE1 src s) := next_keeps (settle_keeps (engineFrom_keeps h))

theorem execEnterE2_keeps {src} (h : Keeps s₀ s) : KeepsOut s₀ (execEnterE2 src s) := next_keeps (settle_keeps (engineFrom_keeps h))

theorem execEnterE3_keeps {src} (h : Keeps s₀ s) : KeepsOut s₀ (execEnterE3 src s) := next_keeps (settle_keeps (engineFrom_keeps h))

theorem execEnterE4_keeps {src} (h : Keeps s₀ s) : KeepsOut s₀ (execEnterE4 src s) := next_keeps (settle_keeps (engineFrom_keeps h))

theorem restartTimers_keeps (h : Keeps s₀ s) : Keeps s₀ (restartTimers s) := modPw_keeps h

theorem execIdleE1_keeps (h : Keeps s₀ s) : KeepsOut s₀ (execIdleE1 s) := by
  unfold execIdleE1
  refine next_keeps ?_
  refine settle_keeps ?_
  refine ite_keeps h ?_
  extract_lets t
  have ht : Keeps s₀ t := enterIdle_keeps h
  exact ite_keeps ht (restartTimers_keeps ht)

theorem execIdleE2_keeps (h : Keeps s₀ s) : KeepsOut s₀ (execIdleE2 s) :=
  next_keeps (settle_keeps (ite_keeps h (restartTimers_keeps (engineReq_keeps h))))

theorem execEntryCommit_keeps {t} (h : Keeps s₀ s) : KeepsOut s₀ (execEntryCommit t s) := by
  unfold execEntryCommit
  refine next_keeps ?_
  refine settle_keeps ?_
  split
  · exact commitEngine_keeps h
  · exact commitPort_keeps h
  · split
    · exact ite_keeps h (domOff_keeps h)
    · exact h

theorem portsWake_keeps (h : Keeps s₀ s) : Keeps s₀ (portsWake s) := lanesTo_keeps (foldl_keeps h (fun _ _ ht => srExit_keeps ht))

theorem backInRun_keeps (h : Keeps s₀ s) : Keeps s₀ (backInRun s) :=
  takePend_keeps (raise_keeps (active_keeps (pwrStat_keeps (modPw_keeps h))))

theorem entryReached_keeps {t : EngTrans} (h : Keeps s₀ s) : Keeps s₀ (entryReached t s) := by
  unfold entryReached
  extract_lets s1 s2
  have hs2 : Keeps s₀ s2 := raise_keeps (pwrStat_keeps (modPw_keeps (ite_keeps (setFld_keeps (lanesTo_keeps h)) h)))
  exact ite_keeps (pwrStat_keeps (modPw_keeps (addFld_keeps hs2))) (takePend_keeps hs2)

theorem execStateReached_keeps (h : Keeps s₀ s) : KeepsOut s₀ (execStateReached s) := by
  unfold execStateReached
  refine next_keeps ?_
  refine settle_keeps ?_
  split
  · exact ite_keeps (entryReached_keeps h) h
  · split
    · exact ite_keeps (backInRun_keeps (portsWake_keeps h)) h
    · exact h

theorem rebuildGroups_keeps (h : Keeps s₀ s) : Keeps s₀ (rebuildGroups s) := by
  unfold rebuildGroups
  extract_lets gone banks out s1 s2
  have hs1 : Keeps s₀ s1 := h.mod rfl rfl fun ⟨hdram, hspad, hlant⟩ => ⟨hdram, wf_filter _ _ hspad, hlant⟩
  have hs2 : Keeps s₀ s2 := setFld_keeps hs1
  exact ite_keeps hs2 (setFld_keeps (hs2.upd rfl))

theorem portsReturn_keeps (h : Keeps s₀ s) : Keeps s₀ (portsReturn s) := by
  unfold portsReturn
  exact foldl_keeps (lanesTo_keeps h) (fun _ _ ht => ite_keeps (portStart_keeps ht) (modTrain_keeps (srExit_keeps ht)))

theorem execE3ExitDone_keeps (h : Keeps s₀ s) : KeepsOut s₀ (execE3ExitDone s) := by
  unfold execE3ExitDone
  refine next_keeps ?_
  refine settle_keeps ?_
  split
  · exact ite_keeps h (backInRun_keeps (foldl_keeps (rebuildGroups_keeps (portsReturn_keeps (setFld_keeps (modPw_keeps h)))) (fun _
      _ ht => grantTallies_keeps ht)))
  · exact h

theorem execPrepTimeout_keeps {t} (h : Keeps s₀ s) : KeepsOut s₀ (execPrepTimeout t s) := by
  unfold execPrepTimeout
  extract_lets late
  refine next_keeps ?_
  refine settle_keeps ?_
  split
  · split
    · extract_lets own
      split
      · exact ite_keeps (softNext_keeps (refusePrep_keeps h)) h
      · exact h
    · exact h
  · split
    · split
      · exact ite_keeps (transEnd_keeps (recordRef_keeps (runPort_keeps h))) h
      · exact h
    · exact h
  · split
    · split
      · exact ite_keeps (modDom_keeps (recordRef_keeps h)) h
      · exact h
    · exact h

theorem execWakeSource_keeps {w} (h : Keeps s₀ s) : KeepsOut s₀ (execWakeSource w s) := by
  unfold execWakeSource
  refine next_keeps ?_
  refine settle_keeps ?_
  extract_lets st light deep go
  have hgo : ∀ x x1, Keeps s₀ (go x x1) := fun _ _ => ite_keeps (wake_keeps h) h
  split <;> exact hgo _ _

theorem execPwrCntClear_keeps {v} (h : Keeps s₀ s) : KeepsOut s₀ (execPwrCntClear v s) :=
  next_keeps (ite_keeps h (setWord_keeps (setFld_keeps h)))

/-! ### Machine/LanternCtl -/

theorem modePause_keeps {g : CtlTarget} (h : Keeps s₀ s) : Keeps s₀ (modePause g s) := modSched_keeps h

theorem execMrw_keeps {c rd ra rb sf x} (h : Keeps s₀ s) : KeepsOut s₀ (execMrw c rd ra rb sf x s) := by
  unfold execMrw
  refine next_keeps ?_
  refine settle_keeps ?_
  refine dramControl_keeps ?_ h
  intro _ ht
  extract_lets k v w g ok t1
  split
  · exact somePair_keeps (pair_keeps ht)
  · exact somePair_keeps (pair_keeps (modePause_keeps (modDram_keeps ht)))

theorem execMrr_keeps {c rd ra rb sf x} (h : Keeps s₀ s) : KeepsOut s₀ (execMrr c rd ra rb sf x s) := by
  unfold execMrr
  refine next_keeps ?_
  refine settle_keeps ?_
  refine dramControl_keeps ?_ h
  intro _ ht
  extract_lets k v w g ok f
  split
  · exact somePair_keeps (pair_keeps ht)
  · split
    · exact somePair_keeps (pair_keeps (modePause_keeps ht))
    · exact somePair_keeps (pair_keeps (modePause_keeps (drawFree_keeps ht)))

theorem refcRank_keeps {c : Fin 4} {rd ra rb : BitVec 5} {sf : BitVec 1} {x : Nat} {act : CtlTarget → State → Option State} (hact :
    ∀ x t, Keeps s₀ t → KeepsSome s₀ (act x t)) (h : Keeps s₀ s) :
    KeepsOut s₀ (refcRank c rd ra rb sf x act s) := by
  unfold refcRank
  refine next_keeps ?_
  refine settle_keeps ?_
  refine dramControl_keeps ?_ h
  intro _ ht
  extract_lets v ok
  split
  · exact somePair_keeps (pair_keeps ht)
  · exact mapToPair_keeps (hact _ _ ht) (fun _ ht1 => pair_keeps ht1)

theorem execRefcRefNow_keeps {c rd ra rb sf} (h : Keeps s₀ s) : KeepsOut s₀ (execRefcRefNow c rd ra rb sf s) :=
  refcRank_keeps (fun _ _ ht => some_keeps (refNowRank_keeps ht)) h

theorem zqNow_keeps {g : CtlTarget} {t : State} (h : Keeps s₀ t) : KeepsSome s₀ (zqNow g t) :=
  iteSome_keeps none_keeps (iteSome_keeps (some_keeps h) (some_keeps (modRank_keeps (issueOp_keeps h))))

theorem execRefcZq_keeps {c rd ra rb sf} (h : Keeps s₀ s) : KeepsOut s₀ (execRefcZq c rd ra rb sf s) :=
  refcRank_keeps (fun _ _ ht => zqNow_keeps ht) h

theorem refcPort_keeps {c : Fin 4} {rd ra rb : BitVec 5} {sf : BitVec 1} {x op : Nat} (h : Keeps s₀ s) :
    KeepsOut s₀ (refcPort c rd ra rb sf x op s) := by
  unfold refcPort
  refine next_keeps ?_
  refine settle_keeps ?_
  refine dramControl_keeps ?_ h
  intro _ ht
  extract_lets v p ok
  split
  · exact somePair_keeps (pair_keeps (portReq_keeps ht))
  · exact somePair_keeps (pair_keeps ht)

theorem execRefcSrEnter_keeps {c rd ra rb sf} (h : Keeps s₀ s) : KeepsOut s₀ (execRefcSrEnter c rd ra rb sf s) := refcPort_keeps h

theorem execRefcSrExit_keeps {c rd ra rb sf} (h : Keeps s₀ s) : KeepsOut s₀ (execRefcSrExit c rd ra rb sf s) := refcPort_keeps h

theorem softStartRepair_keeps {slot : Nat} (h : Keeps s₀ s) : Keeps s₀ (softStartRepair p slot s) :=
  modSched_keeps (modProt_keeps h)

theorem hardRepair_keeps {key : Nat} (h : Keeps s₀ s) : Keeps s₀ (hardRepair p key s) := by
  unfold hardRepair
  exact setFld_keeps (modDram_keeps h)

theorem repairInsn_keeps {c : Fin 4} {rd ra rb : BitVec 5} {sf : BitVec 1} {x : BitVec 4} {none_ : State → Nat → Nat → Bool} {go :
    Nat → Nat → State → State} (hgo : ∀ x x1 t, Keeps s₀ t → Keeps s₀ (go x x1 t)) (h : Keeps s₀ s) :
    KeepsOut s₀ (repairInsn c rd ra rb sf x none_ go s) := by
  unfold repairInsn
  refine next_keeps ?_
  refine settle_keeps ?_
  refine dramControl_keeps ?_ h
  intro _ ht
  extract_lets k v w p src l ok
  split
  · exact somePair_keeps (pair_keeps ht)
  · exact somePair_keeps (pair_keeps (hgo _ _ _ ht))

theorem execRrepSoft_keeps {c rd ra rb sf x freeResource} (h : Keeps s₀ s) :
    KeepsOut s₀ (execRrepSoft c rd ra rb sf x freeResource s) := by
  unfold execRrepSoft
  refine repairInsn_keeps ?_ h
  intro _ _ _ ht
  split
  · exact softStartRepair_keeps ht
  · exact ht

theorem execRrepHard_keeps {c rd ra rb sf x} (h : Keeps s₀ s) : KeepsOut s₀ (execRrepHard c rd ra rb sf x s) :=
  repairInsn_keeps (fun _ _ _ ht => hardRepair_keeps ht) h

theorem runStep_keeps {x : Nat} (h : Keeps s₀ s) : Keeps s₀ (runStep p x s) := modTrain_keeps (h.upd rfl)

theorem execTrstep_keeps {c rd ra rb sf x ok} (h : Keeps s₀ s) : KeepsOut s₀ (execTrstep c rd ra rb sf x ok s) := by
  unfold execTrstep
  extract_lets n
  refine next_keeps ?_
  refine settle_keeps ?_
  refine dramControl_keeps ?_ h
  intro _ ht
  extract_lets v p st sts
  split
  · exact somePair_keeps (pair_keeps ht)
  · exact somePair_keeps (pair_keeps (runStep_keeps ht))

/-! ### Machine/LanternAlu -/

theorem aluDone_keeps {rd : BitVec 5} {sf : BitVec 1} {a : AluRes} (h : Keeps s₀ s) : Keeps s₀ (aluDone c rd sf a s) := by
  unfold aluDone
  exact retireWith_keeps (modCtx_keeps h)

theorem aluInsn_keeps {fn : Nat} {two : Bool} {f : W64 → W64 → Nat → AluRes} {c : Fin 4} {rd ra rb : BitVec 5} {sf : BitVec 1} {x :
    BitVec 4} (h : Keeps s₀ s) :
    KeepsOut s₀ (aluInsn fn two f c rd ra rb sf x s) :=
  next_keeps (settle_keeps (lantIssue_keeps (fun _ ht => some_keeps (aluDone_keeps ht)) h))

theorem execAdd_keeps {c rd ra rb sf x} (h : Keeps s₀ s) : KeepsOut s₀ (execAdd c rd ra rb sf x s) := aluInsn_keeps h

theorem execSub_keeps {c rd ra rb sf x} (h : Keeps s₀ s) : KeepsOut s₀ (execSub c rd ra rb sf x s) := aluInsn_keeps h

theorem execAnd_keeps {c rd ra rb sf x} (h : Keeps s₀ s) : KeepsOut s₀ (execAnd c rd ra rb sf x s) := aluInsn_keeps h

theorem execOr_keeps {c rd ra rb sf x} (h : Keeps s₀ s) : KeepsOut s₀ (execOr c rd ra rb sf x s) := aluInsn_keeps h

theorem execXor_keeps {c rd ra rb sf x} (h : Keeps s₀ s) : KeepsOut s₀ (execXor c rd ra rb sf x s) := aluInsn_keeps h

theorem execAndn_keeps {c rd ra rb sf x} (h : Keeps s₀ s) : KeepsOut s₀ (execAndn c rd ra rb sf x s) := aluInsn_keeps h

theorem execSll_keeps {c rd ra rb sf x} (h : Keeps s₀ s) : KeepsOut s₀ (execSll c rd ra rb sf x s) := aluInsn_keeps h

theorem execSrl_keeps {c rd ra rb sf x} (h : Keeps s₀ s) : KeepsOut s₀ (execSrl c rd ra rb sf x s) := aluInsn_keeps h

theorem execSra_keeps {c rd ra rb sf x} (h : Keeps s₀ s) : KeepsOut s₀ (execSra c rd ra rb sf x s) := aluInsn_keeps h

theorem execSlt_keeps {c rd ra rb sf x} (h : Keeps s₀ s) : KeepsOut s₀ (execSlt c rd ra rb sf x s) := aluInsn_keeps h

theorem execSltu_keeps {c rd ra rb sf x} (h : Keeps s₀ s) : KeepsOut s₀ (execSltu c rd ra rb sf x s) := aluInsn_keeps h

theorem execMin_keeps {c rd ra rb sf x} (h : Keeps s₀ s) : KeepsOut s₀ (execMin c rd ra rb sf x s) := aluInsn_keeps h

theorem execMax_keeps {c rd ra rb sf x} (h : Keeps s₀ s) : KeepsOut s₀ (execMax c rd ra rb sf x s) := aluInsn_keeps h

theorem execMinu_keeps {c rd ra rb sf x} (h : Keeps s₀ s) : KeepsOut s₀ (execMinu c rd ra rb sf x s) := aluInsn_keeps h

theorem execMaxu_keeps {c rd ra rb sf x} (h : Keeps s₀ s) : KeepsOut s₀ (execMaxu c rd ra rb sf x s) := aluInsn_keeps h

theorem execNeg_keeps {c rd ra rb sf x} (h : Keeps s₀ s) : KeepsOut s₀ (execNeg c rd ra rb sf x s) := aluInsn_keeps h

theorem execMul_keeps {c rd ra rb sf x} (h : Keeps s₀ s) : KeepsOut s₀ (execMul c rd ra rb sf x s) := aluInsn_keeps h

theorem execMulh_keeps {c rd ra rb sf x} (h : Keeps s₀ s) : KeepsOut s₀ (execMulh c rd ra rb sf x s) := aluInsn_keeps h

theorem execMulhu_keeps {c rd ra rb sf x} (h : Keeps s₀ s) : KeepsOut s₀ (execMulhu c rd ra rb sf x s) := aluInsn_keeps h

theorem execClz_keeps {c rd ra rb sf x} (h : Keeps s₀ s) : KeepsOut s₀ (execClz c rd ra rb sf x s) := aluInsn_keeps h

theorem execCtz_keeps {c rd ra rb sf x} (h : Keeps s₀ s) : KeepsOut s₀ (execCtz c rd ra rb sf x s) := aluInsn_keeps h

theorem execPopc_keeps {c rd ra rb sf x} (h : Keeps s₀ s) : KeepsOut s₀ (execPopc c rd ra rb sf x s) := aluInsn_keeps h

theorem execAdc_keeps {c rd ra rb sf x} (h : Keeps s₀ s) : KeepsOut s₀ (execAdc c rd ra rb sf x s) := aluInsn_keeps h

theorem execSbc_keeps {c rd ra rb sf x} (h : Keeps s₀ s) : KeepsOut s₀ (execSbc c rd ra rb sf x s) := aluInsn_keeps h

theorem execSext_keeps {c rd ra rb sf x} (h : Keeps s₀ s) : KeepsOut s₀ (execSext c rd ra rb sf x s) := by
  unfold execSext
  exact next_keeps (settle_keeps (lantIssue_keeps (fun _ ht => some_keeps (aluDone_keeps ht)) h))

theorem divInsn_keeps {fn : Nat} {zero : W64 → W64} {f : W64 → W64 → AluRes} {c : Fin 4} {rd ra rb : BitVec 5} {sf : BitVec 1} {x :
    BitVec 4} (h : Keeps s₀ s) :
    KeepsOut s₀ (divInsn fn zero f c rd ra rb sf x s) := by
  unfold divInsn
  exact next_keeps (settle_keeps (lantIssue_keeps (fun _ ht => iteSome_keeps (some_keeps (aluDone_keeps ht)) (iteSome_keeps
    (some_keeps (trapCtx_keeps (modCtx_keeps ht))) (some_keeps (aluDone_keeps (modCtx_keeps ht))))) h))

theorem execDiv_keeps {c rd ra rb sf x} (h : Keeps s₀ s) : KeepsOut s₀ (execDiv c rd ra rb sf x s) := divInsn_keeps h

theorem execDivu_keeps {c rd ra rb sf x} (h : Keeps s₀ s) : KeepsOut s₀ (execDivu c rd ra rb sf x s) := divInsn_keeps h

theorem execRem_keeps {c rd ra rb sf x} (h : Keeps s₀ s) : KeepsOut s₀ (execRem c rd ra rb sf x s) := divInsn_keeps h

theorem execRemu_keeps {c rd ra rb sf x} (h : Keeps s₀ s) : KeepsOut s₀ (execRemu c rd ra rb sf x s) := divInsn_keeps h

theorem immInsn_keeps {major : Nat} {undef rsvd : Bool} {f : W64 → Ctx → AluRes} {c : Fin 4} {rd ra : BitVec 5} {imm : BitVec 16} (h
    : Keeps s₀ s) :
    KeepsOut s₀ (immInsn major undef rsvd f c rd ra imm s) :=
  next_keeps (settle_keeps (lantIssue_keeps (fun _ ht => some_keeps (aluDone_keeps ht)) h))

theorem execAddi_keeps {c rd ra imm} (h : Keeps s₀ s) : KeepsOut s₀ (execAddi c rd ra imm s) := immInsn_keeps h

theorem execAndi_keeps {c rd ra imm} (h : Keeps s₀ s) : KeepsOut s₀ (execAndi c rd ra imm s) := immInsn_keeps h

theorem execOri_keeps {c rd ra imm} (h : Keeps s₀ s) : KeepsOut s₀ (execOri c rd ra imm s) := immInsn_keeps h

theorem execXori_keeps {c rd ra imm} (h : Keeps s₀ s) : KeepsOut s₀ (execXori c rd ra imm s) := immInsn_keeps h

theorem execShi_keeps {c rd ra imm} (h : Keeps s₀ s) : KeepsOut s₀ (execShi c rd ra imm s) := by
  unfold execShi
  exact immInsn_keeps h

theorem execHsetz_keeps {c rd ra imm} (h : Keeps s₀ s) : KeepsOut s₀ (execHsetz c rd ra imm s) := immInsn_keeps h

theorem execHins_keeps {c rd ra imm} (h : Keeps s₀ s) : KeepsOut s₀ (execHins c rd ra imm s) := by
  unfold execHins
  exact immInsn_keeps h

theorem execSlti_keeps {c rd ra imm} (h : Keeps s₀ s) : KeepsOut s₀ (execSlti c rd ra imm s) := immInsn_keeps h

theorem execSltiu_keeps {c rd ra imm} (h : Keeps s₀ s) : KeepsOut s₀ (execSltiu c rd ra imm s) := immInsn_keeps h

theorem execCmpi_keeps {c rd ra imm} (h : Keeps s₀ s) : KeepsOut s₀ (execCmpi c rd ra imm s) :=
  next_keeps (settle_keeps (lantIssue_keeps (fun _ ht => some_keeps (aluDone_keeps ht)) h))

theorem execBc_keeps {c cond rsvd off} (h : Keeps s₀ s) : KeepsOut s₀ (execBc c cond rsvd off s) :=
  next_keeps (settle_keeps (lantIssue_keeps (fun _ ht => some_keeps (retire_keeps ht)) h))

theorem cmpBranch_keeps {major : Nat} {p : W64 → W64 → Bool} {c : Fin 4} {ra rb : BitVec 5} {off : BitVec 16} (h : Keeps s₀ s) :
    KeepsOut s₀ (cmpBranch major p c ra rb off s) :=
  next_keeps (settle_keeps (lantIssue_keeps (fun _ ht => some_keeps (retire_keeps ht)) h))

theorem execBeq_keeps {c ra rb off} (h : Keeps s₀ s) : KeepsOut s₀ (execBeq c ra rb off s) := cmpBranch_keeps h

theorem execBne_keeps {c ra rb off} (h : Keeps s₀ s) : KeepsOut s₀ (execBne c ra rb off s) := cmpBranch_keeps h

theorem execBlt_keeps {c ra rb off} (h : Keeps s₀ s) : KeepsOut s₀ (execBlt c ra rb off s) := cmpBranch_keeps h

theorem execBge_keeps {c ra rb off} (h : Keeps s₀ s) : KeepsOut s₀ (execBge c ra rb off s) := cmpBranch_keeps h

theorem execBltu_keeps {c ra rb off} (h : Keeps s₀ s) : KeepsOut s₀ (execBltu c ra rb off s) := cmpBranch_keeps h

theorem execBgeu_keeps {c ra rb off} (h : Keeps s₀ s) : KeepsOut s₀ (execBgeu c ra rb off s) := cmpBranch_keeps h

theorem execJal_keeps {c off} (h : Keeps s₀ s) : KeepsOut s₀ (execJal c off s) :=
  next_keeps (settle_keeps (lantIssue_keeps (fun _ ht => some_keeps (retire_keeps (modCtx_keeps ht))) h))

theorem execJalr_keeps {c rd ra imm} (h : Keeps s₀ s) : KeepsOut s₀ (execJalr c rd ra imm s) := by
  unfold execJalr
  exact next_keeps (settle_keeps (lantIssue_keeps (fun _ ht => iteSome_keeps (some_keeps (trapCtx_keeps ht)) (some_keeps
    (retire_keeps (modCtx_keeps ht)))) h))

/-! ### Machine/LanternMem -/

theorem touchTrap_keeps {code : Nat} {w : Word} (h : Keeps s₀ s) : Keeps s₀ (touchTrap c code a w s) :=
  ite_keeps (trapCtx_keeps (modCtx_keeps h)) (trapCtx_keeps h)

theorem touched_keeps {load : Bool} {w : Word} {k : State → Option State} (hk : ∀ t, Keeps s₀ t → KeepsSome s₀ (k t)) (h : Keeps s₀
    s) :
    KeepsSome s₀ (touched c a n load w k s) := by
  unfold touched
  split
  · exact none_keeps
  · exact some_keeps (touchTrap_keeps h)
  · exact hk _ h

theorem loadInsn_keeps {major : Nat} {sgn : Bool} {c : Fin 4} {rd ra : BitVec 5} {imm : BitVec 16} (h : Keeps s₀ s) :
    KeepsOut s₀ (loadInsn major n sgn c rd ra imm s) := by
  unfold loadInsn
  exact next_keeps (settle_keeps (lantIssue_keeps (fun _ ht => touched_keeps (fun _ ht1 => some_keeps (retireWith_keeps ht1)) ht)
    h))

theorem execLbu_keeps {c rd ra imm} (h : Keeps s₀ s) : KeepsOut s₀ (execLbu c rd ra imm s) := loadInsn_keeps h

theorem execLhu_keeps {c rd ra imm} (h : Keeps s₀ s) : KeepsOut s₀ (execLhu c rd ra imm s) := loadInsn_keeps h

theorem execLwu_keeps {c rd ra imm} (h : Keeps s₀ s) : KeepsOut s₀ (execLwu c rd ra imm s) := loadInsn_keeps h

theorem execLd_keeps {c rd ra imm} (h : Keeps s₀ s) : KeepsOut s₀ (execLd c rd ra imm s) := loadInsn_keeps h

theorem execLb_keeps {c rd ra imm} (h : Keeps s₀ s) : KeepsOut s₀ (execLb c rd ra imm s) := loadInsn_keeps h

theorem execLh_keeps {c rd ra imm} (h : Keeps s₀ s) : KeepsOut s₀ (execLh c rd ra imm s) := loadInsn_keeps h

theorem execLw_keeps {c rd ra imm} (h : Keeps s₀ s) : KeepsOut s₀ (execLw c rd ra imm s) := loadInsn_keeps h

theorem storeInsn_keeps {major : Nat} {c : Fin 4} {rs ra : BitVec 5} {imm : BitVec 16} (h : Keeps s₀ s) :
    KeepsOut s₀ (storeInsn major n c rs ra imm s) := by
  unfold storeInsn
  exact next_keeps (settle_keeps (lantIssue_keeps (fun _ ht => touched_keeps (fun _ ht1 => some_keeps (retire_keeps (putData_keeps
    ht1))) ht) h))

theorem execSb_keeps {c rd ra imm} (h : Keeps s₀ s) : KeepsOut s₀ (execSb c rd ra imm s) := storeInsn_keeps h

theorem execSh_keeps {c rd ra imm} (h : Keeps s₀ s) : KeepsOut s₀ (execSh c rd ra imm s) := storeInsn_keeps h

theorem execSw_keeps {c rd ra imm} (h : Keeps s₀ s) : KeepsOut s₀ (execSw c rd ra imm s) := storeInsn_keeps h

theorem execSd_keeps {c rd ra imm} (h : Keeps s₀ s) : KeepsOut s₀ (execSd c rd ra imm s) := storeInsn_keeps h

theorem blockOn_keeps {kind : Nat} {rd : BitVec 5} {op : LineOp} (h : Keeps s₀ s) : Keeps s₀ (blockOn c kind a rd op s) := by
  unfold blockOn
  exact modCtx_keeps (startAcc_keeps h)

theorem blockInsn_keeps {kind : Nat} {rd : BitVec 5} {w : Word} {op : LineOp} {t : State} (h : Keeps s₀ t) :
    KeepsSome s₀ (blockInsn c kind a rd w op t) := by
  unfold blockInsn
  split
  · exact some_keeps (trapCtx_keeps h)
  · exact iteSome_keeps (some_keeps (blockOn_keeps h)) none_keeps

theorem postStore_keeps {d : Line} {be : BitVec 64} {t : State} (h : Keeps s₀ t) : KeepsSome s₀ (postStore c a d be t) :=
  iteSome_keeps (some_keeps (retire_keeps (startAcc_keeps h))) none_keeps

theorem execLdm_keeps {c rd ra imm} (h : Keeps s₀ s) : KeepsOut s₀ (execLdm c rd ra imm s) := by
  unfold execLdm
  exact next_keeps (settle_keeps (lantIssue_keeps (fun _ ht => blockInsn_keeps ht) h))

theorem execStm_keeps {c rd ra imm} (h : Keeps s₀ s) : KeepsOut s₀ (execStm c rd ra imm s) := by
  unfold execStm
  extract_lets w
  refine next_keeps ?_
  refine settle_keeps ?_
  refine lantIssue_keeps ?_ h
  intro _ ht
  extract_lets a
  split
  · exact some_keeps (trapCtx_keeps ht)
  · exact postStore_keeps ht

theorem lineInsn_keeps {d : Nat} {load : Bool} {w : Word} {k : State → Option State} {t : State} (hk : ∀ t, Keeps s₀ t → KeepsSome
    s₀ (k t)) (h : Keeps s₀ t) :
    KeepsSome s₀ (lineInsn c a d load w k t) :=
  iteSome_keeps (some_keeps (trapCtx_keeps h)) (iteSome_keeps (some_keeps (trapCtx_keeps h)) (touched_keeps (fun _ ht => hk _ ht)
    h))

theorem execLdln_keeps {c rd ra rb sf x} (h : Keeps s₀ s) : KeepsOut s₀ (execLdln c rd ra rb sf x s) := by
  unfold execLdln
  exact next_keeps (settle_keeps (lantIssue_keeps (fun _ ht => lineInsn_keeps (fun _ ht1 => iteSome_keeps none_keeps (some_keeps
    (retire_keeps (startAcc_keeps ht1)))) ht) h))

theorem execStln_keeps {c rd ra rb sf x} (h : Keeps s₀ s) : KeepsOut s₀ (execStln c rd ra rb sf x s) := by
  unfold execStln
  exact next_keeps (settle_keeps (lantIssue_keeps (fun _ ht => lineInsn_keeps (fun _ ht1 => postStore_keeps ht1) ht) h))

theorem execZln_keeps {c rd ra rb sf x} (h : Keeps s₀ s) : KeepsOut s₀ (execZln c rd ra rb sf x s) := by
  unfold execZln
  extract_lets w
  refine next_keeps ?_
  refine settle_keeps ?_
  refine lantIssue_keeps ?_ h
  intro _ ht
  extract_lets a
  split
  · exact some_keeps (trapCtx_keeps ht)
  · exact postStore_keeps ht

theorem execLantLr_keeps {c rd ra rb sf x} (h : Keeps s₀ s) : KeepsOut s₀ (execLantLr c rd ra rb sf x s) := by
  unfold execLantLr
  exact next_keeps (settle_keeps (lantIssue_keeps (fun _ ht => blockInsn_keeps ht) h))

theorem execLantSc_keeps {c rd ra rb sf x} (h : Keeps s₀ s) : KeepsOut s₀ (execLantSc c rd ra rb sf x s) := by
  unfold execLantSc
  exact next_keeps (settle_keeps (lantIssue_keeps (fun _ ht => blockInsn_keeps ht) h))

theorem execLantAmo_keeps {c rd ra rb sf x} (h : Keeps s₀ s) : KeepsOut s₀ (execLantAmo c rd ra rb sf x s) := by
  unfold execLantAmo
  exact next_keeps (settle_keeps (lantIssue_keeps (fun _ ht => blockInsn_keeps ht) h))

theorem execSput_keeps {c rd ra rb sf x} (h : Keeps s₀ s) : KeepsOut s₀ (execSput c rd ra rb sf x s) := by
  unfold execSput
  refine next_keeps ?_
  refine settle_keeps ?_
  refine lantIssue_keeps ?_ h
  intro _ ht
  extract_lets k a eop b u it y v v1
  have hu : Keeps s₀ u := checkStall_keeps ht
  have hv : Keeps s₀ v := pushItems_keeps hu
  have hv1 : Keeps s₀ v1 := by
    unfold v1
    split
    · exact footFirm_keeps hv
    · exact hv
  split
  · exact some_keeps (retireWith_keeps ht)
  · exact iteSome_keeps none_keeps (iteSome_keeps (iteSome_keeps none_keeps (some_keeps (pushItems_keeps hu))) (some_keeps
      (retireWith_keeps hv1)))

theorem execSget_keeps {c rd ra rb sf x} (h : Keeps s₀ s) : KeepsOut s₀ (execSget c rd ra rb sf x s) := by
  unfold execSget
  extract_lets w
  refine next_keeps ?_
  refine settle_keeps ?_
  refine lantIssue_keeps ?_ h
  intro _ ht
  extract_lets k a d
  refine touched_keeps ?_ ht
  intro _ ht1
  split
  · exact some_keeps (retireWith_keeps ht1)
  · exact iteSome_keeps none_keeps (some_keeps (modCtx_keeps (startRead_keeps (checkStall_keeps ht1))))

theorem execStly_keeps {c rd ra rb sf x} (h : Keeps s₀ s) : KeepsOut s₀ (execStly c rd ra rb sf x s) := by
  unfold execStly
  refine next_keeps ?_
  refine settle_keeps ?_
  refine lantIssue_keeps ?_ h
  intro _ ht
  extract_lets a r
  split
  · exact some_keeps (retireWith_keeps ht)
  · exact some_keeps (retireWith_keeps (tallyFetch_keeps (checkStall_keeps ht)))

theorem execScmd_keeps {c rd ra rb sf x} (h : Keeps s₀ s) : KeepsOut s₀ (execScmd c rd ra rb sf x s) := by
  unfold execScmd
  refine next_keeps ?_
  refine settle_keeps ?_
  refine lantIssue_keeps ?_ h
  intro _ ht
  extract_lets k a fin u
  have hfin : ∀ t, Keeps s₀ t → KeepsSome s₀ (fin t) := fun _ ht1 => some_keeps (retireWith_keeps ht1)
  have hu : Keeps s₀ u := checkStall_keeps ht
  split
  · exact some_keeps (retireWith_keeps ht)
  · refine iteSome_keeps none_keeps ?_
    split
    · exact hfin _ (stallDrop_keeps hu)
    · exact hfin _ (stallMark_keeps hu)
    · exact iteSome_keeps (hfin _ (stallRewind_keeps hu)) none_keeps
    · exact hfin _ (stallRelease_keeps hu)
    · exact hfin _ (flushPart_keeps hu)

theorem arrive_keeps {kind : Nat} {err : Burst} (h : Keeps s₀ s) : ∀ y, arrive c kind err s = some y → Keeps s₀ y.2.2 := by
  intro y hy
  unfold arrive at hy
  extract_lets l at hy
  split at hy
  · cases hy; exact h
  · split at hy
    · cases hy
    · obtain ⟨a, -, q, -, hq⟩ := by simpa only [Option.bind_eq_some_iff, Option.map_eq_some_iff] using hy
      rw [← hq]
      exact returnFlight_keeps h

theorem dropAcc_keeps {num : Nat} (h : Keeps s₀ s) : Keeps s₀ (dropAcc c num s) := modCtx_keeps h

theorem fetchDone_keeps {err : Burst} (h : Keeps s₀ s) : Keeps s₀ (fetchDone c err s) := by
  unfold fetchDone
  split
  · exact h
  · rename_i a r t hv
    have ht : Keeps s₀ t := arrive_keeps h _ hv
    have hu : Keeps s₀ (dropAcc c a.num t) := dropAcc_keeps ht
    refine ite_keeps ht ?_
    extract_lets u
    split
    · exact ite_keeps (modCtx_keeps (cachePut_keeps hu)) (trapCtx_keeps hu)
    · exact hu

theorem execIfetchMissDone_keeps {c : Fin 4} {err : Burst} (h : Keeps s₀ s) : KeepsOut s₀ (execIfetchMissDone c err s) :=
  next_keeps (settle_keeps (fetchDone_keeps h))

theorem ldlnDone_keeps {a : LAcc} {r : LineRes} (h : Keeps s₀ s) : Keeps s₀ (ldlnDone c a r s) := by
  unfold ldlnDone
  extract_lets u x go v
  have hu : Keeps s₀ u := dropAcc_keeps h
  have hv : Keeps s₀ v := modCtx_keeps (putData_keeps hu)
  exact ite_keeps (modCtx_keeps (putData_keeps hu)) (ite_keeps (trapCtx_keeps hu) (ite_keeps (modCtx_keeps hv) hv))

theorem execLdlnDataArrive_keeps {c : Fin 4} {err : Burst} (h : Keeps s₀ s) : KeepsOut s₀ (execLdlnDataArrive c err s) := by
  unfold execLdlnDataArrive
  refine next_keeps (settle_keeps ?_)
  split
  · exact h
  · rename_i a r t hv
    have ht : Keeps s₀ t := arrive_keeps h _ hv
    exact ite_keeps ht (ldlnDone_keeps ht)

theorem postedDone_keeps (h : Keeps s₀ s) : Keeps s₀ (postedDone c s) := by
  unfold postedDone
  split
  · exact h
  · extract_lets u
    have hu : Keeps s₀ u := ite_keeps h (dropAcc_keeps h)
    exact ite_keeps (modCtx_keeps hu) (ite_keeps (modCtx_keeps hu) hu)

theorem execPostedStoreDone_keeps {c err} (h : Keeps s₀ s) : KeepsOut s₀ (execPostedStoreDone c err s) := by
  unfold execPostedStoreDone
  refine next_keeps ?_
  refine settle_keeps ?_
  extract_lets ready
  refine ite_keeps (postedDone_keeps h) ?_
  split
  · exact h
  · split
    · rename_i _ v hv
      replace hv : Keeps s₀ v := (takeFlight_keeps h) _ hv
      exact postedDone_keeps (rmwFinish_keeps hv)
    · exact h

/-! ### Machine/LanternSys -/

theorem latchTb_keeps (h : Keeps s₀ s) : Keeps s₀ (latchTb c s) := modCtx_keeps h

theorem execRdtb_keeps {c rd ra rb sf x} (h : Keeps s₀ s) : KeepsOut s₀ (execRdtb c rd ra rb sf x s) :=
  next_keeps (settle_keeps (lantIssue_keeps (fun _ ht => some_keeps (retireWith_keeps (ite_keeps (latchTb_keeps ht) ht))) h))

theorem execWait_keeps {c rd ra rb sf x} (h : Keeps s₀ s) : KeepsOut s₀ (execWait c rd ra rb sf x s) :=
  next_keeps (settle_keeps (lantIssue_keeps (fun _ ht => iteSome_keeps (some_keeps (retire_keeps ht)) (some_keeps (modCtx_keeps
    ht))) h))

theorem execWaitResume_keeps {c} (h : Keeps s₀ s) : KeepsOut s₀ (execWaitResume c s) := by
  unfold execWaitResume
  refine next_keeps ?_
  refine settle_keeps ?_
  split
  · exact ite_keeps (retire_keeps h) h
  · exact h

theorem touchedWords_keeps {w : Word} {f : State → Option State} (hf : ∀ t, Keeps s₀ t → KeepsSome s₀ (f t)) (h : Keeps s₀ s) :
    KeepsSome s₀ (touchedWords c a w f n s) := by
  induction n generalizing a s with
  | zero => exact hf s h
  | succ n ih => exact touched_keeps (fun _ ht => ih ht) h

theorem execLaunch_keeps {c rd ra rb sf x} (h : Keeps s₀ s) : KeepsOut s₀ (execLaunch c rd ra rb sf x s) := by
  unfold execLaunch
  exact next_keeps (settle_keeps (lantIssue_keeps (fun _ ht => touched_keeps (fun _ ht1 => touchedWords_keeps (fun _ ht2 =>
    some_keeps (retireWith_keeps (launchTake_keeps ht2))) ht1) ht) h))

theorem execLcancel_keeps {c rd ra rb sf x} (h : Keeps s₀ s) : KeepsOut s₀ (execLcancel c rd ra rb sf x s) :=
  next_keeps (settle_keeps (lantIssue_keeps (fun _ ht => some_keeps (retire_keeps (ite_keeps (launchCancel_keeps ht) ht))) h))

theorem execBar_keeps {c rd ra rb sf x} (h : Keeps s₀ s) : KeepsOut s₀ (execBar c rd ra rb sf x s) := by
  unfold execBar
  exact next_keeps (settle_keeps (lantIssue_keeps (fun _ ht => iteSome_keeps (some_keeps (retireWith_keeps (modCtx_keeps ht)))
    (some_keeps (modCtx_keeps ht))) h))

theorem cacheClear_keeps (h : Keeps s₀ s) : Keeps s₀ (cacheClear s) := modLant_keeps h (fun _ => ⟨rfl, rfl⟩)

theorem cacheDrop_keeps (h : Keeps s₀ s) : Keeps s₀ (cacheDrop line s) := modLant_keeps h (fun _ => ⟨rfl, rfl⟩)

theorem execIflush_keeps {c rd ra rb sf x} (h : Keeps s₀ s) : KeepsOut s₀ (execIflush c rd ra rb sf x s) := by
  unfold execIflush
  exact next_keeps (settle_keeps (lantIssue_keeps (fun _ ht => some_keeps (retire_keeps (ite_keeps (cacheDrop_keeps ht)
    (cacheClear_keeps ht)))) h))

theorem execHbind_keeps {c rd ra rb sf x} (h : Keeps s₀ s) : KeepsOut s₀ (execHbind c rd ra rb sf x s) := by
  unfold execHbind
  exact next_keeps (settle_keeps (lantIssue_keeps (fun _ ht => iteSome_keeps (some_keeps (trapCtx_keeps ht)) (some_keeps
    (retire_keeps (modCtx_keeps ht)))) h))

theorem execHdone_keeps {c rd ra rb sf x} (h : Keeps s₀ s) : KeepsOut s₀ (execHdone c rd ra rb sf x s) := by
  unfold execHdone
  exact next_keeps (settle_keeps (lantIssue_keeps (fun _ ht => some_keeps (modCtx_keeps ht)) h))

theorem execBrk_keeps {c rd ra rb sf x} (h : Keeps s₀ s) : KeepsOut s₀ (execBrk c rd ra rb sf x s) := by
  unfold execBrk
  exact next_keeps (settle_keeps (lantIssue_keeps (fun _ ht => some_keeps (trapCtx_keeps ht)) h))

theorem execHalt_keeps {c rd ra rb sf x} (h : Keeps s₀ s) : KeepsOut s₀ (execHalt c rd ra rb sf x s) := by
  unfold execHalt
  exact next_keeps (settle_keeps (lantIssue_keeps (fun _ ht => iteSome_keeps (some_keeps (trapCtx_keeps ht)) (some_keeps
    (raise_keeps (modCtx_keeps (retire_keeps ht))))) h))

theorem eqInsn_keeps {c : Fin 4} {rd ra rb : BitVec 5} {sf : BitVec 1} {sel : Nat} {figure : State → Nat} {latch : Ctx → Ctx} (h :
    Keeps s₀ s) :
    KeepsOut s₀ (eqInsn c rd ra rb sf sel figure latch s) :=
  next_keeps (settle_keeps (lantIssue_keeps (fun _ ht => some_keeps (retireWith_keeps (modCtx_keeps (latchTb_keeps ht)))) h))

theorem execEqEnergyTotal_keeps {c rd ra rb sf} (h : Keeps s₀ s) : KeepsOut s₀ (execEqEnergyTotal c rd ra rb sf s) := eqInsn_keeps h

theorem execEqUsableReserve_keeps {c rd ra rb sf} (h : Keeps s₀ s) : KeepsOut s₀ (execEqUsableReserve c rd ra rb sf s) :=
  eqInsn_keeps h

theorem execEqDomainLow_keeps {c rd ra rb sf} (h : Keeps s₀ s) : KeepsOut s₀ (execEqDomainLow c rd ra rb sf s) := by
  unfold execEqDomainLow
  exact eqInsn_keeps h

theorem execEqDomainHigh_keeps {c rd ra rb sf} (h : Keeps s₀ s) : KeepsOut s₀ (execEqDomainHigh c rd ra rb sf s) := eqInsn_keeps h

theorem execEqRetention_keeps {c rd ra rb sf} (h : Keeps s₀ s) : KeepsOut s₀ (execEqRetention c rd ra rb sf s) := eqInsn_keeps h

theorem execEqAllowance_keeps {c rd ra rb sf} (h : Keeps s₀ s) : KeepsOut s₀ (execEqAllowance c rd ra rb sf s) := eqInsn_keeps h

theorem execEqStage_keeps {c rd ra rb sf} (h : Keeps s₀ s) : KeepsOut s₀ (execEqStage c rd ra rb sf s) := eqInsn_keeps h

theorem execMfs_keeps {c rd ra imm} (h : Keeps s₀ s) : KeepsOut s₀ (execMfs c rd ra imm s) :=
  next_keeps (settle_keeps (lantIssue_keeps (fun _ ht => map_keeps (fun _ => retireWith_keeps ht)) h))

theorem execMts_keeps {c rd ra imm} (h : Keeps s₀ s) : KeepsOut s₀ (execMts c rd ra imm s) :=
  next_keeps (settle_keeps (lantIssue_keeps (fun _ ht => map_keeps (fun _ => retire_keeps (setCtx_keeps ht))) h))

theorem execUndefinedInstruction_keeps {c w} (h : Keeps s₀ s) : KeepsOut s₀ (execUndefinedInstruction c w s) :=
  next_keeps (settle_keeps (ite_keeps h (lantIssue_keeps (fun _ ht => some_keeps ht) h)))

theorem ctxStart_keeps (h : Keeps s₀ s) : Keeps s₀ (ctxStart c s) := by
  unfold ctxStart
  extract_lets x t s1
  have ht : Keeps s₀ t := modCtx_keeps h
  have hs1 : Keeps s₀ s1 := by
    unfold s1
    split
    · split
      · exact endHandle_keeps ht
      · exact ht
    · exact h
  exact ite_keeps h (modCtx_keeps hs1)

theorem execStart_keeps {c} (h : Keeps s₀ s) : KeepsOut s₀ (execStart c s) :=
  next_keeps (ite_keeps (settle_keeps (ctxStart_keeps h)) h)

theorem execStop_keeps {c} (h : Keeps s₀ s) : KeepsOut s₀ (execStop c s) := next_keeps (ite_keeps (settle_keeps (modCtx_keeps h)) h)

theorem execContextReset_keeps {c} (h : Keeps s₀ s) : KeepsOut s₀ (execContextReset c s) :=
  next_keeps (ite_keeps (settle_keeps (modCtx_keeps h)) h)

theorem icWrite_keeps {v : Word} (h : Keeps s₀ s) : Keeps s₀ (icWrite v s) := ite_keeps (cacheClear_keeps h) h

theorem execLnIcInvalidate_keeps {v} (h : Keeps s₀ s) : KeepsOut s₀ (execLnIcInvalidate v s) :=
  next_keeps (ite_keeps h (icWrite_keeps h))

theorem progWrite_keeps {w : Word} (h : Keeps s₀ s) : Keeps s₀ (progWrite off w s) := by
  unfold progWrite
  refine ite_keeps (reject_keeps h) (ite_keeps (reject_keeps h) (ite_keeps (reject_keeps h) ?_))
  exact h.mod rfl rfl fun ⟨hdram, hspad, hprog, hdata⟩ => ⟨hdram, hspad, wf_putBytes _ _ _ _ hprog, hdata⟩

theorem execProgramRamWrite_keeps {word v} (h : Keeps s₀ s) : KeepsOut s₀ (execProgramRamWrite word v s) :=
  next_keeps (ite_keeps h (progWrite_keeps h))

theorem execDataRamWrite_keeps {word v} (h : Keeps s₀ s) : KeepsOut s₀ (execDataRamWrite word v s) :=
  next_keeps (ite_keeps h (ite_keeps (reject_keeps h) (putData_keeps h)))

theorem lantDurWrite_keeps {v : Word} (h : Keeps s₀ s) : Keeps s₀ (lantDurWrite c v s) := ite_keeps (footClear_keeps h) h

theorem execLantDurClear_keeps {c v} (h : Keeps s₀ s) : KeepsOut s₀ (execLantDurClear c v s) := next_keeps (lantDurWrite_keeps h)

/-! ### Machine/HostCmd -/

theorem done_keeps {sts result : Nat} (h : Keeps s₀ s) : Keeps s₀ (done k sts result s) := endHandle_keeps h

theorem execNop_keeps {h} (hs : Keeps s₀ s) : KeepsOut s₀ (execNop h s) :=
  next_keeps (settle_keeps (hostCommand_keeps (fun _ _ ht => done_keeps ht) hs))

theorem rangeWake_keeps {l : List Nat} (h : Keeps s₀ s) : Keeps s₀ (rangeWake l s) :=
  foldl_keeps h (fun _ _ ht => ite_keeps (ite_keeps (setFld_keeps (srExit_keeps ht)) (srExit_keeps ht)) ht)

theorem snoopReads_keeps {l : List Nat} (h : Keeps s₀ s) : Keeps s₀ (snoopReads l s) :=
  foldl_keeps h (fun _ _ ht => homeSubmit_keeps ht)

theorem snoopWrites_keeps {l : List Nat} (h : Keeps s₀ s) : Keeps s₀ (snoopWrites l s) :=
  foldl_keeps h (fun _ _ ht => homeSubmit_keeps ht)

theorem hostRead_keeps {err : Burst} (h : Keeps s₀ s) : Keeps s₀ (hostRead a err s).2 := by
  unfold hostRead
  split
  · split
    · exact pair_keeps h
    · exact pair_keeps (notePoisonRead_keeps (noteDecode_keeps (readNow_keeps h)))
  · split
    · exact spadRead_keeps h
    · exact pair_keeps h
  · exact pair_keeps h

theorem hostWrite_keeps {d : Line} {be : BitVec 64} {poison : Bool} (h : Keeps s₀ s) : Keeps s₀ (hostWrite a d be poison s).2 := by
  unfold hostWrite
  split
  · split
    · exact pair_keeps h
    · extract_lets s1 line
      have hs1 : Keeps s₀ s1 := rsvStore_keeps (markOver_keeps (syncLine_keeps h))
      exact pair_keeps (ite_keeps (storePoisoned_keeps hs1) (storeLine_keeps hs1))
  · split
    · exact pair_keeps (spadWrite_keeps h)
    · exact pair_keeps h
  · exact pair_keeps h

theorem rangeCommand_keeps {opc : Nat} {reads writes : Handle → List Nat} {work : Handle → State → State} (hwork : ∀ x t, Keeps s₀ t
    → Keeps s₀ (work x t)) (h : Keeps s₀ s) :
    Keeps s₀ (rangeCommand k opc reads writes work s) := by
  unfold rangeCommand
  extract_lets again
  have hagain : ∀ x t, Keeps s₀ t → Keeps s₀ (again x t) := by
    intro _ _ ht
    unfold again
    extract_lets l u
    have hu : Keeps s₀ u := snoopWrites_keeps ht
    exact ite_keeps ht (ite_keeps (hwork _ _ hu) hu)
  refine hostLong_keeps ?_ (fun _ _ ht => hagain _ _ ht) h
  intro _ _ ht
  split
  · exact done_keeps ht
  · exact hagain _ _ (snoopReads_keeps (rangeWake_keeps ht))

theorem copyLine_keeps {src dst : Nat} {errs : List (Nat × Burst)} {x : Tally × State} {i : Nat} (h : Keeps s₀ x.2) :
    Keeps s₀ (copyLine src dst errs x i).2 := by
  unfold copyLine
  extract_lets r src2 w res
  have hr : Keeps s₀ r.2 := hostRead_keeps h
  split
  · exact pair_keeps hr
  · exact pair_keeps (hostWrite_keeps hr)

theorem execCopy_keeps {h errs} (hs : Keeps s₀ s) : KeepsOut s₀ (execCopy h errs s) := by
  unfold execCopy
  exact next_keeps (settle_keeps (rangeCommand_keeps (fun _ _ ht => done_keeps (foldlSnd_keeps (pair_keeps ht) (fun _ _ ht1 =>
    copyLine_keeps ht1))) hs))

theorem fillLine_keeps {d : Line} {x : Tally × State} (h : Keeps s₀ x.2) : Keeps s₀ (fillLine d x a).2 := by
  unfold fillLine
  exact pair_keeps (hostWrite_keeps h)

theorem execFill_keeps {h} (hs : Keeps s₀ s) : KeepsOut s₀ (execFill h s) := by
  unfold execFill
  exact next_keeps (settle_keeps (rangeCommand_keeps (fun _ _ ht => done_keeps (foldlSnd_keeps (pair_keeps ht) (fun _ _ ht1 =>
    fillLine_keeps ht1))) hs))

theorem scrubLine_keeps {err : Burst} {x : ScrubSum × State} (h : Keeps s₀ x.2) : Keeps s₀ (scrubLine a err x).2 := by
  unfold scrubLine
  extract_lets add
  have hadd : ∀ x x1 x2 x3 t, Keeps s₀ t → Keeps s₀ (add x x1 x2 x3 t).2 := fun _ _ _ _ _ ht => pair_keeps ht
  split
  · split
    · exact hadd _ _ _ _ _ h
    · extract_lets r d t
      split <;> exact hadd _ _ _ _ _ (visitOutcome_keeps (readNow_keeps h))
  · split <;> exact hadd _ _ _ _ _ h
  · exact hadd _ _ _ _ _ h

theorem execScrub_keeps {h errs} (hs : Keeps s₀ s) : KeepsOut s₀ (execScrub h errs s) := by
  unfold execScrub
  extract_lets k lines work
  have hwork : ∀ x t, Keeps s₀ t → Keeps s₀ (work x t) := fun _ _ ht => ite_keeps ht (done_keeps (foldlSnd_keeps (pair_keeps ht)
    (fun _ _ ht1 => scrubLine_keeps ht1)))
  refine next_keeps ?_
  refine settle_keeps ?_
  refine hostLong_keeps ?_ (fun _ _ ht => hwork _ _ ht) hs
  intro _ _ ht
  refine ite_keeps (done_keeps ht) ?_
  split
  · exact done_keeps ht
  · exact hwork _ _ (rangeWake_keeps ht)

theorem putFree_keeps {be : BitVec 64} {x : (Tally × List Line) × State} (h : Keeps s₀ x.2) : Keeps s₀ (putFree be x a).2 := by
  unfold putFree
  exact pair_keeps (hostWrite_keeps (h.upd rfl))

theorem recordArea_keeps {base crc : Nat} (h : Keeps s₀ s) : Keeps s₀ (recordArea base n crc s) := bbrStat_keeps (imagePut_keeps h)

theorem checkpointWork_keeps {h : Handle} {t : State} (hs : Keeps s₀ t) : Keeps s₀ (checkpointWork k h t) := by
  unfold checkpointWork
  extract_lets n t1 r r1 st
  have hr : Keeps s₀ r.2 := foldlSnd_keeps (pair_keeps (foldl_keeps hs (fun _ _ ht => spillAll_keeps ht))) (fun _ _ ht =>
    putFree_keeps ht)
  have hr1 : Keeps s₀ r1.2 := by
    unfold r1
    split
    · exact hr
    · exact putFree_keeps hr
  exact ite_keeps (done_keeps hs) (ite_keeps (done_keeps hr1) (done_keeps (recordArea_keeps hr1)))

theorem execCheckpoint_keeps {h} (hs : Keeps s₀ s) : KeepsOut s₀ (execCheckpoint h s) :=
  next_keeps (settle_keeps (rangeCommand_keeps (fun _ _ ht => checkpointWork_keeps ht) hs))

theorem deepLine_keeps {err : Burst} (h : Keeps s₀ s) : Keeps s₀ (deepLine p la err s).2 := by
  unfold deepLine
  exact pair_keeps (noteDecode_keeps (readNow_keeps h))

theorem warmCheck_keeps {h : Handle} {errs : List (Nat × Burst)} (hs : Keeps s₀ s) : Keeps s₀ (warmCheck k h errs s) := by
  unfold warmCheck
  refine ite_keeps (done_keeps hs) ?_
  extract_lets valid base n same l r mask
  have hr : Keeps s₀ r.2 := foldlSnd_keeps (pair_keeps hs) (fun _ _ ht => pair_keeps (deepLine_keeps ht))
  exact ite_keeps (done_keeps hr) (done_keeps hr)

theorem execWarmVerify_keeps {h errs} (hs : Keeps s₀ s) : KeepsOut s₀ (execWarmVerify h errs s) :=
  next_keeps (settle_keeps (hostCommand_keeps (fun _ _ ht => warmCheck_keeps ht) hs))

theorem wf_foldl_putByte {α : Type} (g : α → Nat × Byte) (l : List α) {m : SMap Byte} (h : Memory.wf m) :
    Memory.wf (l.foldl (fun m e => putByte m (g e).1 (g e).2) m) := by
  induction l generalizing m with
  | nil => exact h
  | cons e l ih => exact ih (wf_putByte _ _ _ h)

theorem loadBytes_keeps {l : List Nat} (h : Keeps s₀ s) : Keeps s₀ (loadBytes c l s) :=
  h.mod rfl rfl fun ⟨hdram, hspad, hprog, hdata⟩ =>
    ⟨hdram, hspad, wf_foldl_putByte (fun e : Nat × Nat => (e.1, BitVec.ofNat 8 e.2)) _ hprog, hdata⟩

theorem loadWork_keeps {errs : List (Nat × Burst)} {h : Handle} {t : State} (hs : Keeps s₀ t) : Keeps s₀ (loadWork k errs h t) := by
  unfold loadWork
  extract_lets n c r st t1 t2
  have hr : Keeps s₀ r.2 := foldlSnd_keeps (pair_keeps hs) (fun _ _ ht => pair_keeps (hostRead_keeps ht))
  have ht1 : Keeps s₀ t1 := loadBytes_keeps hr
  exact ite_keeps (done_keeps hr) (ite_keeps (done_keeps ht1) (modCtx_keeps (ctxStart_keeps ht1)))

theorem execLoadProgram_keeps {h errs} (hs : Keeps s₀ s) : KeepsOut s₀ (execLoadProgram h errs s) := by
  unfold execLoadProgram
  extract_lets k lines stopped go
  have hgo : ∀ x t, Keeps s₀ t → Keeps s₀ (go x t) := fun _ _ ht => ite_keeps ht (ite_keeps (done_keeps ht) (ite_keeps (done_keeps
    ht) (ite_keeps (loadWork_keeps ht) ht)))
  refine next_keeps ?_
  refine settle_keeps ?_
  refine hostLong_keeps ?_ (fun _ _ ht => hgo _ _ ht) hs
  intro _ _ ht
  refine ite_keeps (done_keeps ht) ?_
  split
  · exact done_keeps ht
  · exact hgo _ _ (snoopReads_keeps (rangeWake_keeps ht))

theorem marchBad_keeps (h : Keeps s₀ s) : Keeps s₀ (marchBad p la s) := logPort_keeps h

theorem marchEnd_keeps (h : Keeps s₀ s) : Keeps s₀ (marchEnd k n s) := ite_keeps (done_keeps h) (done_keeps h)

theorem copySteps_keeps (h : Keeps s₀ s) : Keeps s₀ (copySteps p n s) := by
  induction n generalizing s with
  | zero => exact h
  | succ n ih => exact ih (copyStep_keeps h)

theorem marchRow_keeps {bad : List Nat} {key : Nat} (h : Keeps s₀ s) : Keeps s₀ (marchRow p bad s key) := by
  unfold marchRow
  refine ite_keeps h ?_
  extract_lets n la s1 mine
  have hs1 : Keeps s₀ s1 := copySteps_keeps (remapTrigger_keeps h)
  refine ite_keeps (foldl_keeps hs1 (fun _ _ ht => marchBad_keeps ht)) ?_
  split
  · exact hs1
  · exact copySteps_keeps (modProt_keeps hs1)

theorem marchDram_keeps {h : Handle} {fails : List Nat} (hs : Keeps s₀ s) : Keeps s₀ (marchDram k h fails s) := by
  unfold marchDram
  extract_lets p a n destr bgs bad b s1
  have hs1 : Keeps s₀ s1 := foldl_keeps hs (fun _ _ ht => storeLine_keeps (markOver_keeps (syncLine_keeps ht)))
  exact ite_keeps (done_keeps hs) (ite_keeps (done_keeps hs) (ite_keeps (ite_keeps (done_keeps hs) (marchEnd_keeps (foldl_keeps hs1
    (fun _ _ ht => marchBad_keeps ht)))) (ite_keeps (done_keeps hs) (ite_keeps hs (marchEnd_keeps (foldl_keeps hs (fun _ _ ht =>
    marchRow_keeps ht)))))))

theorem marchChip_keeps {h : Handle} {fails : List Nat} (hs : Keeps s₀ s) : Keeps s₀ (marchChip k h fails s) := by
  unfold marchChip
  extract_lets g destr alg bgs m s1 b s2
  have hs1 : Keeps s₀ s1 := foldl_keeps (hs.upd rfl) (fun _ _ ht => marchFail_keeps ht)
  have hs2 : Keeps s₀ s2 := ite_keeps (fillBank_keeps hs1) hs1
  exact ite_keeps (done_keeps hs) (ite_keeps (done_keeps hs) (marchEnd_keeps (hs2.upd rfl)))

theorem execMarch_keeps {h fails} (hs : Keeps s₀ s) : KeepsOut s₀ (execMarch h fails s) := by
  unfold execMarch
  extract_lets k go
  have hgo : ∀ x t, Keeps s₀ t → Keeps s₀ (go x t) := fun _ _ ht => ite_keeps (marchChip_keeps ht) (marchDram_keeps ht)
  exact next_keeps (settle_keeps (hostLong_keeps (fun _ _ ht => hgo _ _ ht) (fun _ _ ht => hgo _ _ ht) hs))

theorem runSteps_keeps {mask failed : Nat} (h : Keeps s₀ s) : Keeps s₀ (runSteps k p mask failed s) := by
  unfold runSteps
  extract_lets all s1
  have hs1 : Keeps s₀ s1 := foldl_keeps h (fun _ _ ht => runStep_keeps ht)
  exact ite_keeps (done_keeps (setFld_keeps hs1)) (done_keeps hs1)

theorem trainQuiet_keeps {mask failed : Nat} (h : Keeps s₀ s) : Keeps s₀ (trainQuiet k p mask failed s) := by
  unfold trainQuiet
  extract_lets s1
  have hs1 : Keeps s₀ s1 := closeAll_keeps h
  exact ite_keeps (runSteps_keeps hs1) hs1

theorem execTrain_keeps {h failed} (hs : Keeps s₀ s) : KeepsOut s₀ (execTrain h failed s) := by
  unfold execTrain
  extract_lets k go
  have hgo : ∀ x t, Keeps s₀ t → Keeps s₀ (go x t) := by
    intro _ _ ht
    unfold go
    extract_lets p mask
    refine ite_keeps (done_keeps ht) ?_
    split
    · exact runSteps_keeps ht
    · exact ite_keeps (done_keeps ht) (trainQuiet_keeps ht)
    · exact done_keeps ht
  exact next_keeps (settle_keeps (hostLong_keeps (fun _ _ ht => hgo _ _ ht) (fun _ _ ht => hgo _ _ ht) hs))

theorem retrain_keeps {level : Nat} {first more : Nat → State → State} (hfirst : ∀ x t, Keeps s₀ t → Keeps s₀ (first x t)) (hmore :
    ∀ x t, Keeps s₀ t → Keeps s₀ (more x t)) (h : Keeps s₀ s) :
    Keeps s₀ (retrain k level first more s) :=
  ite_keeps h (hostLong_keeps (fun _ _ ht => ite_keeps (done_keeps ht) (hfirst _ _ ht)) (fun _ _ ht => hmore _ _ ht) h)

theorem execRetrainTrack_keeps {h} (hs : Keeps s₀ s) : KeepsOut s₀ (execRetrainTrack h s) := by
  unfold execRetrainTrack
  extract_lets k go
  have hgo : ∀ x t, Keeps s₀ t → Keeps s₀ (go x t) := fun _ _ ht => ite_keeps ht (modTrain_keeps (startRound_keeps ht))
  exact next_keeps (settle_keeps (retrain_keeps (fun _ _ ht => ite_keeps (done_keeps ht) (hgo _ _ ht)) (fun _ _ ht => hgo _ _ ht)
    hs))

theorem execRetrainCsca_keeps {h failed} (hs : Keeps s₀ s) : KeepsOut s₀ (execRetrainCsca h failed s) := by
  unfold execRetrainCsca
  exact next_keeps (settle_keeps (retrain_keeps (fun _ _ ht => modSched_keeps ht) (fun _ _ ht => ite_keeps ht (runSteps_keeps ht))
    hs))

theorem execRetrainFull_keeps {h failed} (hs : Keeps s₀ s) : KeepsOut s₀ (execRetrainFull h failed s) := by
  unfold execRetrainFull
  extract_lets k go
  have hgo : ∀ x t, Keeps s₀ t → Keeps s₀ (go x t) := fun _ _ ht => ite_keeps (done_keeps ht) (trainQuiet_keeps ht)
  exact next_keeps (settle_keeps (retrain_keeps (fun _ _ ht => hgo _ _ ht) (fun _ _ ht => hgo _ _ ht) hs))

theorem rowRepair_keeps {hard : Bool} {go : Nat → Nat → State → State} (hgo : ∀ x x1 t, Keeps s₀ t → Keeps s₀ (go x x1 t)) (h :
    Keeps s₀ s) :
    Keeps s₀ (rowRepair k hard go s) := by
  unfold rowRepair
  refine ite_keeps h ?_
  refine hostCommand_keeps ?_ h
  intro _ _ ht
  extract_lets p
  split
  · exact done_keeps ht
  · exact hgo _ _ _ ht

theorem execRowRepairSoft_keeps {h freeResource} (hs : Keeps s₀ s) : KeepsOut s₀ (execRowRepairSoft h freeResource s) := by
  unfold execRowRepairSoft
  extract_lets k
  refine next_keeps ?_
  refine settle_keeps ?_
  refine rowRepair_keeps ?_ hs
  intro _ _ _ ht
  split
  · exact ite_keeps (softStartRepair_keeps ht) (done_keeps ht)
  · exact done_keeps ht

theorem execRowRepairHard_keeps {h} (hs : Keeps s₀ s) : KeepsOut s₀ (execRowRepairHard h s) := by
  unfold execRowRepairHard
  exact next_keeps (settle_keeps (rowRepair_keeps (fun _ _ _ ht => done_keeps (hardRepair_keeps ht)) hs))

theorem execLinkLoop_keeps {h} (hs : Keeps s₀ s) : KeepsOut s₀ (execLinkLoop h s) := by
  unfold execLinkLoop
  exact next_keeps (settle_keeps (hostCommand_keeps (fun _ _ ht => ite_keeps (done_keeps ht) (ite_keeps (done_keeps ht)
    (modLink_keeps ht))) hs))

theorem execFence_keeps {h} (hs : Keeps s₀ s) : KeepsOut s₀ (execFence h s) := by
  unfold execFence
  extract_lets k
  refine next_keeps ?_
  refine settle_keeps ?_
  refine hostCommand_keeps ?_ hs
  intro _ _ ht
  extract_lets n tmo t1
  have ht1 : Keeps s₀ t1 := modFab_keeps (setFld_keeps (takeFence_keeps ht))
  exact ite_keeps (done_keeps ht1) (modFab_keeps ht1)

theorem execUnfence_keeps {h} (hs : Keeps s₀ s) : KeepsOut s₀ (execUnfence h s) := by
  unfold execUnfence
  exact next_keeps (settle_keeps (hostCommand_keeps (fun _ _ ht => ite_keeps (done_keeps ht) (ite_keeps (done_keeps
    (releaseFence_keeps (modFab_keeps ht))) (releaseFence_keeps (modFab_keeps ht)))) hs))

theorem fedSet_keeps {mode : Nat} {body : Handle → State → State} (hbody : ∀ x t, Keeps s₀ t → Keeps s₀ (body x t)) (h : Keeps s₀ s)
    :
    Keeps s₀ (fedSet k mode body s) :=
  ite_keeps h (hostCommand_keeps (fun _ _ ht => hbody _ _ ht) h)

theorem execFedTimeSetArm_keeps {h} (hs : Keeps s₀ s) : KeepsOut s₀ (execFedTimeSetArm h s) := by
  unfold execFedTimeSetArm
  extract_lets k
  refine next_keeps ?_
  refine settle_keeps ?_
  refine fedSet_keeps ?_ hs
  intro _ _ ht
  extract_lets t1 free t2
  have ht1 : Keeps s₀ t1 := setFld_keeps (setFld_keeps (setFld_keeps (setFld_keeps (setFld_keeps ht))))
  have ht2 : Keeps s₀ t2 := stepStart_keeps ht1
  exact ite_keeps (armStep_keeps (modTb_keeps ht2)) (done_keeps ht2)

theorem execFedTimeSetPulse_keeps {h} (hs : Keeps s₀ s) : KeepsOut s₀ (execFedTimeSetPulse h s) := by
  unfold execFedTimeSetPulse
  exact next_keeps (settle_keeps (fedSet_keeps (fun _ _ ht => ite_keeps (done_keeps (epochPulse_keeps ht)) (done_keeps ht)) hs))

theorem execFedTimeSetTrim_keeps {h} (hs : Keeps s₀ s) : KeepsOut s₀ (execFedTimeSetTrim h s) := by
  unfold execFedTimeSetTrim
  extract_lets k
  refine next_keeps ?_
  refine settle_keeps ?_
  refine fedSet_keeps ?_ hs
  intro _ _ ht
  split
  · exact done_keeps ht
  · exact done_keeps (foldl_keeps ht (fun _ _ ht1 => stageFld_keeps ht1))

theorem abortRun_keeps (h : Keeps s₀ s) : Keeps s₀ (abortRun k s) := by
  unfold abortRun
  extract_lets hd
  refine ite_keeps (modHandle_keeps h) ?_
  split
  · exact modCtx_keeps (done_keeps h)
  · exact ite_keeps (endLoop_keeps h) (ite_keeps (stepAbandon_keeps (modTb_keeps (done_keeps h))) (done_keeps h))

theorem hostAbort_keeps {v : Word} (h : Keeps s₀ s) : Keeps s₀ (hostAbort v s) := by
  unfold hostAbort
  refine ite_keeps h ?_
  extract_lets out
  have hout : ∀ x t, Keeps s₀ t → Keeps s₀ (out x t) := fun _ _ ht => setFld_keeps (setFld_keeps ht)
  split
  · exact hout _ _ h
  · exact ite_keeps (ite_keeps (hout _ _ (abortRun_keeps h)) (hout _ _ h)) (hout _ _ (done_keeps h))

theorem execAbort_keeps {v} (h : Keeps s₀ s) : KeepsOut s₀ (execAbort v s) :=
  next_keeps (settle_keeps (ite_keeps h (hostAbort_keeps h)))

/-! ### Machine/Resets -/

theorem bootGroup_keeps {g : Nat} (h : Keeps s₀ s) : Keeps s₀ (bootGroup k s g) :=
  foldl_keeps h (fun _ _ ht => sramRemap_keeps (logEngine_keeps ht))

theorem bootMarch_keeps (h : Keeps s₀ s) : Keeps s₀ (bootMarch s) :=
  ite_keeps h (foldl_keeps (h.upd rfl) (fun _ _ ht => bootGroup_keeps ht))

theorem checkFuses_keeps (h : Keeps s₀ s) : Keeps s₀ (checkFuses s) := foldl_keeps h (fun _ _ ht => raise_keeps (setFld_keeps ht))

theorem enterE4_keeps (h : Keeps s₀ s) : Keeps s₀ (enterE4 s) := by
  unfold enterE4
  extract_lets ports src src2 fabs s1 s2
  have hs1 : Keeps s₀ s1 := h.mod rfl rfl fun ⟨hdram, _⟩ => ⟨hdram, wf_nil, wf_nil, wf_nil⟩
  exact pwrStat_keeps (launchStat_keeps (lanesTo_keeps (modPw_keeps (modEn_keeps hs1))))

theorem execReserveLowTrip_keeps (h : Keeps s₀ s) : KeepsOut s₀ (execReserveLowTrip s) := by
  unfold execReserveLowTrip
  refine next_keeps ?_
  refine settle_keeps ?_
  refine ite_keeps h ?_
  extract_lets s1
  have hs1 : Keeps s₀ s1 := raise_keeps (setFld_keeps (modEn_keeps h))
  exact ite_keeps (wake_keeps hs1) hs1

theorem pfFrom_keeps (h : Keeps s₀ s) : Keeps s₀ (pfFrom s) := pfStart_keeps (setFld_keeps (setFld_keeps (modPw_keeps h)))

theorem execPowerFailConfirm_keeps (h : Keeps s₀ s) : KeepsOut s₀ (execPowerFailConfirm s) :=
  next_keeps (settle_keeps (ite_keeps h (ite_keeps (enterE4_keeps (modPw_keeps h)) (pfFrom_keeps h))))

theorem pfPort_keeps (h : Keeps s₀ s) : Keeps s₀ (pfPort s p) := by
  unfold pfPort
  refine ite_keeps h ?_
  extract_lets s1 gone
  have hs1 : Keeps s₀ s1 := ite_keeps (srEnter_keeps h) h
  exact ite_keeps hs1 (loseDimms_keeps (setLost_keeps (setShed_keeps hs1)))

theorem execPfFlushDone_keeps (h : Keeps s₀ s) : KeepsOut s₀ (execPfFlushDone s) := by
  unfold execPfFlushDone
  refine next_keeps ?_
  refine settle_keeps ?_
  refine ite_keeps h ?_
  extract_lets live s1 s2 kept
  have hs1 : Keeps s₀ s1 := foldl_keeps h (fun _ _ ht => closeAll_keeps ht)
  exact ite_keeps hs1 (modEn_keeps (foldl_keeps (emptyStaging_keeps hs1) (fun _ _ ht => pfPort_keeps ht)))

theorem resetEngine_keeps (h : Keeps s₀ s) : Keeps s₀ (resetEngine s) := h.mod rfl rfl fun _ => reset_memOk

theorem execPfCommit_keeps (h : Keeps s₀ s) : KeepsOut s₀ (execPfCommit s) := by
  unfold execPfCommit
  refine next_keeps ?_
  refine ite_keeps h ?_
  extract_lets s1
  have hs1 : Keeps s₀ s1 := enterE4_keeps (commitImage_keeps h)
  exact ite_keeps (resetEngine_keeps hs1) hs1

theorem execEngineReset_keeps (h : Keeps s₀ s) : KeepsOut s₀ (execEngineReset s) :=
  next_keeps (ite_keeps (modPw_keeps h) (resetEngine_keeps h))

theorem execEngineResetRelease_keeps (h : Keeps s₀ s) : KeepsOut s₀ (execEngineResetRelease s) :=
  next_keeps (ite_keeps (modPw_keeps h) (ite_keeps h (pwrStat_keeps (showEnergy_keeps (checkFuses_keeps (setFld_keeps (modPw_keeps
    h)))))))

theorem warmStart_keeps (h : Keeps s₀ s) : Keeps s₀ (warmStart s p) := by
  unfold warmStart
  extract_lets gone s1 s2
  have hs1 : Keeps s₀ s1 := setPstate_keeps h
  have hs2 : Keeps s₀ s2 := setShed_keeps (loadPool_keeps (loadTrims_keeps hs1))
  exact ite_keeps (portStart_keeps (loseDimms_keeps hs1)) (ite_keeps (portStart_keeps hs2) (portStart_keeps hs2))

theorem restoreStalls_keeps (h : Keeps s₀ s) : Keeps s₀ (restoreStalls s) :=
  ite_keeps h (foldl_keeps h (fun _ _ ht => putStall_keeps ht))

theorem warmResume_keeps (h : Keeps s₀ s) : Keeps s₀ (warmResume s) := by
  unfold warmResume
  exact restoreStalls_keeps (foldl_keeps (modPw_keeps (bbrStat_keeps h)) (fun _ _ ht => warmStart_keeps ht))

theorem coldStart_keeps (h : Keeps s₀ s) : Keeps s₀ (coldStart s) := by
  have hs : Keeps s₀ (bbrStat 1 false (setBbr 0 0 s)) := bbrStat_keeps (setBbr_keeps h)
  exact hs.mod rfl rfl fun ⟨_, hrest⟩ => ⟨wf_nil, hrest⟩

theorem execPowerOnReset_keeps (h : Keeps s₀ s) : KeepsOut s₀ (execPowerOnReset s) := by
  unfold execPowerOnReset
  refine next_keeps ?_
  extract_lets valid src src2 s1 s2
  have hs1 : Keeps s₀ s1 := h.mod rfl rfl fun ⟨hdram, _⟩ => ⟨hdram, wf_nil, wf_nil, wf_nil⟩
  have hs2 : Keeps s₀ s2 := checkFuses_keeps (bootMarch_keeps hs1)
  exact pwrStat_keeps (showEnergy_keeps (ite_keeps (warmResume_keeps hs2) (coldStart_keeps hs2)))

theorem fabsBack_keeps (h : Keeps s₀ s) : Keeps s₀ (fabsBack s) := by
  unfold fabsBack
  refine foldl_keeps h ?_
  intro _ _ ht
  refine ite_keeps (setFld_keeps ht) ?_
  extract_lets t1
  have ht1 : Keeps s₀ t1 := modFab_keeps (setFld_keeps (setFld_keeps ht))
  exact ite_keeps (grantTallies_keeps ht1) ht1

theorem clearFoots_keeps (h : Keeps s₀ s) : Keeps s₀ (clearFoots s) :=
  footClear_keeps (foldl_keeps (foldl_keeps h (fun _ _ ht => footClear_keeps ht)) (fun _ _ ht => footClear_keeps ht))

theorem resumeE4_keeps (h : Keeps s₀ s) : Keeps s₀ (resumeE4 s) := by
  unfold resumeE4
  extract_lets s1 src s2 s3
  have hs1 : Keeps s₀ s1 := foldl_keeps h (fun _ _ ht => ite_keeps (setPstate_keeps ht) ht)
  have hs3 : Keeps s₀ s3 := modEn_keeps (hostStat_keeps (clearFoots_keeps (fabsBack_keeps (bootMarch_keeps (hs1.upd rfl)))))
  exact pwrStat_keeps (ite_keeps (warmResume_keeps hs3) (coldStart_keeps hs3))

theorem execBusReturnResume_keeps (h : Keeps s₀ s) : KeepsOut s₀ (execBusReturnResume s) := by
  unfold execBusReturnResume
  refine next_keeps ?_
  refine settle_keeps ?_
  split
  · exact ite_keeps (resumeE4_keeps (setFld_keeps (modEn_keeps h))) h
  · exact h

theorem execWakeE0_keeps {src} (h : Keeps s₀ s) : KeepsOut s₀ (execWakeE0 src s) :=
  next_keeps (settle_keeps (ite_keeps (resumeE4_keeps (setFld_keeps h)) (engineFrom_keeps h)))

theorem execSupplyFailure_keeps (h : Keeps s₀ s) : KeepsOut s₀ (execSupplyFailure s) := by
  unfold execSupplyFailure
  refine next_keeps ?_
  extract_lets held s1
  have hs1 : Keeps s₀ s1 := modPw_keeps (ite_keeps h (enterE4_keeps (modPw_keeps h)))
  exact pwrStat_keeps (ite_keeps hs1 (hs1.mod rfl rfl fun ⟨_, hrest⟩ => ⟨wf_nil, hrest⟩))

theorem softAsk_keeps (h : Keeps s₀ s) : Keeps s₀ (softAsk s) := by
  unfold softAsk
  refine ite_keeps h ?_
  extract_lets s1
  have hs1 : Keeps s₀ s1 := ite_keeps h (wake_keeps h)
  exact ite_keeps (softStart_keeps hs1) (modPw_keeps hs1)

theorem execSoftReset_keeps (h : Keeps s₀ s) : KeepsOut s₀ (execSoftReset s) := next_keeps (settle_keeps (softAsk_keeps h))

theorem homeClear_keeps (h : Keeps s₀ s) : Keeps s₀ (homeClear s) := by
  unfold homeClear
  extract_lets s1
  have hs1 : Keeps s₀ s1 := by
    unfold s1
    refine foldl_keeps h ?_
    intro _ _ ht
    split
    · exact fabLineDone_keeps ht
    · exact lantLineDone_keeps ht
    · exact ht
  exact rsvLoseAll_keeps (modHome_keeps hs1)

theorem ctxSoft_keeps (h : Keeps s₀ s) : Keeps s₀ (ctxSoft s c) := by
  unfold ctxSoft
  extract_lets s1
  have hs1 : Keeps s₀ s1 := by
    unfold s1
    split
    · exact dropReader_keeps h
    · exact h
  exact ctxResetNow_keeps hs1

theorem fabSoft_keeps (h : Keeps s₀ s) : Keeps s₀ (fabSoft s n) := by
  unfold fabSoft
  extract_lets s1 s2 s3 s4 s5
  have hs2 : Keeps s₀ s2 := modFab_keeps (fenceClose_keeps (foldl_keeps h (fun _ _ ht => dropReader_keeps ht)))
  have hs3 : Keeps s₀ s3 := ite_keeps (setFld_keeps hs2) hs2
  have hs4 : Keeps s₀ s4 := ite_keeps hs3 (clearTallies_keeps (setFld_keeps hs3))
  have hs5 : Keeps s₀ s5 := modFab_keeps (setFld_keeps (setFld_keeps hs4))
  exact ite_keeps hs3 (ite_keeps hs4 (ite_keeps (grantTallies_keeps hs5) hs5))

theorem softFinish_keeps (h : Keeps s₀ s) : Keeps s₀ (softFinish s) := by
  unfold softFinish
  extract_lets owed s0 s1 s2 s3 s4 s5 s6 s7 s8 s9 src src2 s10
  have hs1 : Keeps s₀ s1 := homeClear_keeps (foldl_keeps (setFld_keeps h) fun _ _ ht => failAll_keeps ht)
  have hs2 : Keeps s₀ s2 := pushRecords_keeps (abortHandles_keeps hs1)
  have hs3 : Keeps s₀ s3 := marchStop_keeps (stepAbandon_keeps (foldl_keeps hs2 fun _ _ ht => launchCancel_keeps ht))
  have hs4 : Keeps s₀ s4 := foldl_keeps hs3 fun _ _ ht => ctxSoft_keeps ht
  have hs6 : Keeps s₀ s6 := modLant_keeps (modCtx_keeps (ctxSoft_keeps hs4)) fun _ => ⟨rfl, rfl⟩
  have hs7 : Keeps s₀ s7 := foldl_keeps hs6 fun _ _ ht => modTrain_keeps ht
  have hs8 : Keeps s₀ s8 := foldl_keeps hs7 fun _ _ ht => ite_keeps ht (setFld_keeps ht)
  have hs9 : Keeps s₀ s9 := foldl_keeps hs8 fun _ _ ht => fabSoft_keeps ht
  clear_value s9
  exact raise_keeps (setFld_keeps (setFld_keeps (hs9.upd rfl)))

theorem execSoftResetTimeout_keeps (h : Keeps s₀ s) : KeepsOut s₀ (execSoftResetTimeout s) := by
  unfold execSoftResetTimeout
  refine next_keeps ?_
  refine settle_keeps ?_
  split
  · exact ite_keeps (softFinish_keeps h) h
  · exact h

theorem idleTick_keeps (h : Keeps s₀ s) : Keeps s₀ (idleTick s) := by
  unfold idleTick
  extract_lets s1 s2
  have hs1 : Keeps s₀ s1 := tickStep_keeps h
  have hs2 : Keeps s₀ s2 := ite_keeps (active_keeps hs1) hs1
  split
  · exact ite_keeps (settle_keeps (softFinish_keeps hs2)) hs2
  · exact hs2

/-! ### Machine/Boundaries -/

theorem applyAll_keeps {l : List Nat} (h : Keeps s₀ s) : Keeps s₀ (applyAll l s) :=
  foldl_keeps h (fun _ _ ht => applyShadow_keeps ht)

theorem dropAll_keeps {l : List Nat} (h : Keeps s₀ s) : Keeps s₀ (dropAll l s) := foldl_keeps h (fun _ _ ht => dropShadow_keeps ht)

theorem applyGroup_keeps {mine : Nat → Bool} {good : State → Bool} (h : Keeps s₀ s) : Keeps s₀ (applyGroup mine good s) := by
  unfold applyGroup
  split
  · exact h
  · exact ite_keeps (applyAll_keeps h) (reject_keeps (dropAll_keeps h))

theorem applyQueues_keeps (h : Keeps s₀ s) : Keeps s₀ (applyQueues s) := by
  unfold applyQueues
  exact foldl_keeps (applyGroup_keeps h) (fun _ _ ht => ite_keeps (setFld_keeps (modQueue_keeps ht)) ht)

theorem chargerSet_keeps (h : Keeps s₀ s) : Keeps s₀ (chargerSet s) := by
  unfold chargerSet
  exact charger_keeps (ite_keeps h (setFld_keeps (setFld_keeps h)))

theorem globalApply_keeps (h : Keeps s₀ s) : Keeps s₀ (globalApply s) := by
  unfold globalApply
  extract_lets plans gauge s1 s2 s3 s4 s5 s6 s7 s8 s9 s10
  have hs4 : Keeps s₀ s4 := applyGroup_keeps (applyGroup_keeps (applyGroup_keeps (applyGroup_keeps h)))
  have hs8 : Keeps s₀ s8 := modEn_keeps (applyAll_keeps (applyQueues_keeps (ite_keeps (modEn_keeps hs4) hs4)))
  have hs10 : Keeps s₀ s10 := chargerSet_keeps (ite_keeps (modEn_keeps hs8) hs8)
  exact ite_keeps (plan_keeps hs10) hs10

theorem passStart_keeps {s1 : State} (hs1 : Keeps s₀ s1) : Keeps s₀ (passStart s s1) := by
  unfold passStart
  exact ite_keeps (ite_keeps hs1 (hs1.upd rfl)) (setFld_keeps (hs1.upd rfl))

theorem globalBoundary_keeps (h : Keeps s₀ s) : Keeps s₀ (globalBoundary s) := by
  unfold globalBoundary
  refine ite_keeps h ?_
  extract_lets s1 s2 src
  have hs2 : Keeps s₀ s2 := saveImages_keeps (ite_keeps h (globalApply_keeps h))
  exact passStart_keeps (hs2.upd (by simp only [core]))

theorem execGlobalBoundary_keeps (h : Keeps s₀ s) : KeepsOut s₀ (execGlobalBoundary s) :=
  next_keeps (settle_keeps (globalBoundary_keeps h))

theorem passEndNow_keeps (h : Keeps s₀ s) : Keeps s₀ (passEndNow s) := by
  unfold passEndNow
  extract_lets words crc s1 src s2 s3
  have hs1 : Keeps s₀ s1 := setFld_keeps (setFld_keeps (setFld_keeps h))
  have hs2 : Keeps s₀ s2 := addFld_keeps hs1
  exact ite_keeps (setFld_keeps (setFld_keeps (setFld_keeps (hs1.upd rfl)))) (ite_keeps hs1 (ite_keeps hs2 (setFld_keeps (ite_keeps
    hs2 (raise_keeps hs2)))))

theorem execCrcPassEnd_keeps (h : Keeps s₀ s) : KeepsOut s₀ (execCrcPassEnd s) := next_keeps (ite_keeps (passEndNow_keeps h) h)

theorem modeChange_keeps (h : Keeps s₀ s) : Keeps s₀ (modeChange p s) := modSched_keeps h

theorem applySlot_keeps (h : Keeps s₀ s) : Keeps s₀ (applySlot p s) := by
  unfold applySlot
  extract_lets new off old s1 w
  have hs1 : Keeps s₀ s1 := setFld_keeps (applyShadow_keeps h)
  exact ite_keeps (applyShadow_keeps h) (ite_keeps (modeChange_keeps (applyShadow_keeps h)) (hs1.upd rfl))

theorem applySpCtl_keeps (h : Keeps s₀ s) : Keeps s₀ (applySpCtl p s) := by
  unfold applySpCtl
  extract_lets off new old s1
  have hs1 : Keeps s₀ s1 := setFld_keeps (applyShadow_keeps h)
  exact ite_keeps (applyShadow_keeps h) (hs1.upd rfl)

theorem mainTap_keeps (h : Keeps s₀ s) : Keeps s₀ (mainTap p s) := ite_keeps h (ite_keeps h (setFld_keeps h))

theorem loopSet_keeps (h : Keeps s₀ s) : Keeps s₀ (loopSet p s) := by
  unfold loopSet
  split
  · exact ite_keeps (modLink_keeps h) h
  · exact modLink_keeps h
  · exact h

theorem markLog_keeps {t : State} (ht : Keeps s₀ t) : Keeps s₀ (markLog p off s t) := by
  unfold markLog
  exact foldl_keeps ht (fun _ _ ht1 => ite_keeps ht1 (logPush_keeps ht1))

theorem applyPortReg_keeps (h : Keeps s₀ s) : Keeps s₀ (applyPortReg p s off) := by
  unfold applyPortReg
  extract_lets o s1
  have hs1 : Keeps s₀ s1 := applyShadow_keeps h
  exact ite_keeps (applySlot_keeps h) (ite_keeps (applySpCtl_keeps h) (ite_keeps (ite_keeps (applyShadow_keeps h) h) (ite_keeps
    (applyGroup_keeps h) (ite_keeps (ite_keeps hs1 (markLog_keeps (marksNew_keeps hs1))) (applyShadow_keeps h)))))

theorem portBoundary_keeps (h : Keeps s₀ s) : Keeps s₀ (portBoundary p s) := by
  unfold portBoundary
  refine ite_keeps h ?_
  extract_lets mine hold l s1 src s2
  have hs1 : Keeps s₀ s1 := mainTap_keeps (loopSet_keeps (foldl_keeps h (fun _ _ ht => applyPortReg_keeps ht)))
  have hs2 : Keeps s₀ s2 := crcRestart_keeps (hs1.upd rfl)
  split
  · exact setLead_keeps hs2
  · exact hs2

theorem execPortBoundary_keeps {p} (h : Keeps s₀ s) : KeepsOut s₀ (execPortBoundary p s) :=
  onPort_keeps h (fun _ ht => portBoundary_keeps ht)

/-! ### Machine/Stalls -/

theorem onStall_keeps {f : State → State} (h : Keeps s₀ s) (hf : ∀ t, Keeps s₀ t → Keeps s₀ (f t)) : KeepsOut s₀ (onStall a s f) :=
  next_keeps (ite_keeps (settle_keeps (hf _ h)) h)

theorem windowWrite_keeps {f : Nat → State → State} (h : Keeps s₀ s) (hf : ∀ x t, Keeps s₀ t → Keeps s₀ (f x t)) :
    Keeps s₀ (windowWrite off s f) := by
  unfold windowWrite
  exact ite_keeps h (ite_keeps (reject_keeps h) (hf _ _ h))

theorem onWindow_keeps {f : Nat → State → State} (h : Keeps s₀ s) (hf : ∀ x t, Keeps s₀ t → Keeps s₀ (f x t)) :
    KeepsOut s₀ (onWindow off s f) :=
  next_keeps (settle_keeps (windowWrite_keeps h (fun _ _ ht => hf _ _ ht)))

theorem execStallEnable_keeps (h : Keeps s₀ s) : KeepsOut s₀ (execStallEnable s) :=
  onWindow_keeps h (fun _ _ ht => enableStall_keeps ht)

theorem stopStall_keeps {cause : Nat} (h : Keeps s₀ s) : Keeps s₀ (stopStall a cause s) := ite_keeps h (resetStall_keeps h)

theorem execStallDisable_keeps (h : Keeps s₀ s) : KeepsOut s₀ (execStallDisable s) :=
  onWindow_keeps h (fun _ _ ht => stopStall_keeps ht)

theorem execStallReset_keeps (h : Keeps s₀ s) : KeepsOut s₀ (execStallReset s) :=
  onWindow_keeps h (fun _ _ ht => stopStall_keeps ht)

theorem execStallFlushTimer_keeps {st} (h : Keeps s₀ s) : KeepsOut s₀ (execStallFlushTimer st s) :=
  onStall_keeps h (fun _ ht => ite_keeps (flushPart_keeps ht) ht)

theorem execPairIdleRelease_keeps {st} (h : Keeps s₀ s) : KeepsOut s₀ (execPairIdleRelease st s) :=
  onStall_keeps h (fun _ ht => ite_keeps (modStall_keeps ht) ht)

theorem stallPump_keeps (h : Keeps s₀ s) : Keeps s₀ (stallPump a s) := pumpItems_keeps (tryClose_keeps (resumeWait_keeps h))

theorem spillDone_keeps (h : Keeps s₀ s) : Keeps s₀ (spillDone a s) := by
  unfold spillDone
  exact ite_keeps h (ite_keeps (ite_keeps h (stallPump_keeps (modStall_keeps (ringPutAll_keeps h)))) (ite_keeps h (stallPump_keeps
    (modStall_keeps (ringPutAll_keeps h)))))

theorem execStallSpillDone_keeps {st} (h : Keeps s₀ s) : KeepsOut s₀ (execStallSpillDone st s) :=
  onStall_keeps h (fun _ ht => spillDone_keeps ht)

theorem ringRead_keeps {addr : Nat} {failed : Bool} {err : Burst} (h : Keeps s₀ s) : Keeps s₀ (ringRead addr failed err s).2.2 := by
  unfold ringRead
  split
  · split
    · exact pairPair_keeps (pair_keeps h)
    · exact pairPair_keeps (pair_keeps (notePoisonRead_keeps (noteDecode_keeps (syncLine_keeps h))))
  · exact pairPair_keeps (pair_keeps h)

/-- `ringRead` as a function of which only `Keeps` is known: in the proofs below the kernel would otherwise evaluate it at a
stall's address. -/
theorem exists_ringRead (s₀ : State) :
    ∃ R, R = ringRead ∧ ∀ addr failed err t, Keeps s₀ t → Keeps s₀ (R addr failed err t).2.2 :=
  ⟨_, rfl, fun _ _ _ _ ht => ringRead_keeps ht⟩

theorem refillWord_keeps {x : Stall} {errs : List RefillErr} {tagOk : Bool} {tags : Line} {pos : Nat} (h : Keeps s₀ s) :
    Keeps s₀ (refillWord x errs tagOk tags pos s).2.2 := by
  obtain ⟨F, hF⟩ : ∃ F, F = refillWord := ⟨_, rfl⟩
  obtain ⟨R, hR, hkeeps⟩ := exists_ringRead s₀
  rw [← hF]
  delta refillWord at hF
  rw [← hR] at hF
  subst hF
  beta_reduce
  extract_lets e r tag
  have hr : Keeps s₀ r.2.2 := hkeeps _ _ _ _ h
  split
  · exact hr
  · split <;> exact hr

theorem refillWords_keeps {x : Stall} {errs : List RefillErr} {tagOk : Bool} {tags : Line} {l : List Nat} {y : SMap SWord × Nat ×
    State}
    (h : Keeps s₀ y.2.2) : Keeps s₀ (refillWords x errs tagOk tags l y).2.2 := by
  induction l generalizing y with
  | nil => exact h
  | cons i l ih => exact ih (refillWord_keeps h)

theorem refillDone_keeps {errs : List RefillErr} (h : Keeps s₀ s) : Keeps s₀ (refillDone a errs s) := by
  obtain ⟨F, hF⟩ : ∃ F, F = refillDone := ⟨_, rfl⟩
  obtain ⟨R, hR, hkeeps⟩ := exists_ringRead s₀
  rw [← hF]
  delta refillDone at hF
  rw [← hR] at hF
  subst hF
  beta_reduce
  extract_lets x0 s0 x k kept pos te t r s1 s2
  have hs0 : Keeps s₀ s0 := takePair_keeps h
  have ht : Keeps s₀ t.2.2 := hkeeps _ _ _ _ hs0
  have hs1 : Keeps s₀ s1 := modStall_keeps (refillWords_keeps (pairPair_keeps ht))
  exact ite_keeps h (ite_keeps hs0 (runReader_keeps (skipNow_keeps (ite_keeps hs1 (stallErr_keeps hs1)))))

theorem execStallRefillDone_keeps {st errs} (h : Keeps s₀ s) : KeepsOut s₀ (execStallRefillDone st errs s) :=
  onStall_keeps h (fun _ ht => refillDone_keeps ht)

theorem execStallFwaitResume_keeps {st} (h : Keeps s₀ s) : KeepsOut s₀ (execStallFwaitResume st s) :=
  onStall_keeps h (fun _ ht => stallPump_keeps ht)

theorem execStallCloseWord_keeps {st} (h : Keeps s₀ s) : KeepsOut s₀ (execStallCloseWord st s) :=
  onStall_keeps h (fun _ ht => pumpItems_keeps (tryClose_keeps ht))

theorem pioRefuse_keeps (h : Keeps s₀ s) : Keeps s₀ (pioRefuse s) := setFld_keeps h

theorem pioPush_keeps {v : Word} (h : Keeps s₀ s) : Keeps s₀ (pioPush v s) := by
  unfold pioPush
  extract_lets a eop lb s1 b x d it
  have hs1 : Keeps s₀ s1 := checkStall_keeps h
  exact ite_keeps h (ite_keeps (pioRefuse_keeps h) (ite_keeps (setFld_keeps hs1) (pumpItems_keeps (modStall_keeps hs1))))

theorem execPioPush_keeps {v} (h : Keeps s₀ s) : KeepsOut s₀ (execPioPush v s) :=
  next_keeps (settle_keeps (ite_keeps h (pioPush_keeps h)))

theorem pioShow_keeps {w : SWord} (h : Keeps s₀ s) : Keeps s₀ (pioShow w s) :=
  foldl_keeps (setFld_keeps (setFld_keeps h)) (fun _ _ ht => setFld_keeps ht)

theorem pioPopEnd_keeps (h : Keeps s₀ s) : Keeps s₀ (pioPopEnd s) := by
  unfold pioPopEnd
  split
  · exact h
  · split
    · exact pioShow_keeps (dropReader_keeps h)
    · exact h

theorem pioPop_keeps {v : Word} (h : Keeps s₀ s) : Keeps s₀ (pioPop v s) := by
  unfold pioPop
  extract_lets a s1
  have hs1 : Keeps s₀ s1 := startRead_keeps (checkStall_keeps h)
  exact ite_keeps h (ite_keeps (pioRefuse_keeps h) (ite_keeps (pioPopEnd_keeps hs1) (setFld_keeps hs1)))

theorem execPioPop_keeps {v} (h : Keeps s₀ s) : KeepsOut s₀ (execPioPop v s) :=
  next_keeps (settle_keeps (ite_keeps h (pioPop_keeps h)))

theorem execPioPopDone_keeps (h : Keeps s₀ s) : KeepsOut s₀ (execPioPopDone s) :=
  next_keeps (settle_keeps (ite_keeps (pioPopEnd_keeps h) h))

theorem writeEcntClr_keeps {v : Word} (h : Keeps s₀ s) : Keeps s₀ (writeEcntClr v s) := ite_keeps (setFld_keeps (setFld_keeps h)) h

theorem execStEcntClear_keeps {v} (h : Keeps s₀ s) : KeepsOut s₀ (execStEcntClear v s) := next_keeps (writeEcntClr_keeps h)

theorem writeErrClr_keeps {v : Word} (h : Keeps s₀ s) : Keeps s₀ (writeErrClr v s) := by
  unfold writeErrClr
  refine windowWrite_keeps h ?_
  intro _ _ ht
  split
  · exact modStall_keeps ht
  · exact ht

theorem execStErrClear_keeps {v} (h : Keeps s₀ s) : KeepsOut s₀ (execStErrClear v s) := next_keeps (writeErrClr_keeps h)

theorem packetBoundary_keeps (h : Keeps s₀ s) : Keeps s₀ (packetBoundary a s) := by
  unfold packetBoundary
  extract_lets x
  split
  · exact h
  · exact ite_keeps h (ite_keeps (crcRestart_keeps (modStall_keeps h)) (reject_keeps (modStall_keeps h)))

theorem execStallPacketBoundary_keeps {st} (h : Keeps s₀ s) : KeepsOut s₀ (execStallPacketBoundary st s) :=
  onStall_keeps h (fun _ ht => packetBoundary_keeps ht)

/-! ### Machine/Regs -/

theorem stageWord_keeps {d : RegDesc} {w : Nat} (h : Keeps s₀ s) : Keeps s₀ (stageWord off d w s) := ite_keeps h (h.upd rfl)

theorem forceWord_keeps {d : RegDesc} {w : Nat} (h : Keeps s₀ s) : Keeps s₀ (forceWord off d w s) := by
  unfold forceWord
  exact ite_keeps h (setWord_keeps h)

theorem plainWrite_keeps (h : Keeps s₀ s) : Keeps s₀ (plainWrite off v s) := by
  unfold plainWrite
  split
  · exact h
  · exact ite_keeps h (ite_keeps (reject_keeps h) (forceWord_keeps (stageWord_keeps h)))

theorem cfgApply_keeps {v : Word} (h : Keeps s₀ s) : Keeps s₀ (cfgApply v s) := by
  unfold cfgApply
  extract_lets s1
  have hs1 : Keeps s₀ s1 := setFld_keeps h
  exact ite_keeps (setFld_keeps hs1) hs1

theorem rejClear_keeps {v : Word} (h : Keeps s₀ s) : Keeps s₀ (rejClear v s) := ite_keeps (setWord_keeps h) h

theorem intSet_keeps {hi : Bool} {v : Word} (h : Keeps s₀ s) : Keeps s₀ (intSet hi v s) :=
  foldl_keeps h (fun _ _ ht => ite_keeps (raise_keeps ht) ht)

theorem stallBaseWrite_keeps {v : Word} (h : Keeps s₀ s) : Keeps s₀ (stallBaseWrite off v s) :=
  windowWrite_keeps h (fun _ _ ht => ite_keeps (reject_keeps ht) (ite_keeps (reject_keeps ht) (modStall_keeps ht)))

theorem stallCfg1Write_keeps {v : Word} (h : Keeps s₀ s) : Keeps s₀ (stallCfg1Write v s) :=
  windowWrite_keeps h (fun _ _ ht => ite_keeps (reject_keeps ht) (modStall_keeps ht))

theorem stallStatWrite_keeps {v : Word} (h : Keeps s₀ s) : Keeps s₀ (stallStatWrite v s) :=
  windowWrite_keeps h (fun _ _ ht => modStall_keeps ht)

theorem viaRow_keeps {o : Out} (ho : KeepsOut s₀ o) (h : Keeps s₀ s) : Keeps s₀ (viaRow o s) := by
  unfold viaRow
  split
  · exact ho _ rfl
  · exact h

theorem withNo_keeps {f : Fin n → Out} (hf : ∀ i, KeepsOut s₀ (f i)) (h : Keeps s₀ s) : Keeps s₀ (withNo n k f s) := by
  unfold withNo
  split
  · exact viaRow_keeps (hf _) h
  · exact h

theorem stallOpWrite_keeps {v : Word} (h : Keeps s₀ s) : Keeps s₀ (stallOpWrite v s) := by
  unfold stallOpWrite
  split
  · exact viaRow_keeps (execStallEnable_keeps h) h
  · exact viaRow_keeps (execStallDisable_keeps h) h
  · exact viaRow_keeps (execStallReset_keeps h) h
  · exact h

theorem ctxCtlWrite_keeps {v : Word} (h : Keeps s₀ s) : Keeps s₀ (ctxCtlWrite c v s) := by
  unfold ctxCtlWrite
  extract_lets s1
  have hs1 : Keeps s₀ s1 := modCtx_keeps h
  split
  · exact withNo_keeps (fun _ => execStart_keeps hs1) hs1
  · exact withNo_keeps (fun _ => execStop_keeps hs1) hs1
  · exact withNo_keeps (fun _ => execContextReset_keeps hs1) hs1
  · exact hs1

theorem ctxWrite_keeps {o : Nat} {v : Word} (h : Keeps s₀ s) : Keeps s₀ (ctxWrite c o off v s) := by
  unfold ctxWrite
  exact ite_keeps h (ite_keeps (ctxCtlWrite_keeps h) (ite_keeps (ite_keeps (modCtx_keeps h) (reject_keeps h)) (ite_keeps (ite_keeps
    (modCtx_keeps h) (reject_keeps h)) (ite_keeps (ite_keeps (reject_keeps h) (ite_keeps (modCtx_keeps h) (reject_keeps h)))
    (ite_keeps (ite_keeps (reject_keeps h) (ite_keeps (modCtx_keeps h) (reject_keeps h))) (ite_keeps (withNo_keeps (fun _ =>
    execLantDurClear_keeps h) h) (plainWrite_keeps h)))))))

theorem pwrReqWrite_keeps {v : Word} (h : Keeps s₀ s) : Keeps s₀ (pwrReqWrite v s) := by
  unfold pwrReqWrite
  extract_lets t
  refine ite_keeps (reject_keeps h) ?_
  refine ite_keeps h ?_
  clear_value t
  split
  · exact viaRow_keeps (execWakeE0_keeps h) h
  · exact viaRow_keeps (execEnterE1_keeps h) h
  · exact viaRow_keeps (execEnterE2_keeps h) h
  · exact viaRow_keeps (execEnterE3_keeps h) h
  · exact viaRow_keeps (execEnterE4_keeps h) h

theorem ppReqWrite_keeps {v : Word} (h : Keeps s₀ s) : Keeps s₀ (ppReqWrite p off v s) := by
  unfold ppReqWrite
  extract_lets t
  refine ite_keeps (reject_keeps h) ?_
  refine ite_keeps h ?_
  refine withNo_keeps ?_ h
  intro _
  clear_value t
  split
  · exact execPortOff_keeps h
  · exact execPortOn_keeps h
  · exact execPortSelfRefresh_keeps h
  · exact execPortWake_keeps h
  · exact execPortReset_keeps h

theorem trimWrite_keeps {v : Word} (h : Keeps s₀ s) : Keeps s₀ (trimWrite p off v s) := by
  unfold trimWrite
  exact ite_keeps (reject_keeps h) (ite_keeps h (modTrain_keeps h))

theorem stepWrite_keeps {v : Word} (h : Keeps s₀ s) : Keeps s₀ (stepWrite v s) := by
  unfold stepWrite
  split
  · exact viaRow_keeps (execSoftStep_keeps h) h
  · exact viaRow_keeps (execArmEpochStep_keeps h) h
  · exact viaRow_keeps (execAbandonStep_keeps h) h
  · exact h

theorem marchWrite_keeps {v : Word} (h : Keeps s₀ s) : Keeps s₀ (marchWrite v s) := by
  unfold marchWrite
  extract_lets s1
  have hs1 : Keeps s₀ s1 := ite_keeps (viaRow_keeps (execMarchStart_keeps h) h) h
  exact ite_keeps (viaRow_keeps (execMarchAbort_keeps hs1) hs1) hs1

theorem lowWrite_keeps {v : Word} (h : Keeps s₀ s) : Keeps s₀ (lowWrite off v s) := by
  unfold lowWrite
  refine ite_keeps (ite_keeps (viaRow_keeps (execProgramRamWrite_keeps h) h) (ite_keeps (viaRow_keeps (execDataRamWrite_keeps h) h)
    h)) ?_
  refine ite_keeps ?_ ?_
  · extract_lets n
    split
    · exact withNo_keeps (fun _ => execFpProtoClear_keeps h) h
    · exact withNo_keeps (fun _ => execFpDurClear_keeps h) h
    · exact plainWrite_keeps h
  · refine ite_keeps (ctxWrite_keeps h) ?_
    refine ite_keeps (viaRow_keeps (execBbrWrite_keeps h) h) ?_
    refine ite_keeps (withNo_keeps (fun _ => execLogTailWrite_keeps h) h) ?_
    refine ite_keeps (withNo_keeps (fun _ => execBrMissClear_keeps h) h) ?_
    refine ite_keeps (withNo_keeps (fun _ => execDoorbell_keeps h) h) ?_
    split
    · exact intSet_keeps h
    · exact intSet_keeps h
    · exact cfgApply_keeps h
    · exact rejClear_keeps h
    · exact stepWrite_keeps h
    · exact viaRow_keeps (execTbAlarmWrite_keeps h) h
    · exact viaRow_keeps (execTbAlarmWrite_keeps h) h
    · exact viaRow_keeps (execTbAlarmWrite_keeps h) h
    · exact viaRow_keeps (execLaunchCancel_keeps h) h
    · exact viaRow_keeps (execEpochPulseOut_keeps h) h
    · exact viaRow_keeps (execSchMissLogClear_keeps h) h
    · exact viaRow_keeps (execPlnSlotpWrite_keeps h) h
    · exact pwrReqWrite_keeps h
    · exact viaRow_keeps (execPwrCntClear_keeps h) h
    · exact viaRow_keeps (execDomainOn_keeps h) h
    · exact ite_keeps (viaRow_keeps (execSoftReset_keeps h) h) h
    · exact viaRow_keeps (execElLostClear_keeps h) h
    · exact marchWrite_keeps h
    · exact viaRow_keeps (execLnIcInvalidate_keeps h) h
    · exact viaRow_keeps (execAbort_keeps h) h
    · exact viaRow_keeps (execAgentReadmit_keeps h) h
    · exact viaRow_keeps (execHomeCntClear_keeps h) h
    · exact viaRow_keeps (execRingDurClear_keeps h) h
    · exact viaRow_keeps (execHomeRsvClear_keeps h) h
    · exact plainWrite_keeps h

theorem portWrite_keeps {v : Word} (h : Keeps s₀ s) : Keeps s₀ (portWrite p off v s) := by
  unfold portWrite
  split
  · exact withNo_keeps (fun _ => execPsCntClear_keeps h) h
  · exact withNo_keeps (fun _ => execTsCntClear_keeps h) h
  · exact withNo_keeps (fun _ => execDpCntClear_keeps h) h
  · exact ite_keeps (withNo_keeps (fun _ => execSlCntClear_keeps h) h) h
  · exact withNo_keeps (fun _ => execTrCntClear_keeps h) h
  · exact trimWrite_keeps h
  · exact withNo_keeps (fun _ => execEcCntClear_keeps h) h
  · exact withNo_keeps (fun _ => execRemapAdd_keeps h) h
  · exact ppReqWrite_keeps h
  · exact plainWrite_keeps h

theorem highWrite_keeps {v : Word} (h : Keeps s₀ s) : Keeps s₀ (highWrite off v s) := by
  unfold highWrite
  split
  · exact viaRow_keeps (execStEcntClear_keeps h) h
  · exact stallBaseWrite_keeps h
  · exact stallBaseWrite_keeps h
  · exact stallBaseWrite_keeps h
  · exact stallCfg1Write_keeps h
  · exact stallOpWrite_keeps h
  · exact stallStatWrite_keeps h
  · exact viaRow_keeps (execStErrClear_keeps h) h
  · exact viaRow_keeps (execPioPush_keeps h) h
  · exact viaRow_keeps (execPioPop_keeps h) h
  · exact viaRow_keeps (execSpadClear_keeps h) h
  · exact plainWrite_keeps h

theorem windowStore_keeps {v : Word} (h : Keeps s₀ s) : Keeps s₀ (windowStore off v s) :=
  ite_keeps h (ite_keeps (lowWrite_keeps h) (ite_keeps (portWrite_keeps h) (highWrite_keeps h)))

theorem writeWakes_keeps (h : Keeps s₀ s) : Keeps s₀ (writeWakes s) := by
  unfold writeWakes
  exact ite_keeps h (ite_keeps (wake_keeps h) (ite_keeps (active_keeps h) h))

theorem regWrite_keeps {bytes : Nat} {v : Word} (h : Keeps s₀ s) : Keeps s₀ (regWrite off bytes v s) :=
  ite_keeps h (ite_keeps (reject_keeps h) (windowStore_keeps (ite_keeps h (writeWakes_keeps h))))

theorem execRegisterWrite_keeps {off bytes v} (h : Keeps s₀ s) : KeepsOut s₀ (execRegisterWrite off bytes v s) :=
  next_keeps (settle_keeps (regWrite_keeps h))

theorem execCfgApplyHold_keeps {v} (h : Keeps s₀ s) : KeepsOut s₀ (execCfgApplyHold v s) :=
  next_keeps (ite_keeps h (cfgApply_keeps h))

theorem execCfgCommit_keeps {v} (h : Keeps s₀ s) : KeepsOut s₀ (execCfgCommit v s) := next_keeps (ite_keeps h (cfgApply_keeps h))

theorem execCfgRejClear_keeps {v} (h : Keeps s₀ s) : KeepsOut s₀ (execCfgRejClear v s) :=
  next_keeps (ite_keeps h (rejClear_keeps h))

theorem execIntSet_keeps {hi v} (h : Keeps s₀ s) : KeepsOut s₀ (execIntSet hi v s) := next_keeps (ite_keeps h (intSet_keeps h))

/-! ### Machine/Dispatch and Machine/Step -/

/-- Every command keeps what `Keeps` says, whatever it does to the rest of the state. -/
theorem exec_keeps {i : Instr} (h : Keeps s₀ s) : KeepsOut s₀ (exec i s) := by
  cases i with
  | add => exact execAdd_keeps h
  | sub => exact execSub_keeps h
  | and => exact execAnd_keeps h
  | or => exact execOr_keeps h
  | xor => exact execXor_keeps h
  | andn => exact execAndn_keeps h
  | sll => exact execSll_keeps h
  | srl => exact execSrl_keeps h
  | sra => exact execSra_keeps h
  | slt => exact execSlt_keeps h
  | sltu => exact execSltu_keeps h
  | min => exact execMin_keeps h
  | max => exact execMax_keeps h
  | minu => exact execMinu_keeps h
  | maxu => exact execMaxu_keeps h
  | neg => exact execNeg_keeps h
  | mul => exact execMul_keeps h
  | mulh => exact execMulh_keeps h
  | mulhu => exact execMulhu_keeps h
  | div => exact execDiv_keeps h
  | divu => exact execDivu_keeps h
  | rem => exact execRem_keeps h
  | remu => exact execRemu_keeps h
  | clz => exact execClz_keeps h
  | ctz => exact execCtz_keeps h
  | popc => exact execPopc_keeps h
  | sext => exact execSext_keeps h
  | adc => exact execAdc_keeps h
  | sbc => exact execSbc_keeps h
  | addi => exact execAddi_keeps h
  | andi => exact execAndi_keeps h
  | ori => exact execOri_keeps h
  | xori => exact execXori_keeps h
  | shi => exact execShi_keeps h
  | hsetz => exact execHsetz_keeps h
  | hins => exact execHins_keeps h
  | slti => exact execSlti_keeps h
  | sltiu => exact execSltiu_keeps h
  | cmpi => exact execCmpi_keeps h
  | bc => exact execBc_keeps h
  | beq => exact execBeq_keeps h
  | bne => exact execBne_keeps h
  | blt => exact execBlt_keeps h
  | bge => exact execBge_keeps h
  | bltu => exact execBltu_keeps h
  | bgeu => exact execBgeu_keeps h
  | jal => exact execJal_keeps h
  | jalr => exact execJalr_keeps h
  | lbu => exact execLbu_keeps h
  | lhu => exact execLhu_keeps h
  | lwu => exact execLwu_keeps h
  | ld => exact execLd_keeps h
  | lb => exact execLb_keeps h
  | lh => exact execLh_keeps h
  | lw => exact execLw_keeps h
  | sb => exact execSb_keeps h
  | sh => exact execSh_keeps h
  | sw => exact execSw_keeps h
  | sd => exact execSd_keeps h
  | ldm => exact execLdm_keeps h
  | stm => exact execStm_keeps h
  | ldln => exact execLdln_keeps h
  | stln => exact execStln_keeps h
  | zln => exact execZln_keeps h
  | lantLr => exact execLantLr_keeps h
  | lantSc => exact execLantSc_keeps h
  | lantAmo => exact execLantAmo_keeps h
  | sput => exact execSput_keeps h
  | sget => exact execSget_keeps h
  | stly => exact execStly_keeps h
  | scmd => exact execScmd_keeps h
  | rdtb => exact execRdtb_keeps h
  | wait => exact execWait_keeps h
  | waitResume => exact execWaitResume_keeps h
  | launch => exact execLaunch_keeps h
  | lcancel => exact execLcancel_keeps h
  | bar => exact execBar_keeps h
  | iflush => exact execIflush_keeps h
  | hbind => exact execHbind_keeps h
  | hdone => exact execHdone_keeps h
  | brk => exact execBrk_keeps h
  | halt => exact execHalt_keeps h
  | eqEnergyTotal => exact execEqEnergyTotal_keeps h
  | eqUsableReserve => exact execEqUsableReserve_keeps h
  | eqDomainLow => exact execEqDomainLow_keeps h
  | eqDomainHigh => exact execEqDomainHigh_keeps h
  | eqRetention => exact execEqRetention_keeps h
  | eqAllowance => exact execEqAllowance_keeps h
  | eqStage => exact execEqStage_keeps h
  | mfs => exact execMfs_keeps h
  | mts => exact execMts_keeps h
  | mrw => exact execMrw_keeps h
  | mrr => exact execMrr_keeps h
  | refcRefNow => exact execRefcRefNow_keeps h
  | refcSrEnter => exact execRefcSrEnter_keeps h
  | refcSrExit => exact execRefcSrExit_keeps h
  | refcZq => exact execRefcZq_keeps h
  | rrepSoft => exact execRrepSoft_keeps h
  | rrepHard => exact execRrepHard_keeps h
  | trstep => exact execTrstep_keeps h
  | rd => exact execRd_keeps h
  | wr => exact execWr_keeps h
  | wrz => exact execWrz_keeps h
  | lr => exact execLr_keeps h
  | sc => exact execSc_keeps h
  | amo => exact execAmo_keeps h
  | order => exact execOrder_keeps h
  | visible => exact execVisible_keeps h
  | durable => exact execDurable_keeps h
  | stallPut => exact execStallPut_keeps h
  | stallWordRead => exact execStallWordRead_keeps h
  | tallyFetch => exact execTallyFetch_keeps h
  | drop => exact execDrop_keeps h
  | mark => exact execMark_keeps h
  | rewind => exact execRewind_keeps h
  | release => exact execRelease_keeps h
  | flush => exact execFlush_keeps h
  | reqReservedOpcode => exact execReqReservedOpcode_keeps h
  | writeDataBeat => exact execWriteDataBeat_keeps h
  | readBeatAccept => exact execReadBeatAccept_keeps h
  | responseAccept => exact execResponseAccept_keeps h
  | urgChange => exact execUrgChange_keeps h
  | exc => exact execExc_keeps h
  | fabClkMeasure => exact execFabClkMeasure_keeps h
  | burstTimeout => exact execBurstTimeout_keeps h
  | fabricPortBoundary => exact execFabricPortBoundary_keeps h
  | pwbDrain => exact execPwbDrain_keeps h
  | queueEntry => exact execQueueEntry_keeps h
  | lineDataReturn => exact execLineDataReturn_keeps h
  | fpProtoClear => exact execFpProtoClear_keeps h
  | fpDurClear => exact execFpDurClear_keeps h
  | homeRsvClear => exact execHomeRsvClear_keeps h
  | commandSlotSelect => exact execCommandSlotSelect_keeps h
  | refreshDue => exact execRefreshDue_keeps h
  | rowTimeoutClose => exact execRowTimeoutClose_keeps h
  | hotRestore => exact execHotRestore_keeps h
  | trainingPauseStart => exact execTrainingPauseStart_keeps h
  | pauseForce => exact execPauseForce_keeps h
  | brMissClear => exact execBrMissClear_keeps h
  | schMissLogClear => exact execSchMissLogClear_keeps h
  | psCntClear => exact execPsCntClear_keeps h
  | tbCountRead => exact execTbCountRead_keeps h
  | softStep => exact execSoftStep_keeps h
  | armEpochStep => exact execArmEpochStep_keeps h
  | abandonStep => exact execAbandonStep_keeps h
  | stepLoad => exact execStepLoad_keeps h
  | stepArmTimeout => exact execStepArmTimeout_keeps h
  | epochPulseIn => exact execEpochPulseIn_keeps h
  | epochPulseOut => exact execEpochPulseOut_keeps h
  | timeMarkStart => exact execTimeMarkStart_keeps h
  | timeMarkAnswer => exact execTimeMarkAnswer_keeps h
  | launchHold => exact execLaunchHold_keeps h
  | launchStart => exact execLaunchStart_keeps h
  | refHoldEnd => exact execRefHoldEnd_keeps h
  | streamLineEnter => exact execStreamLineEnter_keeps h
  | stallSwitch => exact execStallSwitch_keeps h
  | launchCancel => exact execLaunchCancel_keeps h
  | launchSelfWake => exact execLaunchSelfWake_keeps h
  | tbAlarmWrite => exact execTbAlarmWrite_keeps h
  | tbAlarmFire => exact execTbAlarmFire_keeps h
  | pwrGoodRise => exact execPwrGoodRise_keeps h
  | pwrGoodTimeout => exact execPwrGoodTimeout_keeps h
  | spdReadDone => exact execSpdReadDone_keeps h
  | initDone => exact execInitDone_keeps h
  | zeroFillDone => exact execZeroFillDone_keeps h
  | alert => exact execAlert_keeps h
  | alertRise => exact execAlertRise_keeps h
  | alertRecoveryDone => exact execAlertRecoveryDone_keeps h
  | commandKnownGood => exact execCommandKnownGood_keeps h
  | pwrGoodLost => exact execPwrGoodLost_keeps h
  | autoSelfRefresh => exact execAutoSelfRefresh_keeps h
  | selfRefreshExit => exact execSelfRefreshExit_keeps h
  | zqStart => exact execZqStart_keeps h
  | zqLatch => exact execZqLatch_keeps h
  | dimmTempPoll => exact execDimmTempPoll_keeps h
  | dpCntClear => exact execDpCntClear_keeps h
  | linkup => exact execLinkup_keeps h
  | laneLockLoss => exact execLaneLockLoss_keeps h
  | laneWeak => exact execLaneWeak_keeps h
  | spareSwitch => exact execSpareSwitch_keeps h
  | takeoverTimeout => exact execTakeoverTimeout_keeps h
  | recalTurn => exact execRecalTurn_keeps h
  | recalReturn => exact execRecalReturn_keeps h
  | relink => exact execRelink_keeps h
  | linkTimeout => exact execLinkTimeout_keeps h
  | rateChange => exact execRateChange_keeps h
  | packetCrcFail => exact execPacketCrcFail_keeps h
  | nakRepeat => exact execNakRepeat_keeps h
  | nak => exact execNak_keeps h
  | creditAck => exact execCreditAck_keeps h
  | packetReserved => exact execPacketReserved_keeps h
  | readDataPacket => exact execReadDataPacket_keeps h
  | readDataLost => exact execReadDataLost_keeps h
  | refuse => exact execRefuse_keeps h
  | cap => exact execCap_keeps h
  | err => exact execErr_keeps h
  | alertPacket => exact execAlertPacket_keeps h
  | temp => exact execTemp_keeps h
  | laneFault => exact execLaneFault_keeps h
  | regData => exact execRegData_keeps h
  | mrrData => exact execMrrData_keeps h
  | pwr => exact execPwr_keeps h
  | resume p seq lost sr => exact execResume_keeps (_lost := lost) h
  | codeUpdate => exact execCodeUpdate_keeps h
  | slCntClear => exact execSlCntClear_keeps h
  | laneSoak => exact execLaneSoak_keeps h
  | trackingRound => exact execTrackingRound_keeps h
  | trackReadPause => exact execTrackReadPause_keeps h
  | trackWritePause => exact execTrackWritePause_keeps h
  | trackOscPause => exact execTrackOscPause_keeps h
  | driftClamp => exact execDriftClamp_keeps h
  | trCntClear => exact execTrCntClear_keeps h
  | gatherClose => exact execGatherClose_keeps h
  | rmwReadDone => exact execRmwReadDone_keeps h
  | scrubVisit => exact execScrubVisit_keeps h
  | scrubVisitDone => exact execScrubVisitDone_keeps h
  | ceWindowExpire => exact execCeWindowExpire_keeps h
  | ceThRaise => exact execCeThRaise_keeps h
  | logTailWrite => exact execLogTailWrite_keeps h
  | elLostClear => exact execElLostClear_keeps h
  | ecCntClear => exact execEcCntClear_keeps h
  | remapAdd => exact execRemapAdd_keeps h
  | remapCopyLine => exact execRemapCopyLine_keeps h
  | marchStart => exact execMarchStart_keeps h
  | marchAbort => exact execMarchAbort_keeps h
  | marchEnd => exact execMarchEnd_keeps h
  | spadClear => exact execSpadClear_keeps h
  | stallEnable => exact execStallEnable_keeps h
  | stallDisable => exact execStallDisable_keeps h
  | stallReset => exact execStallReset_keeps h
  | stallFlushTimer => exact execStallFlushTimer_keeps h
  | pairIdleRelease => exact execPairIdleRelease_keeps h
  | stallSpillDone => exact execStallSpillDone_keeps h
  | stallRefillDone => exact execStallRefillDone_keeps h
  | stallFwaitResume => exact execStallFwaitResume_keeps h
  | stallCloseWord => exact execStallCloseWord_keeps h
  | pioPush => exact execPioPush_keeps h
  | pioPop => exact execPioPop_keeps h
  | pioPopDone => exact execPioPopDone_keeps h
  | stEcntClear => exact execStEcntClear_keeps h
  | stErrClear => exact execStErrClear_keeps h
  | rds => exact execRds_keeps h
  | rdu => exact execRdu_keeps h
  | upg => exact execUpg_keeps h
  | wb => exact execWb_keeps h
  | rdo => exact execRdo_keeps h
  | wru => exact execWru_keeps h
  | atom => exact execAtom_keeps h
  | ringBar => exact execRingBar_keeps h
  | nrd => exact execNrd_keeps h
  | nwr => exact execNwr_keeps h
  | ringReqReserved => exact execRingReqReserved_keeps h
  | ans => exact execAns_keeps h
  | ack => exact execAck_keeps h
  | snoopTimeout => exact execSnoopTimeout_keeps h
  | agentReadmit => exact execAgentReadmit_keeps h
  | homeCntClear => exact execHomeCntClear_keeps h
  | ringDurClear => exact execRingDurClear_keeps h
  | undefinedInstruction => exact execUndefinedInstruction_keeps h
  | ifetchMissDone => exact execIfetchMissDone_keeps h
  | ldlnDataArrive => exact execLdlnDataArrive_keeps h
  | postedStoreDone => exact execPostedStoreDone_keeps h
  | start => exact execStart_keeps h
  | stop => exact execStop_keeps h
  | contextReset => exact execContextReset_keeps h
  | lnIcInvalidate => exact execLnIcInvalidate_keeps h
  | programRamWrite => exact execProgramRamWrite_keeps h
  | dataRamWrite => exact execDataRamWrite_keeps h
  | lantDurClear => exact execLantDurClear_keeps h
  | doorbell => exact execDoorbell_keeps h
  | descriptorRead => exact execDescriptorRead_keeps h
  | nop => exact execNop_keeps h
  | train => exact execTrain_keeps h
  | retrainTrack => exact execRetrainTrack_keeps h
  | retrainCsca => exact execRetrainCsca_keeps h
  | retrainFull => exact execRetrainFull_keeps h
  | scrub => exact execScrub_keeps h
  | march => exact execMarch_keeps h
  | copy => exact execCopy_keeps h
  | fill => exact execFill_keeps h
  | checkpoint => exact execCheckpoint_keeps h
  | warmVerify => exact execWarmVerify_keeps h
  | rowRepairSoft => exact execRowRepairSoft_keeps h
  | rowRepairHard => exact execRowRepairHard_keeps h
  | linkLoop => exact execLinkLoop_keeps h
  | fence => exact execFence_keeps h
  | unfence => exact execUnfence_keeps h
  | loadProgram => exact execLoadProgram_keeps h
  | fedTimeSetArm => exact execFedTimeSetArm_keeps h
  | fedTimeSetPulse => exact execFedTimeSetPulse_keeps h
  | fedTimeSetTrim => exact execFedTimeSetTrim_keeps h
  | completionPush => exact execCompletionPush_keeps h
  | abort => exact execAbort_keeps h
  | cfgFenceRequest => exact execCfgFenceRequest_keeps h
  | cfgFenceRelease => exact execCfgFenceRelease_keeps h
  | fenceDrained => exact execFenceDrained_keeps h
  | fenceTimeout => exact execFenceTimeout_keeps h
  | meterInterval => exact execMeterInterval_keeps h
  | adcSample => exact execAdcSample_keeps h
  | busTrip => exact execBusTrip_keeps h
  | busClear => exact execBusClear_keeps h
  | reserveLowTrip => exact execReserveLowTrip_keeps h
  | reserveRelease => exact execReserveRelease_keeps h
  | powerFailConfirm => exact execPowerFailConfirm_keeps h
  | pfFlushDone => exact execPfFlushDone_keeps h
  | pfCommit => exact execPfCommit_keeps h
  | gaugeRebase => exact execGaugeRebase_keeps h
  | packRemoval => exact execPackRemoval_keeps h
  | packReturn => exact execPackReturn_keeps h
  | chargerAdjust => exact execChargerAdjust_keeps h
  | plannerRun => exact execPlannerRun_keeps h
  | busReturnResume => exact execBusReturnResume_keeps h
  | plnSlotpWrite => exact execPlnSlotpWrite_keeps h
  | bbrWrite => exact execBbrWrite_keeps h
  | energyReadLatch => exact execEnergyReadLatch_keeps h
  | vbatLoss => exact execVbatLoss_keeps h
  | idleE1 => exact execIdleE1_keeps h
  | idleE2 => exact execIdleE2_keeps h
  | wakeE0 => exact execWakeE0_keeps h
  | enterE1 => exact execEnterE1_keeps h
  | enterE2 => exact execEnterE2_keeps h
  | enterE3 => exact execEnterE3_keeps h
  | enterE4 => exact execEnterE4_keeps h
  | entryCommit => exact execEntryCommit_keeps h
  | stateReached => exact execStateReached_keeps h
  | prepTimeout => exact execPrepTimeout_keeps h
  | wakeSource => exact execWakeSource_keeps h
  | e3ExitDone => exact execE3ExitDone_keeps h
  | domainOn => exact execDomainOn_keeps h
  | domainOff => exact execDomainOff_keeps h
  | domainOnDone => exact execDomainOnDone_keeps h
  | portOff => exact execPortOff_keeps h
  | portOn => exact execPortOn_keeps h
  | portSelfRefresh => exact execPortSelfRefresh_keeps h
  | portWake => exact execPortWake_keeps h
  | portReset => exact execPortReset_keeps h
  | softReset => exact execSoftReset_keeps h
  | softResetTimeout => exact execSoftResetTimeout_keeps h
  | engineReset => exact execEngineReset_keeps h
  | engineResetRelease => exact execEngineResetRelease_keeps h
  | powerOnReset => exact execPowerOnReset_keeps h
  | supplyFailure => exact execSupplyFailure_keeps h
  | pwrCntClear => exact execPwrCntClear_keeps h
  | registerWrite => exact execRegisterWrite_keeps h
  | globalBoundary => exact execGlobalBoundary_keeps h
  | portBoundary => exact execPortBoundary_keeps h
  | stallPacketBoundary => exact execStallPacketBoundary_keeps h
  | cfgApplyHold => exact execCfgApplyHold_keeps h
  | cfgCommit => exact execCfgCommit_keeps h
  | crcPassEnd => exact execCrcPassEnd_keeps h
  | cfgRejClear => exact execCfgRejClear_keeps h
  | intSet => exact execIntSet_keeps h
  | initialTrainingDone => exact execInitialTrainingDone_keeps h
  | linkUpTimeout => exact execLinkUpTimeout_keeps h
  | laneLockAcquired => exact execLaneLockAcquired_keeps h
  | data => exact execData_keeps h
  | tsCntClear => exact execTsCntClear_keeps h
  | linkLoopDone => exact execLinkLoopDone_keeps h
  | portStoppingDone => exact execPortStoppingDone_keeps h

theorem step_keeps {t : State} (e : step s = .next t) : Keeps { s with pending := s.pending.tail } t := by
  obtain hs | ⟨i, rest, hs⟩ : s.pending = [] ∨ ∃ i rest, s.pending = i :: rest := by
    cases s.pending with
    | nil => exact .inl rfl
    | cons i rest => exact .inr ⟨i, rest, rfl⟩
  · simp only [step, hs, Host.Outcome.next.injEq] at e
    have h : Keeps s t := e ▸ idleTick_keeps (Keeps.refl s)
    exact ⟨h.part, h.pending.trans (by simp [hs]), h.mem⟩
  · simp only [step, hs] at e
    simpa only [hs, List.tail_cons] using exec_keeps (Keeps.refl _) t e

/-- Settles O59: `step_keeps` says more. -/
theorem stepKeepsPart : Obligations.StepKeepsPart := by
  unfold Obligations.StepKeepsPart
  intro s t e
  have h := step_keeps e
  exact ⟨h.part, h.pending⟩

end Sys2Proof.Machine
end

section
/-!
Fabric ports that are not connected (R5, R8).
-/

namespace Sys2Proof.Machine

/-- CX3-D alone has fabric ports that are not connected: its FP16 to FP31. -/
theorem fabImpl_eq_false_iff (v : Variant) (n : Fin 32) : fabImpl v n.val = false ↔ v = .cx3d ∧ 16 ≤ n.val := by
  have hn := n.isLt
  cases v <;> simp [fabImpl]

section
variable {s : State} {fp : Fin 32} (h : fabImpl s.part.variant fp.val = false)
include h

theorem onFab_absent (f : State → State) : onFab fp s f = .fault .notConnected := by
  simp only [onFab, h, Bool.false_eq_true, if_false]

theorem onFabReg_absent (f : State → State) : onFabReg fp s f = .next s := by
  simp only [onFabReg, h, Bool.false_eq_true, if_false]

end

/-- Settles O18: each of these rows goes through `onFab` or `onFabReg`, which answer so for a port that is not there. -/
theorem fabricAbsent : Obligations.FabricAbsent := by
  unfold Obligations.FabricAbsent
  intro s fp w opc data be last pe level khz v
  refine ⟨fabImpl_eq_false_iff _ fp, fun h => ?_⟩
  simp only [List.forall_mem_cons, List.not_mem_nil, false_implies, implies_true, and_true]
  exact ⟨⟨(show execRd fp w s = _ from onFab_absent h _),
    (show execWr fp w s = _ from onFab_absent h _),
    (show execWrz fp w s = _ from onFab_absent h _),
    (show execLr fp w s = _ from onFab_absent h _),
    (show execSc fp w s = _ from onFab_absent h _),
    (show execAmo fp w s = _ from onFab_absent h _),
    (show execOrder fp w s = _ from onFab_absent h _),
    (show execVisible fp w s = _ from onFab_absent h _),
    (show execDurable fp w s = _ from onFab_absent h _),
    (show execStallPut fp w s = _ from onFab_absent h _),
    (show execStallWordRead fp w s = _ from onFab_absent h _),
    (show execTallyFetch fp w s = _ from onFab_absent h _),
    (show execDrop fp w s = _ from onFab_absent h _),
    (show execMark fp w s = _ from onFab_absent h _),
    (show execRewind fp w s = _ from onFab_absent h _),
    (show execRelease fp w s = _ from onFab_absent h _),
    (show execFlush fp w s = _ from onFab_absent h _),
    (show execReqReservedOpcode fp opc w s = _ from onFab_absent h _),
    (show execWriteDataBeat fp data be last s = _ from onFab_absent h _),
    (show execReadBeatAccept fp s = _ from onFab_absent h _),
    (show execResponseAccept fp s = _ from onFab_absent h _),
    (show execUrgChange fp level s = _ from onFab_absent h _),
    (show execExc fp s = _ from onFab_absent h _)⟩,
    (show execFabClkMeasure fp khz s = _ from onFabReg_absent h _),
    (show execBurstTimeout fp s = _ from onFabReg_absent h _),
    (show execFabricPortBoundary fp s = _ from onFabReg_absent h _),
    (show execPwbDrain fp pe s = _ from onFabReg_absent h _),
    (show execFpProtoClear fp v s = _ from onFabReg_absent h _),
    (show execFpDurClear fp v s = _ from onFabReg_absent h _),
    (show execFenceDrained fp s = _ from onFabReg_absent h _),
    (show execFenceTimeout fp s = _ from onFabReg_absent h _)⟩

end Sys2Proof.Machine
end

section
/-!
Registers of an absent unit (R5, R455): `unitThere` block by block of the window, then what a read and a write do where it says no.
-/

namespace Sys2Proof.Machine

section
variable {s : State} {off n : Nat}

/-! ### The blocks of the window that belong to a unit (`unitThere`) -/

theorem unitThere_port_absent (hn : n < 20) (habs : portImpl s.part.variant n = false)
    (hoff : 0x200000 + 0x10000 * n ≤ off ∧ off < 0x200000 + 0x10000 * (n + 1)) : unitThere s off = false := by
  have hidx : (off - 0x200000) / 0x10000 = n := by omega
  simp only [unitThere, Bool.and_eq_true, decide_eq_true_eq]
  rw [if_pos (by omega), hidx, habs, Bool.false_and, Bool.false_and]

theorem unitThere_fab_absent (hn : n < 32) (habs : fabImpl s.part.variant n = false)
    (hoff : 0xC0000 + 0x1000 * n ≤ off ∧ off < 0xC0000 + 0x1000 * (n + 1)) : unitThere s off = false := by
  have hidx : (off - 0xC0000) / 0x1000 = n := by omega
  simp only [unitThere, Bool.and_eq_true, decide_eq_true_eq]
  rw [if_neg (by omega), if_pos (by omega), hidx, habs]

theorem unitThere_home_absent (habs : homeImpl s.part.variant = false) (hoff : 0xA0000 ≤ off ∧ off < 0xA1000) :
    unitThere s off = false := by
  simp only [unitThere, Bool.and_eq_true, decide_eq_true_eq]
  rw [if_neg (by omega), if_neg (by omega), if_pos (by omega), habs]

theorem unitThere_ctx_absent (hn : n < 4) (habs : ctxCount s.part.variant ≤ n)
    (hoff : 0x80100 + 0x100 * n ≤ off ∧ off < 0x80100 + 0x100 * (n + 1)) : unitThere s off = false := by
  have hidx : (off - 0x80100) / 0x100 = n := by omega
  simp only [unitThere, Bool.and_eq_true, decide_eq_true_eq]
  rw [if_neg (by omega), if_neg (by omega), if_neg (by omega), if_pos (by omega), hidx, decide_eq_false (by omega)]

theorem unitThere_scrubPass_absent (hn : n < 20) (habs : portImpl s.part.variant n = false)
    (hoff : 0x60100 + 4 * n ≤ off ∧ off < 0x60100 + 4 * (n + 1)) : unitThere s off = false := by
  have hidx : (off - 0x60100) / 4 = n := by omega
  simp only [unitThere, Bool.and_eq_true, decide_eq_true_eq]
  rw [if_neg (by omega), if_neg (by omega), if_neg (by omega), if_neg (by omega), if_pos (by omega), hidx, habs]

theorem unitThere_logPtr_absent (hn : n < 20) (habs : portImpl s.part.variant n = false)
    (hoff : 0x60200 + 4 * n ≤ off ∧ off < 0x60200 + 4 * (n + 1)) : unitThere s off = false := by
  have hidx : (off - 0x60200) / 4 = n := by omega
  simp only [unitThere, Bool.and_eq_true, decide_eq_true_eq]
  rw [if_neg (by omega), if_neg (by omega), if_neg (by omega), if_neg (by omega), if_neg (by omega), if_pos (by omega), hidx, habs]

theorem unitThere_stallPend_absent (hn : n < 4) (habs : stallCount s.part.variant ≤ 8192 * n)
    (hoff : 0x380800 + 4 * n ≤ off ∧ off < 0x380800 + 4 * (n + 1)) : unitThere s off = false := by
  have hidx : (off - 0x380800) / 4 = n := by omega
  simp only [unitThere, Bool.and_eq_true, decide_eq_true_eq]
  rw [if_neg (by omega), if_neg (by omega), if_neg (by omega), if_neg (by omega), if_neg (by omega), if_neg (by omega),
    if_pos (by omega), hidx, decide_eq_false (by omega)]

theorem unitThere_stallLevel_absent (hn : n < 128) (habs : stallCount s.part.variant ≤ 256 * n)
    (hoff : 0x381000 + 8 * n ≤ off ∧ off < 0x381000 + 8 * (n + 1)) : unitThere s off = false := by
  have hidx : (off - 0x381000) / 8 = n := by omega
  simp only [unitThere, Bool.and_eq_true, decide_eq_true_eq]
  rw [if_neg (by omega), if_neg (by omega), if_neg (by omega), if_neg (by omega), if_neg (by omega), if_neg (by omega),
    if_neg (by omega), if_pos (by omega), hidx, decide_eq_false (by omega)]

/-! ### Reads and writes where the unit is absent -/

theorem windowStore_absent {v : Word} (h : unitThere s off = false) : windowStore off v s = s := by
  simp only [windowStore, h, Bool.not_false, if_true]

/-- Outside the blocks of the direct ports an absent location reads zero. A direct port that is there reads ones in the serial width
alone. -/
theorem windowRead_absent (h : unitThere s off = false)
    (hport : 0x200000 ≤ off → off < 0x240000 → portImpl s.part.variant ((off - 0x200000) / 0x10000) = false) :
    windowRead s off = 0 := by
  simp only [windowRead, h, Bool.not_false, if_true]
  split
  · rfl
  · refine if_neg fun hones => ?_
    simp only [Bool.and_eq_true, decide_eq_true_eq] at hones
    obtain ⟨⟨⟨hlo, hhi⟩, _⟩, himpl⟩ := hones
    rw [hport hlo hhi] at himpl
    exact Bool.false_ne_true himpl

end

/-- Settles O53: `unitThere` says no of every such location. -/
theorem registerAbsent : Obligations.RegisterAbsent := by
  unfold Obligations.RegisterAbsent
  intro s off v x at' absent habsent
  obtain ⟨hthere, hport⟩ : unitThere s off = false ∧
      (0x200000 ≤ off → off < 0x240000 → portImpl s.part.variant ((off - 0x200000) / 0x10000) = false) := by
    obtain ⟨p, hp, habs, hoff | hoff | hoff⟩ | ⟨n, hn, habs, hoff⟩ | ⟨habs, hoff⟩ | ⟨c, hc, habs, hoff⟩ | ⟨m, hm, habs, hoff⟩ |
      ⟨g, hg, habs, hoff⟩ := habsent
    · have hidx : (off - 0x200000) / 0x10000 = p := by omega
      exact ⟨unitThere_port_absent hp habs hoff, fun _ _ => hidx ▸ habs⟩
    · exact ⟨unitThere_scrubPass_absent hp habs hoff, fun _ _ => by omega⟩
    · exact ⟨unitThere_logPtr_absent hp habs hoff, fun _ _ => by omega⟩
    · exact ⟨unitThere_fab_absent hn habs hoff, fun _ _ => by omega⟩
    · exact ⟨unitThere_home_absent habs ⟨by omega, by omega⟩, fun _ _ => by omega⟩
    · exact ⟨unitThere_ctx_absent hc habs hoff, fun _ _ => by omega⟩
    · exact ⟨unitThere_stallPend_absent hm habs hoff, fun _ _ => by omega⟩
    · exact ⟨unitThere_stallLevel_absent hg habs hoff, fun _ _ => by omega⟩
  exact ⟨windowRead_absent hthere hport, windowStore_absent hthere⟩

end Sys2Proof.Machine
end

section
/-!
Writes of the window (chapter 17): bits and fields of a stored word, `regWrite` by its cases, and the three locations that act at once.
-/

namespace Sys2Proof.Machine

section
variable {s : State} {x lo w v n : Nat}

/-! ### Bits of a word -/

theorem bits_one (x k : Nat) : bits x k 1 = (x.testBit k).toNat := by
  rw [bits, Nat.shiftRight_eq_div_pow, Nat.pow_one, Nat.toNat_testBit]

/-- Cutting a word to n bits leaves a field inside them. -/
theorem bits_mod (h : lo + w ≤ n) : bits (x % 2 ^ n) lo w = bits x lo w := by
  refine Nat.eq_of_testBit_eq fun i => ?_
  simp only [bits, Nat.testBit_mod_two_pow, Nat.testBit_shiftRight]
  by_cases hi : i < w
  · simp [show lo + i < n by omega]
  · simp [hi]

/-- A field reads as it was set. -/
theorem bits_withBits (x lo w v : Nat) : bits (withBits x lo w v) lo w = v % 2 ^ w := by
  have hx : bits x lo w = x / 2 ^ lo % 2 ^ w := by rw [bits, Nat.shiftRight_eq_div_pow]
  have hle : x / 2 ^ lo % 2 ^ w * 2 ^ lo ≤ x :=
    (Nat.mul_le_mul_right _ (Nat.mod_le _ _)).trans (Nat.div_mul_le_self _ _)
  have hrest : x / 2 ^ lo - x / 2 ^ lo % 2 ^ w = 2 ^ w * (x / 2 ^ lo / 2 ^ w) := by
    have := Nat.div_add_mod (x / 2 ^ lo) (2 ^ w)
    omega
  have hdiv : withBits x lo w v / 2 ^ lo = 2 ^ w * (x / 2 ^ lo / 2 ^ w) + v % 2 ^ w := by
    rw [withBits, hx, Nat.shiftLeft_eq, Nat.shiftLeft_eq, Nat.add_mul_div_right _ _ (Nat.two_pow_pos lo),
      Nat.mul_comm (x / 2 ^ lo % 2 ^ w), Nat.sub_mul_div_of_le _ _ _ (Nat.mul_comm _ (2 ^ lo) ▸ hle), hrest]
  rw [bits, Nat.shiftRight_eq_div_pow, hdiv, Nat.mul_add_mod, Nat.mod_mod]

theorem fld_setFld_same (f : Fld) (i v : Nat) (s : State) (h : f.lo + f.w ≤ 32) : fld (setFld f i v s) f i = v % 2 ^ f.w := by
  rw [fld, setFld, regAt_setWord, if_pos rfl, bits_mod h, bits_withBits]

/-! ### A write of the window by its cases (`regWrite`) -/

theorem regWrite_inReset {off bytes : Nat} {v : Word} (h : s.pw.inReset = true) : regWrite off bytes v s = s := by
  simp only [regWrite, h, if_true]

theorem regWrite_width {off bytes : Nat} {v : Word} (h : s.pw.inReset = false) (hw : bytes ≠ 4 ∨ off % 4 ≠ 0) :
    regWrite off bytes v s = reject off 7 s := by
  simp only [regWrite, h, Bool.false_eq_true, if_false, Bool.or_eq_true, decide_eq_true_eq, if_pos hw]

theorem regWrite_word {off : Nat} {v : Word} (h : s.pw.inReset = false) (hw : off % 4 = 0) :
    regWrite off 4 v s = windowStore off v (if wakesItself off then s else writeWakes s) := by
  simp [regWrite, h, hw]

theorem writeWakes_of_e0 (hst : s.pw.st = 0) (hcur : s.pw.cur = none) (hpf : s.en.pf = .none) : writeWakes s = active s := by
  simp [writeWakes, wakeState, hst, hcur, hpf]

/-! ### CFG_APPLY and CFG_REJ_CLR -/

theorem flg_setFld_same (f : Fld) (i v : Nat) (s : State) (h : f.lo + f.w ≤ 32) : flg (setFld f i v s) f i = (v % 2 ^ f.w != 0) := by
  rw [flg, fld_setFld_same f i v s h]

theorem cfgApply_hold (v : Word) (s : State) : flg (cfgApply v s) CFG_APPLY_HOLD = v.getLsbD 0 := by
  have hset : flg (setFld CFG_APPLY_HOLD 0 (bits v.toNat 0 1) s) CFG_APPLY_HOLD = v.getLsbD 0 := by
    rw [flg_setFld_same _ _ _ _ (by decide), bits_one, BitVec.testBit_toNat]
    cases v.getLsbD 0 <;> rfl
  unfold cfgApply
  extract_lets s1
  split
  · rw [flg, fld_setFld_ne _ _ _ _ _ _ (by decide)]; exact hset
  · exact hset

theorem cfgApply_armed (v : Word) (s : State) : flg (cfgApply v s) CFG_CRC_STAT_ARMED = (v.getLsbD 1 || flg s CFG_CRC_STAT_ARMED) := by
  unfold cfgApply
  extract_lets s1
  split
  next h => rw [flg_setFld_same _ _ _ _ (by decide), h, Bool.true_or]; rfl
  next h =>
    rw [Bool.not_eq_true] at h
    rw [h, Bool.false_or, flg, flg, fld_setFld_ne _ _ _ _ _ _ (by decide)]

theorem cfgApply_regs_only (v : Word) (s : State) : { cfgApply v s with regs := s.regs } = s := by
  unfold cfgApply
  cases v.getLsbD 1 <;> rfl

@[simp] theorem cfgApply_shadow (v : Word) (s : State) : (cfgApply v s).shadow = s.shadow := by
  unfold cfgApply
  cases v.getLsbD 1 <;> rfl

theorem rejClear_word {v : Word} (h : v.getLsbD 0 = true) (s : State) (rst : Nat) : regAt (rejClear v s) 0x21C rst = 0 := by
  rw [rejClear, if_pos h, regAt_setWord, if_pos rfl, Nat.zero_mod]

/-! ### INT_SET -/

/-- The register of INT_STAT that INT_SET0 or INT_SET1 acts on. -/
def intStat (hi : Bool) : Nat := if hi then 0x104 else 0x100

/-- INT_SET for the lowest n causes of its word. -/
def raiseBits (hi : Bool) (v : Word) (n : Nat) (s : State) : State :=
  (List.range n).foldl (fun t b => if v.getLsbD b then raise (b + if hi then 32 else 0) t else t) s

theorem intSet_eq_raiseBits (hi : Bool) (v : Word) (s : State) : intSet hi v s = raiseBits hi v (if hi then 15 else 32) s := rfl

theorem raise_intStat {hi : Bool} {b : Nat} (hb : b < 32) (s : State) :
    raise (b + if hi then 32 else 0) s = setWord (intStat hi) (regAt s (intStat hi) 0 ||| 2 ^ b) s := by
  have hoff : 0x100 + 4 * ((b + if hi then 32 else 0) / 32) = intStat hi := by cases hi <;> simp [intStat] <;> omega
  have hbit : (b + if hi then 32 else 0) % 32 = b := by cases hi <;> simp <;> omega
  simp only [raise, hoff, hbit]

theorem raiseBits_succ (hi : Bool) (v : Word) (hn : n < 32) (s : State) :
    raiseBits hi v (n + 1) s = if v.getLsbD n then
      setWord (intStat hi) (regAt (raiseBits hi v n s) (intStat hi) 0 ||| 2 ^ n) (raiseBits hi v n s) else raiseBits hi v n s := by
  simp only [raiseBits, List.range_succ, List.foldl_append, List.foldl_cons, List.foldl_nil, raise_intStat hn]

theorem raiseBits_regs_only (hi : Bool) (v : Word) (hn : n ≤ 32) (s : State) : { raiseBits hi v n s with regs := s.regs } = s := by
  induction n with
  | zero => rfl
  | succ n ih =>
    rw [raiseBits_succ hi v hn]
    split
    · exact ih (by omega)
    · exact ih (by omega)

theorem testBit_raiseBits (hi : Bool) (v : Word) (hn : n ≤ 32) (s : State) {b : Nat} (hb : b < 32) :
    (regAt (raiseBits hi v n s) (intStat hi) 0).testBit b = (v.getLsbD b && b < n || (regAt s (intStat hi) 0).testBit b) := by
  induction n with
  | zero => simp [raiseBits]
  | succ n ih =>
    have ih := ih (by omega)
    rw [raiseBits_succ hi v hn]
    split
    next h =>
      rw [regAt_setWord, if_pos rfl, Nat.testBit_mod_two_pow, Nat.testBit_or, Nat.testBit_two_pow, ih]
      by_cases hbn : n = b
      · subst hbn; simp [h, hb]
      · simp [hbn, hb, show b < n + 1 ↔ b < n by omega]
    next h =>
      rw [ih]
      by_cases hbn : n = b
      · subst hbn; simp [h]
      · simp [show b < n + 1 ↔ b < n by omega]

end

/-- An update of the registers alone changes no memory. -/
theorem sameBytes_of_regs_only {s t : State} (h : { t with regs := s.regs } = s) : SameBytes s t := by
  rw [← h]
  exact ⟨rfl, rfl, rfl, rfl⟩

/-- A cause is set by INT_SET where its bit is one and the cause is not reserved. -/
theorem bits_intSet (hi : Bool) (v : Word) (s : State) {b : Nat} (hb : b < 32) :
    bits (regAt (intSet hi v s) (intStat hi) 0) b 1 =
      if v.getLsbD b = true ∧ (hi = true → b < 15) then 1 else bits (regAt s (intStat hi) 0) b 1 := by
  rw [intSet_eq_raiseBits, bits_one, bits_one, testBit_raiseBits hi v (by split <;> decide) s hb]
  cases hi <;> cases v.getLsbD b <;> simp [hb]
  split <;> simp [*]

/-- Settles O50, a clause for each case of `regWrite` and for each location that acts at once. -/
theorem registerWrites : Obligations.RegisterWrites := by
  unfold Obligations.RegisterWrites
  intro s off bytes v hi k
  refine ⟨fun h => ?_, fun h hw => ?_, fun h hw => ?_, windowStore_absent, writeWakes_of_e0, fun h => ?_, fun h => ?_, fun h hv => ?_,
    fun h => ?_⟩
  · show execRegisterWrite off bytes v s = _
    rw [execRegisterWrite, regWrite_inReset h]
  · show execRegisterWrite off bytes v s = _
    rw [execRegisterWrite, regWrite_width h (hw.imp_left fun hb => ?_)]
    exact fun he => hb (Fin.ext he)
  · show execRegisterWrite off 4 v s = _
    rw [execRegisterWrite]
    exact congrArg (fun t => Host.Outcome.next (settle t)) (regWrite_word h hw)
  · refine ⟨cfgApply v s, ?_, cfgApply_hold v s, cfgApply_shadow v s, sameBytes_of_regs_only (cfgApply_regs_only v s)⟩
    show execCfgApplyHold v s = _
    rw [execCfgApplyHold, h]; rfl
  · refine ⟨cfgApply v s, ?_, cfgApply_armed v s⟩
    show execCfgCommit v s = _
    rw [execCfgCommit, h]; rfl
  · have hword : ∀ rst, regAt (rejClear v s) 0x21C rst = 0 := rejClear_word hv s
    refine ⟨rejClear v s, ?_, congrArg (bits · 26 6) (hword 0), congrArg (bits · 22 4) (hword 0), congrArg (bits · 0 22) (hword 0)⟩
    show execCfgRejClear v s = _
    rw [execCfgRejClear, h]; rfl
  · refine ⟨intSet hi v s, ?_, sameBytes_of_regs_only (raiseBits_regs_only hi v (by split <;> decide) s),
      fun b hb => bits_intSet hi v s hb⟩
    show execIntSet hi v s = _
    rw [execIntSet, h]; rfl

end Sys2Proof.Machine
end

section
/-!
The signals of a fabric master besides its request words (R20, R35, R39, R40, R43, R77): what each operation that a signal calls leaves in
the port, and that it leaves the other ports alone.
-/

namespace Sys2Proof.Machine

section
variable {s : State} {n m id : Nat}

/-! ### A command of a port that is there -/

theorem onFab_there {fp : Fin 32} (h : fabImpl s.part.variant fp.val = true) (f : State → State) :
    onFab fp s f = .next (settle (f s)) := by
  simp only [onFab, h, if_true]

theorem onFabReg_there {fp : Fin 32} (h : fabImpl s.part.variant fp.val = true) (f : State → State) :
    onFabReg fp s f = .next (settle (f s)) := by
  simp only [onFabReg, h, if_true]

/-! ### Operations that leave every fabric port as it is -/

@[simp] theorem fabOf_setFld (f : Fld) (i v : Nat) (s : State) (m : Nat) : fabOf (setFld f i v s) m = fabOf s m := rfl

@[simp] theorem fabOf_active (s : State) (m : Nat) : fabOf (active s) m = fabOf s m := by
  unfold active
  split <;> rfl

@[simp] theorem fabOf_unbind (a : ReqAttr) (s : State) (m : Nat) : fabOf (unbind a s) m = fabOf s m := by
  unfold unbind
  split <;> rfl

/-! ### A write beat (R39, R40) -/

/-- Of the port's state a paid beat changes the beats owed alone. -/
theorem fabOf_payBeat {o : BeatOwed} {l : List BeatOwed} (h : (fabOf s n).owed = o :: l) :
    fabOf (payBeat n s) m = if m = n then
      { fabOf s n with owed := if o.left ≤ 1 then l else { o with left := o.left - 1 } :: l } else fabOf s m := by
  simp only [payBeat, fabOf_modFab, h]

/-- A beat whose last mark is right joins the request that owes it. -/
theorem fabOf_writeBeat {data : Line} {be : BitVec 64} {last : Bool} {o : BeatOwed} {l : List BeatOwed}
    (hfence : (fabOf s n).fenced = false) (htly : 0 < (fabOf s n).wdTly) (howed : (fabOf s n).owed = o :: l)
    (hreq : o.req = some id) (hlast : last = decide (o.left ≤ 1)) :
    fabOf (writeBeat n data be last s) m = if m = n then { fabOf s n with
      wdTly := (fabOf s n).wdTly - 1
      owed := if o.left ≤ 1 then l else { o with left := o.left - 1 } :: l
      reqs := (fabOf s n).reqs.map fun r =>
        if r.id = id then { r with beats := r.beats ++ [{ data := data, be := be }], lastBeat := s.clk } else r } else fabOf s m := by
  simp only [writeBeat, hfence, Bool.false_eq_true, if_false, htly.ne', howed, hreq, if_pos hlast]
  rw [fabOf_payBeat (o := o) (l := l) (by simp [howed])]
  by_cases hm : m = n <;> simp [hm, modReqs, hfence, hreq]

/-! ### A read beat or a response that is taken (R35) -/

/-- The end of a request changes the port's list of requests and its tally of them. -/
theorem fabOf_endReq (n id : Nat) (s : State) : ∃ reqs tly, ∀ m,
    fabOf (endReq n id s) m = if m = n then { fabOf s n with reqs := reqs, reqTly := tly } else fabOf s m := by
  unfold endReq
  split
  · exact ⟨(fabOf s n).reqs, (fabOf s n).reqTly, fun m => by split <;> simp [*]⟩
  · split
    · exact ⟨_, _, fun m => fabOf_modFab ..⟩
    · exact ⟨_, _, fun m => (fabOf_unbind ..).trans (fabOf_modFab ..)⟩

@[simp] theorem endReq_rd (n id : Nat) (s : State) : (fabOf (endReq n id s) n).rd = (fabOf s n).rd := by
  obtain ⟨_, _, h⟩ := fabOf_endReq n id s
  rw [h, if_pos rfl]

@[simp] theorem endReq_rdHeld (n id : Nat) (s : State) : (fabOf (endReq n id s) n).rdHeld = (fabOf s n).rdHeld := by
  obtain ⟨_, _, h⟩ := fabOf_endReq n id s
  rw [h, if_pos rfl]

@[simp] theorem endReq_rsp (n id : Nat) (s : State) : (fabOf (endReq n id s) n).rsp = (fabOf s n).rsp := by
  obtain ⟨_, _, h⟩ := fabOf_endReq n id s
  rw [h, if_pos rfl]

theorem fabOf_endReq_ne (hm : m ≠ n) : fabOf (endReq n id s) m = fabOf s m := by
  obtain ⟨_, _, h⟩ := fabOf_endReq n id s
  rw [h, if_neg hm]

theorem takeBeat_of_cons {b : RdBeat} {l : List RdBeat} (h : (fabOf s n).rd = b :: l) : ∃ t, takeBeat n s = some t ∧
    (fabOf t n).rd = l ∧ (fabOf t n).rdHeld = (fabOf s n).rdHeld - 1 ∧ ∀ m ≠ n, fabOf t m = fabOf s m := by
  simp only [takeBeat, h, Option.some.injEq, exists_eq_left']
  split
  · exact ⟨by simp, by simp, fun m hm => by simp [fabOf_endReq_ne, hm]⟩
  · exact ⟨by simp, by simp, fun m hm => by simp [hm]⟩

theorem takeRsp_of_cons {b : RspBeat} {l : List RspBeat} (h : (fabOf s n).rsp = b :: l) : ∃ t, takeRsp n s = some t ∧
    (fabOf t n).rsp = l ∧ ∀ m ≠ n, fabOf t m = fabOf s m := by
  simp only [takeRsp, h, Option.some.injEq, exists_eq_left']
  exact ⟨by simp, fun m hm => by simp [fabOf_endReq_ne, hm]⟩

/-! ### A reservation that is lost (R77) -/

/-- The master keeps no reservation, whether it had one or not, and every other master keeps its own. -/
theorem rsvHolds_rsvLose (a m : Master) (f : Fld) (line : Nat) (s : State) :
    rsvHolds (rsvLose a f s) m line = if m = a then false else rsvHolds s m line := by
  unfold rsvLose
  split
  next => by_cases hm : m = a <;> simp [rsvHolds, rsvDrop, hm]
  next hnone =>
    split
    next hm =>
      subst hm
      simp only [List.any_eq_true, decide_eq_true_eq, not_exists, not_and] at hnone
      simpa [rsvHolds] using fun hmem => hnone _ hmem rfl
    next => rfl

@[simp] theorem rsvLose_fab (m : Master) (f : Fld) (s : State) : (rsvLose m f s).fab = s.fab := by
  unfold rsvLose
  split <;> rfl

/-! ### A cause that is raised -/

/-- A field outside INT_STAT's word and INT_PORTS reads as before. -/
theorem fld_raise_ne {f : Fld} {i c : Nat} {u : Option Nat} (hstat : f.off i ≠ 0x100 + 4 * (c / 32)) (hports : f.off i ≠ 0x120) :
    fld (raise c s u) f i = fld s f i := by
  unfold raise
  extract_lets off s1
  have hs1 : fld s1 f i = fld s f i := fld_setWord_ne f i _ _ s hstat
  split
  · exact hs1
  · split
    · rw [fld_setWord_ne f i _ _ s1 hports, hs1]
    · exact hs1

/-- The cause's bit is latched in INT_STAT. -/
theorem bits_raise {c : Nat} (hc : c < 64) (s : State) (u : Option Nat) :
    bits (regAt (raise c s u) (0x100 + 4 * (c / 32)) 0) (c % 32) 1 = 1 := by
  have hlatch : bits (regAt (setWord (0x100 + 4 * (c / 32)) (regAt s (0x100 + 4 * (c / 32)) 0 ||| 2 ^ (c % 32)) s)
      (0x100 + 4 * (c / 32)) 0) (c % 32) 1 = 1 := by
    rw [regAt_setWord, if_pos rfl, bits_mod (by omega), bits_one, Nat.testBit_or, Nat.testBit_two_pow_self, Bool.or_true]
    rfl
  unfold raise
  extract_lets off s1
  split
  · exact hlatch
  · split
    · rwa [regAt_setWord, if_neg (by omega)]
    · exact hlatch

/-! ### Measurements of CK_FAB (R20) -/

/-- FP_STATUS is neither INT_STAT nor INT_PORTS. -/
theorem clkOk_off_ne {off : Nat} (h : off < 0xC0008) : FP_STATUS_CLK_OK.off n ≠ off := by
  simp only [FP_STATUS_CLK_OK, Fld.off]
  omega

/-- A measurement out of range ends CLK_OK and raises cause 0. -/
theorem clkMeasure_lost {khz : Nat} (hok : flg s FP_STATUS_CLK_OK n = true) (hbad : khz < 245000 ∨ 1020000 < khz) :
    flg (clkMeasure n khz s) FP_STATUS_CLK_OK n = false ∧ bits (regAt (clkMeasure n khz s) 0x100 0) 0 1 = 1 := by
  have hgood : (decide (245000 ≤ khz) && decide (khz ≤ 1020000)) = false := by
    rw [Bool.and_eq_false_iff, decide_eq_false_iff_not, decide_eq_false_iff_not]
    omega
  simp only [clkMeasure, hok, hgood, if_true, Bool.false_eq_true, if_false]
  refine ⟨?_, bits_raise (c := 0) (by decide) _ _⟩
  rw [flg, fld_raise_ne (clkOk_off_ne (by decide)) (clkOk_off_ne (by decide)), fld_setFld_same _ _ _ _ (by decide)]
  rfl

/-- A good measurement without CLK_OK sets it if the one before was good, and else is remembered. -/
theorem clkMeasure_good {khz : Nat} (hok : flg s FP_STATUS_CLK_OK n = false) (hlo : 245000 ≤ khz) (hhi : khz ≤ 1020000) :
    clkMeasure n khz s = if (fabOf s n).clkOnce = true then
        setFld FP_STATUS_CLK_OK n 1 (modFab n (fun f => { f with clkOnce := false }) s)
      else modFab n (fun f => { f with clkOnce := true }) s := by
  simp only [clkMeasure, hok, hlo, hhi, decide_true, Bool.and_self, Bool.not_true, Bool.false_eq_true, if_false]

end

/-- Settles O16, a clause for each operation that a signal calls. -/
theorem fabricSignals : Obligations.FabricSignals := by
  unfold Obligations.FabricSignals
  intro s fp data be last level khz n f here
  refine ⟨fun h hreset hst hfence htly o l id howed hreq hlast => ?_, fun h hok b l hrd => ?_, fun h hok b l hrsp => ?_,
    fun h => onFab_there h _, fun h => ?_, fun h hok hbad => ?_, fun h hok honce hlo hhi => ?_, fun h hok honce hlo hhi => ?_⟩
  · refine ⟨writeBeat n data be last s, ?_, ?_⟩
    · show execWriteDataBeat fp data be last s = _
      rw [execWriteDataBeat, onFab_there h]
      simp only [hreset, Bool.false_or, decide_eq_true_eq, Nat.not_lt.2 hst, if_false]
      rfl
    · have hport := fun m => fabOf_writeBeat (m := m) (data := data) (be := be) hfence htly howed hreq hlast
      have hown := (hport n).trans (if_pos rfl)
      exact ⟨congrArg FabPort.wdTly hown, congrArg FabPort.owed hown, congrArg FabPort.reqs hown,
        fun m hm => (hport m).trans (if_neg hm)⟩
  · obtain ⟨t, ht, hport⟩ := takeBeat_of_cons hrd
    refine ⟨t, ?_, hport⟩
    show execReadBeatAccept fp s = _
    rw [execReadBeatAccept, onFab_there h, hok, if_pos rfl, ht]
    rfl
  · obtain ⟨t, ht, hport⟩ := takeRsp_of_cons hrsp
    refine ⟨t, ?_, hport⟩
    show execResponseAccept fp s = _
    rw [execResponseAccept, onFab_there h, hok, if_pos rfl, ht]
    rfl
  · refine ⟨rsvLose (.fab fp) HOME_RSV_LOSS_EXC s, onFab_there h _, fun line => ?_, fun m line hm => ?_, rsvLose_fab _ _ s⟩
    · rw [rsvHolds_rsvLose, if_pos rfl]
    · rw [rsvHolds_rsvLose, if_neg hm]
  · exact ⟨clkMeasure n khz s, onFabReg_there h _, clkMeasure_lost hok hbad⟩
  · refine ⟨clkMeasure n khz s, onFabReg_there h _, ?_⟩
    rw [clkMeasure_good hok hlo hhi, if_pos honce, flg_setFld_same _ _ _ _ (by decide)]
    rfl
  · show execFabClkMeasure fp khz s = _
    rw [execFabClkMeasure, onFabReg_there h, clkMeasure_good hok hlo hhi, honce, if_neg Bool.false_ne_true]
    rfl

end Sys2Proof.Machine
end

section
/-!
The memories of every reachable state (R45, R46, R228, R245): `step_keeps` carries the canonical form from one state to the next.
-/

namespace Sys2Proof.Machine

/-- Settles O60: `Keeps` holds the canonical form, and a step's own change of the queue leaves the memories alone. -/
theorem stepKeepsMemory : Obligations.StepKeepsMemory := by
  unfold Obligations.StepKeepsMemory
  intro s t hmem e
  exact (step_keeps e).mem hmem

end Sys2Proof.Machine
end

section
/-!
The acceptance of a request word (R30, R33, R34, R39, R260): what `fabRequest` leaves in its port and that it changes no other unit.
-/

namespace Sys2Proof.Machine

section
variable {s : State} {n k m : Nat} {w : ReqWord}

/-- Fabric port n takes a word with this tag: the engine and the port's clock are on, the port is not fenced, the master holds a tally, and
no outstanding request has the tag (R33, R44). -/
structure TakesWord (s : State) (n : Nat) (tag : BitVec 8) : Prop where
  awake : s.pw.inReset = false
  powered : s.pw.st.toNat ≤ 3
  tally : 0 < (fabOf s n).reqTly
  tagFree : ((fabOf s n).reqs.all fun r => !(r.live && r.w.tag == tag)) = true
  unfenced : (fabOf s n).fenced = false
  clock : flg s FP_STATUS_CLK_OK n = true

@[simp] theorem withView_tag (v : Bool) (w : ReqWord) : (withView v w).tag = w.tag := by
  unfold withView
  rfl

@[simp] theorem withCmd_tag (k : Nat) (w : ReqWord) : (withCmd k w).tag = w.tag := by
  unfold withCmd
  rfl

/-- The state in which a word gets its number: the port is active and its tally gone. -/
def spendTally (n : Nat) (s : State) : State := modFab n (fun f => { f with reqTly := f.reqTly - 1 }) (active s)

/-- The request that is listed for a word that nothing refuses. -/
def acceptedReq (n k : Nat) (w : ReqWord) (s : State) : FabReq :=
  let i := newId (spendTally n s)
  let dl := if w.dlv then some (deadlineOf (tick s) w.dl.toNat) else none
  { id := i.1, opc := BitVec.ofNat 5 k, w := w, attr := (bind w.tkt.toNat dl (some (Fin.ofNat 32 n)) i.2).1, lastBeat := s.clk,
    lines := List.replicate (lineCount k w) {} }

/-- The request that is listed for a word refused with status sts. -/
def refusedReq (n k : Nat) (w : ReqWord) (sts : BitVec 4) (s : State) : FabReq :=
  { id := (newId (spendTally n s)).1, opc := BitVec.ofNat 5 k, w := w, refused := some sts,
    attr := unbound (Fin.ofNat 8 (fld s BR_CFG_CLASS w.tkt.toNat)) s }

/-! ### The units that a word leaves alone -/

/-- The memories, the DRAM ports, the stalls, the home, Lantern and the host interface. -/
def units (s : State) : SMap Byte × SMap Byte × SMap Port × SMap Stall × Home × Lantern × HostIf :=
  (s.dram, s.spad, s.ports, s.stalls, s.home, s.lant, s.host)

@[simp] theorem units_active (s : State) : units (active s) = units s := by
  unfold active
  split <;> rfl

@[simp] theorem units_raise (c : Nat) (s : State) (u : Option Nat) : units (raise c s u) = units s := by
  have h := congrArg units (raise_regs_only c s u)
  exact h

@[simp] theorem units_modFab (n : Nat) (g : FabPort → FabPort) (s : State) : units (modFab n g s) = units s := rfl

@[simp] theorem units_newId (s : State) : units (newId s).2 = units s := rfl

@[simp] theorem units_bind (t : Nat) (dl : Option Int) (fp : Option (Fin 32)) (s : State) : units (bind t dl fp s).2 = units s := rfl

@[simp] theorem units_proto (n : Nat) (f : Fld) (tag : Option Nat) (s : State) : units (proto n f tag s) = units s := by
  unfold proto
  rw [units_raise]
  cases tag <;> rfl

/-- Whatever becomes of a word, the other units are as before. -/
theorem units_fabRequest (n k : Nat) (w : ReqWord) (s : State) : units (fabRequest n k w s) = units s := by
  unfold fabRequest
  extract_lets f s0 i shut sts owes dl b r
  split
  · rfl
  · split
    · exact units_proto ..
    · split
      · exact units_proto ..
      · clear_value sts
        cases sts with
        | none => simp only [units_modFab, b, units_bind, i, units_newId, s0, units_active]
        | some t => simp only [units_modFab, i, units_newId, s0, units_active]

/-! ### The port -/

@[simp] theorem fabOf_bind (t : Nat) (dl : Option Int) (fp : Option (Fin 32)) (s : State) (m : Nat) :
    fabOf (bind t dl fp s).2 m = fabOf s m := rfl

@[simp] theorem fabOf_newId (s : State) (m : Nat) : fabOf (newId s).2 m = fabOf s m := rfl

theorem TakesWord.any_dup_eq_false (h : TakesWord s n w.tag) :
    ((fabOf s n).reqs.any fun r => r.live && r.w.tag = w.tag) = false := by
  rw [List.any_eq_false]
  intro r hr
  simpa [imp_iff_not_or] using List.all_eq_true.1 h.tagFree r hr

section
variable (h : TakesWord s n w.tag)
include h

/-- A word that no step of R33 refuses is listed, and owes the beats of its opcode. -/
theorem fabOf_fabRequest_accepted (href : refusal s n k w = none) : fabOf (fabRequest n k w s) m =
    if m = n then { fabOf s n with
      reqTly := (fabOf s n).reqTly - 1
      reqs := (fabOf s n).reqs ++ [acceptedReq n k w s]
      owed := if carriesBeats k then (fabOf s n).owed ++ [{ req := some (acceptedReq n k w s).id, left := w.len.toNat + 1 }]
        else (fabOf s n).owed }
    else fabOf s m := by
  simp only [fabRequest, h.awake, Bool.false_or, decide_eq_true_eq, Nat.not_lt.2 h.powered, if_false, h.tally.ne', h.any_dup_eq_false,
    h.unfenced, h.clock, Bool.not_true, Bool.false_eq_true, href, fabOf_modFab, fabOf_bind, fabOf_newId, fabOf_active, if_true]
  split <;> rfl

/-- A refused word is listed without lines. It owes its beats too, for the master sends them all the same (R34). -/
theorem fabOf_fabRequest_refused {sts : BitVec 4} (href : refusal s n k w = some sts) : fabOf (fabRequest n k w s) m =
    if m = n then { fabOf s n with
      reqTly := (fabOf s n).reqTly - 1
      reqs := (fabOf s n).reqs ++ [refusedReq n k w sts s]
      owed := if carriesBeats k then (fabOf s n).owed ++ [{ req := none, left := w.len.toNat + 1 }] else (fabOf s n).owed }
    else fabOf s m := by
  simp only [fabRequest, h.awake, Bool.false_or, decide_eq_true_eq, Nat.not_lt.2 h.powered, if_false, h.tally.ne', h.any_dup_eq_false,
    h.unfenced, h.clock, Bool.not_true, Bool.not_false, Bool.and_true, Bool.false_eq_true, href, fabOf_modFab, fabOf_newId, fabOf_active,
    if_true]
  split <;> rfl

end

/-- Step 3 of R33 refuses a reserved opcode, and STALL_CMD with a reserved command. -/
theorem refusal_reserved {opc : Nat} (h : 0xC ≤ opc ∨ opc = 0xB ∧ ¬(1 ≤ cmdCode w ∧ cmdCode w ≤ 5)) :
    refusal s n opc w = some 4 := by
  have hfmt : fmtOk opc w = false := by
    rcases h with h | ⟨rfl, h⟩
    · obtain ⟨j, rfl⟩ := Nat.exists_eq_add_of_le' h
      rfl
    · have hcmd : (decide (1 ≤ cmdCode w) && decide (cmdCode w ≤ 5)) = false := by simpa using h
      simp [fmtOk, stallFmt, Bool.and_assoc, hcmd]
  rw [refusal, hfmt]
  rfl

end

/-- Settles O15: the 17 rows are one `fabRequest` each, of a word that keeps the tag, and so is the row of the reserved opcodes. -/
theorem fabricRequests : Obligations.FabricRequests := by
  unfold Obligations.FabricRequests
  intro s fp w opc n f opened kept takes
  have hkept : ∀ {k v}, (∀ m ≠ n, fabOf (fabRequest n k v s) m = fabOf s m) → kept (fabRequest n k v s) := fun {k v} hfab => by
    have hunits := units_fabRequest n k v s
    simp only [units, Prod.mk.injEq] at hunits
    exact ⟨hfab, hunits⟩
  have hword : opened → TakesWord s n w.tag := fun ⟨_, hawake, hst, htly, htag, hfence, hclk⟩ => ⟨hawake, hst, htly, htag, hfence, hclk⟩
  have htakes : ∀ i k v, exec i s = onFab fp s (fabRequest n k v) → v.tag = w.tag → takes i k v := by
    intro i k v hexec htag hopen href
    have hport := fun m => fabOf_fabRequest_accepted (m := m) (htag ▸ hword hopen) href
    exact ⟨_, acceptedReq n k v s, hexec.trans (onFab_there hopen.1 _), hkept fun m hm => (hport m).trans (if_neg hm),
      (hport n).trans (if_pos rfl), rfl, rfl, rfl, rfl, rfl⟩
  refine ⟨htakes (.rd fp w) 0 w rfl rfl,
    htakes (.wr fp w) 1 w rfl rfl,
    htakes (.wrz fp w) 2 w rfl rfl,
    htakes (.lr fp w) 3 w rfl rfl,
    htakes (.sc fp w) 4 w rfl rfl,
    htakes (.amo fp w) 5 w rfl rfl,
    htakes (.order fp w) 6 w rfl rfl,
    htakes (.visible fp w) 7 w rfl rfl,
    htakes (.durable fp w) 8 w rfl rfl,
    htakes (.stallPut fp w) 9 w rfl rfl,
    htakes (.stallWordRead fp w) 0xA _ rfl (withView_tag false w),
    htakes (.tallyFetch fp w) 0xA _ rfl (withView_tag true w),
    htakes (.drop fp w) 0xB _ rfl (withCmd_tag 1 w),
    htakes (.mark fp w) 0xB _ rfl (withCmd_tag 2 w),
    htakes (.rewind fp w) 0xB _ rfl (withCmd_tag 3 w),
    htakes (.release fp w) 0xB _ rfl (withCmd_tag 4 w),
    htakes (.flush fp w) 0xB _ rfl (withCmd_tag 5 w),
    fun hopen hres => ?_⟩
  have hres' : 0xC ≤ opc.toNat ∨ opc.toNat = 0xB ∧ ¬(1 ≤ cmdCode w ∧ cmdCode w ≤ 5) :=
    hres.imp_right fun ⟨hopc, hcmd⟩ => ⟨congrArg BitVec.toNat hopc, hcmd⟩
  have hport := fun m => fabOf_fabRequest_refused (m := m) (hword hopen) (refusal_reserved hres')
  have hown := (hport n).trans (if_pos rfl)
  refine ⟨fabRequest n opc.toNat w s, refusedReq n opc.toNat w 4 s, ?_, hkept fun m hm => (hport m).trans (if_neg hm),
    congrArg FabPort.reqs hown, congrArg FabPort.reqTly hown, BitVec.ofNat_toNat .., rfl, rfl, rfl⟩
  show execReqReservedOpcode fp opc w s = _
  rw [execReqReservedOpcode, onFab_there hopen.1, if_pos]
  simpa [imp_iff_not_or] using hres

end Sys2Proof.Machine
end

section
/-!
Fields beside each other: a field that is set leaves every field of another register, and every other field of its own, as it was.
-/

namespace Sys2Proof.Machine

theorem withBits_eq (x lo w v : Nat) : withBits x lo w v = 2 ^ lo * (2 ^ w * (x / 2 ^ (lo + w)) + v % 2 ^ w) + x % 2 ^ lo := by
  have hlow := Nat.div_add_mod x (2 ^ lo)
  have hhigh := Nat.div_add_mod (x / 2 ^ lo) (2 ^ w)
  rw [Nat.div_div_eq_div_mul, ← Nat.pow_add] at hhigh
  have hexpand : x = 2 ^ lo * (2 ^ w * (x / 2 ^ (lo + w))) + 2 ^ lo * (x / 2 ^ lo % 2 ^ w) + x % 2 ^ lo := by
    rw [← Nat.mul_add, hhigh, hlow]
  rw [withBits, bits, Nat.shiftRight_eq_div_pow, Nat.shiftLeft_eq, Nat.shiftLeft_eq, Nat.mul_comm _ (2 ^ lo), Nat.mul_comm _ (2 ^ lo),
    Nat.mul_add]
  omega

/-- Inside the field a bit is as set, and outside it as before. -/
theorem testBit_withBits (x lo w v j : Nat) :
    (withBits x lo w v).testBit j = if lo ≤ j ∧ j < lo + w then v.testBit (j - lo) else x.testBit j := by
  rw [withBits_eq, Nat.testBit_two_pow_mul_add _ (Nat.mod_lt _ (Nat.two_pow_pos lo)),
    Nat.testBit_two_pow_mul_add _ (Nat.mod_lt _ (Nat.two_pow_pos w))]
  simp only [Nat.testBit_mod_two_pow, Nat.testBit_div_two_pow]
  by_cases hlo : j < lo
  · simp [hlo, Nat.not_le.2 hlo]
  · by_cases hw : j - lo < w
    · rw [if_neg hlo, if_pos hw, if_pos (by omega)]
      simp [hw]
    · rw [if_neg hlo, if_neg hw, if_neg (by omega)]
      congr 1
      omega

/-- A field beside the one that is set reads as before. -/
theorem bits_withBits_apart {lo w lo' w' : Nat} (x v : Nat) (h : lo + w ≤ lo' ∨ lo' + w' ≤ lo) :
    bits (withBits x lo w v) lo' w' = bits x lo' w' := by
  refine Nat.eq_of_testBit_eq fun i => ?_
  simp only [bits, Nat.testBit_mod_two_pow, Nat.testBit_shiftRight, testBit_withBits]
  by_cases hi : i < w'
  · rw [if_neg (by omega)]
  · simp [hi]

/-- Two fields of a block that lie in different registers, or beside each other in one. -/
abbrev Fld.Apart (f g : Fld) : Prop :=
  f.stride = g.stride ∧ (f.base = g.base → f.rst = g.rst ∧ (g.lo + g.w ≤ f.lo ∨ f.lo + f.w ≤ g.lo) ∧ f.lo + f.w ≤ 32)

section
variable {f g : Fld} {i v : Nat} {s : State}

theorem fld_setFld_apart (h : f.Apart g) : fld (setFld g i v s) f i = fld s f i := by
  obtain ⟨hstride, hsame⟩ := h
  by_cases hbase : f.base = g.base
  · obtain ⟨hrst, hapart, hword⟩ := hsame hbase
    have hoff : f.off i = g.off i := by rw [Fld.off, Fld.off, hbase, hstride]
    rw [fld, setFld, regAt_setWord, if_pos hoff, bits_mod hword, bits_withBits_apart _ _ hapart, ← hoff, ← hrst, fld]
  · refine fld_setFld_ne f g i i v s fun hoff => hbase ?_
    rw [Fld.off, Fld.off, hstride] at hoff
    exact Nat.add_right_cancel hoff

theorem flg_setFld_apart (h : f.Apart g) : flg (setFld g i v s) f i = flg s f i := by
  rw [flg, flg, fld_setFld_apart h]

end
end Sys2Proof.Machine
end

section
/-!
What a fabric port does by itself or through its registers (R42, R44, R52, R53, R62, R72, R367 to R371), operation by operation.
-/

namespace Sys2Proof.Machine

section
variable {s : State} {f : Fld} {n id : Nat}

/-! ### A burst that stops (R52) -/

/-- What the timer leaves of a burst before the packet of a cut STALL_PUT closes: its beats are owed for nothing. -/
def burstStopped (n id : Nat) (s : State) : State :=
  setFld FP_PROTO_BST_TMO n 1 (modFab n (fun f => { f with
    owed := f.owed.map fun o => if o.req = some id then { o with req := none } else o }) (cutBurst n id s))

theorem burstStopped_reqs (n id : Nat) (s : State) : (fabOf (burstStopped n id s) n).reqs = modReqs (fabOf s n).reqs id fun r =>
    { r with cut := true
             lines := r.lines.mapIdx fun k l => if k < r.beats.length then l else { l with ph := .done, performed := true } } := by
  simp [burstStopped, cutBurst]

theorem burstStopped_owed (n id : Nat) (s : State) : (fabOf (burstStopped n id s) n).owed =
    (fabOf s n).owed.map fun o => if o.req = some id then { o with req := none } else o := by
  simp [burstStopped, cutBurst]

theorem burstStopped_cut {q : FabReq} (hq : q ∈ (fabOf (burstStopped n id s) n).reqs) (hid : q.id = id) : q.cut = true := by
  rw [burstStopped_reqs, modReqs, List.mem_map] at hq
  obtain ⟨r, -, rfl⟩ := hq
  split at hid
  next h => rw [if_pos h]
  next h => exact absurd hid h

theorem burstStopped_owed_ne {o : BeatOwed} (ho : o ∈ (fabOf (burstStopped n id s) n).owed) : o.req ≠ some id := by
  rw [burstStopped_owed, List.mem_map] at ho
  obtain ⟨b, -, rfl⟩ := ho
  split
  next => simp
  next h => exact h

/-! ### The boundary (R42, R53) -/

/-- A pass that starts again changes no register. -/
theorem fld_crcRestart (f : Fld) (i : Nat) (s t : State) : fld (crcRestart s t) f i = fld t f i := by
  unfold crcRestart
  split <;> rfl

/-- Bit 0 of an overlay comes from the staged word where it is a staged field's. -/
theorem overlay_mod_two {mask : Nat} (hmask : mask % 2 = 1) (v w : Nat) : overlay mask v w % 2 = v % 2 := by
  have hand : ∀ x, (x &&& mask) % 2 = x % 2 := fun x => by simp [Nat.and_mod_two_pow (n := 1) (a := x), hmask]
  have hv := hand v
  have hw := hand w
  have hle : w &&& mask ≤ w := Nat.and_le_left
  rw [overlay]
  omega

theorem rsMask_fpCtl (n : Fin 32) : rsMask (FP_CTL_EN.off n.val) % 2 = 1 := by
  revert n
  decide

/-- EN that is staged set comes into force with the staged word. -/
theorem flg_applyShadow_fpCtl {n : Fin 32} (hoff : flg s FP_CTL_EN n.val = false) (hon : staged s FP_CTL_EN n.val = 1) :
    flg (applyShadow (FP_CTL_EN.off n.val) s) FP_CTL_EN n.val = true := by
  rw [staged, stagedAt] at hon
  unfold applyShadow
  split
  next hnone =>
    rw [hnone] at hon
    have hfld : fld s FP_CTL_EN n.val = 1 := hon
    rw [flg, hfld] at hoff
    exact absurd hoff (by decide)
  next w hsome =>
    rw [hsome] at hon
    have hbit : w.toNat % 2 = 1 := hon
    extract_lets rst
    have hfld : fld (setWord (FP_CTL_EN.off n.val) (overlay (rsMask (FP_CTL_EN.off n.val)) w.toNat (regAt s (FP_CTL_EN.off n.val) rst)) s)
        FP_CTL_EN n.val = 1 := by
      rw [fld, regAt_setWord, if_pos rfl, bits_mod (by decide)]
      exact (overlay_mod_two (rsMask_fpCtl n) _ _).trans hbit
    exact bne_iff_ne.2 (hfld.trans_ne one_ne_zero)

/-- A port whose staged EN is set, with no read lines staged, is enabled and its tallies granted. -/
theorem fabBoundary_enables {n : Fin 32} (hopen : applyOpen s = true) (hidle : ((fabOf s n.val).reqs.any FabReq.live) = false)
    (halloc : mget s.shadow (FP_ALLOC_RDLINES.off n.val) = none) (hoff : flg s FP_CTL_EN n.val = false)
    (hon : staged s FP_CTL_EN n.val = 1) (hfence : (fabOf s n.val).fenced = false) :
    fabBoundary n.val s =
      grantTallies n.val (setFld FP_STATUS_ENABLED n.val 1 (crcRestart s (applyShadow (FP_CTL_EN.off n.val) s))) := by
  have hnow : flg (crcRestart s (applyShadow (FP_CTL_EN.off n.val) s)) FP_CTL_EN n.val = true := by
    rw [flg, fld_crcRestart]
    exact flg_applyShadow_fpCtl hoff hon
  simp only [fabBoundary, hopen, hidle, halloc, hoff, hnow, hfence, Option.isNone_none, Bool.not_true, Bool.not_false, Bool.or_self,
    Bool.and_self, if_true, Bool.false_eq_true, if_false]

/-! ### Tallies (R39, R42, R369) -/

@[simp] theorem fld_modFab (n : Nat) (g : FabPort → FabPort) (s : State) (f : Fld) (i : Nat) : fld (modFab n g s) f i = fld s f i := rfl

@[simp] theorem flg_modFab (n : Nat) (g : FabPort → FabPort) (s : State) (f : Fld) (i : Nat) : flg (modFab n g s) f i = flg s f i := rfl

@[simp] theorem flg_grantTallies (n : Nat) (s : State) (f : Fld) (i : Nat) : flg (grantTallies n s) f i = flg s f i := rfl

@[simp] theorem fabOf_grantTallies (n : Nat) (s : State) : fabOf (grantTallies n s) n =
    { fabOf s n with reqTly := fld s FP_CTL_REQ_TLY n + 1, wdTly := fld s FP_CTL_WD_TLY n, granted := true } := by
  simp [grantTallies]

@[simp] theorem flg_clearTallies (n : Nat) (s : State) (f : Fld) (i : Nat) : flg (clearTallies n s) f i = flg s f i := rfl

@[simp] theorem fabOf_clearTallies (n : Nat) (s : State) : fabOf (clearTallies n s) n =
    { fabOf s n with reqTly := 0, wdTly := 0, granted := false, tlyClr := (fabOf s n).tlyClr + 1 } := by
  simp [clearTallies]

/-! ### The port write buffer (R62, R245) -/

/-- A line of a WRZ that lies in DRAM goes to the memory path, its buffer entry good. -/
theorem drainLine_wrz {r : FabReq} {k p la : Nat} (hopc : r.opc = 2) (hdram : target s (r.lineAddr k) = .dram p la) :
    drainLine n r k false s = lineAccess (.fab (Fin.ofNat 32 n) r.id k) (r.lineAddr k)
      (.write ((r.beats[k]?).getD { data := 0, be := allBytes }).data ((r.beats[k]?).getD { data := 0, be := allBytes }).be false) r.attr
      (fabLine n r.id k (fun l => { l with ph := .sent }) s) := by
  simp [drainLine, hopc, hdram]

/-! ### FP_PROTO (R53) -/

theorem regAt_writeProto (n : Nat) (v : Word) (s : State) : regAt (writeProto n v s) (FP_PROTO_TLY_OVR.off n) 0 =
    (regAt s (FP_PROTO_TLY_OVR.off n) 0 - (regAt s (FP_PROTO_TLY_OVR.off n) 0 &&& v.toNat % 64)) % 2 ^ 32 := by
  have hcnt : FP_PROTO_TLY_OVR.off n ≠ FP_PROTO_CNT_COUNT.off n := by
    simp only [FP_PROTO_TLY_OVR, FP_PROTO_CNT_COUNT, Fld.off]
    omega
  unfold writeProto
  extract_lets off clr old s1
  have hword : regAt s1 off 0 = (old - (old &&& clr)) % 2 ^ 32 := by rw [regAt_setWord, if_pos rfl]
  split
  · rw [setFld, regAt_setWord, if_neg hcnt, hword]
  · exact hword

/-- All six bits cleared at once clear the count. -/
theorem fld_writeProto_count {v : Word} (hall : v.toNat % 64 = 63) : fld (writeProto n v s) FP_PROTO_CNT_COUNT n = 0 := by
  unfold writeProto
  extract_lets off clr old s1
  rw [if_pos hall, fld_setFld_same _ _ _ _ (by decide), Nat.zero_mod]

/-! ### The fence takes hold (R367, R368) -/

/-- A field of a register above the counter reads as before. -/
theorem fld_rsvLose {g : Fld} (m : Master) (i : Nat) (h : g.base < f.base) : fld (rsvLose m g s) f i = fld s f i := by
  unfold rsvLose
  split
  · refine fld_setFld_ne f g i 0 _ s ?_
    simp only [Fld.off]
    omega
  · rfl

@[simp] theorem fabOf_rsvLose (a : Master) (g : Fld) (s : State) (m : Nat) : fabOf (rsvLose a g s) m = fabOf s m := by
  rw [fabOf, rsvLose_fab, fabOf]

/-- A port that is owed no beats is fenced, with no burst to cut. -/
theorem takeFence_of_none_owed (hfence : (fabOf s n).fenced = false) (howed : (fabOf s n).owed = []) :
    takeFence n s = rsvLose (.fab (Fin.ofNat 32 n)) HOME_RSV_LOSS_OTHER
      (setFld FP_STATUS_FENCED n 1 (setFld FP_FENCE_STAT_DRAINED n 0 (setFld FP_FENCE_STAT_DISCARD n 0
        (modFab n (fun f => { f with fenced := true, owed := [], relHost := false, relCfg := false, dropAns := false }) s)))) := by
  simp only [takeFence, hfence, howed, Bool.false_eq_true, if_false, List.filterMap_nil, List.foldl_nil]

/-! ### The fence ends (R371) -/

/-- The sources that were released before the drain ended are clear. -/
def sourcesCleared (n : Nat) (s : State) : State :=
  let s1 := if (fabOf s n).relHost then setFld FP_FENCE_STAT_HOST n 0 s else s
  modFab n (fun g => { g with relHost := false, relCfg := false }) (if (fabOf s n).relCfg then setFld FP_FENCE_STAT_CFG n 0 s1 else s1)

/-- The configuration controller has ended its request. -/
def cfgReleased (n : Nat) (s : State) : State := modFab n (fun f => { f with relCfg := true }) s

@[simp] theorem fabOf_cfgReleased (n : Nat) (s : State) : fabOf (cfgReleased n s) n = { fabOf s n with relCfg := true } := by
  simp [cfgReleased]

@[simp] theorem fld_cfgReleased (n : Nat) (s : State) (f : Fld) (i : Nat) : fld (cfgReleased n s) f i = fld s f i := rfl

@[simp] theorem flg_cfgReleased (n : Nat) (s : State) (f : Fld) (i : Nat) : flg (cfgReleased n s) f i = flg s f i := rfl

/-- FENCED has fallen. -/
def unfenced (n : Nat) (s : State) : State :=
  modFab n (fun g => { g with fenced := false, dropAns := false, unfenceWait := [] })
    (setFld FP_STATUS_FENCED n 0 (setFld FP_FENCE_STAT_DRAINED n 0 s))

theorem fabOf_sourcesCleared (n : Nat) (s : State) :
    fabOf (sourcesCleared n s) n = { fabOf s n with relHost := false, relCfg := false } := by
  unfold sourcesCleared
  cases (fabOf s n).relHost <;> cases (fabOf s n).relCfg <;> simp

theorem fld_sourcesCleared (hhost : f.Apart FP_FENCE_STAT_HOST) (hcfg : f.Apart FP_FENCE_STAT_CFG) :
    fld (sourcesCleared n s) f n = fld s f n := by
  unfold sourcesCleared
  cases (fabOf s n).relHost <;> cases (fabOf s n).relCfg <;> simp [fld_setFld_apart hhost, fld_setFld_apart hcfg]

theorem flg_sourcesCleared_host (n : Nat) (s : State) :
    flg (sourcesCleared n s) FP_FENCE_STAT_HOST n = (flg s FP_FENCE_STAT_HOST n && !(fabOf s n).relHost) := by
  unfold sourcesCleared
  cases (fabOf s n).relHost <;> cases (fabOf s n).relCfg <;>
    simp (disch := decide) [flg_setFld_apart, flg_setFld_same]

theorem flg_sourcesCleared_cfg (n : Nat) (s : State) :
    flg (sourcesCleared n s) FP_FENCE_STAT_CFG n = (flg s FP_FENCE_STAT_CFG n && !(fabOf s n).relCfg) := by
  unfold sourcesCleared
  cases (fabOf s n).relHost <;> cases (fabOf s n).relCfg <;>
    simp (disch := decide) [flg_setFld_apart, flg_setFld_same]

@[simp] theorem fabOf_unfenced (n : Nat) (s : State) :
    fabOf (unfenced n s) n = { fabOf s n with fenced := false, dropAns := false, unfenceWait := [] } := by
  simp [unfenced]

theorem fld_unfenced (hfenced : f.Apart FP_STATUS_FENCED) (hdrained : f.Apart FP_FENCE_STAT_DRAINED) :
    fld (unfenced n s) f n = fld s f n := by
  rw [unfenced, fld_modFab, fld_setFld_apart hfenced, fld_setFld_apart hdrained]

/-- A field that the end of a fence leaves alone. -/
abbrev Fld.OutsideFence (f : Fld) : Prop :=
  f.Apart FP_FENCE_STAT_HOST ∧ f.Apart FP_FENCE_STAT_CFG ∧ f.Apart FP_STATUS_FENCED ∧ f.Apart FP_FENCE_STAT_DRAINED

theorem fld_unfenced_sourcesCleared (h : f.OutsideFence) : fld (unfenced n (sourcesCleared n s)) f n = fld s f n := by
  obtain ⟨hhost, hcfg, hfenced, hdrained⟩ := h
  rw [fld_unfenced hfenced hdrained, fld_sourcesCleared hhost hcfg]

theorem flg_unfenced_fenced (n : Nat) (s : State) : flg (unfenced n s) FP_STATUS_FENCED n = false := by
  rw [unfenced, flg_modFab, flg_setFld_same _ _ _ _ (by decide)]
  rfl

section
variable (hfence : (fabOf s n).fenced = true) (hdrained : flg s FP_FENCE_STAT_DRAINED n = true)
include hfence hdrained

/-- While the host's source stays set the port stays fenced. -/
theorem releaseFence_of_host (hhost : flg (sourcesCleared n s) FP_FENCE_STAT_HOST n = true) : releaseFence n s = sourcesCleared n s := by
  unfold releaseFence
  extract_lets f s1 s2 s3 s4 s5
  have hs3 : s3 = sourcesCleared n s := rfl
  clear_value s3
  simp only [f, hfence, hdrained, hs3, hhost, Bool.not_true, Bool.or_self, Bool.true_or, Bool.false_eq_true, if_false, if_true]

/-- With both sources clear and no power-fail sequence or deep state the fence ends, and a port that is enabled gets its tallies. -/
theorem releaseFence_of_clear (hwait : (fabOf s n).unfenceWait = []) (hpf : s.en.pf = .none) (hst : s.pw.st.toNat ≤ 3)
    (hhost : flg (sourcesCleared n s) FP_FENCE_STAT_HOST n = false) (hcfg : flg (sourcesCleared n s) FP_FENCE_STAT_CFG n = false) :
    releaseFence n s = if flg (unfenced n (sourcesCleared n s)) FP_CTL_EN n then grantTallies n (unfenced n (sourcesCleared n s))
      else unfenced n (sourcesCleared n s) := by
  unfold releaseFence
  extract_lets f s1 s2 s3 s4 s5
  have hs3 : s3 = sourcesCleared n s := rfl
  have hs4 : s4 = s3 := by simp only [s4, f, hwait, List.foldl_nil]
  have hs5 : s5 = unfenced n s4 := rfl
  clear_value s3 s4 s5
  have hdeep : decide (s.pw.st.toNat > 3) = false := decide_eq_false (Nat.not_lt.2 hst)
  simp only [f, hfence, hdrained, hpf, hdeep, hs5, hs4, hs3, hhost, hcfg, Bool.not_true, Bool.or_self, ne_eq, not_true_eq_false, decide_false,
    Bool.false_eq_true, if_false]

end

/-! ### The port is drained (R369) -/

/-- With no FENCE that waits and the host's source set, the tallies are cleared and the port stays fenced. -/
theorem drainedNow_of_host (hfence : (fabOf s n).fenced = true) (hdrained : flg s FP_FENCE_STAT_DRAINED n = false)
    (hidle : ((fabOf s n).reqs.any FabReq.live) = false) (hwait : (fabOf s n).fenceWait = []) (hrel : (fabOf s n).relHost = false)
    (hhost : flg s FP_FENCE_STAT_HOST n = true) : drainedNow n s =
      sourcesCleared n (modFab n (fun g => { g with fenceWait := [] }) (clearTallies n (setFld FP_FENCE_STAT_DRAINED n 1 s))) := by
  simp only [drainedNow, hfence, hdrained, hidle, hwait, Bool.not_true, Bool.or_self, Bool.false_eq_true, if_false, List.foldl_nil]
  refine releaseFence_of_host ?_ ?_ ?_
  · simp [hfence]
  · simp (disch := decide) [flg_setFld_same]
  · simp (disch := decide) [flg_sourcesCleared_host, flg_setFld_apart, hhost, hrel]

end

/-! ### The commands of a port that is there -/

section
variable {s : State} {fp : Fin 32} (h : fabImpl s.part.variant fp.val = true)
include h

theorem execBurstTimeout_due {r : FabReq} (hdue : burstDue s fp.val = some r) :
    execBurstTimeout fp s = .next (settle (cutClose fp.val r.id (burstStopped fp.val r.id s))) := by
  rw [execBurstTimeout, onFabReg_there h, hdue]
  rfl

theorem execFabricPortBoundary_enables (hopen : applyOpen s = true) (hidle : ((fabOf s fp.val).reqs.any FabReq.live) = false)
    (halloc : mget s.shadow (FP_ALLOC_RDLINES.off fp.val) = none) (hoff : flg s FP_CTL_EN fp.val = false)
    (hon : staged s FP_CTL_EN fp.val = 1) (hfence : (fabOf s fp.val).fenced = false) :
    ∃ t, execFabricPortBoundary fp s = .next (settle t) ∧ flg t FP_CTL_EN fp.val = true ∧ flg t FP_STATUS_ENABLED fp.val = true ∧
      (fabOf t fp.val).reqTly = fld t FP_CTL_REQ_TLY fp.val + 1 ∧ (fabOf t fp.val).wdTly = fld t FP_CTL_WD_TLY fp.val ∧
      (fabOf t fp.val).granted = true := by
  refine ⟨fabBoundary fp.val s, onFabReg_there h _, ?_⟩
  rw [fabBoundary_enables hopen hidle halloc hoff hon hfence, fabOf_grantTallies]
  refine ⟨?_, flg_setFld_same _ _ _ _ (by decide), rfl, rfl, rfl⟩
  rw [flg_grantTallies, flg_setFld_apart (by decide), flg, fld_crcRestart]
  exact flg_applyShadow_fpCtl hoff hon

theorem execPwbDrain_wrz (hst : s.pw.st.toNat ≤ 1) (hreset : s.pw.inReset = false) {r : FabReq} {k p la : Nat}
    (hhead : drainHead s fp.val = some (r, k)) (hopc : r.opc = 2) (hdram : target s (r.lineAddr k) = .dram p la) :
    execPwbDrain fp false s = .next (settle (lineAccess (.fab fp r.id k) (r.lineAddr k)
      (.write ((r.beats[k]?).getD { data := 0, be := allBytes }).data ((r.beats[k]?).getD { data := 0, be := allBytes }).be false) r.attr
      (fabLine fp.val r.id k (fun l => { l with ph := .sent }) s))) := by
  have hfp : Fin.ofNat 32 fp.val = fp := Fin.ext (Nat.mod_eq_of_lt fp.isLt)
  simp only [execPwbDrain, onFabReg_there h, hreset, hhead, Bool.or_false, decide_eq_true_eq, Nat.not_lt.2 hst, if_false,
    drainLine_wrz hopc hdram, hfp]

theorem execFpProtoClear_awake (v : Word) (hreset : s.pw.inReset = false) :
    execFpProtoClear fp v s = .next (settle (writeProto fp.val v s)) := by
  simp only [execFpProtoClear, onFabReg_there h, hreset, Bool.false_eq_true, if_false]

theorem execFpDurClear_awake {v : Word} (hreset : s.pw.inReset = false) (hclr : v.getLsbD 0 = true) :
    execFpDurClear fp v s = .next (settle (footClear (fpFoot fp.val) s)) := by
  simp only [execFpDurClear, onFabReg_there h, hreset, Bool.false_eq_true, if_false, writeDurCtl, hclr, if_true]

theorem execCfgFenceRequest_takes (hreset : s.pw.inReset = false) (hfence : (fabOf s fp.val).fenced = false)
    (howed : (fabOf s fp.val).owed = []) : ∃ t, execCfgFenceRequest fp s = .next (settle t) ∧
      (fabOf t fp.val).fenced = true ∧ flg t FP_STATUS_FENCED fp.val = true ∧ flg t FP_FENCE_STAT_CFG fp.val = true ∧
      (fabOf t fp.val).reqs = (fabOf s fp.val).reqs ∧ ∀ line, rsvHolds t (.fab fp) line = false := by
  have hfp : Fin.ofNat 32 fp.val = fp := Fin.ext (Nat.mod_eq_of_lt fp.isLt)
  refine ⟨modFab fp.val (fun f => { f with relCfg := false }) (setFld FP_FENCE_STAT_CFG fp.val 1 (takeFence fp.val s)), ?_, ?_⟩
  · simp only [execCfgFenceRequest, onFab_there h, hreset, Bool.false_eq_true, if_false]
  · rw [takeFence_of_none_owed hfence howed, hfp]
    refine ⟨by simp, ?_, ?_, by simp, fun line => ?_⟩
    · rw [flg_modFab, flg_setFld_apart (by decide), flg, fld_rsvLose _ _ (by decide), fld_setFld_same _ _ _ _ (by decide)]
      rfl
    · rw [flg_modFab, flg_setFld_same _ _ _ _ (by decide)]
      rfl
    · exact (rsvHolds_rsvLose _ _ _ _ _).trans (if_pos rfl)

theorem execCfgFenceRelease_clear (hcfg : flg s FP_FENCE_STAT_CFG fp.val = true) (hhost : flg s FP_FENCE_STAT_HOST fp.val = false)
    (hdrained : flg s FP_FENCE_STAT_DRAINED fp.val = true) (hfence : (fabOf s fp.val).fenced = true)
    (hwait : (fabOf s fp.val).unfenceWait = []) (hpf : s.en.pf = .none) (hst : s.pw.st.toNat ≤ 3) :
    ∃ t, execCfgFenceRelease fp s = .next (settle t) ∧
      (fabOf t fp.val).fenced = false ∧ flg t FP_STATUS_FENCED fp.val = false ∧ flg t FP_FENCE_STAT_CFG fp.val = false ∧
      (flg s FP_CTL_EN fp.val = true →
        (fabOf t fp.val).reqTly = fld s FP_CTL_REQ_TLY fp.val + 1 ∧ (fabOf t fp.val).wdTly = fld s FP_CTL_WD_TLY fp.val) := by
  have hport := fabOf_cfgReleased fp.val s
  have hhostClear : flg (sourcesCleared fp.val (cfgReleased fp.val s)) FP_FENCE_STAT_HOST fp.val = false := by
    rw [flg_sourcesCleared_host, flg_cfgReleased, hhost, Bool.false_and]
  have hcfgClear : flg (sourcesCleared fp.val (cfgReleased fp.val s)) FP_FENCE_STAT_CFG fp.val = false := by
    rw [flg_sourcesCleared_cfg, hport, Bool.not_true, Bool.and_false]
  have hfenced := flg_unfenced_fenced fp.val (sourcesCleared fp.val (cfgReleased fp.val s))
  have hcfgEnd : flg (unfenced fp.val (sourcesCleared fp.val (cfgReleased fp.val s))) FP_FENCE_STAT_CFG fp.val = false := by
    rw [flg, fld_unfenced (by decide) (by decide)]
    exact hcfgClear
  refine ⟨releaseFence fp.val (cfgReleased fp.val s), ?_, ?_⟩
  · simp only [execCfgFenceRelease, onFab_there h, hcfg, Bool.not_true, Bool.false_eq_true, if_false]
    rfl
  · rw [releaseFence_of_clear ((congrArg FabPort.fenced hport).trans hfence) hdrained ((congrArg FabPort.unfenceWait hport).trans hwait)
      hpf hst hhostClear hcfgClear]
    split
    next =>
      rw [fabOf_grantTallies, fabOf_unfenced, fld_unfenced_sourcesCleared (by decide), fld_unfenced_sourcesCleared (by decide),
        fld_cfgReleased, fld_cfgReleased]
      exact ⟨rfl, (flg_grantTallies ..).trans hfenced, (flg_grantTallies ..).trans hcfgEnd, fun _ => ⟨rfl, rfl⟩⟩
    next hoff =>
      rw [flg, fld_unfenced_sourcesCleared (by decide), fld_cfgReleased] at hoff
      rw [fabOf_unfenced]
      exact ⟨rfl, hfenced, hcfgEnd, fun hon => absurd hon hoff⟩

theorem execFenceDrained_host (hfence : (fabOf s fp.val).fenced = true) (hdrained : flg s FP_FENCE_STAT_DRAINED fp.val = false)
    (hidle : ((fabOf s fp.val).reqs.any FabReq.live) = false) (hwait : (fabOf s fp.val).fenceWait = [])
    (hrel : (fabOf s fp.val).relHost = false) (hhost : flg s FP_FENCE_STAT_HOST fp.val = true) :
    ∃ t, execFenceDrained fp s = .next (settle t) ∧ flg t FP_FENCE_STAT_DRAINED fp.val = true ∧
      (fabOf t fp.val).tlyClr = (fabOf s fp.val).tlyClr + 1 ∧ (fabOf t fp.val).reqTly = 0 ∧ (fabOf t fp.val).wdTly = 0 ∧
      (fabOf t fp.val).fenced = true := by
  refine ⟨drainedNow fp.val s, onFabReg_there h _, ?_⟩
  rw [drainedNow_of_host hfence hdrained hidle hwait hrel hhost, fabOf_sourcesCleared]
  refine ⟨?_, by simp, by simp, by simp, by simpa using hfence⟩
  rw [flg, fld_sourcesCleared (by decide) (by decide)]
  exact flg_setFld_same _ _ _ _ (by decide)

theorem execFenceTimeout_expired (hexpired : ((fabOf s fp.val).fenceWait.any fun e => e.2 ≠ 0 && e.2 ≤ s.clk) = true) :
    execFenceTimeout fp s = .next (settle (setFab fp.val { fabOf s fp.val with dropAns := true } s)) := by
  simp only [execFenceTimeout, onFabReg_there h]
  rw [if_pos hexpired]
  rfl

end

/-- Settles O17, a clause for each operation. -/
theorem fabricControl : Obligations.FabricControl := by
  unfold Obligations.FabricControl
  intro s fp v n f here
  refine ⟨fun h r hdue => ?_, fun h => execFabricPortBoundary_enables h, fun h hst hreset r k p la => execPwbDrain_wrz h hst hreset,
    fun h hreset => ⟨writeProto n v s, execFpProtoClear_awake h v hreset, regAt_writeProto n v s, fld_writeProto_count⟩,
    fun h hreset => execFpDurClear_awake h hreset, fun h => execCfgFenceRequest_takes h, fun h => execCfgFenceRelease_clear h,
    fun h hfence hdrained hidle hwait hrel _ => execFenceDrained_host h hfence hdrained hidle hwait hrel,
    fun h => execFenceTimeout_expired h⟩
  refine ⟨burstStopped n r.id s, execBurstTimeout_due h hdue, ?_, fun q => burstStopped_cut, fun o => burstStopped_owed_ne, ?_⟩
  · exact flg_setFld_same _ _ _ _ (by decide)
  · rw [burstStopped_reqs, modReqs, List.length_map]

end Sys2Proof.Machine
end

section
/-!
The command queue of a port (R66, R95, R99, R152, R189, R225, R410): entry, the slot's column command, the command that is known good, and
the return of a line.
-/

namespace Sys2Proof.Machine

section
variable {s : State} {n : Nat}

/-! ### A command of a DRAM port that is there -/

theorem onPort_here {p : Fin 20} (h : PortHere s p) (f : State → State) : onPort p s f = .next (settle (f s)) := by
  simp only [onPort, h, if_true]

/-! ### A port behind an update of one of its parts -/

@[simp] theorem portOf_modSched (p r : Nat) (g : Sched → Sched) (s : State) :
    portOf (modSched p g s) r = if r = p then { portOf s p with sched := g (portOf s p).sched } else portOf s r := portOf_modPort ..

@[simp] theorem portOf_modDram (p r : Nat) (g : DramSt → DramSt) (s : State) :
    portOf (modDram p g s) r = if r = p then { portOf s p with dram := g (portOf s p).dram } else portOf s r := portOf_modPort ..

@[simp] theorem portOf_modLink (p r : Nat) (g : Link → Link) (s : State) :
    portOf (modLink p g s) r = if r = p then { portOf s p with link := g (portOf s p).link } else portOf s r := portOf_modPort ..

@[simp] theorem portOf_setFld (f : Fld) (i v : Nat) (s : State) (r : Nat) : portOf (setFld f i v s) r = portOf s r := rfl

@[simp] theorem portOf_addFld (f : Fld) (i k : Nat) (s : State) (r : Nat) : portOf (addFld f i k s) r = portOf s r := rfl

@[simp] theorem portOf_newId (s : State) (r : Nat) : portOf (newId s).2 r = portOf s r := rfl

/-! ### Entry (R66, R99, R189, R410) -/

/-- The oldest waiting read may enter where there is room for it, for nothing of its row waits before it. -/
theorem enterable_oldest {r : SubReq} {l : List SubReq} (hwait : (portOf s n).sched.wait = r :: l) (hkind : r.kind = .read)
    (hroom : queueRoom s n r = true) : enterable s n = some r := by
  simp [enterable, hwait, hkind, hroom]

theorem enterQueue_read {r : SubReq} (hkind : r.kind = .read) (hroom : queueRoom s n r = true) : enterQueue n r s =
    some (entered n r (modSched n (fun q => { q with queue := q.queue ++ [r] }) (rowMatch n r.la (removeWait n r.id s)))) := by
  simp only [enterQueue, hkind, hroom, if_true]

/-- A port in service fails no sub-request. -/
theorem pstate_ne_service_of_portFails (h : portFails s n = true) : pstate s n ≠ .service := by
  intro hst
  rw [portFails, hst] at h
  exact Bool.false_ne_true h

section
variable {p : Fin 20} {r : SubReq} {l : List SubReq}

theorem execQueueEntry_enters (h : PortHere s p) (hwait : (portOf s p.val).sched.wait = r :: l) (hkind : r.kind = .read)
    (hroom : queueRoom s p.val r = true) (hfails : portFails s p.val = false) (hlink : (portOf s p.val).link.timedOut = false)
    (hlanes : serial p.val = true → fld s SL_STAT_LSTATE p.val ≠ 1) : execQueueEntry p s = .next (settle
      (entered p.val r (modSched p.val (fun q => { q with queue := q.queue ++ [r] }) (rowMatch p.val r.la (removeWait p.val r.id s))))) := by
  have hawake : (serial p.val && decide (fld s SL_STAT_LSTATE p.val = 1)) = false := by
    rw [Bool.and_eq_false_imp]
    exact fun hserial => decide_eq_false (hlanes hserial)
  simp only [execQueueEntry, onPort_here h, hawake, hfails, hlink, Bool.false_and, Bool.or_self, Bool.false_eq_true, if_false,
    enterable_oldest hwait hkind hroom, enterQueue_read hkind hroom, Option.getD_some]

theorem execQueueEntry_fails (h : PortHere s p) (hwait : (portOf s p.val).sched.wait = r :: l) (hfails : portFails s p.val = true) :
    execQueueEntry p s = .next (settle (deliver r.owner { bst := 2, sts := 7 } (removeWait p.val r.id s))) := by
  have hout := pstate_ne_service_of_portFails hfails
  simp only [execQueueEntry, onPort_here h, hout, hfails, hwait, decide_false, Bool.and_false, Bool.false_and, Bool.true_or,
    Bool.false_eq_true, if_false, if_true]

end

/-! ### A slot that takes a column command (R95, R152) -/

/-- The lead is that of the link mode and of the port's marks. -/
theorem leadOf_congr {t : State} (hmode : flg t SP_CTL_MODE n = flg s SP_CTL_MODE n) (hmarks : (portOf t n).marks = (portOf s n).marks) :
    leadOf t n = leadOf s n := by
  rw [leadOf, leadOf, cx2, cx2, hmode, hmarks]

theorem SameBytes.trans {t u : State} (h : SameBytes s t) (h' : SameBytes t u) : SameBytes s u := by
  obtain ⟨hdram, hspad, hprog, hdata⟩ := h
  obtain ⟨hdram', hspad', hprog', hdata'⟩ := h'
  exact ⟨hdram'.trans hdram, hspad'.trans hspad, hprog'.trans hprog, hdata'.trans hdata⟩

/-- What a slot of port n does before it issues a command: the memories, the clock, the retry buffer and the lead are as before. -/
structure BeforeIssue (n : Nat) (s t : State) : Prop where
  bytes : SameBytes s t
  clk : t.clk = s.clk
  retry : (portOf t n).sched.retry = (portOf s n).sched.retry
  lead : leadOf t n = leadOf s n

theorem BeforeIssue.trans {t u : State} (h : BeforeIssue n s t) (h' : BeforeIssue n t u) : BeforeIssue n s u :=
  ⟨h.bytes.trans h'.bytes, h'.clk.trans h.clk, h'.retry.trans h.retry, h'.lead.trans h.lead⟩

theorem beforeIssue_countPromoted (n : Nat) (s : State) : BeforeIssue n s (countPromoted n s) := by
  unfold countPromoted
  extract_lets now fresh
  split
  · exact ⟨⟨rfl, rfl, rfl, rfl⟩, rfl, rfl, rfl⟩
  · exact ⟨⟨rfl, rfl, rfl, rfl⟩, rfl, by simp, leadOf_congr (flg_setFld_apart (by decide)) (by simp)⟩

theorem beforeIssue_setDir (n c : Nat) (dir : Bool) (s : State) : BeforeIssue n s (setDir n c dir s) :=
  ⟨⟨rfl, rfl, rfl, rfl⟩, rfl, by simp [setDir, modSub], leadOf_congr (flg_setFld_apart (by decide)) (by simp [setDir, modSub])⟩

/-- A packet changes its port's link alone. -/
theorem sendPacket_frame (n : Nat) (x : Packet) (s : State) :
    SameBytes s (sendPacket n x s) ∧ (portOf (sendPacket n x s) n).sched = (portOf s n).sched := by
  unfold sendPacket
  split
  · exact ⟨⟨rfl, rfl, rfl, rfl⟩, by simp⟩
  · exact ⟨⟨rfl, rfl, rfl, rfl⟩, rfl⟩

/-- Port n of t holds in its retry buffer what it holds in s, and the command o of request q at l behind it, issued at offset off. -/
def Queues (n off : Nat) (o : Op) (l : Loc) (q : Option SubReq) (s t : State) : Prop :=
  ∃ h, (portOf t n).sched.retry = (portOf s n).sched.retry ++ [h] ∧ h.op = o ∧ h.loc = l ∧ h.req = q ∧ h.clk = s.clk + leadOf s n ∧
    h.off = off

/-- Nothing that comes before the issue changes what the command is put behind. -/
theorem BeforeIssue.queues {t u : State} {off : Nat} {o : Op} {l : Loc} {q : Option SubReq} (h : BeforeIssue n s t)
    (h' : Queues n off o l q t u) : Queues n off o l q s u := by
  rwa [Queues, h.retry, h.clk, h.lead] at h'

/-- An issued command joins the retry buffer; the memories and the queue are as before. -/
theorem issueOp_queues (n c off : Nat) (o : Op) (l : Loc) (q : Option SubReq) (unblk : Bool) (s : State) :
    SameBytes s (issueOp n c off o l q unblk s) ∧ Queues n off o l q s (issueOp n c off o l q unblk s) ∧
      (portOf (issueOp n c off o l q unblk s) n).sched.queue = (portOf s n).sched.queue := by
  unfold issueOp
  extract_lets i counted stamp h t k s1 s2 s3
  obtain ⟨hsent, hsched⟩ := sendPacket_frame n (.command [h]) s3
  have hretry : (portOf s2 n).sched.retry = (portOf s n).sched.retry ++ [h] := by simp [s2, s1, modSub, i]
  have hqueue : (portOf s2 n).sched.queue = (portOf s n).sched.queue := by simp [s2, s1, modSub, i]
  have hact : SameBytes s s3 ∧ (portOf s3 n).sched.retry = (portOf s2 n).sched.retry ∧
      (portOf s3 n).sched.queue = (portOf s2 n).sched.queue := by
    unfold s3
    split
    · exact ⟨⟨rfl, rfl, rfl, rfl⟩, by simp, by simp⟩
    · exact ⟨⟨rfl, rfl, rfl, rfl⟩, rfl, rfl⟩
  obtain ⟨hbytes, hretry', hqueue'⟩ := hact
  rw [Queues, hsched]
  exact ⟨hbytes.trans hsent, ⟨h, hretry'.trans hretry, rfl, rfl, rfl, rfl, rfl⟩, hqueue'.trans hqueue⟩

/-- The request of an issued column command leaves the queue. -/
theorem issueCol_queues (n c off : Nat) (x : Cand) (q : SubReq) (unblk : Bool) (s : State) :
    SameBytes s (issueCol n c off x q unblk s) ∧ Queues n off x.op x.loc (some q) s (issueCol n c off x q unblk s) ∧
      ∀ z ∈ (portOf (issueCol n c off x q unblk s) n).sched.queue, z.id ≠ q.id := by
  unfold issueCol
  extract_lets l waits b s1
  obtain ⟨hbytes, hqueues, hqueue⟩ := issueOp_queues n c off x.op x.loc (some q) unblk
    (modDram n (fun d => { d with idleAt := s.clk }) (modSched n (fun y => { y with queue := y.queue.filter fun z => z.id ≠ q.id }) s1))
  refine ⟨hbytes, BeforeIssue.queues (s := s) ?_ hqueues, ?_⟩
  · exact ⟨⟨rfl, rfl, rfl, rfl⟩, rfl, by simp [s1, modSub], leadOf_congr rfl (by simp [s1, modSub])⟩
  · rw [hqueue]
    simp

theorem execCommandSlotSelect_col {p : Fin 20} {sub : Fin 4} {off : BitVec 4} {x : Cand} {dir : Bool} {r : SubReq} (h : PortHere s p)
    (hissue : mayIssue s p.val = true) (hsub : sub.val < subCount s p.val) (hoff : off.toNat < clocksPerTick s p.val)
    (hsel : select (countPromoted p.val s) p.val sub.val (slotClk (countPromoted p.val s) p.val off.toNat) = (some x, dir))
    (hpick : x.pick = .req r) (hcol : x.op.isCol = true) : ∃ t, execCommandSlotSelect p sub off s = .next (settle t) ∧ SameBytes s t ∧
      Queues p.val off.toNat x.op x.loc (some r) s t ∧ ∀ z ∈ (portOf t p.val).sched.queue, z.id ≠ r.id := by
  have hslot : slotSelect p.val sub.val off.toNat s =
      issueCol p.val sub.val off.toNat x r false (setDir p.val sub.val dir (countPromoted p.val s)) := by
    simp only [slotSelect, hissue, Nat.not_le.2 hsub, Nat.not_le.2 hoff, hsel, hpick, hcol, Bool.not_true, decide_false, Bool.or_self,
      Bool.false_eq_true, if_false, if_true]
  have hbefore := (beforeIssue_countPromoted p.val s).trans (beforeIssue_setDir p.val sub.val dir _)
  obtain ⟨hbytes, hqueues, hqueue⟩ := issueCol_queues p.val sub.val off.toNat x r false
    (setDir p.val sub.val dir (countPromoted p.val s))
  refine ⟨_, (onPort_here h _).trans ?_, hbefore.bytes.trans hbytes, hbefore.queues hqueues, hqueue⟩
  rw [hslot]

/-! ### The command that is known good (R152) -/

/-- A port that keeps its row-remap table keeps its lines where they are stored. -/
theorem readStored_modPort {g : Port → Port} (hremap : (g (portOf s n)).prot.remap = (portOf s n).prot.remap) (la : Nat) :
    readStored (modPort n g s) n la = readStored s n la := by
  have hremap' : (portOf (modPort n g s) n).prot.remap = (portOf s n).prot.remap := by rw [portOf_modPort, if_pos rfl, hremap]
  have hplace : placeOf (modPort n g s) n la = placeOf s n la := by
    simp only [placeOf, remapOf, hremap']
    rfl
  rw [readStored, readStored, hplace, hremap']
  rfl

/-- The state in which the oldest command of the retry buffer, known good, takes its effect; l is what stands behind it. -/
def retryTaken (n : Nat) (l : List Issued) (s : State) : State :=
  modDram n (fun d => { d with alerts := 0, escalated := false }) (modSched n (fun x => { x with retry := l }) s)

theorem readStored_retryTaken (n : Nat) (l : List Issued) (s : State) (la : Nat) :
    readStored (retryTaken n l s) n la = readStored s n la :=
  (readStored_modPort rfl la).trans (readStored_modPort rfl la)

theorem execCommandKnownGood_due {p : Fin 20} {i : Issued} {l : List Issued} {r : SubReq} (h : PortHere s p)
    (halert : (portOf s p.val).dram.alertAt = none) (hlink : (portOf s p.val).link.lost = false)
    (hretry : (portOf s p.val).sched.retry = i :: l) (hreq : i.req = some r) (hdue : goodDue s p.val i = true)
    (hacked : acked s p.val i = true) :
    execCommandKnownGood p s = .next (settle (colEffect p.val r i.stamp (retryTaken p.val l s))) := by
  simp only [execCommandKnownGood, onPort_here h, halert, hlink, hretry, hdue, hacked, goodOldest, hreq, Option.isSome_none, Bool.or_self,
    Bool.and_self, Bool.false_eq_true, if_false, if_true]
  rfl

/-- A posted write of a whole line stores it, behind what the line's reads in flight take. -/
theorem colEffect_posted_write {r : SubReq} {d : Line} (hkind : r.kind = .write d allBytes false) (howner : r.owner = .post)
    (stamp : BitVec 28) (s : State) : colEffect n r stamp s = storeLine n r.la d false orgDemand (markOver n r.la s) := by
  have hall : allBytes ≠ 0 := by decide
  simp only [colEffect, hkind, howner, if_neg hall, Bool.false_eq_true, if_false, deliver]

theorem colEffect_read {r : SubReq} (hkind : r.kind = .read) (stamp : BitVec 28) (s : State) :
    colEffect n r stamp s = fly n r stamp (readStored s n r.la).1 (readStored s n r.la).2 s := by
  simp only [colEffect, hkind]

/-! ### The return of a line (R225, R227) -/

/-- The first element with p is the first with p and q, if it has q. -/
theorem find?_and_of_find? {α : Type} {p q : α → Bool} {l : List α} {a : α} (h : l.find? p = some a) (hq : q a = true) :
    l.find? (fun x => p x && q x) = some a := by
  rw [List.find?_eq_some_iff_append] at h ⊢
  obtain ⟨hp, before, after, hl, hbefore⟩ := h
  exact ⟨by rw [hp, hq, Bool.and_self], before, after, hl, fun x hx => by simp [show p x = false by simpa using hbefore x hx]⟩

/-- The flight of that number, if it is a read, is the one that the return takes. -/
theorem returnFlight_read {id : Nat} {f : Flight} {err : Burst}
    (hflight : (portOf s n).sched.flight.find? (fun g => decide (g.id = id)) = some f) (hkind : f.req.kind = .read) :
    returnFlight n id err s = landFlight n f err (modSched n (fun x => { x with flight := x.flight.filter fun g => g.id ≠ id }) s) := by
  have hid : f.id = id := by simpa using List.find?_some hflight
  unfold returnFlight
  extract_lets demand
  have hdemand : (portOf s n).sched.flight.find? demand = some f := find?_and_of_find? hflight (by rw [hkind])
  rw [takeFlight, hdemand, ← hid]

theorem landFlight_read {f : Flight} (hkind : f.req.kind = .read) (err : Burst) (s : State) : landFlight n f err s =
    deliver f.req.owner (decBeat (decodeFlight s n f err).1 (decodeFlight s n f err).2) (notePoisonRead n f.req.la (decodeFlight s n f err).1
      orgDemand (noteDecode n f.req.la (decodeFlight s n f err).1 orgDemand false s)) := by
  simp only [landFlight, hkind, Bool.false_eq_true, if_false]

end

/-- Settles O19, a clause for each row. -/
theorem schedulerQueue : Obligations.SchedulerQueue := by
  unfold Obligations.SchedulerQueue
  intro s p sub off id err n q h
  refine ⟨fun r l => execQueueEntry_enters h, fun r l => execQueueEntry_fails h,
    fun hissue hsub hoff x dir r => execCommandSlotSelect_col h hissue hsub hoff,
    fun halert hlink i l r hretry hreq hdue hacked => ⟨fun d hkind howner => ?_, fun hkind => ?_⟩, fun f hflight hkind => ?_⟩
  · rw [← colEffect_posted_write hkind howner i.stamp]
    exact execCommandKnownGood_due h halert hlink hretry hreq hdue hacked
  · rw [← readStored_retryTaken n l s r.la]
    refine (execCommandKnownGood_due h halert hlink hretry hreq hdue hacked).trans ?_
    rw [colEffect_read hkind]
    rfl
  · show execLineDataReturn p id err s = _
    rw [execLineDataReturn, onPort_here h, returnFlight_read hflight hkind, landFlight_read hkind]

end Sys2Proof.Machine
end

section
/-!
Answers and timeouts at the home (R303, R306, R310, R313, R318, R322, R80): the messages of a stop that is an agent in good standing, the
agents that a snoop's timer fails, and the registers that clear what the home has counted.
-/

namespace Sys2Proof.Machine

section
variable {s : State} {f : Fld}

/-! ### Messages of a stop (R295, R303, R306) -/

/-- A message for the home of a part that has one, from a stop that is not FAILED. -/
def FromStop (s : State) (h : RingHdr) : Prop :=
  h.dst.toNat = ownStop s ∧ homeImpl s.part.variant = true ∧ failedAgent s (stopOf h) = false

/-- The answer of a stop joins its request. -/
def joinAnswer (h : RingHdr) (d : Option Line) (y : HomeReq) : HomeReq :=
  { y with
    await := y.await.erase (stopOf h)
    held := y.held || (h.state != 0 && stopOf h ≠ y.stop)
    fwdBy := if h.fwd then some (stopOf h) else y.fwdBy
    fwdDirty := y.fwdDirty || (h.fwd && h.dirty)
    fwdState := if h.fwd then 1 else y.fwdState
    ansLine := match d with
      | some l => if h.fwd && h.dirty then some (l, h.poison) else y.ansLine
      | none => y.ansLine }

section
variable {h : RingHdr} (mine : FromStop s h)
include mine

theorem execAns_malformed (d : Option Line) (hclean : ansClean h = false) :
    execAns h d s = .next (settle (homeProto (lineOfHdr h) (stopOf h) 31 s)) := by
  obtain ⟨hdst, hhome, hfailed⟩ := mine
  simp only [execAns, hdst, hhome, hfailed, hclean, ne_eq, not_true, decide_false, Bool.not_true, Bool.not_false,
    Bool.or_self, Bool.false_eq_true, if_false, if_true]

/-- Where no set of the ledger is being cleared an answer is for the snoop of its line. -/
theorem execAns_plain (d : Option Line) (hset : s.home.snpset = none) (hclean : ansClean h = true) :
    execAns h d s = .next (settle (execAns.plain h d s)) := by
  obtain ⟨hdst, hhome, hfailed⟩ := mine
  simp only [execAns, hdst, hhome, hfailed, hclean, hset, ne_eq, not_true, decide_false, Bool.not_true,
    Bool.or_self, Bool.false_eq_true, if_false]

theorem execAns_unasked (d : Option Line) (hset : s.home.snpset = none) (hnone : awaiting s (lineOfHdr h) (stopOf h) = none) :
    execAns h d s = .next (settle (homeProto (lineOfHdr h) (stopOf h) 31 s)) := by
  cases hclean : ansClean h with
  | false => exact execAns_malformed mine d hclean
  | true =>
    rw [execAns_plain mine d hset hclean, execAns.plain, hnone]

theorem execAns_joins (d : Option Line) (hset : s.home.snpset = none) {r : HomeReq}
    (hsome : awaiting s (lineOfHdr h) (stopOf h) = some r) (hclean : ansClean h = true) (hnote : h.note = false) :
    execAns h d s = .next (settle (homeCheck r.id (homeMod r.id (joinAnswer h d) s))) := by
  rw [execAns_plain mine d hset hclean, execAns.plain, hsome]
  simp only [takeNote, hnote, Bool.not_false, Bool.true_or, if_true, Bool.false_eq_true, if_false]
  rfl

theorem execData_joins (x : Line) (hclean : datClean h = true) {r : HomeReq}
    (hsome : s.home.reqs.find? (fun r => r.line = lineOfHdr h && r.phase = .snoop && takesLine r && r.fwdLine.isNone) = some r) :
    execData h x s = .next (settle (homeCheck r.id (homeMod r.id (fun y => { y with fwdLine := some (x, h.poison) }) s))) := by
  obtain ⟨hdst, hhome, hfailed⟩ := mine
  simp only [execData, hdst, hhome, hfailed, hclean, hsome, ne_eq, not_true, decide_false, Bool.not_true, Bool.or_self,
    Bool.false_eq_true, if_false]

theorem execAck_releases (hclean : ackClean h = true) {r : HomeReq}
    (hsome : s.home.reqs.find? (fun r => r.line = lineOfHdr h && r.granted && r.stop = stopOf h) = some r) :
    execAck h s = .next (settle (homeRun (homeDrop r.id s))) := by
  obtain ⟨hdst, hhome, hfailed⟩ := mine
  simp only [execAck, hdst, hhome, hfailed, hclean, hsome, ne_eq, not_true, decide_false, Bool.not_true, Bool.or_self,
    Bool.false_eq_true, if_false, if_true]

end

/-! ### Fields that the answer to a request leaves alone -/

/-- A field above the binding records, whose counts alone an answer's end changes. -/
theorem fld_unbind (a : ReqAttr) (h : 0x22000 ≤ f.base) : fld (unbind a s) f = fld s f := by
  unfold unbind
  split
  · rfl
  next t _ =>
    refine fld_setFld_ne f _ 0 _ _ s ?_
    have := t.isLt
    simp only [Fld.off, BR_STAT_OUT]
    omega

theorem fld_judge (a : ReqAttr) (h : 0x22000 ≤ f.base) : fld (judge a s) f = fld s f := by
  have hset : ∀ (g : Fld) (i v : Nat) (t : State), g.off i < 0x22000 → fld (setFld g i v t) f = fld t f := fun g i v t hg =>
    fld_setFld_ne f g 0 i v t (by rw [Fld.off]; omega)
  unfold judge
  split
  · rfl
  next t _ =>
    have ht := t.isLt
    extract_lets late s1 s2 quiet
    have hs1 : fld s1 f = fld s f := hset _ _ _ _ (by simp only [Fld.off, BR_MISS_MISS]; omega)
    have hs2 : fld s2 f = fld s f := by
      unfold s2
      split
      · exact hs1
      · rw [hset _ _ _ _ (by decide), hset _ _ _ _ (by decide), hs1]
    split
    · rfl
    · split
      · rw [addFld, hset _ _ _ _ (by decide), hs2]
      · rw [fld_raise_ne (by rw [Fld.off]; omega) (by rw [Fld.off]; omega)]
        exact hs2

theorem fld_answered (a : ReqAttr) (h : 0x22000 ≤ f.base) : fld (answered a s) f = fld s f := by
  rw [answered, fld_unbind a h, fld_judge a h]

@[simp] theorem fabPerformed_regs (n id k : Nat) (s : State) : (fabPerformed n id k s).regs = s.regs := by
  unfold fabPerformed
  split
  · rfl
  · extract_lets was s1
    split <;> rfl

@[simp] theorem fabLineDone_regs (n id k : Nat) (res : LineRes) (s : State) : (fabLineDone n id k res s).regs = s.regs := by
  unfold fabLineDone
  split
  · split <;> rfl
  · extract_lets s1
    have hs1 : s1.regs = s.regs := fabPerformed_regs n id k s
    split <;> exact hs1

theorem fld_congr {t : State} (h : t.regs = s.regs) (i : Nat) : fld t f i = fld s f i := by
  rw [fld, fld, regAt, regAt, h]

theorem fld_lantLineDone (c num : Nat) (res : LineRes) (h : 0x22000 ≤ f.base) : fld (lantLineDone c num res s) f = fld s f := by
  unfold lantLineDone lantLineDone.setLant
  split
  · exact (fld_congr rfl 0).trans (fld_answered _ h)
  · rfl

/-- An answer changes no such register: it posts a message or ends a line, and its record's count falls. -/
theorem fld_homeAnswer (r : HomeReq) (res : LineRes) (h : 0x22000 ≤ f.base) : fld (homeAnswer r res s) f = fld s f := by
  unfold homeAnswer
  split
  · exact fld_congr (fabLineDone_regs ..) 0
  · exact fld_lantLineDone _ _ _ h
  · split
    · rfl
    · rw [fld_answered _ h]
      split
      · rfl
      · split <;> rfl

/-! ### A snoop's timer (R310, R312) -/

/-- A failed agent is marked, and every other agent is marked or not as before. -/
theorem bits_failAgent {b : Nat} (hb : b < 24) (line op : Nat) (more : Bool) (s : State) (a : Nat) :
    bits (fld (failAgent line op more s a) HOME_AGT_FAIL_FAILED) b 1 = if b = a then 1 else bits (fld s HOME_AGT_FAIL_FAILED) b 1 := by
  unfold failAgent
  extract_lets s1 s2 own s3 bars
  have hs1 : fld s1 HOME_AGT_FAIL_FAILED = (fld s HOME_AGT_FAIL_FAILED ||| 2 ^ a) % 2 ^ 24 := fld_setFld_same _ _ _ _ (by decide)
  have hs2 : fld s2 HOME_AGT_FAIL_FAILED = fld s1 HOME_AGT_FAIL_FAILED := by
    rw [fld_raise_ne (by decide) (by decide), addFld, fld_setFld_ne _ _ _ _ _ _ (by decide)]
    rfl
  have hs3 : fld s3 HOME_AGT_FAIL_FAILED = fld s2 HOME_AGT_FAIL_FAILED :=
    List.foldlRecOn own _ (motive := fun t => fld t HOME_AGT_FAIL_FAILED = fld s2 HOME_AGT_FAIL_FAILED) rfl fun t ht r _ => by
      refine (fld_congr rfl 0).trans (Eq.trans ?_ ht)
      split
      · rfl
      · exact fld_homeAnswer _ _ (by decide)
  have hend : fld (bars.foldl (fun t b => if b.2.2.1 = 0 then t else ringComp a b.2.1 0 8 t)
      (modHome (fun h => { h with bars := h.bars.filter fun b => b.1 ≠ a }) s3)) HOME_AGT_FAIL_FAILED = fld s3 HOME_AGT_FAIL_FAILED :=
    List.foldlRecOn bars _ (motive := fun t => fld t HOME_AGT_FAIL_FAILED = fld s3 HOME_AGT_FAIL_FAILED) rfl fun t ht b _ => by
      split
      · exact ht
      · exact ht
  rw [hend, hs3, hs2, hs1, bits_one, bits_one, Nat.testBit_mod_two_pow, Nat.testBit_or, Nat.testBit_two_pow]
  by_cases hba : b = a
  · subst hba
    simp [hb]
  · simp [hba, Ne.symm hba, hb]

theorem bits_foldl_failAgent {b : Nat} (hb : b < 24) (line op : Nat) (more : Bool) (l : List Nat) (s : State) :
    bits (fld (l.foldl (failAgent line op more) s) HOME_AGT_FAIL_FAILED) b 1 =
      if b ∈ l then 1 else bits (fld s HOME_AGT_FAIL_FAILED) b 1 := by
  induction l generalizing s with
  | nil => simp
  | cons a l ih =>
    rw [List.foldl_cons, ih, bits_failAgent hb]
    by_cases hl : b ∈ l
    · simp [hl]
    · simp [hl]

theorem fld_suspectSweep (s : State) (f : Fld) : fld (suspectSweep s) f = fld s f := by
  unfold suspectSweep
  split <;> rfl

theorem lt_of_mem_liveAgents {a : Nat} (h : a ∈ liveAgents s) : a < 24 := List.mem_range.1 (List.mem_of_mem_filter h)

/-- The live agents that a snoop still waits for. -/
def silentAgents (s : State) (r : HomeReq) : List Nat := r.await.filter fun a => (liveAgents s).contains a

/-- The state in which they have failed. -/
def silentFailed (s : State) (r : HomeReq) : State :=
  suspectSweep ((silentAgents s r).foldl (failAgent r.line r.kind.op (1 < (silentAgents s r).length)) s)

theorem bits_silentFailed {r : HomeReq} {a : Nat} (ha : a ∈ silentAgents s r) :
    bits (fld (silentFailed s r) HOME_AGT_FAIL_FAILED) a 1 = 1 := by
  have hlive : a ∈ liveAgents s := by simpa using (List.mem_filter.1 ha).2
  rw [silentFailed, fld_suspectSweep, bits_foldl_failAgent (lt_of_mem_liveAgents hlive), if_pos ha]

/-- What its snoop's timer makes of a request: it waits for nobody, and a forward whose line has not come is none. -/
def snoopExpired (q : HomeReq) : HomeReq :=
  { q with await := [], timedOut := true, fwdBy := if takesLine q && q.fwdLine.isNone then none else q.fwdBy }

theorem execSnoopTimeout_expired {laddr : BitVec 40} {r q : HomeReq} (hdue : s.home.reqs.find? (fun r => r.line = laddr.toNat &&
    r.phase = .snoop && r.snoopAt + fld s HOME_TMO_US * edgesUs ≤ s.clk) = some r) (hmiss : silentAgents s r ≠ [])
    (hopen : homeFind (silentFailed s r) r.id = some q) : execSnoopTimeout laddr s = .next (settle
      (homeRun (homeDecide (snoopExpired q) (homeMod q.id (fun _ => snoopExpired q) (silentFailed s r))))) := by
  have hsilent : failSilent r.line r.kind.op r.await s = silentFailed s r := by
    rw [failSilent]
    exact if_neg hmiss
  simp only [execSnoopTimeout, hdue, hsilent, hopen]
  rfl

/-! ### Registers of the home that clear (R80, R313, R318, R322) -/

/-- What is left of a number without the bits that it shares with another. -/
theorem testBit_sub_and (x y i : Nat) : (x - (x &&& y)).testBit i = (x.testBit i && !y.testBit i) := by
  induction i generalizing x y with
  | zero =>
    have hlow := Nat.and_mod_two_eq_one (a := x) (b := y)
    have hle : x &&& y ≤ x := Nat.and_le_left
    rw [Bool.eq_iff_iff]
    simp only [Nat.testBit_zero, Bool.and_eq_true, Bool.not_eq_true', decide_eq_true_eq, decide_eq_false_iff_not]
    omega
  | succ i ih =>
    have hhalf : (x - (x &&& y)) / 2 = x / 2 - (x / 2 &&& y / 2) := by
      have hlow := Nat.and_mod_two_eq_one (a := x) (b := y)
      have hle : x &&& y ≤ x := Nat.and_le_left
      rw [← Nat.and_div_two]
      omega
    rw [Nat.testBit_succ, hhalf, ih, Nat.testBit_succ, Nat.testBit_succ]

section
variable (hhome : homeImpl s.part.variant = true) (hreset : s.pw.inReset = false) {v : Word}
include hhome hreset

theorem execAgentReadmit_awake : execAgentReadmit v s =
    .next (setFld HOME_AGT_FAIL_FAILED 0 (fld s HOME_AGT_FAIL_FAILED - (fld s HOME_AGT_FAIL_FAILED &&& v.toNat)) s) := by
  simp [execAgentReadmit, hhome, hreset]

variable (hclr : v.getLsbD 0 = true)
include hclr

theorem execHomeCntClear_awake : execHomeCntClear v s = .next (setWord 0xA0020 0 (setWord 0xA0024 0 (setWord 0xA0028 0 s))) := by
  simp only [execHomeCntClear, hhome, hreset, hclr, Bool.not_true, Bool.or_self, Bool.false_eq_true, if_false]

theorem execRingDurClear_awake : execRingDurClear v s = .next (footClear ringFoot s) := by
  simp only [execRingDurClear, hhome, hreset, hclr, Bool.not_true, Bool.or_self, Bool.false_eq_true, if_false]

theorem execHomeRsvClear_awake : execHomeRsvClear v s = .next (setWord 0xA0F00 0 s) := by
  simp only [execHomeRsvClear, hhome, hreset, hclr, Bool.not_true, Bool.or_self, Bool.false_eq_true, if_false]

end

/-- An agent whose bit is written one is readmitted, and every other agent is marked or not as before. -/
theorem bits_readmitted (v : Word) {a : Nat} (ha : a < 24) :
    bits (fld (setFld HOME_AGT_FAIL_FAILED 0 (fld s HOME_AGT_FAIL_FAILED - (fld s HOME_AGT_FAIL_FAILED &&& v.toNat)) s)
      HOME_AGT_FAIL_FAILED) a 1 = if v.getLsbD a then 0 else bits (fld s HOME_AGT_FAIL_FAILED) a 1 := by
  rw [fld_setFld_same _ _ _ _ (by decide), bits_mod (by simpa [HOME_AGT_FAIL_FAILED] using ha), bits_one, bits_one, testBit_sub_and,
    BitVec.testBit_toNat]
  cases v.getLsbD a <;> simp

/-- A footprint reads as it was last stored. -/
theorem foot3_setFoot3 (off : Nat) (v : BitVec 73) (s : State) : foot3 (setFoot3 off v s) off = v := by
  have hv := v.isLt
  refine BitVec.eq_of_toNat_eq ?_
  simp only [foot3, setFoot3, regAt_setWord, bits, Nat.shiftRight_eq_div_pow, BitVec.toNat_ofNat]
  split_ifs <;> omega

/-- A field of a word that is cleared reads zero. -/
theorem fld_setWord_zero {i off : Nat} (h : f.off i = off) : fld (setWord off 0 s) f i = 0 := by
  rw [fld, regAt_setWord, if_pos h]
  simp [bits]

end

/-- Settles O27, a clause for each message and each register. -/
theorem homeAnswers : Obligations.HomeAnswers := by
  unfold Obligations.HomeAnswers
  intro s h d x laddr v line stop mine home
  refine ⟨fun m hset r => execAns_joins m d hset, fun m => execAns_unasked m d, fun m => execAns_malformed m d,
    fun m hclean r => execData_joins m x hclean, fun m hclean r => execAck_releases m hclean,
    fun r hdue => ?_,
    fun ⟨hhome, hreset⟩ => ⟨_, execAgentReadmit_awake hhome hreset, fun a ha => bits_readmitted v ha⟩,
    fun ⟨hhome, hreset⟩ => execHomeCntClear_awake hhome hreset,
    fun ⟨hhome, hreset⟩ hclr => ⟨_, execRingDurClear_awake hhome hreset hclr, foot3_setFoot3 ringFoot 0 _⟩,
    fun ⟨hhome, hreset⟩ hclr => ⟨_, execHomeRsvClear_awake hhome hreset hclr, fld_setWord_zero rfl, fld_setWord_zero rfl,
      fld_setWord_zero rfl, fld_setWord_zero rfl⟩⟩
  intro miss hmiss w
  exact ⟨fun a => bits_silentFailed, fun q => execSnoopTimeout_expired hdue hmiss⟩

end Sys2Proof.Machine
end

section
/-!
What time asks of a scheduler (R96, R100 to R103, R106, R108, R109): owed refreshes, doubled refresh that ends, rows that close, pauses that
start, and counters that clear.
-/

namespace Sys2Proof.Machine

section
variable {s t u : State} {n k : Nat} {l : Loc} {p : Fin 20}

/-! ### A logical rank behind an update -/

theorem rankSt_modRank (n k j : Nat) (g : RankSt → RankSt) (s : State) :
    rankSt (modRank n k g s) n j = if j = k then g (rankSt s n k) else rankSt s n j := by
  simp only [rankSt, modRank, portOf_modSched, if_true, mgetD, mget_mput]
  split <;> rfl

@[simp] theorem rankSt_addFld (f : Fld) (i v : Nat) (s : State) (n k : Nat) : rankSt (addFld f i v s) n k = rankSt s n k := rfl

/-- t is s after the step of a command for the location l of port n: its logical rank is as P says, the memories and every other rank are as
before. -/
structure Serves (n : Nat) (l : Loc) (P : RankSt → Prop) (s t : State) : Prop where
  bytes : SameBytes s t
  rank : P (rankSt t n (rankKey l))
  others : ∀ k ≠ rankKey l, rankSt t n k = rankSt s n k

/-- A rank as sub-channel sc of its channel sees it. -/
def rankLoc (r : RankId) (sc : Nat) : Loc := { sub := 2 * r.ch.val + sc, dimm := r.dimm.val, prank := r.prank.val, cid := r.cid.val }

theorem rankLocs_eq (r : RankId) : rankLocs r = [rankLoc r 0, rankLoc r 1] := rfl

theorem forall_mem_rankLocs {r : RankId} {P : Loc → Prop} : (∀ l ∈ rankLocs r, P l) ↔ P (rankLoc r 0) ∧ P (rankLoc r 1) := by
  simp [rankLocs_eq]

theorem rankKey_rankLoc_ne (r : RankId) : rankKey (rankLoc r 1) ≠ rankKey (rankLoc r 0) := by
  simp only [rankKey, rankLoc]
  omega

/-- A command runs its step for one sub-channel of a rank and then for the other; the second step leaves the first one's rank. -/
theorem Serves.both {r : RankId} {P : Loc → RankSt → Prop} (hfirst : Serves n (rankLoc r 0) (P (rankLoc r 0)) s t)
    (hsecond : Serves n (rankLoc r 1) (P (rankLoc r 1)) t u) :
    SameBytes s u ∧ ∀ l ∈ rankLocs r, P l (rankSt u n (rankKey l)) := by
  refine ⟨hfirst.bytes.trans hsecond.bytes, forall_mem_rankLocs.2 ⟨?_, hsecond.rank⟩⟩
  rw [hsecond.others _ (rankKey_rankLoc_ne r).symm]
  exact hfirst.rank

/-! ### What the place of a rank and its refresh interval rest on -/

theorem rankThere_congr (hpop : popWord t n = popWord s n) (hch : flg t SP_POP_CH1 n = flg s SP_POP_CH1 n) (l : Loc) :
    rankThere t n l = rankThere s n l := by
  have hranks : ranksOf t n l.sub = ranksOf s n l.sub := by
    rw [ranksOf, dimmCount, pranks, stackHeight, hpop]
    rfl
  rw [rankThere, rankThere, hranks, subCount, subCount, hch]

/-- Between s and t only the word PS_CNT0 of port n, and the state of logical rank k, may have changed of what a refresh looks at. -/
structure RefreshFrame (n k : Nat) (s t : State) : Prop where
  bytes : SameBytes s t
  clk : t.clk = s.clk
  dram : (portOf t n).dram = (portOf s n).dram
  words : ∀ off rst, off ≠ PS_CNT0_FORCED.off n → regAt t off rst = regAt s off rst
  others : ∀ j ≠ k, rankSt t n j = rankSt s n j

/-- A field of the port's block outside PS_CNT0. -/
abbrev Fld.OutsidePsCnt0 (f : Fld) : Prop := f.stride = PS_CNT0_FORCED.stride ∧ f.base ≠ PS_CNT0_FORCED.base

namespace RefreshFrame

theorem refl (n k : Nat) (s : State) : RefreshFrame n k s s := ⟨⟨rfl, rfl, rfl, rfl⟩, rfl, rfl, fun _ _ _ => rfl, fun _ _ => rfl⟩

theorem trans (h : RefreshFrame n k s t) (h' : RefreshFrame n k t u) : RefreshFrame n k s u :=
  ⟨h.bytes.trans h'.bytes, h'.clk.trans h.clk, h'.dram.trans h.dram, fun off rst hoff => (h'.words off rst hoff).trans (h.words off rst hoff),
    fun j hj => (h'.others j hj).trans (h.others j hj)⟩

theorem addFld_psCnt0 {f : Fld} (hf : f.base = PS_CNT0_FORCED.base ∧ f.stride = PS_CNT0_FORCED.stride) (k v : Nat) (s : State) :
    RefreshFrame n k s (addFld f n v s) := by
  obtain ⟨hbase, hstride⟩ := hf
  have hoff : f.off n = PS_CNT0_FORCED.off n := by rw [Fld.off, Fld.off, hbase, hstride]
  exact ⟨⟨rfl, rfl, rfl, rfl⟩, rfl, rfl, fun off rst hne => by rw [addFld, setFld, regAt_setWord, if_neg (hoff ▸ hne)], fun _ _ => rfl⟩

theorem modRank_self (n k : Nat) (g : RankSt → RankSt) (s : State) : RefreshFrame n k s (modRank n k g s) :=
  ⟨⟨rfl, rfl, rfl, rfl⟩, rfl, by simp [modRank], fun _ _ _ => rfl, fun j hj => by rw [rankSt_modRank, if_neg hj]⟩

variable (h : RefreshFrame n k s t)
include h

theorem fld_eq {f : Fld} (hf : f.OutsidePsCnt0) : fld t f n = fld s f n := by
  obtain ⟨hstride, hbase⟩ := hf
  rw [fld, h.words _ _ fun hoff => hbase ?_, fld]
  rw [Fld.off, Fld.off, hstride] at hoff
  exact Nat.add_right_cancel hoff

theorem pstate_eq : pstate t n = pstate s n := by
  simp (disch := decide) only [pstate, h.fld_eq]

theorem rankThere_eq (l : Loc) : rankThere t n l = rankThere s n l := by
  refine rankThere_congr (h.words _ _ ?_) ?_ l
  · simp only [Fld.off, PS_CNT0_FORCED]
    omega
  · simp (disch := decide) only [flg, h.fld_eq]

theorem refInterval_eq (d : Nat) : refInterval t n d = refInterval s n d := by
  have hclocks : clocksPerTick t n = clocksPerTick s n := by
    simp (disch := decide) only [clocksPerTick, speedOf, h.fld_eq]
  rw [refInterval, fineMode, hclocks, h.fld_eq (by decide), h.fld_eq (by decide), h.fld_eq (by decide)]
  rfl

end RefreshFrame

/-! ### A refresh falls due (R100, R101) -/

/-- A refresh of location l's rank falls due: the rank is fitted, timing is loaded, its DIMM's temperature is not stale, no refresh was pulled
in, and the interval has passed. -/
def RefreshFalls (n : Nat) (s : State) (l : Loc) : Prop :=
  rankThere s n l = true ∧ 0 < refInterval s n (dimmOf l) ∧ s.clk ≤ mgetD (portOf s n).dram.tempAt (dimmOf l) 0 + 1000 * edgesMs ∧
    (rankSt s n (rankKey l)).pulled = 0 ∧ (rankSt s n (rankKey l)).start + refInterval s n (dimmOf l) ≤ s.clk

/-- The step of REFRESH_DUE for one sub-channel. -/
def refreshStep (n : Nat) (t : State) (l : Loc) : State :=
  if pstate t n ≠ .service || !rankThere t n l then t else
  let t1 := staleHeat n (dimmOf l) t
  let i := refInterval t1 n (dimmOf l)
  if i = 0 || t1.clk < (rankSt t1 n (rankKey l)).start + i then t1 else rankDue n (rankKey l) i t1

theorem execRefreshDue_here (h : PortHere s p) (r : RankId) : execRefreshDue p r s =
    .next (settle (refreshStep p.val (refreshStep p.val s (rankLoc r 0)) (rankLoc r 1))) := onPort_here h _

/-- A temperature that is not stale changes nothing. -/
theorem staleHeat_fresh {d : Nat} (h : s.clk ≤ mgetD (portOf s n).dram.tempAt d 0 + 1000 * edgesMs) : staleHeat n d s = s :=
  if_neg (Nat.not_lt.2 h)

theorem refreshStep_falls (hst : pstate s n = .service) (h : RefreshFalls n s l) :
    refreshStep n s l = rankDue n (rankKey l) (refInterval s n (dimmOf l)) s := by
  obtain ⟨hthere, hpos, hfresh, -, hdue⟩ := h
  simp only [refreshStep, hst, hthere, staleHeat_fresh hfresh, Nat.ne_of_gt hpos, Nat.not_lt.2 hdue, ne_eq, not_true_eq_false, decide_false,
    Bool.not_true, Bool.or_self, Bool.false_eq_true, if_false]

/-- A rank that becomes mandatory is counted; what it owes, and since when, stays. -/
theorem forcedCheck_frame (n k : Nat) (s : State) : RefreshFrame n k s (forcedCheck n k s) ∧
    (rankSt (forcedCheck n k s) n k).owed = (rankSt s n k).owed ∧ (rankSt (forcedCheck n k s) n k).start = (rankSt s n k).start := by
  unfold forcedCheck
  extract_lets r
  split
  · rw [rankSt_addFld, rankSt_modRank, if_pos rfl]
    exact ⟨(RefreshFrame.modRank_self n k _ s).trans (.addFld_psCnt0 (by decide) k 1 _), rfl, rfl⟩
  · exact ⟨.refl n k s, rfl, rfl⟩

/-- A rank that has pulled nothing in owes one refresh more, and its next interval starts where this one ended. -/
theorem rankDue_frame (i : Nat) (hpulled : (rankSt s n k).pulled = 0) : RefreshFrame n k s (rankDue n k i s) ∧
    (rankSt (rankDue n k i s) n k).owed = (rankSt s n k).owed + 1 ∧ (rankSt (rankDue n k i s) n k).start = (rankSt s n k).start + i := by
  unfold rankDue
  extract_lets r s1 s2
  have hs1 : RefreshFrame n k s s1 ∧ rankSt s1 n k = rankSt s n k := by
    unfold s1
    split
    · exact ⟨.addFld_psCnt0 (by decide) k 1 s, rfl⟩
    · exact ⟨.refl n k s, rfl⟩
  obtain ⟨hframe, hrank⟩ := hs1
  have hs2 : rankSt s2 n k = { rankSt s n k with start := (rankSt s n k).start + i, pulled := 0, owed := (rankSt s n k).owed + 1 } := by
    rw [rankSt_modRank, if_pos rfl, hrank, hpulled]
    rfl
  obtain ⟨hforced, howed, hstart⟩ := forcedCheck_frame n k s2
  rw [howed, hstart, hs2]
  exact ⟨(hframe.trans (.modRank_self n k _ s1)).trans hforced, rfl, rfl⟩

theorem RefreshFrame.falls (h : RefreshFrame n k s t) (hne : rankKey l ≠ k) (hfalls : RefreshFalls n s l) : RefreshFalls n t l := by
  rwa [RefreshFalls, h.rankThere_eq, h.refInterval_eq, h.clk, h.dram, h.others _ hne]

theorem refreshStep_frame (hst : pstate s n = .service) (h : RefreshFalls n s l) : RefreshFrame n (rankKey l) s (refreshStep n s l) ∧
    (rankSt (refreshStep n s l) n (rankKey l)).owed = (rankSt s n (rankKey l)).owed + 1 ∧
    (rankSt (refreshStep n s l) n (rankKey l)).start = (rankSt s n (rankKey l)).start + refInterval s n (dimmOf l) := by
  rw [refreshStep_falls hst h]
  obtain ⟨-, -, -, hpulled, -⟩ := h
  exact rankDue_frame _ hpulled

theorem execRefreshDue_falls {r : RankId} (h : PortHere s p) (hst : pstate s p.val = .service)
    (hfalls : ∀ l ∈ rankLocs r, RefreshFalls p.val s l) : ∃ t, execRefreshDue p r s = .next (settle t) ∧ SameBytes s t ∧
      ∀ l ∈ rankLocs r, (rankSt t p.val (rankKey l)).owed = (rankSt s p.val (rankKey l)).owed + 1 ∧
        (rankSt t p.val (rankKey l)).start = (rankSt s p.val (rankKey l)).start + refInterval s p.val (dimmOf l) := by
  obtain ⟨hfalls0, hfalls1⟩ := forall_mem_rankLocs.1 hfalls
  obtain ⟨hframe0, hrank0⟩ := refreshStep_frame hst hfalls0
  have hne := rankKey_rankLoc_ne r
  obtain ⟨hframe1, hrank1⟩ := refreshStep_frame (hframe0.pstate_eq.trans hst) (hframe0.falls hne hfalls1)
  rw [hframe0.others _ hne, hframe0.refInterval_eq] at hrank1
  exact ⟨_, execRefreshDue_here h r, Serves.both (P := fun l x => x.owed = (rankSt s p.val (rankKey l)).owed + 1 ∧
    x.start = (rankSt s p.val (rankKey l)).start + refInterval s p.val (dimmOf l))
    ⟨hframe0.bytes, hrank0, hframe0.others⟩ ⟨hframe1.bytes, hrank1, hframe1.others⟩⟩

/-! ### Doubled refresh ends (R102), and an idle row closes (R96) -/

theorem execHotRestore_cool {dimm : Fin 4} {a : Nat} (h : PortHere s p) (hcool : mget (portOf s p.val).sched.cool dimm.val = some a)
    (hsecond : a + 1000 * edgesMs ≤ s.clk) : execHotRestore p dimm s = .next (settle
      (setFld PS_STAT_HOT p.val (withBits (fld s PS_STAT_HOT p.val) dimm.val 1 0)
        (modSched p.val (fun q => { q with cool := mdel q.cool dimm.val }) s))) := by
  simp only [execHotRestore, onPort_here h, hcool, hsecond, if_true]

/-- A row that no request wants, idle for PG_TMO, closes where the slot selects nothing and PREpb is ready. -/
theorem execRowTimeoutClose_idle {sub : Fin 4} {bank : BankId} {off : BitVec 4} {row last : Nat} (h : PortHere s p)
    (hpage : fld s PS_CTL_PAGE p.val = 2) (hissue : mayIssue s p.val = true) (hhold : flg s TB_STAT_HOLD = false)
    (hoff : off.toNat < clocksPerTick s p.val) (hopen : openRow s p.val (locOfBank sub.val bank) = some row)
    (hlast : mget (subOf s p.val sub.val).lastCol (bankNo (locOfBank sub.val bank)) = some last)
    (hwanted : ∀ r ∈ (portOf s p.val).sched.queue ++ (portOf s p.val).sched.wait,
      sameRow (locOf s p.val r.la) { locOfBank sub.val bank with row := row } = false)
    (hidle : last + fld s PS_CTL_PG_TMO p.val ≤ s.clk + leadOf s p.val)
    (hselect : (select s p.val sub.val (slotClk s p.val off.toNat)).1 = none)
    (hready : ready s p.val sub.val .prePb { locOfBank sub.val bank with row := row } false (slotClk s p.val off.toNat) = true) :
    execRowTimeoutClose p sub bank off s = .next (settle
      (issueOp p.val sub.val off.toNat .prePb { locOfBank sub.val bank with row := row } none false s)) := by
  have hunwanted : (((portOf s p.val).sched.queue ++ (portOf s p.val).sched.wait).any fun q =>
      sameRow (locOf s p.val q.la) { locOfBank sub.val bank with row := row }) = false :=
    List.any_eq_false.2 fun r hr => by simp [hwanted r hr]
  simp only [execRowTimeoutClose, onPort_here h, hpage, hissue, hhold, Nat.not_le.2 hoff, hopen, hlast, hunwanted, Nat.not_lt.2 hidle, hselect,
    hready, ne_eq, not_true_eq_false, decide_false, Bool.not_true, Bool.or_self, Option.isSome_none, Bool.false_eq_true, if_false]

/-! ### A training pause starts (R103) -/

/-- With no line that gathers, the due pause begins and the others stay. -/
theorem beginPause_of_merge_nil (hmerge : (portOf s n).prot.merge = []) (x : Pause) (forced : Bool) : beginPause n x forced s =
    if forced then addFld PS_CNT1_PFORCED n 1 (modDram n (fun d => { d with idleAt := s.clk })
      (modSched n (fun y => { y with pauses := y.pauses.erase x, pause := some (x, s.clk + x.len) }) s))
    else modDram n (fun d => { d with idleAt := s.clk })
      (modSched n (fun y => { y with pauses := y.pauses.erase x, pause := some (x, s.clk + x.len) }) s) := by
  simp only [beginPause, hmerge, ne_eq, not_true_eq_false, if_false]

section
variable {x : Pause} (h : PortHere s p) (hmerge : (portOf s p.val).prot.merge = []) (hdue : duePause s p.val = some x)
  (hclear : pauseClear s p.val x = true)
include h hmerge hdue hclear

theorem execTrainingPauseStart_due (hguard : guardClear s p.val x.len = true) : execTrainingPauseStart p s = .next (settle
    (modDram p.val (fun d => { d with idleAt := s.clk })
      (modSched p.val (fun y => { y with pauses := y.pauses.erase x, pause := some (x, s.clk + x.len) }) s))) := by
  simp only [execTrainingPauseStart, onPort_here h, hdue, hclear, hguard, Bool.and_self, if_true, beginPause_of_merge_nil hmerge,
    Bool.false_eq_true, if_false]

theorem execPauseForce_late (hlate : x.due + fld s PS_SLOT_PWAIT p.val * edgesMs ≤ s.clk) : execPauseForce p s = .next (settle
    (addFld PS_CNT1_PFORCED p.val 1 (modDram p.val (fun d => { d with idleAt := s.clk })
      (modSched p.val (fun y => { y with pauses := y.pauses.erase x, pause := some (x, s.clk + x.len) }) s)))) := by
  simp only [execPauseForce, onPort_here h, hdue, hclear, hlate, decide_true, Bool.and_self, if_true, beginPause_of_merge_nil hmerge]

end

/-! ### Counters that clear (R106, R108, R109) -/

section
variable (hreset : s.pw.inReset = false) {v : Word}
include hreset

theorem execBrMissClear_awake (b : Fin 256) (hclr : v.getLsbD 31 = true) : execBrMissClear b v s = .next (setFld BR_MISS_MISS b.val 0 s) := by
  simp only [execBrMissClear, hreset, hclr, Bool.not_false, Bool.and_self, if_true]

theorem execSchMissLogClear_awake (hclr : v.getLsbD 8 = true) :
    execSchMissLogClear v s = .next (setWord (SCH_MISS_LOG_VALID.off 0) 0 s) := by
  simp only [execSchMissLogClear, hreset, hclr, Bool.not_false, Bool.and_self, if_true]

theorem execPsCntClear_awake (h : PortHere s p) (hclr : v.getLsbD 0 = true) : execPsCntClear p v s =
    .next (settle (setWord (PS_CNT0_FORCED.off p.val) 0 (setWord (PS_CNT1_PROMOTED.off p.val) 0 s))) := by
  simp only [execPsCntClear, onPort_here h, hreset, hclr, Bool.not_false, Bool.and_self, if_true]

end

/-- A word that is cleared reads zero in each of its fields, whatever word is cleared behind it. -/
theorem fld_setWord_zero_of_zero {f : Fld} {i off : Nat} (h : fld s f i = 0) : fld (setWord off 0 s) f i = 0 := by
  by_cases hoff : f.off i = off
  · exact fld_setWord_zero hoff
  · rw [fld_setWord_ne _ _ _ _ _ hoff, h]

end

/-- Settles O20, a clause for each row. -/
theorem schedulerTime : Obligations.SchedulerTime := by
  unfold Obligations.SchedulerTime
  intro s p rank dimm sub bank off b v n q
  refine ⟨fun h => execRefreshDue_falls h, fun h a => execHotRestore_cool h, fun h hpage hissue hhold hoff row last =>
      execRowTimeoutClose_idle h hpage hissue hhold hoff,
    fun h hmerge x hdue hclear => ⟨execTrainingPauseStart_due h hmerge hdue hclear, execPauseForce_late h hmerge hdue hclear⟩,
    fun hreset => execBrMissClear_awake hreset b, fun hreset => execSchMissLogClear_awake hreset,
    fun h hreset hclr => ⟨_, execPsCntClear_awake hreset h hclr, fld_setWord_zero rfl, fld_setWord_zero rfl,
      fld_setWord_zero_of_zero (fld_setWord_zero rfl), fld_setWord_zero_of_zero (fld_setWord_zero rfl)⟩⟩

end Sys2Proof.Machine
end

section
/-!
What a port asks for while nothing is requested of it (R102, R151, R157, R159, R162): self-refresh, ZQ calibration, temperatures and the
counters that clear.
-/

namespace Sys2Proof.Machine

section
variable {s t : State} {n : Nat} {l : Loc} {p : Fin 20}

/-! ### The state of a port (Tables 6.2 and 7.11) -/

/-- Every state has a code of its own in a kind of port that has the state, and the code fits the field. -/
theorem pstateOf_pstateCode {x : PState} (hx : serial n = true ∨ x ∉ [PState.link, .align, .linkDown, .test]) :
    pstateOf n (pstateCode n x % 2 ^ (if serial n then SP_STAT_STATE.w else DP_STAT_STATE.w)) = x := by
  unfold pstateOf pstateCode
  cases hserial : serial n with
  | true => cases x <;> rfl
  | false =>
    have hx : x ∉ [PState.link, .align, .linkDown, .test] := hx.resolve_left (by simp [hserial])
    cases x
    case link | align | linkDown | test => exact absurd hx (by decide)
    all_goals rfl

/-- A port reads the state that it was put into. -/
theorem pstate_setPstate {x : PState} (hx : serial n = true ∨ x ∉ [PState.link, .align, .linkDown, .test]) (s : State) :
    pstate (setPstate n x s) n = x := by
  have hcode := pstateOf_pstateCode hx
  rw [pstate, setPstate]
  split at hcode
  next hserial => rw [if_pos hserial, if_pos hserial, fld_setFld_same _ _ _ _ (by decide), hcode]
  next hserial => rw [if_neg hserial, if_neg hserial, fld_setFld_same _ _ _ _ (by decide), hcode]

theorem pstate_congr (h : t.regs = s.regs) (n : Nat) : pstate t n = pstate s n := by
  rw [pstate, pstate, fld_congr h, fld_congr h]

/-! ### Self-refresh (R159) -/

/-- The state of a port that is put into another state changes a register alone. -/
theorem sameBytes_setPstate (n : Nat) (x : PState) (s : State) : SameBytes s (setPstate n x s) := by
  unfold setPstate
  split <;> exact ⟨rfl, rfl, rfl, rfl⟩

theorem srEnter_auto (n : Nat) (s : State) : pstate (srEnter n false false s) n = .selfRefresh ∧
    (portOf (srEnter n false false s) n).dram.srAt = some s.clk ∧ (portOf (srEnter n false false s) n).dram.srCmd = false ∧
    SameBytes s (srEnter n false false s) := by
  have hbytes := sameBytes_setPstate n .selfRefresh (freshRanks n (addFld DP_CNT1_SRE n 1 s))
  unfold srEnter
  extract_lets s1 s2 stop s3
  have hst : pstate s1 n = .selfRefresh := pstate_setPstate (.inr (by decide)) _
  have hbytes : SameBytes s s1 := hbytes
  clear_value s1
  simp only [Bool.not_false, if_true]
  refine ⟨hst, ?_, ?_, hbytes⟩
  · simp only [s3, portOf_modDram, if_true]
  · simp only [s3, portOf_modDram, if_true]

theorem srExit_service (n : Nat) (s : State) : pstate (srExit n s) n = .service ∧ (portOf (srExit n s) n).dram.srAt = none ∧
    SameBytes s (srExit n s) := by
  have hst : pstate (setPstate n .service s) n = .service := pstate_setPstate (.inr (by decide)) s
  have hbytes := sameBytes_setPstate n .service s
  unfold srExit freshRanks
  generalize setPstate n .service s = s0 at hst hbytes ⊢
  refine ⟨hst, ?_, hbytes⟩
  simp only [portOf_modLink, portOf_modDram, if_true]

section
variable (h : PortHere s p)
include h

theorem execAutoSelfRefresh_idle (hst : pstate s p.val = .service) (hon : fld s DP_SR_IDLE p.val ≠ 0)
    (hidle : (portOf s p.val).dram.idleAt + fld s DP_SR_IDLE p.val * edgesUs ≤ s.clk) (hquiet : portQuiet s p.val = true)
    (hdue : duePause s p.val = none) (hpause : (portOf s p.val).sched.pause = none) (hlaunch : launchNames s p.val = false) :
    execAutoSelfRefresh p s = .next (settle (srEnter p.val false false s)) := by
  have htime : fld s DP_SR_IDLE p.val * edgesUs ≠ 0 := Nat.mul_ne_zero hon (by decide)
  simp only [execAutoSelfRefresh, onPort_here h, hst, htime, hidle, hquiet, hdue, hpause, hlaunch, ne_eq, not_false_eq_true, decide_true,
    Option.isNone_none, Option.all_none, Bool.not_false, Bool.and_self, if_true]

theorem execSelfRefreshExit_waits (hwaits : srWaits s p.val = true) (hreq : (portOf s p.val).sched.wait ≠ [])
    (hserial : serial p.val = false) : execSelfRefreshExit p s = .next (settle (srExit p.val s)) := by
  simp only [execSelfRefreshExit, onPort_here h, hwaits, hreq, hserial, ne_eq, not_false_eq_true, decide_true, Bool.true_or, Bool.and_self,
    Bool.false_eq_true, if_true, if_false]

end

/-! ### ZQ calibration (R151) -/

/-- A ZQ command to the rank of location l, and what the scheduler notes of it. -/
def zqCommand (n : Nat) (l : Loc) (g : RankSt → RankSt) (s : State) : State :=
  modRank n (rankKey l) g (issueOp n l.sub 0 .mpc l none false s)

/-- What a ZQ command leaves of what the next one on the port looks at. -/
structure ZqFrame (n : Nat) (l : Loc) (g : RankSt → RankSt) (s t : State) : Prop where
  serves : Serves n l (· = g (rankSt s n (rankKey l))) s t
  regs : t.regs = s.regs
  clk : t.clk = s.clk
  pw : t.pw = s.pw
  dram : (portOf t n).dram = (portOf s n).dram
  marks : (portOf t n).marks = (portOf s n).marks
  pause : (portOf t n).sched.pause = (portOf s n).sched.pause
  queue : (portOf t n).sched.queue = (portOf s n).sched.queue
  subs : ∀ c ≠ l.sub, subOf t n c = subOf s n c
  retry : (portOf t n).sched.retry.length = (portOf s n).sched.retry.length + 1
  linkRetry : (portOf t n).link.retry.length ≤ (portOf s n).link.retry.length + 1

/-- A packet leaves the registers and the port's other parts as they are, and is the only one that joins the link's retry buffer. -/
theorem sendPacket_port (n : Nat) (x : Packet) (s : State) : (sendPacket n x s).regs = s.regs ∧ (sendPacket n x s).clk = s.clk ∧
    (sendPacket n x s).pw = s.pw ∧ (portOf (sendPacket n x s) n).dram = (portOf s n).dram ∧
    (portOf (sendPacket n x s) n).marks = (portOf s n).marks ∧
    (portOf (sendPacket n x s) n).link.retry.length ≤ (portOf s n).link.retry.length + 1 := by
  unfold sendPacket
  split
  · simp
  · simp

theorem portOf_modRank (n k : Nat) (g : RankSt → RankSt) (s : State) : portOf (modRank n k g s) n =
    { portOf s n with sched := { (portOf s n).sched with
        ranks := mput (portOf s n).sched.ranks k (g (mgetD (portOf s n).sched.ranks k {})) } } :=
  (portOf_modSched ..).trans (if_pos rfl)

/-- An issued command but ACT changes its sub-channel's history and rows and joins the retry buffer; then its packet goes out. -/
theorem issueOp_eq_sendPacket {o : Op} (ho : o ≠ .act) (n c off : Nat) (l : Loc) (q : Option SubReq) (unblk : Bool) (s : State) :
    ∃ h x u, issueOp n c off o l q unblk s = sendPacket n (.command [h]) u ∧ u.regs = s.regs ∧ u.clk = s.clk ∧ u.pw = s.pw ∧
      portOf u n = { portOf s n with sched := { (portOf s n).sched with
        subs := mput (portOf s n).sched.subs c x, retry := (portOf s n).sched.retry ++ [h] } } := by
  unfold issueOp
  extract_lets i counted stamp h t k s1 s2 s3
  rw [show s3 = s2 from if_neg ho]
  refine ⟨h, ?x, s2, rfl, rfl, rfl, rfl, ?hport⟩
  case hport =>
    simp only [s2, s1, modSub, portOf_modSched, if_true]
    rfl

theorem zqCommand_frame (n : Nat) (l : Loc) (g : RankSt → RankSt) (s : State) : ZqFrame n l g s (zqCommand n l g s) := by
  have hbytes := (issueOp_queues n l.sub 0 .mpc l none false s).1
  obtain ⟨h, x, u, hissue, hregs, hclk, hpw, hport⟩ := issueOp_eq_sendPacket (o := .mpc) (by decide) n l.sub 0 l none false s
  obtain ⟨hregs', hclk', hpw', hdram, hmarks, hlink⟩ := sendPacket_port n (.command [h]) u
  have hsched := (sendPacket_frame n (.command [h]) u).2
  rw [← hissue] at hregs' hclk' hpw' hdram hmarks hlink hsched
  rw [hport] at hdram hmarks hlink hsched
  have hrank (k : Nat) : rankSt (issueOp n l.sub 0 .mpc l none false s) n k = rankSt s n k := by rw [rankSt, hsched, rankSt]
  unfold zqCommand
  refine ⟨⟨hbytes, ?_, fun k hk => ?_⟩, hregs'.trans hregs, hclk'.trans hclk, hpw'.trans hpw, ?_, ?_, ?_, ?_, fun c hc => ?_, ?_, ?_⟩
  · rw [rankSt_modRank, if_pos rfl, hrank]
  · rw [rankSt_modRank, if_neg hk, hrank]
  · rw [portOf_modRank, hdram]
  · rw [portOf_modRank, hmarks]
  · rw [portOf_modRank, hsched]
  · rw [portOf_modRank, hsched]
  · rw [subOf, portOf_modRank, hsched, mgetD, mget_mput, if_neg hc]
    rfl
  · rw [portOf_modRank, hsched, List.length_append]
    rfl
  · rw [portOf_modRank]
    exact hlink

namespace ZqFrame

variable {g : RankSt → RankSt} (h : ZqFrame n l g s t)
include h

/-- A port with room for one command more may still issue. -/
theorem mayIssue_of_room (hissue : mayIssue s n = true) (hretry : (portOf s n).sched.retry.length < 63)
    (hlink : (portOf s n).link.retry.length < 255) : mayIssue t n = true := by
  have hlink' := h.linkRetry
  have hpause : pauseOn t n = pauseOn s n := by rw [pauseOn, pauseOn, h.pause, h.clk]
  cases hserial : serial n with
  | true =>
    simp only [mayIssue, pstate_congr h.regs, hpause, h.pw, h.dram, h.marks, cx2, flg, fld_congr h.regs, h.retry, hserial, if_true,
      Bool.and_eq_true, decide_eq_true_eq] at hissue ⊢
    obtain ⟨hrest, ⟨hlanes, -⟩, -⟩ := hissue
    exact ⟨hrest, ⟨hlanes, by omega⟩, by omega⟩
  | false =>
    simp only [mayIssue, pstate_congr h.regs, hpause, h.pw, h.dram, h.retry, hserial, Bool.false_eq_true, if_false, Bool.and_eq_true,
      decide_eq_true_eq] at hissue ⊢
    obtain ⟨hrest, -⟩ := hissue
    exact ⟨hrest, by omega⟩

theorem rankThere_eq (m : Loc) : rankThere t n m = rankThere s n m :=
  rankThere_congr (by rw [popWord, popWord, regAt, regAt, h.regs]) (by rw [flg, flg, fld_congr h.regs]) m

theorem slotClk_eq (off : Nat) : slotClk t n off = slotClk s n off := by
  rw [slotClk, slotClk, leadOf_congr (by rw [flg, flg, fld_congr h.regs]) h.marks, clocksPerTick, clocksPerTick, speedOf, speedOf, h.clk,
    fld_congr h.regs, fld_congr h.regs]

end ZqFrame

/-- Room for the commands to both sub-channels of a rank. -/
abbrev ZqRoom (n : Nat) (s : State) : Prop :=
  mayIssue s n = true ∧ (portOf s n).sched.retry.length < 63 ∧ (portOf s n).link.retry.length < 255

/-- A command whose step for each sub-channel is a ZQ command leaves both ranks as the command notes. -/
theorem zqCommand_both {r : RankId} {step : State → Loc → State} {g : Nat → RankSt → RankSt} (hroom : ZqRoom n s)
    (hfirst : step s (rankLoc r 0) = zqCommand n (rankLoc r 0) (g s.clk) s)
    (hsecond : ∀ t, ZqFrame n (rankLoc r 0) (g s.clk) s t → mayIssue t n = true →
      step t (rankLoc r 1) = zqCommand n (rankLoc r 1) (g t.clk) t) :
    SameBytes s (step (step s (rankLoc r 0)) (rankLoc r 1)) ∧ ∀ l ∈ rankLocs r,
      rankSt (step (step s (rankLoc r 0)) (rankLoc r 1)) n (rankKey l) = g s.clk (rankSt s n (rankKey l)) := by
  obtain ⟨hissue, hretry, hlink⟩ := hroom
  have hframe0 := zqCommand_frame n (rankLoc r 0) (g s.clk) s
  have hframe1 := zqCommand_frame n (rankLoc r 1) (g s.clk) (zqCommand n (rankLoc r 0) (g s.clk) s)
  rw [hfirst, hsecond _ hframe0 (hframe0.mayIssue_of_room hissue hretry hlink), hframe0.clk]
  refine Serves.both (P := fun l x => x = g s.clk (rankSt s n (rankKey l))) hframe0.serves ?_
  rw [← hframe0.serves.others _ (rankKey_rankLoc_ne r)]
  exact hframe1.serves

/-- The calibration of location l's rank is due (R151). -/
def ZqDue (n : Nat) (s : State) (l : Loc) : Prop :=
  rankThere s n l = true ∧ (rankSt s n (rankKey l)).zqStart = none ∧
    (rankSt s n (rankKey l)).zqLast + fld s DP_ZQ_PER n * edgesMs ≤ s.clk

/-- The step of ZQ_START for one sub-channel. -/
def zqStartStep (n : Nat) (t : State) (l : Loc) : State :=
  let r := rankSt t n (rankKey l)
  let per := fld t DP_ZQ_PER n * edgesMs
  if !mayIssue t n || !rankThere t n l || per = 0 || r.zqStart.isSome || t.clk < r.zqLast + per then t
  else zqCommand n l (fun x => { x with zqStart := some t.clk }) t

theorem execZqStart_here (h : PortHere s p) (r : RankId) : execZqStart p r s =
    .next (settle (zqStartStep p.val (zqStartStep p.val s (rankLoc r 0)) (rankLoc r 1))) := onPort_here h _

theorem zqStartStep_due (hissue : mayIssue s n = true) (hper : fld s DP_ZQ_PER n ≠ 0) (hdue : ZqDue n s l) :
    zqStartStep n s l = zqCommand n l (fun x => { x with zqStart := some s.clk }) s := by
  obtain ⟨hthere, hidle, htime⟩ := hdue
  have hper : fld s DP_ZQ_PER n * edgesMs ≠ 0 := Nat.mul_ne_zero hper (by decide)
  simp only [zqStartStep, hissue, hthere, hper, hidle, Nat.not_lt.2 htime, decide_false, Bool.not_true, Bool.or_self, Option.isSome_none,
    Bool.false_eq_true, if_false]

theorem execZqStart_due {r : RankId} (h : PortHere s p) (hroom : ZqRoom p.val s) (hper : fld s DP_ZQ_PER p.val ≠ 0)
    (hdue : ∀ l ∈ rankLocs r, ZqDue p.val s l) : ∃ t, execZqStart p r s = .next (settle t) ∧ SameBytes s t ∧
      ∀ l ∈ rankLocs r, (rankSt t p.val (rankKey l)).zqStart = some s.clk := by
  obtain ⟨hdue0, hdue1⟩ := forall_mem_rankLocs.1 hdue
  obtain ⟨hbytes, hranks⟩ := zqCommand_both (step := zqStartStep p.val) (g := fun clk x => { x with zqStart := some clk }) hroom
    (zqStartStep_due hroom.1 hper hdue0) fun t hframe hissue => zqStartStep_due hissue (by rwa [fld_congr hframe.regs]) <| by
      rwa [ZqDue, hframe.rankThere_eq, hframe.serves.others _ (rankKey_rankLoc_ne r), fld_congr hframe.regs, hframe.clk]
  exact ⟨_, execZqStart_here h r, hbytes, fun l hl => by rw [hranks l hl]⟩

/-- The calibration of location l's rank may be latched: its microsecond has passed, its sub-channel has no open row and no command that
still counts for timing, and no refresh holds the rank. -/
def ZqLatches (n : Nat) (s : State) (l : Loc) : Prop :=
  rankThere s n l = true ∧ (subOf s n l.sub).openRows = [] ∧ (subOf s n l.sub).hist = [] ∧ (rankSt s n (rankKey l)).busy ≤ slotClk s n 0 ∧
    ∃ z, (rankSt s n (rankKey l)).zqStart = some z ∧ z + edgesUs ≤ s.clk

/-- The step of ZQ_LATCH for one sub-channel. -/
def zqLatchStep (n : Nat) (t : State) (l : Loc) : State :=
  match (rankSt t n (rankKey l)).zqStart with
  | none => t
  | some z =>
    if t.clk < z + edgesUs || !mayIssue t n || !rankThere t n l || !zqFree t n l then t
    else
      let opens := (subOf t n l.sub).openRows.any fun e =>
        jobCovers l none { l with dimm := e.1 / 512 % 2, prank := e.1 / 256 % 2, cid := e.1 / 32 % 8, bg := e.1 / 4 % 8, bank := e.1 % 4 }
      if opens then
        (if ready t n l.sub .preAb l false (slotClk t n 0) then issueOp n l.sub 0 .preAb l none false t else t)
      else if !ready t n l.sub .refAb l false (slotClk t n 0) then t
      else zqCommand n l (fun x => { x with zqStart := none, zqLast := t.clk }) t

theorem execZqLatch_here (h : PortHere s p) (r : RankId) : execZqLatch p r s =
    .next (settle (zqLatchStep p.val (zqLatchStep p.val s (rankLoc r 0)) (rankLoc r 1))) := onPort_here h _

/-- Nothing waits for a bank of the rank where nothing is queued. -/
theorem zqFree_of_queue_nil (h : (portOf s n).sched.queue = []) (l : Loc) : zqFree s n l = true := by
  simp [zqFree, ranked, h]

/-- With no command behind it a refresh waits only for the last refresh of its rank. -/
theorem ready_refAb (hhist : (subOf s n l.sub).hist = []) {clk : Nat} (hbusy : (rankSt s n (rankKey l)).busy ≤ clk) :
    ready s n l.sub .refAb l false clk = true := by
  simp [ready, hhist, hbusy]

theorem zqLatchStep_latches (hissue : mayIssue s n = true) (hqueue : (portOf s n).sched.queue = []) (hlatch : ZqLatches n s l) :
    zqLatchStep n s l = zqCommand n l (fun x => { x with zqStart := none, zqLast := s.clk }) s := by
  obtain ⟨hthere, hrows, hhist, hbusy, z, hstart, htime⟩ := hlatch
  simp only [zqLatchStep, hstart, Nat.not_lt.2 htime, hissue, hthere, zqFree_of_queue_nil hqueue, hrows, ready_refAb hhist hbusy,
    List.any_nil, decide_false, Bool.not_true, Bool.or_self, Bool.false_eq_true, if_false]

theorem execZqLatch_latches {r : RankId} (h : PortHere s p) (hroom : ZqRoom p.val s) (hqueue : (portOf s p.val).sched.queue = [])
    (hlatch : ∀ l ∈ rankLocs r, ZqLatches p.val s l) : ∃ t, execZqLatch p r s = .next (settle t) ∧ SameBytes s t ∧
      ∀ l ∈ rankLocs r, (rankSt t p.val (rankKey l)).zqStart = none ∧ (rankSt t p.val (rankKey l)).zqLast = s.clk := by
  obtain ⟨hlatch0, hlatch1⟩ := forall_mem_rankLocs.1 hlatch
  have hsub : (rankLoc r 1).sub ≠ (rankLoc r 0).sub := Nat.succ_ne_self _
  obtain ⟨hbytes, hranks⟩ := zqCommand_both (step := zqLatchStep p.val) (g := fun clk x => { x with zqStart := none, zqLast := clk }) hroom
    (zqLatchStep_latches hroom.1 hqueue hlatch0) fun t hframe hissue => zqLatchStep_latches hissue (hframe.queue.trans hqueue) <| by
      rwa [ZqLatches, hframe.rankThere_eq, hframe.subs _ hsub, hframe.serves.others _ (rankKey_rankLoc_ne r), hframe.slotClk_eq, hframe.clk]
  exact ⟨_, execZqLatch_here h r, hbytes, fun l hl => by rw [hranks l hl]; exact ⟨rfl, rfl⟩⟩

/-! ### Temperatures (R102, R157) -/

/-- What a reading of c does to its DIMM's refresh (R102). -/
def heatJudged (n d : Nat) (c : Int) (s : State) : State :=
  let s1 := modDram n (fun x => { x with tempAt := mput x.tempAt d s.clk }) s
  if 85 < c then heat n d s1
  else if bits (fld s1 PS_STAT_HOT n) d 1 = 1 && (mget (portOf s1 n).sched.cool d).isNone then
    modSched n (fun q => { q with cool := mput q.cool d s.clk }) s1
  else s1

/-- The mark of DIMM d that its excursion has been reported (R157): set where b is 1, clear where it is 0. -/
def hotMarked (n d b : Nat) (s : State) : State := modSched n (fun q => { q with hot := BitVec.ofNat 4 (withBits q.hot.toNat d 1 b) }) s

theorem heard_eq (n d : Nat) (c : Int) (s : State) : heard n d c s =
    if 95 < c then
      if bits (portOf (heatJudged n d c s) n).sched.hot.toNat d 1 = 1 then heatJudged n d c s
      else raise 12 (hotMarked n d 1 (heatJudged n d c s)) (some n)
    else hotMarked n d 0 (heatJudged n d c s) := rfl

theorem heatJudged_port (n d : Nat) (c : Int) (s : State) :
    mget (portOf (heatJudged n d c s) n).dram.tempAt d = some s.clk ∧
      (portOf (heatJudged n d c s) n).sched.hot = (portOf s n).sched.hot := by
  unfold heatJudged
  extract_lets s1
  have htemp : mget (portOf s1 n).dram.tempAt d = some s.clk := by simp [s1, mget_mput]
  have hhot : (portOf s1 n).sched.hot = (portOf s n).sched.hot := by simp [s1]
  clear_value s1
  split
  · simp [heat, htemp, hhot]
  · split <;> simp [htemp, hhot]

theorem bits_heat {d : Nat} (hd : d < 4) (s : State) : bits (fld (heat n d s) PS_STAT_HOT n) d 1 = 1 := by
  rw [heat, fld_setFld_same _ _ _ _ (by decide), bits_mod (by simpa [PS_STAT_HOT] using hd), bits_withBits]
  rfl

@[simp] theorem portOf_raise (c : Nat) (s : State) (u : Option Nat) (n : Nat) : portOf (raise c s u) n = portOf s n := by
  have hports : (raise c s u).ports = s.ports := congrArg (a₁ := { raise c s u with regs := s.regs }) State.ports (raise_regs_only c s u)
  rw [portOf, hports, portOf]

/-- What a reading does beyond its DIMM's refresh touches neither HOT nor the port's DRAM state. -/
theorem hot_and_dram_heard (n d : Nat) (c : Int) (s : State) :
    fld (heard n d c s) PS_STAT_HOT n = fld (heatJudged n d c s) PS_STAT_HOT n ∧
      (portOf (heard n d c s) n).dram = (portOf (heatJudged n d c s) n).dram := by
  rw [heard_eq]
  split_ifs
  · exact ⟨rfl, rfl⟩
  · refine ⟨?_, by simp [hotMarked]⟩
    rw [fld_raise_ne (by simp only [Fld.off, PS_STAT_HOT]; omega) (by simp only [Fld.off, PS_STAT_HOT]; omega)]
    rfl
  · exact ⟨rfl, by simp [hotMarked]⟩

/-- A reading over 85 leaves the DIMM's refresh doubled. -/
theorem bits_hot_heard {d : Nat} (hd : d < 4) {c : Int} (hc : 85 < c) (s : State) : bits (fld (heard n d c s) PS_STAT_HOT n) d 1 = 1 := by
  rw [(hot_and_dram_heard n d c s).1, heatJudged, if_pos hc, bits_heat hd]

/-- A reading over 95 of a DIMM that has not been reported raises the cause. -/
theorem bits_cause_heard {d : Nat} {c : Int} (hc : 95 < c) (hnew : bits (portOf s n).sched.hot.toNat d 1 = 0) :
    bits (regAt (heard n d c s) 0x100 0) 12 1 = 1 := by
  rw [heard_eq, if_pos hc, if_neg (by rw [(heatJudged_port n d c s).2, hnew]; decide)]
  exact bits_raise (c := 12) (by decide) _ _

theorem tempAt_heard (n d : Nat) (c : Int) (s : State) : mget (portOf (heard n d c s) n).dram.tempAt d = some s.clk := by
  rw [(hot_and_dram_heard n d c s).2, (heatJudged_port n d c s).1]

theorem execDimmTempPoll_direct (h : PortHere s p) (hserial : serial p.val = false) (hst : pstate s p.val ≠ .off) (t0 t1 : Option (BitVec 8)) :
    execDimmTempPoll p t0 t1 s = .next (settle (polled p.val 1 t1 (polled p.val 0 t0 s))) := by
  simp only [execDimmTempPoll, onPin, h, hserial, hst, decide_false, Bool.or_self, Bool.false_eq_true, if_true, if_false]

/-! ### Counters that clear (R162) -/

theorem execDpCntClear_awake (h : PortHere s p) {v : Word} (hreset : s.pw.inReset = false) (hclr : v.getLsbD 0 = true) :
    execDpCntClear p v s = .next (settle (setWord (DP_CNT0_PAR.off p.val) 0 (setWord (DP_CNT1_SRE.off p.val) 0
      (setWord (DP_CNT2_RFM.off p.val) 0 s)))) := by
  simp only [execDpCntClear, onPort_here h, hreset, hclr, Bool.not_false, Bool.and_self, if_true]

end

/-- Settles O33, a clause for each row. -/
theorem portUpkeep : Obligations.PortUpkeep := by
  unfold Obligations.PortUpkeep
  intro s p rank t0 t1 v n q room h
  refine ⟨fun hst hon hidle hquiet hdue hpause hlaunch =>
      ⟨_, execAutoSelfRefresh_idle h hst hon hidle hquiet hdue hpause hlaunch, srEnter_auto n s⟩,
    fun hwaits hreq hserial => ⟨_, execSelfRefreshExit_waits h hwaits hreq hserial, srExit_service n s⟩,
    fun hroom => execZqStart_due h hroom, fun hroom => execZqLatch_latches h hroom,
    fun hserial hst => execDimmTempPoll_direct h hserial hst t0 t1,
    fun dimm c => ⟨fun hc => bits_hot_heard dimm.isLt hc s, bits_cause_heard, tempAt_heard n dimm.val c s⟩,
    fun hreset hclr => ⟨_, execDpCntClear_awake h hreset hclr, fld_setWord_zero rfl, fld_setWord_zero rfl,
      fld_setWord_zero_of_zero (fld_setWord_zero rfl), fld_setWord_zero_of_zero (fld_setWord_zero rfl),
      fld_setWord_zero_of_zero (fld_setWord_zero_of_zero (fld_setWord_zero rfl)),
      fld_setWord_zero_of_zero (fld_setWord_zero_of_zero (fld_setWord_zero rfl))⟩⟩

end Sys2Proof.Machine
end

section
/-!
The commands of the timebase's steps and pulses (R111, R114 to R119): the answer of each where its condition holds, and what a pulse
that is only checked records.
-/

namespace Sys2Proof.Machine

section
variable {s : State} {v : Word}

/-! ### A step (R114 to R116) -/

theorem execTbCountRead_latches (hreset : s.pw.inReset = false) :
    execTbCountRead s = .next (setFld TB_COUNT_HI_CNT 0 (bits (countNow s).toNat 32 32) s) := by
  simp only [execTbCountRead, hreset, Bool.false_eq_true, if_false]

theorem stepStart_idle (hreset : s.pw.inReset = false) (hlaunches : s.tb.launches = []) (hstep : s.tb.step = .none) (armed : Bool) :
    stepStart armed s = modTb (fun b => { b with step := if armed then .armed else .soft }) (stepHold s) := by
  cases armed <;> simp [stepStart, hreset, hlaunches, hstep]

theorem stepStart_busy (hreset : s.pw.inReset = false) (hbusy : s.tb.launches ≠ [] ∨ s.tb.step ≠ .none) (armed : Bool) :
    stepStart armed s = setFld TB_STAT_STEP_REF 0 1 s := by
  simp [stepStart, hreset, hbusy]

theorem execSoftStep_idle (hreset : s.pw.inReset = false) (hlaunches : s.tb.launches = []) (hstep : s.tb.step = .none) :
    execSoftStep s = .next (settle (modTb (fun b => { b with step := .soft }) (stepHold s))) := by
  rw [execSoftStep, stepStart_idle hreset hlaunches hstep]
  rfl

theorem execSoftStep_busy (hreset : s.pw.inReset = false) (hbusy : s.tb.launches ≠ [] ∨ s.tb.step ≠ .none) :
    execSoftStep s = .next (settle (setFld TB_STAT_STEP_REF 0 1 s)) := by
  rw [execSoftStep, stepStart_busy hreset hbusy]

theorem execArmEpochStep_idle (hreset : s.pw.inReset = false) (hlaunches : s.tb.launches = []) (hstep : s.tb.step = .none) :
    execArmEpochStep s = .next (settle (arm (modTb (fun b => { b with step := .armed }) (stepHold s)))) := by
  rw [execArmEpochStep, stepStart_idle hreset hlaunches hstep]
  rfl

theorem stepAbandon_armed (hstep : s.tb.step = .armed) (hfed : s.tb.fedArm = none) :
    stepAbandon s = stepAlign (setFld TB_STAT_ARMED 0 0 s) := by
  simp [stepAbandon, hstep, hfed]

theorem execAbandonStep_armed (hstep : s.tb.step = .armed) (hfed : s.tb.fedArm = none) :
    execAbandonStep s = .next (settle (stepAlign (setFld TB_STAT_ARMED 0 0 s))) := by
  rw [execAbandonStep, stepAbandon_armed hstep hfed]

theorem execStepLoad_soft (hdone : stampsDone s = true) (hstep : s.tb.step = .soft) :
    execStepLoad s = .next (settle (stepAlign (loadCount (BitVec.ofNat 64 (presetOf s)) s))) := by
  simp [execStepLoad, hdone, hstep]

theorem execStepLoad_armed (hdone : stampsDone s = true) (hstep : s.tb.step = .armed) : execStepLoad s = .next (settle (arm s)) := by
  simp [execStepLoad, hdone, hstep]

theorem arm_waits (hdone : stampsDone s = true) (hstep : s.tb.step = .armed) (harmed : flg s TB_STAT_ARMED = false) :
    arm s = setFld TB_STAT_ARMED 0 1 (modTb (fun b => { b with armEnd := s.clk + fld s TB_FED_ARM_TMO * edgesMs }) s) := by
  simp [arm, hdone, hstep, harmed]

theorem execStepArmTimeout_due (hstep : s.tb.step = .armed) (harmed : flg s TB_STAT_ARMED = true) (hdue : s.tb.armEnd ≤ s.clk)
    (hfed : s.tb.fedArm = none) :
    execStepArmTimeout s = .next (settle (setFld TB_STAT_ARM_TMO 0 1 (stepAlign (setFld TB_STAT_ARMED 0 0 s)))) := by
  simp [execStepArmTimeout, hstep, harmed, hdue, stepAbandon_armed hstep hfed]

/-- Of the memories a load of the count changes nothing. -/
theorem sameBytes_loadCount (x : BitVec 64) (s : State) : SameBytes s (loadCount x s) := ⟨rfl, rfl, rfl, rfl⟩

/-! ### EPOCH (R117 to R119) -/

/-- What a pulse of that phase records: the count at its edge, and the phase as valid. -/
def captured (phase : Nat) (s : State) : State :=
  setFld TB_ECNT_CNT 0 (s.count.toNat % 2 ^ 32) (setFld TB_ECAP_PHASE 0 phase (setFld TB_ECAP_VALID 0 1 s))

/-- A pulse that is checked: behind its record only DIFF, SLIP and the cause of a slip change. -/
theorem epochEdge_check (hcheck : flg s TB_FED_CHECK = true) (phase : Nat) : ∃ d,
    epochEdge phase s = setFld TB_ECAP_DIFF 0 d (captured phase s) ∨
    epochEdge phase s = raise 4 (setFld TB_STAT_SLIP 0 1 (setFld TB_ECAP_DIFF 0 d (captured phase s))) := by
  unfold epochEdge
  extract_lets c s1 d s2
  rw [if_pos hcheck]
  split
  · exact ⟨_, .inr rfl⟩
  · exact ⟨_, .inl rfl⟩

/-- The record of a checked pulse is not touched by its judgement. -/
theorem fld_epochEdge_check (hcheck : flg s TB_FED_CHECK = true) (phase : Nat) {f : Fld} (hdiff : f.Apart TB_ECAP_DIFF)
    (hslip : f.Apart TB_STAT_SLIP) (hbase : 0x10000 ≤ f.base) : fld (epochEdge phase s) f = fld (captured phase s) f := by
  obtain ⟨d, hedge | hedge⟩ := epochEdge_check hcheck phase
  · rw [hedge, fld_setFld_apart hdiff]
  · rw [hedge, fld_raise_ne (by rw [Fld.off]; omega) (by rw [Fld.off]; omega), fld_setFld_apart hslip, fld_setFld_apart hdiff]

theorem count_epochEdge_check (hcheck : flg s TB_FED_CHECK = true) (phase : Nat) : (epochEdge phase s).count = s.count := by
  obtain ⟨d, hedge | hedge⟩ := epochEdge_check hcheck phase
  · rw [hedge]; rfl
  · rw [hedge]; rfl

theorem fld_captured_count (phase : Nat) (s : State) : fld (captured phase s) TB_ECNT_CNT = s.count.toNat % 2 ^ 32 :=
  (fld_setFld_same _ _ _ _ (by decide)).trans (Nat.mod_mod _ _)

theorem fld_captured_phase (phase : BitVec 6) (s : State) : fld (captured phase.toNat s) TB_ECAP_PHASE = phase.toNat := by
  rw [captured, fld_setFld_apart (by decide), fld_setFld_same _ _ _ _ (by decide)]
  exact Nat.mod_eq_of_lt phase.isLt

theorem fld_captured_valid (phase : Nat) (s : State) : fld (captured phase s) TB_ECAP_VALID = 1 := by
  rw [captured, fld_setFld_apart (by decide), fld_setFld_apart (by decide), fld_setFld_same _ _ _ _ (by decide)]
  rfl

/-- The state at edge k + 2 of a pulse that is taken. -/
def pulseEdge (s : State) : State := tickStep (tickStep (modTb (fun b => { b with epochBlind := s.clk + 4096 }) s))

theorem execEpochPulseIn_taken {width : Nat} (hreset : s.pw.inReset = false) (hst : s.pw.st.toNat < 3) (hwidth : 4 ≤ width)
    (hblind : s.tb.epochBlind ≤ s.clk) (hcheck : flg s TB_FED_CHECK = true) (phase : BitVec 6) :
    execEpochPulseIn phase width s = .next (settle (epochEdge phase.toNat (pulseEdge s))) := by
  simp [execEpochPulseIn, pulseEdge, hreset, hst.not_ge, hwidth.not_gt, hblind.not_gt, hcheck]

theorem execEpochPulseOut_drives (hreset : s.pw.inReset = false) (hgo : v.getLsbD 0 = true) (hen : flg s TB_FED_EOUT_EN = true)
    (hfree : s.tb.epochOut ≤ s.clk) : execEpochPulseOut v s =
      .next (modTb (fun b => { b with epochOut := s.clk + 9, epochPulses := b.epochPulses + 1 }) s) := by
  simp [execEpochPulseOut, epochPulse, hreset, hgo, hen, hfree]

end

/-- Settles O28, a clause for each row. -/
theorem timebaseSteps : Obligations.TimebaseSteps := by
  unfold Obligations.TimebaseSteps
  intro s phase width v idle busy u
  refine ⟨execTbCountRead_latches, fun ⟨hreset, hlaunches, hstep⟩ => execSoftStep_idle hreset hlaunches hstep,
    fun ⟨hreset, hbusy⟩ => execSoftStep_busy hreset hbusy,
    fun ⟨hreset, hlaunches, hstep⟩ => execArmEpochStep_idle hreset hlaunches hstep, execAbandonStep_armed, execStepLoad_soft, ?armed,
    execStepArmTimeout_due, ?pulseIn, fun x => ⟨rfl, rfl, sameBytes_loadCount x s⟩, execEpochPulseOut_drives⟩
  case armed =>
    intro hdone hstep harmed
    refine ⟨_, execStepLoad_armed hdone hstep, ?_⟩
    rw [arm_waits hdone hstep harmed]
    exact ⟨flg_setFld_same _ _ _ _ (by decide), rfl, rfl⟩
  case pulseIn =>
    intro hreset hst hwidth hblind hcheck
    have hcheck' : flg (pulseEdge s) TB_FED_CHECK = true := hcheck
    refine ⟨_, execEpochPulseIn_taken hreset hst hwidth hblind hcheck phase, count_epochEdge_check hcheck' _, ?_, ?_, ?_⟩
    · exact (fld_epochEdge_check hcheck' _ (by decide) (by decide) (by decide)).trans (fld_captured_count _ _)
    · exact (fld_epochEdge_check hcheck' _ (by decide) (by decide) (by decide)).trans (fld_captured_phase _ _)
    · rw [flg, fld_epochEdge_check hcheck' _ (by decide) (by decide) (by decide), fld_captured_valid]
      rfl

end Sys2Proof.Machine
end

section
/-!
What neither settling nor the end of a soft reset touches: the clock, the count and the battery-backed words. `timeAndBbr` holds the three,
and each function of the model that the two call leaves it as it was (`timeAndBbr_raise` for `raise`, and so on, in the order of the
model's files).
-/

namespace Sys2Proof.Machine

/-- The clock, the count and the battery-backed words. -/
def timeAndBbr (s : State) : Nat × BitVec 64 × SMap Word := (s.clk, s.count, s.bbr)

@[simp] theorem timeAndBbr_ite (c : Prop) [Decidable c] (s t : State) :
    timeAndBbr (if c then s else t) = if c then timeAndBbr s else timeAndBbr t := apply_ite ..

theorem timeAndBbr_foldl {α : Type} {g : State → α → State} (hg : ∀ t x, timeAndBbr (g t x) = timeAndBbr t) (l : List α)
    (s : State) : timeAndBbr (l.foldl g s) = timeAndBbr s := by
  induction l generalizing s with
  | nil => rfl
  | cons x l ih => rw [List.foldl_cons, ih, hg]

/-! ### Machine/Ops -/

@[simp] theorem timeAndBbr_setWord (off v : Nat) (s : State) : timeAndBbr (setWord off v s) = timeAndBbr s := rfl

@[simp] theorem timeAndBbr_setFld (f : Fld) (i v : Nat) (s : State) : timeAndBbr (setFld f i v s) = timeAndBbr s := rfl

@[simp] theorem timeAndBbr_addFld (f : Fld) (i n : Nat) (s : State) : timeAndBbr (addFld f i n s) = timeAndBbr s := rfl

@[simp] theorem timeAndBbr_raise (c : Nat) (s : State) (u : Option Nat) : timeAndBbr (raise c s u) = timeAndBbr s := by
  unfold raise
  split <;> simp

@[simp] theorem timeAndBbr_modFab (n : Nat) (g : FabPort → FabPort) (s : State) : timeAndBbr (modFab n g s) = timeAndBbr s := rfl

@[simp] theorem timeAndBbr_modPort (p : Nat) (g : Port → Port) (s : State) : timeAndBbr (modPort p g s) = timeAndBbr s := rfl

@[simp] theorem timeAndBbr_modSched (p : Nat) (g : Sched → Sched) (s : State) : timeAndBbr (modSched p g s) = timeAndBbr s := rfl

@[simp] theorem timeAndBbr_modDram (p : Nat) (g : DramSt → DramSt) (s : State) : timeAndBbr (modDram p g s) = timeAndBbr s := rfl

@[simp] theorem timeAndBbr_modLink (p : Nat) (g : Link → Link) (s : State) : timeAndBbr (modLink p g s) = timeAndBbr s := rfl

@[simp] theorem timeAndBbr_modTrain (p : Nat) (g : Train → Train) (s : State) : timeAndBbr (modTrain p g s) = timeAndBbr s := rfl

@[simp] theorem timeAndBbr_modProt (p : Nat) (g : Protect → Protect) (s : State) : timeAndBbr (modProt p g s) = timeAndBbr s := rfl

@[simp] theorem timeAndBbr_modMarks (p : Nat) (g : Marks → Marks) (s : State) : timeAndBbr (modMarks p g s) = timeAndBbr s := rfl

@[simp] theorem timeAndBbr_newId (s : State) : timeAndBbr (newId s).2 = timeAndBbr s := rfl

@[simp] theorem timeAndBbr_setPstate (p : Nat) (x : PState) (s : State) : timeAndBbr (setPstate p x s) = timeAndBbr s := by simp [setPstate]

@[simp] theorem timeAndBbr_active (s : State) : timeAndBbr (active s) = timeAndBbr s := by
  unfold active
  extract_lets
  split <;> rfl

@[simp] theorem timeAndBbr_logPort (p typ dev : Nat) (la : Option Nat) (detail : Nat) (s : State) :
    timeAndBbr (logPort p typ dev la detail s) = timeAndBbr s := rfl

@[simp] theorem timeAndBbr_logCe (p dev la detail : Nat) (s : State) : timeAndBbr (logCe p dev la detail s) = timeAndBbr s := by
  unfold logCe
  extract_lets
  split
  · split <;> rfl
  · rfl

@[simp] theorem timeAndBbr_setPoison (p la : Nat) (b : Bool) (s : State) : timeAndBbr (setPoison p la b s) = timeAndBbr s := by
  unfold setPoison
  split <;> rfl

@[simp] theorem timeAndBbr_writeBytes (p la : Nat) (d : Line) (be : BitVec 64) (s : State) :
    timeAndBbr (writeBytes p la d be s) = timeAndBbr s := by
  unfold writeBytes
  split <;> rfl

@[simp] theorem timeAndBbr_storeLine (p la : Nat) (d : Line) (poison : Bool) (origin : Nat) (s : State) :
    timeAndBbr (storeLine p la d poison origin s) = timeAndBbr s := by simp [storeLine]

@[simp] theorem timeAndBbr_sramRemap (g w : Nat) (s : State) : timeAndBbr (sramRemap g w s) = timeAndBbr s := by
  unfold sramRemap
  extract_lets
  split_ifs <;> rfl

@[simp] theorem timeAndBbr_sramError (typ g w : Nat) (s : State) : timeAndBbr (sramError typ g w s) = timeAndBbr s := by
  unfold sramError
  extract_lets
  split
  · exact timeAndBbr_sramRemap ..
  · rfl

@[simp] theorem timeAndBbr_spadParity (off : Nat) (s : State) : timeAndBbr (spadParity off s) = timeAndBbr s := by simp [spadParity]

@[simp] theorem timeAndBbr_spadRead (s : State) (off : Nat) : timeAndBbr (spadRead s off).2 = timeAndBbr s := by
  unfold spadRead
  split <;> simp

@[simp] theorem timeAndBbr_spadWrite (off : Nat) (d : Line) (be : BitVec 64) (poison : Bool) (s : State) :
    timeAndBbr (spadWrite off d be poison s) = timeAndBbr s := rfl

@[simp] theorem timeAndBbr_setFoot3 (off : Nat) (v : BitVec 73) (s : State) : timeAndBbr (setFoot3 off v s) = timeAndBbr s := rfl

@[simp] theorem timeAndBbr_addFoot (off i : Nat) (s : State) : timeAndBbr (addFoot off i s) = timeAndBbr s := rfl

/-! ### Machine/Flags -/

@[simp] theorem timeAndBbr_ceThRaise (p : Nat) (s : State) : timeAndBbr (ceThRaise p s) = timeAndBbr s := by
  unfold ceThRaise
  extract_lets
  split <;> simp

@[simp] theorem timeAndBbr_ceWindow (p : Nat) (s : State) : timeAndBbr (ceWindow p s) = timeAndBbr s := by simp [ceWindow]

@[simp] theorem timeAndBbr_remapFull (p la cause : Nat) (s : State) : timeAndBbr (remapFull p la cause s) = timeAndBbr s := by
  unfold remapFull
  extract_lets s1 s2
  split
  · rfl
  · split <;> simp [s2, s1]

@[simp] theorem timeAndBbr_remapStat (p : Nat) (s : State) : timeAndBbr (remapStat p s) = timeAndBbr s := rfl

@[simp] theorem timeAndBbr_remapTrigger (p la cause : Nat) (s : State) : timeAndBbr (remapTrigger p la cause s) = timeAndBbr s := by
  unfold remapTrigger
  extract_lets
  split
  · rfl
  split
  · rfl
  split
  · simp
  split <;> simp

@[simp] theorem timeAndBbr_noteDecode (p la : Nat) (d : Dec) (origin : Nat) (wb : Bool) (s : State) :
    timeAndBbr (noteDecode p la d origin wb s) = timeAndBbr s := by
  unfold noteDecode
  extract_lets s1 s2 fixed s12 s22
  split
  · rfl
  · rfl
  · simp [fixed, s2, s1]
  · simp [fixed, s2, s1]
  · simp [s22, s12]

@[simp] theorem timeAndBbr_storePoisoned (p la : Nat) (d : Line) (origin : Nat) (s : State) :
    timeAndBbr (storePoisoned p la d origin s) = timeAndBbr s := by simp [storePoisoned]

/-! ### Machine/Operands -/

@[simp] theorem timeAndBbr_unbind (a : ReqAttr) (s : State) : timeAndBbr (unbind a s) = timeAndBbr s := by
  unfold unbind
  split <;> simp

@[simp] theorem timeAndBbr_judge (a : ReqAttr) (s : State) : timeAndBbr (judge a s) = timeAndBbr s := by
  unfold judge
  split
  · rfl
  · extract_lets late s1 s2 quiet
    have hs2 : timeAndBbr s2 = timeAndBbr s := by simp [s2, s1]
    split_ifs
    · rfl
    · exact hs2
    · exact hs2

/-! ### Machine/Path -/

@[simp] theorem timeAndBbr_fabLine (n id k : Nat) (g : FLine → FLine) (s : State) : timeAndBbr (fabLine n id k g s) = timeAndBbr s := rfl

@[simp] theorem timeAndBbr_fabPerformed (n id k : Nat) (s : State) : timeAndBbr (fabPerformed n id k s) = timeAndBbr s := by
  unfold fabPerformed
  split
  · rfl
  · extract_lets
    split <;> rfl

@[simp] theorem timeAndBbr_fabLineDone (n id k : Nat) (res : LineRes) (s : State) :
    timeAndBbr (fabLineDone n id k res s) = timeAndBbr s := by
  unfold fabLineDone
  split <;> simp

@[simp] theorem timeAndBbr_modCtx (c : Nat) (g : Ctx → Ctx) (s : State) : timeAndBbr (modCtx c g s) = timeAndBbr s := rfl

@[simp] theorem timeAndBbr_answered (a : ReqAttr) (s : State) : timeAndBbr (answered a s) = timeAndBbr s := by simp [answered]

@[simp] theorem timeAndBbr_lantLineDone (c num : Nat) (res : LineRes) (s : State) :
    timeAndBbr (lantLineDone c num res s) = timeAndBbr s := by
  unfold lantLineDone
  extract_lets s0
  have hs0 : timeAndBbr s0 = timeAndBbr s := by
    unfold s0
    split <;> simp
  exact hs0

@[simp] theorem timeAndBbr_lantPerformed (c num : Nat) (s : State) : timeAndBbr (lantPerformed c num s) = timeAndBbr s := rfl

@[simp] theorem timeAndBbr_modFeet (g : List FootPend → List FootPend) (s : State) : timeAndBbr (modFeet g s) = timeAndBbr s := rfl

@[simp] theorem timeAndBbr_footPerform (key o : Owner) (ring : Bool) (slot : Nat) (s : State) :
    timeAndBbr (footPerform key o ring slot s) = timeAndBbr s := by
  unfold footPerform
  split <;> simp

@[simp] theorem timeAndBbr_footEnd (e : FootPend) (ok : Bool) (s : State) : timeAndBbr (footEnd e ok s) = timeAndBbr s := by
  unfold footEnd
  extract_lets
  split
  · rfl
  split
  · rfl
  split <;> rfl

@[simp] theorem timeAndBbr_footSettle (key : Owner) (ok : Bool) (s : State) : timeAndBbr (footSettle key ok s) = timeAndBbr s := by
  simp [footSettle, timeAndBbr_foldl]

@[simp] theorem timeAndBbr_modHome (g : Home → Home) (s : State) : timeAndBbr (modHome g s) = timeAndBbr s := rfl

@[simp] theorem timeAndBbr_rsvTake (m : Master) (line : Nat) (s : State) : timeAndBbr (rsvTake m line s) = timeAndBbr s := by simp [rsvTake]

@[simp] theorem timeAndBbr_rsvDrop (m : Master) (s : State) : timeAndBbr (rsvDrop m s) = timeAndBbr s := rfl

@[simp] theorem timeAndBbr_rsvLose (m : Master) (f : Fld) (s : State) : timeAndBbr (rsvLose m f s) = timeAndBbr s := by simp [rsvLose]

@[simp] theorem timeAndBbr_rsvStore (m : Option Master) (line : Nat) (s : State) : timeAndBbr (rsvStore m line s) = timeAndBbr s := rfl

@[simp] theorem timeAndBbr_portAdd (p : Nat) (owner : Owner) (la : Nat) (kind : SubKind) (a : ReqAttr) (s : State) :
    timeAndBbr (portAdd p owner la kind a s) = timeAndBbr s := rfl

@[simp] theorem timeAndBbr_closeEntry (p e : Nat) (s : State) : timeAndBbr (closeEntry p e s) = timeAndBbr s := by
  unfold closeEntry
  split <;> simp

@[simp] theorem timeAndBbr_ledgerTouch (line : Nat) (susp : Bool) (s : State) : timeAndBbr (ledgerTouch line susp s) = timeAndBbr s := rfl

@[simp] theorem timeAndBbr_ledgerFree (line : Nat) (s : State) : timeAndBbr (ledgerFree line s) = timeAndBbr s := rfl

@[simp] theorem timeAndBbr_ringSend (m : RingOut) (s : State) : timeAndBbr (ringSend m s) = timeAndBbr s := rfl

@[simp] theorem timeAndBbr_ringComp (stop : Nat) (txn : BitVec 8) (line : Nat) (sts : BitVec 4) (s : State) :
    timeAndBbr (ringComp stop txn line sts s) = timeAndBbr s := rfl

@[simp] theorem timeAndBbr_homeProto (line stop op : Nat) (s : State) : timeAndBbr (homeProto line stop op s) = timeAndBbr s := rfl

@[simp] theorem timeAndBbr_homeDrop (id : Nat) (s : State) : timeAndBbr (homeDrop id s) = timeAndBbr s := rfl

@[simp] theorem timeAndBbr_homeMod (id : Nat) (g : HomeReq → HomeReq) (s : State) : timeAndBbr (homeMod id g s) = timeAndBbr s := rfl

@[simp] theorem timeAndBbr_homeAnswer (r : HomeReq) (res : LineRes) (s : State) : timeAndBbr (homeAnswer r res s) = timeAndBbr s := by
  unfold homeAnswer
  split
  · simp
  · simp
  · split
    · rfl
    rw [timeAndBbr_answered]
    split
    · simp
    · split <;> simp

@[simp] theorem timeAndBbr_homeStored (r : HomeReq) (s : State) : timeAndBbr (homeStored r s) = timeAndBbr s := by
  unfold homeStored
  split
  · extract_lets s1
    split <;> simp [s1]
  · rfl

@[simp] theorem timeAndBbr_homeGrant (r : HomeReq) (state : BitVec 3) (fwd : Bool) (line : Option (Line × Bool)) (s : State) :
    timeAndBbr (homeGrant r state fwd line s) = timeAndBbr s := by simp [homeGrant]

@[simp] theorem timeAndBbr_homeEnd (r : HomeReq) (sts : BitVec 4) (s : State) :
    timeAndBbr (homeEnd r sts s) = timeAndBbr s := by simp [homeEnd]

@[simp] theorem timeAndBbr_homePoison (r : HomeReq) (s : State) : timeAndBbr (homePoison r s) = timeAndBbr s := by
  unfold homePoison
  split
  · rfl
  split
  · rfl
  extract_lets
  split <;> rfl

@[simp] theorem timeAndBbr_homeWrite (r : HomeReq) (d : Line) (be : BitVec 64) (poison : Bool) (s : State) :
    timeAndBbr (homeWrite r d be poison s) = timeAndBbr s := by
  unfold homeWrite
  split <;> simp

@[simp] theorem timeAndBbr_homeAsk (r : HomeReq) (s : State) : timeAndBbr (homeAsk r s) = timeAndBbr s := by
  unfold homeAsk
  split <;> simp

@[simp] theorem timeAndBbr_homeAtomic (r : HomeReq) (line : Line) (pois : Bool) (s : State) :
    timeAndBbr (homeAtomic r line pois s) = timeAndBbr s := by simp [homeAtomic]

@[simp] theorem timeAndBbr_homeUse (r : HomeReq) (mem : LineRes) (s : State) : timeAndBbr (homeUse r mem s) = timeAndBbr s := by
  unfold homeUse
  split <;> simp

@[simp] theorem timeAndBbr_homeData (id : Nat) (res : LineRes) (s : State) : timeAndBbr (homeData id res s) = timeAndBbr s := by
  unfold homeData
  split <;> simp

@[simp] theorem timeAndBbr_homeDecide_writeBack (r : HomeReq) (bad : Bool) (s : State) :
    timeAndBbr (homeDecide.writeBack r bad s) = timeAndBbr s := by
  unfold homeDecide.writeBack
  split
  · simp
  · split
    · simp
    · split <;> simp

@[simp] theorem timeAndBbr_homeDecide (q : HomeReq) (s : State) : timeAndBbr (homeDecide q s) = timeAndBbr s := by
  unfold homeDecide
  extract_lets r fwd bad s1 s2 mem s3 s32
  have hs2 : timeAndBbr s2 = timeAndBbr s := by simp [s2, s1]
  have hmem (t : State) : timeAndBbr (mem t) = timeAndBbr t := by
    unfold mem
    split <;> simp
  have hs3 : timeAndBbr s3 = timeAndBbr s := by
    unfold s3
    split <;> simp [hs2]
  have hs32 : timeAndBbr s32 = timeAndBbr s := (timeAndBbr_ledgerFree ..).trans hs2
  clear_value r s2 mem s3 s32
  split
  case h_4 | h_5 | h_6 | h_11 =>
    split
    · simp [hs2, hmem, hs32]
    · split <;> simp [hs2, hmem, hs32]
  all_goals simp [hs2, hmem, hs3]

@[simp] theorem timeAndBbr_homeSnoop (r : HomeReq) (op : Nat) (nodata : Bool) (s : State) :
    timeAndBbr (homeSnoop r op nodata s) = timeAndBbr s := by simp [homeSnoop]

@[simp] theorem timeAndBbr_plainStart (r : HomeReq) (s : State) : timeAndBbr (plainStart r s) = timeAndBbr s := by
  unfold plainStart
  split <;> simp

@[simp] theorem timeAndBbr_homeStart_far (r : HomeReq) (s : State) : timeAndBbr (homeStart.far r s) = timeAndBbr s := by
  unfold homeStart.far
  extract_lets t1
  have ht1 : timeAndBbr t1 = timeAndBbr s := rfl
  split <;> simp [ht1]

@[simp] theorem timeAndBbr_homeStart (r : HomeReq) (s : State) : timeAndBbr (homeStart r s) = timeAndBbr s := by
  unfold homeStart
  split
  · simp
  extract_lets failed hit note dropNote susp s1 r1 s2 go i
  have hdropNote (t : State) : timeAndBbr (dropNote t) = timeAndBbr t := rfl
  have hs2 : timeAndBbr s2 = timeAndBbr s := by simp [s2, s1]
  have hgo (x : HomeReq) (t : State) : timeAndBbr (go x t) = timeAndBbr t := by
    unfold go
    clear_value hit
    split <;> simp
  clear_value dropNote s2 go note
  split
  · simp
  split
  · split
    · rfl
    · exact timeAndBbr_homeSnoop ..
  · split
    case h_1 => split <;> simp [hgo, hdropNote, hs2]
    case h_2 => split <;> simp [hgo, hdropNote, hs2]
    case h_3 => split <;> simp [hgo, hs2]
    case h_4 =>
      split
      · simp [hs2]
      · split
        · simp [hgo, hs2]
        · exact (timeAndBbr_homeAnswer ..).trans hs2
    all_goals simp [hgo, hs2]

@[simp] theorem timeAndBbr_homePump (n : Nat) (s : State) : timeAndBbr (homePump n s) = timeAndBbr s := by
  induction n generalizing s with
  | zero => rfl
  | succ n ih =>
    unfold homePump
    split <;> simp [ih]

@[simp] theorem timeAndBbr_barPump (s : State) : timeAndBbr (barPump s) = timeAndBbr s := by simp [barPump, timeAndBbr_foldl]

@[simp] theorem timeAndBbr_homeRun (s : State) : timeAndBbr (homeRun s) = timeAndBbr s := by simp [homeRun]

@[simp] theorem timeAndBbr_homeSubmit (r : HomeReq) (s : State) : timeAndBbr (homeSubmit r s) = timeAndBbr s := by simp [homeSubmit]

@[simp] theorem timeAndBbr_deliver (o : Owner) (res : LineRes) (s : State) : timeAndBbr (deliver o res s) = timeAndBbr s := by
  unfold deliver
  split <;> simp

@[simp] theorem timeAndBbr_homeWake (s : State) : timeAndBbr (homeWake s) = timeAndBbr s := by
  unfold homeWake
  split <;> rfl

@[simp] theorem timeAndBbr_lineAccess (o : Owner) (addr : Nat) (op : LineOp) (a : ReqAttr) (s : State) :
    timeAndBbr (lineAccess o addr op a s) = timeAndBbr s := by
  unfold lineAccess
  extract_lets line needsHome s1 base
  split
  · simp [s1]
  split
  · split
    · simp
    · split <;> simp
  · simp

/-! ### Machine/PortOps -/

@[simp] theorem timeAndBbr_mergeDone (p e : Nat) (sts : BitVec 4) (s : State) : timeAndBbr (mergeDone p e sts s) = timeAndBbr s := by
  unfold mergeDone
  split
  · rfl
  · exact timeAndBbr_foldl (by simp) _ _

@[simp] theorem timeAndBbr_rmwFinish (p e : Nat) (f : Flight) (err : Burst) (s : State) :
    timeAndBbr (rmwFinish p e f err s) = timeAndBbr s := by
  unfold rmwFinish
  split <;> simp

@[simp] theorem timeAndBbr_markOver (p la : Nat) (s : State) : timeAndBbr (markOver p la s) = timeAndBbr s := rfl

@[simp] theorem timeAndBbr_fly (p : Nat) (q : SubReq) (stamp : BitVec 28) (data : Line) (poison : Bool) (s : State) :
    timeAndBbr (fly p q stamp data poison s) = timeAndBbr s := rfl

@[simp] theorem timeAndBbr_colEffect (p : Nat) (q : SubReq) (stamp : BitVec 28) (s : State) :
    timeAndBbr (colEffect p q stamp s) = timeAndBbr s := by
  unfold colEffect
  dsimp only
  split
  · split <;> simp
  · simp
  · simp

@[simp] theorem timeAndBbr_goodOldest (p : Nat) (s : State) : timeAndBbr (goodOldest p s) = timeAndBbr s := by
  unfold goodOldest
  split
  · rfl
  · extract_lets s1
    split <;> simp [s1]

@[simp] theorem timeAndBbr_goodAll (p n : Nat) (s : State) : timeAndBbr (goodAll p n s) = timeAndBbr s := by
  induction n generalizing s with
  | zero => rfl
  | succ n ih => rw [goodAll, ih, timeAndBbr_goodOldest]

@[simp] theorem timeAndBbr_syncLine (p la : Nat) (s : State) : timeAndBbr (syncLine p la s) = timeAndBbr s := by
  unfold syncLine
  extract_lets open1 s1 r s2 mine s3 rm
  have hs1 : timeAndBbr s1 = timeAndBbr s := timeAndBbr_foldl (by simp) _ _
  have hs2 : timeAndBbr s2 = timeAndBbr s1 := by simp [s2]
  have hs3 : timeAndBbr s3 = timeAndBbr s2 := timeAndBbr_foldl (by simp) _ _
  rw [timeAndBbr_foldl (by simp), hs3, hs2, hs1]

/-! ### Machine/Energy -/

@[simp] theorem timeAndBbr_modEn (g : Energy → Energy) (s : State) : timeAndBbr (modEn g s) = timeAndBbr s := rfl

@[simp] theorem timeAndBbr_setDomain (dom : BitVec 73) (s : State) : timeAndBbr (setDomain dom s) = timeAndBbr s := by simp [setDomain]

@[simp] theorem timeAndBbr_plan (s : State) : timeAndBbr (plan s) = timeAndBbr s := by
  unfold plan
  split
  · rfl
  · extract_lets u r ret eu
    rw [timeAndBbr_setFld, timeAndBbr_setFld, timeAndBbr_modEn, timeAndBbr_setDomain]

@[simp] theorem timeAndBbr_replan (s : State) : timeAndBbr (replan s) = timeAndBbr s := by simp [replan]

/-! ### Machine/HostOps -/

@[simp] theorem timeAndBbr_setHandle (k : Nat) (h : Handle) (s : State) : timeAndBbr (setHandle k h s) = timeAndBbr s := rfl

@[simp] theorem timeAndBbr_modHandle (k : Nat) (g : Handle → Handle) (s : State) : timeAndBbr (modHandle k g s) = timeAndBbr s := rfl

@[simp] theorem timeAndBbr_modQueue (q : Nat) (g : HQueue → HQueue) (s : State) : timeAndBbr (modQueue q g s) = timeAndBbr s := rfl

@[simp] theorem timeAndBbr_hostStat (s : State) : timeAndBbr (hostStat s) = timeAndBbr s :=
  (timeAndBbr_foldl (by simp) _ _).trans rfl

@[simp] theorem timeAndBbr_endHandle (k sts detail result : Nat) (s : State) :
    timeAndBbr (endHandle k sts detail result s) = timeAndBbr s := by simp [endHandle]

@[simp] theorem timeAndBbr_hostStallReset (a : Nat) (off : Bool) (s : State) : timeAndBbr (hostStallReset a off s) = timeAndBbr s := by
  unfold hostStallReset
  extract_lets s1
  have hs1 : timeAndBbr s1 = timeAndBbr s := timeAndBbr_foldl (by simp [timeAndBbr_foldl]) _ _
  refine (timeAndBbr_foldl (fun t q => ?_) _ _).trans ((timeAndBbr_foldl (by simp) _ _).trans hs1)
  extract_lets lost sorted t1 t2 t3
  have ht1 : timeAndBbr t1 = timeAndBbr t := timeAndBbr_foldl (by simp) _ _
  simp [t3, t2, ht1]

@[simp] theorem timeAndBbr_freeHandles (h : Nat → Nat) (s : State) : timeAndBbr (freeHandles h s) = timeAndBbr s := by
  unfold freeHandles
  extract_lets gone
  split
  · rfl
  · exact (timeAndBbr_hostStat _).trans (timeAndBbr_foldl (by simp) _ _)

/-! ### Machine/StallOps -/

@[simp] theorem timeAndBbr_stallErr (cause a count : Nat) (s : State) : timeAndBbr (stallErr cause a count s) = timeAndBbr s := rfl

@[simp] theorem timeAndBbr_putStall (a : Nat) (x : Stall) (s : State) : timeAndBbr (putStall a x s) = timeAndBbr s := by
  unfold putStall
  extract_lets
  split_ifs <;> rfl

@[simp] theorem timeAndBbr_modStall (a : Nat) (g : Stall → Stall) (s : State) :
    timeAndBbr (modStall a g s) = timeAndBbr s := by simp [modStall]

@[simp] theorem timeAndBbr_ringWrite (addr : Nat) (d : Line) (be : BitVec 64) (s : State) :
    timeAndBbr (ringWrite addr d be s) = timeAndBbr s := by
  unfold ringWrite
  split <;> simp

@[simp] theorem timeAndBbr_ringPut (x : Stall) (pos : Nat) (w : SWord) (s : State) :
    timeAndBbr (ringPut x pos w s) = timeAndBbr s := by simp [ringPut]

@[simp] theorem timeAndBbr_ringPutAll (x : Stall) (l : SMap SWord) (s : State) : timeAndBbr (ringPutAll x l s) = timeAndBbr s := by
  simp [ringPutAll, timeAndBbr_foldl]

@[simp] theorem timeAndBbr_spillAll (a : Nat) (s : State) : timeAndBbr (spillAll a s) = timeAndBbr s := by simp [spillAll]

@[simp] theorem timeAndBbr_takePair (a : Nat) (s : State) : timeAndBbr (takePair a s) = timeAndBbr s := by
  unfold takePair
  split_ifs
  · rfl
  · split <;> rfl
  · split
    · simp
    · split <;> simp

@[simp] theorem timeAndBbr_skipRun (a n : Nat) (s : State) : timeAndBbr (skipRun a n s) = timeAndBbr s := by
  induction n generalizing s with
  | zero => rfl
  | succ n ih => simp [skipRun, ih]

@[simp] theorem timeAndBbr_skipNow (a : Nat) (s : State) : timeAndBbr (skipNow a s) = timeAndBbr s := by simp [skipNow]

@[simp] theorem timeAndBbr_endPacket (a : Nat) (s : State) : timeAndBbr (endPacket a s) = timeAndBbr s := by simp [endPacket]

@[simp] theorem timeAndBbr_resumeWait (a : Nat) (s : State) : timeAndBbr (resumeWait a s) = timeAndBbr s := by
  unfold resumeWait
  extract_lets x
  split
  · rfl
  · simp

@[simp] theorem timeAndBbr_tryClose (a : Nat) (s : State) : timeAndBbr (tryClose a s) = timeAndBbr s := by
  unfold tryClose
  dsimp only
  split
  · rfl
  split
  · rfl
  split
  · simp
  · split
    · simp
    split
    · rfl
    · rw [timeAndBbr_skipNow, timeAndBbr_endPacket, timeAndBbr_putStall]

@[simp] theorem timeAndBbr_flushPart (a : Nat) (s : State) : timeAndBbr (flushPart a s) = timeAndBbr s := by
  unfold flushPart
  extract_lets x
  split <;> simp

@[simp] theorem timeAndBbr_pushItem (a : Nat) (it : SItem) (s : State) : timeAndBbr (pushItem a it s) = timeAndBbr s := by
  unfold pushItem
  dsimp only
  split
  · simp
  split
  · split
    · simp
    · split <;> simp
  · simp

@[simp] theorem timeAndBbr_pushItems (a : Nat) (l : List SItem) (s : State) : timeAndBbr (pushItems a l s).2 = timeAndBbr s := by
  induction l generalizing s with
  | nil => rfl
  | cons it l ih =>
    unfold pushItems
    split_ifs
    · rfl
    · exact (ih _).trans (timeAndBbr_pushItem ..)
    · simp

@[simp] theorem timeAndBbr_pumpItems (a : Nat) (s : State) : timeAndBbr (pumpItems a s) = timeAndBbr s := by simp [pumpItems]

@[simp] theorem timeAndBbr_tallyFetch (a : Nat) (s : State) : timeAndBbr (tallyFetch a s).2 = timeAndBbr s := by simp [tallyFetch]

@[simp] theorem timeAndBbr_runReader (a n : Nat) (s : State) : timeAndBbr (runReader a n s) = timeAndBbr s := by
  induction n generalizing s with
  | zero => rfl
  | succ n ih =>
    unfold runReader
    dsimp only
    split
    · rfl
    split
    · rfl
    split <;> simp [ih]

@[simp] theorem timeAndBbr_startRead (a : Nat) (o : Owner) (len : Nat) (s : State) :
    timeAndBbr (startRead a o len s) = timeAndBbr s := by simp [startRead]

@[simp] theorem timeAndBbr_dropReader (a : Nat) (s : State) : timeAndBbr (dropReader a s) = timeAndBbr s := by simp [dropReader]

@[simp] theorem timeAndBbr_stallDrop (a : Nat) (s : State) : timeAndBbr (stallDrop a s) = timeAndBbr s := by simp [stallDrop]

@[simp] theorem timeAndBbr_stallMark (a : Nat) (s : State) : timeAndBbr (stallMark a s) = timeAndBbr s := by simp [stallMark]

@[simp] theorem timeAndBbr_stallRewind (a : Nat) (s : State) : timeAndBbr (stallRewind a s) = timeAndBbr s := by simp [stallRewind]

@[simp] theorem timeAndBbr_stallRelease (a : Nat) (s : State) : timeAndBbr (stallRelease a s) = timeAndBbr s := by simp [stallRelease]

@[simp] theorem timeAndBbr_resetStall (a : Nat) (cause : Nat) (s : State) :
    timeAndBbr (resetStall a cause s) = timeAndBbr s := by simp [resetStall]

@[simp] theorem timeAndBbr_checkStall (a : Nat) (s : State) : timeAndBbr (checkStall a s) = timeAndBbr s := by simp [checkStall]

@[simp] theorem timeAndBbr_closePacket (a : Nat) (fence : Bool) (s : State) :
    timeAndBbr (closePacket a fence s) = timeAndBbr s := by simp [closePacket]

/-! ### Machine/FabOps -/

@[simp] theorem timeAndBbr_fabStat (n : Nat) (s : State) : timeAndBbr (fabStat n s) = timeAndBbr s := rfl

@[simp] theorem timeAndBbr_setLines (n id : Nat) (l : List LineRes) (s : State) : timeAndBbr (setLines n id l s) = timeAndBbr s := rfl

theorem timeAndBbr_loadLine (n : Nat) (e : List FabReq) (r : FabReq) (k : Nat) (s : State) :
    ∀ t ∈ loadLine n e r k s, timeAndBbr t = timeAndBbr s := by
  unfold loadLine
  dsimp only
  split
  · simp
  split
  · simp
  · split <;> simp
  · split
    · split <;> simp
    · simp
    · simp

theorem timeAndBbr_stallGet (n : Nat) (e : List FabReq) (r : FabReq) (s : State) :
    ∀ t ∈ stallGet n e r s, timeAndBbr t = timeAndBbr s := by
  unfold stallGet
  dsimp only
  split
  · simp
  split
  · simp
  split
  · simp
  · split <;> simp

theorem timeAndBbr_stallCmd (n : Nat) (e : List FabReq) (r : FabReq) (s : State) :
    ∀ t ∈ stallCmd n e r s, timeAndBbr t = timeAndBbr s := by
  unfold stallCmd
  dsimp only
  split
  · simp
  split
  · simp
  · simp
  · split <;> simp
  · simp
  · simp

theorem timeAndBbr_barAnswer (n : Nat) (e : List FabReq) (r : FabReq) (s : State) :
    ∀ x ∈ barAnswer n e r s, timeAndBbr x.2 = timeAndBbr s := by
  unfold barAnswer
  split
  · simp
  split
  · simp
  split
  · simp
  split <;> simp

@[simp] theorem timeAndBbr_respond (n : Nat) (r : FabReq) (sts : BitVec 4) (s : State) :
    timeAndBbr (respond n r sts s) = timeAndBbr s := by simp [respond]

@[simp] theorem timeAndBbr_offer (n : Nat) (r : FabReq) (i : Nat) (takes : Bool) (s : State) :
    timeAndBbr (offer n r i takes s) = timeAndBbr s := by
  unfold offer
  extract_lets
  split
  · exact timeAndBbr_judge ..
  · rfl

@[simp] theorem timeAndBbr_offerRefusal (n : Nat) (r : FabReq) (sts : BitVec 4) (s : State) :
    timeAndBbr (offerRefusal n r sts s) = timeAndBbr s := rfl

theorem timeAndBbr_grant (n : Nat) (s : State) : ∀ t ∈ grant n s, timeAndBbr t = timeAndBbr s := by
  unfold grant
  split
  · simp
  split
  · simp
  split
  · simp
  split
  · simp
  split <;> simp

@[simp] theorem timeAndBbr_endReq (n id : Nat) (s : State) : timeAndBbr (endReq n id s) = timeAndBbr s := by
  unfold endReq
  split <;> simp

theorem timeAndBbr_takeBeat (n : Nat) (s : State) : ∀ t ∈ takeBeat n s, timeAndBbr t = timeAndBbr s := by
  unfold takeBeat
  split <;> simp

theorem timeAndBbr_takeRsp (n : Nat) (s : State) : ∀ t ∈ takeRsp n s, timeAndBbr t = timeAndBbr s := by
  unfold takeRsp
  split <;> simp

theorem timeAndBbr_dropOne (n : Nat) (s : State) : ∀ t ∈ dropOne n s, timeAndBbr t = timeAndBbr s := by
  unfold dropOne
  split_ifs
  · simp
  · split
    next t h => simpa using timeAndBbr_takeRsp n s t h
    next =>
      split
      · simp
      · simpa using timeAndBbr_takeBeat n s

theorem timeAndBbr_reqStep (n : Nat) (s : State) (e : List FabReq) (r : FabReq) :
    ∀ t ∈ reqStep n s e r, timeAndBbr t = timeAndBbr s := by
  unfold reqStep
  split
  · split <;> simp
  split
  · simp
  extract_lets run load
  have hrun : ∀ t ∈ run, timeAndBbr t = timeAndBbr s := by
    unfold run
    split
    · exact timeAndBbr_stallGet n e r s
    · split
      · exact timeAndBbr_stallCmd n e r s
      · simp
  have hload : ∀ t ∈ load, timeAndBbr t = timeAndBbr s := by
    unfold load
    split
    · intro t ht
      obtain ⟨_, k, _, _, hk, _⟩ := List.findSome?_eq_some_iff.1 ht
      split at hk
      · exact timeAndBbr_loadLine n e r k s t hk
      · simp at hk
    · simp
  clear_value run load
  split
  next t => simpa using hrun t rfl
  split
  next t => simpa using hload t rfl
  split
  · simp
  split
  · intro t ht
    obtain ⟨x, hx, rfl⟩ := Option.map_eq_some_iff.1 ht
    exact (timeAndBbr_respond ..).trans (timeAndBbr_barAnswer n e r s x hx)
  split
  · simp
  split <;> simp

theorem timeAndBbr_firstReq {g : List FabReq → FabReq → Option State} {s : State}
    (hg : ∀ e r, ∀ t ∈ g e r, timeAndBbr t = timeAndBbr s) (l m : List FabReq) :
    ∀ t ∈ firstReq g l m, timeAndBbr t = timeAndBbr s := by
  induction m with
  | nil => simp [firstReq]
  | cons r m ih =>
    unfold firstReq
    split
    next t h => simpa using hg _ _ t h
    next => exact ih

theorem timeAndBbr_fabStep (n : Nat) (s : State) : ∀ t ∈ fabStep n s, timeAndBbr t = timeAndBbr s := by
  unfold fabStep
  extract_lets f
  split
  · simp
  · split
    next t h => simpa using timeAndBbr_firstReq (timeAndBbr_reqStep n s) _ _ t h
    next =>
      split
      next t h => simpa using timeAndBbr_grant n s t h
      next => exact timeAndBbr_dropOne n s

@[simp] theorem timeAndBbr_fenceClose (n : Nat) (s : State) : timeAndBbr (fenceClose n s) = timeAndBbr s := by
  simp [fenceClose, timeAndBbr_foldl]

@[simp] theorem timeAndBbr_fabPump (n k : Nat) (s : State) : timeAndBbr (fabPump n k s) = timeAndBbr s := by
  induction k generalizing s with
  | zero => rfl
  | succ k ih =>
    unfold fabPump
    split
    next => rfl
    next t h => rw [ih, timeAndBbr_fabStep n s t h]

@[simp] theorem timeAndBbr_fabSettle (s : State) (n : Nat) : timeAndBbr (fabSettle s n) = timeAndBbr s := by simp [fabSettle]

@[simp] theorem timeAndBbr_grantTallies (n : Nat) (s : State) : timeAndBbr (grantTallies n s) = timeAndBbr s := rfl

@[simp] theorem timeAndBbr_clearTallies (n : Nat) (s : State) : timeAndBbr (clearTallies n s) = timeAndBbr s := rfl

/-! ### Machine/LantOps -/

@[simp] theorem timeAndBbr_modLant (g : Lantern → Lantern) (s : State) : timeAndBbr (modLant g s) = timeAndBbr s := rfl

@[simp] theorem timeAndBbr_trapCtx (c code : Nat) (insn : Word) (mstat : BitVec 4) (s : State) :
    timeAndBbr (trapCtx c code insn mstat s) = timeAndBbr s := by simp [trapCtx]

@[simp] theorem timeAndBbr_retire (c : Nat) (pc : W64) (s : State) : timeAndBbr (retire c pc s) = timeAndBbr s := rfl

@[simp] theorem timeAndBbr_retireWith (c : Nat) (rd : BitVec 5) (v : W64) (s : State) :
    timeAndBbr (retireWith c rd v s) = timeAndBbr s := rfl

@[simp] theorem timeAndBbr_putData (abs n v : Nat) (s : State) : timeAndBbr (putData abs n v s) = timeAndBbr s := rfl

@[simp] theorem timeAndBbr_memDone (c : Nat) (a : LAcc) (res : LineRes) (rd : BitVec 5) (s : State) :
    timeAndBbr (memDone c a res rd s) = timeAndBbr s := by simp [memDone]

@[simp] theorem timeAndBbr_barDone (c : Nat) (kind : BitVec 2) (rd : BitVec 5) (s : State) :
    timeAndBbr (barDone c kind rd s) = timeAndBbr s := by simp [barDone]

@[simp] theorem timeAndBbr_hdoneDone (c : Nat) (a b : W64) (s : State) : timeAndBbr (hdoneDone c a b s) = timeAndBbr s := by
  unfold hdoneDone
  extract_lets x h sts
  split
  · simp
  split
  · simp
  · simp

@[simp] theorem timeAndBbr_sgetDone (c a : Nat) (rd : BitVec 5) (dat : Nat) (w : SWord) (s : State) :
    timeAndBbr (sgetDone c a rd dat w s) = timeAndBbr s := by simp [sgetDone]

@[simp] theorem timeAndBbr_ctxResetNow (c : Nat) (s : State) : timeAndBbr (ctxResetNow c s) = timeAndBbr s := by
  unfold ctxResetNow
  extract_lets x s1
  have hs1 : timeAndBbr s1 = timeAndBbr s := by
    unfold s1
    split
    · split <;> simp
    · rfl
  exact (timeAndBbr_rsvLose ..).trans hs1

theorem timeAndBbr_lantStep (c : Nat) (s : State) : ∀ t ∈ lantStep c s, timeAndBbr t = timeAndBbr s := by
  unfold lantStep
  extract_lets x o
  split
  · split
    · split <;> simp
    · split <;> simp
  split
  · split
    · simp
    next s1 host s2 _ _ _ _ h _ =>
      have hs2 : timeAndBbr s2 = timeAndBbr s := by
        unfold s2
        split <;> rfl
      clear_value s2
      split
      · simp
      · split <;> simp [hs2]
  · split <;> simp
  · simp
  · split
    · split <;> simp
    · split <;> simp
    · split <;> simp
    · split <;> simp
    · simp

@[simp] theorem timeAndBbr_lantPump (c k : Nat) (s : State) : timeAndBbr (lantPump c k s) = timeAndBbr s := by
  induction k generalizing s with
  | zero => rfl
  | succ k ih =>
    unfold lantPump
    split
    next => rfl
    next t h => rw [ih, timeAndBbr_lantStep c s t h]

@[simp] theorem timeAndBbr_streamPush (p : Nat) (x : Stream) (s : State) : timeAndBbr (streamPush p x s) = timeAndBbr s := by
  unfold streamPush
  split
  · rfl
  extract_lets a s1 y fin keep s2 s3
  have hs2 : timeAndBbr s2 = timeAndBbr s1 := by
    unfold s2
    split <;> simp
  have hs3 : timeAndBbr s3 = timeAndBbr s2 := rfl
  simp [hs3, hs2, s1]

@[simp] theorem timeAndBbr_streamPump (s : State) (p : Nat) : timeAndBbr (streamPump s p) = timeAndBbr s := by
  simp [streamPump, timeAndBbr_foldl]

@[simp] theorem timeAndBbr_settle (s : State) : timeAndBbr (settle s) = timeAndBbr s := by
  unfold settle
  extract_lets s0 s1 s2
  have hs1 : timeAndBbr s1 = timeAndBbr s := (timeAndBbr_foldl timeAndBbr_fabSettle _ _).trans (timeAndBbr_replan s)
  have hs2 : timeAndBbr s2 = timeAndBbr s1 := (timeAndBbr_foldl (by simp) _ _).trans (timeAndBbr_foldl timeAndBbr_streamPump _ _)
  rw [timeAndBbr_freeHandles, hs2, hs1]

/-! ### Machine/Scheduler -/

@[simp] theorem timeAndBbr_freshRanks (p : Nat) (s : State) : timeAndBbr (freshRanks p s) = timeAndBbr s := rfl

/-! ### Machine/PortCtl -/

@[simp] theorem timeAndBbr_srExit (p : Nat) (s : State) : timeAndBbr (srExit p s) = timeAndBbr s := by simp [srExit]

@[simp] theorem timeAndBbr_farLost (p : Nat) (q : SubReq) (s : State) : timeAndBbr (farLost p q s) = timeAndBbr s := by
  unfold farLost
  split <;> simp

@[simp] theorem timeAndBbr_failOne (p : Nat) (started : Bool) (s : State) (q : SubReq) :
    timeAndBbr (failOne p started s q) = timeAndBbr s := by
  unfold failOne
  extract_lets s1
  have hs1 : timeAndBbr s1 = timeAndBbr s := by simp [s1]
  split <;> simp [hs1]

@[simp] theorem timeAndBbr_failAll (p : Nat) (s : State) : timeAndBbr (failAll p s).2 = timeAndBbr s := by
  unfold failAll
  extract_lets c started waiting open1 s1 s2 s3 s4
  have hs2 : timeAndBbr s2 = timeAndBbr s := timeAndBbr_foldl (timeAndBbr_failOne p true) _ _
  have hs3 : timeAndBbr s3 = timeAndBbr s2 := timeAndBbr_foldl (timeAndBbr_failOne p false) _ _
  have hs4 : timeAndBbr s4 = timeAndBbr s3 := timeAndBbr_foldl (by simp) _ _
  exact hs4.trans (hs3.trans hs2)

/-! ### Machine/Timebase -/

@[simp] theorem timeAndBbr_modTb (g : Timebase → Timebase) (s : State) : timeAndBbr (modTb g s) = timeAndBbr s := rfl

@[simp] theorem timeAndBbr_stepFinish (s : State) : timeAndBbr (stepFinish s) = timeAndBbr s := by simp [stepFinish, timeAndBbr_foldl]

@[simp] theorem timeAndBbr_stepAlign (s : State) : timeAndBbr (stepAlign s) = timeAndBbr s :=
  (timeAndBbr_stepFinish _).trans (timeAndBbr_foldl (by simp) _ _)

@[simp] theorem timeAndBbr_stepAbandon (s : State) : timeAndBbr (stepAbandon s) = timeAndBbr s := by
  unfold stepAbandon
  split
  · rfl
  extract_lets s1
  have hs1 : timeAndBbr s1 = timeAndBbr s := by
    unfold s1
    split <;> simp
  simp [hs1]

@[simp] theorem timeAndBbr_launchStat (s : State) : timeAndBbr (launchStat s) = timeAndBbr s := rfl

@[simp] theorem timeAndBbr_launchDrop (l : Nat) (s : State) : timeAndBbr (launchDrop l s) = timeAndBbr s := by
  simp [launchDrop, timeAndBbr_foldl]

@[simp] theorem timeAndBbr_launchEnd (l : Nat) (s : State) : timeAndBbr (launchEnd l s) = timeAndBbr s := by
  unfold launchEnd
  split <;> simp

@[simp] theorem timeAndBbr_launchCancel (l : Nat) (s : State) : timeAndBbr (launchCancel l s) = timeAndBbr s := by
  unfold launchCancel
  split
  · rfl
  · exact (timeAndBbr_launchEnd ..).trans (timeAndBbr_foldl (by simp) _ _)

/-! ### Machine/HostRun -/

@[simp] theorem timeAndBbr_pushRecord (q : Nat) (s : State) : timeAndBbr (pushRecord q s) = timeAndBbr s := by
  unfold pushRecord
  split
  · rfl
  · simp

@[simp] theorem timeAndBbr_pushAll (q n : Nat) (s : State) : timeAndBbr (pushAll q n s) = timeAndBbr s := by
  induction n generalizing s with
  | zero => rfl
  | succ n ih => simp [pushAll, ih]

/-! ### Machine/Protect -/

@[simp] theorem timeAndBbr_marchStop (s : State) : timeAndBbr (marchStop s) = timeAndBbr s := by
  unfold marchStop
  split <;> rfl

/-! ### Machine/Power -/

@[simp] theorem timeAndBbr_abortHandles (s : State) : timeAndBbr (abortHandles s) = timeAndBbr s := by simp [abortHandles, timeAndBbr_foldl]

@[simp] theorem timeAndBbr_pushRecords (s : State) : timeAndBbr (pushRecords s) = timeAndBbr s := by simp [pushRecords]

/-! ### Machine/Resets -/

@[simp] theorem timeAndBbr_homeClear (s : State) : timeAndBbr (homeClear s) = timeAndBbr s :=
  timeAndBbr_foldl (fun t r => by split <;> simp) _ _

@[simp] theorem timeAndBbr_ctxSoft (s : State) (c : Nat) : timeAndBbr (ctxSoft s c) = timeAndBbr s := by
  unfold ctxSoft
  split <;> simp

@[simp] theorem timeAndBbr_fabSoft (s : State) (n : Nat) : timeAndBbr (fabSoft s n) = timeAndBbr s := by simp [fabSoft, timeAndBbr_foldl]

@[simp] theorem timeAndBbr_softFinish (s : State) : timeAndBbr (softFinish s) = timeAndBbr s := by
  unfold softFinish
  extract_lets owed s0 s1 s2 s3 s4 s5 s6 s7 s8 s9 host pw s10
  have hs1 : timeAndBbr s1 = timeAndBbr s := (timeAndBbr_homeClear _).trans (timeAndBbr_foldl (by simp) _ _)
  have hs2 : timeAndBbr s2 = timeAndBbr s1 := by simp [s2]
  have hs3 : timeAndBbr s3 = timeAndBbr s2 :=
    (timeAndBbr_marchStop _).trans ((timeAndBbr_stepAbandon _).trans (timeAndBbr_foldl (by simp) _ _))
  have hs4 : timeAndBbr s4 = timeAndBbr s3 := timeAndBbr_foldl timeAndBbr_ctxSoft _ _
  have hs6 : timeAndBbr s6 = timeAndBbr s4 := by simp [s6, s5]
  have hs7 : timeAndBbr s7 = timeAndBbr s6 := timeAndBbr_foldl (by simp) _ _
  have hs8 : timeAndBbr s8 = timeAndBbr s7 := timeAndBbr_foldl (by simp) _ _
  have hs9 : timeAndBbr s9 = timeAndBbr s8 := timeAndBbr_foldl timeAndBbr_fabSoft _ _
  clear_value s9
  have hs10 : timeAndBbr s10 = timeAndBbr s9 := rfl
  rw [timeAndBbr_raise, timeAndBbr_setFld, timeAndBbr_setFld, hs10, hs9, hs8, hs7, hs6, hs4, hs3, hs2, hs1]

end Sys2Proof.Machine
end

section
/-!
What the engine does without a command (R110, logs 1 and 10): nothing where nothing waits (`settle_of_quiet`), and at an edge it counts one,
whatever else the edge brings (`timeAndBbr_idleTick`).
-/

namespace Sys2Proof.Machine

/-- A context that has nothing to do without a command is left alone. -/
theorem lantPump_of_none {c : Nat} {s : State} (h : lantStep c s = none) (k : Nat) : lantPump c k s = s := by
  cases k <;> simp [lantPump, h]

theorem mem_of_mget_eq_some {α : Type} {m : SMap α} {k : Nat} {a : α} (h : mget m k = some a) : (k, a) ∈ m := by
  induction m with
  | nil => simp [mget] at h
  | cons e m ih =>
    simp only [mget] at h
    split at h
    next hk => exact List.mem_cons.2 (.inl (Prod.ext hk.symm (Option.some.inj h).symm))
    next => exact List.mem_cons_of_mem _ (ih h)

/-- A port that no table entry names has no stream either. -/
theorem streams_portOf_of_all {s : State} (h : s.ports.all (fun e => e.2.streams.isEmpty) = true) (p : Nat) :
    (portOf s p).streams = [] := by
  rw [portOf, mgetD]
  cases hp : mget s.ports p with
  | none => rfl
  | some q => exact List.isEmpty_iff.1 (List.all_eq_true.1 h _ (mem_of_mget_eq_some hp))

theorem foldl_streamPump_of_all {s : State} (h : s.ports.all (fun e => e.2.streams.isEmpty) = true) (l : List Nat) :
    l.foldl streamPump s = s := by
  induction l with
  | nil => rfl
  | cons p l ih => rw [List.foldl_cons, streamPump, streams_portOf_of_all h, List.foldl_nil, ih]

theorem freeHandles_of_nil {s : State} (hs : s.host.handles = []) (h : Nat → Nat) : freeHandles h s = s := by simp [freeHandles, hs]

theorem settle_of_quiet {s : State} (h : Quiet s) : settle s = s := by
  obtain ⟨helig, hfab, hstreams, hhandles, hctx0, hctx1, hctx2, hctx3⟩ := h
  have hreplan : replan s = s := by rw [replan, if_pos helig]
  simp only [settle, hreplan, hfab, foldl_streamPump_of_all hstreams, List.map_nil, List.foldl_cons, List.foldl_nil,
    lantPump_of_none hctx0, lantPump_of_none hctx1, lantPump_of_none hctx2, lantPump_of_none hctx3, freeHandles_of_nil hhandles]

/-- Behind the edge itself, neither the idle timers nor the end of a soft reset move the clock or the count. -/
theorem timeAndBbr_idleTick (s : State) : timeAndBbr (idleTick s) = timeAndBbr (tickStep s) := by
  unfold idleTick
  extract_lets s1 s2
  have hs2 : timeAndBbr s2 = timeAndBbr s1 := by simp [s2]
  clear_value s2
  split
  · split
    · rw [timeAndBbr_settle, timeAndBbr_softFinish, hs2]
    · exact hs2
  · exact hs2

/-- Settles O55: `settle_keeps` gives the part and the queue, `timeAndBbr_settle` the rest. -/
theorem settling : Obligations.Settling := by
  unfold Obligations.Settling
  refine ⟨fun s => settle_of_quiet, fun s => ?_, fun s => ?_⟩
  · have hkeeps := settle_keeps (Keeps.refl s)
    have h := timeAndBbr_settle s
    simp only [timeAndBbr, Prod.mk.injEq] at h
    obtain ⟨hclk, hcount, hbbr⟩ := h
    exact ⟨hkeeps.part, hkeeps.pending, hclk, hcount, hbbr⟩
  · have h := timeAndBbr_idleTick s
    simp only [timeAndBbr, Prod.mk.injEq] at h
    obtain ⟨hclk, hcount, _⟩ := h
    exact ⟨hcount, hclk⟩

end Sys2Proof.Machine
end

section
/-!
The host commands that act on a unit of the engine rather than on a range of lines (R161, R191, R204, R209, R364, R367 to R371): what a
command that may start works on (`hostCommand_started`, `hostLong_started`), then one lemma for each command and outcome.
-/

namespace Sys2Proof.Machine

/-! ### The start of a command (R358, R359) -/

/-- The state in which the command of handle h starts: the engine active, the handle RUNNING. -/
abbrev started (h : BitVec 12) (s : State) : State := modHandle h.toNat (fun x => { x with st := .running }) (active s)

/-- Argument i of the command of handle h, as its start sees it. -/
abbrev startArg (h : BitVec 12) (s : State) (i : Nat) : Nat := argN (handleOf (started h s) h.toNat) i

/-- The port that the first argument names. -/
abbrev startPort (h : BitVec 12) (s : State) : Nat := bits (startArg h s 1) 0 5

/-- The state of a FENCE once its port is held and no release is asked. -/
abbrev fenceHeld (n : Nat) (u : State) : State :=
  modFab n (fun f => { f with relHost := false }) (setFld FP_FENCE_STAT_HOST n 1 (takeFence n u))

/-- The registers of a FED_TIME_SET ARM, written from its arguments (R364). -/
abbrev fedWritten (h : BitVec 12) (s : State) : State :=
  setFld TB_FED_CHECK 0 0 (setFld TB_FED_EOUT_EN 0 (bits (startArg h s 1) 2 1) (setFld TB_EADJ_ADJ 0 (bits (startArg h s 3) 0 16)
    (setFld TB_PRESET_LO_VAL 0 (bits (startArg h s 2) 0 32) (setFld TB_PRESET_HI_VAL 0 (bits (startArg h s 2) 32 32) (started h s)))))

theorem handleOf_modHandle (k : Nat) (g : Handle → Handle) (s : State) : handleOf (modHandle k g s) k = g (handleOf s k) := by
  simp [handleOf, modHandle, setHandle, mgetD, mget_mput]

@[simp] theorem host_active (s : State) : (active s).host = s.host := by
  unfold active
  split <;> rfl

/-- The start leaves the arguments of the descriptor as they were read. -/
theorem argN_handleOf_eq_startArg (h : BitVec 12) (s : State) (i : Nat) : argN (handleOf s h.toNat) i = startArg h s i := by
  have hsame : handleOf (active s) h.toNat = handleOf s h.toNat := by rw [handleOf, host_active, handleOf]
  rw [startArg, handleOf_modHandle, hsame, argN, argN]

section
variable {s : State} {h : BitVec 12} {opc : Nat}

theorem hostCommand_started (hstart : mayStart s h.toNat opc = true) (body : Handle → State → State) :
    hostCommand h.toNat opc body s = body (handleOf (started h s) h.toNat) (started h s) := by
  simp only [hostCommand, hstart, Bool.not_true, Bool.false_eq_true, if_false]

theorem st_of_mayStart (hstart : mayStart s h.toNat opc = true) : (handleOf s h.toNat).st = .queued := by
  simp only [mayStart, Bool.and_eq_true, decide_eq_true_eq] at hstart
  tauto

/-- A command that may start is not one that goes on. -/
theorem hostLong_started (hstart : mayStart s h.toNat opc = true) (first more : Handle → State → State) :
    hostLong h.toNat opc first more s = first (handleOf (started h s) h.toNat) (started h s) := by
  rw [hostLong, st_of_mayStart hstart]
  exact hostCommand_started hstart first

theorem retrain_started {level : Nat} (hstart : mayStart s h.toNat 3 = true) (hlevel : bits (startArg h s 1) 5 2 = level)
    (hservice : pstate (started h s) (startPort h s) = .service) (first more : Nat → State → State) :
    retrain h.toNat level first more s = first (startPort h s) (started h s) := by
  rw [retrain, argN_handleOf_eq_startArg, if_neg (not_not.2 hlevel), hostLong_started hstart]
  exact if_neg (not_not.2 hservice)

theorem rowRepair_started {hard : Bool} (hstart : mayStart s h.toNat 0xA = true) (hkind : decide (bits (startArg h s 1) 5 1 = 1) = hard)
    (hgranted : repairRefuse (started h s) (startPort h s) (startArg h s 2) = none) (go : Nat → Nat → State → State) :
    rowRepair h.toNat hard go s = go (startPort h s) (startArg h s 2) (started h s) := by
  rw [rowRepair, argN_handleOf_eq_startArg, hkind, bne_self_eq_false, if_neg Bool.false_ne_true, hostCommand_started hstart]
  simp only [hgranted]

theorem fedSet_started {mode : Nat} (hstart : mayStart s h.toNat 0x11 = true) (hmode : bits (startArg h s 1) 0 2 = mode)
    (body : Handle → State → State) : fedSet h.toNat mode body s = body (handleOf (started h s) h.toNat) (started h s) := by
  rw [fedSet, argN_handleOf_eq_startArg, if_neg (not_not.2 hmode), hostCommand_started hstart]

/-! ### TRAIN and RETRAIN (R204, R209) -/

theorem execTrain_test (hstart : mayStart s h.toNat 2 = true)
    (hlaunch : launchNames (started h s) (startPort h s) = false)
    (htest : pstate (started h s) (startPort h s) = .test) (failed : BitVec 4) :
    Does s (.train h failed)
      (runSteps h.toNat (startPort h s) (bits (startArg h s 1) 5 12) failed.toNat (started h s)) := by
  change execTrain h failed s = _
  simp only [execTrain, slotH, hostLong_started hstart, hlaunch, htest, Bool.false_eq_true, if_false]

theorem modTrain_congr {p : Nat} {g g' : Train → Train} (hsame : g (portOf s p).train = g' (portOf s p).train) :
    modTrain p g s = modTrain p g' s := by
  rw [modTrain, modTrain, modPort, modPort, hsame]

theorem waiters_startRound (p : Nat) (s : State) : (portOf (startRound p s) p).train.waiters = (portOf s p).train.waiters := by
  simp [startRound, modTrain]

/-- Where no round runs and none is waited for, the command is the only one behind the round that it starts. -/
theorem execRetrainTrack_idle (hstart : mayStart s h.toNat 3 = true) (hlevel : bits (startArg h s 1) 5 2 = 0)
    (hservice : pstate (started h s) (startPort h s) = .service)
    (hkind : cx2 (started h s) (startPort h s) = false)
    (hround : (portOf (started h s) (startPort h s)).train.roundOn = false)
    (hwaiters : (portOf (started h s) (startPort h s)).train.waiters = []) :
    Does s (.retrainTrack h) (modTrain (startPort h s) (fun y => { y with waiters := [h.toNat] })
      (startRound (startPort h s) (started h s))) := by
  have hjoin := modTrain_congr (s := startRound (startPort h s) (started h s)) (p := startPort h s)
    (g := fun y => { y with waiters := y.waiters ++ [h.toNat] }) (g' := fun y => { y with waiters := [h.toNat] })
    (by rw [waiters_startRound, hwaiters, List.nil_append])
  change execRetrainTrack h s = _
  simp only [execRetrainTrack, slotH, retrain_started hstart hlevel hservice, hkind, hround, hwaiters, hservice, hjoin, List.contains_nil,
    Bool.or_self, ne_eq, not_true_eq_false, decide_false, Bool.false_eq_true, if_false]

theorem execRetrainCsca_service (hstart : mayStart s h.toNat 3 = true) (hlevel : bits (startArg h s 1) 5 2 = 1)
    (hservice : pstate (started h s) (startPort h s) = .service) (failed : BitVec 4) :
    Does s (.retrainCsca h failed) (modSched (startPort h s) (fun q => { q with pauses := q.pauses ++
      [{ kind := kindCa, rank := h.toNat + 1, len := 1000 * dimmCount (started h s) (startPort h s),
         due := (started h s).clk }] }) (started h s)) := by
  change execRetrainCsca h failed s = _
  simp only [execRetrainCsca, slotH, retrain_started hstart hlevel hservice]

theorem execRetrainFull_quiet (hstart : mayStart s h.toNat 3 = true) (hlevel : bits (startArg h s 1) 5 2 = 2)
    (hservice : pstate (started h s) (startPort h s) = .service)
    (hset : setNames (started h s) (startPort h s) = false)
    (hquiet : portQuiet (closeAll (startPort h s) (started h s)) (startPort h s) = true) (failed : BitVec 4) :
    Does s (.retrainFull h failed) (runSteps h.toNat (startPort h s) 0xFFF failed.toNat
      (closeAll (startPort h s) (started h s))) := by
  change execRetrainFull h failed s = _
  simp only [execRetrainFull, slotH, retrain_started hstart hlevel hservice, hset, trainQuiet, hquiet, Bool.false_eq_true, if_true, if_false]

/-! ### ROW_REPAIR (R161) -/

theorem execRowRepairSoft_slot (hstart : mayStart s h.toNat 0xA = true) (hkind : bits (startArg h s 1) 5 1 = 0)
    (hgranted : repairRefuse (started h s) (startPort h s) (startArg h s 2) = none) {e : Nat}
    (hslot : repairSlot (started h s) (startPort h s) (startArg h s 2) = some e) :
    Does s (.rowRepairSoft h true) (softStartRepair (startPort h s) e (started h s)) := by
  have hsoft : decide (bits (startArg h s 1) 5 1 = 1) = false := by rw [hkind]; decide
  change execRowRepairSoft h true s = _
  simp only [execRowRepairSoft, slotH, rowRepair_started hstart hsoft hgranted, hslot, if_true]

theorem execRowRepairHard_granted (hstart : mayStart s h.toNat 0xA = true) (hkind : bits (startArg h s 1) 5 1 = 1)
    (hgranted : repairRefuse (started h s) (startPort h s) (startArg h s 2) = none) :
    Does s (.rowRepairHard h)
      (endHandle h.toNat 0 0 1 (hardRepair (startPort h s) (startArg h s 2) (started h s))) := by
  change execRowRepairHard h s = _
  simp only [execRowRepairHard, slotH, rowRepair_started hstart (decide_eq_true hkind) hgranted, done]

/-! ### LINK_LOOP (R191) -/

theorem execLinkLoop_test (hstart : mayStart s h.toNat 0xC = true)
    (htest : pstate (started h s) (startPort h s) = .test)
    (hloop : (portOf (started h s) (startPort h s)).link.loop = none) :
    Does s (.linkLoop h) (modLink (startPort h s) (fun l => { l with loop := some (bits (startArg h s 1) 7 9, some h.toNat,
      (started h s).clk + startArg h s 2 * edgesUs) }) (started h s)) := by
  change execLinkLoop h s = _
  simp [execLinkLoop, slotH, hostCommand_started hstart, htest, hloop]

/-! ### FENCE and UNFENCE (R367 to R371) -/

/-- A port that has nothing left to drain ends the command at once, with what it has discarded. -/
theorem execFence_drained (hstart : mayStart s h.toNat 0xE = true)
    (hdrained : flg (fenceHeld (startPort h s) (started h s)) FP_FENCE_STAT_DRAINED (startPort h s) = true) :
    Does s (.fence h) (endHandle h.toNat 0 0
      (fld (fenceHeld (startPort h s) (started h s)) FP_FENCE_STAT_DISCARD (startPort h s))
      (fenceHeld (startPort h s) (started h s))) := by
  change execFence h s = _
  simp only [execFence, slotH, hostCommand_started hstart, hdrained, if_true, done]

theorem execFence_waits (hstart : mayStart s h.toNat 0xE = true)
    (hdrained : flg (fenceHeld (startPort h s) (started h s)) FP_FENCE_STAT_DRAINED (startPort h s) = false) :
    Does s (.fence h) (modFab (startPort h s) (fun f => { f with fenceWait := f.fenceWait ++ [(h.toNat,
      if startArg h s 2 = 0 then 0
      else (fenceHeld (startPort h s) (started h s)).clk + startArg h s 2 * edgesUs)] })
      (fenceHeld (startPort h s) (started h s))) := by
  change execFence h s = _
  simp only [execFence, slotH, hostCommand_started hstart, hdrained, Bool.false_eq_true, if_false]

theorem execUnfence_waits (hstart : mayStart s h.toNat 0xF = true)
    (hhost : flg (started h s) FP_FENCE_STAT_HOST (startPort h s) = true)
    (hcfg : flg (started h s) FP_FENCE_STAT_CFG (startPort h s) = false) :
    Does s (.unfence h) (releaseFence (startPort h s) (modFab (startPort h s) (fun g => { g with
      relHost := true, unfenceWait := g.unfenceWait ++ [h.toNat] }) (started h s))) := by
  change execUnfence h s = _
  simp only [execUnfence, slotH, hostCommand_started hstart, hhost, hcfg, Bool.false_and, Bool.not_true, Bool.false_eq_true, if_false]

/-- A fence that the configuration still holds does not keep the command waiting: RESULT 1 says that it is there (log 53). -/
theorem execUnfence_configured (hstart : mayStart s h.toNat 0xF = true)
    (hhost : flg (started h s) FP_FENCE_STAT_HOST (startPort h s) = true)
    (hcfg : flg (started h s) FP_FENCE_STAT_CFG (startPort h s) = true)
    (hkeep : (fabOf (started h s) (startPort h s)).relCfg = false) :
    Does s (.unfence h) (endHandle h.toNat 0 0 1 (releaseFence (startPort h s)
      (modFab (startPort h s) (fun g => { g with relHost := true }) (started h s)))) := by
  change execUnfence h s = _
  simp only [execUnfence, slotH, hostCommand_started hstart, hhost, hcfg, hkeep, Bool.not_true, Bool.not_false, Bool.and_self,
    Bool.false_eq_true, if_true, if_false, done]

/-! ### FED_TIME_SET (R364) -/

theorem stepStart_armed (hreset : s.pw.inReset = false) (hlaunches : s.tb.launches = []) (hstep : s.tb.step = .none) :
    stepStart true s = modTb (fun b => { b with step := .armed }) (stepHold s) := by
  simp [stepStart, hreset, hlaunches, hstep]

theorem execFedTimeSetArm_free (hstart : mayStart s h.toNat 0x11 = true) (hmode : bits (startArg h s 1) 0 2 = 0)
    (hlaunches : (started h s).tb.launches = []) (hstep : (started h s).tb.step = .none)
    (hreset : (started h s).pw.inReset = false) :
    Does s (.fedTimeSetArm h) (arm (modTb (fun b => { b with fedArm := some (h.toNat, bits (startArg h s 3) 16 10) })
      (modTb (fun b => { b with step := .armed }) (stepHold (fedWritten h s))))) := by
  have hgo : stepStart true (fedWritten h s) = modTb (fun b => { b with step := .armed }) (stepHold (fedWritten h s)) :=
    stepStart_armed hreset hlaunches hstep
  change execFedTimeSetArm h s = _
  simp only [execFedTimeSetArm, slotH, fedSet_started hstart hmode, hgo, setFld_tb, hlaunches, hstep, decide_true, Bool.and_self, if_true]

theorem execFedTimeSetPulse_enabled (hstart : mayStart s h.toNat 0x11 = true) (hmode : bits (startArg h s 1) 0 2 = 1)
    (hout : flg (started h s) TB_FED_EOUT_EN = true) :
    Does s (.fedTimeSetPulse h) (endHandle h.toNat 0 0 0 (epochPulse (started h s))) := by
  change execFedTimeSetPulse h s = _
  simp only [execFedTimeSetPulse, slotH, fedSet_started hstart hmode, hout, if_true, done]

theorem execFedTimeSetPulse_disabled (hstart : mayStart s h.toNat 0x11 = true) (hmode : bits (startArg h s 1) 0 2 = 1)
    (hout : flg (started h s) TB_FED_EOUT_EN = false) :
    Does s (.fedTimeSetPulse h) (endHandle h.toNat 0x25 0 0 (started h s)) := by
  change execFedTimeSetPulse h s = _
  simp only [execFedTimeSetPulse, slotH, fedSet_started hstart hmode, hout, Bool.false_eq_true, if_false, done]

theorem execFedTimeSetTrim_measured (hstart : mayStart s h.toNat 0x11 = true) (hmode : bits (startArg h s 1) 0 2 = 2) {e : Int}
    (hmeasured : (started h s).tb.fedE = some e) :
    Does s (.fedTimeSetTrim h) (endHandle h.toNat 0 0 0 ((servicePorts (started h s)).foldl
      (fun t p => stageFld PT_FTRIM_FINE p
        (BitVec.ofInt 11 (fineOf (BitVec.ofNat 64 (startArg h s 4)).toInt e (clocksPerTick t p))).toNat t) (started h s))) := by
  change execFedTimeSetTrim h s = _
  simp only [execFedTimeSetTrim, slotH, fedSet_started hstart hmode, hmeasured, done]

end

/-- Settles O41, a clause for each command and outcome. -/
theorem hostUnits : Obligations.HostUnits := by
  unfold Obligations.HostUnits
  intro s h failed k u x a p f held fed
  exact ⟨fun hstart hlaunch htest => execTrain_test hstart hlaunch htest failed,
    execRetrainTrack_idle,
    fun hstart hlevel hservice => execRetrainCsca_service hstart hlevel hservice failed,
    fun hstart hlevel hservice hset hquiet => execRetrainFull_quiet hstart hlevel hservice hset hquiet failed,
    fun hstart hkind hgranted _ => execRowRepairSoft_slot hstart hkind hgranted,
    execRowRepairHard_granted, execLinkLoop_test, execFence_drained, execFence_waits, execUnfence_waits, execUnfence_configured,
    execFedTimeSetArm_free, execFedTimeSetPulse_enabled, execFedTimeSetPulse_disabled,
    fun hstart hmode _ => execFedTimeSetTrim_measured hstart hmode⟩

end Sys2Proof.Machine
end

section
/-!
The commands of a serial port's lanes and spare (R167 to R174, R206, R207, R210, R216): what an update of a lane, of the map or of the spare's
use leaves to be read, and the answer of each row where its condition holds.
-/

namespace Sys2Proof.Machine

section
variable {s t : State} {n k sp : Nat} {rx : Bool} {p : Fin 20}

/-! ### Arrivals, and what a port's link is behind an update of another part -/

theorem onPin_here (h : PortHere s p) (f : State → State) : onPin p s f = .next (settle (f s)) := by
  simp only [onPin, h, if_true]

@[simp] theorem portOf_modMarks (p r : Nat) (g : Marks → Marks) (s : State) :
    portOf (modMarks p g s) r = if r = p then { portOf s p with marks := g (portOf s p).marks } else portOf s r := portOf_modPort ..

@[simp] theorem portOf_modTrain (p r : Nat) (g : Train → Train) (s : State) :
    portOf (modTrain p g s) r = if r = p then { portOf s p with train := g (portOf s p).train } else portOf s r := portOf_modPort ..

/-- A cause latches in the first two words of interrupt registers and in the port word: every register behind them reads as before. -/
theorem fld_raise_of_high {f : Fld} (hf : 0x200 ≤ f.base) {c : Nat} (hc : c < 64) (u : Option Nat) (i : Nat) :
    fld (raise c s u) f i = fld s f i :=
  fld_raise_ne (by rw [Fld.off]; omega) (by rw [Fld.off]; omega)

theorem sameBytes_raise (c : Nat) (s : State) (u : Option Nat) : SameBytes s (raise c s u) := sameBytes_of_regs_only (raise_regs_only c s u)

/-- A packet that goes out changes the link's numbers and buffers alone. -/
theorem portOf_sendPacket (n : Nat) (x : Packet) (s : State) : ∃ seq retry sent credit, portOf (sendPacket n x s) n =
    { portOf s n with link := { (portOf s n).link with txSeq := seq, retry := retry, sent := sent, ctlCredit := credit } } := by
  unfold sendPacket
  split
  · exact ⟨_, _, _, _, (portOf_modLink ..).trans (if_pos rfl)⟩
  · exact ⟨_, _, _, _, rfl⟩

/-! ### Lanes (R167, R206) -/

@[simp] theorem laneOf_mput (m : SMap Lane) (j : Nat) (x : Lane) : laneOf (mput m j x) j = x := by simp [laneOf, mgetD, mget_mput]

theorem laneOf_modLane_rx (n j : Nat) (g : Lane → Lane) (s : State) :
    laneOf (portOf (modLane n true j g s) n).link.rx j = g (laneOf (portOf s n).link.rx j) := by
  simp [modLane]

/-- The bit of lane j of SL_STAT.RXLOCK reads as it was set. -/
theorem rxlock_setFld {j : Nat} (hj : j < 9) (x b : Nat) (s : State) :
    bits (fld (setFld SL_STAT_RXLOCK n (withBits x j 1 b) s) SL_STAT_RXLOCK n) j 1 = b % 2 := by
  rw [fld_setFld_same _ _ _ _ (by decide), bits_mod (by simpa [SL_STAT_RXLOCK] using hj), bits_withBits, Nat.pow_one]

/-! ### The map (R170) -/

theorem mapWord_setMap (n : Nat) (rx : Bool) (v : Nat) (s : State) : mapWord (setMap n rx v s) n rx = v % 2 ^ 32 := by
  cases rx
  · exact fld_setFld_same _ _ _ _ (by decide)
  · exact fld_setFld_same _ _ _ _ (by decide)

/-- A logical lane that is mapped anew stands on its new physical lane. -/
theorem physOf_mapLane (hk : k < 8) (hsp : sp < 16) (s : State) : physOf (mapLane n rx k sp s) n rx k = sp := by
  rw [physOf, mapLane, mapWord_setMap, bits_mod (by omega), bits_withBits]
  exact Nat.mod_eq_of_lt hsp

/-- The registers of the map are not those of another field of the link, nor of an interrupt. -/
theorem mapWord_setFld {f : Fld} (hrx : SL_LANE_RX_MAP.Apart f) (htx : SL_LANE_TX_MAP.Apart f) (v : Nat) :
    mapWord (setFld f n v s) n rx = mapWord s n rx := by
  rw [mapWord, mapWord, fld_setFld_apart hrx, fld_setFld_apart htx]

theorem mapWord_raise {c : Nat} (hc : c < 64) (u : Option Nat) : mapWord (raise c s u) n rx = mapWord s n rx := by
  rw [mapWord, mapWord, fld_raise_of_high (by decide) hc, fld_raise_of_high (by decide) hc]

/-! ### The spare (R171 to R174) -/

theorem spareOf_congr (h : portOf t n = portOf s n) (rx : Bool) : spareOf t n rx = spareOf s n rx := by rw [spareOf, h, spareOf]

theorem spareOf_setSpare (n : Nat) (rx : Bool) (u : SpareUse) (s : State) : spareOf (setSpare n rx u s) n rx = u := by
  cases rx <;> simp [spareOf, setSpare]

theorem train_setSpare (n : Nat) (rx : Bool) (u : SpareUse) (s : State) : (portOf (setSpare n rx u s) n).train = (portOf s n).train := by
  simp [setSpare]

theorem spareOf_sendPacket (x : Packet) : spareOf (sendPacket n x s) n rx = spareOf s n rx := by
  obtain ⟨seq, retry, sent, credit, hport⟩ := portOf_sendPacket n x s
  rw [spareOf, hport, spareOf]

theorem recalNextOf_sendPacket (x : Packet) : recalNextOf (sendPacket n x s) n rx = recalNextOf s n rx := by
  obtain ⟨seq, retry, sent, credit, hport⟩ := portOf_sendPacket n x s
  rw [recalNextOf, hport, recalNextOf]

theorem train_sendPacket (x : Packet) : (portOf (sendPacket n x s) n).train = (portOf s n).train := by
  obtain ⟨seq, retry, sent, credit, hport⟩ := portOf_sendPacket n x s
  rw [hport]

/-- SL_STAT.SPARE shows a spare that stands in. -/
theorem flg_setSpare {u : SpareUse} (hu : u.inPlace = true) (rx : Bool) (s : State) : flg (setSpare n rx u s) SL_STAT_SPARE n = true := by
  rw [setSpare, flg_setFld_same _ _ _ _ (by decide), if_pos]
  · rfl
  · cases rx <;> simp [spareOf, hu]

/-- The spare sp stands in for the logical lane k of a direction. -/
structure SpareStands (n : Nat) (rx : Bool) (k sp : Nat) (s t : State) : Prop where
  bytes : SameBytes s t
  phys : physOf t n rx k = sp
  spare : spareOf t n rx = .stands k
  shown : flg t SL_STAT_SPARE n = true

/-- The switch itself: the spare's use, the map, and the note that the spare was used. -/
def switched (n : Nat) (rx : Bool) (k sp : Nat) (s : State) : State :=
  modLink n (fun x => if rx then { x with usedRx := true } else { x with usedTx := true }) (mapLane n rx k sp (setSpare n rx (.stands k) s))

theorem spareStands_switched (hk : k < 8) (hsp : sp < 16) (s : State) : SpareStands n rx k sp s (switched n rx k sp s) := by
  have hspare := spareOf_setSpare n rx (.stands k) s
  have hshown : flg (setSpare n rx (.stands k) s) SL_STAT_SPARE n = true := flg_setSpare rfl rx s
  unfold switched
  cases rx with
  | true => exact ⟨⟨rfl, rfl, rfl, rfl⟩, physOf_mapLane hk hsp _, by simpa [spareOf, mapLane, setMap] using hspare,
      (flg_setFld_apart (by decide)).trans hshown⟩
  | false => exact ⟨⟨rfl, rfl, rfl, rfl⟩, physOf_mapLane hk hsp _, by simpa [spareOf, mapLane, setMap] using hspare,
      (flg_setFld_apart (by decide)).trans hshown⟩

namespace SpareStands

variable (h : SpareStands n rx k sp s t)
include h

theorem addFld_takeover (m : Nat) : SpareStands n rx k sp s (addFld SL_CNT1_TAKEOVER n m t) := by
  obtain ⟨hbytes, hphys, hspare, hshown⟩ := h
  exact ⟨hbytes, by rwa [physOf, addFld, mapWord_setFld (by decide) (by decide)], hspare, (flg_setFld_apart (by decide)).trans hshown⟩

theorem raise {c : Nat} (hc : c < 64) (u : Option Nat) : SpareStands n rx k sp s (Machine.raise c t u) := by
  obtain ⟨hbytes, hphys, hspare, hshown⟩ := h
  exact ⟨hbytes.trans (sameBytes_raise c t u), by rwa [physOf, mapWord_raise hc], by rwa [spareOf_congr (portOf_raise c t u n)],
    by rwa [flg, fld_raise_of_high (by decide) hc]⟩

end SpareStands

/-- A switch that is due raises its cause over the switched state, with the takeover counted where the lane was faulty. -/
theorem spareSwitch_shadow {at_ : Nat} (hshadow : spareOf s n rx = .shadow k at_) (hlane : spareLane s n rx = some sp) :
    spareSwitch n rx s = raise 14 (if (laneOf (lanesOf s n rx) (physOf s n rx k)).bad then
      addFld SL_CNT1_TAKEOVER n 1 (switched n rx k sp s) else switched n rx k sp s) (some n) := by
  unfold spareSwitch
  rw [hshadow, hlane]
  exact (apply_ite (fun u => raise 14 u (some n)) ..).symm

theorem spareStands_spareSwitch {at_ : Nat} (hshadow : spareOf s n rx = .shadow k at_) (hk : k < 8) (hlane : spareLane s n rx = some sp)
    (hsp : sp < 16) : SpareStands n rx k sp s (spareSwitch n rx s) ∧ bits (regAt (spareSwitch n rx s) 0x100 0) 14 1 = 1 := by
  have hstands := spareStands_switched (n := n) (rx := rx) hk hsp s
  rw [spareSwitch_shadow hshadow hlane]
  refine ⟨SpareStands.raise ?_ (by decide) _, bits_raise (c := 14) (by decide) _ _⟩
  split
  · exact hstands.addFld_takeover 1
  · exact hstands

/-- The turn of the lane k has begun, and the next is due at due. -/
def turnBegun (n : Nat) (rx : Bool) (k due : Nat) (s : State) : State :=
  modLink n (fun x => if rx then { x with recalDue := due } else { x with recalDueTx := due }) (setSpare n rx (.turn k s.clk) s)

theorem spareOf_turnBegun (n : Nat) (rx : Bool) (k due : Nat) (s : State) : spareOf (turnBegun n rx k due s) n rx = .turn k s.clk := by
  have hspare := spareOf_setSpare n rx (.turn k s.clk) s
  cases rx <;> simpa [turnBegun, spareOf] using hspare

/-- The turn of the lane k has ended, and its setting stays as it was: the next lane's turn follows. -/
def turnEnded (n : Nat) (rx : Bool) (k : Nat) (s : State) : State :=
  sendPacket n (.control 0x06 (k * 2 + (if rx then 1 else 0)))
    (modLink n (fun x => if rx then { x with recalNext := (k + 1) % 8 } else { x with recalNextTx := (k + 1) % 8 }) (setSpare n rx .idle s))

theorem turnEnded_frame (n : Nat) (rx : Bool) (k : Nat) (s : State) : SameBytes s (turnEnded n rx k s) ∧
    spareOf (turnEnded n rx k s) n rx = .idle ∧ recalNextOf (turnEnded n rx k s) n rx = (k + 1) % 8 ∧
    (portOf (turnEnded n rx k s) n).train.items = (portOf s n).train.items := by
  refine ⟨(sendPacket_frame n _ _).1, ?_, ?_, ?_⟩
  · have hspare := spareOf_setSpare n rx .idle s
    rw [turnEnded, spareOf_sendPacket]
    cases rx <;> simpa [spareOf] using hspare
  · rw [turnEnded, recalNextOf_sendPacket]
    cases rx <;> simp [recalNextOf]
  · rw [turnEnded, train_sendPacket, portOf_modLink, if_pos rfl, train_setSpare]

/-! ### The rows -/

section
variable (h : PortHere s p)
include h

theorem execLaneLockAcquired_on (hserial : serial p.val = true) (hst : pstate s p.val ≠ .off) (lane : Fin 9) :
    execLaneLockAcquired p lane s = .next (settle (setFld SL_STAT_RXLOCK p.val (withBits (fld s SL_STAT_RXLOCK p.val) lane.val 1 1)
      (modLane p.val true lane.val (fun x => { x with blockLock := true, cwLock := true }) s))) := by
  simp only [execLaneLockAcquired, onPin_here h, hserial, hst, decide_false, Bool.not_true, Bool.or_self, Bool.false_eq_true, if_false]

theorem execLaneLockLoss_stopped (hserial : serial p.val = true) (hruns : linkRuns s p.val = false) (lane : Fin 9) :
    execLaneLockLoss p lane s = .next (settle (setFld SL_STAT_RXLOCK p.val (withBits (fld s SL_STAT_RXLOCK p.val) lane.val 1 0)
      (modLane p.val true lane.val (fun x => { x with blockLock := false, cwLock := false, healthy := false }) s))) := by
  simp only [execLaneLockLoss, onPin_here h, hserial, hruns, Bool.not_true, Bool.not_false, Bool.false_eq_true, if_true, if_false]

theorem execLaneWeak_faulty (hnative : native s p.val = true) (hruns : linkRuns s p.val = true) {unc : Nat}
    (hunc : fld s SL_FAULT_UNC p.val ≤ unc) (lane : Fin 9) (symbols : Nat) :
    execLaneWeak p lane symbols unc s = .next (settle (laneFault p.val true lane.val (addFld SL_CNT1_UNCW p.val unc s))) := by
  simp only [execLaneWeak, onPin_here h, hnative, hruns, hunc, Bool.not_true, Bool.or_self, Bool.false_eq_true, if_true, if_false]

theorem execLaneWeak_weak (hnative : native s p.val = true) (hruns : linkRuns s p.val = true) {symbols unc : Nat}
    (hunc : unc < fld s SL_FAULT_UNC p.val) (hon : fld s SL_FAULT_SYM p.val ≠ 0) (hsym : fld s SL_FAULT_SYM p.val < symbols) (lane : Fin 9) :
    execLaneWeak p lane symbols unc s = .next (settle (laneWeak p.val true lane.val (addFld SL_CNT1_UNCW p.val unc s))) := by
  simp only [execLaneWeak, onPin_here h, hnative, hruns, Nat.not_le.2 hunc, hon, hsym, ne_eq, not_false_eq_true, decide_true, Bool.and_self,
    Bool.not_true, Bool.or_self, Bool.false_eq_true, if_true, if_false]

theorem execSpareSwitch_runs (hruns : linkRuns s p.val = true) (dir : Bool) :
    execSpareSwitch p dir s = .next (settle (spareSwitch p.val dir s)) := by
  simp only [execSpareSwitch, onPin_here h, hruns, if_true]

theorem execTakeoverTimeout_due (hserial : serial p.val = true) {dir : Bool} {at_ : Nat} (hshadow : spareOf s p.val dir = .shadow k at_)
    (hbad : (laneOf (lanesOf s p.val dir) (physOf s p.val dir k)).bad = true) (hdue : at_ + fld s SL_CTL_TKO p.val * edgesUs ≤ s.clk) :
    execTakeoverTimeout p dir s = .next (settle (linkLoss p.val s)) := by
  simp only [execTakeoverTimeout, onPort_here h, hshadow, hserial, hbad, hdue, decide_true, Bool.and_self, if_true]

theorem execRecalTurn_due {dir : Bool} (hnative : native s p.val = true) (hruns : linkRuns s p.val = true) (hst : pstate s p.val = .service)
    (hlink : fld s SL_STAT_LSTATE p.val = 0) (hen : flg s SL_RECAL_EN p.val = true) (hrate : rateWaits s p.val = false)
    (hdue : recalDueOf s p.val dir ≤ s.clk) (hpw : s.pw.st.toNat ≤ 1) (hused : spareUsed s p.val dir = false)
    (hidle : spareOf s p.val dir = .idle) (hlane : spareLane s p.val dir = some sp) (hgood : (laneOf (lanesOf s p.val dir) sp).bad = false) :
    execRecalTurn p dir s = .next (settle (turnBegun p.val dir (recalNextOf s p.val dir % 8)
      (s.clk + fld s SL_RECAL_CYCLE p.val * edgesMs / 8) s)) := by
  simp only [execRecalTurn, onPort_here h, hnative, hruns, hst, hlink, hen, hrate, hdue, hpw, hused, hidle, hlane, hgood, decide_true,
    Bool.not_false, Bool.and_self, Bool.not_true, Bool.false_eq_true, if_false, turnBegun]

theorem execRecalReturn_late {dir : Bool} {at_ : Nat} (hturn : spareOf s p.val dir = .turn k at_)
    (hlate : at_ + fld s SL_RECAL_HOLD p.val * edgesUs < s.clk) (runs : List Meas) :
    execRecalReturn p dir runs s = .next (settle (turnEnded p.val dir k s)) := by
  simp only [execRecalReturn, onPin_here h, hturn, Nat.not_le.2 hlate, if_false, turnEnded]

theorem execLaneSoak_link (hserial : serial p.val = true) (hst : pstate s p.val = .link) (lane : Fin 9) (r : SoakResult) :
    execLaneSoak p lane r s = .next (settle (laneSoak p.val lane.val r s)) := by
  simp only [execLaneSoak, onPin_here h, hserial, hst, decide_true, Bool.true_or, Bool.and_self, if_true]

theorem execDriftClamp_up (hserial : serial p.val = true) (hlink : fld s SL_STAT_LSTATE p.val = 0) (lane : Fin 9) :
    execDriftClamp p lane s =
      .next (settle (addFld TR_CNT1_CLAMP p.val 1 (modLink p.val (fun k => { k with recalNext := lane.val }) s))) := by
  simp only [execDriftClamp, onPort_here h, hserial, hlink, ne_eq, not_true_eq_false, decide_false, Bool.not_true, Bool.or_self,
    Bool.false_eq_true, if_false]

end

/-- The soak's verdict is the lane's health. -/
theorem healthy_laneSoak (n j : Nat) (r : SoakResult) (s : State) :
    (laneOf (portOf (laneSoak n j r s) n).link.rx j).healthy = soakOk s n r := by
  simp [laneSoak, noteQuality]

end

/-- Settles O34, a clause for each row. -/
theorem serialLanes : Obligations.SerialLanes := by
  unfold Obligations.SerialLanes
  intro s p lane dir symbols unc runs r n j h hserial
  refine ⟨fun hst => ⟨_, execLaneLockAcquired_on h hserial hst lane, ⟨rfl, rfl, rfl, rfl⟩, rxlock_setFld lane.isLt _ _ _, ?locked⟩,
    fun hruns => ⟨_, execLaneLockLoss_stopped h hserial hruns lane, ⟨rfl, rfl, rfl, rfl⟩, rxlock_setFld lane.isLt _ _ _, ?lost⟩,
    fun hnative hruns => ⟨fun hunc => execLaneWeak_faulty h hnative hruns hunc lane symbols,
      fun hunc hon hsym => execLaneWeak_weak h hnative hruns hunc hon hsym lane⟩,
    ?switch, fun k at_ => execTakeoverTimeout_due h hserial,
    fun hnative hruns hst hlink hen hrate hdue hpw hused sp hidle hlane hgood =>
      ⟨_, execRecalTurn_due h hnative hruns hst hlink hen hrate hdue hpw hused hidle hlane hgood, ⟨rfl, rfl, rfl, rfl⟩, spareOf_turnBegun ..⟩,
    fun k at_ hturn hlate => ⟨_, execRecalReturn_late h hturn hlate runs, turnEnded_frame ..⟩,
    fun hst => execLaneSoak_link h hserial hst lane r, healthy_laneSoak n j r s, fun hlink => execDriftClamp_up h hserial hlink lane⟩
  case locked =>
    rw [portOf_setFld, laneOf_modLane_rx]
    exact ⟨rfl, rfl⟩
  case lost => rw [portOf_setFld, laneOf_modLane_rx]
  case switch =>
    intro hruns k at_ sp hshadow hk hlane hsp
    obtain ⟨⟨hbytes, hphys, hspare, hshown⟩, hcause⟩ := spareStands_spareSwitch hshadow hk hlane (by omega)
    exact ⟨_, execSpareSwitch_runs h hruns dir, hbytes, hphys, hspare, hshown, hcause⟩

end Sys2Proof.Machine
end

section
/-!
The commands of a serial port's link (R168, R170, R176, R186, R188, R189, R197, R198): the map word that LINKUP builds, what a resumption replays,
and the answer of each row where its condition holds.
-/

namespace Sys2Proof.Machine

section
variable {s t : State} {n : Nat} {p : Fin 20}

/-! ### The map that a LINKUP puts in force (R168, R170) -/

/-- The word of the hexadecimal digits d 0 to d (m - 1), lowest first. -/
def hexWord (d : Nat → Nat) (m : Nat) : Nat := (List.range m).foldl (fun v k => v + d k * 2 ^ (4 * k)) 0

theorem hexWord_succ (d : Nat → Nat) (m : Nat) : hexWord d (m + 1) = hexWord d m + d m * 2 ^ (4 * m) := by
  simp [hexWord, List.range_succ]

theorem hexWord_lt {d : Nat → Nat} (hd : ∀ k, d k < 16) (m : Nat) : hexWord d m < 2 ^ (4 * m) := by
  induction m with
  | zero => exact Nat.one_pos
  | succ m ih =>
    have hdigit : d m * 2 ^ (4 * m) ≤ 15 * 2 ^ (4 * m) := Nat.mul_le_mul_right _ (Nat.le_of_lt_succ (hd m))
    rw [hexWord_succ, Nat.mul_succ, Nat.pow_add]
    omega

theorem bits_hexWord {d : Nat → Nat} (hd : ∀ k, d k < 16) {i m : Nat} (hi : i < m) : bits (hexWord d m) (4 * i) 4 = d i := by
  simp only [bits, Nat.shiftRight_eq_div_pow]
  induction m with
  | zero => exact absurd hi (Nat.not_lt_zero i)
  | succ m ih =>
    rw [hexWord_succ]
    obtain hlow | rfl := Nat.lt_succ_iff_lt_or_eq.1 hi
    · have hsplit : d m * 2 ^ (4 * m) = 2 ^ (4 * i) * (2 ^ 4 * (d m * 2 ^ (4 * (m - i - 1)))) := by
        rw [show 4 * m = 4 * i + (4 + 4 * (m - i - 1)) by omega, Nat.pow_add, Nat.pow_add]
        ring
      rw [hsplit, Nat.add_mul_div_left _ _ (Nat.two_pow_pos _), Nat.add_mul_mod_self_left, ih hlow]
    · rw [Nat.add_mul_div_right _ _ (Nat.two_pow_pos _), Nat.div_eq_of_lt (hexWord_lt hd i), Nat.zero_add]
      exact Nat.mod_eq_of_lt (hd i)

/-- Logical lane k of the map word stands on the lane that the list names at k, where the list's lanes have four bits. -/
theorem bits_mapOf {l : List Nat} (hl : ∀ j ∈ l, j < 16) {i m : Nat} (hi : i < 8) (him : i < m) :
    bits (mapOf l m) (4 * i) 4 = (l[i]?).getD 15 := by
  have hdigit (k : Nat) : (if k < m then (l[k]?).getD 15 else 15) < 16 := by
    split
    · cases hk : l[k]? with
      | none => decide
      | some j => exact hl j (List.mem_of_getElem? hk)
    · decide
  exact (bits_hexWord hdigit hi).trans (if_pos him)

theorem lt_of_mem_healthyOf {rx : Bool} {v : BitVec 9} {j : Nat} (hj : j ∈ healthyOf s n rx v) : j < 16 := by
  have hlt := List.mem_range.1 (List.mem_filter.1 hj).1
  omega

/-- Both sides hold eight lanes. -/
abbrev FullWidth (a b : List Nat) : Prop := 8 ≤ a.length ∧ 8 ≤ b.length

/-- The registers that a LINKUP writes: both maps, no faulty lane, LSTATE 0 and the width. -/
def mapRegs (n : Nat) (a b : List Nat) (s : State) : State :=
  let m := if FullWidth a b then 8 else 4
  setFld SL_STAT_WIDTH n (if FullWidth a b then 1 else 2) (setFld SL_STAT_LSTATE n 0 (setFld SL_STAT_RXBAD n 0 (setFld SL_STAT_TXBAD n 0
    (setMap n true (mapOf a m) (setMap n false (mapOf b m) s)))))

/-- LINKUP changes the link's own state, writes the registers of the map, and raises a cause where lanes are missing. -/
theorem linkMap_eq (n : Nat) (a b : List Nat) (s : State) : ∃ g, linkMap n a b s =
    if FullWidth a b then mapRegs n a b (modLink n g s) else raise 13 (mapRegs n a b (modLink n g s)) (some n) := by
  by_cases hfull : FullWidth a b
  · obtain ⟨ha, hb⟩ := hfull
    simp only [linkMap, mapRegs, FullWidth, ha, hb, decide_true, Bool.and_self, and_self, if_true]
    exact ⟨_, rfl⟩
  · have hpart : (decide (8 ≤ a.length) && decide (8 ≤ b.length)) = false := by simpa [FullWidth] using hfull
    simp only [linkMap, mapRegs, hfull, hpart, Bool.false_eq_true, if_false]
    exact ⟨_, rfl⟩

theorem sameBytes_setMap (n : Nat) (rx : Bool) (v : Nat) (s : State) : SameBytes s (setMap n rx v s) := by
  unfold setMap
  split <;> exact ⟨rfl, rfl, rfl, rfl⟩

theorem sameBytes_mapRegs (n : Nat) (a b : List Nat) (s : State) : SameBytes s (mapRegs n a b s) := by
  unfold mapRegs
  extract_lets m
  exact (sameBytes_setMap n false (mapOf b m) s).trans (sameBytes_setMap n true (mapOf a m) _)

theorem mapRegs_width (n : Nat) (a b : List Nat) (s : State) :
    fld (mapRegs n a b s) SL_STAT_WIDTH n = if FullWidth a b then 1 else 2 := by
  rw [mapRegs, fld_setFld_same _ _ _ _ (by decide)]
  split <;> rfl

theorem mapRegs_map (n : Nat) (rx : Bool) (a b : List Nat) (s : State) : mapWord (mapRegs n a b s) n rx =
    mapOf (if rx then a else b) (if FullWidth a b then 8 else 4) % 2 ^ 32 := by
  rw [mapRegs, mapWord_setFld (by decide) (by decide), mapWord_setFld (by decide) (by decide), mapWord_setFld (by decide) (by decide),
    mapWord_setFld (by decide) (by decide)]
  cases rx with
  | true => exact mapWord_setMap n true _ _
  | false => exact (fld_setFld_apart (by decide)).trans (mapWord_setMap n false _ s)

/-- The maps of a and b are in force, with the width that they allow. -/
structure MapInForce (n : Nat) (a b : List Nat) (s t : State) : Prop where
  bytes : SameBytes s t
  width : fld t SL_STAT_WIDTH n = if FullWidth a b then 1 else 2
  map : ∀ rx, mapWord t n rx = mapOf (if rx then a else b) (if FullWidth a b then 8 else 4) % 2 ^ 32

theorem mapInForce_mapRegs (n : Nat) (a b : List Nat) (s : State) : MapInForce n a b s (mapRegs n a b s) :=
  ⟨sameBytes_mapRegs n a b s, mapRegs_width n a b s, fun rx => mapRegs_map n rx a b s⟩

theorem MapInForce.raise {a b : List Nat} (h : MapInForce n a b s t) {c : Nat} (hc : c < 64) (u : Option Nat) :
    MapInForce n a b s (Machine.raise c t u) :=
  ⟨h.bytes.trans (sameBytes_raise c t u), (fld_raise_of_high (by decide) hc u n).trans h.width, fun rx => (mapWord_raise hc u).trans (h.map rx)⟩

theorem mapInForce_linkMap (n : Nat) (a b : List Nat) (s : State) : MapInForce n a b s (linkMap n a b s) := by
  obtain ⟨g, hmap⟩ := linkMap_eq n a b s
  obtain ⟨hbytes, hwidth, hword⟩ := mapInForce_mapRegs n a b (modLink n g s)
  have hregs : MapInForce n a b s (mapRegs n a b (modLink n g s)) := ⟨hbytes, hwidth, hword⟩
  rw [hmap]
  split_ifs
  · exact hregs
  · exact hregs.raise (by decide) _

theorem MapInForce.physOf {a b : List Nat} (h : MapInForce n a b s t) (ha : ∀ j ∈ a, j < 16) (hb : ∀ j ∈ b, j < 16) {i : Nat} (hi : i < 4) :
    physOf t n true i = (a[i]?).getD 15 ∧ physOf t n false i = (b[i]?).getD 15 := by
  have hlanes : i < if FullWidth a b then 8 else 4 := by split <;> omega
  rw [Machine.physOf, Machine.physOf, h.map, h.map, bits_mod (by omega), bits_mod (by omega)]
  exact ⟨bits_mapOf ha (by omega) hlanes, bits_mapOf hb (by omega) hlanes⟩

/-- The state of the link after a LINKUP of a cold enable. -/
def linkedUp (n : Nat) (a b : List Nat) (s : State) : State :=
  resetSeq n (modLink n (fun k => { k with rate := BitVec.ofNat 2 (rateOf s n), cap := [], lost := false }) (linkMap n a b s))

theorem mapInForce_linkedUp (n : Nat) (a b : List Nat) (s : State) : MapInForce n a b s (linkedUp n a b s) := by
  obtain ⟨hbytes, hwidth, hword⟩ := mapInForce_linkMap n a b s
  exact ⟨hbytes, hwidth, hword⟩

theorem link_linkedUp (n : Nat) (a b : List Nat) (s : State) : (portOf (linkedUp n a b s) n).link.txSeq = 0 ∧
    (portOf (linkedUp n a b s) n).link.rxSeq = 0 ∧ (portOf (linkedUp n a b s) n).link.retry = [] := by
  simp [linkedUp, resetSeq]

/-! ### What a resumption replays (R186, R188) -/

/-- What a resumption must leave: the memories, and of the link of port n what it still holds and that it has resumed. -/
def replayView (n : Nat) (s : State) : (SMap Byte × SMap Byte × SMap Byte × SMap Byte) × List Packet × Bool :=
  ((s.dram, s.spad, s.lant.prog, s.lant.data), (portOf s n).link.retry, (portOf s n).link.relinked)

theorem sameBytes_of_replayView (h : replayView n t = replayView n s) : SameBytes s t := by
  simpa [replayView] using congrArg Prod.fst h

/-- An update of a port that leaves its link's buffer and its resumption alone. -/
theorem replayView_modPort (g : Port → Port) (hretry : ∀ q, (g q).link.retry = q.link.retry)
    (hrelinked : ∀ q, (g q).link.relinked = q.link.relinked) (m : Nat) (s : State) : replayView n (modPort m g s) = replayView n s := by
  by_cases hn : n = m
  · subst hn
    simp [replayView, hretry, hrelinked]
  · simp [replayView, hn]

@[simp] theorem replayView_modSched (m : Nat) (g : Sched → Sched) (s : State) : replayView n (modSched m g s) = replayView n s :=
  replayView_modPort (fun q => { q with sched := g q.sched }) (fun _ => rfl) (fun _ => rfl) m s

@[simp] theorem replayView_modDram (m : Nat) (g : DramSt → DramSt) (s : State) : replayView n (modDram m g s) = replayView n s :=
  replayView_modPort (fun q => { q with dram := g q.dram }) (fun _ => rfl) (fun _ => rfl) m s

@[simp] theorem replayView_modMarks (m : Nat) (g : Marks → Marks) (s : State) : replayView n (modMarks m g s) = replayView n s :=
  replayView_modPort (fun q => { q with marks := g q.marks }) (fun _ => rfl) (fun _ => rfl) m s

@[simp] theorem replayView_modLink {g : Link → Link} (hretry : ∀ k, (g k).retry = k.retry)
    (hrelinked : ∀ k, (g k).relinked = k.relinked) (m : Nat) (s : State) : replayView n (modLink m g s) = replayView n s :=
  replayView_modPort (fun q => { q with link := g q.link }) (fun q => hretry q.link) (fun q => hrelinked q.link) m s

@[simp] theorem replayView_modTb (g : Timebase → Timebase) (s : State) : replayView n (modTb g s) = replayView n s := rfl

@[simp] theorem replayView_setFld (f : Fld) (i v : Nat) (s : State) : replayView n (setFld f i v s) = replayView n s := rfl

@[simp] theorem replayView_addFld (f : Fld) (i v : Nat) (s : State) : replayView n (addFld f i v s) = replayView n s := rfl

@[simp] theorem replayView_raise (c : Nat) (s : State) (u : Option Nat) : replayView n (raise c s u) = replayView n s := by
  obtain ⟨hdram, hspad, hprog, hdata⟩ := sameBytes_raise c s u
  rw [replayView, replayView, hdram, hspad, hprog, hdata, portOf_raise]

@[simp] theorem replayView_setPstate (m : Nat) (x : PState) (s : State) : replayView n (setPstate m x s) = replayView n s := by
  unfold setPstate
  split <;> rfl

@[simp] theorem replayView_freshRanks (m : Nat) (s : State) : replayView n (freshRanks m s) = replayView n s := replayView_modSched ..

@[simp] theorem replayView_srExit (m : Nat) (s : State) : replayView n (srExit m s) = replayView n s := by simp [srExit]

theorem replayView_foldl {α : Type} {g : State → α → State} (hg : ∀ t x, replayView n (g t x) = replayView n t) (l : List α) (s : State) :
    replayView n (l.foldl g s) = replayView n s := by
  induction l generalizing s with
  | nil => rfl
  | cons x l ih => rw [List.foldl_cons, ih, hg]

@[simp] theorem replayView_stepFinish (s : State) : replayView n (stepFinish s) = replayView n s := by
  unfold stepFinish
  extract_lets s1
  have hs1 : replayView n s1 = replayView n s := replayView_foldl (fun t m => replayView_srExit m t) _ _
  split
  · rfl
  · simp [hs1]

@[simp] theorem replayView_alignedNow (m : Nat) (s : State) : replayView n (alignedNow m s) = replayView n s := by
  unfold alignedNow
  extract_lets d s2 was s1
  have hs2 : replayView n s2 = replayView n s := by simp [s2]
  have hs1 : replayView n s1 = replayView n s := by
    unfold s1
    split
    · simp
    · split_ifs <;> simp [hs2]
    · rfl
  rw [replayView_stepFinish, hs1]

@[simp] theorem replayView_voidMarks (m : Nat) (s : State) : replayView n (voidMarks m s) = replayView n s := by
  unfold voidMarks
  extract_lets any1
  split <;> simp

/-- An acknowledgement of a packet that is still held leaves the packets behind it. -/
theorem ackTo_held {ack : BitVec 12}
    (hheld : ((portOf s n).link.txSeq - ack).toNat ≤ (portOf s n).link.retry.length) : SameBytes s (ackTo n ack s) ∧
    (portOf (ackTo n ack s) n).link.retry =
      (portOf s n).link.retry.drop ((portOf s n).link.retry.length - ((portOf s n).link.txSeq - ack).toNat) := by
  unfold ackTo
  extract_lets k left kept waits done
  rw [if_neg (Nat.not_lt.2 hheld), portOf_modLink, if_pos rfl]
  exact ⟨⟨rfl, rfl, rfl, rfl⟩, rfl⟩

/-- The link is lost and its lanes run again; the other side waits for a number that is still held. -/
structure MayResume (n : Nat) (seq : BitVec 12) (s : State) : Prop where
  lost : (portOf s n).link.lost = true
  waits : (portOf s n).link.relinked = false
  inTime : (portOf s n).link.timedOut = false
  runs : linkRuns s n = true
  held : ((portOf s n).link.txSeq - seq).toNat ≤ (portOf s n).link.retry.length

/-- The link has resumed, and holds for replay the packets from the number seq on. -/
def Replays (n : Nat) (seq : BitVec 12) (s t : State) : Prop :=
  SameBytes s t ∧ (portOf t n).link.relinked = true ∧ (portOf t n).link.retry =
    (portOf s n).link.retry.drop ((portOf s n).link.retry.length - ((portOf s n).link.txSeq - seq).toNat)

theorem replays_resumeFrom {seq : BitVec 12} (h : MayResume n seq s) : Replays n seq s (resumeFrom n seq s) := by
  obtain ⟨hlost, hwaits, htime, hruns, hheld⟩ := h
  obtain ⟨hbytes, hretry⟩ := ackTo_held hheld
  unfold resumeFrom
  extract_lets k go s1 s2
  have hs2 : replayView n s2 = replayView n (ackTo n seq s) := by
    unfold s2 s1
    split <;> simp
  have hgo : replayView n (go s2) = ((replayView n s2).1, (replayView n s2).2.1, true) := by simp [go, replayView]
  have hresumed {u : State} (hu : replayView n u = replayView n (go s2)) : Replays n seq s u := by
    rw [hgo, hs2] at hu
    simp only [replayView, Prod.mk.injEq] at hu
    obtain ⟨⟨hdram, hspad, hprog, hdata⟩, hkept, hrelinked⟩ := hu
    exact ⟨hbytes.trans ⟨hdram, hspad, hprog, hdata⟩, hrelinked, hkept.trans hretry⟩
  rw [if_neg (by simp [k, hlost, hwaits, hruns]), if_neg (by simp [k, htime]), if_neg (Nat.not_lt.2 hheld)]
  split
  · exact hresumed (replayView_alignedNow ..)
  · exact hresumed rfl

/-! ### The rows -/

section
variable (h : PortHere s p)
include h

theorem execLinkup_link (hserial : serial p.val = true) (hst : pstate s p.val = .link) {rx tx : BitVec 9}
    (ha : 4 ≤ (healthyOf s p.val true rx).length) (hb : 4 ≤ (healthyOf s p.val false tx).length) : execLinkup p rx tx s =
      .next (settle (linkedUp p.val (healthyOf s p.val true rx) (healthyOf s p.val false tx) s)) := by
  simp only [execLinkup, onPin_here h, hserial, hst, linkup, Nat.not_lt.2 ha, Nat.not_lt.2 hb, decide_true, decide_false, Bool.true_or,
    Bool.or_self, Bool.and_self, Bool.false_eq_true, if_true, if_false, linkedUp]

theorem execRelink_replays {seq : BitVec 12} (hresume : MayResume p.val seq s) :
    ∃ t, execRelink p seq s = .next (settle t) ∧ Replays p.val seq s t :=
  ⟨_, onPin_here h _, replays_resumeFrom hresume⟩

/-- A RESUME without self-refresh is a resumption of the link as it is. -/
theorem execResume_replays {seq : BitVec 12} (hresume : MayResume p.val seq s) (lost : BitVec 16) :
    ∃ t, execResume p seq lost false s = .next (settle t) ∧ Replays p.val seq s t := by
  obtain ⟨hlost, hwaits, htime, hruns, hheld⟩ := hresume
  have hresumed := replays_resumeFrom (s := modLink p.val (fun k => { k with srSelf := false || k.srSelf }) s) (n := p.val) (seq := seq)
    ⟨by simpa using hlost, by simpa using hwaits, by simpa using htime, hruns, by simpa using hheld⟩
  simp only [Replays, portOf_modLink, if_true] at hresumed
  refine ⟨_, ?_, hresumed⟩
  simp only [execResume, onPin_here h, hlost, hruns, Bool.and_self, Bool.not_true, Bool.false_eq_true, if_false]

theorem execLinkTimeout_due (hserial : serial p.val = true) (hst : pstate s p.val = .linkDown) (hlost : (portOf s p.val).link.lost = true)
    (htime : (portOf s p.val).link.timedOut = false)
    (hdue : (portOf s p.val).link.lostAt + fld s SL_CTL_TMO p.val * edgesMs ≤ s.clk) :
    let c := failAll p.val (goodAll p.val ((portOf s p.val).sched.retry.takeWhile fun i => acked s p.val i).length s)
    execLinkTimeout p s = .next (settle (modLink p.val (fun x => { x with retry := [], timedOut := true, srSelf := true })
      (addFld TS_CNT1_LINKFAIL p.val c.1 c.2))) := by
  simp only [execLinkTimeout, onPort_here h, hserial, hst, hlost, htime, hdue, decide_true, Bool.not_false, Bool.and_self, Bool.not_true,
    Bool.false_eq_true, if_false]

theorem execLinkUpTimeout_due (hserial : serial p.val = true) (hst : pstate s p.val = .link)
    (hdue : (portOf s p.val).link.linkAt + fld s SL_CTL_TMO p.val * edgesMs ≤ s.clk) :
    execLinkUpTimeout p s = .next (settle (refusePort p.val 0xA 0 0 s)) := by
  simp only [execLinkUpTimeout, onPort_here h, hserial, hst, hdue, decide_true, Bool.and_self, if_true]

theorem execRateChange_waits (hpause : (portOf s p.val).sched.pause = none) (hwaits : rateWaits s p.val = true)
    (hst : pstate s p.val = .service)
    (hfree : ∀ m < 20, (portOf s m).sched.pauses.all (fun x => decide (x.kind ≠ kindRate)) = true) :
    execRateChange p s = .next (settle (modSched p.val (fun y => { y with pauses := y.pauses ++
      [{ kind := kindRate, rank := 0, len := 800, due := s.clk }] }) s)) := by
  have hnone : ((List.range 20).any fun m => (portOf s m).sched.pauses.any fun x => decide (x.kind = kindRate)) = false := by
    simpa using hfree
  simp only [execRateChange, onPort_here h, rateChange, hpause, hwaits, hst, hnone, decide_true, Bool.not_false, Bool.and_self, if_true]

theorem execSlCntClear_awake (hserial : serial p.val = true) {v : Word} (hreset : s.pw.inReset = false) (hclr : v.getLsbD 0 = true) :
    execSlCntClear p v s = .next (settle (setWord (SL_CNT0_CRCERR.off p.val) 0 (setWord (SL_CNT1_UNCW.off p.val) 0
      (setWord (SL_CNT2_LOOPERR.off p.val) 0 s)))) := by
  simp only [execSlCntClear, onPort_here h, hserial, hreset, hclr, Bool.not_false, Bool.and_self, if_true]

end

end

/-- Settles O35, a clause for each row. -/
theorem serialLink : Obligations.SerialLink := by
  unfold Obligations.SerialLink
  intro s p rx tx seq v n k a b h hserial
  refine ⟨fun hst ha hb => ?linkup,
    fun hlost hwaits htime hruns hheld => execRelink_replays h ⟨hlost, hwaits, htime, hruns, hheld⟩,
    fun hlost hwaits htime hruns hheld lost => execResume_replays h ⟨hlost, hwaits, htime, hruns, hheld⟩ lost,
    execLinkTimeout_due h hserial, execLinkUpTimeout_due h hserial, execRateChange_waits h,
    fun hreset hclr => ⟨_, execSlCntClear_awake h hserial hreset hclr, fld_setWord_zero rfl, fld_setWord_zero rfl,
      fld_setWord_zero_of_zero (fld_setWord_zero rfl), fld_setWord_zero_of_zero (fld_setWord_zero rfl),
      fld_setWord_zero_of_zero (fld_setWord_zero_of_zero (fld_setWord_zero rfl)),
      fld_setWord_zero_of_zero (fld_setWord_zero_of_zero (fld_setWord_zero rfl))⟩⟩
  case linkup =>
    have hmap := mapInForce_linkedUp n a b s
    obtain ⟨htx, hrx, hretry⟩ := link_linkedUp n a b s
    exact ⟨_, execLinkup_link h hserial hst ha hb, hmap.bytes, hmap.width, htx, hrx, hretry,
      fun i hi => hmap.physOf (fun _ => lt_of_mem_healthyOf) (fun _ => lt_of_mem_healthyOf) hi⟩

end Sys2Proof.Machine
end

section
/-!
Tracking (R208 to R217, R221): what an item's value and the counters of a port read after a result is judged, and the answer of each row where its
condition holds.
-/

namespace Sys2Proof.Machine

section
variable {s t : State} {n k : Nat} {p : Fin 20}

/-! ### A counter and an item behind an update -/

theorem fld_addFld_same {f : Fld} (h : f.lo + f.w ≤ 32) (i m : Nat) (s : State) :
    fld (addFld f i m s) f i = min (fld s f i + m) (2 ^ f.w - 1) := by
  have hpos := Nat.two_pow_pos f.w
  rw [addFld, fld_setFld_same _ _ _ _ h, Nat.mod_eq_of_lt (by omega)]

/-- An item's value is read from the port's own state: no register word and no log holds it. -/
theorem itemVal_congr (h : portOf t n = portOf s n) (k : Nat) : itemVal t n k = itemVal s n k := by
  rw [itemVal, h, itemVal]

theorem itemOf_val (s : State) (n k : Nat) : (itemOf s n k).val = itemVal s n k := by
  rw [itemOf, mgetD, itemVal]
  cases mget (portOf s n).train.items k <;> rfl

theorem itemVal_setItem (n k : Nat) (i : Item) (s : State) : itemVal (setItem n k i s) n k = i.val := by
  simp [itemVal, setItem, pendStat, mget_mput]

/-- Of the registers an item that is set moves TR_STAT.PEND alone. -/
theorem fld_setItem {f : Fld} (h : f.Apart TR_STAT_PEND) (k : Nat) (i : Item) (s : State) : fld (setItem n k i s) f n = fld s f n :=
  fld_setFld_apart h

/-! ### A result is judged (R213 to R215) -/

section
variable {m : Meas}

/-- A value on the host's side comes into force as it is accepted. -/
theorem judgeItem_accepted (hosc : m.step ≠ 0xA) (hside : dramSide m = false) (hok : resultOk s n m = true) :
    judgeItem n m s = setItem n (itemKey m) { itemOf s n (itemKey m) with val := meanTo (itemVal s n (itemKey m)) m.r1 m.r2, rejects := 0 }
      (addFld TR_CNT0_ACCEPT n 1 s) := by
  simp only [judgeItem, hok, accept, hosc, hside, itemOf_val, if_true, if_false, Bool.false_eq_true]

theorem judgeItem_rejected (hok : resultOk s n m = false) : judgeItem n m s =
    if (itemOf s n (itemKey m)).rejects + 1 = fld s TR_CTL_REJMAX n then
      raise 18 (setFld TR_STAT_ALARM n 1 (rejectItem n m s).2) (some n)
    else (rejectItem n m s).2 := by
  simp only [judgeItem, hok, rejectItem, Bool.false_eq_true, if_false, decide_eq_true_eq]

theorem itemVal_rejectItem (n : Nat) (m : Meas) (s : State) : itemVal (rejectItem n m s).2 n (itemKey m) = itemVal s n (itemKey m) :=
  (itemVal_setItem ..).trans (itemOf_val ..)

theorem fld_reject_rejectItem (n : Nat) (m : Meas) (s : State) :
    fld (rejectItem n m s).2 TR_CNT0_REJECT n = min (fld s TR_CNT0_REJECT n + 1) (2 ^ TR_CNT0_REJECT.w - 1) := by
  have hcount : fld (logReject n m (setFld TR_STAT_LSTEP n m.step.toNat (addFld TR_CNT0_REJECT n 1 s))) TR_CNT0_REJECT n =
      min (fld s TR_CNT0_REJECT n + 1) (2 ^ TR_CNT0_REJECT.w - 1) :=
    (fld_setFld_apart (by decide)).trans (fld_addFld_same (by decide) ..)
  exact (fld_setItem (by decide) ..).trans hcount

/-- The alarm of an item leaves its value and the count of rejections. -/
theorem judgeItem_rejected_keeps (hok : resultOk s n m = false) :
    itemVal (judgeItem n m s) n k = itemVal (rejectItem n m s).2 n k ∧
      fld (judgeItem n m s) TR_CNT0_REJECT n = fld (rejectItem n m s).2 TR_CNT0_REJECT n := by
  rw [judgeItem_rejected hok]
  split
  · exact ⟨itemVal_congr ((portOf_raise ..).trans (portOf_setFld ..)) k,
      (fld_raise_of_high (by decide) (by decide) ..).trans (fld_setFld_apart (by decide))⟩
  · exact ⟨rfl, rfl⟩

theorem flg_alarm_judgeItem (hok : resultOk s n m = false)
    (hlast : (itemOf s n (itemKey m)).rejects + 1 = fld s TR_CTL_REJMAX n) : flg (judgeItem n m s) TR_STAT_ALARM n = true := by
  rw [judgeItem_rejected hok, if_pos hlast, flg, fld_raise_of_high (by decide) (by decide), fld_setFld_same _ _ _ _ (by decide)]
  rfl

end

/-! ### The rows -/

theorem ranPause_eq_some {x : Pause} {e : Nat} {kinds : List Nat} (hpause : (portOf s n).sched.pause = some (x, e)) (hdue : e ≤ s.clk)
    (hkind : x.kind ∈ kinds) : ranPause s n kinds = some x := by
  simp [ranPause, hpause, hdue, hkind]

section
variable (h : PortHere s p)
include h

/-- A port that has not been idle for 1 µs writes no pending value first. -/
theorem execTrackingRound_due (hst : pstate s p.val = .service) (hbusy : idleUs s p.val = false) (hcx2 : cx2 s p.val = false)
    (hen : flg s TR_CTL_EN p.val = true) (hoff : (portOf s p.val).train.roundOn = false) (hdue : (portOf s p.val).train.roundDue ≤ s.clk) :
    execTrackingRound p s = .next (settle (startRound p.val s)) := by
  simp only [execTrackingRound, onPort_here h, hst, hbusy, hcx2, hen, hoff, hdue, Bool.false_eq_true, if_false, decide_true, Bool.not_false,
    Bool.and_self, if_true]

theorem execTrCntClear_awake {v : Word} (hreset : s.pw.inReset = false) (hclr : v.getLsbD 0 = true) :
    execTrCntClear p v s = .next (settle (setWord (TR_CNT0_ACCEPT.off p.val) 0 (setWord (TR_CNT1_ABORT.off p.val) 0 s))) := by
  simp only [execTrCntClear, onPort_here h, hreset, hclr, Bool.not_false, Bool.and_self, if_true]

section
variable {x : Pause} {e : Nat} (hpause : (portOf s p.val).sched.pause = some (x, e)) (hdue : e ≤ s.clk)
include hpause hdue

theorem execTrackReadPause_ran (hkind : x.kind = 0) (ms : List Meas) : execTrackReadPause p ms s = .next (settle (endPause p.val
    (judgeAll p.val [] ((mineOf x ms).filter fun y => y.step = 5 || y.step = 6) (applyPend p.val (some x.rank) s)))) := by
  rw [execTrackReadPause, onPin_here h, ranPause_eq_some hpause hdue (by simp [hkind])]

theorem execTrackOscPause_ran (hkind : x.kind = 2) (ms : List Meas) : execTrackOscPause p ms s = .next (settle (endPause p.val
    (judgeAll p.val [] ((mineOf x ms).filter fun y => y.step = 0xA) (applyPend p.val (some x.rank) s)))) := by
  rw [execTrackOscPause, onPin_here h, ranPause_eq_some hpause hdue (by simp [hkind])]

/-- A pause of full length measures both steps; a training line that is not saved drops the results of its sub-channel. -/
theorem execTrackWritePause_ran (hkind : x.kind = 1) (hlen : x.len = 400) (ms : List Meas) (err0 err1 : Burst) :
    let w := applyPend p.val (some x.rank) s
    let a := saveLine p.val (trainLine w p.val x 0) err0 w
    let b := saveLine p.val (trainLine w p.val x 1) err1 a.2
    execTrackWritePause p ms err0 err1 s = .next (settle (endPause p.val (judgeAll p.val []
      ((mineOf x ms).filter fun y => (y.step = 7 || y.step = 8) && (if y.sub = 0 then a.1 else b.1)) b.2))) := by
  have hfull : ¬ x.kind = 3 ∧ ¬ x.len = 200 := by omega
  simp only [execTrackWritePause, onPin_here h, ranPause_eq_some hpause hdue (kinds := [1, 3]) (by simp [hkind]), hfull, if_false]

end

end

end

/-- Settles O38, a clause for each row and each judgement. -/
theorem tracking : Obligations.Tracking := by
  unfold Obligations.Tracking
  intro s p ms m err0 err1 x e v n t0 k w ran h
  refine ⟨execTrackingRound_due h, fun ⟨hpause, hdue, hkind⟩ => execTrackReadPause_ran h hpause hdue hkind ms,
    fun ⟨hpause, hdue, hkind⟩ => execTrackOscPause_ran h hpause hdue hkind ms,
    fun ⟨hpause, hdue, hkind⟩ hlen => execTrackWritePause_ran h hpause hdue hkind hlen ms err0 err1,
    fun hosc hside hok => ?accepted, fun hok => ?rejected,
    fun hreset hclr => ⟨_, execTrCntClear_awake h hreset hclr, fld_setWord_zero rfl, fld_setWord_zero rfl,
      fld_setWord_zero_of_zero (fld_setWord_zero rfl), fld_setWord_zero_of_zero (fld_setWord_zero rfl)⟩⟩
  case accepted =>
    rw [judgeItem_accepted hosc hside hok]
    exact ⟨itemVal_setItem .., (fld_setItem (by decide) ..).trans (fld_addFld_same (by decide) ..)⟩
  case rejected =>
    obtain ⟨hval, hcount⟩ := judgeItem_rejected_keeps (k := k) hok
    exact ⟨hval.trans (itemVal_rejectItem n m s), hcount.trans (fld_reject_rejectItem n m s), flg_alarm_judgeItem hok⟩

end Sys2Proof.Machine
end

section
/-!
The host commands over lines of memory (R226, R251, R358, R360 to R363): a range whose lines are all served and held nowhere needs neither a wake
nor a snoop (`rangeWake_of_serve`, `snoopReads_of_unheld`, `snoopWrites_of_unheld`), so its command does its whole work in the step that starts
it; then one lemma for each command and outcome.
-/

namespace Sys2Proof.Machine

/-- Every line of the range lies in a port that serves, no request is under way for one, and none is held elsewhere. -/
abbrev LinesServe (s : State) (l : List Nat) : Prop :=
  rangeRefuse s l = none ∧ rangeReady s l = true ∧ (∀ y ∈ l, held s y = false) ∧ ∀ p ∈ rangePorts s l, pstate s p = .service

/-- The background that a destructive march leaves: the last one that it names (R247). -/
abbrev lastBackground (bgs : Nat) : Nat := ((List.range 4).reverse.find? fun i => bits bgs i 1 = 1).getD 0

/-- n lines from a of port p hold background b. -/
abbrev marchFilled (p a n b : Nat) (s : State) : State :=
  (List.range n).foldl (fun t i => storeLine p (a + 64 * i) (bgLine b ((a + 64 * i) / 64)) false orgCopy
    (markOver p (a + 64 * i) (syncLine p (a + 64 * i) t))) s

/-- Addresses of the failing lines among n lines from a. -/
abbrev marchedBad (a n : Nat) (fails : List Nat) : List Nat := (fails.filter fun i => i < n).map fun i => a + 64 * i

section
variable {s : State} {l : List Nat}

/-! ### Ranges whose lines serve (R361, R410) -/

theorem srWaits_of_service {p : Nat} (hst : pstate s p = .service) : srWaits s p = false := by simp [srWaits, hst]

theorem rangeWake_of_serve (hserve : ∀ p ∈ rangePorts s l, pstate s p = .service) : rangeWake l s = s :=
  List.foldlRecOn (motive := (· = s)) _ _ rfl fun t ht p hp => by
    rw [ht, srWaits_of_service (hserve p hp), if_neg Bool.false_ne_true]

theorem filter_held_of_unheld (hfree : ∀ y ∈ l, held s y = false) : l.filter (held s) = [] :=
  List.filter_eq_nil_iff.2 fun y hy => by simp [hfree y hy]

theorem snoopReads_of_unheld (hfree : ∀ y ∈ l, held s y = false) : snoopReads l s = s := by
  rw [snoopReads, filter_held_of_unheld hfree, List.foldl_nil]

theorem snoopWrites_of_unheld (hfree : ∀ y ∈ l, held s y = false) : snoopWrites l s = s := by
  rw [snoopWrites, filter_held_of_unheld hfree, List.foldl_nil]

/-! ### Commands over a range (R358, R361) -/

variable {h : BitVec 12} {opc : Nat}

theorem rangeCommand_serves (hstart : mayStart s h.toNat opc = true) (reads writes : Handle → List Nat) {work : Handle → State → State}
    (hlines : LinesServe (started h s) (reads (handleOf (started h s) h.toNat) ++ writes (handleOf (started h s) h.toNat))) :
    rangeCommand h.toNat opc reads writes work s = work (handleOf (started h s) h.toNat) (started h s) := by
  obtain ⟨hplace, hready, hfree, hserve⟩ := hlines
  obtain ⟨hreads, hwrites⟩ := List.forall_mem_append.1 hfree
  have hnone : (writes (handleOf (started h s) h.toNat)).any (held (started h s)) = false := List.any_eq_false.2 fun y hy => by
    simp [hwrites y hy]
  simp only [rangeCommand, hostLong_started hstart, hplace, rangeWake_of_serve hserve, snoopReads_of_unheld hreads,
    snoopWrites_of_unheld hwrites, hready, hnone, Bool.not_true, Bool.not_false, Bool.and_self, Bool.false_eq_true, if_false, if_true]

theorem rangeCommand_refused (hstart : mayStart s h.toNat opc = true) (reads writes : Handle → List Nat) {n : Nat}
    (hplace : rangeRefuse (started h s) (reads (handleOf (started h s) h.toNat) ++ writes (handleOf (started h s) h.toNat)) = some n)
    (work : Handle → State → State) : rangeCommand h.toNat opc reads writes work s = endHandle h.toNat n 0 0 (started h s) := by
  simp only [rangeCommand, hostLong_started hstart, hplace, done]

/-! ### NOP, FILL and COPY (R360, R361) -/

theorem execNop_started (hstart : mayStart s h.toNat 1 = true) : Does s (.nop h) (endHandle h.toNat 0 0 0 (started h s)) := by
  change execNop h s = _
  simp only [execNop, slotH, hostCommand_started hstart, done]

theorem execFill_serves (hstart : mayStart s h.toNat 7 = true)
    (hlines : LinesServe (started h s) (rangeLines (startArg h s 1) (startArg h s 2))) :
    let r := (rangeLines (startArg h s 1) (startArg h s 2)).foldl (fillLine (patternLine (startArg h s 3))) (({} : Tally), started h s)
    Does s (.fill h) (endHandle h.toNat (tallyStatus r.2 (bits (startArg h s 0) 10 1 = 1) r.1) 0 (tallyResult r.1) r.2) := by
  change execFill h s = _
  simp only [execFill, slotH, rangeCommand_serves hstart (fun _ => []) (fun x => rangeLines (argN x 1) (argN x 2)) hlines, done, durOf]

theorem execFill_refused (hstart : mayStart s h.toNat 7 = true) {n : Nat}
    (hplace : rangeRefuse (started h s) (rangeLines (startArg h s 1) (startArg h s 2)) = some n) :
    Does s (.fill h) (endHandle h.toNat n 0 0 (started h s)) := by
  change execFill h s = _
  simp only [execFill, slotH, rangeCommand_refused hstart (fun _ => []) (fun x => rangeLines (argN x 1) (argN x 2)) hplace]

theorem execCopy_serves (hstart : mayStart s h.toNat 6 = true) (hlines : LinesServe (started h s)
      (rangeLines (startArg h s 1) (startArg h s 3) ++ rangeLines (startArg h s 2) (startArg h s 3))) (errs : List (Nat × Burst)) :
    let r := (List.range (startArg h s 3)).foldl (copyLine (startArg h s 1) (startArg h s 2) errs) (({} : Tally), started h s)
    Does s (.copy h errs) (endHandle h.toNat (tallyStatus r.2 (bits (startArg h s 0) 10 1 = 1) r.1) 0 (tallyResult r.1) r.2) := by
  change execCopy h errs s = _
  simp only [execCopy, slotH, rangeCommand_serves hstart (fun x => rangeLines (argN x 1) (argN x 3)) (fun x => rangeLines (argN x 2) (argN x 3)) hlines,
    done, durOf]

/-! ### SCRUB (R226, R361, R409) -/

theorem execScrub_serves (hstart : mayStart s h.toNat 4 = true) (hon : scrubOn (started h s) = true)
    (hlines : LinesServe (started h s) (rangeLines (startArg h s 1) (startArg h s 2))) (errs : List (Nat × Burst)) :
    let r := (List.range (startArg h s 2)).foldl (fun y i => scrubLine (startArg h s 1 + 64 * i) (errOf errs i) y) (({} : ScrubSum), started h s)
    Does s (.scrub h errs) (endHandle h.toNat (tallyStatus r.2 (bits (startArg h s 0) 10 1 = 1) r.1.tally) 0
      (min r.1.fixed 0xFFFFFFFF + min r.1.bad 0xFFFFFFFF * 2 ^ 32) r.2) := by
  obtain ⟨hplace, hready, -, hserve⟩ := hlines
  change execScrub h errs s = _
  simp only [execScrub, slotH, hostLong_started hstart, hon, hplace, rangeWake_of_serve hserve, hready, done, durOf, Bool.not_true,
    Bool.false_eq_true, if_false]

theorem execScrub_off (hstart : mayStart s h.toNat 4 = true) (hoff : scrubOn (started h s) = false) (errs : List (Nat × Burst)) :
    Does s (.scrub h errs) (endHandle h.toNat 0x21 0 0 (started h s)) := by
  change execScrub h errs s = _
  simp only [execScrub, slotH, hostLong_started hstart, hoff, done, Bool.not_false, if_true]

/-! ### MARCH (R251, R362) -/

theorem marchEnd_eq_endHandle (k n : Nat) (s : State) : marchEnd k n s = endHandle k (if n = 0 then 0 else 0x2A) 0 n s := by
  unfold marchEnd
  split
  next hn => rw [hn, done]
  next => rfl

/-- A preserving test on the chip without a failing word leaves nothing behind it: the march engine runs for the command alone. -/
theorem execMarch_chip (hstart : mayStart s h.toNat 5 = true) (hchip : bits (startArg h s 1) 0 1 = 1)
    (hkeep : bits (startArg h s 1) 1 1 = 0) (hidle : (started h s).march = {}) (hon : scrubOn (started h s) = true)
    (hgroup : groupAllowed (started h s) false (bits (startArg h s 1) 8 8) = true) :
    Does s (.march h []) (endHandle h.toNat 0 0 0 (started h s)) := by
  have hdestr : decide (bits (startArg h s 1) 1 1 = 1) = false := by rw [hkeep]; decide
  have hrest : { started h s with march := {} } = started h s := by rw [← hidle]
  have hrun : (started h s).march.running = false := by rw [hidle]
  change execMarch h [] s = _
  simp only [execMarch, slotH, hostLong_started hstart, hchip, marchChip, hon, hrun, hdestr, hgroup, List.foldl_nil, List.length_nil,
    Bool.not_true, Bool.or_self, Bool.false_and, Bool.false_eq_true, if_true, if_false, marchEnd_eq_endHandle, hrest]

theorem marchDram_destructive {k : Nat} {x : Handle} (hdestr : bits (argN x 1) 1 1 = 1)
    (hcap : argN x 3 + 64 * argN x 4 ≤ capInG s (bits (argN x 2) 0 5) * 2 ^ 30) (hserve : pstate s (bits (argN x 2) 0 5) = .service)
    (hon : scrubOn s = true) (hset : meetsSet s (bits (argN x 2) 0 5) (argN x 3) (argN x 3 + 64 * argN x 4) = false)
    (hslots : meetsSlots s (bits (argN x 2) 0 5) (argN x 3) (argN x 3 + 64 * argN x 4) = false) (fails : List Nat) :
    marchDram k x fails s = marchEnd k (marchedBad (argN x 3) (argN x 4) fails).length ((marchedBad (argN x 3) (argN x 4) fails).foldl
      (fun t la => marchBad (bits (argN x 2) 0 5) la t)
      (marchFilled (bits (argN x 2) 0 5) (argN x 3) (argN x 4) (lastBackground (bits (argN x 1) 4 4)) s)) := by
  simp only [marchDram, Nat.not_lt.2 hcap, hserve, hon, hdestr, hset, hslots, marchedBad, marchFilled, lastBackground, ne_eq,
    not_true_eq_false, decide_false, Bool.not_true, Bool.or_self, Bool.false_eq_true, if_true, if_false]

theorem execMarch_dram (hstart : mayStart s h.toNat 5 = true) (hdram : bits (startArg h s 1) 0 1 = 0)
    (hdestr : bits (startArg h s 1) 1 1 = 1) (hon : scrubOn (started h s) = true) (fails : List Nat)
    (hcap : startArg h s 3 + 64 * startArg h s 4 ≤ capInG (started h s) (bits (startArg h s 2) 0 5) * 2 ^ 30)
    (hserve : pstate (started h s) (bits (startArg h s 2) 0 5) = .service)
    (hset : meetsSet (started h s) (bits (startArg h s 2) 0 5) (startArg h s 3) (startArg h s 3 + 64 * startArg h s 4) = false)
    (hslots : meetsSlots (started h s) (bits (startArg h s 2) 0 5) (startArg h s 3) (startArg h s 3 + 64 * startArg h s 4) = false) :
    let bad := marchedBad (startArg h s 3) (startArg h s 4) fails
    Does s (.march h fails) (endHandle h.toNat (if bad = [] then 0 else 0x2A) 0 bad.length
      (bad.foldl (fun t la => marchBad (bits (startArg h s 2) 0 5) la t) (marchFilled (bits (startArg h s 2) 0 5) (startArg h s 3)
        (startArg h s 4) (lastBackground (bits (startArg h s 1) 4 4)) (started h s)))) := by
  have hchip : ¬ bits (startArg h s 1) 0 1 = 1 := by rw [hdram]; decide
  change execMarch h fails s = _
  simp only [execMarch, slotH, hostLong_started hstart, hchip, if_false, marchDram_destructive hdestr hcap hserve hon hset hslots,
    marchEnd_eq_endHandle, List.length_eq_zero_iff]

/-! ### CHECKPOINT and WARM_VERIFY (R360, R361, R396) -/

theorem execCheckpoint_serves (hstart : mayStart s h.toNat 8 = true)
    (hlines : LinesServe (started h s) (rangeLines (startArg h s 1) (startArg h s 2 / 64))) :
    Does s (.checkpoint h) (checkpointWork h.toNat (handleOf (started h s) h.toNat) (started h s)) := by
  change execCheckpoint h s = _
  simp only [execCheckpoint, slotH, rangeCommand_serves hstart (fun _ => []) (fun x => rangeLines (argN x 1) (argN x 2 / 64)) hlines]

theorem checkpointWork_short {k : Nat} {x : Handle} (hshort : argN x 2 < 65536 + 32 * (liveStalls s).length) :
    checkpointWork k x s = endHandle k 0x24 0 (65536 + 32 * (liveStalls s).length) s :=
  if_pos hshort

theorem execWarmVerify_valid (hstart : mayStart s h.toNat 9 = true) (hwarm : bits (bbrWord (started h s) 3) 1 1 = 1)
    (hvalid : bits (bbrWord (started h s) 3) 4 1 = 1) (hshallow : bits (startArg h s 1) 0 1 = 0)
    (hcrc : crc32c (areaBytes (bbrWord (started h s) 23 + bbrWord (started h s) 24 * 2 ^ 32)
      (bbrWord (started h s) 25 + bbrWord (started h s) 26 * 2 ^ 32) (started h s)) = bbrWord (started h s) 27)
    (errs : List (Nat × Burst)) : Does s (.warmVerify h errs) (endHandle h.toNat 0 0 0 (started h s)) := by
  change execWarmVerify h errs s = _
  simp only [execWarmVerify, slotH, hostCommand_started hstart, warmCheck, hwarm, hvalid, hshallow, hcrc, done, Nat.zero_ne_one,
    Nat.one_ne_zero, List.mapIdx_nil, List.foldl_nil, decide_true, Bool.not_true, Bool.and_false, Bool.false_eq_true, if_true, if_false,
    Nat.add_zero]

theorem execWarmVerify_cold (hstart : mayStart s h.toNat 9 = true) (hcold : bits (bbrWord (started h s) 3) 1 1 = 0)
    (errs : List (Nat × Burst)) : Does s (.warmVerify h errs) (endHandle h.toNat 0x21 0 0 (started h s)) := by
  change execWarmVerify h errs s = _
  simp only [execWarmVerify, slotH, hostCommand_started hstart, warmCheck, hcold, if_true, done]

/-! ### LOAD_PROGRAM (R363) -/

theorem execLoadProgram_serves (hstart : mayStart s h.toNat 0x10 = true)
    (hstopped : (ctxOf (started h s) (bits (startArg h s 3) 0 2)).st = .stopped)
    (hreset : (ctxOf (started h s) (bits (startArg h s 3) 0 2)).resetReq = false)
    (hunbound : bound (started h s) h.toNat (bits (startArg h s 3) 0 2) = false)
    (hfits : startArg h s 2 ≤ prgSize (started h s) (bits (startArg h s 3) 0 2))
    (hlines : LinesServe (started h s) (rangeLines (startArg h s 1) ((startArg h s 2 + 63) / 64))) (errs : List (Nat × Burst)) :
    Does s (.loadProgram h errs) (loadWork h.toNat errs (handleOf (started h s) h.toNat) (started h s)) := by
  obtain ⟨hplace, hready, hfree, hserve⟩ := hlines
  change execLoadProgram h errs s = _
  simp only [execLoadProgram, slotH, hostLong_started hstart, hstopped, hreset, hunbound, hplace, rangeWake_of_serve hserve,
    snoopReads_of_unheld hfree, hready, Nat.not_lt.2 hfits, decide_true, Bool.not_false, Bool.true_or, Bool.and_self,
    Bool.not_true, Bool.false_eq_true, if_true, if_false]

end

/-- Settles O40, a clause for each command and outcome. -/
theorem hostRanges : Obligations.HostRanges := by
  unfold Obligations.HostRanges
  intro s h errs fails k u x a lines
  exact ⟨execNop_started, execFill_serves, fun hstart _ => execFill_refused hstart, fun hstart hlines => execCopy_serves hstart hlines errs,
    fun hstart hon hlines => execScrub_serves hstart hon hlines errs, fun hstart hoff => execScrub_off hstart hoff errs, execMarch_chip,
    fun hstart hdram hdestr hon => execMarch_dram hstart hdram hdestr hon fails,
    fun hstart hlines hshort => checkpointWork_short hshort ▸ execCheckpoint_serves hstart hlines, execCheckpoint_serves,
    fun hstart hwarm hvalid hshallow hcrc => execWarmVerify_valid hstart hwarm hvalid hshallow hcrc errs,
    fun hstart hcold => execWarmVerify_cold hstart hcold errs,
    fun hstart hstopped hreset hunbound hfits hlines => execLoadProgram_serves hstart hstopped hreset hunbound hfits hlines errs⟩

end Sys2Proof.Machine
end

section
/-!
The march engine (R247 to R250) and SPAD_CLR (R471): what a byte of the scratchpad reads once a bank holds a background (`byteAt_fillBank`), then one
lemma for each register and for the end of a test.
-/

namespace Sys2Proof.Machine

/-! ### A bank that holds a background (R247) -/

theorem mget_append {α : Type} (l m : SMap α) (k : Nat) : mget (l ++ m) k = (mget l k).or (mget m k) := by
  induction l with
  | nil => rfl
  | cons e l ih =>
    simp only [List.cons_append, mget, ih]
    split <;> rfl

theorem mget_filter_of_keeps {α : Type} {p : Nat × α → Bool} {k : Nat} (hp : ∀ a, p (k, a) = true) (m : SMap α) :
    mget (m.filter p) k = mget m k := by
  induction m with
  | nil => rfl
  | cons e m ih =>
    obtain ⟨i, a⟩ := e
    by_cases hi : i = k
    · subst hi
      simp [hp, mget]
    · by_cases hkeep : p (i, a) = true <;> simp [hkeep, mget, hi, ih]

theorem mget_filter_of_drops {α : Type} {p : Nat × α → Bool} {k : Nat} (hp : ∀ a, p (k, a) = false) (m : SMap α) :
    mget (m.filter p) k = none := by
  induction m with
  | nil => rfl
  | cons e m ih =>
    obtain ⟨i, a⟩ := e
    by_cases hi : i = k
    · subst hi
      simp [hp, ih]
    · by_cases hkeep : p (i, a) = true <;> simp [hkeep, mget, hi, ih]

/-- The entries that let n bytes from base read as g says, the zero bytes left unlisted. -/
def listed (base n : Nat) (g : Nat → Byte) : SMap Byte := ((List.range n).filter fun i => g i ≠ 0).map fun i => (base + i, g i)

theorem listed_succ (base n : Nat) (g : Nat → Byte) :
    listed base (n + 1) g = listed base n g ++ if g n ≠ 0 then [(base + n, g n)] else [] := by
  simp only [listed, List.range_succ, List.filter_append, List.map_append, List.filter_singleton]
  split <;> simp_all

theorem mget_listed (base n : Nat) (g : Nat → Byte) (k : Nat) :
    mget (listed base n g) k = if base ≤ k ∧ k < base + n ∧ g (k - base) ≠ 0 then some (g (k - base)) else none := by
  induction n with
  | zero => rw [if_neg (by omega)]; rfl
  | succ n ih =>
    rw [listed_succ, mget_append, ih]
    by_cases hk : k = base + n
    · subst hk
      by_cases hz : g n = 0#8 <;> simp [hz, mget]
    · have hlast : mget (if g n ≠ 0 then [(base + n, g n)] else []) k = none := by split <;> simp [mget, Ne.symm hk]
      have hbound : k < base + n ↔ k < base + (n + 1) := by omega
      simp only [hlast, Option.or_none, hbound]

/-- The table of a scratchpad in which one bank holds a background: the banks below it, its own bytes, the banks above it. -/
theorem spad_fillBank (bank b : Nat) (s : State) : (fillBank bank b s).spad =
    (s.spad.filter fun e => e.1 / 524288 ≠ bank).filter (fun e => e.1 / 524288 < bank) ++ listed (bank * 524288) 524288 (bgByte b) ++
      (s.spad.filter fun e => e.1 / 524288 ≠ bank).filter fun e => e.1 / 524288 > bank := rfl

theorem byteAt_fillBank (bank b k : Nat) (s : State) :
    byteAt (fillBank bank b s).spad k = if k / 524288 = bank then bgByte b (k % 524288) else byteAt s.spad k := by
  have hmid : mget (listed (bank * 524288) 524288 (bgByte b)) k =
      if k / 524288 = bank ∧ bgByte b (k % 524288) ≠ 0 then some (bgByte b (k % 524288)) else none := by
    have hin : k / 524288 = bank → k - bank * 524288 = k % 524288 := by omega
    rw [mget_listed]
    by_cases hk : k / 524288 = bank
    · rw [hin hk]
      have hbounds : bank * 524288 ≤ k ∧ k < bank * 524288 + 524288 := by omega
      simp only [hk, hbounds, true_and]
    · rw [if_neg (by omega), if_neg (by omega)]
  rw [byteAt, mgetD, spad_fillBank, mget_append, mget_append, hmid]
  rcases Nat.lt_trichotomy (k / 524288) bank with hlt | heq | hgt
  · rw [mget_filter_of_keeps (by simp [hlt]), mget_filter_of_keeps (by simp [hlt.ne]), mget_filter_of_drops (by simp [hlt.le])]
    simp [hlt.ne, byteAt, mgetD]
  · rw [mget_filter_of_drops (by simp [heq]), mget_filter_of_drops (by simp [heq])]
    by_cases hz : bgByte b (k % 524288) = 0#8 <;> simp [heq, hz]
  · rw [mget_filter_of_drops (by simp [hgt.le]), mget_filter_of_keeps (by simp [hgt]), mget_filter_of_keeps (by simp [hgt.ne'])]
    simp [hgt.ne', byteAt, mgetD]

section
variable {s : State}

/-! ### Start and abort (R247 to R249) -/

/-- The registers of a test that starts. -/
abbrev marchStarted (s : State) : State :=
  setFld MT_STAT_BUSY 0 1 (setFld MT_STAT_FAILS 0 0 (setFld MT_STAT_GROUP 0 (fld s MT_CTL_GROUP) s))

theorem marchStarted_stat {t : State} (ht : t.regs = (marchStarted s).regs) : flg t MT_STAT_BUSY = true ∧ fld t MT_STAT_FAILS = 0 ∧
    fld t MT_STAT_GROUP = fld s MT_CTL_GROUP := by
  have hfits : fld s MT_CTL_GROUP < 2 ^ MT_STAT_GROUP.w := Nat.mod_lt _ (by decide)
  refine ⟨?_, ?_, ?_⟩
  · rw [flg, fld_congr ht, fld_setFld_same _ _ _ _ (by decide)]
    rfl
  · rw [fld_congr ht, fld_setFld_apart (by decide), fld_setFld_same _ _ _ _ (by decide), Nat.zero_mod]
  · rw [fld_congr ht, fld_setFld_apart (by decide), fld_setFld_apart (by decide), fld_setFld_same _ _ _ _ (by decide), Nat.mod_eq_of_lt hfits]

/-- The test of one group that MT_CTL describes. -/
abbrev marchOfCtl (s : State) : March :=
  { running := true, groups := [fld s MT_CTL_GROUP], alg := BitVec.ofNat 2 (fld s MT_CTL_ALG), destr := flg s MT_CTL_MODE,
    bgs := BitVec.ofNat 4 (fld s MT_CTL_BGS) }

theorem execMarchStart_allowed (hreset : s.pw.inReset = false) (hidle : s.march.running = false) (halg : fld s MT_CTL_ALG < 2)
    (hbgs : flg s MT_CTL_MODE = true → fld s MT_CTL_BGS ≠ 0) (hon : scrubOn s = true) (hone : fld s MT_CTL_GROUP ≠ 0xFF)
    (hgroup : groupAllowed s (flg s MT_CTL_MODE) (fld s MT_CTL_GROUP) = true) :
    Gives s .marchStart { marchStarted s with march := marchOfCtl s } := by
  have hmode : (flg s MT_CTL_MODE && decide (fld s MT_CTL_BGS = 0)) = false := by
    cases hdestr : flg s MT_CTL_MODE with
    | false => rfl
    | true => simp [hbgs hdestr]
  change execMarchStart s = _
  simp only [execMarchStart, hreset, hidle, hmode, hon, hone, hgroup, Nat.not_le.2 halg, List.cons_ne_nil, decide_false,
    Bool.not_true, Bool.or_self, Bool.false_eq_true, if_true, if_false]

theorem execMarchStart_running (hreset : s.pw.inReset = false) (hrun : s.march.running = true) :
    Gives s .marchStart (setFld MT_STAT_REFUSED 0 1 s) := by
  change execMarchStart s = _
  simp only [execMarchStart, hreset, hrun, Bool.true_or, Bool.false_eq_true, if_true, if_false]

theorem execMarchAbort_running (hrun : s.march.running = true) :
    Gives s .marchAbort (setFld MT_STAT_ABORTED 0 1 { s with march := { s.march with aborted := true } }) := by
  change execMarchAbort s = _
  rw [execMarchAbort, marchStop, if_pos hrun]

/-! ### The end of a test (R248, R249) -/

/-- What a test leaves behind it that ends with the memories of t: no test runs, and a test that a register started is DONE. -/
def marchEnded (byReg : Bool) (t : State) : State :=
  if byReg then raise 26 (setFld MT_STAT_DONE 0 1 (setFld MT_STAT_BUSY 0 0 { t with march := {} }))
  else setFld MT_STAT_BUSY 0 0 { t with march := {} }

theorem marchEnded_memories (byReg : Bool) (t : State) : (marchEnded byReg t).dram = t.dram ∧ (marchEnded byReg t).spad = t.spad := by
  cases byReg with
  | false => exact ⟨rfl, rfl⟩
  | true =>
    obtain ⟨hdram, hspad, -⟩ := sameBytes_raise 26 (setFld MT_STAT_DONE 0 1 (setFld MT_STAT_BUSY 0 0 { t with march := {} })) none
    exact ⟨hdram, hspad⟩

theorem marchEnded_byReg (t : State) : flg (marchEnded true t) MT_STAT_BUSY = false ∧ flg (marchEnded true t) MT_STAT_DONE = true ∧
    bits (regAt (marchEnded true t) 0x100 0) 26 1 = 1 ∧ (marchEnded true t).march = {} := by
  have hstat (f : Fld) (hf : 0x200 ≤ f.base) : fld (marchEnded true t) f =
      fld (setFld MT_STAT_DONE 0 1 (setFld MT_STAT_BUSY 0 0 { t with march := {} })) f :=
    fld_raise_of_high hf (by decide) none 0
  refine ⟨?_, ?_, bits_raise (by decide) _ none, congrArg State.march (raise_regs_only 26 _ none)⟩
  · rw [flg, hstat MT_STAT_BUSY (by decide), fld_setFld_apart (by decide), fld_setFld_same _ _ _ _ (by decide)]
    rfl
  · rw [flg, hstat MT_STAT_DONE (by decide), fld_setFld_same _ _ _ _ (by decide)]
    rfl

theorem execMarchEnd_preserving (hrun : s.march.running = true) (hkeep : s.march.destr = false) :
    Gives s (.marchEnd []) (marchEnded s.march.byReg s) := by
  change execMarchEnd [] s = _
  simp only [execMarchEnd, hrun, hkeep, marchEnded, List.filter_nil, List.foldl_nil, Bool.not_true, Bool.false_and, Bool.false_eq_true,
    if_false]

/-- The background that a destructive test leaves: the last one that it names (R247). -/
abbrev leftBackground (m : March) : Nat := ((List.range 4).reverse.find? fun i => m.bgs.getLsbD i).getD 0

theorem execMarchEnd_destructive {bank : Nat} (hbank : bank < 32) (hrun : s.march.running = true) (hdestr : s.march.destr = true)
    (hwhole : s.march.aborted = false) (hgroups : s.march.groups = [bank]) :
    Gives s (.marchEnd []) (marchEnded s.march.byReg (fillBank bank (leftBackground s.march) s)) := by
  change execMarchEnd [] s = _
  simp only [execMarchEnd, hrun, hdestr, hwhole, hgroups, marchEnded, List.filter_nil, List.foldl_nil, List.filter_cons, hbank, decide_true,
    List.foldl_cons, Bool.not_true, Bool.not_false, Bool.and_self, Bool.false_eq_true, if_true, if_false]

/-! ### SPAD_CLR (R471) -/

theorem execSpadClear_awake {v : Word} (hreset : s.pw.inReset = false) (hclr : v.getLsbD 0 = true) :
    Gives s (.spadClear v) (setWord 0x3C0000 0 (setWord 0x3C0004 0 s)) := by
  change execSpadClear v s = _
  simp only [execSpadClear, hreset, hclr, Bool.not_true, Bool.or_self, Bool.false_eq_true, if_false]

end

/-- Settles O23, a clause for each register and for each kind of end. -/
theorem marchEngine : Obligations.MarchEngine := by
  unfold Obligations.MarchEngine
  intro s v g destr
  refine ⟨fun hreset hidle halg hbgs hon hone hgroup => ?start, execMarchStart_running, execMarchAbort_running,
    fun hrun hkeep hreg => ?preserving, fun bank hbank hrun hdestr hwhole hgroups _ => ?destructive, execSpadClear_awake⟩
  case start =>
    obtain ⟨hbusy, hfails, hstat⟩ := marchStarted_stat (s := s) (t := { marchStarted s with march := marchOfCtl s }) rfl
    exact ⟨_, execMarchStart_allowed hreset hidle halg hbgs hon hone hgroup, hbusy, hfails, hstat, rfl⟩
  case preserving =>
    obtain ⟨hdram, hspad⟩ := marchEnded_memories true s
    obtain ⟨hbusy, hdone, hcause, hmarch⟩ := marchEnded_byReg s
    have hends := execMarchEnd_preserving hrun hkeep
    rw [hreg] at hends
    exact ⟨_, hends, hbusy, hdone, hcause, hmarch, hspad, hdram⟩
  case destructive =>
    obtain ⟨hdram, hspad⟩ := marchEnded_memories s.march.byReg (fillBank bank (leftBackground s.march) s)
    exact ⟨_, execMarchEnd_destructive hbank hrun hdestr hwhole hgroups, hdram, fun k => hspad ▸ byteAt_fillBank bank _ k s⟩

end Sys2Proof.Machine
end

section
/-!
The merge buffer and the scrubber (R232, R233, R235 to R238, R252): what an entry that closes and a visit that is due leave behind them, and the
answer of each row where its condition holds.
-/

namespace Sys2Proof.Machine

section
variable {s : State} {n : Nat} {p : Fin 20}

@[simp] theorem portOf_modProt (p r : Nat) (g : Protect → Protect) (s : State) :
    portOf (modProt p g s) r = if r = p then { portOf s p with prot := g (portOf s p).prot } else portOf s r := portOf_modPort ..

/-! ### An entry closes (R232) -/

/-- What an entry that closes puts into the queue: its line where every byte is written, else its read-modify-write. -/
def closeReq (s : State) (e : Nat) (m : Merge) : SubReq :=
  { id := s.nextId, owner := .rmw e, la := m.la, kind := if m.be = allBytes then .write m.data allBytes m.poison else .rmw e, attr := m.attr }

theorem closeEntry_open {e : Nat} {m : Merge} (hm : mget (portOf s n).prot.merge e = some m) (hopen : m.closed = false) : closeEntry n e s =
    modSched n (fun q => { q with queue := q.queue ++ [closeReq s e m] })
      (modProt n (fun t => { t with merge := mput t.merge e { m with closed := true } }) (newId s).2) := by
  simp only [closeEntry, hm, hopen, Bool.false_eq_true, if_false, closeReq, newId]

theorem execGatherClose_due (h : PortHere s p) {e : Fin 32} {m : Merge} (hm : mget (portOf s p.val).prot.merge e.val = some m)
    (hdue : m.opened + fld s EC_CTL_GATHER p.val * 4 ≤ s.clk) : Does s (.gatherClose p e) (closeEntry p.val e.val s) := by
  change execGatherClose p e s = _
  simp only [execGatherClose, onPort_here h, hm, hdue, if_true]

/-! ### The line of a read-modify-write returns (R233, Table 9.4) -/

/-- The flight f has landed. -/
abbrev flightTaken (n : Nat) (f : Flight) (s : State) : State :=
  modSched n (fun x => { x with flight := x.flight.filter fun g => g.id ≠ f.id }) s

theorem takeFlight_of_find {k : Flight → Bool} {f : Flight} (hflight : (portOf s n).sched.flight.find? k = some f) :
    takeFlight n k s = some (f, flightTaken n f s) := by
  simp only [takeFlight, hflight]

theorem prot_flightTaken (n : Nat) (f : Flight) (s : State) : (portOf (flightTaken n f s) n).prot = (portOf s n).prot := by simp

section
variable {e : Nat} {m : Merge} {f : Flight} {err : Burst} (hm : mget (portOf s n).prot.merge e = some m)
include hm

theorem rmwFinish_good (hclean : m.poison = false) (hgood : (decodeFlight s n f err).1.tainted = false) : rmwFinish n e f err s = mergeDone n e 0
    (storeLine n m.la (mergeLine (decodeFlight s n f err).2 m.data m.be) false orgRmw
      (noteDecode n m.la (decodeFlight s n f err).1 orgRmw true s)) := by
  simp only [rmwFinish, hm, hgood, hclean, Bool.or_self, Bool.false_eq_true, if_false]

theorem rmwFinish_tainted (hbad : (decodeFlight s n f err).1.tainted = true) : rmwFinish n e f err s = mergeDone n e 1
    (storePoisoned n m.la (mergeLine (decodeFlight s n f err).2 m.data m.be) orgRmw
      (noteDecode n m.la (decodeFlight s n f err).1 orgRmw true s)) := by
  simp only [rmwFinish, hm, hbad, Bool.true_or, if_true]

end

theorem execRmwReadDone_lands (h : PortHere s p) {e : Fin 32} {f : Flight}
    (hflight : (portOf s p.val).sched.flight.find? (fun g => decide (g.req.kind = .rmw e.val)) = some f) (err : Burst) :
    Does s (.rmwReadDone p e err) (rmwFinish p.val e.val f err (flightTaken p.val f s)) := by
  change execRmwReadDone p e err s = _
  simp only [execRmwReadDone, onPort_here h, takeFlight_of_find hflight]

/-! ### Patrol scrub (R235 to R237) -/

/-- Where a pass begins, or the lines to visit have changed, the interval of visits is taken anew. -/
def passTimed (n : Nat) (s : State) : State :=
  if (portOf s n).prot.scrubPos = 0 || (portOf s n).prot.scrubN ≠ scrubLines s n then
    modProt n (fun t => { t with scrubI := scrubInterval s n, scrubN := scrubLines s n,
                                 passAt := if (portOf s n).prot.scrubPos = 0 then s.clk else t.passAt }) s
  else s

theorem port_passTimed (n : Nat) (s : State) : (portOf (passTimed n s) n).sched = (portOf s n).sched ∧
    (portOf (passTimed n s) n).prot.scrubPos = (portOf s n).prot.scrubPos ∧ SameBytes s (passTimed n s) := by
  unfold passTimed
  split
  · exact ⟨by simp, by simp, rfl, rfl, rfl, rfl⟩
  · exact ⟨rfl, rfl, rfl, rfl, rfl, rfl⟩

/-- No register and no energy stage depends on the interval. -/
theorem guards_passTimed (n la : Nat) (s : State) : liveDimms (passTimed n s) n = liveDimms s n ∧
    locOf (passTimed n s) n la = locOf s n la ∧ c7Deferred (passTimed n s) = c7Deferred s ∧
    fld (passTimed n s) PS_WM_RSV n = fld s PS_WM_RSV n := by
  unfold passTimed
  split
  · exact ⟨rfl, rfl, rfl, rfl⟩
  · exact ⟨rfl, rfl, rfl, rfl⟩

/-- When the visit behind the one that is taken now is due: one that is owed follows at once (R235). -/
def nextVisitDue (n : Nat) (s : State) : Nat :=
  let q := (portOf (passTimed n s) n).prot
  if 0 < q.scrubOwed then (passTimed n s).clk + 16 else (if q.scrubDue = 0 then s.clk else q.scrubDue) + q.scrubI

/-- The queue entry of a visit to line la. -/
def visitReq (s : State) (la : Nat) : SubReq := { id := s.nextId, owner := .scrub, la := la, kind := .visit, attr := unbound 7 s }

/-- A visit to line la enters the queue; the next one is due at `due`. -/
def visitQueued (n la due : Nat) (s : State) : State :=
  modProt n (fun t => { t with scrubOut := true, scrubOwed := t.scrubOwed - 1, scrubDue := due })
    (modSched n (fun x => { x with queue := x.queue ++ [visitReq s la] }) (newId s).2)

theorem visitQueued_frame (n la due : Nat) (s : State) : SameBytes s (visitQueued n la due s) ∧
    (portOf (visitQueued n la due s) n).prot.scrubOut = true ∧
    (portOf (visitQueued n la due s) n).prot.scrubPos = (portOf s n).prot.scrubPos ∧
    (portOf (visitQueued n la due s) n).sched.queue = (portOf s n).sched.queue ++ [visitReq s la] := by
  refine ⟨⟨rfl, rfl, rfl, rfl⟩, ?_⟩
  simp [visitQueued]

theorem execScrubVisit_due (h : PortHere s p) (hen : flg s SCR_CTL_EN = true) (hon : scrubOn s = true) (hst : pstate s p.val = .service)
    (hawake : s.pw.st.toNat ≤ 1) (hdue : (portOf s p.val).prot.scrubDue ≤ s.clk) (hout : (portOf s p.val).prot.scrubOut = false)
    (hlines : scrubLines s p.val ≠ 0)
    (hlive : (liveDimms s p.val).contains (dimmOf (locOf s p.val ((portOf s p.val).prot.scrubPos * 64))) = true)
    (hstage : c7Deferred s = false) (hroom : fld s PS_WM_RSV p.val < queueCap p.val - (portOf s p.val).sched.queue.length) :
    Does s (.scrubVisit p) (visitQueued p.val ((portOf s p.val).prot.scrubPos * 64) (nextVisitDue p.val s)
      (passTimed p.val s)) := by
  obtain ⟨hsched, hpos, -⟩ := port_passTimed p.val s
  obtain ⟨hdimms, hloc, hstage', hrsv⟩ := guards_passTimed p.val ((portOf s p.val).prot.scrubPos * 64) s
  change execScrubVisit p s = _
  rw [execScrubVisit, onPort_here h]
  extract_lets q m s0 q0 la due i r late
  have hla : la = (portOf s p.val).prot.scrubPos * 64 := congrArg (· * 64) hpos
  rw [if_neg ?held, if_neg ?skipped, if_neg ?owed, ← hla]
  case held => simp [q, hen, hon, hst, hawake, hdue, hout, hlines]
  case skipped =>
    rw [hla, show locOf s0 _ _ = _ from hloc, show liveDimms s0 _ = _ from hdimms, hlive]
    decide
  case owed =>
    rw [show c7Deferred s0 = _ from hstage', hstage, show (portOf s0 _).sched = _ from hsched, show fld s0 _ _ = _ from hrsv]
    simp only [Bool.false_or, decide_eq_true_eq, Nat.not_le.2 hroom, not_false_eq_true]
  rfl

/-- A visit whose line no direct write has overtaken does what its read says, and the next line is to come. -/
abbrev visited (n : Nat) (f : Flight) (err : Burst) (s : State) : State :=
  modProt n (fun x => { x with scrubOut := false, scrubPos := x.scrubPos + 1 })
    (visitOutcome n f.req.la (decodeFlight (flightTaken n f s) n f err) (flightTaken n f s))

theorem execScrubVisitDone_within (h : PortHere s p) {f : Flight} {err : Burst}
    (hflight : (portOf s p.val).sched.flight.find? (fun g => decide (g.req.kind = .visit)) = some f) (hwhole : f.overwritten = false)
    (hpass : (portOf (visited p.val f err s) p.val).prot.scrubPos < capG (visited p.val f err s) p.val * 2 ^ 24) :
    Does s (.scrubVisitDone p err) (setFld SCR_PASS_DONE p.val ((portOf (visited p.val f err s) p.val).prot.scrubPos * 100 /
      (capG (visited p.val f err s) p.val * 2 ^ 24)) (visited p.val f err s)) := by
  change execScrubVisitDone p err s = _
  simp only [execScrubVisitDone, onPort_here h, takeFlight_of_find hflight, hwhole, Bool.false_eq_true, if_false]
  rw [if_neg (Nat.not_le.2 hpass)]

/-! ### Correction windows and counters (R238, R252) -/

theorem execCeWindowExpire_due (h : PortHere s p) {a : Nat} (hopen : (portOf s p.val).prot.ceOpen = some a)
    (hdue : a + 1000 * edgesMs ≤ s.clk) :
    Does s (.ceWindowExpire p) (modProt p.val (fun x => { x with ceOpen := none, ceCount := 0 }) s) := by
  change execCeWindowExpire p s = _
  simp only [execCeWindowExpire, onPort_here h, hopen, hdue, if_true]

theorem ceThRaise_now (hlast : ∀ a, (portOf s n).prot.ceLast = some a → a + 1000 * edgesMs ≤ s.clk) :
    ceThRaise n s = raise 21 (modProt n (fun x => { x with ceRaiseDue := false, ceLast := some s.clk }) s) (some n) := by
  cases hraised : (portOf s n).prot.ceLast with
  | none => simp only [ceThRaise, hraised]
  | some a => simp only [ceThRaise, hraised, Nat.not_lt.2 (hlast a hraised), if_false]

theorem execCeThRaise_due (h : PortHere s p) (hdue : (portOf s p.val).prot.ceRaiseDue = true) :
    Does s (.ceThRaise p) (ceThRaise p.val s) := by
  change execCeThRaise p s = _
  simp only [execCeThRaise, onPort_here h, hdue, if_true]

theorem execEcCntClear_awake (h : PortHere s p) {v : Word} (hreset : s.pw.inReset = false) (hclr : v.getLsbD 0 = true) :
    Does s (.ecCntClear p v) (setWord (EC_CNT0_CE.off p.val) 0 (setWord (EC_CNT1_POISON_RD.off p.val) 0
      (setWord (EC_CNT2_SCRUB_WB.off p.val) 0 s))) := by
  change execEcCntClear p v s = _
  simp only [execEcCntClear, onPort_here h, hreset, hclr, Bool.not_true, Bool.or_self, Bool.false_eq_true, if_false]

end

/-- Settles O21, a clause for each row. -/
theorem mergeAndScrub : Obligations.MergeAndScrub := by
  unfold Obligations.MergeAndScrub
  intro s p e err v n q h
  refine ⟨fun m hm hopen hdue => ?gather, fun f m hflight hm hclean => ?rmw,
    fun hen hon hst hawake hdue hout hlines hlive hstage hroom => ?visit, fun f hflight hwhole => execScrubVisitDone_within h hflight hwhole,
    fun a => execCeWindowExpire_due h, fun hdue hlast => ceThRaise_now hlast ▸ execCeThRaise_due h hdue,
    fun hreset hclr => ⟨_, execEcCntClear_awake h hreset hclr, fld_setWord_zero rfl, fld_setWord_zero rfl,
      fld_setWord_zero_of_zero (fld_setWord_zero rfl), fld_setWord_zero_of_zero (fld_setWord_zero rfl),
      fld_setWord_zero_of_zero (fld_setWord_zero_of_zero (fld_setWord_zero rfl))⟩⟩
  case gather =>
    have hclose := closeEntry_open hm hopen
    refine ⟨_, execGatherClose_due h hm hdue, ?_, ?_, closeReq s e.val m, ?_, rfl, rfl, rfl, rfl⟩
    · simp [hclose, n, mget_mput]
    · rw [hclose]
      exact ⟨rfl, rfl, rfl, rfl⟩
    · simp [hclose, n]
  case rmw =>
    have hdone := execRmwReadDone_lands h hflight err
    have hm : mget (portOf (flightTaken n f s) n).prot.merge e.val = some m := by rwa [prot_flightTaken]
    exact ⟨fun hgood => hdone.trans (by rw [rmwFinish_good hm hclean hgood]), fun hbad => hdone.trans (by rw [rmwFinish_tainted hm hbad])⟩
  case visit =>
    have hqueued := execScrubVisit_due h hen hon hst hawake hdue hout hlines hlive hstage hroom
    obtain ⟨hsched, hpos, hbytes⟩ := port_passTimed n s
    obtain ⟨hbytes', hout', hpos', hqueue⟩ := visitQueued_frame n (q.scrubPos * 64) (nextVisitDue n s) (passTimed n s)
    exact ⟨_, hqueued, hbytes.trans hbytes', hout', hpos'.trans hpos, _, hsched ▸ hqueue, rfl, rfl, rfl⟩

end Sys2Proof.Machine
end

section
/-!
Stalls through their window (R254 to R256, R275, R279, R285 to R287): a stall behind its update, the guards of the window, what a PIO pop shows,
and the answer of each row where its condition holds.
-/

namespace Sys2Proof.Machine

section
variable {s : State} {a : Nat}

/-! ### A stall behind an update (R280) -/

@[simp] theorem putStall_stalls (a : Nat) (x : Stall) (s : State) : (putStall a x s).stalls = mput s.stalls a x.sync := by
  unfold putStall
  extract_lets
  split_ifs <;> rfl

/-- An update brings both copies of the pointers together, and leaves every other stall as it was. -/
@[simp] theorem stallOf_putStall (a b : Nat) (x : Stall) (s : State) :
    stallOf (putStall a x s) b = if b = a then x.sync else stallOf s b := by
  simp only [stallOf, putStall_stalls, mgetD, mget_mput]
  split <;> rfl

theorem stallOf_modStall (a : Nat) (g : Stall → Stall) (s : State) : stallOf (modStall a g s) a = (g (stallOf s a)).sync := by simp [modStall]

@[simp] theorem stallOf_reject (off reason src st a : Nat) (s : State) : stallOf (reject off reason s src st) a = stallOf s a := rfl

theorem checkStall_agrees (hagree : (stallOf s a).mismatch = false) : checkStall a s = s := by
  simp only [checkStall, hagree, Bool.false_eq_true, if_false]

/-! ### Guards of the commands (R286, R457) -/

/-- The per-stall window acts: it selects an implemented stall, and the engine is neither in reset nor in E3 or E4. -/
abbrev WindowOpen (s : State) : Prop :=
  s.pw.inReset = false ∧ fld s ST_SEL_STALL < stallCount s.part.variant ∧ s.pw.st.toNat < 3

theorem windowWrite_open (h : WindowOpen s) (off : Nat) (f : Nat → State → State) :
    windowWrite off s f = f (fld s ST_SEL_STALL) s := by
  obtain ⟨hreset, himpl, hawake⟩ := h
  simp only [windowWrite, selStall, hreset, Nat.not_le.2 himpl, Nat.not_le.2 hawake, decide_false, Bool.or_self, Bool.false_eq_true,
    if_false]

theorem onWindow_open (h : WindowOpen s) (off : Nat) (f : Nat → State → State) :
    onWindow off s f = .next (settle (f (fld s ST_SEL_STALL) s)) := by
  rw [onWindow, windowWrite_open h]

theorem onStall_here (h : a < stallCount s.part.variant) (f : State → State) : onStall a s f = .next (settle (f s)) := by
  rw [onStall, if_pos h]

/-! ### ENABLE, DISABLE and RESET (R256, R279) -/

theorem enableStall_on (hoff : (stallOf s a).st = .off) (hok : enableOk s a = true) : (stallOf (enableStall a s) a).st = .on := by
  simp only [enableStall, hoff, hok, ne_eq, not_true_eq_false, if_true, if_false, stallOf_putStall, Stall.sync]

theorem enableStall_refused (hoff : (stallOf s a).st = .off) (hbad : enableOk s a = false) :
    (stallOf (enableStall a s) a).st = .off ∧ (stallOf (enableStall a s) a).refused = true := by
  simp only [enableStall, hoff, hbad, ne_eq, not_true_eq_false, Bool.false_eq_true, if_false, stallOf_reject, stallOf_modStall, Stall.sync, and_self]

theorem execStallEnable_open (h : WindowOpen s) : Does s .stallEnable (enableStall (fld s ST_SEL_STALL) s) := onWindow_open h ..

theorem execStallDisable_open (h : WindowOpen s) : Does s .stallDisable (stopStall (fld s ST_SEL_STALL) 3 s) := onWindow_open h ..

theorem execStallReset_open (h : WindowOpen s) : Does s .stallReset (stopStall (fld s ST_SEL_STALL) 1 s) := onWindow_open h ..

/-! ### The PIO window (R287) -/

/-- The item that a write v of ST_PIO_PUSH brings. -/
abbrev pioItem (v : Word) (s : State) : SItem :=
  { data := BitVec.ofNat 64 (fld s ST_PIO_ITEM_LO_D + fld s ST_PIO_ITEM_HI_D * 2 ^ 32), eop := v.getLsbD 15,
    lbytes := BitVec.ofNat 3 (bits v.toNat 16 3) }

section
variable {v : Word} (hreset : s.pw.inReset = false) (hgo : v.getLsbD 31 = true) (ha : bits v.toNat 0 15 = a)
  (himpl : a < stallCount s.part.variant) (hst : (stallOf s a).st ≠ .off) (hagree : (stallOf s a).mismatch = false)
include hreset hgo ha himpl hst hagree

theorem execPioPush_fits (hprod : (stallOf s a).prod = 0x25) (hfull : v.getLsbD 15 = true ∨ bits v.toNat 16 3 = 7) (hroute : route s a = a)
    (hroom : (stallOf s a).o + (stallOf s a).items.length + 1 + (stallOf s a).gout ≤ (stallOf s a).slots - 8) :
    Does s (.pioPush v) (pumpItems a (modStall a (fun y => { y with items := y.items ++ [pioItem v s] }) s)) := by
  have hitem : (!v.getLsbD 15 && decide (bits v.toNat 16 3 ≠ 7)) = false := by
    rcases hfull with h | h <;> simp [h]
  change execPioPush v s = _
  simp only [execPioPush, pioPush, hreset, hgo, ha, Nat.not_le.2 himpl, hst, hprod, hitem, hroute, checkStall_agrees hagree, Nat.not_lt.2 hroom,
    ne_eq, not_true_eq_false, decide_false, Bool.not_true, Bool.or_self, Bool.false_eq_true, if_false]

theorem execPioPop_waits (hidle : flg s ST_PIO_STAT_POPBUSY = false) (hcons : (stallOf s a).cons = 0x25)
    (hwait : readerDone (startRead a .post 1 s) a .post = none) :
    Does s (.pioPop v) (setFld ST_PIO_STAT_POPBUSY 0 1 (startRead a .post 1 s)) := by
  change execPioPop v s = _
  simp only [execPioPop, pioPop, hreset, hgo, ha, Nat.not_le.2 himpl, hst, hcons, hidle, hwait, checkStall_agrees hagree, Option.isSome_none,
    ne_eq, not_true_eq_false, decide_false, Bool.not_true, Bool.or_self, Bool.false_eq_true, if_false]

end

/-- A field of none of the registers that are set in turn reads as before. -/
theorem fld_foldl_setFld_ne {f g : Fld} {i : Nat} (v : Nat → Nat) {l : List Nat} (h : ∀ j ∈ l, f.off i ≠ g.off j) (s : State) :
    fld (l.foldl (fun t j => setFld g j (v j) t) s) f i = fld s f i :=
  List.foldlRecOn (motive := fun t => fld t f i = fld s f i) _ _ rfl fun t ht j hj => (fld_setFld_ne f g i j (v j) t (h j hj)).trans ht

/-- Each copy of a field reads as it was set in turn. -/
theorem fld_foldl_setFld_range {g : Fld} (hword : g.lo + g.w ≤ 32) (hstride : 0 < g.stride) (v : Nat → Nat) {i m : Nat} (hi : i < m) (s : State) :
    fld ((List.range m).foldl (fun t j => setFld g j (v j) t) s) g i = v i % 2 ^ g.w := by
  induction m with
  | zero => exact absurd hi (Nat.not_lt_zero i)
  | succ m ih =>
    rw [List.range_succ, List.foldl_append, List.foldl_cons, List.foldl_nil]
    by_cases him : i = m
    · rw [him, fld_setFld_same _ _ _ _ hword]
    · have hoff : g.off i ≠ g.off m := fun h => him (Nat.eq_of_mul_eq_mul_right hstride (Nat.add_left_cancel h))
      rw [fld_setFld_ne _ _ _ _ _ _ hoff, ih (by omega)]

theorem pioShow_word (w : SWord) (s : State) : flg (pioShow w s) ST_PIO_STAT_POPBUSY = false ∧
    fld (pioShow w s) ST_PIO_TAG_TAG = w.tag.toNat ∧ ∀ i < 16, fld (pioShow w s) ST_PIO_W_D i = bits w.data.toNat (32 * i) 32 := by
  have hstat : ∀ j ∈ List.range 16, ST_PIO_STAT_POPBUSY.off 0 ≠ ST_PIO_W_D.off j := by decide
  have htag : ∀ j ∈ List.range 16, ST_PIO_TAG_TAG.off 0 ≠ ST_PIO_W_D.off j := by decide
  refine ⟨?_, ?_, fun i hi => ?_⟩
  · rw [pioShow, flg, fld_foldl_setFld_ne _ hstat, fld_setFld_apart (by decide), fld_setFld_same _ _ _ _ (by decide)]
    rfl
  · rw [pioShow, fld_foldl_setFld_ne _ htag, fld_setFld_same _ _ _ _ (by decide)]
    exact Nat.mod_eq_of_lt w.tag.isLt
  · rw [pioShow, fld_foldl_setFld_range (by decide) (by decide) _ hi]
    exact Nat.mod_mod ..

theorem execPioPopDone_held {e : Nat × Stall} {w : SWord} {l : List SWord} (hbusy : flg s ST_PIO_STAT_POPBUSY = true)
    (hfind : s.stalls.find? (fun e => (readerDone s e.1 .post).isSome) = some e) (hdone : readerDone s e.1 .post = some (w :: l)) :
    Does s .pioPopDone (pioShow w (dropReader e.1 s)) := by
  change execPioPopDone s = _
  simp only [execPioPopDone, pioPopEnd, hbusy, hfind, hdone, if_true]

/-! ### Counters (R285, R286) -/

theorem execStEcntClear_awake {v : Word} (hreset : s.pw.inReset = false) (hclr : v.getLsbD 0 = true) :
    Gives s (.stEcntClear v) (setFld ST_ECNT_MISMATCH 0 0 (setFld ST_ECNT_PWAIT 0 0 s)) := by
  change execStEcntClear v s = _
  simp only [execStEcntClear, writeEcntClr, hreset, hclr, Bool.not_false, Bool.and_self, if_true]

theorem execStErrClear_open (h : WindowOpen s) {v : Word} (hclr : v.getLsbD 0 = true) :
    Gives s (.stErrClear v) (modStall (fld s ST_SEL_STALL) (fun x => { x with errOver := 0, errCe := 0 }) s) := by
  change execStErrClear v s = _
  rw [execStErrClear, writeErrClr, windowWrite_open h, if_pos hclr]

/-! ### The packet boundary (R257, R275, R352) -/

theorem packetBoundary_fits {w : Word} (hstaged : (stallOf s a).cfg1New = some w) (hclosed : (stallOf s a).pktOpen = false)
    (happly : applyOpen s = true) (hring : (stallOf s a).pktFits (bits w.toNat 8 13) = true) (hqueue : queueMaxOk s a (bits w.toNat 8 13) = true) :
    packetBoundary a s = crcRestart s (modStall a (fun y => { y with cfg1 := w, cfg1New := none }) s) := by
  simp only [packetBoundary, hstaged, hclosed, happly, hring, hqueue, Bool.not_true, Bool.or_self, Bool.and_self, Bool.false_eq_true, if_true,
    if_false]

end

/-- Settles O24, a clause for each row; the name `stallWindow` is the model's, for what the registers of the window read. -/
theorem stallWindowRows : Obligations.StallWindow := by
  unfold Obligations.StallWindow
  intro s a v k opened b it
  refine ⟨fun h hoff hok => ⟨_, execStallEnable_open h, enableStall_on hoff hok⟩,
    fun h hoff hbad => ⟨_, execStallEnable_open h, enableStall_refused hoff hbad⟩,
    fun h hon => (execStallDisable_open h).trans ?disabled, fun h hon => (execStallReset_open h).trans ?reset,
    fun h hoff => (execStallReset_open h).trans ?alreadyOff,
    fun hreset hgo himpl hst hprod hfull hroute hagree hroom => execPioPush_fits hreset hgo rfl himpl hst hagree hprod hfull hroute hroom,
    fun hreset hgo hidle himpl hst hcons hagree hwait => execPioPop_waits hreset hgo rfl himpl hst hagree hidle hcons hwait,
    fun e w l hbusy hfind hdone => ⟨_, execPioPopDone_held hbusy hfind hdone, pioShow_word w _⟩,
    fun hreset hclr => ⟨_, execStEcntClear_awake hreset hclr, ?waits, fld_setFld_same _ _ _ _ (by decide)⟩,
    fun h hclr => execStErrClear_open h hclr,
    fun himpl w hstaged hclosed happly hring hqueue => packetBoundary_fits hstaged hclosed happly hring hqueue ▸ onStall_here himpl _⟩
  case disabled => rw [stopStall, if_neg hon]
  case reset => rw [stopStall, if_neg hon]
  case alreadyOff => rw [stopStall, if_pos hoff]
  case waits => rw [fld_setFld_apart (by decide), fld_setFld_same _ _ _ _ (by decide), Nat.zero_mod]

end Sys2Proof.Machine
end

section
/-!
What the stall manager does by itself (R264, R267 to R271, R274): the answer of each row of an implemented stall where what it waits for has come.
-/

namespace Sys2Proof.Machine

section
variable {s : State} {n : Nat}

/-! ### Spills and refills (R267 to R269) -/

/-- The full words of a fill bank stand in the ring, and staging holds them no more. -/
abbrev fullWordsSpilled (n : Nat) (s : State) : State :=
  modStall n (fun y => { y with
    spilled := (stallOf s n).fullWords.foldl (fun m e => max m (e.1 + 1)) 0
    staged := y.staged.filter fun e => !((stallOf s n).fullWords.any fun z => z.1 = e.1) }) (ringPutAll (stallOf s n) (stallOf s n).fullWords s)

theorem spillDone_full (hst : (stallOf s n).st ≠ .off) (hstage : c7Deferred s = false) (hring : ringDown s (stallOf s n) = false)
    (hawake : s.pw.st.toNat ≤ 1) (hplain : (stallOf s n).rew = false) (hfull : (stallOf s n).fullWords ≠ []) :
    spillDone n s = stallPump n (fullWordsSpilled n s) := by
  simp only [spillDone, hst, hstage, hring, Nat.not_lt.2 hawake, hplain, hfull, decide_false, Bool.or_self, Bool.false_eq_true,
    if_false]

/-- The drain bank holds the block of H, refilled from the ring: the skip goes on, and then the read in progress. -/
def drainRefilled (n : Nat) (errs : List RefillErr) (s : State) : State :=
  let x := stallOf s n
  let kept := x.staged.filter fun e => some (e.1 / 8) ≠ x.drain
  let pos := ((List.range 8).map fun i => 8 * (x.h / 8) + i).filter fun p => x.h ≤ p && p < x.spilled && (mget kept p).isNone
  let te := refillErr errs 8
  let t := ringRead (x.tagAddr (8 * (x.h / 8)) / 64 * 64) te.1 te.2 s
  let r := refillWords x errs (t.2.1 = some false) t.1 pos (kept, 0, t.2.2)
  let u := modStall n (fun y => { y with staged := r.1, drain := some (x.h / 8) }) r.2.2
  runReader n 8 (skipNow n (if r.2.1 = 0 then u else stallErr 8 n r.2.1 u))

/-- A refill goes on where the stall is in use, its next word stands in the ring alone, and its pair takes the block. -/
theorem refillDone_goes (hst : (stallOf s n).st ≠ .off) (hspilled : (stallOf s n).h < (stallOf s n).spilled)
    (hwritten : (stallOf s n).h < (stallOf s n).wpos) (hmiss : mget (stallOf s n).staged (stallOf s n).h = none) (hready : pairReady s n = true)
    (hawake : s.pw.st.toNat ≤ 1) (hpair : (stallOf s n).pair.isSome = true) (htake : takePair n s = s) (errs : List RefillErr) :
    refillDone n errs s = drainRefilled n errs s := by
  have hpaired : (stallOf s n).pair.isNone = false := by rw [← Option.not_isSome, hpair, Bool.not_true]
  simp only [refillDone, hst, Nat.not_le.2 hspilled, Nat.not_le.2 hwritten, hmiss, hready, Nat.not_lt.2 hawake, htake, hpaired,
    Option.isSome_none, decide_false, Bool.not_true, Bool.or_self, Bool.false_eq_true, if_false, drainRefilled]

/-! ### The rows -/

section
variable {a : BitVec 15} (himpl : a.toNat < stallCount s.part.variant)
include himpl

theorem execStallFlushTimer_due (hdue : flushDue s a.toNat = true) : Does s (.stallFlushTimer a) (flushPart a.toNat s) := by
  change execStallFlushTimer a s = _
  rw [execStallFlushTimer, onStall_here himpl, if_pos hdue]

theorem execPairIdleRelease_idle (hidle : pairIdle s a.toNat = true) :
    Does s (.pairIdleRelease a) (modStall a.toNat (fun y => { y with pair := none, staged := [], drain := none }) s) := by
  change execPairIdleRelease a s = _
  rw [execPairIdleRelease, onStall_here himpl, if_pos hidle]

theorem execStallSpillDone_here : Does s (.stallSpillDone a) (spillDone a.toNat s) := by
  change execStallSpillDone a s = _
  rw [execStallSpillDone, onStall_here himpl]

theorem execStallRefillDone_here (errs : List RefillErr) : Does s (.stallRefillDone a errs) (refillDone a.toNat errs s) := by
  change execStallRefillDone a errs s = _
  rw [execStallRefillDone, onStall_here himpl]

theorem execStallFwaitResume_here : Does s (.stallFwaitResume a) (stallPump a.toNat s) := by
  change execStallFwaitResume a s = _
  rw [execStallFwaitResume, onStall_here himpl]

theorem execStallCloseWord_here : Does s (.stallCloseWord a) (pumpItems a.toNat (tryClose a.toNat s)) := by
  change execStallCloseWord a s = _
  rw [execStallCloseWord, onStall_here himpl]

end

end

/-- Settles O25, a clause for each row. -/
theorem stallEngine : Obligations.StallEngine := by
  unfold Obligations.StallEngine
  intro s a errs n x himpl
  refine ⟨execStallFlushTimer_due himpl, execPairIdleRelease_idle himpl,
    fun hst hstage hring hawake hplain hfull => spillDone_full hst hstage hring hawake hplain hfull ▸ execStallSpillDone_here himpl,
    fun hst hspilled hwritten hmiss hready hawake hpair htake => ?refill, execStallFwaitResume_here himpl, execStallCloseWord_here himpl⟩
  case refill =>
    have hrefill := execStallRefillDone_here himpl errs
    rwa [refillDone_goes hst hspilled hwritten hmiss hready hawake hpair htake] at hrefill

end Sys2Proof.Machine
end

section
/-!
The words of the Lantern instructions, both ways (R333, Table 12.4): the fields of each format read back from its word, and a word is put
together again from its fields.
-/

namespace Sys2Proof.Laws

open Sys2Proof Sys2Proof.Machine

/-! ### The fields of a format -/

/-- A field within the lower part of an append is a field of that part. -/
theorem lower {n k : Nat} (x : BitVec k) (y : BitVec n) (a w : Nat) (h : a + w ≤ n) : (x ++ y).extractLsb' a w = y.extractLsb' a w := by
  apply BitVec.eq_of_getLsbD_eq
  intro i hi
  simp only [BitVec.getLsbD_extractLsb', BitVec.getLsbD_append, hi, decide_true, Bool.true_and]
  rw [if_pos (by omega)]

/-- The lower part of an append is the field of its width at its foot. -/
theorem foot {n k : Nat} (x : BitVec k) (y : BitVec n) : (x ++ y).extractLsb' 0 n = y :=
  (lower x y 0 n (by simp)).trans BitVec.extractLsb'_eq_self

section
variable (m fn : Nat) (rd ra rb : BitVec 5) (sf : BitVec 1) (x k : BitVec 4) (imm : BitVec 16) (r : BitVec 6) (far : BitVec 26)

@[simp] theorem wFn_encR : wFn (encR m rd ra rb sf x fn) = fn % 64 :=
  (congrArg BitVec.toNat (foot _ _)).trans (BitVec.toNat_ofNat fn 6)

@[simp] theorem wX_encR : wX (encR m rd ra rb sf x fn) = x := (upper _ _ _ _ (by decide)).trans (foot _ _)

@[simp] theorem wSf_encR : wSf (encR m rd ra rb sf x fn) = sf :=
  (upper _ _ _ _ (by decide)).trans <| (upper _ _ _ _ (by decide)).trans (foot _ _)

@[simp] theorem wRb_encR : wRb (encR m rd ra rb sf x fn) = rb :=
  (upper _ _ _ _ (by decide)).trans <| (upper _ _ _ _ (by decide)).trans <| (upper _ _ _ _ (by decide)).trans (foot _ _)

@[simp] theorem wRa_encR : wRa (encR m rd ra rb sf x fn) = ra :=
  (upper _ _ _ _ (by decide)).trans <| (upper _ _ _ _ (by decide)).trans <| (upper _ _ _ _ (by decide)).trans <|
    (upper _ _ _ _ (by decide)).trans (foot _ _)

@[simp] theorem wRd_encR : wRd (encR m rd ra rb sf x fn) = rd :=
  (upper _ _ _ _ (by decide)).trans <| (upper _ _ _ _ (by decide)).trans <| (upper _ _ _ _ (by decide)).trans <|
    (upper _ _ _ _ (by decide)).trans <| (upper _ _ _ _ (by decide)).trans (foot _ _)

@[simp] theorem wImm_encI : wImm (encI m rd ra imm) = imm := foot _ _

@[simp] theorem wRa_encI : wRa (encI m rd ra imm) = ra := (upper _ _ _ _ (by decide)).trans (foot _ _)

@[simp] theorem wRd_encI : wRd (encI m rd ra imm) = rd :=
  (upper _ _ _ _ (by decide)).trans <| (upper _ _ _ _ (by decide)).trans (foot _ _)

@[simp] theorem wImm_encB : wImm (encB m ra rb imm) = imm := foot _ _

@[simp] theorem wRa_encB : wRa (encB m ra rb imm) = rb := wRa_encI m ra rb imm

@[simp] theorem wRd_encB : wRd (encB m ra rb imm) = ra := wRd_encI m ra rb imm

@[simp] theorem wImm_encC : wImm (encC m k r imm) = imm := foot _ _

@[simp] theorem rsvd_encC : (encC m k r imm).extractLsb' 16 6 = r := (upper _ _ _ _ (by decide)).trans (foot _ _)

@[simp] theorem cond_encC : (encC m k r imm).extractLsb' 22 4 = k :=
  (upper _ _ _ _ (by decide)).trans <| (upper _ _ _ _ (by decide)).trans (foot _ _)

@[simp] theorem off_encJ : (encJ m far).extractLsb' 0 26 = far := foot _ _

end

/-! ### A word from its fields -/

section
variable {w : Word} {m : Nat} (hm : wMajor w = m)
include hm

theorem encR_of_fields {fn : Nat} (hfn : wFn w = fn) : encR m (wRd w) (wRa w) (wRb w) (wSf w) (wX w) fn = w := by
  subst hm hfn
  simp only [encR, wMajor, wRd, wRa, wRb, wSf, wX, wFn, BitVec.ofNat_toNat, BitVec.setWidth_eq]
  iterate 6 rw [BitVec.extractLsb'_append_extractLsb'_eq_extractLsb' (by rfl)]
  exact BitVec.extractLsb'_eq_self

theorem encI_of_fields : encI m (wRd w) (wRa w) (wImm w) = w := by
  subst hm
  simp only [encI, wMajor, wRd, wRa, wImm, BitVec.ofNat_toNat, BitVec.setWidth_eq]
  iterate 3 rw [BitVec.extractLsb'_append_extractLsb'_eq_extractLsb' (by rfl)]
  exact BitVec.extractLsb'_eq_self

theorem encB_of_fields : encB m (wRd w) (wRa w) (wImm w) = w := encI_of_fields hm

theorem encC_of_fields : encC m (w.extractLsb' 22 4) (w.extractLsb' 16 6) (wImm w) = w := by
  subst hm
  simp only [encC, wMajor, wImm, BitVec.ofNat_toNat, BitVec.setWidth_eq]
  iterate 3 rw [BitVec.extractLsb'_append_extractLsb'_eq_extractLsb' (by rfl)]
  exact BitVec.extractLsb'_eq_self

theorem encJ_of_fields : encJ m (w.extractLsb' 0 26) = w := by
  subst hm
  simp only [encJ, wMajor, BitVec.ofNat_toNat, BitVec.setWidth_eq]
  rw [BitVec.extractLsb'_append_extractLsb'_eq_extractLsb' (by rfl)]
  exact BitVec.extractLsb'_eq_self

end

/-! ### Both ways -/

section
variable {i : Instr} {c : Fin 4} {w : Word}

theorem decodeLant_defined (hd : wordDefined w = true) (he : encodeLant i = some (c, w)) : decodeLant c w = some i := by
  rw [decodeLant, if_neg (by simp [hd])]
  unfold encodeLant at he
  split at he
  all_goals cases he
  all_goals simp [major_encR, major_encI, major_encB, major_encC, major_encJ, decodeAlu, decodeMem, decodeStall, decodeTime, decodeSys, decodeEq,
    decodeDram]

/-- The word of a command in format R, where the tables read the command from the major opcode and FN. -/
theorem encoded_encR {m fn : Nat} (hm : wMajor w = m) (hfn : wFn w = fn) :
    some (c, encR m (wRd w) (wRa w) (wRb w) (wSf w) (wX w) fn) = some (c, w) := by rw [encR_of_fields hm hfn]

/-- The same, where X too is an encoding field. -/
theorem encoded_encR_x {m fn x : Nat} (hm : wMajor w = m) (hfn : wFn w = fn) (hx : (wX w).toNat = x) :
    some (c, encR m (wRd w) (wRa w) (wRb w) (wSf w) (BitVec.ofNat 4 x) fn) = some (c, w) := by
  rw [← hx, BitVec.ofNat_toNat, BitVec.setWidth_eq, encR_of_fields hm hfn]

theorem encodeLant_decodeAlu (hm : wMajor w = 1) (h : decodeAlu c w = some i) : encodeLant i = some (c, w) := by
  unfold decodeAlu at h
  split at h
  all_goals cases h
  all_goals exact encoded_encR hm ‹_›

theorem encodeLant_decodeMem (hm : wMajor w = 0x2E) (h : decodeMem c w = some i) : encodeLant i = some (c, w) := by
  unfold decodeMem at h
  split at h
  all_goals cases h
  all_goals exact encoded_encR hm ‹_›

theorem encodeLant_decodeStall (hm : wMajor w = 0x30) (h : decodeStall c w = some i) : encodeLant i = some (c, w) := by
  unfold decodeStall at h
  split at h
  all_goals cases h
  all_goals exact encoded_encR hm ‹_›

theorem encodeLant_decodeTime (hm : wMajor w = 0x31) (h : decodeTime c w = some i) : encodeLant i = some (c, w) := by
  unfold decodeTime at h
  split at h
  all_goals cases h
  all_goals exact encoded_encR hm ‹_›

theorem encodeLant_decodeEq (hm : wMajor w = 0x32) (hfn : wFn w = 6) (h : decodeEq c w = some i) : encodeLant i = some (c, w) := by
  unfold decodeEq at h
  split at h
  all_goals cases h
  all_goals exact encoded_encR_x hm hfn ‹_›

theorem encodeLant_decodeSys (hm : wMajor w = 0x32) (h : decodeSys c w = some i) : encodeLant i = some (c, w) := by
  unfold decodeSys at h
  split at h
  case h_7 hfn => exact encodeLant_decodeEq hm hfn h
  all_goals cases h
  all_goals exact encoded_encR hm ‹_›

theorem encodeLant_decodeDram (hm : wMajor w = 0x33) (h : decodeDram c w = some i) : encodeLant i = some (c, w) := by
  unfold decodeDram at h
  split at h
  all_goals cases h
  iterate 2 next hfn => exact encoded_encR hm hfn
  all_goals exact encoded_encR_x hm ‹_› ‹_›

theorem encodeLant_decodeLant (h : decodeLant c w = some i) : encodeLant i = some (c, w) := by
  unfold decodeLant at h
  split at h
  next => cases h
  split at h
  next hm => exact encodeLant_decodeAlu hm h
  iterate 26 next hm => cases h; exact congrArg (fun v => some (c, v)) (encI_of_fields hm)
  next hm => cases h; exact congrArg (fun v => some (c, v)) (encC_of_fields hm)
  iterate 6 next hm => cases h; exact congrArg (fun v => some (c, v)) (encB_of_fields hm)
  next hm => cases h; exact congrArg (fun v => some (c, v)) (encJ_of_fields hm)
  next hm => exact encodeLant_decodeMem hm h
  next hm => exact encodeLant_decodeStall hm h
  next hm => exact encodeLant_decodeTime hm h
  next hm => exact encodeLant_decodeSys hm h
  next hm => exact encodeLant_decodeDram hm h
  next => cases h

end

/-- Settles O57: by the command one way, by the branches of the decoder the other. -/
theorem lanternRoundTrip : Obligations.LanternRoundTrip := by
  unfold Obligations.LanternRoundTrip
  exact ⟨fun _ _ _ he hd => decodeLant_defined hd he, fun _ _ _ => encodeLant_decodeLant⟩

end Sys2Proof.Laws
end

section
/-!
The engine right after reset, the front of the queue, and single words (R332, R425).
-/

namespace Sys2Proof.Machine

/-- Settles O54: the two equations of `step`. -/
theorem stepFront : Obligations.StepFront := by
  unfold Obligations.StepFront
  exact fun _ _ _ => ⟨rfl, rfl⟩

/-- Settles O58 by evaluation, for each context. -/
theorem lanternWords : Obligations.LanternWords := by
  unfold Obligations.LanternWords
  decide

theorem quiet_reset : Quiet State.reset := by decide

theorem regAt_reset (off rst : Nat) : regAt State.reset off rst = rst := rfl

theorem stagedAt_reset (off rst : Nat) : stagedAt State.reset off rst = rst := rfl

theorem pstate_reset : ∀ p < 20, pstate State.reset p = .off := by decide

/-- Settles O56: no table of the reset state holds anything but the record of context 0, so every register reads its reset word. -/
theorem resetState : Obligations.ResetState := by
  unfold Obligations.ResetState
  refine ⟨reset_memOk, quiet_reset, rfl, rfl, rfl, rfl, ⟨rfl, rfl, by decide⟩, fun _ => rfl, pstate_reset,
    fun off rst => ⟨regAt_reset off rst, stagedAt_reset off rst⟩, ?_⟩
  simp only [fld, flg, regAt_reset]
  decide

end Sys2Proof.Machine
end

section
/-!
Lantern's arithmetic and logic (R335 to R337, Table 12.7): the effect of an ALU instruction of each shape, once, and the results of the table's
operations as the model computes them.
-/

namespace Sys2Proof.Machine

section
variable {s : State} {c : Fin 4} {rd ra rb : BitVec 5} {sf : BitVec 1} {r : W64} {cy v : Bool}

/-! ### Table 12.7 but division -/

/-- An ALU instruction completes with what its operation gives. -/
theorem aluRuns_of_res {i : Instr} {fn : Nat} {two : Bool} (f : W64 → W64 → Nat → AluRes) (hrb : two = true ∨ rb = 0)
    (he : ∀ u, exec i u = aluInsn fn two f c rd ra rb sf 0 u)
    (hf : f (gpr (ctxOf s c.val) ra) (gpr (ctxOf s c.val) rb) (b2n (ctxC (ctxOf s c.val))) = { r := r, c := cy, v := v }) :
    AluRuns s c i (encR 1 rd ra rb sf 0 fn) rd sf r cy v := by
  have hrsvd : (decide ((0 : BitVec 4) ≠ 0) || (!two && decide (rb ≠ 0))) = false := by
    rcases hrb with h | h <;> simp [h]
  have hi : ∀ u, exec i u = .next (settle (lantIssue c.val (encR 1 rd ra rb sf 0 fn) false false false (fun t =>
      some (aluDone c.val rd sf (f (gpr (ctxOf t c.val) ra) (gpr (ctxOf t c.val) rb) (b2n (ctxC (ctxOf t c.val)))) t)) u)) :=
    fun u => by rw [he, aluInsn, hrsvd]
  refine runs hi fun _ => ⟨_, rfl, ?_⟩
  rw [gpr_issued, gpr_issued, ctxC, flags_issued, ← ctxC, hf]
  exact aluDone_effect s c (encR 1 rd ra rb sf 0 fn) rd sf { r := r, c := cy, v := v }

/-- The same for an operation without a carry or an overflow. -/
theorem aluRuns_logic {i : Instr} {fn : Nat} {two : Bool} (hrb : two = true ∨ rb = 0) (f : W64 → W64 → W64)
    (he : ∀ u, exec i u = aluInsn fn two (logic f) c rd ra rb sf 0 u) (hf : f (gpr (ctxOf s c.val) ra) (gpr (ctxOf s c.val) rb) = r) :
    AluRuns s c i (encR 1 rd ra rb sf 0 fn) rd sf r false false :=
  aluRuns_of_res (logic f) hrb he (congrArg (fun r => { r := r : AluRes }) hf)

theorem addRes_zero (a b : W64) : addRes a b 0 =
    { r := a + b, c := 2 ^ 64 ≤ a.toNat + b.toNat, v := (a + b).toInt ≠ a.toInt + b.toInt } := by simp [addRes]

theorem subRes_one (a b : W64) : subRes a b 1 =
    { r := a - b, c := b.toNat ≤ a.toNat, v := (a - b).toInt ≠ a.toInt - b.toInt } := by simp [subRes]

theorem subRes_borrow (a b : W64) (k : Bool) : subRes a b (b2n k) =
    { r := a - b - BitVec.ofNat 64 (1 - b2n k), c := b.toNat + (1 - b2n k) ≤ a.toNat
      v := (a - b - BitVec.ofNat 64 (1 - b2n k)).toInt ≠ a.toInt - b.toInt - (1 - (b2n k : Int)) } := by
  cases k <;> rfl

theorem subRes_neg (a : W64) : subRes 0 a 1 = { r := -a, c := a = 0, v := a = 0x8000000000000000 } := by
  have hc : (a.toNat ≤ 0) = (a = 0) := by
    rw [Nat.le_zero, ← BitVec.toNat_inj]
    rfl
  have hv : ((-a).toInt ≠ -a.toInt) = (a = 0x8000000000000000) := by
    have hmin : (0x8000000000000000 : W64) = BitVec.intMin 64 := rfl
    rw [BitVec.toInt_neg_eq_ite, hmin]
    split
    · next h => simp [h, BitVec.toInt_intMin]
    · next h => simp [h]
  rw [subRes_one]
  simp [hc, hv]

theorem sraOf_eq (a : W64) (n : Nat) :
    sraOf a n = if 64 ≤ n then (if a.msb then BitVec.allOnes 64 else 0) else a.sshiftRight n := by
  unfold sraOf
  split
  · next h =>
    rw [Nat.min_eq_right h]
    apply BitVec.eq_of_getLsbD_eq
    intro i hi
    rw [BitVec.getLsbD_sshiftRight]
    cases a.msb
    · simp
    · rw [if_pos rfl, BitVec.getLsbD_allOnes]
      simp [hi, Nat.not_le.2 hi]
  · next h => rw [Nat.min_eq_left (by omega)]

theorem extractLsb'_ofInt (z : Int) : (BitVec.ofInt 128 z).extractLsb' 64 64 = BitVec.ofInt 64 (z / 2 ^ 64) := by
  apply BitVec.eq_of_toNat_eq
  rw [BitVec.extractLsb'_toNat, BitVec.toNat_ofInt, BitVec.toNat_ofInt, Nat.shiftRight_eq_div_pow]
  omega

theorem mulh_eq (a b : W64) : BitVec.ofInt 64 (Int.fdiv (a.toInt * b.toInt) (2 ^ 64)) =
    (a.signExtend 128 * b.signExtend 128).extractLsb' 64 64 := by
  rw [BitVec.signExtend, BitVec.signExtend, ← BitVec.ofInt_mul, extractLsb'_ofInt, Int.fdiv_eq_ediv_of_nonneg _ (by decide)]

theorem mulhu_eq (a b : W64) : BitVec.ofNat 64 (a.toNat * b.toNat / 2 ^ 64) =
    (a.setWidth 128 * b.setWidth 128).extractLsb' 64 64 := by
  have hab : a.toNat * b.toNat < 2 ^ 64 * 2 ^ 64 := Nat.mul_lt_mul'' a.isLt b.isLt
  apply BitVec.eq_of_toNat_eq
  rw [BitVec.extractLsb'_toNat, BitVec.toNat_ofNat, BitVec.toNat_mul, BitVec.toNat_setWidth_of_le (by decide),
    BitVec.toNat_setWidth_of_le (by decide), Nat.shiftRight_eq_div_pow]
  omega

/-- The first index of a range at which p holds, or the range's length. -/
theorem find?_range_getD {p : Nat → Bool} {n m : Nat} (hn : n ≤ m) (hbelow : ∀ i < n, p i = false) (hat : n < m → p n = true) :
    ((List.range m).find? p).getD m = n := by
  rcases Nat.lt_or_eq_of_le hn with h | rfl
  · rw [List.find?_range_eq_some.2 ⟨hat h, List.mem_range.2 h, fun i hi => by simp [hbelow i hi]⟩]
    rfl
  · rw [List.find?_range_eq_none.2 fun i hi => by simp [hbelow i hi]]
    rfl

theorem sextFrom_eq (a : W64) {n : Nat} (hn : 0 < n) : sextFrom a n = (a.setWidth n).signExtend 64 := by
  rw [sextFrom, asSigned, BitVec.signExtend, BitVec.toInt, BitVec.toNat_setWidth]
  congr 1
  obtain ⟨m, rfl⟩ : ∃ m, n = m + 1 := ⟨n - 1, by omega⟩
  have hpow : 2 ^ (m + 1) = 2 * 2 ^ m := by ring
  have hcast : ((2 ^ (m + 1) : Nat) : Int) = 2 ^ (m + 1) := by push_cast; rfl
  simp only [Nat.add_sub_cancel, ← hcast]
  split <;> split <;> omega

theorem aluRuns_sext {i : Instr} {x : BitVec 4} {n : Nat} (hx : x.toNat < 3) (hn : n = 8 * 2 ^ x.toNat)
    (he : ∀ u, exec i u = execSext c rd ra 0 sf x u) :
    AluRuns s c i (encR 1 rd ra 0 sf x 0x1A) rd sf (((gpr (ctxOf s c.val) ra).setWidth n).signExtend 64) false false := by
  have hmod : x.toNat % 4 = x.toNat := Nat.mod_eq_of_lt (by omega)
  have hundef : decide (x.toNat % 4 = 3) = false := decide_eq_false (by omega)
  have hrsvd : (decide (x.toNat / 4 ≠ 0) || decide ((0 : BitVec 5) ≠ 0)) = false := by
    simp
    omega
  have hi : ∀ u, exec i u = .next (settle (lantIssue c.val (encR 1 rd ra 0 sf x 0x1A) false false false (fun t =>
      some (aluDone c.val rd sf { r := sextFrom (gpr (ctxOf t c.val) ra) (8 * 2 ^ (x.toNat % 4)) } t)) u)) :=
    fun u => by rw [he, execSext, hundef, hrsvd]
  refine runs hi fun _ => ⟨_, rfl, ?_⟩
  rw [gpr_issued, hmod, ← hn, sextFrom_eq _ (hn ▸ Nat.mul_pos (by decide) (Nat.two_pow_pos _))]
  exact aluDone_effect s c (encR 1 rd ra 0 sf x 0x1A) rd sf { r := _, c := false, v := false }

/-! ### Division (R337) -/

/-- A division by zero that completes is a register effect with DZ set. -/
theorem aluDone_stickyDz_effect (s : State) (c : Fin 4) (w : Word) (rd : BitVec 5) (sf : BitVec 1) (r : W64) :
    RegEffect c s (aluDone c.val rd sf { r := r } (modCtx c.val stickyDz (issued c.val w s))) ((ctxOf s c.val).pc + 4) rd r
      (flagsAfter ((ctxOf s c.val).flags ||| 16) sf r false false) := by
  have hflags : (fun x : Ctx => stickyOv (if sf = 1 then setZnvc (stickyDz x) { r := r } else stickyDz x) false) =
      fun x => { x with flags := flagsAfter (x.flags ||| 16) sf r false false } := by
    funext x
    rw [show x.flags ||| 16 = (stickyDz x).flags from rfl, ← flags_eq (stickyDz x) sf { r := r }]
    by_cases hsf : sf = 1
    · rw [if_pos hsf]
      rfl
    · rw [if_neg hsf]
      rfl
  rw [aluDone, modCtx_modCtx, hflags, retireWith, nextPc, ctxOf_modCtx, if_pos rfl]
  dsimp only
  rw [pc_issued]
  exact done_effect s c w _ rd r (fun x => flagsAfter (x.flags ||| 16) sf r false false) fun _ _ h => by rw [h]

/-- A division by zero that traps writes DZ and no other flag, and is a trap of the context with that flag. -/
theorem trap_stickyDz (s : State) (c : Fin 4) (w : Word) :
    let t := trapCtx c.val trapDz w 0 (modCtx c.val stickyDz (issued c.val w s))
    (ctxOf t c.val).flags = (ctxOf s c.val).flags ||| 16 ∧
      Trapped c (modCtx c.val (fun y => { y with flags := y.flags ||| 16 }) s) t 11 w 0 := by
  obtain ⟨k, hk⟩ := issued_ctx_all s c w
  have htrap : Trapped c (modCtx c.val (fun y => { y with flags := y.flags ||| 16 }) s)
      (trapCtx c.val trapDz w 0 (modCtx c.val stickyDz (issued c.val w s))) 11 w 0 := by
    refine trapped_of _ _ c 11 w 0 w k (fun d => ?_) (issued_fields s c.val w) (issued_prog ..) (issued_data ..)
    have hc := hk c
    rw [if_pos rfl] at hc
    by_cases hd : d = c
    · simp [hd, hc, stickyDz]
    · simp [hd, fval, hk d]
  refine ⟨?_, htrap⟩
  obtain ⟨_, _, _, _, _, _, _, _, hflags, _⟩ := htrap
  rw [hflags, ctxOf_modCtx, if_pos rfl]

section
variable {i : Instr} {fn : Nat} (zero : W64 → W64) (f : W64 → W64 → AluRes) (he : ∀ u, exec i u = divInsn fn zero f c rd ra rb sf 0 u)
include he

theorem exec_div (u : State) : exec i u = .next (settle (lantIssue c.val (encR 1 rd ra rb sf 0 fn) false false false (fun t =>
    if gpr (ctxOf t c.val) rb ≠ 0 then some (aluDone c.val rd sf (f (gpr (ctxOf t c.val) ra) (gpr (ctxOf t c.val) rb)) t)
    else if (ctxOf t c.val).trapen.getLsbD 0 then
      some (trapCtx c.val trapDz (encR 1 rd ra rb sf 0 fn) 0 (modCtx c.val stickyDz t))
    else some (aluDone c.val rd sf { r := zero (gpr (ctxOf t c.val) ra) } (modCtx c.val stickyDz t))) u)) := by
  rw [he, divInsn]
  rfl

theorem aluRuns_div (hb : gpr (ctxOf s c.val) rb ≠ 0)
    (hf : f (gpr (ctxOf s c.val) ra) (gpr (ctxOf s c.val) rb) = { r := r, c := cy, v := v }) :
    AluRuns s c i (encR 1 rd ra rb sf 0 fn) rd sf r cy v := by
  refine runs (exec_div zero f he) fun _ => ⟨_, if_pos (by rwa [gpr_issued]), ?_⟩
  rw [gpr_issued, gpr_issued, hf]
  exact aluDone_effect s c (encR 1 rd ra rb sf 0 fn) rd sf { r := r, c := cy, v := v }

theorem runs_div_zero (hb : gpr (ctxOf s c.val) rb = 0) (hdz : (ctxOf s c.val).trapen.getLsbD 0 = false)
    (hz : zero (gpr (ctxOf s c.val) ra) = r) :
    Runs s c i (encR 1 rd ra rb sf 0 fn) fun t =>
      RegEffect c s t ((ctxOf s c.val).pc + 4) rd r (flagsAfter ((ctxOf s c.val).flags ||| 16) sf r false false) := by
  refine runs (exec_div zero f he) fun _ => ⟨_, (if_neg (by simp [gpr_issued, hb])).trans (if_neg (by rw [trapen_issued, hdz]; decide)), ?_⟩
  rw [gpr_issued, hz]
  exact aluDone_stickyDz_effect s c (encR 1 rd ra rb sf 0 fn) rd sf r

theorem runs_div_trap (hb : gpr (ctxOf s c.val) rb = 0) (hdz : (ctxOf s c.val).trapen.getLsbD 0 = true) :
    Runs s c i (encR 1 rd ra rb sf 0 fn) fun t => (ctxOf t c.val).flags = (ctxOf s c.val).flags ||| 16 ∧
      Trapped c (modCtx c.val (fun y => { y with flags := y.flags ||| 16 }) s) t 11 (encR 1 rd ra rb sf 0 fn) 0 := by
  refine runs (exec_div zero f he) fun _ => ⟨_, (if_neg (by simp [gpr_issued, hb])).trans (if_pos (by rwa [trapen_issued])), ?_⟩
  exact trap_stickyDz s c _

end

theorem divRes_eq (a : W64) {b : W64} (hb : b ≠ 0) : divRes a b =
    { r := BitVec.ofInt 64 (Int.tdiv a.toInt b.toInt), v := a = 0x8000000000000000 ∧ b = -1 } := by
  have hv : (BitVec.ofInt 64 (Int.tdiv a.toInt b.toInt)).toInt ≠ Int.tdiv a.toInt b.toInt ↔ a = 0x8000000000000000 ∧ b = -1 := by
    rw [BitVec.toInt_ofInt, ← BitVec.toInt_sdiv]
    constructor
    · intro h
      by_contra hn
      exact h (BitVec.toInt_sdiv_of_ne_or_ne a b (not_and_or.1 hn))
    · rintro ⟨rfl, rfl⟩
      decide
  simp only [divRes, hv]

theorem divu_eq (a b : W64) : BitVec.ofNat 64 (a.toNat / b.toNat) = a / b := by
  apply BitVec.eq_of_toNat_eq
  rw [BitVec.toNat_ofNat, BitVec.toNat_udiv]
  exact Nat.mod_eq_of_lt (Nat.lt_of_le_of_lt (Nat.div_le_self ..) a.isLt)

theorem remu_eq (a b : W64) : BitVec.ofNat 64 (a.toNat % b.toNat) = a % b := by
  apply BitVec.eq_of_toNat_eq
  rw [BitVec.toNat_ofNat, BitVec.toNat_umod]
  exact Nat.mod_eq_of_lt (Nat.lt_of_le_of_lt (Nat.mod_le ..) a.isLt)

theorem rem_eq (a b : W64) : BitVec.ofInt 64 (Int.tmod a.toInt b.toInt) = a - b * BitVec.ofInt 64 (Int.tdiv a.toInt b.toInt) := by
  rw [Int.tmod_def, Int.sub_eq_add_neg, BitVec.ofInt_add, BitVec.ofInt_neg, BitVec.ofInt_mul, BitVec.ofInt_toInt, BitVec.ofInt_toInt,
    BitVec.sub_eq_add_neg]

end

/-- Settles O1. -/
theorem lanternArithmetic : Obligations.LanternArithmetic := by
  unfold Obligations.LanternArithmetic
  intro s c rd ra rb sf x a b k
  exact ⟨aluRuns_of_res (fun a b _ => addRes a b 0) (.inl rfl) (fun _ => rfl) (addRes_zero a b),
    aluRuns_of_res (fun a b _ => subRes a b 1) (.inl rfl) (fun _ => rfl) (subRes_one a b), aluRuns_of_res addRes (.inl rfl) (fun _ => rfl) rfl,
    aluRuns_of_res subRes (.inl rfl) (fun _ => rfl) (subRes_borrow a b (ctxC x)),
    aluRuns_of_res (fun a _ _ => subRes 0 a 1) (.inr rfl) (fun _ => rfl) (subRes_neg a),
    aluRuns_of_res (fun a b _ => mulRes a b) (.inl rfl) (fun _ => rfl) rfl⟩

/-- Settles O2. -/
theorem lanternLogic : Obligations.LanternLogic := by
  unfold Obligations.LanternLogic
  intro s c rd ra rb sf a b op un
  exact ⟨aluRuns_logic (.inl rfl) (fun a b => a &&& b) (fun _ => rfl) rfl, aluRuns_logic (.inl rfl) (fun a b => a ||| b) (fun _ => rfl) rfl,
    aluRuns_logic (.inl rfl) (fun a b => a ^^^ b) (fun _ => rfl) rfl, aluRuns_logic (.inl rfl) (fun a b => a &&& ~~~b) (fun _ => rfl) rfl,
    aluRuns_logic (.inl rfl) (fun a b => sllOf a b.toNat) (fun _ => rfl) rfl, aluRuns_logic (.inl rfl) (fun a b => srlOf a b.toNat) (fun _ => rfl) rfl,
    aluRuns_logic (.inl rfl) (fun a b => sraOf a b.toNat) (fun _ => rfl) (sraOf_eq ..),
    aluRuns_logic (.inl rfl) (fun a b => if a.toInt < b.toInt then 1 else 0) (fun _ => rfl) rfl,
    aluRuns_logic (.inl rfl) (fun a b => if a.toNat < b.toNat then 1 else 0) (fun _ => rfl) rfl,
    aluRuns_logic (.inl rfl) (fun a b => if a.toInt < b.toInt then a else b) (fun _ => rfl) rfl,
    aluRuns_logic (.inl rfl) (fun a b => if a.toInt < b.toInt then b else a) (fun _ => rfl) rfl,
    aluRuns_logic (.inl rfl) (fun a b => if a.toNat < b.toNat then a else b) (fun _ => rfl) rfl,
    aluRuns_logic (.inl rfl) (fun a b => if a.toNat < b.toNat then b else a) (fun _ => rfl) rfl,
    aluRuns_logic (.inl rfl) (fun a b => BitVec.ofInt 64 (Int.fdiv (a.toInt * b.toInt) (2 ^ 64))) (fun _ => rfl) (mulh_eq a b),
    aluRuns_logic (.inl rfl) (fun a b => BitVec.ofNat 64 (a.toNat * b.toNat / 2 ^ 64)) (fun _ => rfl) (mulhu_eq a b),
    aluRuns_logic (.inr rfl) (fun a _ => BitVec.ofNat 64 (popcOf a)) (fun _ => rfl) rfl,
    fun n hn hbelow hat => aluRuns_logic (.inr rfl) (fun a _ => BitVec.ofNat 64 (clzOf a)) (fun _ => rfl) (congrArg _ (find?_range_getD hn hbelow hat)),
    fun n hn hbelow hat => aluRuns_logic (.inr rfl) (fun a _ => BitVec.ofNat 64 (ctzOf a)) (fun _ => rfl) (congrArg _ (find?_range_getD hn hbelow hat)),
    aluRuns_sext (by decide) rfl fun _ => rfl, aluRuns_sext (by decide) rfl fun _ => rfl, aluRuns_sext (by decide) rfl fun _ => rfl⟩

/-- Settles O3. -/
theorem lanternDivision : Obligations.LanternDivision := by
  unfold Obligations.LanternDivision
  intro s c rd ra rb sf x a b min64 op zero trap
  let quotient : W64 → W64 → AluRes := fun a b => { r := BitVec.ofNat 64 (a.toNat / b.toNat) }
  let remainder : W64 → W64 → AluRes := fun a b => { r := BitVec.ofNat 64 (a.toNat % b.toNat) }
  refine ⟨fun hb => ⟨?div, ?divu, ?rem, ?remu⟩, fun hb hdz => ⟨?_, ?_, ?_, ?_⟩, fun hb hdz => ⟨?_, ?_, ?_, ?_⟩⟩
  case div => exact aluRuns_div (fun _ => 0) divRes (fun _ => rfl) hb (divRes_eq a hb)
  case divu => exact aluRuns_div (fun _ => 0) quotient (fun _ => rfl) hb (congrArg (fun r => { r := r : AluRes }) (divu_eq a b))
  case rem => exact aluRuns_div (fun a => a) remRes (fun _ => rfl) hb (congrArg (fun r => { r := r : AluRes }) (rem_eq a b))
  case remu => exact aluRuns_div (fun a => a) remainder (fun _ => rfl) hb (congrArg (fun r => { r := r : AluRes }) (remu_eq a b))
  · exact runs_div_zero (fun _ => 0) divRes (fun _ => rfl) hb hdz rfl
  · exact runs_div_zero (fun _ => 0) quotient (fun _ => rfl) hb hdz rfl
  · exact runs_div_zero (fun a => a) remRes (fun _ => rfl) hb hdz rfl
  · exact runs_div_zero (fun a => a) remainder (fun _ => rfl) hb hdz rfl
  · exact runs_div_trap (fun _ => 0) divRes (fun _ => rfl) hb hdz
  · exact runs_div_trap (fun _ => 0) quotient (fun _ => rfl) hb hdz
  · exact runs_div_trap (fun a => a) remRes (fun _ => rfl) hb hdz
  · exact runs_div_trap (fun a => a) remainder (fun _ => rfl) hb hdz

end Sys2Proof.Machine
end

section
/-!
Lantern's immediate instructions, branches and jumps (R338, R339, Tables 12.8 and 12.9), and the traps of the checks before an instruction's
effect (R332).
-/

namespace Sys2Proof.Machine

section
variable {s : State} {c : Fin 4} {w : Word} {i : Instr} {body : State → Option State}

/-! ### Traps at issue (R332) -/

theorem runs_illegal {rsvd priv : Bool} (he : ∀ u, exec i u = .next (settle (lantIssue c.val w true rsvd priv body u))) :
    Runs s c i w fun t => Trapped c s t 1 w 0 := by
  rintro ⟨himpl, hst, hclk, hfetch⟩
  refine ⟨_, ?_, trap_issued s c 1 w 0⟩
  rw [he]
  simp [lantIssue, himpl, hst, hclk, hfetch, trapIllegal]

theorem runs_rsvd {priv : Bool} (he : ∀ u, exec i u = .next (settle (lantIssue c.val w false true priv body u))) :
    Runs s c i w fun t => Trapped c s t 2 w 0 := by
  rintro ⟨himpl, hst, hclk, hfetch⟩
  refine ⟨_, ?_, trap_issued s c 2 w 0⟩
  rw [he]
  simp [lantIssue, himpl, hst, hclk, hfetch, trapRsvd]

theorem runs_priv (he : exec i s = .next (settle (lantIssue c.val w false false true body s))) :
    Runs s c i w fun t => Trapped c s t 3 w 0 := by
  rintro ⟨himpl, hst, hclk, hfetch⟩
  refine ⟨_, ?_, trap_issued s c 3 w 0⟩
  rw [he]
  simp [lantIssue, himpl, hst, hclk, hfetch, trapPriv]

end

/-! ### Immediates (R338) -/

section
variable {s : State} {c : Fin 4} {rd ra : BitVec 5} {imm : BitVec 16} {i : Instr} {major : Nat} {undef rsvd : Bool} {r : W64} {v : Bool}
  (f : W64 → Ctx → AluRes) (he : ∀ u, exec i u = immInsn major undef rsvd f c rd ra imm u)
include he

/-- An immediate instruction completes with what its operation gives; the operation reads nothing of the context but rd, and its carry is
lost, because SF is 0. -/
theorem aluRuns_imm {cy : Bool} (hundef : undef = false) (hrsvd : rsvd = false)
    (hf : ∀ x, gpr x rd = gpr (ctxOf s c.val) rd → f (gpr (ctxOf s c.val) ra) x = { r := r, c := cy, v := v }) :
    AluRuns s c i (encI major rd ra imm) rd 0 r false v := by
  subst hundef hrsvd
  refine runs he fun _ => ⟨_, rfl, ?_⟩
  rw [gpr_issued, hf _ (gpr_issued ..)]
  exact aluDone_effect s c (encI major rd ra imm) rd 0 { r := r, c := cy, v := v }

theorem runs_imm_illegal (hundef : undef = true) :
    Runs s c i (encI major rd ra imm) fun t => Trapped c s t 1 (encI major rd ra imm) 0 := by
  subst hundef
  exact runs_illegal he

theorem runs_imm_rsvd (hundef : undef = false) (hrsvd : rsvd = true) :
    Runs s c i (encI major rd ra imm) fun t => Trapped c s t 2 (encI major rd ra imm) 0 := by
  subst hundef hrsvd
  exact runs_rsvd he

end

section
variable (imm : BitVec 16)

theorem shiftKind_eq : imm.toNat / 16384 = (imm.extractLsb' 14 2).toNat := by
  rw [BitVec.extractLsb'_toNat, Nat.shiftRight_eq_div_pow]
  omega

theorem shiftAmount_eq : imm.toNat % 128 = (imm.extractLsb' 0 7).toNat := by
  rw [BitVec.extractLsb'_toNat, Nat.shiftRight_zero]

theorem shiftRsvd_eq : bits imm.toNat 7 7 = (imm.extractLsb' 7 7).toNat := by
  rw [BitVec.extractLsb'_toNat, bits]

/-- HINS puts the immediate in place of the sixteen bits from h on. -/
theorem hins_eq (g : W64) (h : Nat) :
    BitVec.ofNat 64 (withBits g.toNat h 16 imm.toNat) = (g &&& ~~~((0xFFFF : W64) <<< h)) ||| (imm.setWidth 64 <<< h) := by
  apply BitVec.eq_of_getLsbD_eq
  intro j hj
  have hones : (0xFFFF : W64) = (BitVec.allOnes 16).setWidth 64 := by decide
  rw [BitVec.getLsbD_ofNat, testBit_withBits, hones]
  simp only [BitVec.getLsbD_or, BitVec.getLsbD_and, BitVec.getLsbD_not, BitVec.getLsbD_shiftLeft, BitVec.getLsbD_setWidth,
    BitVec.getLsbD_allOnes, BitVec.testBit_toNat, hj, decide_true, Bool.true_and]
  by_cases hlo : j < h
  · simp [hlo, Nat.not_le.2 hlo]
  · by_cases hhi : j < h + 16
    · simp [hlo, hhi, Nat.not_lt.1 hlo, show j - h < 16 by omega, show j - h < 64 by omega]
    · simp [hlo, hhi, show ¬ j - h < 16 by omega, BitVec.getLsbD_of_ge imm (j - h) (by omega)]

end

/-- What SHI does, by the kind and the amount in its immediate. -/
def shiRes (imm : BitVec 16) (a : W64) (_ : Ctx) : AluRes :=
  let n := imm.toNat % 128
  let k := imm.toNat / 16384
  { r := if k = 0 then sllOf a n else if k = 1 then srlOf a n else sraOf a n }

theorem execShi_eq (c : Fin 4) (rd ra : BitVec 5) (imm : BitVec 16) (u : State) :
    exec (.shi c rd ra imm) u = immInsn 0x06 (imm.toNat / 16384 = 3) (bits imm.toNat 7 7 ≠ 0) (shiRes imm) c rd ra imm u := rfl

theorem shiRes_eq {imm : BitVec 16} {k : Nat} (hk : imm.toNat / 16384 = k) (a : W64) (x : Ctx) :
    shiRes imm a x = let n := (imm.extractLsb' 0 7).toNat
      { r := if k = 0 then sllOf a n else if k = 1 then srlOf a n else sraOf a n } := by
  rw [shiRes, hk, shiftAmount_eq]

/-- What HSETZ and HINS do; the low two bits of the ra field name the half-word. -/
def halfRes (imm : BitVec 16) (ra : BitVec 5) (_ : W64) (_ : Ctx) : AluRes := { r := zext16 imm <<< (16 * (ra.toNat % 4)) }

def insertRes (imm : BitVec 16) (rd ra : BitVec 5) (_ : W64) (x : Ctx) : AluRes :=
  { r := BitVec.ofNat 64 (withBits (gpr x rd).toNat (16 * (ra.toNat % 4)) 16 imm.toNat) }

/-- Settles O4. -/
theorem lanternImmediates : Obligations.LanternImmediates := by
  unfold Obligations.LanternImmediates
  intro s c rd ra imm x a sx zx op trap
  have kind (k : BitVec 2) : imm.extractLsb' 14 2 = k ↔ imm.toNat / 16384 = k.toNat := by rw [shiftKind_eq, BitVec.toNat_inj]
  have clean : imm.extractLsb' 7 7 = 0 ↔ bits imm.toNat 7 7 = 0 := by rw [shiftRsvd_eq]; exact BitVec.toNat_inj.symm
  refine ⟨aluRuns_imm (fun a _ => addRes a sx 0) (fun _ => rfl) rfl rfl fun _ _ => addRes_zero a sx,
    aluRuns_imm (fun a _ => { r := a &&& zx }) (fun _ => rfl) rfl rfl fun _ _ => rfl,
    aluRuns_imm (fun a _ => { r := a ||| zx }) (fun _ => rfl) rfl rfl fun _ _ => rfl,
    aluRuns_imm (fun a _ => { r := a ^^^ zx }) (fun _ => rfl) rfl rfl fun _ _ => rfl,
    aluRuns_imm (fun a _ => { r := if a.toInt < sx.toInt then 1 else 0 }) (fun _ => rfl) rfl rfl fun _ _ => rfl,
    aluRuns_imm (fun a _ => { r := if a.toNat < sx.toNat then 1 else 0 }) (fun _ => rfl) rfl rfl fun _ _ => rfl, ?cmpi,
    fun hrsvd => ⟨fun hk => ?sll, fun hk => ?srl, fun hk => ?sra⟩, fun hra => ⟨?hsetz, ?hins⟩,
    fun hk => ?undef, fun hk hrsvd => ?rsvd, fun hra => ⟨?hsetzRsvd, ?hinsRsvd⟩, fun hrd => ?cmpiRsvd⟩
  case sll =>
    have hk := (kind 0).1 hk
    exact aluRuns_imm (shiRes imm) (execShi_eq c rd ra imm) (by simp [hk]) (by simp [clean.1 hrsvd]) fun x _ => shiRes_eq hk a x
  case srl =>
    have hk := (kind 1).1 hk
    exact aluRuns_imm (shiRes imm) (execShi_eq c rd ra imm) (by simp [hk]) (by simp [clean.1 hrsvd]) fun x _ => shiRes_eq hk a x
  case sra =>
    have hk := (kind 2).1 hk
    refine aluRuns_imm (cy := false) (shiRes imm) (execShi_eq c rd ra imm) (by simp [hk]) (by simp [clean.1 hrsvd]) fun x _ => ?_
    rw [shiRes_eq hk, ← sraOf_eq]
    exact rfl
  case undef => exact runs_imm_illegal (shiRes imm) (execShi_eq c rd ra imm) (by simp [(kind 3).1 hk])
  case rsvd =>
    exact runs_imm_rsvd (shiRes imm) (execShi_eq c rd ra imm) (decide_eq_false fun h => hk ((kind 3).2 h))
      (decide_eq_true fun h => hrsvd (clean.2 h))
  case hsetz =>
    exact aluRuns_imm (halfRes imm ra) (fun _ => rfl) rfl (by simp [hra]) fun _ _ => by rw [halfRes, Nat.mod_eq_of_lt hra]; rfl
  case hins =>
    refine aluRuns_imm (cy := false) (insertRes imm rd ra) (fun _ => rfl) rfl (by simp [hra]) fun y hy => ?_
    rw [insertRes, Nat.mod_eq_of_lt hra, hy, hins_eq]
  case hsetzRsvd => exact runs_imm_rsvd (halfRes imm ra) (fun _ => rfl) rfl (by simp [hra])
  case hinsRsvd => exact runs_imm_rsvd (insertRes imm rd ra) (fun _ => rfl) rfl (by simp [hra])
  case cmpi =>
    refine runs (i := .cmpi c 0 ra imm) (fun _ => rfl) fun _ => ⟨_, rfl, ?_⟩
    rw [gpr_issued, subRes_one]
    exact aluDone_effect s c (encI 0x0B 0 ra imm) 0 1 { r := a - sx, c := _, v := _ }
  case cmpiRsvd =>
    have hrsvd : decide (rd ≠ 0) = true := decide_eq_true hrd
    refine runs_rsvd (priv := false) (body := fun t => some (aluDone c.val 0 1 (subRes (gpr (ctxOf t c.val) ra) sx 1) t)) fun u => ?_
    change execCmpi c rd ra imm u = _
    rw [execCmpi, hrsvd]
    rfl

/-! ### Branches and jumps (R339) -/

section
variable {s : State} {c : Fin 4} {i : Instr}

/-- A branch completes at its target or behind it, and writes no register. -/
theorem jumpRuns_retire {w : Word} {dest : State → W64} {pc : W64}
    (he : ∀ u, exec i u = .next (settle (lantIssue c.val w false false false (fun t => some (retire c.val (dest t) t)) u)))
    (hdest : dest (issued c.val w s) = pc) : JumpRuns s c i w pc 0 0 := by
  refine runs he fun _ => ⟨_, rfl, ?_⟩
  rw [hdest]
  exact retire_effect0 s c w pc

theorem branchTo_issued (w : Word) (off : BitVec 16) :
    branchTo (issued c.val w s) c.val off = (ctxOf s c.val).pc + 4 * off.signExtend 64 := by
  rw [branchTo, pc_issued, sext16]

theorem condHolds_issued (w : Word) (cond : BitVec 4) : condHolds (ctxOf (issued c.val w s) c.val) cond = condHolds (ctxOf s c.val) cond := by
  simp only [condHolds, ctxZ, ctxN, ctxV, ctxC, flags_issued]

section
variable {ra rb : BitVec 5} {off : BitVec 16}

theorem jumpRuns_cmp {major : Nat} {taken : Bool} (p : W64 → W64 → Bool) (he : ∀ u, exec i u = cmpBranch major p c ra rb off u)
    (hp : p (gpr (ctxOf s c.val) ra) (gpr (ctxOf s c.val) rb) = taken) :
    JumpRuns s c i (encB major ra rb off)
      (if taken then (ctxOf s c.val).pc + 4 * off.signExtend 64 else (ctxOf s c.val).pc + 4) 0 0 := by
  refine jumpRuns_retire (dest := fun t => if p (gpr (ctxOf t c.val) ra) (gpr (ctxOf t c.val) rb) then branchTo t c.val off
    else nextPc t c.val) he ?_
  rw [gpr_issued, gpr_issued, hp, branchTo_issued, nextPc_issued]

theorem jumpRuns_bc {cond : BitVec 4} {k : Bool} (hdef : cond ≠ 15) (hk : condHolds (ctxOf s c.val) cond = k) :
    JumpRuns s c (.bc c cond 0 off) (encC 0x10 cond 0 off)
      (if k then (ctxOf s c.val).pc + 4 * off.signExtend 64 else (ctxOf s c.val).pc + 4) 0 0 := by
  have hundef : decide (cond = 15) = false := decide_eq_false hdef
  refine jumpRuns_retire (dest := fun t => if condHolds (ctxOf t c.val) cond then branchTo t c.val off else nextPc t c.val)
    (fun u => ?_) ?_
  · change execBc c cond 0 off u = _
    rw [execBc, hundef]
    rfl
  · rw [condHolds_issued, hk, branchTo_issued, nextPc_issued]

end

/-- A jump completes at its target, and rd holds the address behind it. -/
theorem jumpRuns_link {w : Word} {rd : BitVec 5} {pc : W64} {body : State → Option State}
    (he : ∀ u, exec i u = .next (settle (lantIssue c.val w false false false body u)))
    (hbody : body (issued c.val w s) =
      some (retire c.val pc (modCtx c.val (setGpr rd (nextPc (issued c.val w s) c.val)) (issued c.val w s)))) :
    JumpRuns s c i w pc rd ((ctxOf s c.val).pc + 4) := by
  refine runs he fun _ => ⟨_, hbody, ?_⟩
  rw [nextPc_issued]
  exact retire_effect s c w pc rd _

end

theorem extractLsb'_two_eq_zero (x : W64) : x.extractLsb' 0 2 = 0 ↔ x.toNat % 4 = 0 := by
  rw [← BitVec.toNat_inj, BitVec.extractLsb'_toNat, Nat.shiftRight_zero]
  rfl

/-- Settles O5. -/
theorem lanternBranches : Obligations.LanternBranches := by
  unfold Obligations.LanternBranches
  intro s c rd ra rb cond off imm far x a b next dest br z n v cy conds
  refine ⟨fun k hk => ?bc, jumpRuns_cmp (fun a b => a == b) (fun _ => rfl) rfl, jumpRuns_cmp (fun a b => a != b) (fun _ => rfl) ?bne,
    jumpRuns_cmp (fun a b => decide (a.toInt < b.toInt)) (fun _ => rfl) rfl,
    jumpRuns_cmp (fun a b => decide (b.toInt ≤ a.toInt)) (fun _ => rfl) rfl,
    jumpRuns_cmp (fun a b => decide (a.toNat < b.toNat)) (fun _ => rfl) rfl,
    jumpRuns_cmp (fun a b => decide (b.toNat ≤ a.toNat)) (fun _ => rfl) rfl, ?jal, fun haligned => ?jalr, fun hmis => ?misaligned⟩
  case bc =>
    have hconds : conds = (List.range 15).map fun j => condHolds x (BitVec.ofNat 4 j) := rfl
    rw [hconds, List.getElem?_map, Option.map_eq_some_iff] at hk
    obtain ⟨j, hj, hk⟩ := hk
    obtain ⟨hlt, rfl⟩ : cond.toNat < 15 ∧ cond.toNat = j := by simpa [List.getElem?_eq_some_iff] using hj
    exact jumpRuns_bc (by rintro rfl; exact absurd hlt (by decide)) (by rwa [BitVec.ofNat_toNat, BitVec.setWidth_eq] at hk)
  case bne => rw [Bool.eq_iff_iff, bne_iff_ne, decide_eq_true_iff]
  case jal =>
    refine jumpRuns_link (i := .jal c far) (fun _ => rfl) ?_
    rw [pc_issued]
  case jalr =>
    have halign : ¬ (gpr (ctxOf s c.val) ra + sext16 imm).toNat % 4 ≠ 0 := not_not.2 ((extractLsb'_two_eq_zero _).1 haligned)
    refine jumpRuns_link (i := .jalr c rd ra imm) (fun _ => rfl) ?_
    dsimp only
    rw [gpr_issued, if_neg halign]
    rfl
  case misaligned =>
    have hmis : (gpr (ctxOf s c.val) ra + sext16 imm).toNat % 4 ≠ 0 := fun h => hmis ((extractLsb'_two_eq_zero _).2 h)
    refine runs (i := .jalr c rd ra imm) (fun _ => rfl) fun _ => ⟨_, ?_, trap_issued s c 7 _ 0⟩
    dsimp only
    rw [gpr_issued, if_pos hmis]
    rfl

end Sys2Proof.Machine
end

section
/-!
Lantern's DRAM instructions (R341, R342, Table 12.11): an access at an address in DRAM is listed in its context and handed to the memory path.
-/

namespace Sys2Proof.Machine

section
variable {s u : State}

/-! ### Where an address leads -/

/-- Address decode reads the part and the registers from 0x28000 on. -/
theorem target_congr (hpart : u.part = s.part) (hregs : ∀ off rst, 0x28000 ≤ off → regAt u off rst = regAt s off rst) (a : Nat) :
    target u a = target s a := by
  have hfld (f : Fld) (i : Nat) (hf : 0x28000 ≤ f.base) : fld u f i = fld s f i := by
    rw [fld, hregs _ _ (show 0x28000 ≤ f.off i from hf.trans (Nat.le_add_right ..)), fld]
  have hflg (f : Fld) (i : Nat) (hf : 0x28000 ≤ f.base) : flg u f i = flg s f i := by rw [flg, flg, hfld f i hf]
  have hset (n : Nat) : inSet u n a = inSet s n a := by
    simp only [inSet, hflg _ _ (show 0x28000 ≤ IS_CTL_EN.base by decide), hfld _ _ (show 0x28000 ≤ IS_BASE_BASE_G.base by decide),
      hfld _ _ (show 0x28000 ≤ IS_SIZE_SIZE_G.base by decide)]
  have hmember (n m : Nat) : memberWord u n m = memberWord s n m := hregs _ _ (by omega)
  have hdecode (n : Nat) : decodeSet u n a = decodeSet s n a := by
    simp only [decodeSet, hmember, hfld _ _ (show 0x28000 ≤ IS_BASE_BASE_G.base by decide),
      hfld _ _ (show 0x28000 ≤ IS_CTL_GRAN.base by decide), hfld _ _ (show 0x28000 ≤ IS_CTL_NLOG.base by decide),
      hflg _ _ (show 0x28000 ≤ IS_CTL_HASH.base by decide)]
  simp only [target, hpart, hset, hdecode]

theorem target_of_regs (hpart : u.part = s.part) (hregs : u.regs = s.regs) (a : Nat) : target u a = target s a :=
  target_congr hpart (fun off rst _ => by rw [regAt, regAt, hregs]) a

theorem issued_regs (s : State) (c : Nat) (w : Word) : (issued c w s).regs = s.regs := by
  have h := congrArg (fun t : State => t.regs) (issued_rest s c w {})
  exact h

theorem issued_part (s : State) (c : Nat) (w : Word) : (issued c w s).part = s.part := by
  have h := congrArg (fun t : State => t.part) (issued_rest s c w {})
  exact h

theorem target_issued (s : State) (c : Nat) (w : Word) (a : Nat) : target (issued c w s) a = target s a :=
  target_of_regs (issued_part ..) (issued_regs ..) a

/-- Binding a request to a record counts it there, and leaves address decode alone. -/
theorem target_bind {t : Nat} (ht : t < 256) (dl : Option Int) (fp : Option (Fin 32)) (s : State) (a : Nat) :
    target (bind t dl fp s).2 a = target s a := by
  refine target_congr (s := s) (u := (bind t dl fp s).2) rfl (fun off rst hoff => ?_) a
  change regAt (addFld BR_STAT_OUT t 1 s) off rst = _
  rw [addFld, setFld, regAt_setWord, if_neg]
  simp only [Fld.off, BR_STAT_OUT]
  omega

theorem fld_lt (f : Fld) (i : Nat) (s : State) : fld s f i < 2 ^ f.w := Nat.mod_lt _ (Nat.two_pow_pos _)

theorem bits_lt (v lo w : Nat) : bits v lo w < 2 ^ w := Nat.mod_lt _ (Nat.two_pow_pos _)

/-- Binding a context's access either changes nothing or counts it on one record. -/
theorem lantBind_cases (c : Nat) (s : State) : (lantBind c s).2 = s ∨ ∃ t < 256, (lantBind c s).2 = (bind t none none s).2 := by
  unfold lantBind
  extract_lets bound
  have hlt : ∀ t ∈ bound, t < 256 := by
    intro t ht
    simp only [bound] at ht
    split at ht
    · cases ht
    · split at ht
      · cases ht
        exact bits_lt ..
      · cases ht
  clear_value bound
  split
  · exact .inr ⟨_, fld_lt .., rfl⟩
  · exact .inr ⟨_, fld_lt .., rfl⟩
  · exact .inr ⟨_, fld_lt .., rfl⟩
  · cases bound with
    | none => exact .inl rfl
    | some t => exact .inr ⟨t, hlt t rfl, rfl⟩

theorem target_lantBind (c : Nat) (s : State) (a : Nat) : target (lantBind c s).2 a = target s a := by
  obtain h | ⟨t, ht, h⟩ := lantBind_cases c s
  · rw [h]
  · rw [h, target_bind ht]

/-- Binding a context's access leaves everything alone but one record's count. -/
theorem lantBind_rest (c : Nat) (s : State) : { (lantBind c s).2 with regs := s.regs } = s := by
  obtain h | ⟨t, _, h⟩ := lantBind_cases c s <;> rw [h]
  rfl

/-! ### An access is started (R341) -/

/-- The context lists the access under the next number, and its ticket counts it. -/
def accListed (c kind addr dat : Nat) (s : State) : State :=
  let b := lantBind c s
  modCtx c (fun x => { x with acc := x.acc ++ [{ num := b.2.nextId, kind := kind, addr := addr, dat := dat, attr := b.1 }] }) (newId b.2).2

theorem startAcc_inDram {c : Fin 4} {kind addr dat : Nat} {op : LineOp} (hdram : InDram s addr) (hhome : homeImpl s.part.variant = true) :
    startAcc c.val kind addr dat op s =
      lineAccess (.lant c (lantBind c.val s).2.nextId) (addr / 64 * 64) op (lantBind c.val s).1 (accListed c.val kind addr dat s) := by
  have htarget : target (accListed c.val kind addr dat s) addr = target s addr := 
    (target_of_regs rfl rfl addr).trans (target_lantBind c.val s addr)
  obtain ⟨p, la, hp⟩ : ∃ p la, target s addr = .dram p la := by
    unfold InDram at hdram
    split at hdram
    · exact ⟨_, _, ‹_›⟩
    · cases hdram
  unfold startAcc
  extract_lets b i a s1 fin bad homeOp
  have hs1 : target s1 addr = .dram p la := htarget.trans hp
  rw [if_neg (by simp [hhome]), hs1]
  dsimp only
  rw [ofNat4]
  rfl

end

/-- What a context's access hands over (`Handed`), whatever it does next. -/
theorem handed_startAcc {u : State} {c : Fin 4} {kind addr dat : Nat} {op : LineOp} (hdram : InDram u addr)
    (hhome : homeImpl u.part.variant = true) (fin : Nat → State → State) :
    Handed c u (fin (lantBind c.val u).2.nextId (startAcc c.val kind addr dat op u)) kind addr dat op fin := by
  have hunits : units (lantBind c.val u).2 = units u := by
    have h := congrArg units (lantBind_rest c.val u)
    exact h
  have hpart : (lantBind c.val u).2.part = u.part := by
    have h := congrArg (fun t : State => t.part) (lantBind_rest c.val u)
    exact h
  simp only [units, Prod.mk.injEq] at hunits
  obtain ⟨hdram', hspad, hports, hstalls, hhome', hlant, _⟩ := hunits
  have hctx : ctxOf (newId (lantBind c.val u).2).2 c.val = ctxOf u c.val := by simp only [ctxOf, newId, hlant]
  have hprog : (lantBind c.val u).2.lant.prog = u.lant.prog := by rw [hlant]
  have hdata : (lantBind c.val u).2.lant.data = u.lant.data := by rw [hlant]
  refine ⟨accListed c.val kind addr dat u, _, _, by rw [startAcc_inDram hdram hhome], ?_, hdram', hspad, hports, hhome',
    hprog, hdata, hpart, hstalls⟩
  rw [accListed, ctxOf_modCtx, if_pos rfl, hctx]

/-! ### The instructions -/

section
variable {s : State} {c : Fin 4} {i : Instr} {w : Word} {k kind : Nat} {rd : BitVec 5} {op : LineOp}

theorem acc_issued (s : State) (c : Fin 4) (w : Word) : (ctxOf (issued c.val w s) c.val).acc = (ctxOf s c.val).acc := by
  obtain ⟨j, hj⟩ := issued_ctx s c w c.val
  rw [hj, if_pos rfl]

theorem accReady_issued (s : State) (c : Fin 4) (w : Word) (kind k : Nat) :
    accReady (ctxOf (issued c.val w s) c.val) kind k = accReady (ctxOf s c.val) kind k := by
  obtain ⟨j, hj⟩ := issued_ctx s c w c.val
  rw [hj, if_pos rfl]
  rfl

theorem addrTrap_none {n : Nat} (hlt : k < 2 ^ 46) (halign : k % n = 0) : addrTrap k n = none := by
  rw [addrTrap, if_neg (Nat.not_le.2 hlt), if_neg (not_not.2 halign)]

theorem inDram_issued (w : Word) (h : InDram s k) : InDram (issued c.val w s) k := by rwa [InDram, target_issued]

section
variable (hhome : homeImpl s.part.variant = true) (hdram : InDram s k)
include hhome hdram

/-- A blocking access starts, and its context waits for its result. -/
theorem takes_block (hready : accReady (ctxOf s c.val) kind k = true) (hlt : k < 2 ^ 46) (halign : k % 8 = 0) {body : State → Option State}
    (he : ∀ u, exec i u = .next (settle (lantIssue c.val w false false false body u)))
    (hbody : body (issued c.val w s) = blockInsn c.val kind k rd w op (issued c.val w s)) :
    Takes s c i w fun u t => Handed c u t kind k 0 op fun num t => modCtx c.val (fun y => { y with st := .waiting, wait := .mem num rd }) t := by
  refine takes he fun _ => ⟨_, hbody.trans ?_, handed_startAcc (inDram_issued w hdram) (by rwa [issued_part]) (dat := 0) (op := op) _⟩
  rw [blockInsn, addrTrap_none hlt halign]
  dsimp only
  rw [accReady_issued, if_pos hready]
  rfl

/-- A posted access starts, and its context goes on. -/
theorem takes_posted {dat : Nat} {body : State → Option State}
    (he : ∀ u, exec i u = .next (settle (lantIssue c.val w false false false body u)))
    (hbody : body (issued c.val w s) = some (retire c.val (nextPc (issued c.val w s) c.val)
      (startAcc c.val kind k dat op (issued c.val w s)))) :
    Takes s c i w fun u t => Handed c u t kind k dat op fun _ t => retire c.val ((ctxOf s c.val).pc + 4) t := by
  refine takes he fun _ => ⟨_, hbody, ?_⟩
  rw [nextPc_issued]
  exact handed_startAcc (inDram_issued w hdram) (by rwa [issued_part]) fun _ t => retire c.val ((ctxOf s c.val).pc + 4) t

end

theorem postStore_starts (hready : accReady (ctxOf s c.val) 4 k = true) (d : Line) (be : BitVec 64) : postStore c.val k d be (issued c.val w s) =
    some (retire c.val (nextPc (issued c.val w s) c.val) (startAcc c.val 4 k 0 (.write d be false) (issued c.val w s))) := by
  rw [postStore, accReady_issued, if_pos hready]

theorem datSize_issued (s : State) (c : Fin 4) (w : Word) : datSize (issued c.val w s) c.val = datSize s c.val := by
  obtain ⟨j, hj⟩ := issued_ctx s c w c.val
  rw [datSize, hj, if_pos rfl]
  rfl

/-- A line instruction goes on where its address is good and its line of data RAM can be touched. -/
theorem lineInsn_goes {load : Bool} {d : Nat} (hlt : k < 2 ^ 46) (halign : k % 64 = 0) (htouch : CanTouch s c d 64 load)
    (f : State → Option State) : lineInsn c.val k d load w f (issued c.val w s) = f (issued c.val w s) := by
  have hok := touch_ok htouch
  obtain ⟨hin, hd, _⟩ := htouch
  rw [lineInsn, datSize_issued, if_neg (by simp; omega), if_neg (by simp [halign, hd]), touched, touch_issued, hok]

end

/-- Settles O8. -/
theorem lanternAccesses : Obligations.LanternAccesses := by
  unfold Obligations.LanternAccesses
  intro s c rd ra rb imm aop x a e d blocks goes at8 en8 ready
  refine ⟨fun ⟨hlt, hal, hready, hdram, hhome⟩ => ?ldm, fun ⟨hlt, hal, hready, hdram, hhome⟩ => ?lr,
    fun ⟨hlt, hal, hready, hdram, hhome⟩ => ?sc, fun ⟨hlt, hal, hready, hdram, hhome⟩ hop => ?amo,
    fun ⟨hlt, hal, hready, hdram, hhome⟩ => ?stm, fun ⟨hlt, hal, hready, hdram, hhome⟩ => ?zln,
    fun ⟨hlt, hal, hready, hdram, hhome⟩ htouch => ?stln, fun ⟨hlt, hal, hready, hdram, hhome⟩ htouch hroom => ?ldln⟩
  case ldm =>
    refine takes_block hhome hdram hready hlt hal (i := .ldm c rd ra imm) (fun _ => rfl) ?_
    rw [effAddr_issued]
  case lr =>
    refine takes_block hhome hdram hready hlt hal (i := .lantLr c rd ra 0 0 0) (fun _ => rfl) ?_
    rw [gpr_issued]
  case sc =>
    refine takes_block hhome hdram hready hlt hal (i := .lantSc c rd ra rb 0 0) (fun _ => rfl) ?_
    simp only [gpr_issued]
    rfl
  case amo =>
    have hundef : decide (0xA ≤ aop.toNat) = false := decide_eq_false (Nat.not_le.2 hop)
    refine takes_block hhome hdram hready hlt hal (i := .lantAmo c rd ra rb 0 aop) 
      (body := fun t => blockInsn c.val 3 (gpr (ctxOf t c.val) ra).toNat rd (encR 0x2E rd ra rb 0 aop 5)
        (.amo aop 3 (BitVec.ofNat 6 ((gpr (ctxOf t c.val) ra).toNat % 64))
          (amoOperand aop (gpr (ctxOf t c.val) rd) (gpr (ctxOf t c.val) rb)) false) t) (fun u => ?_) ?_
    · change execLantAmo c rd ra rb 0 aop u = _
      rw [execLantAmo, hundef]
      rfl
    · simp only [gpr_issued]
      rfl
  case stm =>
    refine takes_posted hhome hdram (i := .stm c rd ra imm) (fun _ => rfl) ?_
    dsimp only
    rw [effAddr_issued, addrTrap_none hlt hal, gpr_issued]
    exact postStore_starts hready ..
  case zln =>
    refine takes_posted hhome hdram (i := .zln c 0 ra 0 0 0) (fun _ => rfl) ?_
    dsimp only
    rw [gpr_issued, addrTrap_none hlt hal]
    exact postStore_starts hready ..
  case stln =>
    refine takes_posted hhome hdram (i := .stln c 0 ra rb 0 0) (fun _ => rfl) ?_
    dsimp only
    rw [gpr_issued, gpr_issued, lineInsn_goes hlt hal htouch, datBase_issued, issued_data]
    exact postStore_starts hready ..
  case ldln =>
    refine takes_posted hhome hdram (i := .ldln c 0 ra rb 0 0) (fun _ => rfl) ?_
    dsimp only
    rw [gpr_issued, gpr_issued, lineInsn_goes hlt hal htouch, datBase_issued, accReady_issued, hready, acc_issued,
      if_neg (by simpa using hroom)]

end Sys2Proof.Machine
end

section
/-!
Lantern's stall instructions (R344, Table 12.12): what the stall manager answers does not depend on the issue, and each instruction by the
answer.
-/

namespace Sys2Proof.Machine

section
variable (s : State) (c : Fin 4) (w : Word)

/-! ### The issue changes Lantern alone -/

theorem issued_eq : issued c.val w s = { s with lant := (issued c.val w s).lant } := issued_rest s c.val w (issued c.val w s).lant

theorem stallRefuse_issued (opc a addr len : Nat) : stallRefuse (issued c.val w s) c.val opc a addr len = stallRefuse s c.val opc a addr len := by
  rw [issued_eq]
  rfl

theorem route_issued (a : Nat) : route (issued c.val w s) a = route s a := by
  rw [issued_eq]
  rfl

theorem stallOf_issued (a : Nat) : stallOf (issued c.val w s) a = stallOf s a := by
  rw [issued_eq]
  rfl

theorem pushReady_issued (a : Nat) : pushReady (issued c.val w s) a = pushReady s a := by
  rw [issued_eq]
  rfl

theorem rewindReady_issued (a : Nat) : rewindReady (issued c.val w s) a = rewindReady s a := by rw [rewindReady, rewindReady, stallOf_issued]

variable {s} in
theorem checkStall_issued {a : Nat} (hsound : (stallOf s a).mismatch = false) : checkStall a (issued c.val w s) = issued c.val w s :=
  checkStall_agrees (by rwa [stallOf_issued])

/-- Writing rd with v and going on is a register effect. -/
theorem retireWith_effect (rd : BitVec 5) (v : W64) :
    RegEffect c s (retireWith c.val rd v (issued c.val w s)) ((ctxOf s c.val).pc + 4) rd v (ctxOf s c.val).flags := by
  rw [retireWith, nextPc_issued]
  exact retire_effect s c w _ rd v

/-- SCMD's effect by its operand. -/
theorem scmd_match {x : BitVec 4} (hlo : 1 ≤ x.toNat) (hhi : x.toNat ≤ 5) : x = 1 ∨ x = 2 ∨ x = 3 ∨ x = 4 ∨ x = 5 := by
  revert x
  decide

/-- The item that SPUT pushes. -/
def putItem (y : Ctx) (rb : BitVec 5) (sf : BitVec 1) (x : BitVec 4) : SItem :=
  { data := gpr y rb, eop := x.getLsbD 3, lbytes := x.extractLsb' 0 3, errp := sf = 1 }

variable {s c} in
theorem sput_takes {rd ra rb : BitVec 5} {sf : BitVec 1} {x : BitVec 4}
    (href : stallRefuse s c.val 9 (gpr (ctxOf s c.val) ra).toNat
      ((if x.getLsbD 3 then 2 ^ 15 else 0) + x.toNat % 8 * 2 ^ 19 + sf.toNat * 2 ^ 22) 0 = none)
    (hstored : ((ctxOf s c.val).acc.any fun e => e.kind = 4 && !e.performed) = false)
    (hsound : (stallOf s (route s (gpr (ctxOf s c.val) ra).toNat)).mismatch = false)
    (hready : pushReady s (route s (gpr (ctxOf s c.val) ra).toNat) = true) :
    Takes s c (.sput c rd ra rb sf x) (encR 0x30 rd ra rb sf x 0) fun u t => ∃ v,
      t = retireWith c.val rd 0 v ∧
      v.stalls = (pushItems (route s (gpr (ctxOf s c.val) ra).toNat) [putItem (ctxOf s c.val) rb sf x] u).2.stalls := by
  refine takes (i := .sput c rd ra rb sf x) (fun _ => rfl) fun _ => ?_
  dsimp only
  rw [gpr_issued, gpr_issued, stallRefuse_issued, href, acc_issued, hstored, route_issued]
  simp only [checkStall_issued c _ hsound, pushReady_issued, hready, Bool.not_true, Bool.false_eq_true, if_false, putItem]
  generalize pushItems _ _ _ = pushed
  generalize target _ _ = place
  cases place with
  | dram p la => exact ⟨_, rfl, _, rfl, rfl⟩
  | _ => exact ⟨_, rfl, _, rfl, rfl⟩

end

/-- Settles O9. -/
theorem lanternStalls : Obligations.LanternStalls := by
  unfold Obligations.LanternStalls
  intro s c rd ra rb sf x y a d b eop putAddr item sound stored answers
  refine ⟨fun sts href => ?putRefused, fun sts href htouch => ?getRefused, fun sts href => ?tlyRefused, fun sts href => ?cmdRefused,
    fun href hstored hsound hready => ?put, fun href htouch hsound hidle => ?get, fun href hsound => ?tly,
    fun href hstored hsound hlo hhi hrew => ?cmd⟩
  case putRefused =>
    refine runs (i := .sput c rd ra rb sf x) (fun _ => rfl) fun _ => ⟨_, ?_, retireWith_effect s c (encR 0x30 rd ra rb sf x 0) rd _⟩
    dsimp only
    rw [gpr_issued, stallRefuse_issued, href]
  case getRefused =>
    refine runs (i := .sget c rd ra rb 0 0) (fun _ => rfl) fun _ => ⟨_, ?_, retireWith_effect s c (encR 0x30 rd ra rb 0 0 1) rd _⟩
    dsimp only
    rw [gpr_issued, gpr_issued, touched, touch_issued, touch_ok htouch]
    dsimp only
    rw [stallRefuse_issued, href]
    rfl
  case tlyRefused =>
    refine runs (i := .stly c rd ra 0 0 0) (fun _ => rfl) fun _ => ⟨_, ?_, retireWith_effect s c (encR 0x30 rd ra 0 0 0 2) rd _⟩
    dsimp only
    rw [gpr_issued, stallRefuse_issued, href]
  case cmdRefused =>
    refine runs (i := .scmd c rd ra 0 0 x) (fun _ => rfl) fun _ => ⟨_, ?_, retireWith_effect s c (encR 0x30 rd ra 0 0 x 3) rd _⟩
    dsimp only
    rw [gpr_issued, stallRefuse_issued, href]
  case put => exact sput_takes href hstored hsound hready
  case get =>
    refine takes (i := .sget c rd ra rb 0 0) (fun _ => rfl) fun _ => ⟨_, ?_, rfl⟩
    dsimp only
    rw [gpr_issued, gpr_issued, touched, touch_issued, touch_ok htouch]
    dsimp only
    rw [stallRefuse_issued, href, stallOf_issued, hidle, checkStall_issued c _ hsound, datBase_issued]
    rfl
  case tly =>
    refine takes (i := .stly c rd ra 0 0 0) (fun _ => rfl) fun _ => ⟨_, ?_, rfl⟩
    dsimp only
    rw [gpr_issued, stallRefuse_issued, href, route_issued, checkStall_issued c _ hsound]
  case cmd =>
    refine takes (i := .scmd c rd ra 0 0 x) (fun _ => rfl) fun _ => ⟨_, ?_, rfl⟩
    dsimp only
    rw [gpr_issued, stallRefuse_issued, href, acc_issued, hstored, checkStall_issued c _ hsound, rewindReady_issued]
    rcases scmd_match hlo hhi with rfl | rfl | rfl | rfl | rfl
    · rfl
    · rfl
    · dsimp only
      rw [hrew rfl]
      rfl
    · rfl
    · rfl

end Sys2Proof.Machine
end

section
/-!
Lantern's timebase and system instructions and its special registers (R334, R343, R345, R346, Tables 12.6, 12.13 and 12.14). What an
instruction does to its own context is one update of it: the rules for such an update after an issue come first.
-/

namespace Sys2Proof.Machine

/-! ### One update of the issuing context -/

/-- A context whose instruction has completed at pc. -/
def ended (pc : W64) (x : Ctx) : Ctx := { x with pc := pc, wait := .none, st := if x.stopReq then .stopped else .running, stopReq := false }

theorem setGpr_eq (rd : BitVec 5) (v : W64) (x : Ctx) : setGpr rd v x = { x with g := (setGpr rd v x).g } := by
  unfold setGpr
  split
  · rfl
  · rfl

section
variable (s : State) (c : Fin 4) (w : Word)

theorem onlyCtx_issued (g : Ctx → Ctx) : OnlyCtx c s (modCtx c.val g (issued c.val w s)) := by
  obtain ⟨k, hk⟩ := issued_ctx_all s c w
  refine ⟨by rw [modCtx_rest, issued_rest], by simp, by simp, by simp, by simp, fun d hd => ?_⟩
  have hne : d.val ≠ c.val := fun h => hd (Fin.ext h)
  rw [ctxOf_modCtx, if_neg hne, hk, if_neg hd]

/-- The issuing context after an update of it. -/
theorem ctxOf_modCtx_issued (g : Ctx → Ctx) :
    ∃ k, ctxOf (modCtx c.val g (issued c.val w s)) c.val = g { ctxOf s c.val with cur := w, codep := k } := by
  obtain ⟨k, hk⟩ := issued_ctx_all s c w
  exact ⟨k, by rw [ctxOf_modCtx, if_pos rfl, hk, if_pos rfl]⟩

theorem retire_modCtx (pc : W64) (g : Ctx → Ctx) (u : State) : retire c.val pc (modCtx c.val g u) = modCtx c.val (fun x => ended pc (g x)) u :=
  modCtx_modCtx _ _ _ _

theorem retireWith_modCtx {g : Ctx → Ctx} (hpc : ∀ x, (g x).pc = x.pc) (rd : BitVec 5) (v : W64) :
    retireWith c.val rd v (modCtx c.val g (issued c.val w s)) =
      modCtx c.val (fun x => ended ((ctxOf s c.val).pc + 4) (setGpr rd v (g x))) (issued c.val w s) := by
  rw [retireWith, nextPc_modCtx _ _ _ hpc, nextPc_issued, modCtx_modCtx, retire_modCtx]

/-- What writing rd and completing leaves of a context, and what it writes. -/
theorem writes_ended {t : State} {x : Ctx} {pc : W64} (hg : x.g = (ctxOf s c.val).g) (rd : BitVec 5) (v : W64)
    (ht : ctxOf t c.val = ended pc (setGpr rd v x)) : Writes c s t rd v := by
  have hread (r : BitVec 5) : gpr (ctxOf t c.val) r = if r = rd then (if rd = 0 then 0 else v) else gpr (ctxOf s c.val) r := by
    rw [ht]
    refine (gpr_setGpr rd r v x).trans ?_
    simp only [gpr, hg]
  exact ⟨by rw [hread, if_pos rfl], fun r hr => by rw [hread, if_neg hr]⟩

theorem completed_ended {t : State} {x : Ctx} {pc : W64} (hstop : x.stopReq = (ctxOf s c.val).stopReq) (ht : ctxOf t c.val = ended pc x) :
    Completed c s t pc := by
  rw [Completed, ht, ended, hstop]
  exact ⟨rfl, rfl, rfl⟩

variable {s c w} in
/-- An instruction that writes rd and sets TBLAT and EQ's upper bits to lat and high. -/
theorem latched_of {g : Ctx → Ctx} {lat high : W64} (hpc : ∀ x, (g x).pc = x.pc)
    (hg : ∀ k, g { ctxOf s c.val with cur := w, codep := k } = { ctxOf s c.val with cur := w, codep := k, tblat := lat, eqHigh := high })
    (rd : BitVec 5) (v : W64) : Latched c s (retireWith c.val rd v (modCtx c.val g (issued c.val w s))) rd v lat high := by
  rw [retireWith_modCtx s c w hpc]
  obtain ⟨k, hk⟩ := ctxOf_modCtx_issued s c w (fun x => ended ((ctxOf s c.val).pc + 4) (setGpr rd v (g x)))
  rw [hg] at hk
  refine ⟨onlyCtx_issued s c w _, completed_ended s c ?_ hk,
    writes_ended (x := { ctxOf s c.val with cur := w, codep := k, tblat := lat, eqHigh := high }) s c rfl rd v hk, ?_⟩
  · rw [setGpr_eq]
  · rw [hk, setGpr_eq, ended]
    exact ⟨rfl, rfl, rfl, rfl, rfl, rfl, rfl⟩

variable {s c} in
theorem latched_of_effect {t : State} {rd : BitVec 5} {v : W64} (h : RegEffect c s t ((ctxOf s c.val).pc + 4) rd v (ctxOf s c.val).flags) :
    Latched c s t rd v (ctxOf s c.val).tblat (ctxOf s c.val).eqHigh := by
  obtain ⟨honly, hdone, hwrites, hkept, hflags⟩ := h
  obtain ⟨htrapen, hmst, htblat, heq, hhandle, -, -, -, -, -, hacc, -⟩ := hkept
  exact ⟨honly, hdone, hwrites, hflags, htblat, heq, hhandle, hmst, htrapen, hacc⟩

theorem countNow_issued : countNow (issued c.val w s) = countNow s := by
  rw [issued_eq]
  rfl

/-! ### LAUNCH's list -/

theorem datWord_issued (a : Nat) : datWord (issued c.val w s) c.val a = datWord s c.val a := by
  rw [datWord, issued_data, datBase_issued, datWord]

theorem recordAt_issued (a : Nat) : recordAt (issued c.val w s) c.val a = recordAt s c.val a := by
  funext i
  simp only [recordAt, datWord_issued]

theorem recordDirty_issued (a : Nat) : recordDirty (issued c.val w s) c.val a = recordDirty s c.val a := by
  funext i
  simp only [recordDirty, datWord_issued]

theorem touched_go {a n : Nat} {load : Bool} (h : CanTouch s c a n load) (body : State → Option State) :
    touched c.val a n load w body (issued c.val w s) = body (issued c.val w s) := by
  rw [touched, touch_issued, touch_ok h]

theorem touchedWords_go {n a : Nat} (h : ∀ k < n, CanTouch s c (a + 8 * k) 8 true) (body : State → Option State) :
    touchedWords c.val a w body n (issued c.val w s) = body (issued c.val w s) := by
  induction n generalizing a with
  | zero => rfl
  | succ n ih =>
    have hrest (k : Nat) (hk : k < n) : CanTouch s c (a + 8 + 8 * k) 8 true := by
      have := h (k + 1) (Nat.succ_lt_succ hk)
      rwa [show a + 8 * (k + 1) = a + 8 + 8 * k by omega] at this
    rw [touchedWords, touched_go s c w (by simpa using h 0 n.succ_pos), ih hrest]

end

/-- Settles O10. -/
theorem lanternTimebase : Obligations.LanternTimebase := by
  unfold Obligations.LanternTimebase
  intro s c rd ra rb y a n
  refine ⟨?read, ?latch, fun hdue => ?due, fun hearly => ?early, fun v hst hwait hclk hdue => ?resume, fun hn htouch hlist => ?launch,
    fun hlow => ?cancel⟩
  case read =>
    refine runs (i := .rdtb c rd 0 0 0 0) (fun _ => rfl) fun _ => ⟨_, ?_, latched_of_effect (retireWith_effect s c (encR 0x31 rd 0 0 0 0 0) rd (countNow s))⟩
    rw [countNow_issued, if_neg (by decide)]
  case latch =>
    refine runs (i := .rdtb c rd 0 0 0 1) (fun _ => rfl) fun _ => ⟨_, ?_, latched_of (w := encR 0x31 rd 0 0 0 1 0)
      (g := fun z => { z with tblat := countNow s }) (fun _ => rfl) (fun _ => rfl) rd (countNow s)⟩
    rw [latchTb, countNow_issued, if_pos (by decide)]
  case due =>
    refine runs (i := .wait c 0 ra 0 0 0) (fun _ => rfl) fun _ => ⟨_, ?_, retire_effect0 s c (encR 0x31 0 ra 0 0 0 1) _⟩
    dsimp only
    rw [gpr_issued, countNow_issued, if_pos hdue, nextPc_issued]
  case early =>
    refine runs (i := .wait c 0 ra 0 0 0) (fun _ => rfl) fun _ => ⟨_, ?_, onlyCtx_issued s c (encR 0x31 0 ra 0 0 0 1)
      (fun z => { z with st := .waiting, wait := .count (gpr y ra) }), ?_⟩
    · dsimp only
      rw [gpr_issued, countNow_issued, if_neg (BitVec.not_le.mpr hearly)]
    · obtain ⟨k, hk⟩ := ctxOf_modCtx_issued s c (encR 0x31 0 ra 0 0 0 1) (fun z => { z with st := .waiting, wait := .count (gpr y ra) })
      rw [hk]
      exact ⟨rfl, rfl, rfl, rfl, rfl⟩
  case resume =>
    refine (show exec (.waitResume c) s = execWaitResume c s from rfl).trans ?_
    rw [execWaitResume, hwait]
    simp only [hclk, show (ctxOf s c.val).st = .waiting from hst, hdue, decide_true, Bool.and_self, if_true]
    rw [nextPc]
  case launch =>
    refine takes (i := .launch c rd ra rb 0 0) (fun _ => rfl) fun _ => ⟨_, ?_, rfl⟩
    dsimp only
    have hcount : ¬ 16 < n := Nat.not_lt.mpr hn
    rw [gpr_issued, touched_go s c _ htouch, datWord_issued, if_neg hcount]
    rw [touchedWords_go s c _ hlist, gpr_issued, recordAt_issued, recordDirty_issued, decide_eq_false hcount, Bool.or_false]
  case cancel =>
    refine takes (i := .lcancel c 0 ra 0 0 0) (fun _ => rfl) fun _ => ⟨_, ?_, rfl⟩
    dsimp only
    rw [gpr_issued, nextPc_issued, if_pos (show (gpr (ctxOf s c.val) ra).toNat ≤ 7 from hlow)]

end Sys2Proof.Machine
end

section
/-!
Lantern's system instructions (R343, R346, Table 12.14).
-/

namespace Sys2Proof.Machine

section
variable {s : State} {c : Fin 4} {i : Instr} {w : Word}

/-- As `runs`, where the instruction's flags are known of s alone. -/
theorem runs_at {P : State → Prop} {body : State → Option State} (he : exec i s = .next (settle (lantIssue c.val w false false false body s)))
    (hb : Issues s c w → ∃ t, body (issued c.val w s) = some t ∧ P t) : Runs s c i w P := by
  intro h
  obtain ⟨t, hbody, hP⟩ := hb h
  exact ⟨t, by rw [he, issue_some h hbody], hP⟩

/-- An instruction that only begins to wait. -/
theorem runs_wait {wait : CtxWait} {body : State → Option State} (he : exec i s = .next (settle (lantIssue c.val w false false false body s)))
    (hb : ∃ g : Ctx → Ctx, body (issued c.val w s) = some (modCtx c.val g (issued c.val w s)) ∧
      ∀ k, g { ctxOf s c.val with cur := w, codep := k } = { ctxOf s c.val with cur := w, codep := k, st := .waiting, wait := wait }) :
    Runs s c i w fun t => OnlyCtx c s t ∧ ∃ k, ctxOf t c.val = { ctxOf s c.val with cur := w, codep := k, st := .waiting, wait := wait } := by
  obtain ⟨g, hbody, hg⟩ := hb
  refine runs_at he fun _ => ⟨_, hbody, onlyCtx_issued s c w g, ?_⟩
  obtain ⟨k, hk⟩ := ctxOf_modCtx_issued s c w g
  exact ⟨k, by rw [hk, hg]⟩

theorem Runs.imp {P Q : State → Prop} (h : Runs s c i w P) (himp : ∀ t, P t → Q t) : Runs s c i w Q := fun hi =>
  (h hi).imp fun t ht => ⟨ht.1, himp t ht.2⟩

variable (s c w)

theorem nextId_issued : (issued c.val w s).nextId = s.nextId := by
  rw [issued_eq]

theorem liveSlot_issued (h : Nat) : liveSlot (issued c.val w s) h = liveSlot s h := by
  rw [issued_eq]
  rfl

theorem handle_issued : (ctxOf (issued c.val w s) c.val).handle = (ctxOf s c.val).handle := by
  obtain ⟨k, hk⟩ := issued_ctx_all s c w
  rw [hk, if_pos rfl]

end

theorem mget_mmod {α : Type} (m : SMap α) (k j : Nat) (g : α → α) : mget (mmod m k g) j = if j = k then (mget m j).map g else mget m j := by
  cases h : mget m k with
  | none =>
    rw [mmod, h]
    dsimp only
    split
    · next hj => rw [hj, h]; rfl
    · rfl
  | some x =>
    rw [mmod, h]
    dsimp only
    rw [mget_mput]
    split
    · next hj => rw [hj, h]; rfl
    · rfl

theorem ctxOf_cacheDrop (line : Nat) (s : State) (d : Nat) : ctxOf (cacheDrop line s) d = ctxOf s d := rfl

/-- A line that leaves the cache leaves its set, and no other. -/
theorem cacheSet_cacheDrop (line : Nat) (s : State) (l : Nat) :
    cacheSet (cacheDrop line s) l = if l % 128 = line % 128 then (cacheSet s l).filter (fun e => e.1 ≠ line) else cacheSet s l := by
  have hset : (cacheDrop line s).lant.cache = mmod s.lant.cache (line % 128) fun w => w.filter fun e => e.1 ≠ line := rfl
  rw [cacheSet, hset, mgetD, mget_mmod, cacheSet, mgetD]
  split
  · next hl =>
    rw [hl]
    cases mget s.lant.cache (line % 128) with
    | none => rfl
    | some ways => rfl
  · rfl

theorem raise_lant (n : Nat) (s : State) (u : Option Nat) : (raise n s u).lant = s.lant := by
  have h := congrArg (fun t : State => t.lant) (raise_regs_only n s u)
  exact h

theorem runs_brk (s : State) (c : Fin 4) :
    Runs s c (.brk c 0 0 0 0 0) (encR 0x32 0 0 0 0 0 4) fun t => Trapped c s t 12 (encR 0x32 0 0 0 0 0 4) 0 :=
  runs (i := .brk c 0 0 0 0 0) (body := fun t => some (trapCtx c.val trapBreak (encR 0x32 0 0 0 0 0 4) 0 t)) (fun _ => rfl) fun _ =>
    ⟨_, rfl, trap_issued s c _ _ _⟩

/-- Settles O11. -/
theorem lanternSystem : Obligations.LanternSystem := by
  unfold Obligations.LanternSystem
  intro s c rd ra rb k w y a same
  refine ⟨?order, fun hk => ?bar, ?flush, ?flushLine, fun hc hlt hlive => ?bind, fun hc => ?bindPriv, fun hown => ?hdone, ?brk,
    fun hfree => ?halt, fun hundef => ?undefined⟩
  case order =>
    let g (z : Ctx) : Ctx := { z with ordNum := s.nextId }
    refine runs (i := .bar c rd 0 0 0 0) (fun _ => rfl) fun _ => ⟨retireWith c.val rd 0 (modCtx c.val g (issued c.val (encR 0x32 rd 0 0 0 0 0) s)), ?_, ?_⟩
    · rw [if_pos (by decide), nextId_issued]
    · rw [retireWith_modCtx s c _ (g := g) (fun _ => rfl)]
      obtain ⟨cp, hcp⟩ := ctxOf_modCtx_issued s c (encR 0x32 rd 0 0 0 0 0) (fun x => ended ((ctxOf s c.val).pc + 4) (setGpr rd 0 (g x)))
      refine ⟨onlyCtx_issued s c _ _, completed_ended s c (by rw [setGpr_eq]) hcp, writes_ended s c (by rfl) rd 0 hcp, ?_⟩
      rw [hcp, setGpr_eq]
      exact ⟨rfl, rfl⟩
  case bar =>
    refine (runs_wait (wait := .bar (k.extractLsb' 0 2) rd) (body := fun t =>
      some (modCtx c.val (fun y => { y with st := .waiting, wait := .bar (k.extractLsb' 0 2) rd }) t)) ?_ ⟨_, rfl, fun _ => rfl⟩).imp ?_
    · rcases hk with rfl | rfl
      · rfl
      · rfl
    · rintro t ⟨honly, cp, hcp⟩
      rw [hcp]
      exact ⟨honly, rfl, rfl, rfl, rfl, rfl, rfl, rfl, rfl⟩
  case flush =>
    refine takes (i := .iflush c 0 0 0 0 0) (fun _ => rfl) fun _ => ⟨_, rfl, ?_⟩
    rw [← nextPc_issued s c (encR 0x32 0 0 0 0 0 1)]
    rfl
  case flushLine =>
    refine takes (i := .iflush c 0 ra 0 0 1) (fun _ => rfl) fun _ => ⟨_, rfl, cacheDrop (a / 64) (issued c.val (encR 0x32 0 ra 0 0 1 1) s), ?_, fun _ => rfl,
      fun line => cacheSet_cacheDrop _ _ _⟩
    rw [← nextPc_issued s c (encR 0x32 0 ra 0 0 1 1), gpr_issued]
    rfl
  case bind =>
    subst hc
    let g (z : Ctx) : Ctx := { z with handle := some (BitVec.ofNat 16 a) }
    refine runs (i := .hbind 0 0 ra 0 0 0) (fun _ => rfl) fun _ =>
      ⟨retire 0 (y.pc + 4) (modCtx 0 g (issued 0 (encR 0x32 0 ra 0 0 0 2) s)), ?_, ?_⟩
    · have hbind : (decide (2 ^ 16 ≤ a) || (liveSlot s a).isNone) = false := by
        rw [Bool.or_eq_false_iff, decide_eq_false_iff_not, Option.isNone_eq_false_iff]
        exact ⟨Nat.not_le.mpr hlt, hlive⟩
      dsimp only
      rw [gpr_issued, liveSlot_issued, nextPc_issued, hbind]
      rfl
    · rw [show (0 : Nat) = (0 : Fin 4).val from rfl, retire_modCtx]
      obtain ⟨cp, hcp⟩ := ctxOf_modCtx_issued s 0 (encR 0x32 0 ra 0 0 0 2) (fun x => ended ((ctxOf s (0 : Fin 4).val).pc + 4) (g x))
      refine ⟨onlyCtx_issued s 0 _ _, completed_ended (x := g { ctxOf s (0 : Fin 4).val with cur := encR 0x32 0 ra 0 0 0 2, codep := cp }) s 0 rfl hcp, ?_⟩
      rw [hcp]
      exact ⟨rfl, rfl, rfl⟩
  case bindPriv =>
    refine runs_priv (i := .hbind c 0 ra 0 0 0) (body := fun t =>
      if 2 ^ 16 ≤ (gpr (ctxOf t c.val) ra).toNat || (liveSlot t (gpr (ctxOf t c.val) ra).toNat).isNone then
        some (trapCtx c.val trapHandle (encR 0x32 0 ra 0 0 0 2) 0 t)
      else some (retire c.val (nextPc t c.val)
        (modCtx c.val (fun y => { y with handle := some (BitVec.ofNat 16 (gpr (ctxOf t c.val) ra).toNat) }) t))) ?_
    refine (show exec (.hbind c 0 ra 0 0 0) s = execHbind c 0 ra 0 0 0 s from rfl).trans ?_
    rw [execHbind, decide_eq_true hc]
    rfl
  case hdone =>
    have hpriv : (decide (c ≠ 0) && decide (y.handle ≠ some ((gpr y ra).extractLsb' 0 16))) = false := by
      rcases hown with rfl | hown
      · rfl
      · rw [hown]
        simp
    refine (runs_wait (wait := .hdone (gpr y ra) (gpr y rb)) (body := fun t =>
      some (modCtx c.val (fun y => { y with st := .waiting, wait := .hdone (gpr y ra) (gpr y rb) }) t)) ?_ ⟨_, rfl, fun _ => rfl⟩).imp ?_
    · refine (show exec (.hdone c 0 ra rb 0 0) s = execHdone c 0 ra rb 0 0 s from rfl).trans ?_
      rw [execHdone, hpriv]
      rfl
    · rintro t ⟨honly, cp, hcp⟩
      rw [hcp]
      exact ⟨honly, rfl, rfl, rfl, rfl, rfl, rfl, rfl, rfl⟩
  case brk => exact runs_brk s c
  case halt =>
    let g (z : Ctx) : Ctx := { ended (y.pc + 4) z with st := .stopped }
    let t := modCtx c.val g (issued c.val (encR 0x32 0 0 0 0 0 5) s)
    refine runs (i := .halt c 0 0 0 0 0) (fun _ => rfl) fun _ => ⟨raise 33 t, ?_, ?_⟩
    · rw [handle_issued, hfree, nextPc_issued, retire]
      dsimp only
      rw [modCtx_modCtx]
      rfl
    · have hctx (d : Nat) : ctxOf (raise 33 t) d = ctxOf t d := by rw [ctxOf, raise_lant, ctxOf]
      have hdram : t.dram = s.dram := (issued_fields s c.val (encR 0x32 0 0 0 0 0 5)).1
      obtain ⟨-, -, hdata, -, -, hothers⟩ := onlyCtx_issued s c (encR 0x32 0 0 0 0 0 5) g
      obtain ⟨cp, hcp⟩ := ctxOf_modCtx_issued s c (encR 0x32 0 0 0 0 0 5) g
      rw [hctx, raise_lant, (sameBytes_raise 33 t none).1, hcp]
      exact ⟨rfl, rfl, rfl, rfl, bits_raise (by decide) t none, hdata, hdram, fun d hd => (hctx d).trans (hothers d hd)⟩
  case undefined =>
    refine runs_illegal (i := .undefinedInstruction c w) (body := some) (rsvd := false) (priv := false) fun u => ?_
    refine (show exec (.undefinedInstruction c w) u = execUndefinedInstruction c w u from rfl).trans ?_
    rw [execUndefinedInstruction, hundef]
    rfl

end Sys2Proof.Machine
end

section
/-!
EQ's figures and Lantern's special registers (R334, R346, Tables 12.6 and 12.14).
-/

namespace Sys2Proof.Machine

section
variable {s : State} {c : Fin 4} {rd : BitVec 5}

/-- EQ gives its figure to rd and latches the count of its issue cycle. -/
theorem runs_eq {i : Instr} {sel : Nat} {n : Nat} {high : W64} (figure : State → Nat) (latch : Ctx → Ctx)
    (he : exec i s = eqInsn c rd 0 0 0 sel figure latch s) (hn : figure (issued c.val (encR 0x32 rd 0 0 0 (BitVec.ofNat 4 sel) 6) s) = n)
    (hpc : ∀ x, (latch x).pc = x.pc)
    (hlatch : ∀ k, latch { ctxOf s c.val with cur := encR 0x32 rd 0 0 0 (BitVec.ofNat 4 sel) 6, codep := k, tblat := countNow s } =
      { ctxOf s c.val with cur := encR 0x32 rd 0 0 0 (BitVec.ofNat 4 sel) 6, codep := k, tblat := countNow s, eqHigh := high }) :
    Runs s c i (encR 0x32 rd 0 0 0 (BitVec.ofNat 4 sel) 6) fun t => Latched c s t rd (BitVec.ofNat 64 n) (countNow s) high := by
  refine runs_at (body := fun t => some (retireWith c.val rd (BitVec.ofNat 64 (figure t)) (modCtx c.val latch (latchTb c.val t)))) ?_
    fun _ => ⟨_, rfl, ?_⟩
  · rw [he]
    rfl
  · rw [hn, latchTb, modCtx_modCtx, countNow_issued]
    exact latched_of (g := fun x => latch { x with tblat := countNow s }) (fun x => hpc _) hlatch rd _

variable (s c) in
theorem eqHigh_issued (w : Word) : (ctxOf (issued c.val w s) c.val).eqHigh = (ctxOf s c.val).eqHigh := by
  obtain ⟨k, hk⟩ := issued_ctx_all s c w
  rw [hk, if_pos rfl]

/-- MFS gives what the special register holds. -/
theorem runs_mfs {n : BitVec 16} {v : W64} (hn : n.toNat ≤ 6) (hv : ∀ k, special c.val { ctxOf s c.val with cur := encI 0x3C rd 0 n, codep := k } n.toNat = some v) :
    Runs s c (.mfs c rd 0 n) (encI 0x3C rd 0 n) fun t => RegEffect c s t ((ctxOf s c.val).pc + 4) rd v (ctxOf s c.val).flags := by
  refine runs_at (body := fun t => (special c.val (ctxOf t c.val) n.toNat).map fun v => retireWith c.val rd v t) ?_
    fun _ => ⟨_, ?_, retireWith_effect s c (encI 0x3C rd 0 n) rd v⟩
  · refine (show exec (.mfs c rd 0 n) s = execMfs c rd 0 n s from rfl).trans ?_
    rw [execMfs, decide_eq_false (Nat.not_lt.mpr hn)]
    rfl
  · obtain ⟨k, hk⟩ := issued_ctx_all s c (encI 0x3C rd 0 n)
    rw [hk, if_pos rfl, hv]
    rfl

/-- MTS completes with the context that the special register's write gives. -/
theorem runs_mts {ra : BitVec 5} {n : BitVec 16} {g : Ctx → Ctx} (hdef : (n ≠ 0 && n ≠ 2 && n ≠ 3) = false)
    (hset : ∀ x, setSpecial x n.toNat (gpr (ctxOf s c.val) ra) = some (g x)) :
    Runs s c (.mts c 0 ra n) (encI 0x3D 0 ra n) fun t => OnlyCtx c s t ∧
      ∃ k, ctxOf t c.val = ended ((ctxOf s c.val).pc + 4) (g { ctxOf s c.val with cur := encI 0x3D 0 ra n, codep := k }) := by
  refine runs_at (body := fun t => (setSpecial (ctxOf t c.val) n.toNat (gpr (ctxOf t c.val) ra)).map fun y =>
    retire c.val (nextPc t c.val) (setCtx c.val y t)) ?_ fun _ => ⟨retire c.val ((ctxOf s c.val).pc + 4)
      (modCtx c.val g (issued c.val (encI 0x3D 0 ra n) s)), ?_, ?_⟩
  · refine (show exec (.mts c 0 ra n) s = execMts c 0 ra n s from rfl).trans ?_
    rw [execMts, hdef]
    rfl
  · rw [gpr_issued, nextPc_issued, hset]
    rfl
  · rw [retire_modCtx]
    exact ⟨onlyCtx_issued s c _ _, ctxOf_modCtx_issued s c _ _⟩

end

/-- Bit 16 stands above a handle. -/
theorem handle_or_eq_add (h : BitVec 16) : h.setWidth 64 ||| 65536#64 = h.setWidth 64 + 65536#64 := by
  refine (BitVec.add_eq_or_of_and_eq_zero _ _ (BitVec.eq_of_toNat_eq ?_)).symm
  have hbit : h.toNat.testBit 16 = false := Nat.testBit_lt_two_pow h.isLt
  rw [BitVec.toNat_and, BitVec.toNat_setWidth, Nat.mod_eq_of_lt (h.isLt.trans (by decide)), show (65536#64).toNat = 2 ^ 16 from rfl,
    Nat.and_two_pow, hbit]
  rfl

/-- Settles O12. -/
theorem lanternSpecials : Obligations.LanternSpecials := by
  unfold Obligations.LanternSpecials
  intro s c rd ra y v eq mfs
  refine ⟨?total, ?usable, ?low, ?high, ?ret, ?allow, ?stage, ?mfs0, ?mfs1, ?mfs2, ?mfs3, fun hfree => ?mfs4none, fun h hbound => ?mfs4, ?mfs6,
    ?mfs5, ?flags, ?trapen, ?mst⟩
  case total => exact runs_eq _ id rfl (by rw [issued_eq]) (fun _ => rfl) fun _ => rfl
  case usable => exact runs_eq _ id rfl (by rw [issued_eq]) (fun _ => rfl) fun _ => rfl
  case low => exact runs_eq _ _ rfl (by rw [issued_eq]; rfl) (fun _ => rfl) fun _ => rfl
  case high => exact runs_eq _ id rfl (by rw [eqHigh_issued]) (fun _ => rfl) fun _ => rfl
  case ret => exact runs_eq _ id rfl (by rw [issued_eq]; rfl) (fun _ => rfl) fun _ => rfl
  case allow => exact runs_eq _ id rfl (by rw [issued_eq]; rfl) (fun _ => rfl) fun _ => rfl
  case stage => exact runs_eq _ id rfl (by rw [issued_eq]; rfl) (fun _ => rfl) fun _ => rfl
  case mfs0 => exact runs_mfs (by decide) fun _ => rfl
  case mfs1 => exact runs_mfs (by decide) fun _ => rfl
  case mfs2 => exact runs_mfs (by decide) fun _ => rfl
  case mfs3 => exact runs_mfs (by decide) fun _ => rfl
  case mfs4none => exact runs_mfs (by decide) fun _ => by simp [special, show (ctxOf s c.val).handle = none from hfree]
  case mfs4 =>
    exact runs_mfs (by decide) fun _ => by simp [special, show (ctxOf s c.val).handle = some h from hbound, handle_or_eq_add]
  case mfs6 => exact runs_mfs (by decide) fun _ => rfl
  case mfs5 => exact takes (i := .mfs c rd 0 5) (fun _ => rfl) fun _ => ⟨_, rfl, rfl⟩
  case flags =>
    refine (runs_mts (g := fun x => { x with flags := v.setWidth 6 }) rfl fun _ => rfl).imp ?_
    rintro t ⟨honly, k, hk⟩
    refine ⟨honly, completed_ended s c (by rfl) hk, writes_ended s c (by rfl) 0 0 hk, ?_⟩
    rw [SpecialsKept, hk]
    exact ⟨⟨rfl, rfl, rfl, rfl, rfl, rfl, rfl, rfl, rfl, rfl, rfl, rfl, rfl, rfl, rfl, rfl, rfl, rfl, rfl⟩, rfl⟩
  case trapen =>
    refine (runs_mts (g := fun x => { x with trapen := v.setWidth 2 }) rfl fun _ => rfl).imp ?_
    rintro t ⟨honly, k, hk⟩
    refine ⟨honly, completed_ended s c (by rfl) hk, ?_⟩
    rw [hk]
    exact ⟨rfl, rfl, rfl, rfl⟩
  case mst =>
    refine (runs_mts (g := fun x => { x with mst := v.setWidth 7 }) rfl fun _ => rfl).imp ?_
    rintro t ⟨honly, k, hk⟩
    refine ⟨honly, completed_ended s c (by rfl) hk, ?_⟩
    rw [hk]
    exact ⟨rfl, rfl, rfl, rfl⟩

end Sys2Proof.Machine
end

section
/-!
Lantern's DRAM control instructions (R347, Tables 12.16 and 12.16b): each reads the engine as it stood before the issue, finds status 0
and applies its effect; a context that may not run it traps.
-/

namespace Sys2Proof.Machine

section
variable {s : State} {c : Fin 4} {i : Instr} {rd ra rb : BitVec 5} {x : BitVec 4} {fn : Nat} {body : State → Option (W64 × State)}

theorem takes_control {v : W64} {f : State → State} {P : State → State → Prop} (hmay : MayControl s c)
    (he : exec i s = .next (settle (dramControl c.val rd ra rb 0 x fn false false body s)))
    (hbody : body (issued c.val (encR 0x33 rd ra rb 0 x fn) s) = some (v, f (issued c.val (encR 0x33 rd ra rb 0 x fn) s)))
    (hP : P (issued c.val (encR 0x33 rd ra rb 0 x fn) s) (retireWith c.val rd v (f (issued c.val (encR 0x33 rd ra rb 0 x fn) s)))) :
    Takes s c i (encR 0x33 rd ra rb 0 x fn) P := by
  have hpriv : (c.val ≠ 0 && !(ctxOf s c.val).priv) = false := by
    rcases hmay with rfl | hmay
    · rfl
    · rw [hmay, Bool.not_true, Bool.and_false]
  intro hi
  refine ⟨_, _, begun_issued s c _, ?_, hP⟩
  have hsome : (fun t => (body t).map fun r => retireWith c.val rd r.1 r.2) (issued c.val (encR 0x33 rd ra rb 0 x fn) s) =
      some (retireWith c.val rd v (f (issued c.val (encR 0x33 rd ra rb 0 x fn) s))) := by
    dsimp only
    rw [hbody]
    rfl
  rw [he, dramControl, hpriv, show (false || decide ((0 : BitVec 1) ≠ 0)) = false from rfl, issue_some hi hsome]

theorem runs_control_priv (hc : c ≠ 0) (hpriv : (ctxOf s c.val).priv = false)
    (he : exec i s = .next (settle (dramControl c.val rd ra rb 0 x fn false false body s))) :
    Runs s c i (encR 0x33 rd ra rb 0 x fn) fun t => Trapped c s t 3 (encR 0x33 rd ra rb 0 x fn) 0 := by
  refine runs_priv (body := fun t => (body t).map fun r => retireWith c.val rd r.1 r.2) ?_
  have hne : c.val ≠ 0 := fun h => hc (Fin.ext h)
  rw [he, dramControl, hpriv, decide_eq_true hne]
  rfl

end

/-! ### What the issue leaves of the ports -/

section
variable (s : State) (c : Fin 4) (w : Word) (p : Nat)

theorem pstate_issued : pstate (issued c.val w s) p = pstate s p := by
  rw [issued_eq]
  rfl

theorem rankThere_issued (l : Loc) : rankThere (issued c.val w s) p l = rankThere s p l := by
  rw [issued_eq]
  rfl

theorem portOf_issued : portOf (issued c.val w s) p = portOf s p := by
  rw [issued_eq]
  rfl

theorem launchNames_issued : launchNames (issued c.val w s) p = launchNames s p := by
  rw [issued_eq]
  rfl

theorem repairSlot_issued (key : Nat) : repairSlot (issued c.val w s) p key = repairSlot s p key := by
  rw [issued_eq]
  rfl

theorem setNames_issued : setNames (issued c.val w s) p = setNames s p := by
  rw [issued_eq]
  rfl

theorem mayIssue_issued : mayIssue (issued c.val w s) p = mayIssue s p := by
  rw [issued_eq]
  rfl

theorem rankSt_issued (k : Nat) : rankSt (issued c.val w s) p k = rankSt s p k := by
  rw [issued_eq]
  rfl

theorem en_issued : (issued c.val w s).en = s.en := by
  rw [issued_eq]

theorem clk_issued : (issued c.val w s).clk = s.clk := by
  rw [issued_eq]

theorem free_issued : (issued c.val w s).free = s.free := by
  rw [issued_eq]

theorem fromDram_issued : fromDram (issued c.val w s) c.val = fromDram s c.val := by
  rw [fromDram, pc_issued, fromDram]

variable {s p} in
/-- A value of ra that names a rank meets none of the refusals of a name. -/
theorem named_issued {v : Nat} (h : NamesRank s v) : ctlAbsent (issued c.val w s) v = false ∧ ctlBad v = false ∧ noRank (issued c.val w s) v = false := by
  obtain ⟨hlt, hport, himpl, hrank⟩ := h
  refine ⟨?_, ?_, ?_⟩
  · rw [ctlAbsent, issued_part, himpl, Bool.not_true, Bool.and_false]
  · rw [ctlBad, decide_eq_false (Nat.not_le.mpr hport), decide_eq_false (Nat.not_le.mpr hlt)]
    rfl
  · rw [noRank, rankThere_issued, hrank, Bool.not_true, Bool.and_false]

variable {s} in
theorem serves_issued {v : Nat} (h : pstate s (bits v 0 5) = .service) : ctlServes (issued c.val w s) v = true := by
  rw [ctlServes, pstate_issued, h]
  rfl

variable {s} in
theorem modeStatus_issued {v n wide : Nat} (h : NamesRank s v) (hserves : pstate s (bits v 0 5) = .service) (hn : n < 2 ^ wide) :
    modeStatus (issued c.val w s) v n wide = 0 := by
  obtain ⟨habsent, hbad, hrank⟩ := named_issued c w h
  rw [modeStatus, habsent, hbad, hrank, serves_issued c w hserves, decide_eq_false (Nat.not_le.mpr hn)]
  rfl

variable {s} in
theorem zqNow_issued {g : CtlTarget} (hissue : mayIssue s g.port = true) (hzq : (rankSt s g.port (rankKey g.loc)).zqStart = none) :
    zqNow g (issued c.val w s) = some (modRank g.port (rankKey g.loc) (fun x => { x with zqStart := some s.clk })
      (issueOp g.port g.loc.sub 0 .mpc g.loc none false (issued c.val w s))) := by
  rw [zqNow, mayIssue_issued, rankSt_issued, clk_issued, hissue, hzq]
  rfl

end

/-- What TRSTEP does once it issues (Table 8.3). -/
def stepBody (c : Fin 4) (ra : BitVec 5) (n : Nat) (ok : Bool) (t : State) : Option (W64 × State) :=
  let v := (gpr (ctxOf t c.val) ra).toNat
  let p := bits v 0 5
  let sts := ctlStatus [(ctlAbsent t v, 9), (ctlBad v || noRank t v, 0x20),
    ((pstate t p ≠ .train && pstate t p ≠ .test) || !stepApplies p n, 0x21), (7 ≤ n && n ≤ 9 && setNames t p, 0x23), (!ok, 0x26)]
  if sts ≠ 0 then some (BitVec.ofNat 64 sts, t) else some (0, runStep p n t)

theorem exec_trstep_defined (s : State) (c : Fin 4) (rd ra : BitVec 5) {x : BitVec 4} (ok : Bool) (hlo : 1 ≤ x.toNat) (hhi : x.toNat ≤ 12) :
    exec (.trstep c rd ra 0 0 x ok) s = .next (settle (dramControl c.val rd ra 0 0 x 5 false false (stepBody c ra x.toNat ok) s)) := by
  have hundef : (decide (x.toNat = 0) || decide (0xD ≤ x.toNat)) = false := by
    simp only [Bool.or_eq_false_iff, decide_eq_false_iff_not]
    omega
  refine (show exec (.trstep c rd ra 0 0 x ok) s = execTrstep c rd ra 0 0 x ok s from rfl).trans ?_
  rw [execTrstep, hundef]
  rfl

/-- Settles O13. -/
theorem lanternControl : Obligations.LanternControl := by
  unfold Obligations.LanternControl
  intro s c rd ra rb x ok y v w p g ends trap serves
  refine ⟨fun hs hw hmay => ?mrw, fun hs hw m hm hmay => ?mrr, fun hs hw hm hmay => ?mrrFree, fun hs hmay => ?refNow,
    fun hs hissue hzq hmay => ?zq, fun hn hallow hpf hdram hmay => ?srEnter, fun hn hallow hpf hmay => ?srExit,
    fun hs hrank hkey hlaunch => ⟨fun k hslot hmay => ?soft, fun hmay => ?hard⟩,
    fun hn hst hlo hhi happlies hset hmay => ?step, fun hc hp => ?mrwPriv, fun hc hp => ?mrrPriv, fun hc hp => ?refNowPriv, fun hc hp => ?srEnterPriv, fun hc hp => ?srExitPriv,
    fun hc hp => ?zqPriv, fun hc hp => ?softPriv, fun hc hp => ?hardPriv, fun hlo hhi hc hp => ?stepPriv⟩
  case mrw =>
    refine takes_control (f := fun u =>
      modePause g (modDram p (fun d => { d with modeRegs := mput d.modeRegs (modeKey g.loc (bits w 8 8)) (BitVec.ofNat 8 w) }) u)) hmay rfl ?_ rfl
    dsimp only
    rw [gpr_issued, gpr_issued, modeStatus_issued c _ hs.1 hs.2 hw]
    rfl
  case mrr =>
    refine takes_control (f := modePause g) hmay rfl ?_ rfl
    dsimp only
    rw [gpr_issued, gpr_issued, modeStatus_issued c _ hs.1 hs.2 hw, portOf_issued, show mget (portOf s (ctlTarget v).port).dram.modeRegs
      (modeKey (ctlTarget v).loc (bits w 8 8)) = some m from hm]
    rfl
  case mrrFree =>
    refine takes_control (f := fun u => modePause g { u with free := u.free + 1 }) hmay rfl ?_
      ⟨Config.freeNat s.free % 256, Nat.mod_lt _ (by decide), rfl⟩
    dsimp only
    rw [gpr_issued, gpr_issued, modeStatus_issued c _ hs.1 hs.2 hw, portOf_issued, drawFree, free_issued,
      show mget (portOf s (ctlTarget v).port).dram.modeRegs (modeKey (ctlTarget v).loc (bits w 8 8)) = none from hm]
    rfl
  case refNow =>
    refine takes_control (f := fun u => refNowRank p u g.loc) hmay rfl ?_ rfl
    obtain ⟨habsent, hbad, hrank⟩ := named_issued c (encR 0x33 rd ra 0 0 0 2) hs.1
    dsimp only
    rw [gpr_issued, habsent, hbad, hrank, serves_issued c _ hs.2]
    rfl
  case zq =>
    refine takes_control (f := fun u =>
      modRank p (rankKey g.loc) (fun r => { r with zqStart := some s.clk }) (issueOp p g.loc.sub 0 .mpc g.loc none false u)) hmay rfl ?_ rfl
    obtain ⟨habsent, hbad, hrank⟩ := named_issued c (encR 0x33 rd ra 0 0 3 2) hs.1
    dsimp only
    rw [gpr_issued, habsent, hbad, hrank, serves_issued c _ hs.2, zqNow_issued (g := ctlTarget v) c (encR 0x33 rd ra 0 0 3 2) hissue hzq]
    rfl
  case srEnter =>
    refine takes_control (f := portReq p 2 (.lant c)) hmay rfl ?_ rfl
    obtain ⟨habsent, hbad, -⟩ := named_issued c (encR 0x33 rd ra 0 0 1 2) hn
    dsimp only
    rw [gpr_issued, habsent, hbad, pstate_issued, en_issued, fromDram_issued, hdram, hallow, hpf, Bool.not_true, Bool.and_false]
    rfl
  case srExit =>
    refine takes_control (f := portReq p 3 (.lant c)) hmay rfl ?_ rfl
    obtain ⟨habsent, hbad, -⟩ := named_issued c (encR 0x33 rd ra 0 0 2 2) hn
    dsimp only
    rw [gpr_issued, habsent, hbad, pstate_issued, en_issued, hallow, hpf, Bool.not_true, Bool.and_false]
    rfl
  case soft =>
    refine takes_control (f := softStartRepair p k) hmay rfl ?_ rfl
    obtain ⟨habsent, hbad, -⟩ := named_issued c (encR 0x33 rd ra rb 0 0 3) hs.1
    dsimp only
    rw [gpr_issued, gpr_issued, habsent, hbad, serves_issued c _ hs.2, rankThere_issued, launchNames_issued, repairSlot_issued, hslot, hrank,
      hlaunch, decide_eq_false (Nat.not_le.mpr hkey), Bool.not_true, Bool.and_false]
    rfl
  case hard =>
    refine takes_control (f := hardRepair p w) hmay rfl ?_ rfl
    obtain ⟨habsent, hbad, -⟩ := named_issued c (encR 0x33 rd ra rb 0 1 3) hs.1
    dsimp only
    rw [gpr_issued, gpr_issued, habsent, hbad, serves_issued c _ hs.2, rankThere_issued, launchNames_issued, hrank,
      hlaunch, decide_eq_false (Nat.not_le.mpr hkey), Bool.not_true, Bool.and_false]
    rfl
  case step =>
    refine takes_control (f := runStep p x.toNat) hmay (exec_trstep_defined s c rd ra true hlo hhi) ?_ rfl
    obtain ⟨habsent, hbad, hrank⟩ := named_issued c (encR 0x33 rd ra 0 0 x 5) hn
    have hstate : (decide (pstate s p ≠ .train) && decide (pstate s p ≠ .test)) = false := by
      rcases hst with h | h
      · rw [h]; rfl
      · rw [h]; rfl
    rw [stepBody, gpr_issued, habsent, hbad, hrank, pstate_issued, setNames_issued, hset, happlies, hstate, Bool.and_false]
    rfl
  case mrwPriv => exact runs_control_priv hc hp rfl
  case mrrPriv => exact runs_control_priv hc hp rfl
  case refNowPriv => exact runs_control_priv hc hp rfl
  case srEnterPriv => exact runs_control_priv hc hp rfl
  case srExitPriv => exact runs_control_priv hc hp rfl
  case zqPriv => exact runs_control_priv hc hp rfl
  case softPriv => exact runs_control_priv hc hp rfl
  case hardPriv => exact runs_control_priv hc hp rfl
  case stepPriv => exact runs_control_priv hc hp (exec_trstep_defined s c rd ra ok hlo hhi)

end Sys2Proof.Machine
end

section
/-!
What the register window and the memory path do to Lantern (R325, R328, R329, R341, R343, R350).
-/

namespace Sys2Proof.Machine

/-- The context's next state is all that an update of it uses of the update. -/
theorem modCtx_congr {c : Nat} {s : State} {g h : Ctx → Ctx} (hgh : g (ctxOf s c) = h (ctxOf s c)) : modCtx c g s = modCtx c h s := by
  rw [modCtx, hgh, modCtx]

theorem ofNat_bits (v : Word) (i : Nat) : BitVec.ofNat 8 (bits v.toNat (8 * i) 8) = v.extractLsb' (8 * i) 8 := by
  refine BitVec.eq_of_toNat_eq ?_
  rw [BitVec.toNat_ofNat, BitVec.extractLsb'_toNat, bits, Nat.mod_mod]

/-- A word stored in a byte table reads back byte by byte; every other byte stays. -/
theorem byteAt_putWord {m : SMap Byte} (hm : Memory.wf m) (a : Nat) (v : Word) (k : Nat) :
    byteAt (putBytes m a 4 v.toNat) k = if a ≤ k ∧ k < a + 4 then v.extractLsb' (8 * (k - a)) 8 else byteAt m k := by
  rw [byteAt_putBytes _ _ _ _ _ hm, ofNat_bits]

section
variable {s : State} {c : Fin 4} {v : Word}

theorem exec_start_stopped (huser : userCtx s c.val = true) (hst : (ctxOf s c.val).st = .stopped) (hreset : (ctxOf s c.val).resetReq = false) :
    exec (.start c) s = .next (settle (modCtx c.val (fun z => { z with st := .running, trapValid := false, stopReq := false }) s)) := by
  refine (show exec (.start c) s = execStart c s from rfl).trans ?_
  rw [execStart, if_pos huser, ctxStart]
  simp only [hst, hreset]
  rfl

theorem exec_stop_user (huser : userCtx s c.val = true) : exec (.stop c) s = .next (settle (modCtx c.val ctxStop s)) := by
  refine (show exec (.stop c) s = execStop c s from rfl).trans ?_
  rw [execStop, if_pos huser]

theorem exec_contextReset_idle (huser : userCtx s c.val = true) (hwait : (ctxOf s c.val).wait = .none) :
    exec (.contextReset c) s = .next (settle (modCtx c.val (fun z =>
      { z with resetReq := true, wait := .none, st := if z.st = .running then .waiting else z.st }) s)) := by
  refine (show exec (.contextReset c) s = execContextReset c s from rfl).trans ?_
  rw [execContextReset, if_pos huser]
  refine congrArg (fun t => Host.Outcome.next (settle t)) (modCtx_congr ?_)
  simp only [ctxReset, hwait]

theorem exec_lnIcInvalidate_awake (hreset : s.pw.inReset = false) :
    exec (.lnIcInvalidate v) s = .next (if v.getLsbD 0 then modLant (fun l => { l with cache := [] }) s else s) := by
  refine (show exec (.lnIcInvalidate v) s = execLnIcInvalidate v s from rfl).trans ?_
  rw [execLnIcInvalidate, hreset]
  rfl

/-- The program RAM above context 0's part takes a word while no user context runs. -/
theorem exec_programRamWrite_idle {word : BitVec 16} (hreset : s.pw.inReset = false) (hst : s.pw.st.toNat < 3) (hoff : 0x20000 ≤ 4 * word.toNat)
    (hidle : ∀ d ∈ [1, 2, 3], (ctxOf s d).st = .stopped ∨ (ctxOf s d).st = .halted) :
    exec (.programRamWrite word v) s = .next (modLant (fun l => { l with
      prog := putBytes l.prog (4 * word.toNat) 4 v.toNat
      progBad := l.progBad.filter fun k => !(4 * word.toNat ≤ k && k < 4 * word.toNat + 4) }) s) := by
  have hnone : ([1, 2, 3].any fun d => ctxImpl s d && (ctxOf s d).st ≠ .stopped && (ctxOf s d).st ≠ .halted &&
      prgBase s d ≤ 4 * word.toNat && 4 * word.toNat < prgBase s d + prgSize s d) = false := by
    rw [List.any_eq_false]
    intro d hd
    rcases hidle d hd with h | h
    · simp [h]
    · simp [h]
  refine (show exec (.programRamWrite word v) s = execProgramRamWrite word v s from rfl).trans ?_
  rw [execProgramRamWrite, hreset, progWrite]
  dsimp only
  rw [if_neg Bool.false_ne_true, if_neg (Nat.not_le.mpr hst), if_neg (Nat.not_lt.mpr hoff), if_neg (ne_true_of_eq_false hnone)]

theorem exec_dataRamWrite_awake {word : BitVec 15} (hreset : s.pw.inReset = false) (hst : s.pw.st.toNat < 3) :
    exec (.dataRamWrite word v) s = .next (putData (4 * word.toNat) 4 v.toNat s) := by
  refine (show exec (.dataRamWrite word v) s = execDataRamWrite word v s from rfl).trans ?_
  rw [execDataRamWrite, hreset, if_neg Bool.false_ne_true, if_neg (Nat.not_le.mpr hst)]

theorem exec_lantDurClear_user (huser : userCtx s c.val = true) (hclr : v.getLsbD 0 = true) :
    exec (.lantDurClear c v) s = .next (footClear (ctxFoot c.val) s) := by
  refine (show exec (.lantDurClear c v) s = execLantDurClear c v s from rfl).trans ?_
  rw [execLantDurClear, lantDurWrite, huser, hclr]
  rfl

/-! ### Arrivals (R341) -/

theorem ctxOf_dropAcc (n : Nat) (s : State) :
    ctxOf (dropAcc c.val n s) c.val = { ctxOf s c.val with acc := (ctxOf s c.val).acc.filter fun a => a.num ≠ n } := by
  rw [dropAcc, ctxOf_modCtx, if_pos rfl]

theorem exec_ifetchMissDone_good {err : Burst} {a : LAcc} {r : LineRes} {t : State} {line : Nat} (harrive : arrive c.val 6 err s = some (a, r, t))
    (hreset : (ctxOf t c.val).resetReq = false) (hwait : (ctxOf t c.val).wait = .fetch line) (hsts : r.sts = 0)
    (hstop : (ctxOf t c.val).stopReq = false) :
    exec (.ifetchMissDone c err) s = .next (settle (modCtx c.val (fun z => { z with wait := .none, st := .running, stopReq := false })
      (cachePut (a.addr / 64) r.data (dropAcc c.val a.num t)))) := by
  refine (show exec (.ifetchMissDone c err) s = .next (settle (fetchDone c.val err s)) from rfl).trans ?_
  rw [fetchDone, harrive]
  simp only [hreset, ctxOf_dropAcc, hwait, hsts, if_true, Bool.false_eq_true, if_false]
  refine congrArg (fun t => Host.Outcome.next (settle t)) (modCtx_congr ?_)
  simp only [ctxOf_cachePut, ctxOf_dropAcc, hstop, Bool.false_eq_true, if_false]

theorem exec_ldlnDataArrive_good {err : Burst} {a : LAcc} {r : LineRes} {t : State} (harrive : arrive c.val 5 err s = some (a, r, t))
    (hreset : (ctxOf t c.val).resetReq = false) (hsts : r.sts = 0) :
    exec (.ldlnDataArrive c err) s = .next (settle (modCtx c.val (fun z => { z with failedLines := z.failedLines.erase a.dat })
      (putData (64 * a.dat) 64 r.data.toNat (dropAcc c.val a.num t)))) := by
  refine (show exec (.ldlnDataArrive c err) s = execLdlnDataArrive c err s from rfl).trans ?_
  rw [execLdlnDataArrive, harrive]
  simp only [hreset, Bool.false_eq_true, if_false, ldlnDone, hsts]
  rfl

theorem exec_postedStoreDone_good {err : Burst} {a : LAcc} {r : LineRes}
    (hres : (ctxOf s c.val).acc.findSome? (fun e => if e.kind = 4 then e.res.map fun q => (e, q) else none) = some (a, r))
    (hreset : (ctxOf s c.val).resetReq = false) (hsts : r.sts = 0) :
    exec (.postedStoreDone c err) s = .next (settle (dropAcc c.val a.num s)) := by
  have hready : ((ctxOf s c.val).acc.any fun a => a.kind = 4 && a.res.isSome) = true := by
    obtain ⟨e, he, hsome⟩ := List.exists_of_findSome?_eq_some hres
    refine List.any_eq_true.mpr ⟨e, he, ?_⟩
    by_cases hkind : e.kind = 4
    · rw [if_pos hkind] at hsome
      cases hr : e.res with
      | none => simp [hr] at hsome
      | some q => simp [hkind]
    · rw [if_neg hkind] at hsome
      cases hsome
  refine (show exec (.postedStoreDone c err) s = execPostedStoreDone c err s from rfl).trans ?_
  rw [execPostedStoreDone]
  simp only [hready, if_true, postedDone, hres, hreset, hsts]
  rfl

end

/-- Settles O14. -/
theorem lanternWindow : Obligations.LanternWindow := by
  unfold Obligations.LanternWindow
  intro s c v word dword err y
  refine ⟨exec_start_stopped, exec_stop_user, exec_contextReset_idle, exec_lnIcInvalidate_awake, fun hreset hst hoff hwf hidle => ?prog,
    fun hreset hst hwf => ?data, exec_lantDurClear_user, fun a r t line => exec_ifetchMissDone_good, fun a r t => exec_ldlnDataArrive_good,
    fun a r => exec_postedStoreDone_good⟩
  case prog => exact ⟨_, exec_programRamWrite_idle hreset hst hoff hidle, rfl, rfl, rfl, fun k => byteAt_putWord hwf _ v k⟩
  case data => exact ⟨_, exec_dataRamWrite_awake hreset hst, rfl, rfl, rfl, fun k => byteAt_putWord hwf _ v k⟩

end Sys2Proof.Machine
end

section
/-!
Requests on the ring (R288, R294, R295, R300, R314, R317, R319): each command once the stop takes the message, in the engine that the
message wakes.
-/

namespace Sys2Proof.Machine

section
variable {s : State} {h : RingHdr} {kind : HKind} {d : Line} {ecc : EccEvent} {coherent agentOnly clean : Bool}

/-- The message is this engine's and its ring stop is open. -/
abbrev RingTakes (s : State) (h : RingHdr) : Prop := h.dst.toNat = ownStop s ∧ ringOpen s = true

theorem not_shut (hmine : RingTakes s h) : ¬ ((decide (h.dst.toNat ≠ ownStop s) || !ringOpen s) = true) := by
  obtain ⟨hdst, hopen⟩ := hmine
  rw [hopen, hdst]
  simp

theorem ringReq_refused (hmine : RingTakes s h) {sts : BitVec 4} (href : ringRefuse (active s) h coherent agentOnly clean = some sts) :
    ringReq h kind d ecc coherent agentOnly clean s = ringComp (stopOf h) h.txn (lineOfHdr h) sts (active s) := by
  rw [ringReq, if_neg (not_shut hmine)]
  dsimp only
  rw [href]

/-- The record that the ring's binding gives a request of a message. -/
def ringRecord (h : RingHdr) (kind : HKind) (d : Line) (u : State) : HomeReq :=
  let b := bind (fld u SCH_SRC_TKT_RING) none none u
  { id := 0, kind := kind, line := h.laddr.toNat, stop := h.src.toNat, txn := h.txn, data := d, be := if kind = .wb then allBytes else h.be,
    poison := h.poison, aop := h.arg.extractLsb' 0 4, size := h.arg.extractLsb' 4 3, off := h.off, attr := b.1,
    after := stopAfter b.2 h.src.toNat kind }

theorem ringReq_taken (hmine : RingTakes s h) (href : ringRefuse (active s) h coherent agentOnly clean = none) :
    ringReq h kind d .none coherent agentOnly clean s =
      homeSubmit (ringRecord h kind d (active s)) (bind (fld (active s) SCH_SRC_TKT_RING) none none (active s)).2 := by
  rw [ringReq, if_neg (not_shut hmine)]
  dsimp only
  rw [href]
  rfl

/-! ### A non-coherent request of DRAM (R319) -/

theorem pstate_bind {t : Nat} (ht : t < 256) (dl : Option Int) (fp : Option (Fin 32)) (s : State) (p : Nat) :
    pstate (bind t dl fp s).2 p = pstate s p := by
  have hfld (f : Fld) (hf : 0x200000 ≤ f.base) : fld (bind t dl fp s).2 f p = fld s f p := by
    refine fld_setFld_ne _ _ _ _ _ _ ?_
    simp only [Fld.off, BR_STAT_OUT]
    omega
  rw [pstate, pstate, hfld _ (by decide), hfld _ (by decide)]

theorem portFails_bind {t : Nat} (ht : t < 256) (dl : Option Int) (fp : Option (Fin 32)) (s : State) (p : Nat) :
    portFails (bind t dl fp s).2 p = portFails s p := by
  rw [portFails, pstate_bind ht]
  rfl

theorem portOf_active (s : State) (p : Nat) : portOf (active s) p = portOf s p := by
  rw [active]
  dsimp only
  split
  · rfl
  · rfl

theorem sameBytes_active (s : State) : SameBytes s (active s) := by
  rw [active]
  dsimp only
  split
  · exact ⟨rfl, rfl, rfl, rfl⟩
  · exact ⟨rfl, rfl, rfl, rfl⟩

theorem plainStart_dram {r : HomeReq} {t : State} {p la : Nat} (htarget : target t (r.line * 64) = .dram p la) (hfails : portFails t p = false) :
    SameBytes t (plainStart r t) ∧ ∃ q, (portOf (plainStart r t) p).sched.wait = (portOf t p).sched.wait ++ [q] ∧ q.la = la ∧
      q.kind = if r.kind = .rdo then SubKind.read else .write r.data r.be false := by
  have hstart : plainStart r t = portAdd p (.home r.id) la (if r.kind = .rdo then .read else .write r.data r.be false) r.attr
      (homeMod r.id (fun x => { x with phase := .mem, wrote := x.kind ≠ .rdo, memAsked := true }) t) := by
    rw [plainStart, htarget]
    dsimp only
    rw [hfails]
    rfl
  rw [hstart]
  refine ⟨⟨rfl, rfl, rfl, rfl⟩, { id := t.nextId, owner := .home r.id, la := la, kind := _, attr := r.attr }, ?_, rfl, rfl⟩
  simp only [portAdd, modDram, modSched, portOf_modPort, if_true]
  rfl

theorem makes_plain {i : Instr} {be : BitVec 64} {p la : Nat} {k : SubKind} (he : exec i s = .next (settle (ringPlain h kind d be clean s)))
    (hmine : RingTakes s h) (href : ringRefuse (active s) h false false clean = none)
    (htarget : target (active s) (h.laddr.toNat * 64) = .dram p la) (hfails : portFails (active s) p = false)
    (hafter : stopAfter (active s) h.src.toNat kind = []) (hk : (if kind = .rdo then SubKind.read else .write d be false) = k) :
    Makes s i fun t => SameBytes s t ∧ ∃ r, (portOf t p).sched.wait = (portOf s p).sched.wait ++ [r] ∧ r.la = la ∧ r.kind = k := by
  have htkt : fld (active s) SCH_SRC_TKT_RING < 256 := fld_lt SCH_SRC_TKT_RING 0 (active s)
  let b := bind (fld (active s) SCH_SRC_TKT_RING) none none (active s)
  let r : HomeReq := { id := b.2.nextId, kind := kind, line := h.laddr.toNat, stop := h.src.toNat, txn := h.txn, data := d, be := be, attr := b.1,
                       nc := true, after := stopAfter b.2 h.src.toNat kind }
  let t := modHome (fun m => { m with reqs := m.reqs ++ [r] }) { b.2 with nextId := b.2.nextId + 1 }
  have hrun : ringPlain h kind d be clean s = plainStart r t := by
    rw [ringPlain, if_neg (not_shut hmine)]
    dsimp only
    rw [href]
    refine if_neg ?_
    rw [show stopAfter (bind (fld (active s) SCH_SRC_TKT_RING) none none (active s)).2 (stopOf h) kind = [] from hafter]
    exact Bool.false_ne_true
  have hgoes : target t (r.line * 64) = .dram p la :=
    (target_of_regs (s := b.2) rfl rfl _).trans ((target_bind htkt none none (active s) _).trans htarget)
  obtain ⟨hbytes, q, hwait, hla, hkind⟩ := plainStart_dram hgoes ((portFails_bind htkt none none (active s) p).trans hfails)
  have hport : (portOf t p).sched.wait = (portOf s p).sched.wait := by
    rw [← portOf_active s p]
    rfl
  refine ⟨_, he, ?_⟩
  rw [hrun]
  exact ⟨(sameBytes_active s).trans hbytes, q, by rw [hwait, hport], hla, hkind.trans hk⟩

/-! ### Barriers and reserved operations (R295, R317) -/

variable (hmine : RingTakes s h) (hhome : homeImpl s.part.variant = true)

theorem part_active (s : State) : (active s).part = s.part := by
  rw [active]
  dsimp only
  split
  · rfl
  · rfl

include hmine hhome in
theorem ringBar_live (hfail : failedAgent (active s) h.src.toNat = false) (hclean : hdrClean h true false false false = true) (haddr : h.laddr = 0)
    (harg : h.arg.toNat ≤ 2) :
    Does s (.ringBar h) (
      let u := if h.arg.extractLsb' 0 2 = 0 then ringComp h.src.toNat h.txn 0 0 (active s) else active s
      barPump (modHome (fun m => { m with bars := m.bars ++ [(h.src.toNat, h.txn, h.arg.extractLsb' 0 2, stopOpen u h.src.toNat)] }) u)) := by
  refine (show exec (.ringBar h) s = execRingBar h s from rfl).trans ?_
  have hbad : (!(hdrClean h true false false false && h.laddr == 0) || decide (h.arg.toNat > 2)) = false := by
    rw [hclean, haddr, decide_eq_false (Nat.not_lt.mpr harg)]
    rfl
  rw [execRingBar, if_neg (not_shut hmine)]
  dsimp only
  rw [part_active, hhome, hbad, show failedAgent (active s) (stopOf h) = false from hfail]
  rfl

include hmine hhome in
theorem ringBar_failed (hfail : failedAgent (active s) h.src.toNat = true) (hclean : hdrClean h true false false false = true) (haddr : h.laddr = 0)
    (harg : h.arg.toNat ≤ 2) : Does s (.ringBar h) (ringComp h.src.toNat h.txn 0 8 (active s)) := by
  refine (show exec (.ringBar h) s = execRingBar h s from rfl).trans ?_
  have hbad : (!(hdrClean h true false false false && h.laddr == 0) || decide (h.arg.toNat > 2)) = false := by
    rw [hclean, haddr, decide_eq_false (Nat.not_lt.mpr harg)]
    rfl
  rw [execRingBar, if_neg (not_shut hmine)]
  dsimp only
  rw [part_active, hhome, hbad, show failedAgent (active s) (stopOf h) = true from hfail]
  rfl

include hmine in
theorem ringReqReserved_answers {op : BitVec 5} (hop : op = 0 ∨ 10 < op.toNat) :
    Does s (.ringReqReserved h op) (ringComp h.src.toNat h.txn h.laddr.toNat 4 (active s)) := by
  refine (show exec (.ringReqReserved h op) s = execRingReqReserved h op s from rfl).trans ?_
  have hlisted : (decide (1 ≤ op.toNat) && decide (op.toNat ≤ 10)) = false := by
    rcases hop with rfl | hop
    · rfl
    · rw [decide_eq_false (Nat.not_le.mpr hop), Bool.and_false]
  rw [execRingReqReserved, hlisted, Bool.or_false, if_neg (not_shut hmine)]
  rfl

end

/-- Settles O26. -/
theorem ringRequests : Obligations.RingRequests := by
  unfold Obligations.RingRequests
  intro s h d op mine u b line stop clean req takes atomOk
  have coherent {i : Instr} {kind : HKind} {data : Line} {agent ok : Bool}
      (he : exec i s = .next (settle (ringReq h kind data .none true agent ok s))) : takes i kind data agent ok := fun hmine =>
    ⟨fun href => by rw [Does, he, ringReq_taken hmine href]; rfl, fun sts href => by rw [Does, he, ringReq_refused hmine href]; rfl⟩
  refine ⟨coherent rfl, coherent rfl, coherent rfl, coherent rfl, coherent rfl, coherent rfl, coherent rfl,
    fun hmine hhome hfail hclean haddr harg => ?order, fun hmine hhome hfail hclean haddr harg => ?bar,
    fun hmine hhome hfail hclean haddr harg => ringBar_failed hmine hhome hfail hclean haddr harg,
    fun p la hmine href htarget hfails hafter => makes_plain rfl hmine href htarget hfails hafter rfl,
    fun p la hmine href htarget hfails hafter => makes_plain rfl hmine href htarget hfails hafter rfl,
    fun hmine hop => ringReqReserved_answers hmine hop⟩
  case order =>
    refine (ringBar_live hmine hhome hfail hclean haddr (by rw [harg]; decide)).trans ?_
    rw [harg]
    rfl
  case bar =>
    have hkind : h.arg.extractLsb' 0 2 ≠ 0 ∧ h.arg.toNat ≤ 2 := by
      rcases harg with harg | harg
      · rw [harg]; decide
      · rw [harg]; decide
    refine (ringBar_live hmine hhome hfail hclean haddr hkind.2).trans ?_
    dsimp only
    rw [if_neg hkind.1]

end Sys2Proof.Machine
end

section
/-!
The host's queues and handles (R352 to R358, R365, R366): what the queue's registers show after a ring, the reading of a descriptor, the push
of a record, and an abort.
-/

namespace Sys2Proof.Machine

section
variable {s : State} {q : Fin 4} {v : Word}

/-! ### Handles, queues and the registers that count them -/

theorem handleOf_setHandle (k j : Nat) (h : Handle) (s : State) : handleOf (setHandle k h s) j = if j = k then h else handleOf s j := by
  simp only [handleOf, setHandle, mgetD, mget_mput]
  split
  · rfl
  · rfl

theorem queueOf_modQueue (n : Nat) (g : HQueue → HQueue) (s : State) : queueOf (modQueue n g s) n = g (queueOf s n) := by
  simp [queueOf, modQueue, mgetD, mget_mput]

theorem hostStat_rest (s : State) : (hostStat s).host = s.host ∧ SameBytes s (hostStat s) := by
  rw [hostStat]
  refine List.foldlRecOn (motive := fun t => t.host = s.host ∧ SameBytes s t) _ _ ?_ ?_
  · exact ⟨rfl, rfl, rfl, rfl, rfl⟩
  · intro t ht q _
    exact ht

theorem fld_hostStat {f : Fld} {i : Nat} (hstat : f.off i ≠ 0x90000) (hqueue : ∀ q < 4, f.off i ≠ 0x90110 + q * 0x20) (s : State) :
    fld (hostStat s) f i = fld s f i := by
  refine (fld_foldl_setFld_ne (f := f) (g := HC_QSTAT_OUT) (i := i) (outOf s) (l := [0, 1, 2, 3]) (fun q hq => hqueue q ?_) _).trans ?_
  · simp only [List.mem_cons, List.not_mem_nil, or_false] at hq
    omega
  · rw [fld_setFld_ne _ _ _ _ _ _ hstat, fld_setFld_ne _ _ _ _ _ _ hstat]

theorem freeHandle_lt (s : State) : freeHandle s < 4096 := by
  rw [freeHandle]
  cases h : (List.range 4096).find? fun k => decide ((handleOf s k).st = .free) with
  | none => decide
  | some k => exact List.mem_range.mp (List.mem_of_find?_eq_some h)

theorem handleNum_lt {k : Nat} (hk : k < 4096) (s : State) : handleNum s k < 2 ^ 16 := by
  have := (handleOf s k).gen.isLt
  rw [handleNum]
  omega

theorem ringWhy_le (s : State) (n : Nat) : ringWhy s n ≤ 3 := by
  rw [ringWhy]
  split_ifs
  all_goals decide

/-! ### The doorbell (R354) -/

/-- The register of the last ring of a queue is no counter of handles. -/
theorem fld_hostStat_qhandle {f : Fld} (hf : f.base = 0x9010C) (hs : f.stride = 0x20) (n : Nat) (s : State) :
    fld (hostStat s) f n = fld s f n := by
  refine fld_hostStat ?_ ?_ s
  · rw [Fld.off, hf]; omega
  · intro q hq
    rw [Fld.off, hf, hs]
    omega

theorem exec_doorbell (hst : s.pw.st = 0) : exec (.doorbell q v) s = .next (settle (ring q.val v s)) := by
  refine (show exec (.doorbell q v) s = execDoorbell q v s from rfl).trans ?_
  have hstay : (if v.getLsbD 0 && s.pw.st = 3 && flg s PWR_WAKE_DB then wake 2 s
      else if s.pw.st.toNat = 1 || s.pw.st.toNat = 2 then wake 2 s else s) = s := by
    rw [hst, if_neg (by simp), if_neg (by decide)]
  rw [execDoorbell, hstay]

theorem ring_taken {n : Nat} (hreset : s.pw.inReset = false) (hst : s.pw.st = 0) (hv : v.getLsbD 0 = true) (hwhy : ringWhy s n = 0) :
    ring n v s = ringTake n s := by
  rw [ring, hv, hreset, hst, hwhy]
  rfl

theorem ring_refused {n : Nat} (hreset : s.pw.inReset = false) (hst : s.pw.st = 0) (hv : v.getLsbD 0 = true) (hwhy : ringWhy s n ≠ 0) :
    ring n v s = addFld HC_QSTAT_REFUSED n 1 (setFld HC_QHANDLE_V n 0 (setFld HC_QHANDLE_WHY n (ringWhy s n) s)) := by
  rw [ring, hv, hreset, hst]
  generalize ringWhy s n = why at hwhy ⊢
  cases why with
  | zero => exact absurd rfl hwhy
  | succ m => rfl

/-- The queue and the handle of a ring that is taken. -/
def ringBound (n : Nat) (s : State) : State :=
  modQueue n (fun x => { x with bound := x.bound ++ [freeHandle s] })
    (setHandle (freeHandle s) { st := .bound, gen := (handleOf s (freeHandle s)).gen + 1, queue := Fin.ofNat 4 n, order := s.host.nextOrder,
                                accept := tick s } { s with host := { s.host with nextOrder := s.host.nextOrder + 1 } })

/-- The registers that show it. -/
def ringShown (n : Nat) (s : State) : State :=
  setFld HC_QHANDLE_HANDLE n (handleNum (ringBound n s) (freeHandle s)) (setFld HC_QHANDLE_V n 1 (setFld HC_QHANDLE_WHY n 0 (ringBound n s)))

theorem ringTake_eq (n : Nat) (s : State) : ringTake n s = hostStat (ringShown n s) := rfl

theorem host_ringTake (n : Nat) (s : State) : (ringTake n s).host = (ringBound n s).host := by
  rw [ringTake_eq, (hostStat_rest (ringShown n s)).1, ringShown]
  rfl

theorem sameBytes_ringTake (n : Nat) (s : State) : SameBytes s (ringTake n s) := by
  rw [ringTake_eq]
  have hshown : SameBytes s (ringShown n s) := by simp [SameBytes, ringShown, ringBound, setHandle]
  exact hshown.trans (hostStat_rest (ringShown n s)).2

theorem handleOf_ringTake (n k : Nat) (s : State) : handleOf (ringTake n s) k = handleOf (ringBound n s) k := by
  rw [handleOf, host_ringTake, handleOf]

theorem handleOf_ringBound (n k : Nat) (s : State) : handleOf (ringBound n s) k = if k = freeHandle s then
    { st := .bound, gen := (handleOf s (freeHandle s)).gen + 1, queue := Fin.ofNat 4 n, order := s.host.nextOrder, accept := tick s }
    else handleOf s k :=
  handleOf_setHandle (freeHandle s) k _ { s with host := { s.host with nextOrder := s.host.nextOrder + 1 } }

theorem flg_v_ringTake (n : Nat) (s : State) : flg (ringTake n s) HC_QHANDLE_V n = true := by
  rw [ringTake_eq, flg, fld_hostStat_qhandle rfl rfl, ringShown, fld_setFld_apart (by decide), fld_setFld_same _ _ _ _ (by decide)]
  rfl

theorem fld_handle_ringTake (n : Nat) (s : State) : fld (ringTake n s) HC_QHANDLE_HANDLE n = handleNum (ringTake n s) (freeHandle s) := by
  rw [handleNum, handleOf_ringTake, ringTake_eq, fld_hostStat_qhandle rfl rfl, ringShown, fld_setFld_same _ _ _ _ (by decide)]
  exact Nat.mod_eq_of_lt (handleNum_lt (freeHandle_lt s) (ringBound n s))

/-- A refused ring shows why, and no handle. -/
theorem refused_shows (n : Nat) {why : Nat} (hwhy : why ≤ 3) (s : State) :
    let t := addFld HC_QSTAT_REFUSED n 1 (setFld HC_QHANDLE_V n 0 (setFld HC_QHANDLE_WHY n why s))
    t.host = s.host ∧ flg t HC_QHANDLE_V n = false ∧ fld t HC_QHANDLE_WHY n = why := by
  refine ⟨rfl, ?_, ?_⟩
  · rw [addFld, flg_setFld_apart (by decide), flg_setFld_same _ _ _ _ (by decide)]
    rfl
  · rw [addFld, fld_setFld_apart (by decide), fld_setFld_apart (by decide), fld_setFld_same _ _ _ _ (by decide)]
    exact Nat.mod_eq_of_lt (Nat.lt_succ_of_le hwhy)

/-! ### Descriptors (R353, R355) -/

theorem putStall_host (a : Nat) (x : Stall) (s : State) : (putStall a x s).host = s.host := by
  unfold putStall
  extract_lets
  split_ifs
  all_goals rfl

theorem exec_descriptorRead_bound (hreset : s.pw.inReset = false) (hst : s.pw.st.toNat ≤ 1)
    (hagree : (stallOf s (cmdStall s q.val)).mismatch = false) {k : Nat} {l : List Nat} {w : SWord} (hbound : (queueOf s q.val).bound = k :: l)
    (hk : k < 4096) (hw : mget (stallOf s (cmdStall s q.val)).staged (stallOf s (cmdStall s q.val)).h = some w) :
    exec (.descriptorRead q) s = .next (settle (described k w (modQueue q.val (fun y => { y with bound := l }) (putStall (cmdStall s q.val)
      ((stallOf (modStall (cmdStall s q.val) (fun x => { x with rstWord := none }) s) (cmdStall s q.val)).takeWord w)
      (modStall (cmdStall s q.val) (fun x => { x with rstWord := none }) s))))) := by
  refine (show exec (.descriptorRead q) s = execDescriptorRead q s from rfl).trans ?_
  have hsync : mget (stallOf (modStall (cmdStall s q.val) (fun x => { x with rstWord := none }) s) (cmdStall s q.val)).staged
      (stallOf (modStall (cmdStall s q.val) (fun x => { x with rstWord := none }) s) (cmdStall s q.val)).h = some w := by
    rw [stallOf_modStall]
    exact hw
  rw [execDescriptorRead, descriptorRead, hreset, decide_eq_false (Nat.not_lt.mpr hst), hbound]
  simp only [checkStall_agrees hagree, hsync]
  rw [if_neg (by decide), if_neg (Nat.not_le.mpr hk)]

/-- The handle of slot k once its word has been read. -/
def queuedHandle (k : Nat) (w : SWord) (s : State) : Handle :=
  { handleOf s k with st := .queued, items := wordItems w.data, opc := w.data.extractLsb' 0 8 }

theorem wordItems_opc (d : Line) : ((wordItems d).headD 0).extractLsb' 0 8 = d.extractLsb' 0 8 := by
  refine BitVec.eq_of_getLsbD_eq fun i hi => ?_
  simp [wordItems, List.range_succ, hi]

theorem described_eq (k : Nat) (w : SWord) (s : State) : described k w s =
    match descRefuse (setHandle k (queuedHandle k w s) s) (queuedHandle k w s) w.tag with
    | some t => endHandle k t 0 0 (setHandle k (queuedHandle k w s) s)
    | none => setHandle k (queuedHandle k w s) s := by
  rw [described, wordItems_opc]
  rfl

/-! ### Records and aborts (R357, R365) -/

theorem raise_host (c : Nat) (s : State) : (raise c s).host = s.host := by
  have h := congrArg (fun t : State => t.host) (raise_regs_only c s none)
  exact h

theorem raise_stalls (c : Nat) (s : State) : (raise c s).stalls = s.stalls := by
  have h := congrArg (fun t : State => t.stalls) (raise_regs_only c s none)
  exact h

theorem pushRecord_taken {n k : Nat} {l : List Nat} (hagree : (stallOf s (cplStall s n)).mismatch = false)
    (hfits : recordFits s (cplStall s n) = true) (hpush : (queueOf s n).push = k :: l) :
    (queueOf (pushRecord n s) n).push = l ∧ (handleOf (pushRecord n s) k).st = .done ∧
      (handleOf (pushRecord n s) k).recPos = some (stallOf s (cplStall s n)).wpos ∧
      (pushRecord n s).stalls =
        (pushItems (cplStall s n) ((recordItems s k).mapIdx fun i d => { data := d, eop := i = 3, lbytes := 7 }) s).2.stalls := by
  rw [pushRecord, hpush]
  simp only [checkStall_agrees hagree, hfits, Bool.not_true, Bool.false_eq_true, if_false]
  generalize (pushItems (cplStall s n) _ s).2 = u
  generalize hdone : modQueue n (fun x => { x with push := l }) (setHandle k
    { handleOf u k with st := .done, recPos := some (stallOf s (cplStall s n)).wpos } u) = d
  have hd : (queueOf d n).push = l ∧ (handleOf d k).st = .done ∧ (handleOf d k).recPos = some (stallOf s (cplStall s n)).wpos ∧
      d.stalls = u.stalls := by
    subst hdone
    have hhandle := handleOf_setHandle k k { handleOf u k with st := .done, recPos := some (stallOf s (cplStall s n)).wpos } u
    rw [if_pos rfl] at hhandle
    refine ⟨by rw [queueOf_modQueue], ?_, ?_, rfl⟩
    · exact congrArg Handle.st hhandle
    · exact congrArg Handle.recPos hhandle
  have hrest : ∀ t : State, t.host = d.host → t.stalls = d.stalls → (queueOf t n).push = l ∧ (handleOf t k).st = .done ∧
      (handleOf t k).recPos = some (stallOf s (cplStall s n)).wpos ∧ t.stalls = u.stalls := by
    intro t hhost hstalls
    rwa [queueOf, handleOf, hhost, hstalls]
  split_ifs
  · exact hrest _ (raise_host 34 _) (raise_stalls 34 _)
  · exact hrest _ (raise_host 34 _) (raise_stalls 34 _)
  · exact hrest _ rfl rfl
  · exact hrest _ rfl rfl

theorem hostAbort_ends {k : Nat} (hv : v.getLsbD 31 = true) (hlive : liveSlot s (bits v.toNat 0 16) = some k) (hst : (handleOf s k).st ≠ .running) :
    hostAbort v s = setFld HC_ABSTAT_OUTCOME 0 0 (setFld HC_ABSTAT_VALID 0 1 (endHandle k 0x28 0 0 s)) := by
  rw [hostAbort, hv, hlive]
  dsimp only
  rw [Bool.not_true, if_neg Bool.false_ne_true, if_neg hst, done]

theorem out_endHandle {a k : Nat} (hlive : liveSlot s a = some k) : (handleOf (endHandle k 0x28 0 0 s) k).out = some (0x28, 0, 0) := by
  have hopen : ((handleOf s k).st ≠ .free ∧ (handleOf s k).st ≠ .done) ∧ (handleOf s k).out.isNone = true := by
    rw [liveSlot] at hlive
    split at hlive
    · next h =>
      cases hlive
      simp only [Bool.and_eq_true, decide_eq_true_eq] at h
      exact ⟨h.1.1, h.1.2⟩
    · cases hlive
  obtain ⟨⟨hfree, hdone⟩, hout⟩ := hopen
  rw [endHandle, decide_eq_false hfree, decide_eq_false hdone, Option.isNone_iff_eq_none.mp hout]
  refine (congrArg Handle.out (handleOf_setHandle k k _ s)).trans ?_
  rw [if_pos rfl]
  rfl

theorem exec_abort (hreset : s.pw.inReset = false) (hst : s.pw.st.toNat ≤ 2) : exec (.abort v) s = .next (settle (hostAbort v s)) := by
  refine (show exec (.abort v) s = execAbort v s from rfl).trans ?_
  rw [execAbort, hreset, decide_eq_false (Nat.not_lt.mpr hst)]
  rfl

theorem abort_shows (n : Nat) (hn : n < 4) (t : State) : let u := setFld HC_ABSTAT_OUTCOME 0 n (setFld HC_ABSTAT_VALID 0 1 t)
    fld u HC_ABSTAT_OUTCOME = n ∧ flg u HC_ABSTAT_VALID = true := by
  refine ⟨?_, ?_⟩
  · rw [fld_setFld_same _ _ _ _ (by decide)]
    exact Nat.mod_eq_of_lt hn
  · rw [flg_setFld_apart (by decide), flg_setFld_same _ _ _ _ (by decide)]
    rfl

end

/-- Settles O39. -/
theorem hostQueues : Obligations.HostQueues := by
  unfold Obligations.HostQueues
  intro s q v n a c
  refine ⟨fun hreset hst hv hwhy => ?taken, fun hreset hst hv hwhy => ?refused, fun hreset hst hagree k l w hbound hk hw => ?read,
    fun hreset hst hagree hfits k l hpush => ?push, fun hreset hst hv hlive => ?abortNone, fun hreset hst hv k hlive hrun => ?abort⟩
  case taken =>
    refine ⟨ringTake n s, by rw [exec_doorbell hst, ring_taken hreset hst hv hwhy], sameBytes_ringTake n s, ?_, ?_, ?_, ?_, fun k hk => ?_, flg_v_ringTake n s, fld_handle_ringTake n s⟩
    · rw [queueOf, host_ringTake]
      change (queueOf (ringBound n s) n).bound = _
      rw [ringBound, queueOf_modQueue]
      rfl
    · rw [handleOf_ringTake, handleOf_ringBound, if_pos rfl]
    · rw [handleOf_ringTake, handleOf_ringBound, if_pos rfl]
    · rw [handleOf_ringTake, handleOf_ringBound, if_pos rfl]
      exact Fin.ext (Nat.mod_eq_of_lt q.isLt)
    · rw [handleOf_ringTake, handleOf_ringBound, if_neg hk]
  case refused =>
    exact ⟨_, by rw [exec_doorbell hst, ring_refused hreset hst hv hwhy], refused_shows n (ringWhy_le s n) s⟩
  case read =>
    have hread := exec_descriptorRead_bound hreset hst hagree hbound hk hw
    rw [described_eq] at hread
    intro u h
    have hqueued : queuedHandle k w u = h := by
      have hhandle : handleOf u k = handleOf s k := by
        have hhost : (modStall a (fun x => { x with rstWord := none }) s).host = s.host := putStall_host a _ s
        have hhandles : u.host.handles = s.host.handles := by
          rw [← hhost]
          exact congrArg (fun h => h.handles) (putStall_host a _ _)
        rw [handleOf, hhandles, handleOf]
      rw [queuedHandle, hhandle]
    rw [hqueued] at hread
    refine ⟨fun href => ?_, fun sts href => ?_⟩
    · rw [href] at hread
      exact hread
    · rw [href] at hread
      exact hread
  case push =>
    refine ⟨_, ?_, pushRecord_taken hagree hfits hpush⟩
    refine (show exec (.completionPush q) s = execCompletionPush q s from rfl).trans ?_
    rw [execCompletionPush, hreset, decide_eq_false (Nat.not_lt.mpr hst), if_neg (by decide)]
  case abortNone =>
    refine ⟨_, exec_abort hreset hst, ?_⟩
    have hends : hostAbort v s = setFld HC_ABSTAT_OUTCOME 0 1 (setFld HC_ABSTAT_VALID 0 1 s) := by
      rw [hostAbort, hv, hlive]
      rfl
    rw [hends]
    exact ⟨rfl, abort_shows 1 (by decide) s⟩
  case abort =>
    refine ⟨_, exec_abort hreset hst, ?_⟩
    rw [hostAbort_ends hv hlive hrun]
    exact ⟨out_endHandle hlive, abort_shows 0 (by decide) (endHandle k 0x28 0 0 s)⟩

end Sys2Proof.Machine
end

section
/-!
What the functions of chapter 14 change of the energy record and of the registers: the layer below the statements about the meter and the
reserve.
-/

namespace Sys2Proof.Machine

section
variable {s : State} {f : Fld}

theorem raise_en (c : Nat) (s : State) : (raise c s).en = s.en := by
  have h := congrArg (fun t : State => t.en) (raise_regs_only c s none)
  exact h

theorem fld_raise_high (hf : 0x200 ≤ f.base) {c : Nat} (hc : c < 64) (s : State) : fld (raise c s) f = fld s f :=
  fld_raise_of_high hf hc none 0

theorem fld_modEn (g : Energy → Energy) (s : State) : fld (modEn g s) f = fld s f := rfl

/-! ### The gauges (R383 to R385) -/

theorem gauges_en (s : State) : ∃ b, (gauges s).en = { s.en with disArmed := b } := by
  unfold gauges
  extract_lets e diff tol s1 s2
  split_ifs
  · exact ⟨false, by rw [raise_en]; rfl⟩
  · exact ⟨_, rfl⟩
  · exact ⟨true, rfl⟩
  · exact ⟨_, rfl⟩

theorem fld_gauges (hq : f.Apart GA_Q_MC ∧ f.Apart GA_QV_MC ∧ f.Apart GA_QCNT_MC ∧ f.Apart GA_STAT_DISAGREE) (hf : 0x200 ≤ f.base) (s : State) :
    fld (gauges s) f = fld s f := by
  obtain ⟨h1, h2, h3, h4⟩ := hq
  unfold gauges
  extract_lets e diff tol s1 s2
  have hs1 : fld s1 f = fld s f := (fld_setFld_apart h3).trans ((fld_setFld_apart h2).trans (fld_setFld_apart h1))
  have hs2 : fld s2 f = fld s f := (fld_setFld_apart h4).trans hs1
  split_ifs
  · rw [fld_raise_high hf (by decide), fld_modEn, hs2]
  · exact hs2
  · rw [fld_modEn, hs1]
  · exact hs1

theorem estimate_en (s : State) : ∃ q, (estimate s).en = { s.en with qv := q } := ⟨_, rfl⟩

theorem fld_estimate (s : State) : fld (estimate s) f = fld s f := rfl

theorem restTimer_en (s : State) : ∃ a, (restTimer s).en = { s.en with restAt := a } := ⟨_, rfl⟩

theorem fld_restTimer (hr : f.Apart GA_STAT_REST) (s : State) : fld (restTimer s) f = fld s f := by
  unfold restTimer
  extract_lets
  rw [fld_setFld_apart hr, fld_modEn]

theorem charger_en (s : State) : (charger s).en = s.en := rfl

theorem fld_charger (hc : f.Apart CH_STAT_ON) (s : State) : fld (charger s) f = fld s f := by
  unfold charger
  extract_lets
  rw [fld_setFld_apart hc]

/-! ### The domain and the planner (R388 to R391) -/

theorem setDomain_en (dom : BitVec 73) (s : State) : (setDomain dom s).en = s.en := by
  unfold setDomain
  extract_lets gone s1
  split_ifs
  · rfl
  · rw [raise_en]
    rfl

/-- A field outside a footprint's three words reads as before. -/
theorem fld_setFoot3 {off : Nat} (h : f.off 0 ≠ off ∧ f.off 0 ≠ off + 4 ∧ f.off 0 ≠ off + 8) (v : BitVec 73) (s : State) :
    fld (setFoot3 off v s) f = fld s f := by
  obtain ⟨h0, h4, h8⟩ := h
  rw [setFoot3, fld_setWord_ne _ _ _ _ _ h0, fld_setWord_ne _ _ _ _ _ h4, fld_setWord_ne _ _ _ _ _ h8]

theorem fld_setDomain (hd : f.base < 0x300E0 ∨ 0x300FC ≤ f.base) (hf : 0x200 ≤ f.base) (dom : BitVec 73) (s : State) :
    fld (setDomain dom s) f = fld s f := by
  unfold setDomain
  extract_lets gone s1
  have hoff : f.off 0 = f.base := by rw [Fld.off, Nat.zero_mul, Nat.add_zero]
  have hs1 : fld s1 f = fld s f := fld_setFoot3 (by omega) dom s
  split_ifs
  · exact hs1
  · rw [fld_raise_high hf (by decide), fld_setFoot3 (by omega), hs1]

theorem plan_en (s : State) : ∃ u, (plan s).en = { s.en with euse := u } := by
  unfold plan
  split_ifs
  · exact ⟨_, rfl⟩
  · extract_lets u r ret eu
    refine ⟨eu, ?_⟩
    change { (setDomain r.1 s).en with euse := eu } = _
    rw [setDomain_en]

theorem fld_plan (hd : f.base < 0x300E0 ∨ 0x300FC ≤ f.base) (hf : 0x200 ≤ f.base) (hp : f.Apart PLN_EUSE_LO_MJ ∧ f.Apart PLN_RET_MS)
    (s : State) : fld (plan s) f = fld s f := by
  unfold plan
  split_ifs
  · rfl
  · extract_lets u r ret eu
    rw [fld_setFld_apart hp.2, fld_setFld_apart hp.1, fld_modEn, fld_setDomain hd hf]

/-- A footprint elsewhere, or any word outside these three, reads as before. -/
theorem foot3_congr {u t : State} {off : Nat} (h : ∀ o ∈ [off, off + 4, off + 8], regAt u o 0 = regAt t o 0) : foot3 u off = foot3 t off := by
  simp only [List.mem_cons, List.not_mem_nil, or_false, forall_eq_or_imp, forall_eq] at h
  rw [foot3, foot3, h.1, h.2.1, h.2.2]

theorem foot3_setFld {f : Fld} {off v : Nat} (h : f.off 0 ≠ off ∧ f.off 0 ≠ off + 4 ∧ f.off 0 ≠ off + 8) (s : State) :
    foot3 (setFld f 0 v s) off = foot3 s off := by
  obtain ⟨h0, h4, h8⟩ := h
  refine foot3_congr fun o ho => ?_
  simp only [List.mem_cons, List.not_mem_nil, or_false] at ho
  rw [setFld, regAt_setWord, if_neg]
  omega

theorem foot3_setFoot3_ne {a b : Nat} (h : a + 12 ≤ b ∨ b + 12 ≤ a) (v : BitVec 73) (s : State) : foot3 (setFoot3 a v s) b = foot3 s b := by
  refine foot3_congr fun o ho => ?_
  simp only [List.mem_cons, List.not_mem_nil, or_false] at ho
  rw [setFoot3, regAt_setWord, regAt_setWord, regAt_setWord, if_neg (by omega), if_neg (by omega), if_neg (by omega)]

theorem foot3_raise {off c : Nat} (hoff : 0x200 ≤ off) (hc : c < 64) (s : State) : foot3 (raise c s) off = foot3 s off := by
  refine foot3_congr fun o ho => ?_
  simp only [List.mem_cons, List.not_mem_nil, or_false] at ho
  change regAt (setWord (0x100 + 4 * (c / 32)) _ s) o 0 = _
  rw [regAt_setWord, if_neg (by omega)]

/-- A planner run leaves in force the domain of R390. -/
theorem domainNow_setDomain (dom : BitVec 73) (s : State) : domainNow (setDomain dom s) = dom := by
  unfold setDomain domainNow
  extract_lets gone s1
  split_ifs
  · exact foot3_setFoot3 _ _ _
  · rw [foot3_raise (by decide) (by decide), foot3_setFoot3_ne (by decide)]
    exact foot3_setFoot3 _ _ _

theorem domainNow_setFld {f : Fld} (h : f.base < 0x300E0 ∨ 0x300EC ≤ f.base) (v : Nat) (s : State) : domainNow (setFld f 0 v s) = domainNow s := by
  have hoff : f.off 0 = f.base := by rw [Fld.off, Nat.zero_mul, Nat.add_zero]
  exact foot3_setFld (by omega) s

/-- The planner runs: outside a power-fail sequence, and not in E4. -/
theorem plan_runs (hpf : s.en.pf = .none) (hst : s.pw.st.toNat ≤ 3) : plan s =
    setFld PLN_RET_MS 0 (min (if (planSlots s (usable s) (List.range 72) (0, fld s PLN_HOLDP_MW)).1 = 0 then 0
        else (usable s * 1000 / (planSlots s (usable s) (List.range 72) (0, fld s PLN_HOLDP_MW)).2).floor.toNat) (2 ^ 32 - 1))
      (setFld PLN_EUSE_LO_MJ 0 (usable s).floor.toNat (modEn (fun e => { e with euse := (usable s).floor.toNat })
        (setDomain (planSlots s (usable s) (List.range 72) (0, fld s PLN_HOLDP_MW)).1 s))) := by
  rw [plan, hpf, decide_eq_false (Nat.not_lt.mpr hst)]
  rfl

theorem domainNow_modEn (g : Energy → Energy) (s : State) : domainNow (modEn g s) = domainNow s := rfl

theorem domainNow_plan (hpf : s.en.pf = .none) (hst : s.pw.st.toNat ≤ 3) :
    domainNow (plan s) = (planSlots s (usable s) (List.range 72) (0, fld s PLN_HOLDP_MW)).1 := by
  rw [plan_runs hpf hst, domainNow_setFld (by decide), domainNow_setFld (by decide), domainNow_modEn, domainNow_setDomain]

/-! ### The loss of the pack (R385) -/

/-- The fields that show the gauges, the charger, the planner's figures and the loss of the pack. -/
abbrev energyShown : List Fld :=
  [GA_Q_MC, GA_QV_MC, GA_QCNT_MC, GA_STAT_DISAGREE, GA_STAT_REST, GA_STAT_LOST, CH_STAT_ON, PLN_EUSE_LO_MJ, PLN_RET_MS]

/-- The field lies apart from all of them, from the domain and from INT_STAT. -/
abbrev EnergyApart (f : Fld) : Prop := 0x200 ≤ f.base ∧ (f.base < 0x300E0 ∨ 0x300FC ≤ f.base) ∧ ∀ g ∈ energyShown, f.Apart g

/-- What the gauges show is among them. -/
theorem EnergyApart.gauges (h : EnergyApart f) : f.Apart GA_Q_MC ∧ f.Apart GA_QV_MC ∧ f.Apart GA_QCNT_MC ∧ f.Apart GA_STAT_DISAGREE :=
  ⟨h.2.2 _ (by simp), h.2.2 _ (by simp), h.2.2 _ (by simp), h.2.2 _ (by simp)⟩

/-- What a loss of the pack leaves to the charger and the planner. -/
def packLost (s : State) : State :=
  gauges (raise 40 (setFld GA_STAT_LOST 0 1 (modEn (fun e => { e with
    qcnt := 0, lost := true, backAt := if fld s SN_VRSV_CODE * 5 ≥ fld s GA_OCV_V * 10 then some s.clk else none,
    pfLost := e.pfLost || e.pf ≠ .none }) s)))

theorem packLoss_eq (s : State) : packLoss s = plan (charger (if (packLost s).en.pf = .none then setDomain 0 (packLost s) else packLost s)) := rfl

theorem packLost_en (s : State) : ∃ a p d, (packLost s).en = { s.en with qcnt := 0, lost := true, backAt := a, pfLost := p, disArmed := d } := by
  obtain ⟨d, hd⟩ := gauges_en (raise 40 (setFld GA_STAT_LOST 0 1 (modEn (fun e => { e with
    qcnt := 0, lost := true, backAt := if fld s SN_VRSV_CODE * 5 ≥ fld s GA_OCV_V * 10 then some s.clk else none,
    pfLost := e.pfLost || e.pf ≠ .none }) s)))
  rw [raise_en] at hd
  exact ⟨_, _, d, hd⟩

theorem packLoss_en (s : State) :
    ∃ a p d u, (packLoss s).en = { s.en with qcnt := 0, lost := true, backAt := a, pfLost := p, disArmed := d, euse := u } := by
  obtain ⟨a, p, d, hlost⟩ := packLost_en s
  obtain ⟨u, hu⟩ := plan_en (charger (if (packLost s).en.pf = .none then setDomain 0 (packLost s) else packLost s))
  refine ⟨a, p, d, u, ?_⟩
  rw [packLoss_eq, hu, charger_en]
  split
  · rw [setDomain_en, hlost]
  · rw [hlost]

theorem fld_packLoss (h : EnergyApart f) (s : State) : fld (packLoss s) f = fld s f := by
  have hgauges := h.gauges
  obtain ⟨hf, hd, hshown⟩ := h
  have hl : fld (packLost s) f = fld s f := by
    rw [packLost, fld_gauges hgauges hf, fld_raise_high hf (by decide), fld_setFld_apart (hshown _ (by simp)), fld_modEn]
  rw [packLoss_eq, fld_plan hd hf ⟨hshown _ (by simp), hshown _ (by simp)⟩, fld_charger (hshown _ (by simp))]
  split
  · rw [fld_setDomain hd hf, hl]
  · exact hl

end

end Sys2Proof.Machine
end

section
/-!
The meter, the samples, the planner and the charger (R374 to R376, R380, R381, R383, R387, R388, R390, R404).
-/

namespace Sys2Proof.Machine

/-! ### Sums over the domains (R374) -/

theorem foldl_filter_add {α : Type} (p : α → Bool) (f : α → Nat) (l : List α) (n : Nat) :
    (l.filter p).foldl (fun a d => a + f d) n = n + (l.map fun d => if p d = true then f d else 0).sum := by
  induction l generalizing n with
  | nil => rfl
  | cons d l ih =>
    cases hp : p d with
    | true => rw [List.filter_cons_of_pos hp, List.foldl_cons, ih, List.map_cons, List.sum_cons, if_pos hp, Nat.add_assoc]
    | false => rw [List.filter_cons_of_neg (by simp [hp]), ih, List.map_cons, List.sum_cons, hp, if_neg Bool.false_ne_true, Nat.zero_add]

/-- A table to which each key of a list adds its amount once. -/
theorem mgetD_foldl_add (f : Nat → Nat) {l : List Nat} (hl : l.Nodup) (m : SMap Nat) (d : Nat) :
    mgetD (l.foldl (fun t k => mput t k (mgetD t k 0 + f k)) m) d 0 = mgetD m d 0 + if d ∈ l then f d else 0 := by
  induction l generalizing m with
  | nil => rfl
  | cons k l ih =>
    obtain ⟨hk, hl⟩ := List.nodup_cons.mp hl
    rw [List.foldl_cons, ih hl]
    by_cases hd : d = k
    · subst hd
      simp [mgetD, mget_mput, hk]
    · simp [mgetD, mget_mput, hd]

/-! ### The power window leaves the meter alone (R376 to R378) -/

/-- Bucket, totals, the meter's time, EN_POWER and the memories are as before. -/
def MeterFrame (s t : State) : Prop :=
  t.en.bucket = s.en.bucket ∧ t.en.totals = s.en.totals ∧ t.en.meterAt = s.en.meterAt ∧ fld t EN_POWER_MW = fld s EN_POWER_MW ∧ SameBytes s t

theorem MeterFrame.refl (s : State) : MeterFrame s s := ⟨rfl, rfl, rfl, rfl, rfl, rfl, rfl, rfl⟩

theorem MeterFrame.trans {s t u : State} (h : MeterFrame s t) (g : MeterFrame t u) : MeterFrame s u := by
  obtain ⟨h1, h2, h3, h4, h5⟩ := h
  obtain ⟨g1, g2, g3, g4, g5⟩ := g
  exact ⟨g1.trans h1, g2.trans h2, g3.trans h3, g4.trans h4, h5.trans g5⟩

section
variable {s t : State} (h : MeterFrame s t)
include h

theorem MeterFrame.setFld {f : Fld} {i : Nat} (hf : f.off i ≠ 0x30008) (v : Nat) : MeterFrame s (setFld f i v t) :=
  h.trans ⟨rfl, rfl, rfl, fld_setFld_ne _ _ _ _ _ _ hf.symm, rfl, rfl, rfl, rfl⟩

theorem MeterFrame.addFld {f : Fld} {i : Nat} (hf : f.off i ≠ 0x30008) (v : Nat) : MeterFrame s (addFld f i v t) := h.setFld hf _

theorem MeterFrame.raise {c : Nat} (hc : c < 64) : MeterFrame s (raise c t) := by
  have hen := raise_en c t
  exact h.trans ⟨by rw [hen], by rw [hen], by rw [hen], fld_raise_high (by decide) hc t, sameBytes_raise c t none⟩

/-- The stages of the window change their own counts of intervals alone. -/
theorem MeterFrame.stages (above under : Energy → Nat) (exc : Energy → Bool) :
    MeterFrame s (modEn (fun e => { e with above := above e, under := under e, excursion := exc e }) t) :=
  h.trans ⟨rfl, rfl, rfl, rfl, rfl, rfl, rfl, rfl⟩

/-- The interval's bucket goes in beside the counts of intervals. -/
theorem MeterFrame.bucket (b : Nat) (above under : Energy → Nat) : MeterFrame (modEn (fun e => { e with bucket := b }) s)
    (modEn (fun e => { e with bucket := b, above := above e, under := under e }) t) := by
  obtain ⟨-, htotals, hat, hpower, hbytes⟩ := h
  exact ⟨rfl, htotals, hat, hpower, hbytes⟩

theorem stageStep_frame (n : Nat) : MeterFrame s (stageStep n t) :=
  have hcount := (h.setFld (f := PW_STAT_STAGE) (i := 0) (by decide) n).addFld (f := PW_CNT_STEPS) (i := 0) (by decide) 1
  ((hcount.stages (fun _ => 0) (fun _ => 0) (fun e => e.excursion && n = 4)).setFld (f := PW_STAT_THR) (i := 0) (by decide)
    (if n = 4 then 4 else 0)).raise (c := 35) (by decide)

theorem stageUp_frame : MeterFrame s (stageUp t) := by
  have habove := h.stages (fun _ => 0) (fun e => e.under) (fun e => e.excursion)
  unfold stageUp
  extract_lets n s1
  split_ifs
  · exact stageStep_frame h _
  · exact habove.setFld (by decide) _
  · exact habove
  · exact (((habove.stages (fun e => e.above) (fun e => e.under) (fun _ => true)).setFld (by decide) _).addFld (by decide) _).raise (by decide)

theorem stageDown_frame : MeterFrame s (stageDown t) := by
  have hunder := h.stages (fun e => e.above) (fun _ => 0) (fun e => e.excursion)
  unfold stageDown
  extract_lets n
  split_ifs
  · exact hunder
  · exact hunder.setFld (by decide) _
  · exact stageStep_frame h _

theorem parkPort_frame (p : Nat) : MeterFrame s (parkPort t p) := by
  have hoff : SL_STAT_LSTATE.off p ≠ 0x30008 := by
    simp only [Fld.off, SL_STAT_LSTATE]
    omega
  unfold parkPort
  extract_lets q named idle
  split_ifs
  · exact h
  · exact h.setFld hoff _
  · exact h
  · exact h.setFld hoff _
  · exact h

theorem parkPorts_frame : MeterFrame s (parkPorts t) :=
  List.foldlRecOn _ _ h fun _ hu p _ => parkPort_frame hu p

theorem showEnergy_frame : MeterFrame s (showEnergy t) := (h.setFld (by decide) _).setFld (by decide) _

end

/-- Content of the bucket at the end of an interval of mean power p mW (R376). -/
def bucketAfter (p : Nat) (s : State) : Nat :=
  min ((fld s PW_LIM_PEAK - fld s PW_LIM_SUS) * fld s PW_LIM_PDUR * 100000000) (s.en.bucket + fld s PW_LIM_SUS * 1000 - p)

theorem window_frame (p : Nat) (s : State) : MeterFrame (modEn (fun e => { e with bucket := bucketAfter p s }) s) (window p s) := by
  unfold window
  extract_lets a cap b s1 hot low s2
  have hs1 : MeterFrame s s1 := ((MeterFrame.refl s).setFld (by decide) _).setFld (by decide) _
  have hs2 : MeterFrame (modEn (fun e => { e with bucket := b }) s) s2 := hs1.bucket b _ _
  split_ifs
  · exact stageUp_frame hs2
  · exact stageDown_frame hs2
  · exact hs2

/-! ### An interval of the meter (R374, R375) -/

section
variable (s : State) (events : List (Fin 51 × Fin 3 × Nat))

/-- What a powered domain spends in the interval, in pJ. -/
def meterSpent (d : Nat) : Nat :=
  Config.staticCoef d + events.foldl (fun a e => if e.1.val = d then a + e.2.2 * Config.eventCoef d e.2.1.val else a) 0

/-- What domain d spends in the interval, in pJ: nothing while it is off. -/
def domainSpent (d : Nat) : Nat := if domOn s d = true
  then Config.staticCoef d + ((events.filter fun x => x.1.val = d).map fun x => x.2.2 * Config.eventCoef d x.2.1.val).sum else 0

theorem foldl_events (d n : Nat) : events.foldl (fun a e => if e.1.val = d then a + e.2.2 * Config.eventCoef d e.2.1.val else a) n =
    n + ((events.filter fun x => x.1.val = d).map fun x => x.2.2 * Config.eventCoef d x.2.1.val).sum := by
  induction events generalizing n with
  | nil => rfl
  | cons e l ih =>
    rw [List.foldl_cons, ih]
    by_cases hd : e.1.val = d
    · simp [hd, Nat.add_assoc]
    · simp [hd]

theorem domainSpent_eq (d : Nat) : domainSpent s events d = if domOn s d = true then meterSpent events d else 0 := by
  rw [domainSpent, meterSpent, foldl_events, Nat.zero_add]

/-- Mean power of the interval in mW. -/
def meanPower : Nat := min (((List.range 51).map (domainSpent s events)).sum / 10000) (2 ^ 18 - 1)

/-- The domains' totals with the interval added. -/
def meterTotals : SMap Nat :=
  ((List.range 51).filter (domOn s)).foldl (fun t d => mput t d (mgetD t d 0 + meterSpent events d)) s.en.totals

/-- The state that the interval gives the window. -/
def metered : State :=
  setFld EN_POWER_MW 0 (meanPower s events) (modEn (fun e => { e with meterAt := e.meterAt + 4000, totals := meterTotals s events }) s)

theorem mgetD_meterTotals {d : Nat} (hd : d < 51) :
    mgetD (meterTotals s events) d 0 = mgetD s.en.totals d 0 + domainSpent s events d := by
  rw [meterTotals, mgetD_foldl_add _ (List.nodup_range.filter _), domainSpent_eq]
  simp [hd]

variable {s} in
theorem exec_meterInterval_due (hdue : s.en.meterAt + 4000 ≤ s.clk) :
    Gives s (.meterInterval events) (showEnergy (parkPorts (window (meanPower s events) (metered s events)))) := by
  have hpower : min (((List.range 51).filter (domOn s)).foldl (fun a d => a + meterSpent events d) 0 / 10000) (2 ^ 18 - 1) =
      meanPower s events := by
    rw [foldl_filter_add, Nat.zero_add, meanPower,
      show domainSpent s events = fun d => if domOn s d = true then meterSpent events d else 0 from funext (domainSpent_eq s events)]
  refine (show exec (.meterInterval events) s = execMeterInterval events s from rfl).trans ?_
  rw [execMeterInterval, if_neg (Nat.not_lt.mpr hdue), metered, ← hpower]
  rfl

theorem bucketAfter_metered (p : Nat) : bucketAfter p (metered s events) = bucketAfter p s := by
  have hlim (f : Fld) (hf : f.Apart EN_POWER_MW) : fld (metered s events) f = fld s f := fld_setFld_apart hf
  rw [bucketAfter, hlim _ (by decide), hlim _ (by decide), hlim _ (by decide), bucketAfter]
  rfl

/-- Where the frame starts: the metered state with the interval's bucket. -/
def bucketed (b : Nat) (s : State) : State := modEn (fun e => { e with bucket := b }) s

theorem fld_bucketed (b : Nat) (s : State) (f : Fld) : fld (bucketed b s) f = fld s f := rfl

theorem meterInterval_frame : MeterFrame (bucketed (bucketAfter (meanPower s events) s) (metered s events))
    (showEnergy (parkPorts (window (meanPower s events) (metered s events)))) := by
  have h := window_frame (meanPower s events) (metered s events)
  rw [bucketAfter_metered] at h
  exact showEnergy_frame (parkPorts_frame h)

/-- The interval's record: the bucket after it, the totals with it, its end and its mean power. -/
theorem meterInterval_shows :
    let t := showEnergy (parkPorts (window (meanPower s events) (metered s events)))
    SameBytes s t ∧ t.en.meterAt = s.en.meterAt + 4000 ∧ t.en.totals = meterTotals s events ∧
      fld t EN_POWER_MW = fld (metered s events) EN_POWER_MW ∧ t.en.bucket = bucketAfter (meanPower s events) s := by
  obtain ⟨hbucket, htotals, hat, hpower, hbytes⟩ := meterInterval_frame s events
  generalize bucketAfter (meanPower s events) s = b at *
  exact ⟨hbytes, hat, htotals, hpower.trans (fld_bucketed b _ _), hbucket⟩

theorem fld_power_metered : fld (metered s events) EN_POWER_MW = meanPower s events := by
  have hlt : meanPower s events < 2 ^ 18 := Nat.lt_succ_of_le (Nat.min_le_right _ _)
  rw [metered, fld_setFld_same _ _ _ _ (by decide)]
  exact Nat.mod_eq_of_lt hlt

end

/-! ### Samples (R380, R381) -/

section
variable {s : State} {code : Nat}

theorem sampleReserve_shows (hcode : code < 2 ^ 14) (s : State) : fld (sampleReserve code s) SN_VRSV_CODE = code ∧
    (sampleReserve code s).en.slot = s.en.slot ∧ (sampleReserve code s).en.vrsvSeen = true := by
  unfold sampleReserve
  extract_lets old fell s1 s2 good
  have hs1 : fld s1 SN_VRSV_CODE = code ∧ s1.en.slot = s.en.slot ∧ s1.en.vrsvSeen = true := by
    obtain ⟨d, hd⟩ := gauges_en (estimate (modEn (fun e => { e with vrsvSeen := true }) (setFld SN_VRSV_CODE 0 code s)))
    refine ⟨?_, (congrArg Energy.slot hd :), (congrArg Energy.vrsvSeen hd :)⟩
    refine (fld_gauges (by decide) (by decide) _).trans ?_
    rw [fld_estimate, fld_modEn, fld_setFld_same _ _ _ _ (by decide)]
    exact Nat.mod_eq_of_lt hcode
  have hs2 : fld s2 SN_VRSV_CODE = code ∧ s2.en.slot = s.en.slot ∧ s2.en.vrsvSeen = true := by
    obtain ⟨hfld, hslot, hseen⟩ := hs1
    simp only [s2]
    split
    · obtain ⟨a, p, d, u, hlost⟩ := packLoss_en s1
      exact ⟨(fld_packLoss (by decide) s1).trans hfld, (congrArg Energy.slot hlost :).trans hslot, (congrArg Energy.vrsvSeen hlost :).trans hseen⟩
    · exact ⟨hfld, hslot, hseen⟩
  exact hs2

/-- What SN_IRSV shows of a current sample, with the current and the slot of the energy record. -/
def CurrentShown (code : Nat) (blanked : Bool) (i : Rat) (slot : Fin 10) (z : State) : Prop :=
  fld z SN_IRSV_CODE = code ∧ flg z SN_IRSV_GAIN = z.en.high ∧ flg z SN_IRSV_BLANK = blanked ∧ z.en.iLast = i ∧ z.en.slot = slot

/-- A gain that is put in force is shown. -/
theorem setGain_shown {b : Bool} {i : Rat} {slot : Fin 10} (g : Bool) (h : CurrentShown code b i slot s) :
    CurrentShown code b i slot (setGain g s) ∧ (setGain g s).en.high = g := by
  rw [setGain]
  split
  · next hg => exact ⟨h, hg⟩
  · obtain ⟨hcode, -, hblank, hi, hslot⟩ := h
    refine ⟨⟨?_, ?_, ?_, hi, hslot⟩, rfl⟩
    · rw [fld_setFld_apart (by decide), fld_modEn, hcode]
    · rw [flg_setFld_same _ _ _ _ (by decide)]
      cases g with
      | false => rfl
      | true => rfl
    · rw [flg_setFld_apart (by decide)]
      exact hblank

theorem CurrentShown.modEn {b : Bool} {i : Rat} {slot : Fin 10} {z : State} (h : CurrentShown code b i slot z) {g : Energy → Energy}
    (hhigh : ∀ e, (g e).high = e.high) (hslot : ∀ e, (g e).slot = e.slot) : CurrentShown code b (g z.en).iLast slot (modEn g z) := by
  obtain ⟨hcode, hgain, hblank, -, hz⟩ := h
  exact ⟨hcode, hgain.trans (hhigh z.en).symm, hblank, rfl, (hslot z.en).trans hz⟩

/-- The mean of the current beside the sample's code and flags. -/
theorem CurrentShown.setI {b : Bool} {i : Rat} {slot : Fin 10} {z : State} (h : CurrentShown code b i slot z) (v : Nat) :
    CurrentShown code b i slot (setFld SN_IRSV_I 0 v z) := by
  obtain ⟨hcode, hgain, hblank, hi, hz⟩ := h
  exact ⟨(fld_setFld_apart (by decide)).trans hcode, (flg_setFld_apart (by decide)).trans hgain, (flg_setFld_apart (by decide)).trans hblank, hi, hz⟩

/-- What follows every current sample: the charge count, the gauges and the rest timer. -/
theorem currentEnded_keeps {b : Bool} {i : Rat} {slot : Fin 10} (x : Rat) {z : State} (h : CurrentShown code b i slot z) :
    let t := restTimer (gauges (estimate (modEn (fun e => { e with qcnt := x, gap := 0, iSeen := true }) z)))
    CurrentShown code b i slot t ∧ t.en.high = z.en.high ∧ t.en.blank = z.en.blank := by
  intro t
  obtain ⟨hcode, hgain, hblank, hi, hslot⟩ := h
  obtain ⟨d, hd⟩ := gauges_en (estimate (modEn (fun e => { e with qcnt := x, gap := 0, iSeen := true }) z))
  have hfld (f : Fld) (hf : EnergyApart f) : fld t f = fld z f :=
    (fld_restTimer (hf.2.2 _ (by simp)) _).trans ((fld_gauges hf.gauges hf.1 _).trans rfl)
  have hhigh : t.en.high = z.en.high := (congrArg Energy.high hd :)
  refine ⟨⟨(hfld _ (by decide)).trans hcode, ?_, ?_, (congrArg Energy.iLast hd :).trans hi, (congrArg Energy.slot hd :).trans hslot⟩, hhigh,
    (congrArg Energy.blank hd :)⟩
  · rw [flg, hfld _ (by decide), hhigh]
    exact hgain
  · rw [flg, hfld _ (by decide)]
    exact hblank

/-- The current of a code at the gain in force, in mA. -/
def codeCurrent (code : Nat) (s : State) : Rat :=
  ((code : Int) - 8192) * 125000 / ((if s.en.high then fld s SN_CFG_GHI else fld s SN_CFG_GLO) * fld s SN_CFG_SHUNT : Nat)

/-- The gain after an unblanked sample that the engine judges (R381). -/
def gainAfter (code : Nat) (s : State) : Bool :=
  let off := ((code : Int) - 8192).natAbs
  if s.en.high then decide (off < 7782)
  else decide (off * fld s SN_CFG_GHI * 10 < 8 * 8192 * fld s SN_CFG_GLO ∧ 63 ≤ s.en.lowRun)

/-- The registers of a sample as they are written first. -/
theorem shown_first (hcode : code < 2 ^ 14) (s : State) : CurrentShown code (decide (0 < s.en.blank)) s.en.iLast s.en.slot
    (setFld SN_IRSV_CODE 0 code (setFld SN_IRSV_GAIN 0 (if s.en.high then 1 else 0) (setFld SN_IRSV_BLANK 0 (if 0 < s.en.blank then 1 else 0) s))) := by
  refine ⟨?_, ?_, ?_, rfl, rfl⟩
  · rw [fld_setFld_same _ _ _ _ (by decide)]
    exact Nat.mod_eq_of_lt hcode
  · rw [flg_setFld_apart (by decide), flg_setFld_same _ _ _ _ (by decide)]
    change _ = s.en.high
    cases s.en.high with
    | false => rfl
    | true => rfl
  · rw [flg_setFld_apart (by decide), flg_setFld_apart (by decide), flg_setFld_same _ _ _ _ (by decide)]
    split
    · next h => rw [decide_eq_true h]; rfl
    · next h => rw [decide_eq_false h]; rfl

/-- A current sample with the gain left to the engine. -/
theorem sampleCurrent_shows (hcode : code < 2 ^ 14) (hforce : fld s SN_GAIN_FORCE = 0) :
    CurrentShown code (decide (0 < s.en.blank)) (if 0 < s.en.blank then s.en.iLast else codeCurrent code s) s.en.slot (sampleCurrent code s) ∧
      (sampleCurrent code s).en.high = (if 0 < s.en.blank then s.en.high else gainAfter code s) ∧
      (0 < s.en.blank → (sampleCurrent code s).en.blank = s.en.blank - 1) := by
  unfold sampleCurrent
  extract_lets s0 high blank g i mag s1 s3 s2 q
  have hs0 : s0 = s := by simp only [s0, hforce]
  suffices hs2 : CurrentShown code (decide (0 < s.en.blank)) (if 0 < s.en.blank then s.en.iLast else codeCurrent code s) s.en.slot s2 ∧
      s2.en.high = (if 0 < s.en.blank then s.en.high else gainAfter code s) ∧ (0 < s.en.blank → s2.en.blank = s.en.blank - 1) by
    obtain ⟨hshown, hhigh, hblank⟩ := hs2
    obtain ⟨tshown, thigh, tblank⟩ := currentEnded_keeps (max 0 (min q (ocvQ s 15))) hshown
    exact ⟨tshown, thigh.trans hhigh, fun h => tblank.trans (hblank h)⟩
  clear_value s0
  subst hs0
  have hs1 : CurrentShown code (decide (0 < s0.en.blank)) s0.en.iLast s0.en.slot s1 := shown_first hcode s0
  have hen : s1.en = s0.en := rfl
  have hi : i = codeCurrent code s0 := rfl
  have hjudge : gainAfter code s0 = if high then decide (mag < 7782)
    else decide (mag * fld s0 SN_CFG_GHI * 10 < 8 * 8192 * fld s0 SN_CFG_GLO ∧ 63 ≤ s0.en.lowRun) := rfl
  have hhigh : high = s0.en.high := rfl
  clear_value s1 i mag high
  by_cases hblank : 0 < s0.en.blank
  · rw [decide_eq_true hblank, if_pos hblank, if_pos hblank]
    rw [decide_eq_true hblank] at hs1
    have hs2 : s2 = modEn (fun e => { e with blank := e.blank - 1 }) s1 := if_pos hblank
    rw [hs2]
    have h := hs1.modEn (g := fun e => { e with blank := e.blank - 1 }) (fun _ => rfl) (fun _ => rfl)
    dsimp only at h
    rw [hen] at h
    refine ⟨h, ?_, fun _ => ?_⟩
    · rw [modEn_en, hen]
    · rw [modEn_en, hen]
  · rw [decide_eq_false hblank, if_neg hblank, if_neg hblank]
    rw [decide_eq_false hblank] at hs1
    have h3 : CurrentShown code false i s0.en.slot s3 ∧ s3.en.high = high ∧ s3.en.lowRun = s0.en.lowRun := by
      refine ⟨(hs1.modEn (g := fun e => { e with
        iPrev := if e.iSeen then e.iLast else i, iLast := i, iGap := if e.iSeen then e.age else 8, age := 0 }) (fun _ => rfl) (fun _ => rfl)).setI _, ?_, ?_⟩
      · rw [hhigh, ← hen]
        rfl
      · rw [← hen]
        rfl
    clear_value s3
    obtain ⟨h3, h3high, h3run⟩ := h3
    refine (fun h => ⟨h.1, h.2, fun hb => absurd hb hblank⟩ : CurrentShown code false (codeCurrent code s0) s0.en.slot s2 ∧
      s2.en.high = gainAfter code s0 → _) ?_
    rw [hjudge, ← hi]
    have counted (n : Energy → Nat) : CurrentShown code false i s0.en.slot (modEn (fun e => { e with lowRun := n e }) s3) ∧
        (modEn (fun e => { e with lowRun := n e }) s3).en.high = high := by
      have h := h3.modEn (g := fun e => { e with lowRun := n e }) (fun _ => rfl) (fun _ => rfl)
      obtain ⟨-, -, -, hlast, -⟩ := h3
      dsimp only at h
      rw [hlast] at h
      exact ⟨h, h3high⟩
    have hforced : ¬ fld s0 SN_GAIN_FORCE ≠ 0 := not_not.mpr hforce
    simp only [s2]
    rw [if_neg hblank, if_neg hforced]
    split_ifs with hhi hclip hlow hrun
    · obtain ⟨hshown, hset⟩ := setGain_shown false h3
      exact ⟨hshown, hset.trans (decide_eq_false (Nat.not_lt.mpr hclip)).symm⟩
    · exact ⟨h3, h3high.trans (hhi.trans (decide_eq_true (Nat.not_le.mp hclip)).symm)⟩
    · obtain ⟨hshown, hset⟩ := setGain_shown true h3
      exact ⟨hshown, hset.trans (decide_eq_true ⟨hlow, h3run ▸ hrun⟩).symm⟩
    · obtain ⟨hshown, hsame⟩ := counted (fun e => e.lowRun + 1)
      refine ⟨hshown, hsame.trans (eq_false_of_ne_true hhi |>.trans (decide_eq_false fun h => hrun ?_).symm)⟩
      exact h3run.symm ▸ h.2
    · obtain ⟨hshown, hsame⟩ := counted (fun _ => 0)
      exact ⟨hshown, hsame.trans (eq_false_of_ne_true hhi |>.trans (decide_eq_false fun h => hlow h.1).symm)⟩

/-- The next slot of the converter's sequence is at hand. -/
def nextSlot (s : State) : State := modEn (fun e => { e with slot := e.slot + 1, gap := e.gap + 8, age := e.age + 8 }) s

theorem exec_adcSample (code : BitVec 14) (s : State) : exec (.adcSample code) s = .next (
    if s.en.slot = 4 then setFld SN_VBUS_CODE 0 code.toNat (nextSlot s)
    else if s.en.slot = 9 then sampleReserve code.toNat (nextSlot s) else sampleCurrent code.toNat (nextSlot s)) := rfl

theorem codeCurrent_eq (code : Nat) (s : State) : codeCurrent code s =
    (((code : Int) - 8192) * 125000 : Int) / ((if s.en.high then fld s SN_CFG_GHI else fld s SN_CFG_GLO) * fld s SN_CFG_SHUNT : Nat) := by
  rw [codeCurrent]
  push_cast
  rfl

theorem high_nextSlot (s : State) : (nextSlot s).en.high = s.en.high := rfl

theorem blank_nextSlot (s : State) : (nextSlot s).en.blank = s.en.blank := rfl

theorem fld_nextSlot (s : State) (f : Fld) : fld (nextSlot s) f = fld s f := rfl

theorem codeCurrent_nextSlot (code : Nat) (s : State) : codeCurrent code (nextSlot s) = codeCurrent code s := by
  rw [codeCurrent, high_nextSlot, fld_nextSlot, fld_nextSlot, fld_nextSlot, codeCurrent]

theorem gainAfter_nextSlot (code : Nat) (s : State) : gainAfter code (nextSlot s) = gainAfter code s := by
  have hrun : (nextSlot s).en.lowRun = s.en.lowRun := rfl
  rw [gainAfter, high_nextSlot, fld_nextSlot, fld_nextSlot, hrun, gainAfter]

/-- A sample of the current goes to its register, and its value into force unless it is blanked. -/
theorem adcSample_current {code : BitVec 14} (hbus : s.en.slot ≠ 4) (hrsv : s.en.slot ≠ 9) (hforce : fld s SN_GAIN_FORCE = 0) :
    ∃ t, Gives s (.adcSample code) t ∧
      CurrentShown code.toNat (decide (0 < s.en.blank)) (if 0 < s.en.blank then s.en.iLast else codeCurrent code.toNat s) (s.en.slot + 1) t ∧
      t.en.high = (if 0 < s.en.blank then s.en.high else gainAfter code.toNat s) ∧ (0 < s.en.blank → t.en.blank = s.en.blank - 1) := by
  have h := sampleCurrent_shows (s := nextSlot s) code.isLt hforce
  have hslot : (nextSlot s).en.slot = s.en.slot + 1 := rfl
  have hlast : (nextSlot s).en.iLast = s.en.iLast := rfl
  rw [codeCurrent_nextSlot, gainAfter_nextSlot, blank_nextSlot, high_nextSlot, hslot, hlast] at h
  refine ⟨_, ?_, h⟩
  rw [Gives, exec_adcSample, if_neg hbus, if_neg hrsv]

/-! ### Reads of the totals (R374, R404) -/

theorem fld_showEnergy_apart {f : Fld} (h : f.Apart EN_TOTAL_LO_MJ ∧ f.Apart EN_DOM_LO_MJ) (s : State) : fld (showEnergy s) f = fld s f :=
  (fld_setFld_apart h.1).trans (fld_setFld_apart h.2)

theorem fld_showEnergy_total (s : State) :
    fld (showEnergy s) EN_TOTAL_LO_MJ = s.en.totals.foldl (fun a x => a + x.2) 0 / 1000000000 % 2 ^ 32 :=
  fld_setFld_same _ _ _ _ (by decide)

theorem fld_showEnergy_domain (s : State) :
    fld (showEnergy s) EN_DOM_LO_MJ = mgetD s.en.totals (fld s EN_DSEL_DOM) 0 / 1000000000 % 2 ^ 32 :=
  (fld_setFld_apart (by decide)).trans (fld_setFld_same _ _ _ _ (by decide))

theorem fld_latch (s : State) {f : Fld} (hw : f.lo + f.w ≤ 32) (v : Nat) : fld (setFld f 0 v (showEnergy s)) f = v % 2 ^ f.w :=
  fld_setFld_same _ _ _ _ hw

/-! ### The planner and the charger (R387, R388, R390) -/

/-- A domain that loses slots raises DUR_SHRINK and notes them. -/
theorem setDomain_shrinks {dom : BitVec 73} (hgone : domainNow s &&& ~~~dom ≠ 0) : bits (regAt (setDomain dom s) 0x104 0) 11 1 = 1 ∧
    foot3 (setDomain dom s) 0x300F0 = foot3 s 0x300F0 ||| (domainNow s &&& ~~~dom) := by
  rw [setDomain]
  generalize domainNow s &&& ~~~dom = gone at hgone ⊢
  rw [if_neg hgone]
  refine ⟨bits_raise (c := 43) (by decide) _ none, ?_⟩
  rw [foot3_raise (by decide) (by decide), foot3_setFoot3, foot3_setFoot3_ne (by decide)]

theorem regAt_modEn (g : Energy → Energy) (s : State) (off i : Nat) : regAt (modEn g s) off i = regAt s off i := rfl

theorem regAt_plan (hpf : s.en.pf = .none) (hst : s.pw.st.toNat ≤ 3) {off : Nat} (hoff : off ≠ PLN_RET_MS.off 0 ∧ off ≠ PLN_EUSE_LO_MJ.off 0) :
    regAt (plan s) off 0 = regAt (setDomain (planSlots s (usable s) (List.range 72) (0, fld s PLN_HOLDP_MW)).1 s) off 0 := by
  rw [plan_runs hpf hst, setFld, regAt_setWord, if_neg hoff.1, setFld, regAt_setWord, if_neg hoff.2, regAt_modEn]

/-- A planner run outside a power-fail sequence. -/
theorem plan_shows (hpf : s.en.pf = .none) (hst : s.pw.st.toNat ≤ 3) :
    let walk := planSlots s (usable s) (List.range 72) (0, fld s PLN_HOLDP_MW)
    domainNow (plan s) = walk.1 ∧ (plan s).en.euse = (usable s).floor.toNat ∧
    fld (plan s) PLN_RET_MS = (if walk.1 = 0 then 0 else min (usable s * 1000 / walk.2).floor.toNat (2 ^ 32 - 1)) ∧
    (domainNow s &&& ~~~walk.1 ≠ 0 →
      bits (regAt (plan s) 0x104 0) 11 1 = 1 ∧ foot3 (plan s) 0x300F0 = foot3 s 0x300F0 ||| (domainNow s &&& ~~~walk.1)) := by
  intro walk
  refine ⟨domainNow_plan hpf hst, ?_, ?_, fun hgone => ?_⟩
  · rw [plan_runs hpf hst]
    rfl
  · rw [plan_runs hpf hst, fld_setFld_same _ _ _ _ (by decide)]
    split
    · rw [Nat.zero_min, Nat.zero_mod]
    · exact Nat.mod_eq_of_lt (Nat.lt_succ_of_le (Nat.min_le_right _ _))
  · obtain ⟨hbit, hfoot⟩ := setDomain_shrinks hgone
    exact ⟨(congrArg (fun w => bits w 11 1) (regAt_plan hpf hst (by decide))).trans hbit, (foot3_congr fun o ho => regAt_plan hpf hst (by
      simp only [List.mem_cons, List.not_mem_nil, or_false] at ho
      have hret : PLN_RET_MS.off 0 = 0x30108 := rfl
      have heuse : PLN_EUSE_LO_MJ.off 0 = 0x30100 := rfl
      omega)).trans hfoot⟩

theorem plan_halted (hpf : s.en.pf ≠ .none) : plan s = s := by
  rw [plan, decide_eq_true hpf, Bool.true_or, if_pos rfl]

/-- The charger's next adjustment is counted from now. -/
def chargeTimed (s : State) : State := modEn (fun e => { e with chgAt := s.clk }) s

/-- The bus runs short of headroom: the charger's command falls by a step (R387). -/
theorem charger_lowers (hdue : s.en.chgAt + 100 * edgesMs ≤ s.clk)
    (hhead : ((fld s SN_VBUS_CODE : Int) - fld s SN_VRSV_CODE) * 5 < (fld s CH_CFG_HDR * 100 : Int)) (hnow : iNow s * 10 < (9 * fld s CH_STAT_CMD : Nat)) :
    ∃ t, Gives s .chargerAdjust t ∧ fld t CH_STAT_CMD = fld s CH_STAT_CMD - max (fld s CH_CTL_SET / 16) ((fld s CH_CFG_FS + 1022) / 1023) ∧
      flg t CH_STAT_LIMITED = true ∧ t.en.chgAt = s.clk := by
  have hcmd : fld s CH_STAT_CMD < 2 ^ 16 := fld_lt CH_STAT_CMD 0 s
  generalize hstep : max (fld s CH_CTL_SET / 16) ((fld s CH_CFG_FS + 1022) / 1023) = step
  let t := setFld CH_STAT_CMD 0 (fld s CH_STAT_CMD - step) (chargeTimed s)
  have ht : fld t CH_STAT_CMD = fld s CH_STAT_CMD - step := by
    rw [fld_setFld_same _ _ _ _ (by decide)]
    exact Nat.mod_eq_of_lt (Nat.lt_of_le_of_lt (Nat.sub_le ..) hcmd)
  have hlim : flg t CH_STAT_LIMITED = flg s CH_STAT_LIMITED := flg_setFld_apart (by decide)
  have hgoes : Gives s .chargerAdjust (if flg s CH_STAT_LIMITED then t else raise 42 (setFld CH_STAT_LIMITED 0 1 t)) := by
    refine (show exec .chargerAdjust s = execChargerAdjust s from rfl).trans ?_
    rw [execChargerAdjust, if_neg (Nat.not_lt.mpr hdue)]
    dsimp only
    rw [if_pos ⟨hhead, hnow⟩, hstep]
    rfl
  refine ⟨_, hgoes, ?_⟩
  split
  · next h => exact ⟨ht, hlim.trans h, rfl⟩
  · refine ⟨?_, ?_, ?_⟩
    · rw [fld_raise_high (by decide) (by decide), fld_setFld_apart (by decide), ht]
    · rw [flg, fld_raise_high (by decide) (by decide), fld_setFld_same _ _ _ _ (by decide)]
      rfl
    · rw [raise_en]
      rfl

theorem charger_raises (hdue : s.en.chgAt + 100 * edgesMs ≤ s.clk)
    (hhead : (fld s CH_CFG_HDR * 100 : Int) + 1000 ≤ ((fld s SN_VBUS_CODE : Int) - fld s SN_VRSV_CODE) * 5) (hset : fld s CH_STAT_CMD < fld s CH_CTL_SET) :
    ∃ t, Gives s .chargerAdjust t ∧ fld t CH_STAT_CMD = min (fld s CH_CTL_SET) (fld s CH_STAT_CMD + fld s CH_CTL_SET / 16) ∧
      (fld s CH_CTL_SET ≤ fld s CH_STAT_CMD + fld s CH_CTL_SET / 16 → flg t CH_STAT_LIMITED = false) ∧ t.en.chgAt = s.clk := by
  have hlt : min (fld s CH_CTL_SET) (fld s CH_STAT_CMD + fld s CH_CTL_SET / 16) < 2 ^ 16 :=
    Nat.lt_of_le_of_lt (Nat.min_le_left ..) (fld_lt CH_CTL_SET 0 s)
  have hnot : ¬ (((fld s SN_VBUS_CODE : Int) - fld s SN_VRSV_CODE) * 5 < (fld s CH_CFG_HDR * 100 : Int)) := by omega
  generalize hn : min (fld s CH_CTL_SET) (fld s CH_STAT_CMD + fld s CH_CTL_SET / 16) = n at hlt ⊢
  have hgoes : Gives s .chargerAdjust (setFld CH_STAT_CMD 0 n
      (if n = fld s CH_CTL_SET then setFld CH_STAT_LIMITED 0 0 (chargeTimed s) else chargeTimed s)) := by
    refine (show exec .chargerAdjust s = execChargerAdjust s from rfl).trans ?_
    rw [execChargerAdjust, if_neg (Nat.not_lt.mpr hdue)]
    dsimp only
    rw [if_neg (fun h => hnot h.1), if_pos ⟨hhead, hset⟩, hn]
    rfl
  refine ⟨_, hgoes, ?_, fun hfull => ?_, ?_⟩
  · rw [fld_setFld_same _ _ _ _ (by decide)]
    exact Nat.mod_eq_of_lt hlt
  · rw [if_pos (by rw [← hn, Nat.min_eq_left hfull]), flg_setFld_apart (by decide), flg_setFld_same _ _ _ _ (by decide)]
    rfl
  · split
    · rfl
    · rfl


end

/-- Settles O42: the frame of the power window carries the meter, and each sample, planner run and adjustment shows its own figures. -/
theorem energyMeter : Obligations.EnergyMeter := by
  unfold Obligations.EnergyMeter
  intro s events code e spent mw total head hdr set cmd gain off walk
  have hcode : code.toNat < 2 ^ 14 := code.isLt
  refine ⟨fun hdue => ?meter, fun hslot => ?bus, fun hslot => ?reserve, fun hbus hrsv hforce => ?current,
    fun hpf hst => ⟨_, rfl, plan_shows hpf hst⟩, fun hpf => ?frozen, fun hdue hhead hnow => charger_lowers hdue hhead hnow,
    fun hdue hhead hset => charger_raises hdue hhead hset, ?total, ?domain, ?usable⟩
  case meter =>
    obtain ⟨hbytes, hat, htotals, hpower, hbucket⟩ := meterInterval_shows s events
    have hmw : mw = meanPower s events := rfl
    refine ⟨_, exec_meterInterval_due events hdue, hbytes, hat, fun d hd => ?_, ?_, ?_⟩
    · rw [htotals]
      exact mgetD_meterTotals s events hd
    · rw [hpower, hmw, fld_power_metered]
    · rw [hbucket, hmw, bucketAfter]
  case bus =>
    refine ⟨_, exec_adcSample code s, ?_, ?_⟩
    · rw [if_pos hslot, fld_setFld_same _ _ _ _ (by decide)]
      exact Nat.mod_eq_of_lt hcode
    · rw [if_pos hslot]
      change s.en.slot + 1 = 5
      rw [show s.en.slot = 4 from hslot]
      rfl
  case reserve =>
    obtain ⟨hfld, hnext, hseen⟩ := sampleReserve_shows hcode (nextSlot s)
    have hgoes : exec (.adcSample code) s = .next (sampleReserve code.toNat (nextSlot s)) := by
      rw [exec_adcSample, show s.en.slot = 9 from hslot]
      rfl
    refine ⟨_, hgoes, hfld, hnext.trans ?_, hseen⟩
    change s.en.slot + 1 = 0
    rw [show s.en.slot = 9 from hslot]
    rfl
  case current =>
    obtain ⟨t, hgoes, ⟨hfld, hgain, hblank, hlast, hslot⟩, hhigh, hleft⟩ := adcSample_current hbus hrsv hforce
    refine ⟨t, hgoes, hfld, hslot, hgain, hblank, hhigh, fun h0 => ?_, fun h0 => ⟨hleft h0, hlast.trans (if_pos h0)⟩⟩
    rw [hlast, if_neg (Nat.not_lt.mpr (Nat.le_of_eq h0)), codeCurrent_eq]
  case frozen =>
    exact congrArg Host.Outcome.next (plan_halted hpf)
  case total =>
    exact ⟨_, rfl, (fld_setFld_apart (by decide)).trans (fld_showEnergy_total s), fld_latch s (by decide) _⟩
  case domain =>
    exact ⟨_, rfl, (fld_setFld_apart (by decide)).trans (fld_showEnergy_domain s), fld_latch s (by decide) _⟩
  case usable => exact ⟨_, rfl, fld_latch s (by decide) _⟩

end Sys2Proof.Machine
end

section
/-!
The reserve, the pack and the battery-backed words (R381 to R386, R395, R397, R405, R406).
-/

namespace Sys2Proof.Machine

section
variable {s : State}

/-! ### Causes stay latched (R472) -/

/-- Cause c is latched in INT_STAT. -/
def CauseOn (c : Nat) (s : State) : Prop := bits (regAt s (0x100 + 4 * (c / 32)) 0) (c % 32) 1 = 1

theorem causeOn_raise_same {c : Nat} (hc : c < 64) (s : State) : CauseOn c (raise c s) := bits_raise hc s none

section
variable {c : Nat} (h : CauseOn c s)
include h

theorem CauseOn.raise (d : Nat) : CauseOn c (raise d s) := by
  rw [CauseOn, bits_one] at h
  rw [CauseOn, show regAt (Machine.raise d s) = regAt (setWord (0x100 + 4 * (d / 32)) (regAt s (0x100 + 4 * (d / 32)) 0 ||| 2 ^ (d % 32)) s) from rfl,
    regAt_setWord, bits_one]
  split
  · next hword =>
    rw [Nat.testBit_mod_two_pow, decide_eq_true (Nat.mod_lt c (by decide)), Bool.true_and, Nat.testBit_or, ← hword, Bool.toNat_eq_one.mp h, Bool.true_or]
    rfl
  · exact h

theorem CauseOn.setWord (hc : c < 64) {off : Nat} (hoff : 0x200 ≤ off) (v : Nat) : CauseOn c (setWord off v s) := by
  rw [CauseOn, regAt_setWord, if_neg (by omega)]
  exact h

theorem CauseOn.setFld (hc : c < 64) {f : Fld} (hf : 0x200 ≤ f.base) (v : Nat) : CauseOn c (setFld f 0 v s) :=
  h.setWord hc (Nat.le_add_right_of_le hf) _

theorem CauseOn.modEn (g : Energy → Energy) : CauseOn c (modEn g s) := h

theorem CauseOn.setDomain (hc : c < 64) (dom : BitVec 73) : CauseOn c (setDomain dom s) := by
  have hfoot {t : State} (h : CauseOn c t) {off : Nat} (hoff : 0x200 ≤ off) (v : BitVec 73) : CauseOn c (setFoot3 off v t) :=
    ((h.setWord hc (by omega) _).setWord hc (by omega) _).setWord hc (by omega) _
  unfold Machine.setDomain
  extract_lets gone s1
  have hs1 : CauseOn c s1 := hfoot h (by decide) _
  split_ifs
  · exact hs1
  · exact (hfoot hs1 (by decide) _).raise 43

theorem CauseOn.plan (hc : c < 64) : CauseOn c (plan s) := by
  unfold Machine.plan
  split_ifs
  · exact h
  · extract_lets u r ret eu
    exact (((h.setDomain hc r.1).modEn _).setFld hc (by decide) _).setFld hc (by decide) _

theorem CauseOn.charger (hc : c < 64) : CauseOn c (charger s) := h.setFld hc (by decide) _

theorem CauseOn.gauges (hc : c < 64) : CauseOn c (gauges s) := by
  unfold Machine.gauges
  extract_lets e diff tol s1 s2
  have hs1 : CauseOn c s1 := ((h.setFld hc (by decide) _).setFld hc (by decide) _).setFld hc (by decide) _
  have hs2 : CauseOn c s2 := hs1.setFld hc (by decide) _
  split_ifs
  · exact (hs2.modEn _).raise 41
  · exact hs2
  · exact hs1.modEn _
  · exact hs1

end

/-! ### The domain without a pack (R385, R388, R390) -/

theorem raise_pw (c : Nat) (s : State) : (raise c s).pw = s.pw := by
  have h := congrArg (fun t : State => t.pw) (raise_regs_only c s none)
  exact h

theorem gauges_pw (s : State) : (gauges s).pw = s.pw := by
  unfold gauges
  extract_lets e diff tol s1 s2
  split_ifs
  · rw [raise_pw]
    rfl
  · rfl
  · rfl
  · rfl

theorem setDomain_pw (dom : BitVec 73) (s : State) : (setDomain dom s).pw = s.pw := by
  unfold setDomain
  extract_lets gone s1
  split_ifs
  · rfl
  · rw [raise_pw]
    rfl

theorem slotp_of_eligible {i : Nat} (h : eligible s i = true) : mgetD s.en.slotp i 0 ≠ 0 := by
  simp only [eligible, Bool.and_eq_true, bne_iff_ne] at h
  obtain ⟨⟨⟨-, hslotp⟩, -⟩, -⟩ := h
  exact hslotp

/-- Without usable energy no slot joins the domain. -/
theorem planSlots_empty (hhold : 0 < fld s PLN_CTL_HOLD) (l : List Nat) (acc : BitVec 73 × Nat) : planSlots s 0 l acc = acc := by
  obtain ⟨dom, p⟩ := acc
  induction l with
  | nil => rfl
  | cons i l ih =>
    rw [planSlots]
    generalize hm : (if (domainNow s).getLsbD i then 100 else 100 + fld s PLN_CTL_ADD) = m
    have hpos : 0 < m := by
      rw [← hm]
      split
      · decide
      · omega
    rw [if_neg, ih]
    intro hjoin
    rw [Bool.and_eq_true, decide_eq_true_eq] at hjoin
    obtain ⟨helig, hcost⟩ := hjoin
    have hw : 0 < (mgetD s.en.slotp i 0).toNat := Nat.pos_of_ne_zero fun h0 => slotp_of_eligible helig (BitVec.eq_of_toNat_eq h0)
    have hcost0 : ((fld s PLN_CTL_HOLD * m * (p + (mgetD s.en.slotp i 0).toNat) : Nat) : Rat) ≤ 0 := by
      rw [zero_mul] at hcost
      exact hcost
    have hprod : 0 < fld s PLN_CTL_HOLD * m * (p + (mgetD s.en.slotp i 0).toNat) := Nat.mul_pos (Nat.mul_pos hhold hpos) (by omega)
    exact absurd (Nat.cast_le.mp (hcost0.trans_eq Nat.cast_zero.symm)) (Nat.not_le.mpr hprod)

theorem usable_zero (hpack : packOk s = false) : usable s = 0 := by
  have hflush : (0 : Rat) - (flushCost s : Rat) ≤ 0 := sub_nonpos.mpr (Nat.cast_nonneg _)
  rw [usable, hpack]
  simp only [Bool.not_false, Bool.or_true, Bool.true_or, if_true]
  exact max_eq_left hflush

theorem domainNow_plan_empty (hpf : s.en.pf = .none) (hst : s.pw.st.toNat ≤ 3) (hhold : 0 < fld s PLN_CTL_HOLD) (hpack : packOk s = false) :
    domainNow (plan s) = 0 := by
  rw [domainNow_plan hpf hst, usable_zero hpack, planSlots_empty hhold]

/-! ### The loss and the return of the pack (R385) -/

/-- What the charger and the planner find when the pack is lost. -/
def packGone (s : State) : State := if (packLost s).en.pf = .none then setDomain 0 (packLost s) else packLost s

theorem packLoss_gone (s : State) : packLoss s = plan (charger (packGone s)) := packLoss_eq s

theorem packGone_en (s : State) : (packGone s).en = (packLost s).en := by
  rw [packGone]
  split
  · rw [setDomain_en]
  · rfl

theorem packLost_pw (s : State) : (packLost s).pw = s.pw := by
  rw [packLost, gauges_pw, raise_pw]
  rfl

theorem packGone_pw (s : State) : (packGone s).pw = s.pw := by
  rw [packGone]
  split
  · rw [setDomain_pw, packLost_pw]
  · exact packLost_pw s

theorem fld_packGone {f : Fld} (hf : 0x200 ≤ f.base) (hd : f.base < 0x300E0 ∨ 0x300FC ≤ f.base) (s : State) : fld (packGone s) f = fld (packLost s) f := by
  rw [packGone]
  split
  · rw [fld_setDomain hd hf]
  · rfl

theorem flg_packLost_lost (s : State) : flg (packLost s) GA_STAT_LOST = true := by
  rw [flg, packLost, fld_gauges (by decide) (by decide), fld_raise_high (by decide) (by decide), fld_setFld_same _ _ _ _ (by decide)]
  rfl

theorem fld_packLost_present (s : State) : fld (packLost s) GA_STAT_PRESENT = fld s GA_STAT_PRESENT := by
  rw [packLost, fld_gauges (by decide) (by decide), fld_raise_high (by decide) (by decide), fld_setFld_apart (by decide), fld_modEn]

theorem causeOn_packLost (s : State) : CauseOn 40 (packLost s) := (causeOn_raise_same (by decide) _).gauges (by decide)

theorem causeOn_packGone (s : State) : CauseOn 40 (packGone s) := by
  rw [packGone]
  split
  · exact (causeOn_packLost s).setDomain (by decide) 0
  · exact causeOn_packLost s

/-- CHG_EN as R386 drives it. -/
theorem flg_charger (s : State) : flg (charger s) CH_STAT_ON =
    (flg s CH_CTL_EN && flg s GA_STAT_PRESENT && !flg s GA_STAT_LOST && !s.en.busTrip && decide (s.en.pf = .none)) := by
  rw [charger]
  generalize (flg s CH_CTL_EN && flg s GA_STAT_PRESENT && !flg s GA_STAT_LOST && !s.en.busTrip && decide (s.en.pf = .none)) = on
  rw [flg_setFld_same _ _ _ _ (by decide)]
  cases on with
  | false => rfl
  | true => rfl

/-- A pack that is gone: the loss is shown and raised, the charger is off, and the domain is empty. -/
theorem packLoss_shows (hpresent : flg s GA_STAT_PRESENT = false) :
    flg (packLoss s) GA_STAT_LOST = true ∧ flg (packLoss s) CH_STAT_ON = false ∧ CauseOn 40 (packLoss s) ∧
      (s.en.pf = .none → s.pw.st.toNat ≤ 3 → 0 < fld s PLN_CTL_HOLD → domainNow (packLoss s) = 0) := by
  have hplan (f : Fld) (hf : 0x200 ≤ f.base) (hd : f.base < 0x300E0 ∨ 0x300FC ≤ f.base) (hp : f.Apart PLN_EUSE_LO_MJ ∧ f.Apart PLN_RET_MS) :
      fld (packLoss s) f = fld (charger (packGone s)) f := by rw [packLoss_gone, fld_plan hd hf hp]
  have hlost : fld (packGone s) GA_STAT_LOST = fld (packLost s) GA_STAT_LOST := fld_packGone (by decide) (by decide) s
  have hgone : flg (packGone s) GA_STAT_PRESENT = false := by
    rw [flg, fld_packGone (by decide) (by decide), fld_packLost_present]
    exact hpresent
  refine ⟨?_, ?_, ?_, fun hpf hst hhold => ?_⟩
  · rw [flg, hplan _ (by decide) (by decide) (by decide), fld_charger (by decide), hlost]
    exact flg_packLost_lost s
  · have hoff := flg_charger (packGone s)
    rw [hgone, Bool.and_false, Bool.false_and, Bool.false_and, Bool.false_and] at hoff
    rw [flg, hplan _ (by decide) (by decide) (by decide)]
    exact hoff
  · rw [packLoss_gone]
    exact ((causeOn_packGone s).charger (by decide)).plan (by decide)
  · obtain ⟨a, p, d, hen⟩ := packLost_en s
    have hpack : packOk (charger (packGone s)) = false := by
      rw [packOk, flg, fld_charger (by decide)]
      rw [flg] at hgone
      rw [hgone, Bool.false_and]
    rw [packLoss_gone]
    refine domainNow_plan_empty ?_ ?_ ?_ hpack
    · rw [charger_en, packGone_en, hen]
      exact hpf
    · change (packGone s).pw.st.toNat ≤ 3
      rw [packGone_pw]
      exact hst
    · rw [fld_charger (by decide), fld_packGone (by decide) (by decide), packLost, fld_gauges (by decide) (by decide),
        fld_raise_high (by decide) (by decide), fld_setFld_apart (by decide), fld_modEn]
      exact hhold

/-! ### Battery-backed words (R395, R397, R406) -/

theorem bbrWord_setBbr (k v j : Nat) (s : State) : bbrWord (setBbr k v s) j = if j = k then v % 2 ^ 32 else bbrWord s j := by
  rw [bbrWord, setBbr, mgetD, mget_mput]
  split
  · exact BitVec.toNat_ofNat v 32
  · rfl

/-- A word of the image: itself, VALID, and no other word. -/
theorem setImage_shows {k : Nat} (hk : k ≠ 3) (v : Word) (s : State) : bbrWord (setImage k v.toNat s) k = v.toNat ∧
    bits (bbrWord (setImage k v.toNat s) 3) 0 1 = 1 ∧ ∀ j, j ≠ k → j ≠ 3 → bbrWord (setImage k v.toNat s) j = bbrWord s j := by
  refine ⟨?_, ?_, fun j hj h3 => ?_⟩
  · rw [setImage, bbrWord_setBbr, if_pos rfl]
    exact Nat.mod_eq_of_lt v.isLt
  · rw [setImage, bbrWord_setBbr, if_neg hk.symm, bbrWord_setBbr, if_pos rfl, bits_mod (by decide), bits_withBits]
    rfl
  · rw [setImage, bbrWord_setBbr, if_neg hj, bbrWord_setBbr, if_neg h3]

theorem vbatLoss_shows (s : State) : ∃ t, Gives s .vbatLoss t ∧ bits (bbrWord t 3) 0 1 = 0 ∧ committed t = false ∧
    ∀ j ≠ 3, bbrWord t j = bbrWord s j := by
  have hvalid : bits (bbrWord (setBbr 3 (withBits (bbrWord s 3) 0 1 0) s) 3) 0 1 = 0 := by
    rw [bbrWord_setBbr, if_pos rfl, bits_mod (by decide), bits_withBits]
    rfl
  refine ⟨_, rfl, hvalid, ?_, fun j hj => by rw [bbrWord_setBbr, if_neg hj]⟩
  rw [committed, hvalid]
  simp

/-! ### Comparators, rest and return (R382, R384, R385, R402) -/

/-- The comparator of the bus in the record. -/
def busSwitched (trip : Bool) (back : Option Nat) (s : State) : State := modEn (fun e => { e with busTrip := trip, busAt := s.clk, busBack := back }) s

theorem gives_busTrip (h : s.en.busTrip = false) : Gives s .busTrip (charger (busSwitched true none s)) := by
  refine (show exec .busTrip s = execBusTrip s from rfl).trans ?_
  rw [execBusTrip, h, if_neg Bool.false_ne_true]
  rfl

theorem gives_busClear (h : s.en.busTrip = true) : Gives s .busClear (charger (busSwitched false (some s.clk) s)) := by
  refine (show exec .busClear s = execBusClear s from rfl).trans ?_
  rw [execBusClear, h, Bool.not_true, if_neg Bool.false_ne_true]
  rfl

/-- The reserve comparator's trip as it is recorded. -/
def rsvLow (s : State) : State := raise 39 (setFld GA_STAT_LOW 0 1 (modEn (fun x => { x with rsvTrip := true }) s))

theorem flg_rsvLow {f : Fld} (hf : 0x200 ≤ f.base) (h : f.Apart GA_STAT_LOW) (s : State) : flg (rsvLow s) f = flg s f := by
  rw [flg, rsvLow, fld_raise_high hf (by decide), fld_setFld_apart h, fld_modEn, flg]

theorem does_reserveLow (h : s.en.rsvTrip = false) : Does s .reserveLowTrip
    (if flg (rsvLow s) PWR_WAKE_RSV && !(rsvLow s).pw.inReset && decide ((rsvLow s).en.pf = .none) then wake 6 (rsvLow s) else rsvLow s) := by
  refine (show exec .reserveLowTrip s = execReserveLowTrip s from rfl).trans ?_
  rw [execReserveLowTrip, h, if_neg Bool.false_ne_true]
  rfl

/-- The gauge re-based after its rest. -/
def rebased (s : State) : State := setFld GA_STAT_REBASED 0 1 (modEn (fun e => { e with qcnt := e.qv, restAt := some s.clk }) s)

theorem gives_gaugeRebase {a : Nat} (hrest : s.en.restAt = some a) (hdue : a + 600000 * edgesMs ≤ s.clk) :
    Gives s .gaugeRebase (plan (gauges (rebased s))) := by
  refine (show exec .gaugeRebase s = execGaugeRebase s from rfl).trans ?_
  rw [execGaugeRebase, hrest]
  exact congrArg Host.Outcome.next (if_neg (Nat.not_lt.mpr hdue))

/-- The pack back in force on its voltage estimate. -/
def packBack (s : State) : State :=
  modEn (fun e => { e with lost := false, backAt := none, qcnt := e.qv, restAt := some s.clk }) (setFld GA_STAT_PRESENT 0 1 s)

theorem gives_packReturn {a : Nat} (hlost : s.en.lost = true) (hback : s.en.backAt = some a) (hdue : a + 1000 * edgesMs ≤ s.clk) :
    Gives s .packReturn (plan (charger (gauges (packBack s)))) := by
  refine (show exec .packReturn s = execPackReturn s from rfl).trans ?_
  rw [execPackReturn, hlost, hback, Bool.not_true, Bool.false_and, if_neg Bool.false_ne_true]
  exact congrArg Host.Outcome.next (if_neg (Nat.not_lt.mpr hdue))

/-- The record and a field after the gauges and the planner have run. -/
theorem gaugesPlan_shows (z : State) : ∃ d u, (plan (gauges z)).en = { z.en with disArmed := d, euse := u } := by
  obtain ⟨d, hd⟩ := gauges_en z
  obtain ⟨u, hu⟩ := plan_en (gauges z)
  exact ⟨d, u, by rw [hu, hd]⟩

theorem gaugesChargerPlan_shows (z : State) : ∃ d u, (plan (charger (gauges z))).en = { z.en with disArmed := d, euse := u } := by
  obtain ⟨d, hd⟩ := gauges_en z
  obtain ⟨u, hu⟩ := plan_en (charger (gauges z))
  exact ⟨d, u, by rw [hu, charger_en, hd]⟩

/-- The pack that RSV_PRES_N reports absent. -/
def packAbsent (s : State) : State := setFld GA_STAT_PRESENT 0 0 s

theorem gives_packRemoval (hlost : s.en.lost = false) :
    Gives s .packRemoval (modEn (fun e => { e with backAt := none }) (packLoss (packAbsent s))) := by
  refine (show exec .packRemoval s = execPackRemoval s from rfl).trans ?_
  rw [execPackRemoval, hlost]
  exact congrArg Host.Outcome.next (if_neg Bool.false_ne_true)

theorem flg_packAbsent (s : State) : flg (packAbsent s) GA_STAT_PRESENT = false := flg_setFld_same _ _ _ _ (by decide)

end

/-- Settles O43: every event changes its own figures of the record and shows them, and the gauges, the charger and the planner that follow
keep them. -/
theorem energyReserve : Obligations.EnergyReserve := by
  unfold Obligations.EnergyReserve
  intro s v word e k w low
  refine ⟨fun hbus => ?trip, fun hbus => ?clear, fun hrsv hflg => ?low, fun hrsv hflg hreset hpf => ?wake, ⟨?shown, ?cause⟩, rfl,
    fun a hrest hdue => ?rebase, fun hlost => ?removal, fun a hlost hback hdue => ?back, fun hreset hk => ?slotp, fun hreset hk => ?noslot,
    fun hreset hlo hhi hopen => ?word, fun hreset hno => ?noword, vbatLoss_shows s⟩
  case trip =>
    refine ⟨_, gives_busTrip hbus, by rw [charger_en]; rfl, by rw [charger_en]; rfl, ?_⟩
    rw [flg_charger, show (busSwitched true none s).en.busTrip = true from rfl, Bool.not_true, Bool.and_false, Bool.false_and]
  case clear =>
    refine ⟨_, gives_busClear hbus, by rw [charger_en]; rfl, by rw [charger_en]; rfl, ?_⟩
    rw [flg_charger, show (busSwitched false (some s.clk) s).en.busTrip = false from rfl, Bool.not_false, Bool.and_true]
    rfl
  case low =>
    have h := does_reserveLow hrsv
    rw [flg_rsvLow (by decide) (by decide), hflg] at h
    exact h
  case wake =>
    have h := does_reserveLow hrsv
    have hen : (rsvLow s).en.pf = .none := (congrArg Energy.pf (raise_en 39 _) :).trans hpf
    have hpw : (rsvLow s).pw.inReset = false := (congrArg Power.inReset (raise_pw 39 _) :).trans hreset
    rw [flg_rsvLow (by decide) (by decide), hflg, hen, hpw] at h
    exact h
  case shown =>
    change flg (rsvLow s) GA_STAT_LOW = true
    rw [flg, rsvLow, fld_raise_high (by decide) (by decide), fld_setFld_same _ _ _ _ (by decide)]
    rfl
  case cause => exact causeOn_raise_same (c := 39) (by decide) _
  case rebase =>
    obtain ⟨d, u, hen⟩ := gaugesPlan_shows (rebased s)
    refine ⟨_, gives_gaugeRebase hrest hdue, (congrArg Energy.qcnt hen :), (congrArg Energy.restAt hen :), ?_⟩
    rw [flg, fld_plan (by decide) (by decide) (by decide), fld_gauges (by decide) (by decide), rebased, fld_setFld_same _ _ _ _ (by decide)]
    rfl
  case removal =>
    obtain ⟨a, p, d, u, hen⟩ := packLoss_en (packAbsent s)
    obtain ⟨hshown, hoff, hcause, hdom⟩ := packLoss_shows (flg_packAbsent s)
    refine ⟨_, gives_packRemoval hlost, (congrArg Energy.lost hen :), (congrArg Energy.qcnt hen :), rfl, ?_, ?_, ?_, ?_, fun hpf hst hhold => ?_⟩
    · have hkeep := fld_packLoss (f := GA_STAT_PRESENT) (by decide) (packAbsent s)
      rw [flg, fld_modEn, hkeep]
      exact flg_packAbsent s
    · rw [flg, fld_modEn]
      exact hshown
    · rw [flg, fld_modEn]
      exact hoff
    · rw [regAt_modEn]
      exact hcause
    · rw [domainNow_modEn]
      refine hdom hpf hst ?_
      rw [packAbsent, fld_setFld_apart (by decide)]
      exact hhold
  case back =>
    obtain ⟨d, u, hen⟩ := gaugesChargerPlan_shows (packBack s)
    refine ⟨_, gives_packReturn hlost hback hdue, (congrArg Energy.lost hen :), (congrArg Energy.qcnt hen :), (congrArg Energy.backAt hen :),
      (congrArg Energy.restAt hen :), ?_⟩
    rw [flg, fld_plan (by decide) (by decide) (by decide), fld_charger (by decide), fld_gauges (by decide) (by decide), packBack, fld_modEn,
      fld_setFld_same _ _ _ _ (by decide)]
    rfl
  case slotp =>
    have hgoes : Gives s (.plnSlotpWrite v) (modEn (fun e => { e with slotpNew := mput e.slotpNew k (BitVec.ofNat 32 (v.toNat % 65536)) })
        { s with cfg := { s.cfg with kick := some s.clk } }) := by
      refine (show exec (.plnSlotpWrite v) s = execPlnSlotpWrite v s from rfl).trans ?_
      rw [execPlnSlotpWrite, hreset, if_neg Bool.false_ne_true, if_neg (Nat.not_le.mpr hk)]
    have hword : v &&& 0xFFFF = BitVec.ofNat 32 (v.toNat % 65536) := by
      refine BitVec.eq_of_toNat_eq ?_
      rw [BitVec.toNat_and, BitVec.toNat_ofNat, Nat.mod_eq_of_lt (a := v.toNat % 65536) (by omega)]
      exact Nat.and_two_pow_sub_one_eq_mod v.toNat 16
    refine ⟨_, hgoes, ?_, rfl, rfl, fun j hj => ?_⟩
    · rw [modEn_en, mget_mput, if_pos rfl, hword]
    · rw [modEn_en, mget_mput, if_neg hj]
  case noslot =>
    refine (show exec (.plnSlotpWrite v) s = execPlnSlotpWrite v s from rfl).trans ?_
    rw [execPlnSlotpWrite, hreset, if_neg Bool.false_ne_true, if_pos hk]
  case word =>
    refine ⟨setImage w v.toNat s, ?_, setImage_shows (by omega) v s⟩
    refine (show exec (.bbrWrite word v) s = execBbrWrite word v s from rfl).trans ?_
    rw [execBbrWrite, hreset, if_neg Bool.false_ne_true, if_pos ⟨hlo, hhi, hopen⟩]
  case noword =>
    refine (show exec (.bbrWrite word v) s = execBbrWrite word v s from rfl).trans ?_
    rw [execBbrWrite, hreset, if_neg Bool.false_ne_true, if_neg hno]

end Sys2Proof.Machine
end

section
/-!
The power-fail sequence (R392, R393, R397, R402, R403).
-/

namespace Sys2Proof.Machine

section
variable {s t : State}

/-! ### What changes the registers alone -/

/-- Only the registers differ. -/
def RegsOnly (s t : State) : Prop := { t with regs := s.regs } = s

theorem RegsOnly.refl (s : State) : RegsOnly s s := rfl

theorem RegsOnly.setFld (h : RegsOnly s t) (f : Fld) (i v : Nat) : RegsOnly s (setFld f i v t) := h

theorem pwrStat_regs_only (s : State) : RegsOnly s (pwrStat s) := by
  unfold pwrStat
  extract_lets prep run s1
  have hs1 : RegsOnly s s1 := RegsOnly.refl s
  split
  · exact (hs1.setFld _ _ _).setFld _ _ _
  · exact (hs1.setFld _ _ _).setFld _ _ _

theorem lanesTo_regs_only (v : Nat → Nat) (s : State) : RegsOnly s (lanesTo v s) :=
  List.foldlRecOn _ _ (RegsOnly.refl s) fun _ h _ _ => h.setFld _ _ _

theorem launchStat_regs_only (s : State) : RegsOnly s (launchStat s) := RegsOnly.refl s

theorem RegsOnly.trans {u : State} (h : RegsOnly s t) (g : RegsOnly t u) : RegsOnly s u := by
  refine Eq.trans ?_ h
  exact congrArg (fun x : State => { x with regs := s.regs }) g

/-! ### E4 (R418) -/

/-- What E4 holds of the engine before its status is shown. -/
def e4Held (s : State) : State :=
  let ports := s.ports.map fun e => (e.1, { e.2 with
    sched := {}, streams := [], link := {}, marks := {}
    prot := { e.2.prot with merge := [], scrubOut := false }
    dram := { ({} : DramSt) with spd := e.2.dram.spd, srAt := e.2.dram.srAt, hardPend := e.2.dram.hardPend } })
  let fabs := s.fab.map fun e => (e.1, ({ fenced := e.2.fenced, tlyClr := e.2.tlyClr } : FabPort))
  modPw (fun w => { w with st := 4, cur := none, pend := none, exit := none, ports := [], soft := none, softWait := false })
    (modEn (fun e => { e with pf := .none })
      { s with ports := ports, fab := fabs, stalls := s.stalls.map (fun e => (e.1, e.2.config)), home := {}, spad := [], spadBad := [],
               lant := freshLantern, march := {}, tb := { s.tb with step := .none, launches := [], switches := [] } })

theorem enterE4_held (s : State) : RegsOnly (e4Held s) (enterE4 s) :=
  ((lanesTo_regs_only _ _).trans (launchStat_regs_only _)).trans (pwrStat_regs_only _)

/-- The engine in E4: its state, no transition, no sequence, the words and the DIMMs kept, the on-chip memories empty. -/
theorem enterE4_shows (s : State) :
    ((enterE4 s).pw.st = 4 ∧ (enterE4 s).pw.cur = none ∧ (enterE4 s).pw.resetWait = s.pw.resetWait) ∧ (enterE4 s).en.pf = .none ∧
      (enterE4 s).bbr = s.bbr ∧ (enterE4 s).dram = s.dram ∧ (enterE4 s).count = s.count ∧ (enterE4 s).spad = [] ∧ (enterE4 s).lant = freshLantern := by
  have h : { enterE4 s with regs := (e4Held s).regs } = e4Held s := enterE4_held s
  have hpw : (enterE4 s).pw = (e4Held s).pw := (congrArg (fun t : State => t.pw) h :)
  refine ⟨?_, (congrArg (fun t : State => t.en.pf) h :), (congrArg (fun t : State => t.bbr) h :), (congrArg (fun t : State => t.dram) h :),
    (congrArg (fun t : State => t.count) h :), (congrArg (fun t : State => t.spad) h :), (congrArg (fun t : State => t.lant) h :)⟩
  rw [hpw]
  exact ⟨rfl, rfl, rfl⟩

/-! ### The image (R396, R397) -/

/-- Only battery-backed words differ. -/
def OnlyBbr (s t : State) : Prop := { t with bbr := s.bbr } = s

theorem OnlyBbr.fields (h : OnlyBbr s t) : t.pw = s.pw ∧ t.dram = s.dram ∧ t.count = s.count :=
  ⟨(congrArg (fun u : State => u.pw) h :), (congrArg (fun u : State => u.dram) h :), (congrArg (fun u : State => u.count) h :)⟩

theorem OnlyBbr.refl (s : State) : OnlyBbr s s := rfl

theorem OnlyBbr.setBbr (h : OnlyBbr s t) (k v : Nat) : OnlyBbr s (setBbr k v t) := h

theorem OnlyBbr.setImage (h : OnlyBbr s t) (k v : Nat) : OnlyBbr s (setImage k v t) := (h.setBbr _ _).setBbr _ _

theorem OnlyBbr.setImages (h : OnlyBbr s t) (l : List (Nat × Nat)) : OnlyBbr s (l.foldl (fun t e => Machine.setImage e.1 e.2 t) t) :=
  List.foldlRecOn _ _ h fun _ hu _ _ => hu.setImage _ _

theorem OnlyBbr.imagePut (h : OnlyBbr s t) (k : Nat) (ws : List Nat) : OnlyBbr s (imagePut k ws t) := by
  have hopen : OnlyBbr s (bbrOpen t) := by
    rw [bbrOpen]
    split
    · exact h
    · exact h.setBbr _ _
  unfold Machine.imagePut
  extract_lets diff
  split
  · exact h
  · refine OnlyBbr.setImages ?_ _
    split
    · exact h
    · exact hopen

/-- BBR_STAT.VALID is set. -/
def ImageValid (s : State) : Prop := bits (bbrWord s 3) 0 1 = 1

theorem imageValid_setImage {k : Nat} (hk : k ≠ 3) (v : Nat) (s : State) : ImageValid (setImage k v s) := by
  rw [ImageValid, setImage, bbrWord_setBbr, if_neg hk.symm, bbrWord_setBbr, if_pos rfl, bits_mod (by decide), bits_withBits]
  rfl

theorem bbrWord_setImage {k j : Nat} (hj : j ≠ 3) (v : Nat) (s : State) :
    bbrWord (setImage k v s) j = if j = k then v % 2 ^ 32 else bbrWord s j := by
  rw [setImage, bbrWord_setBbr, bbrWord_setBbr, if_neg hj]

/-- Words of the image that a list of writes does not name stay. -/
theorem bbrWord_setImages {j : Nat} (hj : j ≠ 3) (l : List (Nat × Nat)) (hl : ∀ e ∈ l, e.1 ≠ j) (s : State) :
    bbrWord (l.foldl (fun t e => setImage e.1 e.2 t) s) j = bbrWord s j := by
  refine List.foldlRecOn _ _ (motive := fun t => bbrWord t j = bbrWord s j) rfl ?_
  intro t ht e he
  rw [bbrWord_setImage hj, if_neg (hl e he).symm, ht]

/-- A word that a list of writes names once holds what it is given. -/
theorem bbrWord_setImages_mem {j v : Nat} (hj : j ≠ 3) {l : List (Nat × Nat)} (hl : (l.map Prod.fst).Nodup) (hmem : (j, v) ∈ l) (s : State) :
    bbrWord (l.foldl (fun t e => setImage e.1 e.2 t) s) j = v % 2 ^ 32 := by
  induction l generalizing s with
  | nil => exact absurd hmem List.not_mem_nil
  | cons e l ih =>
    obtain ⟨hnot, hnodup⟩ := List.nodup_cons.mp hl
    rw [List.foldl_cons]
    rcases List.mem_cons.mp hmem with heq | hin
    · rw [← heq] at hnot ⊢
      rw [bbrWord_setImages hj l (fun x hx hxj => hnot (List.mem_map.mpr ⟨x, hx, hxj⟩)), bbrWord_setImage hj, if_pos rfl]
    · exact ih hnodup hin _

theorem imageValid_setImages {l : List (Nat × Nat)} (hl : ∀ e ∈ l, e.1 ≠ 3) (h : ImageValid s) :
    ImageValid (l.foldl (fun t e => setImage e.1 e.2 t) s) :=
  List.foldlRecOn _ _ h fun _ _ e he => imageValid_setImage (hl e he) _ _

theorem le_of_mem_mapIdx {k : Nat} {ws : List Nat} {e : Nat × Nat} (he : e ∈ ws.mapIdx fun i w => (k + i, w)) : k ≤ e.1 := by
  obtain ⟨i, hi, rfl⟩ := List.mem_mapIdx.mp he
  exact Nat.le_add_right k i

theorem bbrWord_imagePut {k j : Nat} (h0 : j ≠ 0) (h3 : j ≠ 3) (hj : j < k) (ws : List Nat) (s : State) :
    bbrWord (imagePut k ws s) j = bbrWord s j := by
  unfold imagePut
  extract_lets diff
  have hopen : bbrWord (if inSequence s then s else bbrOpen s) j = bbrWord s j := by
    split
    · rfl
    · rw [bbrOpen]
      split
      · rfl
      · rw [bbrWord_setBbr, if_neg h0]
  split
  · rfl
  · rw [bbrWord_setImages h3 _ _, hopen]
    intro e he
    have hle := le_of_mem_mapIdx (List.mem_filter.mp he).1
    omega

theorem imageValid_imagePut {k : Nat} (hk : 3 < k) (ws : List Nat) (h : ImageValid s) : ImageValid (imagePut k ws s) := by
  unfold imagePut
  extract_lets diff
  have hopen : ImageValid (if inSequence s then s else bbrOpen s) := by
    split
    · exact h
    · rw [bbrOpen]
      split
      · exact h
      · rw [ImageValid, bbrWord_setBbr, if_neg (by decide)]
        exact h
  split
  · exact h
  · refine imageValid_setImages ?_ hopen
    intro e he
    have hle := le_of_mem_mapIdx (List.mem_filter.mp he).1
    omega

theorem bbrWord_bbrStat {j : Nat} (hj : j ≠ 3) (bit : Nat) (b : Bool) (s : State) : bbrWord (bbrStat bit b s) j = bbrWord s j := by
  rw [bbrStat, bbrWord_setBbr, if_neg hj]

theorem imageValid_bbrStat {bit : Nat} (hbit : 0 < bit) (b : Bool) (h : ImageValid s) : ImageValid (bbrStat bit b s) := by
  rw [ImageValid, bbrStat, bbrWord_setBbr, if_pos rfl, bits_mod (by decide), bits_withBits_apart _ _ (Or.inr (by omega))]
  exact h

/-! ### The commit (R393, R397) -/

theorem descriptor_keys (states : List Nat) (s : State) :
    (descriptor states s).map Prod.fst = [16, 17, 18, 19, 20, 21, 22, 29, 30] ++ (List.range 20).map (31 + ·) := by
  rw [descriptor, List.map_append, List.map_map]
  rfl

theorem descriptor_keys_nodup (states : List Nat) (s : State) : ((descriptor states s).map Prod.fst).Nodup := by
  rw [descriptor_keys]
  decide

theorem descriptor_key_ge (states : List Nat) (s : State) {e : Nat × Nat} (he : e ∈ descriptor states s) : 16 ≤ e.1 := by
  have hkeys : ∀ k ∈ [16, 17, 18, 19, 20, 21, 22, 29, 30] ++ (List.range 20).map (31 + ·), 16 ≤ k := by decide
  exact hkeys _ (descriptor_keys states s ▸ List.mem_map_of_mem he)

/-- The image with its descriptor, and with its pool. -/
def descWritten (states : List Nat) (s : State) : State := (descriptor states s).foldl (fun t e => setImage e.1 e.2 t) s
def pooled (states : List Nat) (s : State) : State := savePool (descWritten states s)

/-- The image with its number of commits. -/
def numbered (states : List Nat) (s : State) : State := setBbr 1 ((bbrWord (pooled states s) 1 + 1) % 2 ^ 32) (pooled states s)

/-- The image before its CRC is written. -/
def imageEnded (states : List Nat) (s : State) : State :=
  bbrStat 2 true (bbrStat 3 (flg (numbered states s) PLN_FAREA_LO_EN) (bbrStat 5 (numbered states s).en.pfLost (numbered states s)))

theorem commitImage_eq (states : List Nat) (s : State) :
    commitImage states s = setBbr 0 0xC3A5 (setBbr 2 (imageCrc (imageEnded states s)) (imageEnded states s)) := rfl

theorem OnlyBbr.bbrStat (h : OnlyBbr s t) (bit : Nat) (b : Bool) : OnlyBbr s (bbrStat bit b t) := h.setBbr _ _

theorem onlyBbr_numbered (states : List Nat) (s : State) : OnlyBbr s (numbered states s) :=
  (((OnlyBbr.refl s).setImages _).imagePut _ _).setBbr _ _

theorem onlyBbr_imageEnded (states : List Nat) (s : State) : OnlyBbr s (imageEnded states s) :=
  (((onlyBbr_numbered states s).bbrStat _ _).bbrStat _ _).bbrStat _ _

theorem onlyBbr_commitImage (states : List Nat) (s : State) : OnlyBbr s (commitImage states s) := by
  rw [commitImage_eq]
  exact ((onlyBbr_imageEnded states s).setBbr _ _).setBbr _ _

theorem imageValid_imageEnded (states : List Nat) (s : State) : ImageValid (imageEnded states s) := by
  have hdesc : ImageValid (descWritten states s) := by
    rw [descWritten, descriptor, List.cons_append, List.foldl_cons]
    refine imageValid_setImages ?_ (imageValid_setImage (show 16 ≠ 3 by decide) _ _)
    intro e he
    have hge := descriptor_key_ge states s (e := e) (List.mem_cons_of_mem _ he)
    omega
  have hpool : ImageValid (pooled states s) := imageValid_imagePut (by decide) _ hdesc
  refine imageValid_bbrStat (by decide) _ (imageValid_bbrStat (by decide) _ (imageValid_bbrStat (by decide) _ ?_))
  rw [numbered, ImageValid, bbrWord_setBbr, if_neg (by decide)]
  exact hpool

theorem bbrWord_commitImage {j : Nat} (hj : 3 < j) (hlt : j < 0x270) (states : List Nat) (s : State) :
    bbrWord (commitImage states s) j = bbrWord (descWritten states s) j := by
  rw [commitImage_eq, bbrWord_setBbr, if_neg (by omega), bbrWord_setBbr, if_neg (by omega), imageEnded, bbrWord_bbrStat (by omega),
    bbrWord_bbrStat (by omega), bbrWord_bbrStat (by omega), numbered, bbrWord_setBbr, if_neg (by omega), pooled, savePool,
    bbrWord_imagePut (by omega) (by omega) hlt]

theorem crcBit_lt {c : Nat} (h : c < 2 ^ 32) : crcBit c < 2 ^ 32 := by
  rw [crcBit]
  split
  · exact Nat.xor_lt_two_pow (by omega) (by decide)
  · omega

theorem crcByte_lt {c b : Nat} (hc : c < 2 ^ 32) (hb : b < 2 ^ 32) : crcByte c b < 2 ^ 32 :=
  crcBit_lt <| crcBit_lt <| crcBit_lt <| crcBit_lt <| crcBit_lt <| crcBit_lt <| crcBit_lt <| crcBit_lt <| Nat.xor_lt_two_pow hc hb

theorem crc32c_lt {l : List Nat} (hl : ∀ b ∈ l, b < 2 ^ 32) : crc32c l < 2 ^ 32 := by
  have hfold : l.foldl crcByte 0xFFFFFFFF < 2 ^ 32 :=
    List.foldlRecOn l crcByte (motive := fun c => c < 2 ^ 32) (by decide) fun _ hc b hb => crcByte_lt hc (hl b hb)
  rw [crc32c]
  exact Nat.xor_lt_two_pow hfold (by decide)

theorem imageCrc_lt (s : State) : imageCrc s < 2 ^ 32 := by
  refine crc32c_lt fun b hb => ?_
  simp only [List.mem_flatMap, leBytes, List.mem_map, bits] at hb
  obtain ⟨_, _, _, _, rfl⟩ := hb
  omega

theorem imageCrc_congr (h : ∀ i, bbrWord t (0x10 + i) = bbrWord s (0x10 + i)) : imageCrc t = imageCrc s := by
  simp only [imageCrc, h]

theorem committed_congr (h : t.bbr = s.bbr) : committed t = committed s := by
  have hword (k : Nat) : bbrWord t k = bbrWord s k := by rw [bbrWord, bbrWord, h]
  rw [committed, committed, hword, hword, hword, imageCrc_congr fun i => hword _]

theorem committed_commitImage (states : List Nat) (s : State) : committed (commitImage states s) = true := by
  have hvalid : bits (bbrWord (imageEnded states s) 3) 0 1 = 1 := imageValid_imageEnded states s
  have hlt := imageCrc_lt (imageEnded states s)
  have hcrc (c : Nat) : imageCrc (setBbr 0 0xC3A5 (setBbr 2 c (imageEnded states s))) = imageCrc (imageEnded states s) :=
    imageCrc_congr fun i => by rw [bbrWord_setBbr, if_neg (by omega), bbrWord_setBbr, if_neg (by omega)]
  rw [commitImage_eq, committed, hcrc]
  generalize imageEnded states s = z at hvalid hlt ⊢
  generalize imageCrc z = c at hlt ⊢
  rw [bbrWord_setBbr, if_pos rfl, bbrWord_setBbr, if_neg (by decide), bbrWord_setBbr, if_neg (by decide), hvalid, bbrWord_setBbr,
    if_neg (by decide), bbrWord_setBbr, if_pos rfl, Nat.mod_eq_of_lt hlt]
  simp

theorem bbrWord_commitImage_seq (states : List Nat) (s : State) : bbrWord (commitImage states s) 1 = (bbrWord s 1 + 1) % 2 ^ 32 := by
  have hpool : bbrWord (pooled states s) 1 = bbrWord s 1 := by
    rw [pooled, savePool, bbrWord_imagePut (by decide) (by decide) (by decide), descWritten, bbrWord_setImages (by decide)]
    intro e he
    have hge := descriptor_key_ge states s he
    omega
  rw [commitImage_eq, bbrWord_setBbr, if_neg (by decide), bbrWord_setBbr, if_neg (by decide), imageEnded, bbrWord_bbrStat (by decide),
    bbrWord_bbrStat (by decide), bbrWord_bbrStat (by decide), numbered, bbrWord_setBbr, if_pos rfl, Nat.mod_mod, hpool]

theorem bbrWord_commitImage_desc {states : List Nat} {j v : Nat} (hmem : (j, v) ∈ descriptor states s) (hlt : j < 0x270) :
    bbrWord (commitImage states s) j = v % 2 ^ 32 := by
  have hge := descriptor_key_ge states s hmem
  rw [bbrWord_commitImage (by omega) hlt, descWritten, bbrWord_setImages_mem (by omega) (descriptor_keys_nodup states s) hmem]

theorem committed_resetEngine (s : State) : committed (resetEngine s) = committed s := committed_congr rfl

theorem bbrWord_congr (h : t.bbr = s.bbr) (k : Nat) : bbrWord t k = bbrWord s k := by rw [bbrWord, bbrWord, h]

/-- E4 with the image committed. -/
def commitE4 (s : State) : State := enterE4 (commitImage (portCodes s) s)

theorem commitE4_shows (s : State) :
    ((commitE4 s).pw.st = 4 ∧ (commitE4 s).pw.cur = none ∧ (commitE4 s).pw.resetWait = s.pw.resetWait) ∧ (commitE4 s).en.pf = .none ∧
      (commitE4 s).bbr = (commitImage (portCodes s) s).bbr ∧ (commitE4 s).dram = s.dram ∧ (commitE4 s).count = s.count ∧ (commitE4 s).spad = [] ∧
      (commitE4 s).lant = freshLantern := by
  obtain ⟨hpw, hdram, hcount⟩ := (onlyBbr_commitImage (portCodes s) s).fields
  have h := enterE4_shows (commitImage (portCodes s) s)
  rw [hpw, hdram, hcount] at h
  rw [commitE4]
  exact h

theorem exec_pfCommit (hpf : s.en.pf = .commit) :
    exec .pfCommit s = .next (if s.pw.resetWait then resetEngine (commitE4 s) else commitE4 s) := by
  obtain ⟨⟨-, -, hwait⟩, -⟩ := commitE4_shows s
  refine (show exec .pfCommit s = execPfCommit s from rfl).trans ?_
  rw [execPfCommit, if_neg (not_not.mpr hpf), ← hwait]
  rfl

/-- A confirmed trip is not refused. -/
theorem confirm_passes (hen : flg s PF_CTL_EN = true) (hbus : s.en.busTrip = true) (hdue : s.en.busAt + edgesUs ≤ s.clk) (hpf : s.en.pf = .none)
    (hst : s.pw.st.toNat ≤ 3) (hreset : s.pw.inReset = false) : ¬ (!flg s PF_CTL_EN || !s.en.busTrip || decide (s.clk < s.en.busAt + edgesUs) ||
      decide (s.en.pf ≠ .none) || decide (s.pw.st.toNat > 3) || s.pw.inReset) = true := by
  rw [hen, hbus, decide_eq_false (Nat.not_lt.mpr hdue), decide_eq_false (not_not.mpr hpf), decide_eq_false (Nat.not_lt.mpr hst), hreset]
  decide

end

/-- Settles O44: the image's writes leave every word that they do not name, and E4 keeps the image. -/
theorem powerFail : Obligations.PowerFail := by
  unfold Obligations.PowerFail
  intro s e live shut empty fails
  refine ⟨fun hfails hwarm => ?cold, fun hfails hwarm => ?warm, fun hpf hbuf hlive => ?flush, fun hpf hwait => ?commit, fun hpf hwait => ?reset,
    fun a hback hst hcmd hauto hbus hdue hin => ?back⟩
  case cold =>
    obtain ⟨hen, hbus, hdue, hpf, hst, hreset⟩ := hfails
    refine (show exec .powerFailConfirm s = execPowerFailConfirm s from rfl).trans ?_
    rw [execPowerFailConfirm, if_neg (confirm_passes hen hbus hdue hpf hst hreset), hwarm, if_neg Bool.false_ne_true]
  case warm =>
    obtain ⟨hen, hbus, hdue, hpf, hst, hreset⟩ := hfails
    obtain ⟨⟨hstate, -, -⟩, hnone, hbbr, hdram, -⟩ := enterE4_shows (modPw (fun w => { w with e4cmd := false }) s)
    refine ⟨_, (show exec .powerFailConfirm s = execPowerFailConfirm s from rfl).trans ?_, hstate, hnone, hdram, hbbr⟩
    rw [execPowerFailConfirm, if_neg (confirm_passes hen hbus hdue hpf hst hreset), hwarm, if_pos rfl]
  case flush =>
    refine (show exec .pfFlushDone s = execPfFlushDone s from rfl).trans ?_
    rw [execPfFlushDone, if_neg (not_not.mpr hpf)]
    refine congrArg (fun t => Host.Outcome.next (settle t)) (if_neg ?_)
    change ¬ (!buffersEmpty shut || !live.all (portFlushed shut)) = true
    rw [hbuf, hlive]
    decide
  case commit =>
    obtain ⟨hpw, hen, hbbr, hdram, hcount, hspad, hlant⟩ := commitE4_shows s
    obtain ⟨hst, hcur, hwaits⟩ := hpw
    have hmem {j v : Nat} (hj : (j, v) ∈ descriptor (portCodes s) s) (hlt : j < 0x270) : bbrWord (commitE4 s) j = v % 2 ^ 32 :=
      (bbrWord_congr hbbr j).trans (bbrWord_commitImage_desc hj hlt)
    refine ⟨commitE4 s, ?_, hst, hcur, hen, (committed_congr hbbr).trans (committed_commitImage _ _), ?_, ?_, ?_,
      (bbrWord_congr hbbr 1).trans (bbrWord_commitImage_seq _ _), hdram, hcount, hspad, congrArg Lantern.prog hlant, congrArg Lantern.data hlant⟩
    · rw [Gives, exec_pfCommit hpf, hwait, if_neg Bool.false_ne_true]
    · refine (hmem List.mem_cons_self (by decide)).trans (Nat.mod_eq_of_lt ?_)
      have hreason := s.en.pfReason.isLt
      omega
    · exact (hmem (v := s.en.frozen.toNat % 2 ^ 32) (by simp [descriptor]) (by decide)).trans (Nat.mod_mod _ _)
    · exact hmem (v := s.en.lostH) (by simp [descriptor]) (by decide)
  case reset =>
    obtain ⟨-, -, hbbr, -⟩ := commitE4_shows s
    refine ⟨resetEngine (commitE4 s), ?_, rfl, (committed_resetEngine _).trans ((committed_congr hbbr).trans (committed_commitImage _ _))⟩
    rw [Gives, exec_pfCommit hpf, hwait, if_pos rfl]
  case back =>
    refine (show exec .busReturnResume s = execBusReturnResume s from rfl).trans ?_
    rw [execBusReturnResume, show s.en.busBack = some a from hback]
    refine congrArg (fun t => Host.Outcome.next (settle t)) (if_pos ?_)
    rw [hst, hcmd, hauto, show s.en.busTrip = false from hbus, hin, decide_eq_true hdue]
    rfl

end Sys2Proof.Machine
end

section
/-!
Resets of the whole engine (R400, R401, R425 to R427, R436, R454).
-/

namespace Sys2Proof.Machine

section
variable {s t : State}

/-! ### Soft reset (R427) -/

/-- A soft reset that nothing forbids in E0. -/
theorem softAsk_of_may (hin : s.pw.inReset = false) (hsoft : s.pw.soft = none) (hpf : s.en.pf = .none) (hst : s.pw.st = 0) :
    softAsk s = if engineIdle s then softStart s else { s with pw := { s.pw with softWait := true } } := by
  have hfree : ¬ (s.pw.inReset || decide (s.pw.st.toNat > 3) || s.pw.soft.isSome || decide (s.en.pf ≠ .none)) = true := by
    rw [hin, hsoft, hst, decide_eq_false (not_not.mpr hpf)]
    decide
  have hlow : decide (s.pw.st.toNat ≤ 1) = true := by
    rw [hst]
    decide
  rw [softAsk, if_neg hfree, if_pos hst]
  dsimp only
  rw [hlow, Bool.and_true]
  rfl

/-- A soft reset's end shows in the status and raises its cause. -/
theorem resetShown (z : State) : let f := raise 37 (setFld RST_STAT_LAST 0 2 (setFld RST_STAT_BUSY 0 0 z))
    flg f RST_STAT_BUSY = false ∧ fld f RST_STAT_LAST = 2 ∧ bits (regAt f 0x104 0) 5 1 = 1 ∧ f.pw = z.pw ∧ f.host = z.host := by
  intro f
  refine ⟨?_, ?_, bits_raise (c := 37) (by decide) _ none, raise_pw 37 _, raise_host 37 _⟩
  · rw [flg, fld_raise_high (by decide) (by decide), fld_setFld_apart (by decide), fld_setFld_same _ _ _ _ (by decide)]
    rfl
  · rw [fld_raise_high (by decide) (by decide), fld_setFld_same _ _ _ _ (by decide)]
    rfl

theorem softFinish_shows (s : State) : flg (softFinish s) RST_STAT_BUSY = false ∧ fld (softFinish s) RST_STAT_LAST = 2 ∧
    bits (regAt (softFinish s) 0x104 0) 5 1 = 1 ∧ (softFinish s).pw.soft = none ∧ (softFinish s).host.frozen = false := by
  unfold softFinish
  extract_lets owed s0 s1 s2 s3 s4 s5 s6 s7 s8 s9 host pw s10
  have hpw : s10.pw.soft = none := rfl
  have hhost : s10.host.frozen = false := rfl
  clear_value s10
  obtain ⟨hbusy, hlast, hcause, hp, hh⟩ := resetShown s10
  exact ⟨hbusy, hlast, hcause, (congrArg Power.soft hp).trans hpw, (congrArg HostIf.frozen hh).trans hhost⟩

/-! ### Engine reset (R426) -/

/-- A register that an engine reset does not keep reads its reset value. -/
theorem regAt_resetEngine {off : Nat} (hoff : off ≠ 0x60030) (rst : Nat) (s : State) : regAt (resetEngine s) off rst = rst := by
  have hdrop : mget (bbRegs s) off = none := mget_filter_of_drops (fun a => decide_eq_false hoff) s.regs
  change ((mget (bbRegs s) off).map BitVec.toNat).getD rst = rst
  rw [hdrop]
  rfl

theorem showEnergy_regs_only (s : State) : RegsOnly s (showEnergy s) := ((RegsOnly.refl s).setFld _ _ _).setFld _ _ _

theorem RegsOnly.raise (h : RegsOnly s t) (c : Nat) (u : Option Nat) : RegsOnly s (raise c t u) := h.trans (raise_regs_only c t u)

theorem checkFuses_regs_only (s : State) : RegsOnly s (checkFuses s) :=
  List.foldlRecOn _ _ (RegsOnly.refl s) fun _ h _ _ => (h.setFld _ _ _).raise _ _

theorem fld_checkFuses {f : Fld} (hf : 0x200 ≤ f.base) (hlow : f.base < TR_STAT_FUSE_BAD.base) (s : State) : fld (checkFuses s) f = fld s f := by
  refine List.foldlRecOn _ _ (motive := fun t => fld t f = fld s f) rfl ?_
  intro t ht p _
  rw [fld_raise_of_high hf (by decide), fld_setFld_ne _ _ _ _ _ _ (by simp only [Fld.off]; omega), ht]

theorem fld_pwrStat {f : Fld} (h : f.off 0 ≠ PWR_STAT_STATE.base) (s : State) : fld (pwrStat s) f = fld s f := by
  have hset (g : Fld) (hg : g.off 0 = PWR_STAT_STATE.base) (v : Nat) (t : State) : fld (setFld g 0 v t) f = fld t f :=
    fld_setFld_ne _ _ _ _ _ _ (hg ▸ h)
  unfold pwrStat
  extract_lets prep run s1
  have hs1 : fld s1 f = fld s f := (hset _ rfl _ _).trans ((hset _ rfl _ _).trans (hset _ rfl _ _))
  split
  · exact (hset _ rfl _ _).trans ((hset _ rfl _ _).trans hs1)
  · exact (hset _ rfl _ _).trans ((hset _ rfl _ _).trans hs1)

/-- The release of the engine reset. -/
def released (s : State) : State := setFld RST_STAT_LAST 0 1 (modPw (fun w => { w with inReset := false }) s)

def releaseShown (s : State) : State := pwrStat (showEnergy (checkFuses (released s)))

theorem releaseShown_shows (s : State) : (releaseShown s).pw.inReset = false ∧ fld (releaseShown s) RST_STAT_LAST = 1 ∧
    (releaseShown s).count = s.count ∧ (releaseShown s).en.totals = s.en.totals ∧ (releaseShown s).bbr = s.bbr ∧ (releaseShown s).sram = s.sram := by
  have h : { releaseShown s with regs := (released s).regs } = released s :=
    ((checkFuses_regs_only _).trans (showEnergy_regs_only _)).trans (pwrStat_regs_only _)
  have hlast : fld (releaseShown s) RST_STAT_LAST = 1 := by
    rw [releaseShown, fld_pwrStat (by decide), fld_showEnergy_apart (by decide), fld_checkFuses (by decide) (by decide), released,
      fld_setFld_same _ _ _ _ (by decide)]
    rfl
  generalize releaseShown s = t at h hlast ⊢
  exact ⟨(congrArg (fun u : State => u.pw.inReset) h :), hlast, (congrArg (fun u : State => u.count) h :), (congrArg (fun u : State => u.en.totals) h :),
    (congrArg (fun u : State => u.bbr) h :), (congrArg (fun u : State => u.sram) h :)⟩

/-! ### Power-up (R400, R401, R425) -/

/-- The start-up march changes only registers, remap entries, logs and the model's own numbers. -/
def MarchOnly (s t : State) : Prop := { t with regs := s.regs, sram := s.sram, logs := s.logs, free := s.free } = s

theorem MarchOnly.logEngine (h : MarchOnly s t) (typ w1 detail : Nat) : MarchOnly s (logEngine typ w1 detail t) := h

theorem MarchOnly.sram (h : MarchOnly s t) (m : SMap SramGrp) : MarchOnly s { t with sram := m } := h

theorem MarchOnly.fresh (h : MarchOnly s t) (n : Nat) : MarchOnly s { t with sram := [], free := n } := h

theorem MarchOnly.ofRegs {u : State} (h : MarchOnly s t) (g : RegsOnly t u) : MarchOnly s u := by
  refine Eq.trans ?_ h
  exact congrArg (fun x : State => { x with regs := s.regs, sram := s.sram, logs := s.logs, free := s.free }) g

theorem MarchOnly.raise (h : MarchOnly s t) (c : Nat) : MarchOnly s (raise c t) := h.ofRegs (raise_regs_only c t none)

theorem MarchOnly.sramRemap (h : MarchOnly s t) (g w : Nat) : MarchOnly s (sramRemap g w t) := by
  unfold Machine.sramRemap
  extract_lets q
  split_ifs
  · exact h
  · exact (h.sram _).logEngine _ _ _
  · exact h
  · exact (h.sram _).raise 25

theorem MarchOnly.bootMarch (h : MarchOnly s t) : MarchOnly s (bootMarch t) := by
  have hgroup (k g : Nat) {u : State} (hu : MarchOnly s u) : MarchOnly s (bootGroup k u g) :=
    List.foldlRecOn _ _ hu fun _ hv w _ => (hv.logEngine _ _ _).sramRemap _ _
  rw [Machine.bootMarch]
  split
  · exact h
  · exact List.foldlRecOn _ _ (h.fresh _) fun _ hu g _ => hgroup _ g hu

/-- The engine right after power-on, before anything starts. -/
def powered (s : State) : State :=
  let valid := bits (bbrWord s 3) 0 1 = 1
  { State.reset with pending := s.pending, part := s.part, free := s.free, dram := s.dram, poison := s.poison,
                     regs := if valid then bbRegs s else [], bbr := if valid then s.bbr else [],
                     en := { ({} : Energy) with fstalls := s.en.fstalls, busTrip := s.en.busTrip, rsvTrip := s.en.rsvTrip } }

/-- The engine at power-on once its units have started. -/
def booted (s : State) : State := checkFuses (bootMarch (powered s))

theorem powered_bbr (s : State) : (powered s).bbr = if bits (bbrWord s 3) 0 1 = 1 then s.bbr else [] := rfl

theorem booted_only (s : State) : MarchOnly (powered s) (booted s) :=
  (MarchOnly.bootMarch (show MarchOnly (powered s) (powered s) from rfl)).ofRegs (checkFuses_regs_only _)

theorem exec_powerOnReset (s : State) :
    exec .powerOnReset s = .next (pwrStat (showEnergy (if committed (booted s) then warmResume (booted s) else coldStart (booted s)))) := rfl

/-- The status and the totals as they are shown. -/
theorem shown_regs_only (s : State) : RegsOnly s (pwrStat (showEnergy s)) := (showEnergy_regs_only s).trans (pwrStat_regs_only _)

/-- A power-on without a committed image. -/
def coldBoot (s : State) : State := pwrStat (showEnergy (coldStart (booted s)))

theorem coldBoot_shows (s : State) : ((coldBoot s).clk = 0 ∧ (coldBoot s).count = 0 ∧ (coldBoot s).dram = [] ∧ (coldBoot s).poison = [] ∧
    (coldBoot s).spad = [] ∧ (coldBoot s).fab = [] ∧ (coldBoot s).stalls = [] ∧ (coldBoot s).pw.st = 0 ∧ (coldBoot s).pw.inReset = false ∧
    (coldBoot s).part = s.part ∧ (coldBoot s).pending = s.pending) ∧ bbrWord (coldBoot s) 0 = 0 := by
  have h : { coldBoot s with regs := (coldStart (booted s)).regs } = coldStart (booted s) := shown_regs_only _
  have hb : { booted s with regs := (powered s).regs, sram := (powered s).sram, logs := (powered s).logs, free := (powered s).free } = powered s :=
    booted_only s
  generalize coldBoot s = t at h ⊢
  generalize booted s = b at h hb
  have hbbr : t.bbr = (coldStart b).bbr := (congrArg (fun u : State => u.bbr) h :)
  refine ⟨⟨?_, ?_, ?_, ?_, ?_, ?_, ?_, ?_, ?_, ?_, ?_⟩, ?_⟩
  · exact (congrArg (fun u : State => u.clk) h :).trans (congrArg (fun u : State => u.clk) hb :)
  · exact (congrArg (fun u : State => u.count) h :).trans (congrArg (fun u : State => u.count) hb :)
  · exact (congrArg (fun u : State => u.dram) h :)
  · exact (congrArg (fun u : State => u.poison) h :)
  · exact (congrArg (fun u : State => u.spad) h :).trans (congrArg (fun u : State => u.spad) hb :)
  · exact (congrArg (fun u : State => u.fab) h :).trans (congrArg (fun u : State => u.fab) hb :)
  · exact (congrArg (fun u : State => u.stalls) h :).trans (congrArg (fun u : State => u.stalls) hb :)
  · exact (congrArg (fun u : State => u.pw.st) h :).trans (congrArg (fun u : State => u.pw.st) hb :)
  · exact (congrArg (fun u : State => u.pw.inReset) h :).trans (congrArg (fun u : State => u.pw.inReset) hb :)
  · exact (congrArg (fun u : State => u.part) h :).trans (congrArg (fun u : State => u.part) hb :)
  · exact (congrArg (fun u : State => u.pending) h :).trans (congrArg (fun u : State => u.pending) hb :)
  · rw [bbrWord_congr hbbr, show bbrWord (coldStart b) 0 = bbrWord (bbrStat 1 false (setBbr 0 0 b)) 0 from rfl, bbrWord_bbrStat (by decide),
      bbrWord_setBbr, if_pos rfl]
    rfl

theorem booted_bbr (s : State) : (booted s).bbr = (powered s).bbr := by
  have hb : { booted s with regs := (powered s).regs, sram := (powered s).sram, logs := (powered s).logs, free := (powered s).free } = powered s :=
    booted_only s
  exact (congrArg (fun u : State => u.bbr) hb :)

/-! ### Supply failure (R436) -/

/-- The state of E4 after a supply failure. -/
def supplyOff (s : State) : State :=
  modPw (fun w => { w with st := 4, supplyBad := true }) (if s.pw.st = 4 then s else enterE4 (modPw (fun w => { w with e4cmd := false }) s))

/-- What the DIMMs keep: all where the board held DRST_N in E4, nothing elsewhere (R454). -/
def supplyHeld (s : State) : State :=
  if (decide (s.pw.st = 4) && flg s PLN_CTL_DRST_HOLD) = true then supplyOff s else { supplyOff s with dram := [], poison := [] }

def supplyShown (s : State) : State := pwrStat (supplyHeld s)

theorem exec_supplyFailure (s : State) : exec .supplyFailure s = .next (supplyShown s) := rfl

theorem dram_supplyOff (s : State) : (supplyOff s).dram = s.dram := by
  obtain ⟨-, -, -, hdram, -⟩ := enterE4_shows (modPw (fun w => { w with e4cmd := false }) s)
  rw [supplyOff]
  split
  · rfl
  · exact hdram

theorem supplyShown_shows (s : State) : (supplyShown s).pw.st = 4 ∧ (supplyShown s).pw.supplyBad = true ∧
    (supplyShown s).dram = if s.pw.st = 4 ∧ flg s PLN_CTL_DRST_HOLD = true then s.dram else [] := by
  have hst : (supplyOff s).pw.st = 4 := rfl
  have hbad : (supplyOff s).pw.supplyBad = true := rfl
  have hdram := dram_supplyOff s
  have h : { supplyShown s with regs := (supplyHeld s).regs } = supplyHeld s := pwrStat_regs_only _
  have hheld : (supplyHeld s).pw = (supplyOff s).pw ∧
      (supplyHeld s).dram = if s.pw.st = 4 ∧ flg s PLN_CTL_DRST_HOLD = true then (supplyOff s).dram else [] := by
    simp only [supplyHeld, Bool.and_eq_true, decide_eq_true_eq]
    split
    · exact ⟨rfl, rfl⟩
    · exact ⟨rfl, rfl⟩
  obtain ⟨hheldPw, hheldDram⟩ := hheld
  rw [hdram] at hheldDram
  generalize supplyShown s = t at h ⊢
  generalize supplyHeld s = z at h hheldPw hheldDram
  refine ⟨(congrArg (fun u : State => u.pw.st) h :).trans ?_, (congrArg (fun u : State => u.pw.supplyBad) h :).trans ?_,
    (congrArg (fun u : State => u.dram) h :).trans hheldDram⟩
  · rw [hheldPw]
    exact hst
  · rw [hheldPw]
    exact hbad

end

/-- Settles O45: what shows a reset changes the registers alone, and the start-up march neither memories nor units. -/
theorem engineResets : Obligations.EngineResets := by
  unfold Obligations.EngineResets
  intro s f boot may
  refine ⟨fun hmay hidle => ?start, fun hmay hbusy => ?waits, fun a hsoft hdue hin => ?timeout, softFinish_shows s, fun hpf => ?reset,
    fun hpf => ?held, fun hin => ?release, fun hinvalid => ?cold, fun hcommit => ?warm, ?supply⟩
  case start =>
    obtain ⟨hin, hsoft, hpf, hst⟩ := hmay
    refine (show exec .softReset s = .next (settle (softAsk s)) from rfl).trans ?_
    rw [softAsk_of_may hin hsoft hpf hst, hidle, if_pos rfl]
  case waits =>
    obtain ⟨hin, hsoft, hpf, hst⟩ := hmay
    refine (show exec .softReset s = .next (settle (softAsk s)) from rfl).trans ?_
    rw [softAsk_of_may hin hsoft hpf hst, hbusy, if_neg Bool.false_ne_true]
  case timeout =>
    refine (show exec .softResetTimeout s = execSoftResetTimeout s from rfl).trans ?_
    rw [execSoftResetTimeout, hsoft]
    refine congrArg (fun t => Host.Outcome.next (settle t)) (if_pos ?_)
    rw [hin, decide_eq_true hdue]
    rfl
  case reset =>
    refine ⟨resetEngine s, ?_, rfl, rfl, rfl, rfl, rfl, rfl, rfl, rfl, rfl, rfl, rfl, rfl, rfl, rfl, rfl, rfl, rfl, rfl,
      fun off hoff rst => regAt_resetEngine hoff rst s⟩
    refine (show exec .engineReset s = execEngineReset s from rfl).trans ?_
    rw [execEngineReset, if_neg (not_not.mpr hpf)]
  case held =>
    refine (show exec .engineReset s = execEngineReset s from rfl).trans ?_
    rw [execEngineReset, if_pos hpf]
    rfl
  case release =>
    refine ⟨releaseShown s, ?_, releaseShown_shows s⟩
    refine (show exec .engineResetRelease s = execEngineResetRelease s from rfl).trans ?_
    rw [execEngineResetRelease, hin, Bool.not_true, Bool.and_false, if_neg Bool.false_ne_true, if_neg Bool.false_ne_true]
    rfl
  case cold =>
    refine ⟨coldBoot s, ?_, ?_⟩
    · have hword : bbrWord (booted s) 0 = 0 := by
        rw [bbrWord_congr (booted_bbr s), bbrWord, powered_bbr, if_neg (by rw [hinvalid]; decide)]
        rfl
      have hnot : committed (booted s) = false := by
        rw [committed, hword]
        rfl
      rw [Gives, exec_powerOnReset, hnot, if_neg Bool.false_ne_true, coldBoot]
    · obtain ⟨⟨h1, h2, h3, h4, h5, h6, h7, h8, h9, h10, h11⟩, h12⟩ := coldBoot_shows s
      exact ⟨h1, h2, h3, h4, h5, h6, h7, h8, h9, h10, h11, h12⟩
  case warm =>
    have hvalid : bits (bbrWord s 3) 0 1 = 1 := by
      rw [committed, Bool.and_eq_true, Bool.and_eq_true, decide_eq_true_eq, decide_eq_true_eq] at hcommit
      obtain ⟨⟨-, hvalid⟩, -⟩ := hcommit
      exact hvalid
    have hboot : boot = booted s := by
      simp only [boot]
      rw [booted, powered, if_pos hvalid, if_pos hvalid]
    have hbbr : (booted s).bbr = s.bbr := by
      rw [booted_bbr, powered_bbr, if_pos hvalid]
    rw [Gives, exec_powerOnReset, committed_congr hbbr, hcommit, if_pos rfl, hboot]
  case supply => exact ⟨supplyShown s, exec_supplyFailure s, supplyShown_shows s⟩

end Sys2Proof.Machine
end

section
/-!
Requests for an engine state (R411 to R413, R418, R420, R421, R347).
-/

namespace Sys2Proof.Machine

section
variable {s t : State}

/-! ### What shows the engine's transitions (R411, R413) -/

theorem RegsOnly.sameBytes (h : RegsOnly s t) : SameBytes s t := sameBytes_of_regs_only h

theorem pwrStat_pw (s : State) : (pwrStat s).pw = s.pw := by
  have h : { pwrStat s with regs := s.regs } = s := pwrStat_regs_only s
  exact (congrArg (fun t : State => t.pw) h :)

theorem sameBytes_pwrStat (h : SameBytes s t) : SameBytes s (pwrStat t) := h.trans (pwrStat_regs_only t).sameBytes

theorem fld_pwrStat_state (s : State) : fld (pwrStat s) PWR_STAT_STATE = s.pw.st.toNat := by
  have hlt : s.pw.st.toNat < 2 ^ 3 := s.pw.st.isLt
  unfold pwrStat
  extract_lets prep run s1
  have hs1 : fld s1 PWR_STAT_STATE = s.pw.st.toNat := (fld_setFld_same _ _ _ _ (by decide)).trans (Nat.mod_eq_of_lt hlt)
  split
  · exact (fld_setFld_apart (by decide)).trans ((fld_setFld_apart (by decide)).trans hs1)
  · exact (fld_setFld_apart (by decide)).trans ((fld_setFld_apart (by decide)).trans hs1)

theorem flg_pwrStat_prep {x : EngTrans} (hcur : s.pw.cur = some x) (hrun : x.run = false) : flg (pwrStat s) PWR_STAT_PREP = true := by
  unfold pwrStat
  extract_lets prep run s1
  have hprep : prep = true := by
    simp only [prep, hcur, hrun, Bool.not_false]
  have hs1 : flg s1 PWR_STAT_PREP = true := by
    refine (flg_setFld_apart (by decide)).trans ((flg_setFld_same _ _ _ _ (by decide)).trans ?_)
    rw [hprep]
    rfl
  split
  · exact (flg_setFld_apart (by decide)).trans ((flg_setFld_apart (by decide)).trans hs1)
  · exact (flg_setFld_apart (by decide)).trans ((flg_setFld_apart (by decide)).trans hs1)

/-! ### Wakes (R413, R420) -/

/-- The wake source of the given bit is noted in PWR_WCAUSE. -/
def causeMarked (bit : Nat) (s : State) : State := setFld PWR_WCAUSE_CAUSE 0 (fld s PWR_WCAUSE_CAUSE ||| 2 ^ bit) s

theorem bits_causeMarked {bit : Nat} (hbit : bit < 8) (s : State) : bits (fld (causeMarked bit s) PWR_WCAUSE_CAUSE) bit 1 = 1 := by
  rw [causeMarked, fld_setFld_same _ _ _ _ (by decide), bits_mod (n := PWR_WCAUSE_CAUSE.w) (show bit + 1 ≤ 8 by omega), bits_one, Nat.testBit_or,
    Nat.testBit_two_pow_self, Bool.or_true]
  rfl

/-- The exit from a deep state begins. -/
def exitBegun (s : State) : State := modPw (fun w => { w with exit := some (w.st, s.clk) }) s

theorem wake_light (hcur : s.pw.cur = none) (hexit : s.pw.exit = none) (hst : s.pw.st = 1) (bit : Nat) :
    wake bit s = pwrStat (causeMarked bit (active s)) := by
  rw [wake, wakeBy, hcur, hexit, if_neg (by decide), if_pos hst]
  rfl

theorem wake_deep (hcur : s.pw.cur = none) (hexit : s.pw.exit = none) (hst : s.pw.st = 2 ∨ s.pw.st = 3) (bit : Nat) :
    wake bit s = pwrStat (causeMarked bit (exitBegun s)) := by
  have hnot : s.pw.st ≠ 1 := by
    rcases hst with h | h
    · rw [h]
      decide
    · rw [h]
      decide
  have hdeep : (decide (s.pw.st = 2) || decide (s.pw.st = 3)) = true := by
    rcases hst with h | h
    · rw [h]
      rfl
    · rw [h]
      rfl
  rw [wake, wakeBy, hcur, hexit, if_neg (by decide), if_neg hnot, if_pos hdeep]
  rfl

theorem active_light (hst : s.pw.st = 1) : active s = setFld PWR_STAT_STATE 0 0 { s with pw := { s.pw with activeAt := s.clk, st := 0 } } := by
  rw [active, if_pos hst, if_pos hst]

theorem bits_shown {bit : Nat} (hbit : bit < 8) (s : State) : bits (fld (pwrStat (causeMarked bit s)) PWR_WCAUSE_CAUSE) bit 1 = 1 := by
  rw [fld_pwrStat (by decide)]
  exact bits_causeMarked hbit s

/-- A wake from E1 ends it. -/
theorem wake_light_shows (hcur : s.pw.cur = none) (hexit : s.pw.exit = none) (hst : s.pw.st = 1) {bit : Nat} (hbit : bit < 8) :
    SameBytes s (wake bit s) ∧ (wake bit s).pw = { s.pw with activeAt := s.clk, st := 0 } ∧ bits (fld (wake bit s) PWR_WCAUSE_CAUSE) bit 1 = 1 := by
  rw [wake_light hcur hexit hst, pwrStat_pw]
  refine ⟨sameBytes_pwrStat ?_, ?_, bits_shown hbit _⟩
  · rw [active_light hst]
    exact ⟨rfl, rfl, rfl, rfl⟩
  · rw [active_light hst]
    rfl

/-- A wake from E2 or E3 begins the exit. -/
theorem wake_deep_shows (hcur : s.pw.cur = none) (hexit : s.pw.exit = none) (hst : s.pw.st = 2 ∨ s.pw.st = 3) {bit : Nat} (hbit : bit < 8) :
    SameBytes s (wake bit s) ∧ (wake bit s).pw = { s.pw with exit := some (s.pw.st, s.clk) } ∧ bits (fld (wake bit s) PWR_WCAUSE_CAUSE) bit 1 = 1 := by
  rw [wake_deep hcur hexit hst, pwrStat_pw]
  exact ⟨sameBytes_pwrStat ⟨rfl, rfl, rfl, rfl⟩, rfl, bits_shown hbit _⟩

/-! ### Requests (R411 to R414, R421) -/

/-- Nothing holds a request for an engine state back. -/
abbrev RequestOpen (s : State) : Prop := s.pw.inReset = false ∧ s.en.pf = .none ∧ s.pw.exit = none ∧ s.pw.cur = none

/-- The transition that a request asks for. -/
def asked (tgt : Nat) (src : ReqOf) (s : State) : EngTrans := { tgt := BitVec.ofNat 3 tgt, src := src, start := s.clk }

theorem engineReq_open (h : RequestOpen s) (hst : s.pw.st.toNat ≤ 3) (tgt : Nat) (src : ReqOf) : engineReq tgt src s =
    if src = .reg && (s.pw.st = 2 || (s.pw.st = 3 && tgt ≠ 4)) then pwrStat (modPw (fun w => { w with pend := some (asked tgt src s) }) (wake 2 s))
    else pwrStat (beginTrans (asked tgt src s) (if src = .reg && s.pw.st = 1 then wake 2 s else s)) := by
  obtain ⟨hin, hpf, hexit, hcur⟩ := h
  rw [engineReq, hin, hpf, hexit, hcur, decide_eq_false (Nat.not_lt.mpr hst)]
  rfl

/-- The transition begins its preparation. -/
def preparing (x : EngTrans) (s : State) : State := modPw (fun w => { w with cur := some { x with start := s.clk } }) s

theorem beginTrans_prepares {x : EngTrans} (hst : s.pw.st.toNat ≤ 1) (htgt : 2 ≤ x.tgt.toNat) : beginTrans x s = preparing x s := by
  rw [beginTrans, if_pos hst]
  generalize hn : x.tgt.toNat = n at htgt
  match n, htgt with
  | n + 2, _ => rfl

theorem beginTrans_ends {x : EngTrans} (hst : s.pw.st.toNat ≤ 1) (htgt : x.tgt = 0) : beginTrans x s = srcDone x.src 0 0 (active s) := by
  rw [beginTrans, if_pos hst, htgt]
  rfl

theorem beginTrans_idles {x : EngTrans} (hst : s.pw.st.toNat ≤ 1) (htgt : x.tgt = 1) : beginTrans x s = enterIdle x.src s := by
  rw [beginTrans, if_pos hst, htgt]
  rfl

/-- Where no source waits for an answer, E1 is entered at once. -/
def idling (s : State) : State := modPw (fun w => { w with st := 1 }) s

theorem enterIdle_enters {src : ReqOf} (hsrc : src = .reg ∨ src = .idle) (hforbids : launchForbids s (engineW s 1) (fun _ => true) = false) :
    enterIdle src s = pwrStat (idling s) := by
  rw [enterIdle, hforbids, if_neg Bool.false_ne_true]
  rcases hsrc with rfl | rfl
  · rfl
  · rfl

theorem enterIdle_refused (hforbids : launchForbids s (engineW s 1) (fun _ => true) = true) : enterIdle .reg s = recordRef 1 1 0 false s := by
  rw [enterIdle, hforbids, if_pos rfl]
  rfl

theorem idling_shows (s : State) :
    SameBytes s (pwrStat (idling s)) ∧ (pwrStat (idling s)).pw.st = 1 ∧ fld (pwrStat (idling s)) PWR_STAT_STATE = 1 := by
  refine ⟨sameBytes_pwrStat ⟨rfl, rfl, rfl, rfl⟩, ?_, fld_pwrStat_state _⟩
  rw [pwrStat_pw]
  rfl

theorem recordRef_shows (code tgt unit : Nat) (hcode : code < 16) (htgt : tgt < 8) (s : State) :
    (recordRef code tgt unit false s).pw = s.pw ∧ fld (recordRef code tgt unit false s) PWR_REF_CODE = code ∧
      fld (recordRef code tgt unit false s) PWR_REF_TGT = tgt := by
  rw [recordRef]
  refine ⟨raise_pw 38 _, ?_, ?_⟩
  · rw [fld_raise_high (by decide) (by decide), addFld, fld_setFld_apart (by decide), fld_setFld_same _ _ _ _ (by decide)]
    exact Nat.mod_eq_of_lt hcode
  · rw [fld_raise_high (by decide) (by decide), addFld, fld_setFld_apart (by decide), fld_setFld_apart (by decide),
      fld_setFld_same _ _ _ _ (by decide)]
    exact Nat.mod_eq_of_lt htgt

/-- A register's request for E2, E3 or E4 from E0 begins the preparation. -/
theorem engineReq_begins (h : RequestOpen s) (hst : s.pw.st = 0) {tgt : Nat} (hlo : 2 ≤ tgt) (hhi : tgt ≤ 4) :
    engineReq tgt .reg s = pwrStat (preparing (asked tgt .reg s) s) := by
  have hnum : (BitVec.ofNat 3 tgt).toNat = tgt := by
    rw [BitVec.toNat_ofNat]
    omega
  rw [engineReq_open h (by rw [hst]; decide), hst, if_neg (by simp), if_neg (by simp), beginTrans_prepares (by rw [hst]; decide)]
  exact hnum.symm ▸ hlo

theorem preparing_shows {x : EngTrans} (hrun : x.run = false) (s : State) : SameBytes s (pwrStat (preparing x s)) ∧
    (pwrStat (preparing x s)).pw.st = s.pw.st ∧ (pwrStat (preparing x s)).pw.cur = some { x with start := s.clk } ∧
    flg (pwrStat (preparing x s)) PWR_STAT_PREP = true := by
  refine ⟨sameBytes_pwrStat ⟨rfl, rfl, rfl, rfl⟩, ?_, ?_, flg_pwrStat_prep (x := { x with start := s.clk }) rfl hrun⟩
  · rw [pwrStat_pw]
    rfl
  · rw [pwrStat_pw]
    rfl

theorem makes_begun (h : RequestOpen s) (hst : s.pw.st = 0) {i : Instr} {tgt : Nat} (hlo : 2 ≤ tgt) (hhi : tgt ≤ 4)
    (hi : exec i s = .next (settle (engineReq tgt .reg s))) : Makes s i fun t => SameBytes s t ∧ t.pw.st = 0 ∧
      t.pw.cur = some { tgt := BitVec.ofNat 3 tgt, src := .reg, start := s.clk } ∧ flg t PWR_STAT_PREP = true := by
  rw [engineReq_begins h hst hlo hhi] at hi
  obtain ⟨hbytes, hstate, hcur, hprep⟩ := preparing_shows (x := asked tgt .reg s) rfl s
  exact ⟨_, hi, hbytes, hstate.trans hst, hcur, hprep⟩

/-- What an idle engine has none of (R412). -/
theorem open_of_idleFor {n : Nat} (h : idleFor s n = true) : RequestOpen s ∧ s.pw.pend = none := by
  simp only [idleFor, engineIdle, Bool.and_eq_true, Option.isNone_iff_eq_none, decide_eq_true_eq, Bool.not_eq_true'] at h
  obtain ⟨⟨⟨⟨⟨⟨⟨-, -⟩, -⟩, hcur, hexit⟩, hpend⟩, -⟩, hpf⟩, hin⟩ := h
  exact ⟨⟨hin, hpf, hexit, hcur⟩, hpend⟩

theorem engineReq_e0 (h : RequestOpen s) (hst : s.pw.st = 0) (tgt : Nat) : engineReq tgt .reg s = pwrStat (beginTrans (asked tgt .reg s) s) := by
  rw [engineReq_open h (by rw [hst]; decide), hst, if_neg (by simp), if_neg (by simp)]

theorem engineReq_e1 (h : RequestOpen s) (hst : s.pw.st = 1) (tgt : Nat) :
    engineReq tgt .reg s = pwrStat (beginTrans (asked tgt .reg s) (wake 2 s)) := by
  rw [engineReq_open h (by rw [hst]; decide), hst, if_neg (by simp), if_pos (by simp)]

theorem engineReq_deep (h : RequestOpen s) (hst : s.pw.st = 2 ∨ s.pw.st = 3) :
    engineReq 0 .reg s = pwrStat (modPw (fun w => { w with pend := some (asked 0 .reg s) }) (wake 2 s)) := by
  have hle : s.pw.st.toNat ≤ 3 := by
    rcases hst with h | h
    · rw [h]
      decide
    · rw [h]
      decide
  have hreg : (decide (ReqOf.reg = ReqOf.reg) && (decide (s.pw.st = 2) || (decide (s.pw.st = 3) && decide ((0 : Nat) ≠ 4)))) = true := by
    rcases hst with h | h
    · rw [h]
      rfl
    · rw [h]
      rfl
  rw [engineReq_open h hle, if_pos hreg]

theorem resumeAsked_of_ne {s : State} (hst : s.pw.st ≠ 4) : resumeAsked s = false := by
  rw [resumeAsked, decide_eq_false hst]
  rfl

theorem exec_wakeE0_reg (hst : s.pw.st ≠ 4) : exec (.wakeE0 .reg) s = .next (settle (engineReq 0 .reg s)) := by
  refine (show exec (.wakeE0 .reg) s = execWakeE0 .reg s from rfl).trans ?_
  rw [execWakeE0, resumeAsked_of_ne hst]
  rfl

/-- Activity outside E1 restarts the idle timers alone. -/
theorem active_awake (hst : s.pw.st ≠ 1) : active s = { s with pw := { s.pw with activeAt := s.clk } } := by
  rw [active, if_neg hst, if_neg hst]

/-- A handle's request starts as a request of its own. -/
theorem engineFrom_handle {h : BitVec 12} {tgt : Nat} (hstart : mayStart s h.toNat 0xD = true) (harg : argN (handleOf s h.toNat) 1 = tgt) :
    engineFrom tgt (.handle h) s = engineReq tgt (.handle h.toNat) (started h s) := by
  rw [engineFrom, hostEngine, if_pos harg, hostCommand_started hstart]

/-- EPWR that the power controller does not refuse at once. -/
theorem takes_epwr {c : Fin 4} {rd : BitVec 5} {tgt : Nat} {i : Instr} (hmay : MayControl s c) (hpf : s.en.pf = .none) (hdram : fromDram s c.val = false)
    (hno : tgt = 1 → launchForbids s (engineW s 1) (fun _ => true) = false) (hi : exec i s = .next (settle (lantEngine c rd 0 0 0 tgt s))) :
    Takes s c i (encR 0x33 rd 0 0 0 (BitVec.ofNat 4 tgt) 6) fun w t => t = retireWith c.val rd 0 (engineReq tgt (.lant c) w) := by
  refine takes_control (f := engineReq tgt (.lant c)) hmay hi ?_ rfl
  have hforbid : launchForbids (issued c.val (encR 0x33 rd 0 0 0 (BitVec.ofNat 4 tgt) 6) s)
      (engineW (issued c.val (encR 0x33 rd 0 0 0 (BitVec.ofNat 4 tgt) 6) s) 1) (fun _ => true) = launchForbids s (engineW s 1) (fun _ => true) := by
    rw [issued_eq]
    rfl
  dsimp only
  rw [fromDram_issued, hdram, Bool.and_false, Bool.false_and, if_neg Bool.false_ne_true, en_issued, hforbid, hpf]
  by_cases htgt : tgt = 1
  · rw [hno htgt, Bool.and_false]
    rfl
  · rw [decide_eq_false htgt, Bool.false_and, Bool.false_and, Bool.false_and]
    rfl

/-- A wake source that is present and enabled. -/
theorem does_wake {w : WakeSrc} {bit : Nat} {b : Bool} (hin : s.pw.inReset = false) (hpf : s.en.pf = .none) (hb : b = true)
    (hi : exec (.wakeSource w) s = .next (settle (if b && !s.pw.inReset && decide (s.en.pf = .none) then wake bit s else s))) :
    Does s (.wakeSource w) (wake bit s) := by
  rw [hin, hpf, hb] at hi
  exact hi

theorem light_true {n : Nat} (h : n = 1 ∨ n = 2) : (decide (n = 1) || decide (n = 2)) = true := by
  simpa using h

theorem deep_true {n : Nat} (h : 1 ≤ n ∧ n ≤ 3) : (decide (1 ≤ n) && decide (n ≤ 3)) = true := by
  simpa using h

end

/-- Settles O46: a request that nothing holds back is a wake where the register asks in a lower state, and the start of its transition. -/
theorem engineRequests : Obligations.EngineRequests := by
  unfold Obligations.EngineRequests
  intro s h c rd k u open' begun host epwr src forbids wakes st light deep
  refine ⟨fun hopen hst hno => ?e1, fun hopen hst hyes => ?e1No, fun hopen hst => makes_begun hopen hst (by decide) (by decide) rfl,
    fun hopen hst => makes_begun hopen hst (by decide) (by decide) rfl, fun hopen hst => makes_begun hopen hst (by decide) (by decide) rfl,
    fun ⟨hin, hpf, hexit, hcur⟩ hst => ?e0, fun ⟨hin, hpf, hexit, hcur⟩ hst => ?exit, fun hask hin => ?resume, fun hstart harg => ?host0, fun hstart harg => ?host1,
    fun hstart harg => ?host2, fun hstart harg => ?host3, fun hstart harg => ?host4, fun hmay hpf hdram => ?lant0,
    fun hno hmay hpf hdram => ?lant1, fun hmay hpf hdram => ?lant2, fun hmay hpf hdram => ?lant3, fun hmay hpf hdram => ?lant4,
    fun hc hp => runs_control_priv hc hp rfl, fun hst hidle hno => ?idle1, fun hst hidle => ?idle2, fun hin hpf hthere => ?fabric,
    fun hin hpf hthere => ?ring, fun hin hpf hthere => ?register, fun hin hpf hthere => ?alarm, fun hin hpf hthere => ?wait,
    fun hin hpf hthere => ?launch, fun hin hpf hthere => ?reserve, fun hin hpf hthere => ?doorbell, fun bit hbit hcur hexit => ⟨?one, ?two, ?cause⟩⟩
  case e1 =>
    obtain ⟨hbytes, hone, hshown⟩ := idling_shows s
    have hgoes : engineReq 1 .reg s = pwrStat (pwrStat (idling s)) := by
      rw [engineReq_e0 hopen hst, beginTrans_idles (by rw [hst]; decide) rfl]
      exact congrArg pwrStat (enterIdle_enters (Or.inl rfl) hno)
    refine ⟨_, (show exec (.enterE1 .reg) s = .next (settle (engineReq 1 .reg s)) from rfl).trans (congrArg (fun t => Host.Outcome.next (settle t)) hgoes),
      sameBytes_pwrStat hbytes, ?_, ?_⟩
    · rw [pwrStat_pw]
      exact hone
    · rw [fld_pwrStat_state, hone]
      rfl
  case e1No =>
    obtain ⟨hpw, hcode, htgt⟩ := recordRef_shows 1 1 0 (by decide) (by decide) s
    have hgoes : engineReq 1 .reg s = pwrStat (recordRef 1 1 0 false s) := by
      rw [engineReq_e0 hopen hst, beginTrans_idles (by rw [hst]; decide) rfl]
      exact congrArg pwrStat (enterIdle_refused hyes)
    refine ⟨_, (show exec (.enterE1 .reg) s = .next (settle (engineReq 1 .reg s)) from rfl).trans (congrArg (fun t => Host.Outcome.next (settle t)) hgoes),
      ?_, ?_, ?_⟩
    · rw [pwrStat_pw, hpw, hst]
    · rw [fld_pwrStat (by decide), hcode]
    · rw [fld_pwrStat (by decide), htgt]
  case e0 =>
    obtain ⟨hbytes, hpw, hbit⟩ := wake_light_shows hcur hexit hst (bit := 2) (by decide)
    have hzero : (wake 2 s).pw.st = 0 := by rw [hpw]
    have hgoes : engineReq 0 .reg s = pwrStat (active (wake 2 s)) := by
      rw [engineReq_e1 ⟨hin, hpf, hexit, hcur⟩ hst, beginTrans_ends (by rw [hzero]; decide) rfl]
      rfl
    refine ⟨_, (exec_wakeE0_reg (by rw [hst]; decide)).trans (congrArg (fun t => Host.Outcome.next (settle t)) hgoes), ?_, ?_, ?_⟩
    · exact sameBytes_pwrStat (hbytes.trans (by rw [active_awake (by rw [hzero]; decide)]; exact ⟨rfl, rfl, rfl, rfl⟩))
    · rw [pwrStat_pw, active_awake (by rw [hzero]; decide)]
      exact hzero
    · rw [fld_pwrStat (by decide), active_awake (by rw [hzero]; decide)]
      exact hbit
  case exit =>
    obtain ⟨hbytes, hpw, hbit⟩ := wake_deep_shows hcur hexit hst (bit := 2) (by decide)
    have hfour : s.pw.st ≠ 4 := by
      rcases hst with h | h
      · rw [h]
        decide
      · rw [h]
        decide
    refine ⟨_, (exec_wakeE0_reg hfour).trans (congrArg (fun t => Host.Outcome.next (settle t)) (engineReq_deep ⟨hin, hpf, hexit, hcur⟩ hst)),
      sameBytes_pwrStat hbytes, ?_, ?_⟩
    · rw [pwrStat_pw, modPw, hpw]
    · rw [fld_pwrStat (by decide)]
      exact hbit
  case resume =>
    refine (show exec (.wakeE0 .reg) s = execWakeE0 .reg s from rfl).trans ?_
    rw [execWakeE0, hask, hin]
    rfl
  case host0 => exact congrArg (fun t => Host.Outcome.next (settle t)) (engineFrom_handle hstart harg)
  case host1 => exact congrArg (fun t => Host.Outcome.next (settle t)) (engineFrom_handle hstart harg)
  case host2 => exact congrArg (fun t => Host.Outcome.next (settle t)) (engineFrom_handle hstart harg)
  case host3 => exact congrArg (fun t => Host.Outcome.next (settle t)) (engineFrom_handle hstart harg)
  case host4 => exact congrArg (fun t => Host.Outcome.next (settle t)) (engineFrom_handle hstart harg)
  case lant0 => exact takes_epwr hmay hpf hdram (fun h => absurd h (by decide)) rfl
  case lant1 => exact takes_epwr hmay hpf hdram (fun _ => hno) rfl
  case lant2 => exact takes_epwr hmay hpf hdram (fun h => absurd h (by decide)) rfl
  case lant3 => exact takes_epwr hmay hpf hdram (fun h => absurd h (by decide)) rfl
  case lant4 => exact takes_epwr hmay hpf hdram (fun h => absurd h (by decide)) rfl
  case idle1 =>
    obtain ⟨hbytes, hone, hshown⟩ := idling_shows s
    refine ⟨pwrStat (idling s), ?_, hbytes, hone, hshown⟩
    refine (show exec .idleE1 s = execIdleE1 s from rfl).trans ?_
    rw [execIdleE1, hst, hidle, if_neg (by decide), enterIdle_enters (Or.inr rfl) hno]
    dsimp only
    rw [if_pos hone]
  case idle2 =>
    obtain ⟨hopen, -⟩ := open_of_idleFor hidle
    have hgoes : engineReq 2 .idle s = pwrStat (preparing (asked 2 .idle s) s) := by
      rw [engineReq_open hopen (Nat.le_trans hst (by decide)), if_neg (by simp), if_neg (by simp), beginTrans_prepares (x := asked 2 .idle s) hst (show 2 ≤ 2 from le_rfl)]
    obtain ⟨hbytes, hstate, hcur, -⟩ := preparing_shows (x := asked 2 .idle s) rfl s
    have hclk : (pwrStat (preparing (asked 2 .idle s) s)).clk = s.clk := by
      have h : { pwrStat (preparing (asked 2 .idle s) s) with regs := (preparing (asked 2 .idle s) s).regs } = preparing (asked 2 .idle s) s :=
        pwrStat_regs_only _
      exact (congrArg (fun t : State => t.clk) h :)
    refine ⟨restartTimers (pwrStat (preparing (asked 2 .idle s) s)), ?_, hbytes, hclk, hcur⟩
    refine (show exec .idleE2 s = execIdleE2 s from rfl).trans ?_
    rw [execIdleE2, decide_eq_false (Nat.not_lt.mpr hst), hidle, if_neg (by decide), hgoes]
  case fabric =>
    obtain ⟨hlight, hflg, hlive⟩ := hthere
    refine does_wake (b := (decide (wakeState s = 1) || decide (wakeState s = 2)) && flg s PWR_WAKE_FAB && s.fab.any fun e => e.2.reqs.any FabReq.live)
      hin hpf ?_ rfl
    rw [light_true hlight, hflg, hlive]
    rfl
  case ring =>
    obtain ⟨hlight, hflg⟩ := hthere
    refine does_wake (b := (decide (wakeState s = 1) || decide (wakeState s = 2)) && flg s PWR_WAKE_RING) hin hpf ?_ rfl
    rw [light_true hlight, hflg]
    rfl
  case register => exact does_wake (b := decide (wakeState s = 1) || decide (wakeState s = 2)) hin hpf (light_true hthere) rfl
  case alarm =>
    obtain ⟨hdeep, hfired, hflg⟩ := hthere
    refine does_wake (b := decide (1 ≤ wakeState s) && decide (wakeState s ≤ 3) && flg s TB_ALARM_CTL_FIRED && flg s TB_ALARM_CTL_WAKE) hin hpf ?_ rfl
    rw [deep_true hdeep, hfired, hflg]
    rfl
  case wait =>
    obtain ⟨hdeep, hwait⟩ := hthere
    refine does_wake (b := decide (1 ≤ wakeState s) && decide (wakeState s ≤ 3) && waitWakes s) hin hpf ?_ rfl
    rw [deep_true hdeep, hwait]
    rfl
  case launch =>
    obtain ⟨hdeep, hlaunch⟩ := hthere
    refine does_wake (b := decide (1 ≤ wakeState s) && decide (wakeState s ≤ 3) && launchWakes s) hin hpf ?_ rfl
    rw [deep_true hdeep, hlaunch]
    rfl
  case reserve =>
    obtain ⟨hdeep, hflg, htrip⟩ := hthere
    refine does_wake (b := decide (1 ≤ wakeState s) && decide (wakeState s ≤ 3) && flg s PWR_WAKE_RSV && s.en.rsvTrip) hin hpf ?_ rfl
    rw [deep_true hdeep, hflg, htrip]
    rfl
  case doorbell =>
    refine does_wake (b := (decide (wakeState s = 1) || decide (wakeState s = 2)) || (decide (wakeState s = 3) && flg s PWR_WAKE_DB)) hin hpf ?_ rfl
    rcases hthere with hlight | ⟨hthree, hflg⟩
    · rw [light_true hlight, Bool.true_or]
    · rw [decide_eq_true hthree, hflg, Bool.and_true, Bool.or_true]
  case one =>
    intro hst
    obtain ⟨-, hpw, -⟩ := wake_light_shows hcur hexit hst hbit
    rw [hpw]
  case two =>
    intro hst
    obtain ⟨-, hpw, -⟩ := wake_deep_shows hcur hexit hst hbit
    rw [hpw]
  case cause =>
    intro hlo hhi
    have hcases : s.pw.st = 1 ∨ s.pw.st = 2 ∨ s.pw.st = 3 := by
      bv_omega
    rcases hcases with hst | hst
    · obtain ⟨-, -, hbits⟩ := wake_light_shows hcur hexit hst hbit
      exact hbits
    · obtain ⟨-, -, hbits⟩ := wake_deep_shows hcur hexit hst hbit
      exact hbits

end Sys2Proof.Machine
end

section
/-!
The course of a transition (R413 to R417, R421).
-/

namespace Sys2Proof.Machine

section
variable {s t : State} {x : EngTrans}

/-! ### The preparation goes on (R413, R415, R416) -/

/-- The handle that waits for a request's answer. -/
def srcHandle : ReqOf → Option Nat
  | .handle k => some k
  | _ => none

/-- The preparation of x is not refused. -/
abbrev CommitClear (x : EngTrans) (s : State) : Prop :=
  s.pw.cur = some x ∧ x.run = false ∧ s.pw.inReset = false ∧ engineRefuser s x.tgt.toNat (srcHandle x.src) = none

/-- What the preparation does next. -/
def commitStep (x : EngTrans) (s : State) : State :=
  match x.tgt.toNat with
  | 2 => commitNap x s
  | 3 => commitDeep x s
  | _ => commitOff x s

theorem commitEngine_clear (h : CommitClear x s) : commitEngine s = pwrStat (commitStep x s) := by
  obtain ⟨hcur, hrun, hin, href⟩ := h
  have hgo : ¬ (x.run || s.pw.inReset || (engineRefuser s x.tgt.toNat (srcHandle x.src)).isSome) = true := by
    rw [hrun, hin, href]
    decide
  unfold commitEngine
  rw [hcur]
  exact if_neg hgo

theorem does_commit (h : CommitClear x s) (hstep : commitStep x s = t) : Does s (.entryCommit .engine) (pwrStat t) :=
  (show exec (.entryCommit .engine) s = .next (settle (commitEngine s)) from rfl).trans
    (congrArg (fun t => Host.Outcome.next (settle t)) ((commitEngine_clear h).trans (congrArg pwrStat hstep)))

theorem commitStep_nap (htgt : x.tgt = 2) : commitStep x s = commitNap x s := by
  rw [commitStep, htgt]
  rfl

theorem commitStep_deep (htgt : x.tgt = 3) : commitStep x s = commitDeep x s := by
  rw [commitStep, htgt]
  rfl

theorem commitStep_off (htgt : x.tgt = 4) : commitStep x s = commitOff x s := by
  rw [commitStep, htgt]
  rfl

theorem commitNap_quiet (h : portsQuiet (closePorts s) = true) : commitNap x s =
    let nap := srcDone x.src 0 0 (rsvLoseAll (marchStop (closePorts s)))
    runTrans (lanesTo (fun _ => 1) ((livePorts nap).foldl (fun u p => srEnter p true false u) nap)) := by
  rw [commitNap]
  dsimp only
  rw [h, if_neg (by decide)]

theorem commitDeep_last (hsteps : 2 ≤ x.steps) (h : portsQuiet (closePorts s) = true) : commitDeep x s =
    let deep := emptyStaging (pushRecords (srcDone x.src 0 0 (rsvLoseAll (marchStop (closePorts s)))))
    runTrans ((livePorts deep).foldl (fun u p => srEnter p true true u) deep) := by
  have hquiet : ¬ (!portsQuiet (closePorts s)) = true := by
    rw [h]
    decide
  rw [commitDeep]
  generalize x.steps = n at hsteps
  match n, hsteps with
  | n + 2, _ => exact if_neg hquiet

theorem commitDeep_drained (hsteps : x.steps = 1) (h : drained s = true) : commitDeep x s = stepTrans 2 (saveImages (emptyStaging (drainEnd s))) := by
  rw [commitDeep, hsteps]
  exact if_pos h

theorem commitDeep_first (hsteps : x.steps = 0) : commitDeep x s =
    stepTrans 1 (drainLedger (((allFabs s).filter fun n => flg s FP_CTL_EN n).foldl (fun u n => clearTallies n u) s)) := by
  rw [commitDeep, hsteps]
  rfl

/-! ### An entry reaches its state (R415, R416, R421) -/

theorem CauseOn.pwrStat {c : Nat} (hc : c < 64) (h : CauseOn c s) : CauseOn c (pwrStat s) := by
  unfold Machine.pwrStat
  extract_lets prep run s1
  have hs1 : CauseOn c s1 := ((h.setFld hc (by decide) _).setFld hc (by decide) _).setFld hc (by decide) _
  split
  · exact (hs1.setFld hc (by decide) _).setFld hc (by decide) _
  · exact (hs1.setFld hc (by decide) _).setFld hc (by decide) _

theorem softNext_none (h : s.pw.softWait = false) : softNext s = s := by
  rw [softNext, h, Bool.false_and, Bool.false_and, if_neg Bool.false_ne_true]

/-- Nothing waits for the end of a transition. -/
theorem takePend_none (hpend : s.pw.pend = none) (hsoft : s.pw.softWait = false) : takePend s = pwrStat s := by
  unfold takePend
  rw [hpend]
  refine softNext_none ?_
  rw [pwrStat_pw]
  exact hsoft

/-- What an entry into E3 does to the lanes and the timebase. -/
def coasting (x : EngTrans) (s : State) : State :=
  if x.tgt = 3 then setFld TB_STAT_COAST 0 1 (lanesTo (fun p => if cx2 s p then 3 else 2) s) else s

/-- The state in force after an entry, with its cause. -/
def reached (x : EngTrans) (s : State) : State := raise 37 (pwrStat (modPw (fun w => { w with st := x.tgt, cur := none }) (coasting x s)))

theorem coasting_rest (x : EngTrans) (s : State) : RegsOnly s (coasting x s) := by
  rw [coasting]
  split
  · exact (lanesTo_regs_only _ s).setFld _ _ _
  · exact RegsOnly.refl s

theorem reached_pw (x : EngTrans) (s : State) : (reached x s).pw = { s.pw with st := x.tgt, cur := none } := by
  have h : { coasting x s with regs := s.regs } = s := coasting_rest x s
  have hpw : (coasting x s).pw = s.pw := (congrArg (fun t : State => t.pw) h :)
  rw [reached, raise_pw, pwrStat_pw, modPw, hpw]

theorem causeOn_reached (x : EngTrans) (s : State) : CauseOn 37 (reached x s) := causeOn_raise_same (by decide) _

theorem flg_reached_coast (htgt : x.tgt = 3) (s : State) : flg (reached x s) TB_STAT_COAST = true := by
  rw [flg, reached, fld_raise_high (by decide) (by decide), fld_pwrStat (by decide), coasting, if_pos htgt,
    show fld (modPw (fun w => { w with st := x.tgt, cur := none }) (setFld TB_STAT_COAST 0 1 (lanesTo (fun p => if cx2 s p then 3 else 2) s))) TB_STAT_COAST =
      fld (setFld TB_STAT_COAST 0 1 (lanesTo (fun p => if cx2 s p then 3 else 2) s)) TB_STAT_COAST from rfl, fld_setFld_same _ _ _ _ (by decide)]
  rfl

theorem entryReached_plain (hwake : x.wake = false) : entryReached x s = takePend (reached x s) := by
  rw [entryReached, hwake, if_neg Bool.false_ne_true]
  rfl

/-- A wake that came meanwhile starts the exit. -/
def reversed (x : EngTrans) (s : State) : State := modPw (fun w => { w with exit := some (w.st, s.clk) }) (addFld PWR_CNT_REVERSAL 0 1 (reached x s))

theorem entryReached_wake (hwake : x.wake = true) : entryReached x s = pwrStat (reversed x s) := by
  rw [entryReached, hwake, if_pos rfl]
  rfl

theorem flg_pwrStat_run (h : s.pw.exit.isSome = true) : flg (pwrStat s) PWR_STAT_RUN = true := by
  unfold pwrStat
  extract_lets prep run s1
  have hrun : run = true := by
    simp only [run, h, Bool.true_or]
  have hs1 : flg s1 PWR_STAT_RUN = true := by
    refine (flg_setFld_apart (by decide)).trans ((flg_setFld_apart (by decide)).trans ((flg_setFld_same _ _ _ _ (by decide)).trans ?_))
    rw [hrun]
    rfl
  split
  · exact (flg_setFld_apart (by decide)).trans ((flg_setFld_apart (by decide)).trans hs1)
  · exact (flg_setFld_apart (by decide)).trans ((flg_setFld_apart (by decide)).trans hs1)

/-! ### The end of an exit (R415, R417) -/

/-- E0 in force, before what waits begins. -/
def inRun (s : State) : State := raise 37 (active (pwrStat (modPw (fun w => { w with st := 0, exit := none }) s)))

theorem pwrStat_clk (s : State) : (pwrStat s).clk = s.clk := by
  have h : { pwrStat s with regs := s.regs } = s := pwrStat_regs_only s
  exact (congrArg (fun t : State => t.clk) h :)

theorem inRun_pw (s : State) : (inRun s).pw = { s.pw with st := 0, exit := none, activeAt := s.clk } := by
  have hst : (pwrStat (modPw (fun w => { w with st := 0, exit := none }) s)).pw.st ≠ 1 := by
    rw [pwrStat_pw]
    exact (by decide : (0 : BitVec 3) ≠ 1)
  rw [inRun, raise_pw, active_awake hst, pwrStat_pw, pwrStat_clk]
  rfl

theorem backInRun_plain (hpend : s.pw.pend = none) (hsoft : s.pw.softWait = false) : backInRun s = pwrStat (inRun s) := by
  have hpw := inRun_pw s
  refine takePend_none (s := inRun s) ?_ ?_
  · rw [hpw]
    exact hpend
  · rw [hpw]
    exact hsoft

/-! ### Ports (R423) -/

section
variable {n : Nat} {y : PortTrans}

theorem commitPort_off (hcur : (portPwr s n).cur = some y) (hrun : y.run = false) (hmove : portsMove s = true) (href : portRefuser s n y.op.toNat = none)
    (hquiet : portQuiet (closeAll n s) n = true) (hst : pstate s n = .service) (hop : y.op = 0) :
    commitPort n s = setPstate n .stopping (runPort n (endPortWork n (closeAll n s))) := by
  have hgo : ¬ (y.run || !portsMove s) = true := by
    rw [hrun, hmove]
    decide
  have hallow : ¬ (!portAllows (pstate s n) 0) = true := by
    rw [hst]
    decide
  rw [hop] at href
  have hfree : ¬ (portRefuser s n 0).isSome = true := by
    rw [show portRefuser s n 0 = none from href]
    decide
  unfold commitPort
  rw [hcur]
  refine (if_neg hgo).trans ?_
  rw [hop]
  refine (if_neg hallow).trans ((if_neg hfree).trans ?_)
  exact (if_pos hst).trans (if_pos hquiet)

theorem commitPort_selfRefresh (hcur : (portPwr s n).cur = some y) (hrun : y.run = false) (hmove : portsMove s = true)
    (href : portRefuser s n y.op.toNat = none) (hquiet : portQuiet (closeAll n s) n = true) (hst : pstate s n = .service) (hop : y.op = 2)
    (hser : serial n = false) : commitPort n s = transEnd n 0 0 (srEnter n true false (runPort n (closeAll n s))) := by
  have hgo : ¬ (y.run || !portsMove s) = true := by
    rw [hrun, hmove]
    decide
  have hallow : ¬ (!portAllows (pstate s n) 2) = true := by
    rw [hst]
    decide
  rw [hop] at href
  have hfree : ¬ (portRefuser s n 2).isSome = true := by
    rw [show portRefuser s n 2 = none from href]
    decide
  have hnot : ¬ (!portQuiet (closeAll n s) n) = true := by
    rw [hquiet]
    decide
  unfold commitPort
  rw [hcur]
  refine (if_neg hgo).trans ?_
  rw [hop]
  refine (if_neg hallow).trans ((if_neg hfree).trans ((if_neg hnot).trans ?_))
  dsimp only
  rw [hser, if_neg Bool.false_ne_true]

end

theorem does_reached (hcur : s.pw.cur = some x) (hrun : x.run = true) (hin : s.pw.inReset = false) (hend : entryReached x s = t) :
    Does s .stateReached t := by
  have hgo : (x.run && !s.pw.inReset) = true := by
    rw [hrun, hin]
    rfl
  refine (show exec .stateReached s = execStateReached s from rfl).trans ?_
  unfold execStateReached
  rw [hcur]
  exact congrArg (fun t => Host.Outcome.next (settle t)) ((if_pos hgo).trans hend)

/-- What the limit of a preparation does to the engine's transition, where a refuser with this code is there or none. -/
def prepOver (x : EngTrans) (refuser : Option Nat) (s : State) : State :=
  match refuser with
  | some code => if !x.run && decide (x.start + fld s PWR_CTL_PREP * edgesUs ≤ s.clk) then softNext (refusePrep code false s) else s
  | none => s

theorem exec_prepTimeout_engine (hcur : s.pw.cur = some x) :
    exec (.prepTimeout .engine) s = .next (settle (prepOver x (engineRefuser s x.tgt.toNat (srcHandle x.src)) s)) := by
  refine (show exec (.prepTimeout .engine) s = execPrepTimeout .engine s from rfl).trans ?_
  unfold execPrepTimeout
  dsimp only
  rw [hcur]
  rfl

end

/-- Settles O47: each stage of a transition is one step lemma, and a transition that nothing follows ends in the state it shows. -/
theorem engineCommits : Obligations.EngineCommits := by
  unfold Obligations.EngineCommits
  intro s x p d n own clear shut running steps nap deep quiet late there
  have hown : own = srcHandle x.src := rfl
  have hrunning : running = runTrans := rfl
  have hsteps : steps = stepTrans := rfl
  refine ⟨fun hclear htgt hquiet => ?nap, fun hclear htgt hstep => ?first, fun hclear htgt hstep hdrained => ?drain,
    fun hclear htgt hstep hquiet => ?deep, fun hclear htgt hstep => ?offFirst, fun hclear htgt hstep hdrained => ?off,
    fun a hdom href hin => ?domain, fun y hcur hrun hmove href hquiet hst => ⟨fun hop => ?portOff, fun hop hser => ?portSelf⟩,
    fun hcur hrun hin hwake hpend hsoft => ?reached, fun hcur hrun hin hwake => ?wakes, fun a hcur hexit hdue => ?exit2, fun a hexit hdue => ?exit3,
    fun hpend hsoft => ?back, fun code hcur hrun href hlate => ?lateEngine, fun y code hcur hrun href hlate => ?latePort,
    fun a code hdom href hlate => ?lateDomain⟩
  case nap =>
    rw [hrunning]
    exact does_commit hclear ((commitStep_nap htgt).trans (commitNap_quiet hquiet))
  case first =>
    rw [hsteps]
    exact does_commit hclear ((commitStep_deep htgt).trans (commitDeep_first hstep))
  case drain =>
    rw [hsteps]
    exact does_commit hclear ((commitStep_deep htgt).trans (commitDeep_drained hstep hdrained))
  case deep =>
    rw [hrunning]
    exact does_commit hclear ((commitStep_deep htgt).trans (commitDeep_last hstep hquiet))
  case offFirst =>
    rw [hsteps]
    exact does_commit hclear ((commitStep_off htgt).trans (if_pos hstep))
  case off => exact does_commit hclear ((commitStep_off htgt).trans ((if_neg hstep).trans (if_pos hdrained)))
  case domain =>
    have hgo : ¬ ((domRefuser s d.val).isSome || s.pw.inReset) = true := by
      rw [href, hin]
      decide
    refine (show exec (.entryCommit (.domain d)) s = execEntryCommit (.domain d) s from rfl).trans ?_
    unfold execEntryCommit
    dsimp only
    rw [hdom]
    exact congrArg (fun t => Host.Outcome.next (settle t)) (if_neg hgo)
  case portOff => exact congrArg (fun t => Host.Outcome.next (settle t)) (commitPort_off hcur hrun hmove href hquiet hst hop)
  case portSelf => exact congrArg (fun t => Host.Outcome.next (settle t)) (commitPort_selfRefresh hcur hrun hmove href hquiet hst hop hser)
  case reached =>
    have hpw := reached_pw x s
    have htake : entryReached x s = pwrStat (reached x s) := by
      rw [entryReached_plain hwake, takePend_none (by rw [hpw]; exact hpend) (by rw [hpw]; exact hsoft)]
    refine ⟨_, does_reached hcur hrun hin htake, ?_, ?_, ?_, ?_, (causeOn_reached x s).pwrStat (by decide), fun htgt => ?_⟩
    · rw [pwrStat_pw, hpw]
    · rw [pwrStat_pw, hpw]
    · rw [pwrStat_pw, hpw]
    · rw [fld_pwrStat_state, hpw]
    · rw [flg, fld_pwrStat (by decide)]
      exact flg_reached_coast htgt s
  case wakes =>
    have hexit : (reversed x s).pw = { (reached x s).pw with exit := some ((reached x s).pw.st, s.clk) } := rfl
    rw [reached_pw] at hexit
    refine ⟨_, does_reached hcur hrun hin (entryReached_wake hwake), ?_, ?_, ?_, flg_pwrStat_run (by rw [hexit]; rfl)⟩
    · rw [pwrStat_pw, hexit]
    · rw [pwrStat_pw, hexit]
    · rw [pwrStat_pw, hexit]
  case exit2 =>
    have hgo : (decide ((2 : BitVec 3) = 2) && decide (a + engineW s 2 ≤ s.clk)) = true := by
      rw [decide_eq_true hdue]
      rfl
    refine (show exec .stateReached s = execStateReached s from rfl).trans ?_
    unfold execStateReached
    rw [hcur, hexit]
    exact congrArg (fun t => Host.Outcome.next (settle t)) (if_pos hgo)
  case exit3 =>
    have hgo : ¬ (decide ((3 : BitVec 3) ≠ 3) || decide (s.clk < a + engineW s 3)) = true := by
      rw [decide_eq_false (Nat.not_lt.mpr hdue)]
      decide
    refine (show exec .e3ExitDone s = execE3ExitDone s from rfl).trans ?_
    unfold execE3ExitDone
    rw [hexit]
    exact congrArg (fun t => Host.Outcome.next (settle t)) (if_neg hgo)
  case back =>
    have hpw := inRun_pw s
    rw [backInRun_plain hpend hsoft, pwrStat_pw, hpw]
    exact ⟨rfl, rfl, (show CauseOn 37 (inRun s) from causeOn_raise_same (by decide) _).pwrStat (by decide)⟩
  case lateEngine =>
    have hgo : (!x.run && decide (x.start + fld s PWR_CTL_PREP * edgesUs ≤ s.clk)) = true := by
      rw [hrun, decide_eq_true hlate]
      rfl
    rw [hown] at href
    refine (exec_prepTimeout_engine hcur).trans ?_
    rw [href]
    exact congrArg (fun t => Host.Outcome.next (settle t)) (if_pos hgo)
  case latePort =>
    have hgo : (!y.run && decide (y.start + fld s PWR_CTL_PREP * edgesUs ≤ s.clk)) = true := by
      rw [hrun, decide_eq_true hlate]
      rfl
    refine (show exec (.prepTimeout (.port p)) s = execPrepTimeout (.port p) s from rfl).trans ?_
    unfold execPrepTimeout
    dsimp only
    rw [hcur]
    dsimp only
    rw [href]
    exact congrArg (fun t => Host.Outcome.next (settle t)) (if_pos hgo)
  case lateDomain =>
    refine (show exec (.prepTimeout (.domain d)) s = execPrepTimeout (.domain d) s from rfl).trans ?_
    unfold execPrepTimeout
    dsimp only
    rw [hdom, href]
    exact congrArg (fun t => Host.Outcome.next (settle t)) (if_pos (decide_eq_true hlate))

end Sys2Proof.Machine
end

section
/-!
Software-switchable domains (R409, R410, R414, R431).
-/

namespace Sys2Proof.Machine

section
variable {s : State} {v : Word}

theorem next_settle {a b : State} (h : a = b) : (Host.Outcome.next (settle a) : Out) = .next (settle b) := by rw [h]

/-- The domains of Table 15.2 that PWR_DREQ switches. -/
abbrev switchable : List Nat := [41, 43, 44, 45, 46, 48, 49]

/-- A write of PWR_DREQ with GO set, where the engine takes it. -/
abbrev DomAsks (v : Word) (s : State) : Prop := v.getLsbD 31 = true ∧ s.pw.inReset = false ∧ s.pw.st.toNat ≤ 3

theorem DomAsks.taken (h : DomAsks v s) : ¬ (!v.getLsbD 31 || s.pw.inReset || decide (s.pw.st.toNat > 3)) = true := by
  obtain ⟨hgo, hin, hst⟩ := h
  rw [hgo, hin, decide_eq_false (Nat.not_lt.mpr hst)]
  decide

/-- A request of a switched domain that is implemented, outside a power-fail sequence. -/
abbrev DomMay (v : Word) (s : State) : Prop :=
  DomAsks v s ∧ bits v.toNat 0 6 ∈ switchable ∧ domImpl s.part.variant (bits v.toNat 0 6) = true ∧ s.en.pf = .none

/-- What such a request does, by its direction and the domain's state. -/
def domSwitch (on : Bool) (now : DomSt) (k : Nat) (s : State) : State :=
  match on, now with
  | true, .prep _ => modDom k .on (addFld PWR_CNT_SUPERSEDED 0 1 s)
  | true, .off => modDom k (.rising (s.clk + riseEdges s.part.variant k) false) s
  | true, .rising t true => modDom k (.rising t false) (addFld PWR_CNT_SUPERSEDED 0 1 s)
  | false, .on => modDom k (.prep s.clk) s
  | false, .rising t false => modDom k (.rising t true) s
  | _, _ => s

theorem domReq_may (h : DomMay v s) {on : Bool} {now : DomSt} (hdir : v.getLsbD 6 = on) (hnow : mgetD s.pw.doms (bits v.toNat 0 6) DomSt.on = now) :
    domReq v s = domSwitch on now (bits v.toNat 0 6) s := by
  rw [← hdir, ← hnow]
  obtain ⟨hasks, hlisted, himpl, hpf⟩ := h
  have hmem : ¬ (!switchable.contains (bits v.toNat 0 6)) = true := by
    rw [List.contains_iff_mem.mpr hlisted]
    decide
  have hthere : ¬ (!domImpl s.part.variant (bits v.toNat 0 6)) = true := by
    rw [himpl]
    decide
  exact (if_neg hasks.taken).trans ((if_neg hmem).trans ((if_neg hthere).trans (if_neg (not_not.mpr hpf))))

theorem domReq_unlisted (hasks : DomAsks v s) (h : bits v.toNat 0 6 ∉ switchable) : domReq v s = reject 0x40038 1 s := by
  have hmem : (!switchable.contains (bits v.toNat 0 6)) = true := by
    rw [Bool.not_eq_true', ← Bool.not_eq_true, List.contains_iff_mem]
    exact h
  exact (if_neg hasks.taken).trans (if_pos hmem)

theorem domReq_absent (hasks : DomAsks v s) (h : bits v.toNat 0 6 ∈ switchable) (himpl : domImpl s.part.variant (bits v.toNat 0 6) = false) :
    domReq v s = reject 0x40038 5 s := by
  have hmem : ¬ (!switchable.contains (bits v.toNat 0 6)) = true := by
    rw [List.contains_iff_mem.mpr h]
    decide
  have hthere : (!domImpl s.part.variant (bits v.toNat 0 6)) = true := by
    rw [himpl]
    rfl
  exact (if_neg hasks.taken).trans ((if_neg hmem).trans (if_pos hthere))

/-! ### A domain goes off (R409, R410) -/

theorem domOff_pw (d : Nat) (s : State) : (domOff d s).pw = (modDom d .off s).pw := by
  unfold domOff
  split_ifs
  · rfl
  · rfl
  · rfl

theorem mget_domOff (d : Nat) (s : State) : mget (domOff d s).pw.doms d = some .off := by
  rw [domOff_pw]
  exact (mget_mput _ _ _ _).trans (if_pos rfl)

/-- A domain that goes off loses the ledger or the scratchpad that it holds, and nothing else. -/
theorem domOff_contents (d : Nat) (s : State) : (d = 49 → (domOff d s).spad = [] ∧ (domOff d s).spadBad = []) ∧
    (d = 41 → (domOff d s).home.ledger = []) ∧ (d ≠ 49 → (domOff d s).spad = s.spad) ∧ (domOff d s).dram = s.dram := by
  unfold domOff
  split_ifs with hhome hspad
  · exact ⟨fun h => absurd (hhome.symm.trans h) (by decide), fun _ => rfl, fun _ => rfl, rfl⟩
  · exact ⟨fun _ => ⟨rfl, rfl⟩, fun h => absurd h hhome, fun h => absurd hspad h, rfl⟩
  · exact ⟨fun h => absurd h hspad, fun h => absurd h hhome, fun _ => rfl, rfl⟩

end

/-- Settles O48: a request is the switch of its direction and the domain's state. -/
theorem domains : Obligations.Domains := by
  unfold Obligations.Domains
  intro s v d k listed asks now may off
  have hon : exec (.domainOn v) s = .next (settle (domReq v s)) := rfl
  have hoff : exec (.domainOff v) s = .next (settle (domReq v s)) := rfl
  refine ⟨fun hmay hdir hnow => ?rises, fun a hmay hdir hnow => ?stays, fun hmay hdir hnow => ?prepares, fun a hmay hdir hnow => ?falls,
    fun hasks hnot => ?unlisted, fun hasks hlisted himpl => ?absent, fun a hdom hdue hin => ?done, ⟨?state, ?soft, ?contents⟩,
    fun hin hgo => ?clear⟩
  case rises => exact hon.trans (next_settle (domReq_may hmay hdir hnow))
  case stays => exact hon.trans (next_settle (domReq_may hmay hdir hnow))
  case prepares => exact hoff.trans (next_settle (domReq_may hmay hdir hnow))
  case falls => exact hoff.trans (next_settle (domReq_may hmay hdir hnow))
  case unlisted =>
    have hgoes := next_settle (domReq_unlisted hasks hnot)
    exact ⟨hon.trans hgoes, hoff.trans hgoes⟩
  case absent =>
    have hgoes := next_settle (domReq_absent hasks hlisted himpl)
    exact ⟨hon.trans hgoes, hoff.trans hgoes⟩
  case done =>
    have hgo : ¬ (decide (s.clk < a) || s.pw.inReset) = true := by
      rw [hin, decide_eq_false (Nat.not_lt.mpr hdue)]
      decide
    have hhome : (d.val = 41) = (d = 41) := propext ⟨fun h => Fin.ext h, fun h => congrArg Fin.val h⟩
    refine (show exec (.domainOnDone d) s = execDomainOnDone d s from rfl).trans ?_
    unfold execDomainOnDone
    rw [hdom]
    refine next_settle ((if_neg hgo).trans ?_)
    simp only [hhome]
    rfl
  case state =>
    rw [mgetD, mget_domOff]
    rfl
  case soft =>
    rw [softOn, mget_domOff]
  case contents =>
    obtain ⟨hspad, hledger, hkept, hdram⟩ := domOff_contents d.val s
    exact ⟨fun h => hspad (congrArg Fin.val h), fun h => hledger (congrArg Fin.val h), fun h => hkept fun hval => h (Fin.ext hval), hdram⟩
  case clear =>
    refine ⟨setWord 0x40028 0 (setFld PWR_REF_CNT 0 0 s), ?_, ?_, ?_, ?_⟩
    · refine (show exec (.pwrCntClear v) s = execPwrCntClear v s from rfl).trans ?_
      rw [execPwrCntClear, hgo, hin, if_neg (by decide)]
    · rw [fld_setWord_ne _ _ _ _ _ (by decide), fld_setFld_same _ _ _ _ (by decide)]
      rfl
    · rw [regAt_setWord, if_pos rfl]
      rfl
    · rw [fld_setWord_ne _ _ _ _ _ (by decide), fld_setFld_apart (by decide)]

end Sys2Proof.Machine
end

section
/-!
Port transitions (R422, R423, R428, R347).
-/

namespace Sys2Proof.Machine

section
variable {s t : State} {n op : Nat}

/-! ### What shows a port's transitions (R423) -/

theorem ppStat_regs_only (n : Nat) (s : State) : RegsOnly s (ppStat n s) := by
  unfold ppStat
  extract_lets x waiting run s1
  have hs1 : RegsOnly s s1 := RegsOnly.refl s
  clear_value waiting s1
  split
  · exact (hs1.setFld _ _ _).setFld _ _ _
  · exact (hs1.setFld _ _ _).setFld _ _ _

theorem ppStat_pw (n : Nat) (s : State) : (ppStat n s).pw = s.pw := by
  have h : { ppStat n s with regs := s.regs } = s := ppStat_regs_only n s
  exact (congrArg (fun t : State => t.pw) h :)

theorem fld_ppStat {f : Fld} (h : f.Apart PP_STAT_RUN ∧ f.Apart PP_STAT_PENDV ∧ f.Apart PP_STAT_PEND) (n : Nat) (s : State) :
    fld (ppStat n s) f n = fld s f n := by
  obtain ⟨hrun, hpendv, hpend⟩ := h
  unfold ppStat
  extract_lets x waiting run s1
  have hs1 : fld s1 f n = fld s f n := fld_setFld_apart hrun
  clear_value waiting s1
  split
  · rw [fld_setFld_apart hpendv, fld_setFld_apart hpend, hs1]
  · rw [fld_setFld_apart hpendv, fld_setFld_apart hpend, hs1]

theorem pstate_of_fields (hser : fld t SP_STAT_STATE n = fld s SP_STAT_STATE n) (hpar : fld t DP_STAT_STATE n = fld s DP_STAT_STATE n) :
    pstate t n = pstate s n := by
  rw [pstate, pstate, hser, hpar]

theorem portPwr_setPortPwr (n : Nat) (x : PortPwr) (s : State) : portPwr (setPortPwr n x s) n = x := by
  change mgetD (mput s.pw.ports n x) n {} = x
  rw [mgetD, mget_mput, if_pos rfl]
  rfl

theorem portPwr_congr (h : t.pw = s.pw) : portPwr t n = portPwr s n := by rw [portPwr, portPwr, h]

/-- A transition is placed in preparation. -/
def placed (n : Nat) (x : PortTrans) (s : State) : State := ppStat n (setPortPwr n { portPwr s n with cur := some x } s)

theorem cur_placed (n : Nat) (x : PortTrans) (s : State) : (portPwr (placed n x s) n).cur = some x := by
  rw [placed, portPwr_congr (ppStat_pw n _), portPwr_setPortPwr]

theorem pstate_placed (n : Nat) (x : PortTrans) (s : State) : pstate (placed n x s) n = pstate s n :=
  pstate_of_fields (fld_ppStat (by decide) n _) (fld_ppStat (by decide) n _)

theorem portsMove_placed (n : Nat) (x : PortTrans) (s : State) : portsMove (placed n x s) = portsMove s := by
  have h : { placed n x s with regs := s.regs } = setPortPwr n { portPwr s n with cur := some x } s := ppStat_regs_only n _
  have hen : (placed n x s).en = s.en := (congrArg (fun t : State => t.en) h :)
  rw [portsMove, hen, placed, ppStat_pw]
  rfl

theorem flg_pendv_placed {x : PortTrans} (hrun : x.run = false) (s : State) : flg (placed n x s) PP_STAT_PENDV n = true := by
  have hcur : (portPwr (setPortPwr n { portPwr s n with cur := some x } s) n).cur = some x := by rw [portPwr_setPortPwr]
  rw [placed]
  generalize setPortPwr n { portPwr s n with cur := some x } s = z at hcur
  unfold ppStat
  extract_lets y waiting run s1
  have hwaiting : waiting.isSome = true := by
    simp only [waiting, y, hcur]
    split
    · rfl
    · simp [hrun]
  clear_value waiting
  match waiting, hwaiting with
  | some _, _ => exact flg_setFld_same _ _ _ _ (by decide)

/-! ### Requests (R422, R423) -/

/-- A request for a port transition as it arrives. -/
def portAsk (op : Nat) (s : State) : PortTrans := { op := BitVec.ofNat 3 op, src := .reg, start := s.clk }

/-- The engine takes port requests, and no transition of port n is under way. -/
abbrev PortFree (n : Nat) (s : State) : Prop := s.pw.inReset = false ∧ s.en.pf = .none ∧ s.pw.st.toNat ≤ 1 ∧ (portPwr s n).cur = none

theorem portReq_refused (h : PortFree n s) (hallow : portAllows (pstate s n) op = false) : portReq n op .reg s = s := by
  obtain ⟨hin, hpf, hst, hcur⟩ := h
  have htaken : ¬ (s.pw.inReset || decide (s.pw.st.toNat > 3)) = true := by
    rw [hin, decide_eq_false (by omega)]
    decide
  have hno : (!portAllows (pstate s n) op) = true := by
    rw [hallow]
    rfl
  exact (if_neg htaken).trans ((if_neg (not_not.mpr hpf)).trans (if_pos hno))

theorem portReq_placed (h : PortFree n s) (hallow : portAllows (pstate s n) op = true) (hrev : op = 1 → pstate s n ≠ .stopping) :
    portReq n op .reg s = if op = 0 || op = 2 then placed n (portAsk op s) s else commitPort n (placed n (portAsk op s) s) := by
  obtain ⟨hin, hpf, hst, hcur⟩ := h
  have htaken : ¬ (s.pw.inReset || decide (s.pw.st.toNat > 3)) = true := by
    rw [hin, decide_eq_false (by omega)]
    decide
  have hyes : ¬ (!portAllows (pstate s n) op) = true := by
    rw [hallow]
    decide
  have hkept (u : State) (hu : u.regs = s.regs) :
      (if (decide (op = 1) && decide (pstate u n = .stopping)) = true then addFld PP_STAT_REVERSALS n 1 u else u) = u := by
    refine if_neg ?_
    rw [Bool.and_eq_true, decide_eq_true_eq, decide_eq_true_eq, pstate_congr hu]
    exact fun ⟨hop, hstop⟩ => hrev hop hstop
  refine (if_neg htaken).trans ((if_neg (not_not.mpr hpf)).trans ((if_neg hyes).trans ?_))
  rw [hcur]
  dsimp only
  rw [hkept (setPortPwr n _ s) rfl]
  rfl

theorem portReq_prepares (h : PortFree n s) (hallow : portAllows (pstate s n) op = true) (hop : op = 0 ∨ op = 2) :
    portReq n op .reg s = placed n (portAsk op s) s := by
  have hone : op = 1 → pstate s n ≠ .stopping := by
    rintro rfl
    rcases hop with h | h
    · exact absurd h (by decide)
    · exact absurd h (by decide)
  rw [portReq_placed h hallow hone, if_pos]
  rcases hop with rfl | rfl
  · rfl
  · rfl

theorem portReq_commits (h : PortFree n s) (hallow : portAllows (pstate s n) op = true) (hrev : op = 1 → pstate s n ≠ .stopping)
    (hop : op ≠ 0 ∧ op ≠ 2) : portReq n op .reg s = commitPort n (placed n (portAsk op s) s) := by
  obtain ⟨hzero, htwo⟩ := hop
  rw [portReq_placed h hallow hrev, decide_eq_false hzero, decide_eq_false htwo]
  rfl

/-- A transition in preparation goes on where no deep state keeps it. -/
theorem commit_passes {x : PortTrans} (hrun : x.run = false) (hmove : portsMove s = true) : ¬ (x.run || !portsMove s) = true := by
  rw [hrun, hmove]
  decide

section
variable {x : PortTrans} (hcur : (portPwr s n).cur = some x) (hrun : x.run = false) (hmove : portsMove s = true)
include hcur hrun hmove

theorem commitPort_on (hop : x.op = 1) (hst : pstate s n = .off) : commitPort n s = portStart n .cold false (runPort n s) := by
  have hallow : ¬ (!portAllows (pstate s n) 1) = true := by
    rw [hst]
    decide
  unfold commitPort
  rw [hcur]
  refine (if_neg (commit_passes hrun hmove)).trans ?_
  rw [hop]
  exact (if_neg hallow).trans ((if_neg Bool.false_ne_true).trans (if_pos hst))

theorem commitPort_wake (hop : x.op = 3) (hst : pstate s n = .selfRefresh) (hser : serial n = false) :
    commitPort n s = transEnd n 0 0 (srExit n (runPort n s)) := by
  have hallow : ¬ (!portAllows (pstate s n) 3) = true := by
    rw [hst]
    decide
  unfold commitPort
  rw [hcur]
  refine (if_neg (commit_passes hrun hmove)).trans ?_
  rw [hop]
  refine (if_neg hallow).trans ((if_neg Bool.false_ne_true).trans ((if_pos hst).trans ?_))
  dsimp only
  rw [hser, if_neg Bool.false_ne_true]

theorem commitPort_reset (hop : x.op = 4) : commitPort n s =
    if pstate s n = .off then transEnd n 0 0 (runPort n s) else transEnd n 0 0 (portResetNow n (runPort n s)) := by
  unfold commitPort
  rw [hcur]
  refine (if_neg (commit_passes hrun hmove)).trans ?_
  rw [hop]
  exact (if_neg Bool.false_ne_true).trans (if_neg Bool.false_ne_true)

end

/-! ### A port that is down (R408, R422) -/

/-- A port without its DIMMs' contents, in OFF. -/
def portOffed (n : Nat) (s : State) : State := setPstate n .off (setShed n 0 (loseDimms n (fun _ => true) s))

theorem dram_portOffed (n : Nat) (s : State) : (portOffed n s).dram = (loseDimms n (fun _ => true) s).dram := by
  unfold portOffed setPstate setShed
  split
  · rfl
  · rfl

theorem pstate_portOffed (n : Nat) (s : State) : pstate (portOffed n s) n = .off := pstate_setPstate (Or.inr (by decide)) _

theorem shedSet_portOffed (n : Nat) (s : State) : shedSet (portOffed n s) n = 0 := by
  unfold shedSet portOffed setPstate setShed
  split
  · rw [fld_setFld_apart (by decide), fld_setFld_same _ _ _ _ (by decide)]
    rfl
  · rw [fld_setFld_apart (by decide), fld_setFld_same _ _ _ _ (by decide)]
    rfl

/-- The registers of a serial port whose signals rest. -/
def linkRests (n : Nat) (s : State) : State :=
  setFld SL_STAT_WIDTH n 0 (setFld SL_STAT_LSTATE n 3 (setFld SL_STAT_RXLOCK n 0 (setFld SL_STAT_SPARE n 0
    (setFld SL_LANE_RX_MAP n 0xFFFFFFFF (setFld SL_LANE_TX_MAP n 0xFFFFFFFF (setFld TS_THETA_ALIGNED n 0
      (modMarks n (fun m => { m with t1 := none, lead := 0, leadNew := none, realign := false }) s)))))))

/-- The units of a port that is off. -/
def portRests (n : Nat) (s : State) : State :=
  modDram n (fun d => { d with enable := .none, pwrEn := none, prEnBall := false, drstN := false, dck := false, srAt := none,
                               srCmd := false, alertAt := none, alertRise := none, holdReq := false, modeRegs := [] })
    (modSched n (fun q => { q with subs := [], ranks := [], raa := [], pauses := [], pause := none }) s)

theorem portDown_eq (n : Nat) (s : State) :
    portDown n s = if serial n then linkRests n (portRests n (portOffed n s)) else portRests n (portOffed n s) := rfl

theorem fld_linkRests {f : Fld} (h : ∀ g ∈ [SL_STAT_WIDTH, SL_STAT_LSTATE, SL_STAT_RXLOCK, SL_STAT_SPARE, SL_LANE_RX_MAP, SL_LANE_TX_MAP,
    TS_THETA_ALIGNED], f.Apart g) (n : Nat) (s : State) : fld (linkRests n s) f n = fld s f n := by
  simp only [List.forall_mem_cons] at h
  obtain ⟨hwidth, hlstate, hlock, hspare, hrx, htx, haligned, -⟩ := h
  rw [linkRests, fld_setFld_apart hwidth, fld_setFld_apart hlstate, fld_setFld_apart hlock, fld_setFld_apart hspare, fld_setFld_apart hrx,
    fld_setFld_apart htx, fld_setFld_apart haligned]
  rfl

theorem fld_portDown {f : Fld} (h : ∀ g ∈ [SL_STAT_WIDTH, SL_STAT_LSTATE, SL_STAT_RXLOCK, SL_STAT_SPARE, SL_LANE_RX_MAP, SL_LANE_TX_MAP,
    TS_THETA_ALIGNED], f.Apart g) (n : Nat) (s : State) : fld (portDown n s) f n = fld (portOffed n s) f n := by
  rw [portDown_eq]
  split
  · exact (fld_linkRests h n _).trans rfl
  · rfl

theorem dram_portRests (n : Nat) (s : State) : (portRests n s).dram = s.dram := rfl

theorem dram_setFld (f : Fld) (i v : Nat) (s : State) : (setFld f i v s).dram = s.dram := rfl

theorem dram_modMarks (n : Nat) (g : Marks → Marks) (s : State) : (modMarks n g s).dram = s.dram := rfl

theorem dram_linkRests (n : Nat) (s : State) : (linkRests n s).dram = s.dram := by
  simp only [linkRests, dram_setFld, dram_modMarks]

/-- A port that is down is off, sheds nothing, and has lost its bytes. -/
theorem portDown_shows (n : Nat) (s : State) : pstate (portDown n s) n = .off ∧ shedSet (portDown n s) n = 0 ∧
    (portDown n s).dram = (loseDimms n (fun _ => true) s).dram := by
  refine ⟨?_, ?_, ?_⟩
  · rw [pstate_of_fields (fld_portDown (by decide) n s) (fld_portDown (by decide) n s), pstate_portOffed]
  · rw [shedSet, fld_portDown (by decide), fld_portDown (by decide)]
    exact shedSet_portOffed n s
  · rw [← dram_portOffed, portDown_eq]
    split
    · rw [dram_linkRests, dram_portRests]
    · rw [dram_portRests]

theorem byteAt_loseDimms {b : Nat} (hlo : dkey n 0 ≤ b) (hhi : b < dkey (n + 1) 0) (s : State) : byteAt (loseDimms n (fun _ => true) s).dram b = 0 := by
  have hport : b / 2 ^ 41 = n := by
    simp only [dkey] at hlo hhi
    omega
  have hdrop (a : Byte) : (!(decide (b / 2 ^ 41 = n) && true)) = false := by
    rw [decide_eq_true hport]
    rfl
  have hnone : mget (loseDimms n (fun _ => true) s).dram b = none := mget_filter_of_drops hdrop s.dram
  rw [byteAt, mgetD, hnone]
  rfl

/-- A register's request of an implemented port, outside E2 and E3. -/
theorem does_portReg {p : Fin 20} {i : Instr} (h : PortHere s p ∧ PortFree p.val s)
    (hi : exec i s = .next (settle (portFrom p.val op .reg s))) : exec i s = .next (settle (portReq p.val op .reg s)) := by
  obtain ⟨hhere, -, -, hst, -⟩ := h
  have hdeep : (decide (s.pw.st.toNat = 2) || decide (s.pw.st.toNat = 3)) = false := by
    rw [decide_eq_false (by omega), decide_eq_false (by omega)]
    rfl
  rw [hi, portFrom, hhere, if_pos rfl, hdeep, if_neg Bool.false_ne_true]

/-- A handle's request of a port starts as a request of its own. -/
theorem portFrom_handle {h : BitVec 12} (hstart : mayStart s h.toNat 0xB = true) (hport : bits (argN (handleOf s h.toNat) 1) 0 5 = n)
    (hop : bits (argN (handleOf s h.toNat) 1) 8 4 = op) : portFrom n op (.handle h) s = portReq n op (.handle h.toNat) (started h s) := by
  rw [portFrom, hostPortPower, hport, hop, decide_eq_true rfl, decide_eq_true rfl, Bool.true_and, if_pos rfl, hostCommand_started hstart]

/-- PPWR on a port that is there, in a state that allows the transition. -/
theorem takes_ppwr {p : Fin 20} {c : Fin 4} {rd ra : BitVec 5} {i : Instr} (hmay : MayControl s c) (hv : (gpr (ctxOf s c.val) ra).toNat = p.val)
    (himpl : portImpl s.part.variant p.val = true) (hallow : portAllows (pstate s p.val) op = true) (hdram : fromDram s c.val = false)
    (hpf : s.en.pf = .none) (hi : exec i s = .next (settle (lantPort c rd ra 0 0 p.val op s))) :
    Takes s c i (encR 0x33 rd ra 0 0 (BitVec.ofNat 4 op) 4) fun w t => t = retireWith c.val rd 0 (portReq p.val op (.lant c) w) := by
  have hq : bits p.val 0 5 = p.val := by
    rw [bits, Nat.shiftRight_zero]
    exact Nat.mod_eq_of_lt (Nat.lt_trans p.isLt (by decide))
  have hhere : ¬ (decide (p.val < 20) && decide (p.val ≠ p.val)) = true := by simp
  unfold lantPort at hi
  rw [hv] at hi
  dsimp only at hi
  rw [hq, if_neg hhere] at hi
  refine takes_control (f := portReq p.val op (.lant c)) hmay hi ?_ rfl
  have hport : decide (20 ≤ p.val) = false := decide_eq_false (Nat.not_le.mpr p.isLt)
  have hwide : decide (2 ^ 12 ≤ p.val) = false := decide_eq_false (Nat.not_le.mpr (Nat.lt_trans p.isLt (by decide)))
  rw [issued_part, himpl, pstate_issued, hallow, fromDram_issued, hdram, en_issued, hpf, Bool.not_true, Bool.and_false, Bool.and_false, Bool.false_and]
  simp only [ge_iff_le, hport, hwide]
  rfl

end

/-- Settles O49: a request is placed in preparation, and goes on at once where its kind needs none. -/
theorem portTransitions : Obligations.PortTransitions := by
  unfold Obligations.PortTransitions
  intro s p h c rd ra n k u free put prepares refused a host v ppwr src
  obtain ⟨hdown, hshed, hdram⟩ := portDown_shows n s
  refine ⟨fun hfree hallow => ?off, fun hfree hallow => ?self, fun hfree hallow => ?noOff, fun hfree hallow => ?noOn, fun hfree hallow => ?noSelf,
    fun hfree hallow => ?noWake, fun hfree hmove hst => ?on, fun hfree hmove hst hser => ?wake, fun hfree hmove hst => ?resetOff,
    fun hfree hmove hst => ?reset, ⟨?cur, ?pendv, ?bytes⟩, fun hstart hport hop => ?host0, fun hstart hport hop => ?host1,
    fun hstart hport hop => ?host2, fun hstart hport hop => ?host3, fun hstart hport hop => ?host4, fun hmay hv himpl hallow hdram hpf => ?lant0,
    fun hmay hv himpl hallow hdram hpf => ?lant1, fun hmay hv himpl hallow hdram hpf => ?lant2, fun hmay hv himpl hallow hdram hpf => ?lant3,
    fun hmay hv himpl hallow hdram hpf => ?lant4, fun hhere hst => ?stopping, ⟨?down, ?shed, ?empty⟩⟩
  case off => exact (does_portReg (i := .portOff p .reg) (op := 0) hfree rfl).trans (next_settle (portReq_prepares hfree.2 hallow (Or.inl rfl)))
  case self => exact (does_portReg (i := .portSelfRefresh p .reg) (op := 2) hfree rfl).trans (next_settle (portReq_prepares hfree.2 hallow (Or.inr rfl)))
  case noOff => exact (does_portReg (i := .portOff p .reg) (op := 0) hfree rfl).trans (next_settle (portReq_refused hfree.2 hallow))
  case noOn => exact (does_portReg (i := .portOn p .reg) (op := 1) hfree rfl).trans (next_settle (portReq_refused hfree.2 hallow))
  case noSelf => exact (does_portReg (i := .portSelfRefresh p .reg) (op := 2) hfree rfl).trans (next_settle (portReq_refused hfree.2 hallow))
  case noWake => exact (does_portReg (i := .portWake p .reg) (op := 3) hfree rfl).trans (next_settle (portReq_refused hfree.2 hallow))
  case on =>
    refine (does_portReg (i := .portOn p .reg) (op := 1) hfree rfl).trans (next_settle ?_)
    rw [portReq_commits hfree.2 (by rw [hst]; rfl) (fun _ h => absurd (hst.symm.trans h) (by decide)) (by decide)]
    exact commitPort_on (cur_placed _ _ _) rfl (by rw [portsMove_placed]; exact hmove) rfl (by rw [pstate_placed]; exact hst)
  case wake =>
    refine (does_portReg (i := .portWake p .reg) (op := 3) hfree rfl).trans (next_settle ?_)
    rw [portReq_commits hfree.2 (by rw [hst]; rfl) (fun h => absurd h (by decide)) (by decide)]
    exact commitPort_wake (cur_placed _ _ _) rfl (by rw [portsMove_placed]; exact hmove) rfl (by rw [pstate_placed]; exact hst) hser
  case resetOff =>
    refine (does_portReg (i := .portReset p .reg) (op := 4) hfree rfl).trans (next_settle ?_)
    rw [portReq_commits hfree.2 rfl (fun h => absurd h (by decide)) (by decide)]
    exact (commitPort_reset (cur_placed _ _ _) rfl (by rw [portsMove_placed]; exact hmove) rfl).trans (if_pos (by rw [pstate_placed]; exact hst))
  case reset =>
    refine (does_portReg (i := .portReset p .reg) (op := 4) hfree rfl).trans (next_settle ?_)
    rw [portReq_commits hfree.2 rfl (fun h => absurd h (by decide)) (by decide)]
    exact (commitPort_reset (cur_placed _ _ _) rfl (by rw [portsMove_placed]; exact hmove) rfl).trans (if_neg (by rw [pstate_placed]; exact hst))
  case cur => exact cur_placed _ _ _
  case pendv => exact flg_pendv_placed rfl _
  case bytes => exact (show SameBytes s (setPortPwr n _ s) from ⟨rfl, rfl, rfl, rfl⟩).trans (ppStat_regs_only n _).sameBytes
  case stopping =>
    refine (show exec (.portStoppingDone p) s = onPort p s (stoppingDone p.val) from rfl).trans ?_
    rw [onPort, hhere, if_pos rfl, stoppingDone, if_neg (not_not.mpr hst)]
  case down => exact hdown
  case shed => exact hshed
  case empty =>
    intro b hlo hhi
    rw [hdram]
    exact byteAt_loseDimms hlo hhi s
  case host0 => exact next_settle (portFrom_handle hstart hport hop)
  case host1 => exact next_settle (portFrom_handle hstart hport hop)
  case host2 => exact next_settle (portFrom_handle hstart hport hop)
  case host3 => exact next_settle (portFrom_handle hstart hport hop)
  case host4 => exact next_settle (portFrom_handle hstart hport hop)
  case lant0 => exact takes_ppwr hmay hv himpl hallow hdram hpf rfl
  case lant1 => exact takes_ppwr hmay hv himpl hallow hdram hpf rfl
  case lant2 => exact takes_ppwr hmay hv himpl hallow hdram hpf rfl
  case lant3 => exact takes_ppwr hmay hv himpl hallow hdram hpf rfl
  case lant4 => exact takes_ppwr hmay hv himpl hallow hdram hpf rfl

end Sys2Proof.Machine
end

section
/-!
The registers of Table 17.10, the capability registers and INT_OUT (R456, R460, R462, R469, R473).
-/

namespace Sys2Proof.Machine

/-! ### Words of two masks -/

/-- Numbers without a common bit add without a carry. -/
theorem add_eq_or_of_and_eq_zero {a b : Nat} (h : a &&& b = 0) : a + b = a ||| b := by
  induction a using Nat.strongRecOn generalizing b with
  | ind a ih =>
    rcases Nat.eq_zero_or_pos a with rfl | hpos
    · rw [Nat.zero_add, Nat.zero_or]
    · have hhalf := ih (a / 2) (by omega) (b := b / 2) (by rw [← Nat.and_div_two, h])
      have hdiv : (a ||| b) / 2 = a / 2 ||| b / 2 := Nat.or_div_two
      have hmod : (a ||| b) % 2 = a % 2 ||| b % 2 := Nat.or_mod_two_pow (n := 1)
      have hboth : a % 2 &&& b % 2 = 0 := by
        rw [← Nat.and_mod_two_pow (n := 1), h]
      have hlow : a % 2 + b % 2 = a % 2 ||| b % 2 := by
        rcases Nat.mod_two_eq_zero_or_one a with ha | ha
        · rw [ha, Nat.zero_add, Nat.zero_or]
        · rcases Nat.mod_two_eq_zero_or_one b with hb | hb
          · rw [hb, Nat.add_zero, Nat.or_zero]
          · rw [ha, hb] at hboth
            exact absurd hboth (by decide)
      omega

theorem and_ldiff_disjoint (v w m : Nat) : (v &&& m) &&& Nat.ldiff w m = 0 := by
  refine Nat.eq_of_testBit_eq fun k => ?_
  rw [Nat.testBit_and, Nat.testBit_and, Nat.testBit_ldiff, Nat.zero_testBit]
  cases m.testBit k with
  | false => rw [Bool.and_false, Bool.false_and]
  | true => rw [Bool.not_true, Bool.and_false, Bool.and_false]

theorem sub_and_eq_ldiff (w m : Nat) : w - (w &&& m) = Nat.ldiff w m := by
  have hall : (w &&& m) ||| Nat.ldiff w m = w := by
    refine Nat.eq_of_testBit_eq fun k => ?_
    rw [Nat.testBit_or, Nat.testBit_and, Nat.testBit_ldiff, ← Bool.and_or_distrib_left, Bool.or_not_self, Bool.and_true]
  have hsum := add_eq_or_of_and_eq_zero (and_ldiff_disjoint w w m)
  rw [hall] at hsum
  omega

theorem testBit_overlay (m v w k : Nat) : (overlay m v w).testBit k = if m.testBit k = true then v.testBit k else w.testBit k := by
  rw [overlay, sub_and_eq_ldiff, add_eq_or_of_and_eq_zero (and_ldiff_disjoint v w m), Nat.testBit_or, Nat.testBit_and, Nat.testBit_ldiff]
  cases m.testBit k with
  | false => simp
  | true => simp

section
variable {s : State} {off v i b : Nat} {d : RegDesc}

/-! ### The table (Table 17.10) -/

theorem mem_of_regFind (h : regFind off = some (d, i)) : d ∈ regTable ∧ (d.stride = 0 → off = d.base) := by
  obtain ⟨e, hmem, he⟩ := List.exists_of_findSome?_eq_some h
  split at he
  · next hstride =>
    split at he
    · next hoff =>
      obtain rfl : e = d := congrArg Prod.fst (Option.some.inj he)
      exact ⟨hmem, fun _ => hoff⟩
    · exact absurd he (by simp)
  · next hstride =>
    split at he
    · exact absurd he (by simp)
    · dsimp only at he
      split at he
      · obtain rfl : e = d := congrArg Prod.fst (Option.some.inj he)
        exact ⟨hmem, fun h => absurd h hstride⟩
      · exact absurd he (by simp)

/-- A staged field is never one that a one clears, and CFG_APPLY stands alone. -/
theorem regTable_masks : (regTable.all fun d => d.rs &&& d.w1c == 0 && (d.base != 0x200 || d.stride == 0)) = true := by decide +kernel

theorem masks_of_regFind (h : regFind off = some (d, i)) : d.rs &&& d.w1c = 0 ∧ (d.base = 0x200 → off = 0x200) := by
  obtain ⟨hmem, hoff⟩ := mem_of_regFind h
  have hd := List.all_eq_true.mp regTable_masks d hmem
  rw [Bool.and_eq_true, beq_iff_eq, Bool.or_eq_true, bne_iff_ne, beq_iff_eq] at hd
  obtain ⟨hmask, hbase⟩ := hd
  exact ⟨hmask, fun h => (hoff (hbase.resolve_left (not_not.mpr h))).trans h⟩

/-! ### Reads (R456) -/

/-- The words that name units of the variant, whose bits of absent units read and write as zero. -/
abbrev unitWords : List Nat := [0x2000C, 0x30028, 0x4003C, 0x40040, 0x6002C]

theorem unitBits_plain (x : Variant) (h : off ∉ unitWords) (w : Nat) : unitBits x off w = w := by
  simp only [List.mem_cons, List.not_mem_nil, or_false, not_or] at h
  obtain ⟨hctx, hport, hret, hlost, hspad⟩ := h
  unfold unitBits
  extract_lets ports
  rw [if_neg hctx, if_neg hport, decide_eq_false hret, decide_eq_false hlost, decide_eq_false hspad]
  rfl

theorem testBit_plainWord (h : regFind off = some (d, i)) (hoff : off ∉ unitWords) (happly : off ≠ 0x200) (hbr : d.base ≠ 0x21008) (k : Nat) :
    (plainWord s off).testBit k = if flg s CFG_RDSEL_FORCE = false ∧ d.rs.testBit k = true then (stagedAt s off d.rst).testBit k
      else (regAt s off d.rst).testBit k := by
  obtain ⟨-, hbase⟩ := masks_of_regFind h
  have hne : d.base ≠ 0x200 := fun h => happly (hbase h)
  unfold plainWord
  rw [h]
  dsimp only
  rw [unitBits_plain _ hoff, if_neg hne, decide_eq_false hbr, Bool.false_and, if_neg Bool.false_ne_true, forceReads]
  cases flg s CFG_RDSEL_FORCE with
  | true => simp
  | false => simp [testBit_overlay]

/-! ### Writes (R460, R462) -/

/-- The staged word after a write, and whether nothing of it differs from the value in force. -/
def stagedNew (s : State) (off : Nat) (d : RegDesc) (w : Nat) : Nat := overlay d.rs w (stagedAt s off d.rst)
def stagedSame (s : State) (off : Nat) (d : RegDesc) (w : Nat) : Bool := stagedNew s off d w = regAt s off d.rst && d.base ≠ 0x90100

theorem stageWord_regs (off : Nat) (d : RegDesc) (w : Nat) (s : State) : (stageWord off d w s).regs = s.regs := by
  unfold stageWord
  split
  · rfl
  · rfl

theorem stageWord_shadow (h : d.rs ≠ 0) (off w : Nat) (s : State) : (stageWord off d w s).shadow =
    if stagedSame s off d w then mdel s.shadow off else mput s.shadow off (BitVec.ofNat 32 (stagedNew s off d w)) := by
  rw [stageWord, if_neg h]
  rfl

theorem forceWord_shadow (off : Nat) (d : RegDesc) (w : Nat) (s : State) : (forceWord off d w s).shadow = s.shadow := by
  unfold forceWord
  extract_lets cur a new
  split
  · rfl
  · rfl

theorem regAt_forceWord_ne {o : Nat} (ho : o ≠ off) (d : RegDesc) (w rst : Nat) (s : State) : regAt (forceWord off d w s) o rst = regAt s o rst := by
  unfold forceWord
  extract_lets cur a new
  split
  · rfl
  · rw [regAt_setWord, if_neg ho]

theorem testBit_forceWord (hb : b < 32) (off : Nat) (d : RegDesc) (w : Nat) (s : State) : (regAt (forceWord off d w s) off d.rst).testBit b =
    if d.w1c.testBit b && w.testBit b then false else if d.rw.testBit b then w.testBit b else (regAt s off d.rst).testBit b := by
  unfold forceWord
  extract_lets cur a new
  have hnew : new.testBit b = if d.w1c.testBit b && w.testBit b then false else if d.rw.testBit b then w.testBit b else cur.testBit b := by
    simp only [new]
    rw [Nat.and_assoc, sub_and_eq_ldiff, Nat.testBit_ldiff, Nat.testBit_and]
    simp only [a]
    rw [testBit_overlay]
    cases d.w1c.testBit b && w.testBit b with
    | true => simp
    | false => simp
  split
  · next hsame => rw [← hnew, hsame]
  · rw [regAt_setWord, if_pos rfl, Nat.testBit_mod_two_pow, decide_eq_true hb, Bool.true_and, hnew]

/-- A write that passes its checks. -/
def written (off : Nat) (d : RegDesc) (w : Nat) (s : State) : State := forceWord off d w (stageWord off d w s)

theorem regAt_stageWord (off : Nat) (d : RegDesc) (w o rst : Nat) (s : State) : regAt (stageWord off d w s) o rst = regAt s o rst := by
  rw [regAt, stageWord_regs, regAt]

theorem testBit_written (hb : b < 32) (off : Nat) (d : RegDesc) (w : Nat) (s : State) : (regAt (written off d w s) off d.rst).testBit b =
    if d.w1c.testBit b && w.testBit b then false else if d.rw.testBit b then w.testBit b else (regAt s off d.rst).testBit b := by
  rw [written, testBit_forceWord hb, regAt_stageWord]

theorem regAt_written_ne {o : Nat} (ho : o ≠ off) (d : RegDesc) (w rst : Nat) (s : State) : regAt (written off d w s) o rst = regAt s o rst := by
  rw [written, regAt_forceWord_ne ho, regAt_stageWord]

theorem stagedAt_written (hrs : d.rs ≠ 0) (hrise : Rising s.shadow) (off w rst : Nat) : stagedAt (written off d w s) off rst =
    if stagedSame s off d w then regAt (written off d w s) off rst else stagedNew s off d w % 2 ^ 32 := by
  rw [stagedAt, written, forceWord_shadow, stageWord_shadow hrs]
  split
  · rw [mget_mdel _ _ _ hrise, if_pos rfl]
    rfl
  · rw [mget_mput, if_pos rfl]
    exact BitVec.toNat_ofNat _ _

theorem stagedAt_written_ne {o : Nat} (ho : o ≠ off) (hrise : Rising s.shadow) (d : RegDesc) (w rst : Nat) :
    stagedAt (written off d w s) o rst = stagedAt s o rst := by
  have hshadow : mget (written off d w s).shadow o = mget s.shadow o := by
    rw [written, forceWord_shadow]
    by_cases hrs : d.rs = 0
    · rw [stageWord, if_pos hrs]
    · rw [stageWord_shadow hrs]
      split
      · rw [mget_mdel _ _ _ hrise, if_neg ho]
      · rw [mget_mput, if_neg ho]
  rw [stagedAt, hshadow, regAt_written_ne ho, stagedAt]

theorem testBit_stagedAt_written (hmask : d.rs &&& d.w1c = 0) (hrise : Rising s.shadow) (hb : b < 32) (hbit : d.rs.testBit b = true) (off w : Nat) :
    (stagedAt (written off d w s) off d.rst).testBit b = w.testBit b := by
  have hrs : d.rs ≠ 0 := by
    intro h
    rw [h, Nat.zero_testBit] at hbit
    exact Bool.false_ne_true hbit
  have hclear : d.w1c.testBit b = false := by
    have h : (d.rs &&& d.w1c).testBit b = false := by rw [hmask, Nat.zero_testBit]
    rwa [Nat.testBit_and, hbit, Bool.true_and] at h
  have hnew : (stagedNew s off d w).testBit b = w.testBit b := by rw [stagedNew, testBit_overlay, if_pos hbit]
  rw [stagedAt_written hrs hrise]
  split
  · next hsame =>
    rw [stagedSame, Bool.and_eq_true, decide_eq_true_eq] at hsame
    obtain ⟨hforce, -⟩ := hsame
    rw [testBit_written hb, hclear, Bool.false_and, if_neg Bool.false_ne_true, ← hforce, hnew, ite_self]
  · rw [Nat.testBit_mod_two_pow, decide_eq_true hb, Bool.true_and, hnew]

theorem plainWrite_checked (h : regFind off = some (d, i)) (hfields : d.rs ≠ 0 ∨ d.rw ≠ 0 ∨ d.w1c ≠ 0) (v : Nat) (s : State) : plainWrite off v s =
    if writeFail s d i off (unitBits s.part.variant off v) ≠ 0 then reject off (writeFail s d i off (unitBits s.part.variant off v)) s
    else written off d (unitBits s.part.variant off v) s := by
  have hsome : ¬ (decide (d.rs = 0) && decide (d.rw = 0) && decide (d.w1c = 0)) = true := by
    rw [Bool.and_eq_true, Bool.and_eq_true, decide_eq_true_eq, decide_eq_true_eq, decide_eq_true_eq]
    tauto
  unfold plainWrite
  rw [h]
  exact if_neg hsome

/-! ### INT_OUT (R473) -/

theorem testBit_foldl_or (P : Nat → Prop) [DecidablePred P] (f : Nat → Nat) (l : List Nat) (m n : Nat) :
    (l.foldl (fun acc c => if P c then acc ||| 2 ^ f c else acc) m).testBit n = (m.testBit n || l.any fun c => decide (P c) && f c == n) := by
  induction l generalizing m with
  | nil => rw [List.foldl_nil, List.any_nil, Bool.or_false]
  | cons c l ih =>
    rw [List.foldl_cons, ih, List.any_cons]
    by_cases hP : P c
    · rw [if_pos hP, decide_eq_true hP, Bool.true_and, Nat.testBit_or, Nat.testBit_two_pow, Bool.or_assoc]
      rfl
    · rw [if_neg hP, decide_eq_false hP, Bool.false_and, Bool.false_or]

/-- An output shows the causes that are latched, enabled and routed to it. -/
theorem testBit_intLevel (s : State) (n : Nat) : (intLevel s).testBit n = (!s.pw.inReset && (List.range 47).any fun c =>
    bits (regAt s (0x100 + 4 * (c / 32)) 0) (c % 32) 1 == 1 && bits (regAt s (0x108 + 4 * (c / 32)) 0) (c % 32) 1 == 1 &&
      bits (regAt s (0x140 + 4 * (c / 4)) 0) (8 * (c % 4)) 5 == n) := by
  unfold intLevel
  cases s.pw.inReset with
  | true => rw [if_pos rfl, Nat.zero_testBit, Bool.not_true, Bool.false_and]
  | false =>
    rw [if_neg Bool.false_ne_true]
    dsimp only
    rw [testBit_foldl_or, Nat.zero_testBit, Bool.false_or, Bool.not_false, Bool.true_and]
    simp only [Bool.decide_and]
    rfl

/-! ### Capabilities (R469) -/

theorem windowRead_ident (hin : s.pw.inReset = false) {off : Nat} (hlt : off < 0x100) (h4 : off ≠ 4) (hword : off % 4 = 0) :
    windowRead s off = BitVec.ofNat 32 (identWord s off) := by
  have hunit : unitThere s off = true := by
    simp only [unitThere, Bool.and_eq_true, decide_eq_true_eq]
    rw [if_neg (by omega), if_neg (by omega), if_neg (by omega), if_neg (by omega), if_neg (by omega), if_neg (by omega), if_neg (by omega),
      if_neg (by omega)]
  have happart : apartWord s off = some (identWord s off) := by
    unfold apartWord
    rw [if_pos (by simp [hlt, h4])]
  simp only [windowRead, hin, hunit, happart, hword, Bool.and_eq_true, decide_eq_true_eq]
  rw [if_neg (by simp), if_neg (by simp), if_neg (by omega), if_neg (by omega)]
  rfl

/-- The capability registers. -/
abbrev capOffsets : List Nat := [0x10, 0x14, 0x18, 0x1C, 0x20, 0x24, 0x28]

theorem windowRead_caps (hin : s.pw.inReset = false) :
    capOffsets.map (windowRead s) = (capOffsets.map (identWord s)).map (BitVec.ofNat 32) := by
  rw [List.map_map]
  refine List.map_congr_left fun off hmem => ?_
  have hrange : ∀ o ∈ capOffsets, o < 0x100 ∧ o ≠ 4 ∧ o % 4 = 0 := by decide
  obtain ⟨hlt, h4, hword⟩ := hrange off hmem
  exact windowRead_ident hin hlt h4 hword

end

/-- Settles O51: a stored word is its mask laid over the old one, bit by bit, and the shadow holds what the force does not. -/
theorem registerFields : Obligations.RegisterFields := by
  unfold Obligations.RegisterFields
  intro s off v d i n w r caps
  refine ⟨fun hin hx => ?full, fun hin hx => ?mid, fun hin hx => ?small, fun hn => ?level, fun hfind hoff hbr b hb => ?reads,
    fun hfind hfields hv hr => ?refused, fun hfind hfields hv hr => ?stored⟩
  case full =>
    refine (windowRead_caps hin).trans (congrArg _ ?_)
    simp only [List.map_cons, List.map_nil, identWord, hx]
    decide
  case mid =>
    refine (windowRead_caps hin).trans (congrArg _ ?_)
    simp only [List.map_cons, List.map_nil, identWord, hx]
    decide
  case small =>
    refine (windowRead_caps hin).trans (congrArg _ ?_)
    simp only [List.map_cons, List.map_nil, identWord, hx]
    decide
  case level => exact testBit_intLevel s n
  case reads =>
    exact testBit_plainWord hfind (fun h => hoff (List.mem_cons_of_mem _ h)) (fun h => hoff (h ▸ List.mem_cons_self)) hbr b
  case refused => rw [plainWrite_checked hfind hfields, if_pos hr]
  case stored =>
    obtain ⟨hmask, -⟩ := masks_of_regFind hfind
    refine ⟨written off d w s, ?_, fun b hb => testBit_written hb off d w s, fun hrise b hb hbit => testBit_stagedAt_written hmask hrise hb hbit off w,
      fun o ho rst => ⟨regAt_written_ne ho d w rst s, fun hrise => stagedAt_written_ne ho hrise d w rst⟩⟩
    rw [plainWrite_checked hfind hfields, if_neg (not_not.mpr hr)]

end Sys2Proof.Machine
end

section
/-!
The boundaries at which staged registers come into force and the passes of the configuration CRC (R460, R461, R463, R467, R468).
-/

namespace Sys2Proof.Machine

variable {s : State}

/-! ### The global boundary (R460, R461) -/

/-- A global boundary after the staged words are in `t`: the images are copied, the boundary is dated and a pass starts. -/
def boundaryAfter (s t : State) : State :=
  passStart s { saveImages t with cfg := { (saveImages t).cfg with globalAt := s.clk, kick := none } }

theorem globalBoundary_early (h : globalDue s = false) : globalBoundary s = s := by
  rw [globalBoundary, h]
  exact if_pos rfl

theorem globalBoundary_due (h : globalDue s = true) :
    globalBoundary s = boundaryAfter s (if flg s CFG_APPLY_HOLD = true then s else globalApply s) := by
  rw [globalBoundary, h]
  exact if_neg Bool.false_ne_true

theorem globalBoundary_applies (h : globalDue s = true) (hhold : flg s CFG_APPLY_HOLD = false) :
    globalBoundary s = boundaryAfter s (globalApply s) := by
  rw [globalBoundary_due h, hhold, if_neg Bool.false_ne_true]

theorem globalBoundary_held (h : globalDue s = true) (hhold : flg s CFG_APPLY_HOLD = true) :
    globalBoundary s = boundaryAfter s s := by
  rw [globalBoundary_due h, if_pos hhold]

theorem does_globalBoundary {t : State} (h : globalBoundary s = t) : Does s .globalBoundary t :=
  (show exec .globalBoundary s = execGlobalBoundary s from rfl).trans (next_settle h)

/-! ### Check groups (R463) -/

theorem regs_dropAll (l : List Nat) (s : State) : (dropAll l s).regs = s.regs := by
  induction l generalizing s with
  | nil => rfl
  | cons off l ih => exact ih (dropShadow off s)

section
variable {mine : Nat → Bool} {good : State → Bool} {lo : Nat} {l : List Nat}

theorem applyGroup_pending (h : pendingIn s mine = lo :: l) :
    applyGroup mine good s =
      if good (applyAll (lo :: l) s) = true then applyAll (lo :: l) s else reject lo 4 (dropAll (lo :: l) s) := by
  rw [applyGroup, h]

theorem applyGroup_good (h : pendingIn s mine = lo :: l) (hgood : good (applyAll (lo :: l) s) = true) :
    applyGroup mine good s = applyAll (lo :: l) s := by
  rw [applyGroup_pending h, if_pos hgood]

theorem applyGroup_bad (h : pendingIn s mine = lo :: l) (hbad : good (applyAll (lo :: l) s) = false) :
    applyGroup mine good s = reject lo 4 (dropAll (lo :: l) s) := by
  rw [applyGroup_pending h, hbad, if_neg Bool.false_ne_true]

end

/-! ### The port boundary (R460) -/

/-- The staged words of port n that its boundary applies: under HOLD only those of the engine (R461, R465). -/
def portStaged (n : Nat) (s : State) : List Nat :=
  (pendingIn s fun off => 0x200000 + n * 0x10000 ≤ off && off < 0x210000 + n * 0x10000).filter fun off =>
    !flg s CFG_APPLY_HOLD || s.cfg.own.contains off

/-- The port's staged words in force, with the main tap and the loop test that follow from them. -/
def portApplied (n : Nat) (s : State) : State := mainTap n (loopSet n ((portStaged n s).foldl (applyPortReg n) s))

/-- The words that a port boundary applied are no longer the engine's own staged words. -/
def portOwned (n : Nat) (s : State) : State :=
  { portApplied n s with
    cfg := { (portApplied n s).cfg with own := (portApplied n s).cfg.own.filter fun off => !(portStaged n s).contains off } }

theorem portOf_crcRestart (t : State) (n : Nat) : portOf (crcRestart s t) n = portOf t n := by
  unfold crcRestart
  split <;> rfl

theorem portBoundary_due {n : Nat} (hopen : boundaryOpen s = true) (hdue : portDue s n = true)
    (hlead : (portOf (portApplied n s) n).marks.leadNew = none) : portBoundary n s = crcRestart s (portOwned n s) := by
  have hgo : ¬ (!boundaryOpen s || !portDue s n) = true := by rw [hopen, hdue]; decide
  have hmatch : (portOf (crcRestart s (portOwned n s)) n).marks.leadNew = none := by rw [portOf_crcRestart]; exact hlead
  refine (if_neg hgo).trans ?_
  change (match (portOf (crcRestart s (portOwned n s)) n).marks.leadNew with
    | some k => setLead n k (crcRestart s (portOwned n s))
    | none => crcRestart s (portOwned n s)) = _
  rw [hmatch]

theorem does_portBoundary {p : Fin 20} {t : State} (hhere : PortHere s p) (h : portBoundary p.val s = t) :
    Does s (.portBoundary p) t := by
  refine (show exec (.portBoundary p) s = onPort p s (portBoundary p.val) from rfl).trans ?_
  rw [onPort, hhere, if_pos rfl]
  exact next_settle h

/-! ### The end of a pass of the configuration CRC (R467, R468) -/

/-- A pass over so many words that ended with the given CRC shows both and is not busy. -/
def passShown (crc words : Nat) (s : State) : State :=
  setFld CFG_CRC_CUR_CUR 0 crc (setFld CFG_CRC_LEN_WORDS 0 words (setFld CFG_CRC_STAT_BUSY 0 0 s))

/-- A commit pass makes its CRC the reference. -/
def passCommitted (crc : Nat) (s : State) : State :=
  setFld CFG_CRC_REF_REF 0 crc (setFld CFG_CRC_STAT_ARMED 0 0 (setFld CFG_CRC_STAT_COMMITTED 0 1
    { s with cfg := { s.cfg with byCommit := false } }))

/-- A check pass whose CRC is not the reference sets the alarm, and raises its cause when it was not set. -/
def passAlarm (had : Bool) (s : State) : State := setFld CFG_CRC_STAT_ALARM 0 1 (if had then s else raise 46 s)

theorem passEndNow_commit (h : s.cfg.byCommit = true) :
    passEndNow s = passCommitted (crcOf s) (passShown (crcOf s) (crcMessage s).length s) := by
  rw [passEndNow, h]
  exact if_pos rfl

/-- A check pass that ended with the given CRC is counted. -/
def passCounted (crc words : Nat) (s : State) : State := addFld CFG_CRC_STAT_PASSES 0 1 (passShown crc words s)

theorem passEndNow_check (h : s.cfg.byCommit = false) (hen : flg s CFG_CRC_CTL_EN = true) (harmed : flg s CFG_CRC_STAT_ARMED = false) :
    passEndNow s =
      if crcOf s = fld s CFG_CRC_REF_REF then passCounted (crcOf s) (crcMessage s).length s
      else passAlarm (flg s CFG_CRC_STAT_ALARM) (passCounted (crcOf s) (crcMessage s).length s) := by
  rw [passEndNow, h, hen, harmed]
  refine (if_neg Bool.false_ne_true).trans ?_
  exact if_neg (by decide)

theorem gives_crcPassEnd (hbusy : flg s CFG_CRC_STAT_BUSY = true) (hopen : boundaryOpen s = true)
    (hdone : s.cfg.crcAt + passTicks s ≤ s.clk) : Gives s .crcPassEnd (passEndNow s) := by
  have hgo : (flg s CFG_CRC_STAT_BUSY && boundaryOpen s && decide (s.cfg.crcAt + passTicks s ≤ s.clk)) = true := by
    rw [hbusy, hopen, decide_eq_true hdone]
    rfl
  exact (show exec .crcPassEnd s = execCrcPassEnd s from rfl).trans (congrArg Host.Outcome.next (if_pos hgo))

section
variable {crc words : Nat}

theorem fld_passShown_cur : fld (passShown crc words s) CFG_CRC_CUR_CUR = crc % 2 ^ 32 := fld_setFld_same _ _ _ _ (by decide)

theorem flg_passShown_busy : flg (passShown crc words s) CFG_CRC_STAT_BUSY = false := by
  rw [passShown, flg_setFld_apart (by decide), flg_setFld_apart (by decide), flg_setFld_same _ _ _ _ (by decide)]
  rfl

/-- The end of a pass shows nothing but its CRC, its length and that it is over. -/
theorem fld_passShown {f : Fld} (hcur : f.Apart CFG_CRC_CUR_CUR) (hlen : f.Apart CFG_CRC_LEN_WORDS) (hbusy : f.Apart CFG_CRC_STAT_BUSY) :
    fld (passShown crc words s) f = fld s f := by
  rw [passShown, fld_setFld_apart hcur, fld_setFld_apart hlen, fld_setFld_apart hbusy]

theorem fld_passCommitted_ref : fld (passCommitted crc s) CFG_CRC_REF_REF = crc % 2 ^ 32 := fld_setFld_same _ _ _ _ (by decide)

/-- A commit pass changes no field but the reference, ARMED and COMMITTED. -/
theorem fld_passCommitted {f : Fld} (href : f.Apart CFG_CRC_REF_REF) (harmed : f.Apart CFG_CRC_STAT_ARMED)
    (hcommitted : f.Apart CFG_CRC_STAT_COMMITTED) : fld (passCommitted crc s) f = fld s f := by
  rw [passCommitted, fld_setFld_apart href, fld_setFld_apart harmed, fld_setFld_apart hcommitted]
  rfl

theorem flg_passCommitted_committed : flg (passCommitted crc s) CFG_CRC_STAT_COMMITTED = true := by
  rw [passCommitted, flg_setFld_apart (by decide), flg_setFld_apart (by decide), flg_setFld_same _ _ _ _ (by decide)]
  rfl

theorem flg_passCommitted_armed : flg (passCommitted crc s) CFG_CRC_STAT_ARMED = false := by
  rw [passCommitted, flg_setFld_apart (by decide), flg_setFld_same _ _ _ _ (by decide)]
  rfl

/-- A counted check pass shows what every pass shows and changes PASSES beside it. -/
theorem fld_passCounted {f : Fld} (h : f.Apart CFG_CRC_STAT_PASSES) : fld (passCounted crc words s) f = fld (passShown crc words s) f := by
  rw [passCounted, addFld, fld_setFld_apart h]

theorem fld_passCounted_passes :
    fld (passCounted crc words s) CFG_CRC_STAT_PASSES = min (fld s CFG_CRC_STAT_PASSES + 1) 65535 := by
  rw [passCounted, fld_addFld_same (by decide), fld_passShown (by decide) (by decide) (by decide)]
  rfl

/-- The alarm of a check pass changes no other field above the interrupt registers. -/
theorem fld_passAlarm {had : Bool} {f : Fld} (h : f.Apart CFG_CRC_STAT_ALARM) (hf : 0x200 ≤ f.base) : fld (passAlarm had s) f = fld s f := by
  rw [passAlarm, fld_setFld_apart h]
  split
  · rfl
  · exact fld_raise_high hf (by decide) s

theorem flg_passAlarm {had : Bool} : flg (passAlarm had s) CFG_CRC_STAT_ALARM = true := by
  rw [passAlarm, flg_setFld_same _ _ _ _ (by decide)]
  rfl

end

theorem passEnd_commits (h : s.cfg.byCommit = true) :
    fld (passEndNow s) CFG_CRC_REF_REF = crcOf s % 2 ^ 32 ∧ fld (passEndNow s) CFG_CRC_CUR_CUR = crcOf s % 2 ^ 32 ∧
      flg (passEndNow s) CFG_CRC_STAT_COMMITTED = true ∧ flg (passEndNow s) CFG_CRC_STAT_ARMED = false ∧
      flg (passEndNow s) CFG_CRC_STAT_BUSY = false := by
  rw [passEndNow_commit h]
  refine ⟨fld_passCommitted_ref, ?_, flg_passCommitted_committed, flg_passCommitted_armed, ?_⟩
  · rw [fld_passCommitted (by decide) (by decide) (by decide), fld_passShown_cur]
  · rw [flg, fld_passCommitted (by decide) (by decide) (by decide)]
    exact flg_passShown_busy

/-- A check pass keeps the reference, shows its CRC, is over and counted, whether it matched or not. -/
theorem passEnd_check_shows (h : s.cfg.byCommit = false) (hen : flg s CFG_CRC_CTL_EN = true)
    (harmed : flg s CFG_CRC_STAT_ARMED = false) :
    fld (passEndNow s) CFG_CRC_REF_REF = fld s CFG_CRC_REF_REF ∧ fld (passEndNow s) CFG_CRC_CUR_CUR = crcOf s % 2 ^ 32 ∧
      flg (passEndNow s) CFG_CRC_STAT_BUSY = false ∧
      fld (passEndNow s) CFG_CRC_STAT_PASSES = min (fld s CFG_CRC_STAT_PASSES + 1) 65535 := by
  have hcount {f : Fld} (hf : f.Apart CFG_CRC_STAT_ALARM) (hhigh : 0x200 ≤ f.base) :
      fld (passEndNow s) f = fld (passCounted (crcOf s) (crcMessage s).length s) f := by
    rw [passEndNow_check h hen harmed]
    split
    · rfl
    · exact fld_passAlarm hf hhigh
  refine ⟨?_, ?_, ?_, ?_⟩
  · rw [hcount (by decide) (by decide), fld_passCounted (by decide), fld_passShown (by decide) (by decide) (by decide)]
  · rw [hcount (by decide) (by decide), fld_passCounted (by decide), fld_passShown_cur]
  · rw [flg, hcount (by decide) (by decide), fld_passCounted (by decide)]
    exact flg_passShown_busy
  · rw [hcount (by decide) (by decide), fld_passCounted_passes]

theorem passEnd_check_alarm (h : s.cfg.byCommit = false) (hen : flg s CFG_CRC_CTL_EN = true)
    (harmed : flg s CFG_CRC_STAT_ARMED = false) (hcrc : crcOf s ≠ fld s CFG_CRC_REF_REF) :
    flg (passEndNow s) CFG_CRC_STAT_ALARM = true := by
  rw [passEndNow_check h hen harmed, if_neg hcrc, flg_passAlarm]

theorem passEnd_check_match (h : s.cfg.byCommit = false) (hen : flg s CFG_CRC_CTL_EN = true)
    (harmed : flg s CFG_CRC_STAT_ARMED = false) (hcrc : crcOf s = fld s CFG_CRC_REF_REF) :
    flg (passEndNow s) CFG_CRC_STAT_ALARM = flg s CFG_CRC_STAT_ALARM := by
  rw [passEndNow_check h hen harmed, if_pos hcrc, flg, fld_passCounted (by decide), fld_passShown (by decide) (by decide) (by decide), flg]

/-- Settles O52: a global boundary by HOLD, a group by its check, a port boundary through its staged words, and the end of a pass by the
fields it sets. -/
theorem registerBoundaries : Obligations.RegisterBoundaries := by
  unfold Obligations.RegisterBoundaries
  intro s p lo l mine good n after ours staged' w crc ends
  refine ⟨?_, ?_, ?_, ?_, ?_, ?_, ?_, ?_⟩
  · exact fun hdue hhold => does_globalBoundary (globalBoundary_applies hdue hhold)
  · exact fun hdue hhold => does_globalBoundary (globalBoundary_held hdue hhold)
  · exact fun hearly => does_globalBoundary (globalBoundary_early hearly)
  · exact fun hl hbad => ⟨applyGroup_bad hl hbad, regs_dropAll _ s⟩
  · exact fun hl hgood => applyGroup_good hl hgood
  · exact fun hhere hopen hdue hlead => does_portBoundary hhere (portBoundary_due hopen hdue hlead)
  · rintro ⟨hbusy, hopen, hdone⟩ hcommit
    exact ⟨_, gives_crcPassEnd hbusy hopen hdone, passEnd_commits hcommit⟩
  · rintro ⟨hbusy, hopen, hdone⟩ hcheck hen harmed
    obtain ⟨href, hcur, hidle, hpasses⟩ := passEnd_check_shows hcheck hen harmed
    exact ⟨_, gives_crcPassEnd hbusy hopen hdone, href, hcur, hidle, hpasses, passEnd_check_alarm hcheck hen harmed,
      passEnd_check_match hcheck hen harmed⟩

end Sys2Proof.Machine
end
